-- ==== Sys2Proof/Word.lean ====
section
/-!
DEFINITION. Word.lean: the word and byte types of the part and their plainest arithmetic.
Numbers are little-endian in registers and memory (R12); bit 0 is the least significant bit (R11).
-/
namespace Sys2Proof

/-- One byte of a memory, a packet or a console line. -/
abbrev Byte := BitVec 8

/-- A 32-bit register or memory word. -/
abbrev Word := BitVec 32

/-- The four bytes of a word, little-endian (R12). -/
def Word.bytes (w : Word) : List Byte :=
  [w.extractLsb' 0 8, w.extractLsb' 8 8, w.extractLsb' 16 8, w.extractLsb' 24 8]

/-- A number from little-endian bytes (R12). -/
def leNat : List Byte → Nat
  | [] => 0
  | b :: t => b.toNat + 256 * leNat t

/-- A number from big-endian bytes, the order of the cryptographic standards (R12). -/
def beNat (l : List Byte) : Nat := l.foldl (fun a b => a * 256 + b.toNat) 0

/-- The `n` little-endian bytes of a number. -/
def leBytes : Nat → Nat → List Byte
  | 0, _ => []
  | n + 1, v => BitVec.ofNat 8 v :: leBytes n (v / 256)

/-- The `n` big-endian bytes of a number. -/
def beBytes (n v : Nat) : List Byte := (leBytes n v).reverse

/-- The word of four little-endian bytes. -/
def Word.ofBytes (l : List Byte) : Word := BitVec.ofNat 32 (leNat (l.take 4))

/-- ⌈a / b⌉. -/
def ceilDiv (a b : Nat) : Nat := (a + b - 1) / b

/-- Addition that stops at `max`: every counter the spec calls saturating. -/
def satAdd (max a b : Nat) : Nat := Nat.min max (a + b)

/-- Serial order of 32-bit sequences (R426): `a` is higher than `b`. -/
def serialAfter (a b : Word) : Bool :=
  let d := (a - b).toNat
  decide (1 ≤ d) && decide (d ≤ 2 ^ 31 - 1)

end Sys2Proof
end

