-- ==== Sys2Proof/Machine/Names.lean ====
section
/-!
DEFINITION. Names.lean: the fixed sets of names of the spec (modes, agents, stages, responses, reset kinds, owners of jobs,
functions of ports) and the records that commands carry as operands.
-/
namespace Sys2Proof.Machine

/-- The twelve modes (R76, Table 3.2). -/
inductive Mode where
  | cellar | rise | foundry | fit | service | workshop | inspect | doze | hold | quarantine | erased | retired
deriving DecidableEq, Repr

/-- SYS_MODE.MODE codes (Table 3.2). -/
def Mode.code : Mode → Nat
  | .cellar => 0 | .rise => 1 | .foundry => 2 | .fit => 3 | .service => 4 | .workshop => 5
  | .inspect => 6 | .doze => 7 | .hold => 8 | .quarantine => 9 | .erased => 10 | .retired => 11

/-- The mode of a code (R76); codes 0xC to 0xF are never produced. -/
def Mode.ofCode : Nat → Option Mode
  | 0 => some .cellar | 1 => some .rise | 2 => some .foundry | 3 => some .fit | 4 => some .service
  | 5 => some .workshop | 6 => some .inspect | 7 => some .doze | 8 => some .hold | 9 => some .quarantine
  | 10 => some .erased | 11 => some .retired | _ => none

/-- FIT, SERVICE, WORKSHOP, INSPECT, DOZE: the running modes (Tables 2.6, 17.5). -/
def Mode.running : Mode → Bool
  | .fit | .service | .workshop | .inspect | .doze => true
  | _ => false

/-- The modes in which the cores are held in reset (Table 10.5). -/
def Mode.coresReset : Mode → Bool
  | .rise | .foundry | .quarantine | .erased | .retired => true
  | _ => false

/-- Any main mode: the main domain is powered (Table 3.5). -/
def Mode.main : Mode → Bool
  | .cellar => false
  | _ => true

/-- Hatch agents and bus masters (Table 1.4). -/
inductive Agent where
  | con | care | cpu0 | cpu1
deriving DecidableEq, Repr

/-- Agent codes (Table 1.4). -/
def Agent.code : Agent → Nat
  | .con => 0 | .care => 1 | .cpu0 => 2 | .cpu1 => 3

/-- The agent of a code. -/
def Agent.ofCode : Nat → Agent
  | 0 => .con | 1 => .care | 2 => .cpu0 | _ => .cpu1

/-- The two application cores, CPU0 and CPU1. -/
abbrev CpuId := Fin 2

/-- The bus master of a core. -/
def CpuId.agent (c : CpuId) : Agent := if c.val = 0 then .cpu0 else .cpu1

/-- The core of an agent. -/
def Agent.cpu : Agent → Option CpuId
  | .cpu0 => some 0 | .cpu1 => some 1 | _ => none

/-- Planes (Table 1.2); the meeting points belong to none. -/
inductive Plane where
  | control | data | management | meeting
deriving DecidableEq, Repr

/-- The plane of an agent (R16). -/
def Agent.plane : Agent → Plane
  | .con => .control | .care => .management | .cpu0 => .data | .cpu1 => .data

/-- Lifecycle stages (Table 3.3). -/
inductive Stage where
  | foundry | fit | sealed | erased | retired
deriving DecidableEq, Repr

/-- SYS_LIFE.STAGE codes (Table 3.11). -/
def Stage.code : Stage → Nat
  | .foundry => 0 | .fit => 1 | .sealed => 2 | .erased => 3 | .retired => 4

/-- Reset kinds (Table 3.7), in the order of R94. -/
inductive ResetKind where
  | cold | warm | cellarLoss | erase
deriving DecidableEq, Repr

/-- SYS_RSTCAUSE.KIND codes (Table 3.11). -/
def ResetKind.code : ResetKind → Nat
  | .cold => 0 | .warm => 1 | .cellarLoss => 2 | .erase => 3

/-- SYS_RSTCAUSE.WHY (Table 3.11). -/
inductive Why where
  | rstN | watchdog (c : CpuId) | miandReset | resetResponse | unlockOrLife
deriving DecidableEq, Repr

/-- WHY codes (Table 3.11). -/
def Why.code : Why → Nat
  | .rstN => 0 | .watchdog c => 1 + c.val | .miandReset => 3 | .resetResponse => 4 | .unlockOrLife => 5

/-- Watch responses (Table 17.4). -/
inductive Resp where
  | none | log | notify | hold | reset | lock | erase
deriving DecidableEq, Repr

/-- Response codes (Table 17.4). -/
def Resp.code : Resp → Nat
  | .none => 0 | .log => 1 | .notify => 2 | .hold => 3 | .reset => 4 | .lock => 5 | .erase => 6

/-- The response of a code; 7 is reserved, the part treats it as LOCK (Table 17.4, R8). -/
def Resp.ofCode : Nat → Resp
  | 0 => .none | 1 => .log | 2 => .notify | 3 => .hold | 4 => .reset | 5 => .lock | 6 => .erase | _ => .lock

/-- Watch source IDs 0x00 to 0x57 (Table 17.2); reserved IDs included, since their registers exist and read 0. -/
abbrev SrcId := Fin 0x58

/-- Owners of jobs (Table 2.9). -/
inductive JobOwner where
  | cpu (c : CpuId) | pke | sym | str | arc
deriving DecidableEq, Repr

/-- The owner of W0.OWNER; 6 and 7 are reserved, the part treats them as VALID = 0. -/
def JobOwner.ofCode : Nat → Option JobOwner
  | 0 => some (.cpu 0) | 1 => some (.cpu 1) | 2 => some .pke | 3 => some .sym | 4 => some .str | 5 => some .arc | _ => none

/-- The owner code of Table 2.9. -/
def JobOwner.code : JobOwner → Nat
  | .cpu c => c.val | .pke => 2 | .sym => 3 | .str => 4 | .arc => 5

/-- The engines that have landing points (Table 2.5). -/
inductive Engine where
  | spipe | ppipe | storeRoom | archive | sym
deriving DecidableEq, Repr

/-- Port functions (Table 6.1). -/
inductive PortFn where
  | off | gpio | uart | card | spic | dual | pulse | pulseout | loop | switch | pps
deriving DecidableEq, Repr

/-- FN codes (Table 6.1); 11 to 15 are reserved, the part treats them as OFF. -/
def PortFn.ofCode : Nat → PortFn
  | 1 => .gpio | 2 => .uart | 3 => .card | 4 => .spic | 5 => .dual | 6 => .pulse | 7 => .pulseout
  | 8 => .loop | 9 => .switch | 10 => .pps | _ => .off

/-- FN codes (Table 6.1). -/
def PortFn.code : PortFn → Nat
  | .off => 0 | .gpio => 1 | .uart => 2 | .card => 3 | .spic => 4 | .dual => 5 | .pulse => 6
  | .pulseout => 7 | .loop => 8 | .switch => 9 | .pps => 10

/-- Ports P0 to P23. -/
abbrev PortId := Fin 24
/-- Queues Q0 to Q63. -/
abbrev QueueId := Fin 64
/-- Counters CTR0 to CTR63. -/
abbrev CtrId := Fin 64
/-- Job entries J0 to J63. -/
abbrev JobId := Fin 64

/-- Store Room regions (Table 12.2). -/
inductive Region where
  | k | c | a0 | a1
deriving DecidableEq, Repr

/-- REGION codes (Table 12.2). -/
def Region.code : Region → Nat
  | .k => 0 | .c => 1 | .a0 => 2 | .a1 => 3

/-- The region of a two-bit code. -/
def Region.ofCode : Nat → Region
  | 0 => .k | 1 => .c | 2 => .a0 | _ => .a1

/-- Waivia image kinds (Table 10.4 byte 5). -/
inductive ImgKind where
  | fw | uc | app
deriving DecidableEq, Repr

/-- KIND codes (Table 10.4). -/
def ImgKind.code : ImgKind → Nat
  | .fw => 0 | .uc => 1 | .app => 2

/-- What a register write of a core or of the Caretaker names: a device register by its offset from 0x4000_0000,
or a machine-level CSR of the writing core (Table 10.6). -/
inductive RegRef where
  | dev (off : BitVec 20)
  | csr (num : BitVec 12) (rd : Fin 32)
deriving DecidableEq, Repr

/-- The tag of a console line and whether it ends in a correct check (R121 to R123). -/
structure Line where
  /-- @tt, when present (R121). -/
  tag : Option Byte
  /-- a correct *cccc stands at the end (R122). -/
  chk : Bool
deriving DecidableEq, Repr

/-- Who asks an engine for an operation (R391, R409): a job, a direct channel, the Vault for a writer, the image verifier. -/
inductive EngReq where
  | job (j : JobId)
  | direct (c : CpuId)
  | vault (a : Agent)
  | image
deriving DecidableEq, Repr

/-- Direct PKE command fields of Table 13.3 beside OP. -/
structure PkeArgs where
  curve : BitVec 4
  src : Bool
  pss : Bool
  nw : BitVec 8
  role : Byte
  keyid : Word
  sa : BitVec 10
  sb : BitVec 10
  sc : BitVec 10
  sd : BitVec 10
deriving DecidableEq, Repr

/-- Direct SYM command fields of Table 14.3 beside OP. -/
structure SymArgs where
  ksrc : BitVec 2
  klen : BitVec 2
  first : Bool
  last : Bool
  dir : Bool
  ctx : BitVec 3
  curve : BitVec 4
  role : Byte
  keyid : Word
  src : Word
  dst : Word
  len : BitVec 16
  aadlen : BitVec 16
  padr : Word
  kadr : Word
deriving DecidableEq, Repr

/-- A pin's new level, and the consecutive samples for which it has held (R197, R212). -/
structure PinEdge where
  lvl : Bool
  held : BitVec 12
deriving DecidableEq, Repr

/-- An edge with its time after the tick edge, in quarter ns (R212, R217). -/
structure TimedEdge where
  lvl : Bool
  t : BitVec 26
  held : BitVec 12
deriving DecidableEq, Repr

/-- The level of a port's presence pin, and the ms for which it has held (R204). -/
structure PresSense where
  p : PortId
  lvl : Bool
  ms : Byte
deriving DecidableEq, Repr

/-- An ATR: the card clocks before it started, and its bytes (R204). -/
structure CardAtr where
  t : BitVec 16
  l : List Byte
deriving DecidableEq, Repr

/-- For how long a port's line has been silent: a card's in card clocks (R207), a UART's in bit times (R201). -/
structure PortWait where
  p : PortId
  t : Word
deriving DecidableEq, Repr

/-- The parity bit and the stop bits, first in bit 0, that a UART character arrives with (R200, R201). -/
structure CharEnd where
  par : Bool
  stop : BitVec 2
deriving DecidableEq, Repr

/-- A source that reads clean, and the consecutive samples for which it has (R483). -/
structure SrcQuiet where
  n : SrcId
  held : Nat
deriving DecidableEq, Repr

/-- A character that a card sends: its byte, and how often it arrives with a parity error first (R203, R207). -/
structure CardChar where
  b : Byte
  bad : Byte
deriving DecidableEq, Repr

/-- What the pins of a bank C port show at a Cellar sample: the levels, and the 32 bits of B in a PRBS burst, first bit in bit 0
(R227). -/
structure CelPins where
  p : PortId
  a : Bool
  b : Bool
  burst : Word
deriving DecidableEq, Repr

/-- A Hostlink header (R231). -/
structure HlkHdr where
  op : Byte
  qid : Byte
  len : BitVec 16
deriving DecidableEq, Repr

/-- Which of two detectors of a source read tripped at a sample (R477). -/
structure DetReading where
  a : Bool
  b : Bool
deriving DecidableEq, Repr

/-- A source at a sample, with its detectors' readings and the number of consecutive tripped samples that this one completes
(R33, R483). -/
structure OnsetArg where
  src : SrcId
  det : DetReading
  held : Nat
deriving DecidableEq, Repr

/-- What the Cellar reads at one sample: the tripped sources, and the pins of the bank C ports (R227, R495). -/
structure CelSample where
  srcs : List OnsetArg
  ports : List CelPins
deriving DecidableEq, Repr

/-- What a port's pins show at a tick edge: the levels, the consecutive samples for which they have held, and those at which
DUAL's filtered channels have agreed (R197, R211). -/
structure PinReading where
  p : PortId
  a : Bool
  b : Bool
  held : BitVec 12
  agree : BitVec 16
deriving DecidableEq, Repr

/-- What the part reads of its surroundings at a tick: junction temperature plus 64 in °C, VCC and VBAT in mV, and the pins
of the ports it lists (the others keep their levels). -/
structure TickEnv where
  tj : Byte
  vcc : BitVec 16
  vbat : BitVec 16
  pins : List PinReading
deriving DecidableEq, Repr

/-- What the silicon and its surroundings show RISE (R96 to R103). -/
structure RiseEnv where
  /-- step 3: the ROM checksum is right. -/
  romOk : Bool
  /-- steps 5 to 9: the number of the step whose self test fails, 0 for none. -/
  failStep : Fin 10
  /-- step 4: the PLL locks. -/
  pllLocks : Bool
  /-- step 6: offsets of the Larder's groups that read uncorrectable (R420, R426, R454). -/
  ldrBad : List Nat
  /-- step 7: the PUF key is regrown as it was (R338); without it no shadow record authenticates. -/
  pufOk : Bool
  /-- step 8: fuse bits that do not blow (R82). -/
  fuseStuck : BitVec 13
  /-- TDCs that fail their start-up calibration (R472). -/
  tdcFail : BitVec 4
  /-- RISE duration in units of 10 µs (SYS_RISE.DUR). -/
  dur : BitVec 16
  /-- what the part reads at the boundary of step 14. -/
  edge : TickEnv
deriving DecidableEq, Repr

/-- The arguments of KEY STAGE and KEY GEN (R171). -/
structure KeyArgs where
  id : Word
  role : Byte
  type : Byte
  use : BitVec 16
  prio : Byte
  len : Nat
deriving DecidableEq, Repr

/-- The configuration words of a port function form (R168): FUNC.FN, CFG, PAR0 to PAR3. -/
structure PortCfg where
  fn : BitVec 4
  cfg : BitVec 17
  par0 : Word
  par1 : Word
  par2 : Word
  par3 : Word
deriving DecidableEq, Repr

/-- Widths of core accesses (R289). -/
inductive Width where
  | b1 | b2 | b4
deriving DecidableEq, Repr

/-- Bytes of an access. -/
def Width.bytes : Width → Nat
  | .b1 => 1 | .b2 => 2 | .b4 => 4

/-- AMO operations of RV32A (R286). -/
inductive AmoOp where
  | swap | add | xor | and | or | min | max | minu | maxu
deriving DecidableEq, Repr

/-- Predecessor and successor sets of a FENCE (R298). -/
structure FenceArgs where
  predR : Bool
  predW : Bool
  succR : Bool
  succW : Bool
  /-- FENCE.TSO, or I or O bits present: acts as FENCE RW,RW (R298). -/
  full : Bool
deriving DecidableEq, Repr

/-- How a core came to an instruction from the one the model saw it at before: within its program, or through an MRET or an ECALL
at an address. -/
inductive Came where
  | on
  | mret (frm : Word)
  | ecall (frm : Word)
deriving DecidableEq, Repr

/-- Where an instruction of a core stands: how the core came there, its address, how many instructions it has retired since the
one before, the general registers they wrote, in order, and the destination register of the instruction itself. -/
structure CoreAt where
  via : Came
  pc : Word
  ran : Word
  wrote : List (Fin 32 × Word)
  rd : Fin 32
deriving DecidableEq, Repr

end Sys2Proof.Machine
end

