-- ==== Sys2Proof/Machine/Verb.lean ====
section
/-!
DEFINITION. Verb.lean: the forms of the hardware verbs of Miand with their arguments (spec/05_miand_verbs.md), as the line
parser yields them, and the verbs' names.
-/
namespace Sys2Proof.Machine

/-- The hardware verbs (Table 5.1). -/
inductive VerbName where
  | help | info | echo | line | auth | logout | confirm | stat | log | mode | time | tick | port | queue | key | store
  | count | watch | tele | cal | image | life | unlock | reset
deriving DecidableEq, Repr

/-- One form of a hardware verb with its arguments (Tables 5.2 to 5.16). -/
inductive Verb where
  | help
  | helpVerb (v : VerbName)
  /-- HELP of an applet verb, by its uppercase name. -/
  | helpApplet (name : List Byte)
  | info
  | modeShow
  | modeChange (m : Mode)
  | echoOn
  | echoOff
  | echoShow
  | lineShow
  | lineBaud (baud : Nat)
  | authLevel (l : Fin 6)
  | authResp (h : BitVec 64)
  | authCard (p : PortId)
  /-- AUTH RESP= with a malformed answer (R136). -/
  | authBad
  | logout
  | confirm (tok : BitVec 16)
  | stat
  | statReset
  | statRise
  | logTamper (n : Nat)
  | logAttic (t : Option (Fin 8)) (n : Nat)
  | count
  | countCtr (c : CtrId)
  | countRing (c : CtrId) (slots : Nat)
  | tickShow
  | tickJobs
  | tickSet (per : Option Nat) (bgf : Option Nat)
  | timeShow
  | timeAdj (d : Int)
  | timeSet (utc : Word) (pps : Bool)
  | calShow
  | calK (p : PortId) (k16 : Nat)
  | calRun
  | calRaw (n : Nat)
  | portList
  | portShow (p : PortId)
  | portFn (p : PortId) (c : PortCfg)
  | portClear (p : PortId)
  | queueList
  | queueShow (q : QueueId)
  | queueFlush (q : QueueId)
  | storeShow
  | storeFind (r : Region) (key : BitVec 160)
  | storeSize (k c a0 a1 h : Nat)
  | keyList
  | keyShow (id : Word)
  | keyStage (k : KeyArgs)
  | keyData (off : Nat) (v : List Byte)
  | keyWrite
  | keyGen (k : KeyArgs)
  | keyRetire (id : Word)
  | keyRevoke (id : Word)
  | watchList
  | watchSrc (n : SrcId)
  | watchSet (n : SrcId) (resp : Option Resp) (filt : Option Byte)
  | watchFloor (n : SrcId) (resp : Resp)
  | watchArm (n : SrcId)
  | watchDisarm (n : SrcId)
  | tele
  | teleShow (n : Nat)
  | telePer (t : Nat)
  | teleStreamOn
  | teleStreamOff
  | imageList
  | imageBegin (k : ImgKind) (len : Nat) (crc : Option Word)
  | imageData (off : Nat) (v : List Byte)
  | imageEnd
  | imageAbort
  | lifeShow
  | lifeFit
  | lifeSeal
  | lifeErase
  | lifeRetire
  | lifeRefit
  | unlock
  | reset
deriving DecidableEq, Repr

/-- The verb of a form. -/
def Verb.name : Verb → VerbName
  | .help | .helpVerb _ | .helpApplet _ => .help
  | .info => .info
  | .modeShow | .modeChange _ => .mode
  | .echoOn | .echoOff | .echoShow => .echo
  | .lineShow | .lineBaud _ => .line
  | .authLevel _ | .authResp _ | .authCard _ | .authBad => .auth
  | .logout => .logout
  | .confirm _ => .confirm
  | .stat | .statReset | .statRise => .stat
  | .logTamper _ | .logAttic _ _ => .log
  | .count | .countCtr _ | .countRing _ _ => .count
  | .tickShow | .tickJobs | .tickSet _ _ => .tick
  | .timeShow | .timeAdj _ | .timeSet _ _ => .time
  | .calShow | .calK _ _ | .calRun | .calRaw _ => .cal
  | .portList | .portShow _ | .portFn _ _ | .portClear _ => .port
  | .queueList | .queueShow _ | .queueFlush _ => .queue
  | .storeShow | .storeFind _ _ | .storeSize _ _ _ _ _ => .store
  | .keyList | .keyShow _ | .keyStage _ | .keyData _ _ | .keyWrite | .keyGen _ | .keyRetire _ | .keyRevoke _ => .key
  | .watchList | .watchSrc _ | .watchSet _ _ _ | .watchFloor _ _ | .watchArm _ | .watchDisarm _ => .watch
  | .tele | .teleShow _ | .telePer _ | .teleStreamOn | .teleStreamOff => .tele
  | .imageList | .imageBegin _ _ _ | .imageData _ _ | .imageEnd | .imageAbort => .image
  | .lifeShow | .lifeFit | .lifeSeal | .lifeErase | .lifeRetire | .lifeRefit => .life
  | .unlock => .unlock
  | .reset => .reset

end Sys2Proof.Machine
end

