-- ==== Sys2Proof/Syntax.lean ====
section
/-!
DEFINITION. Syntax.lean: the commands of the block, one constructor per row of the opcode table, with the row's operands.
-/
namespace Sys2Proof

open Sys2Proof.Machine

/-- The commands: writes and reads of registers, operations, console verbs, and events at pins, supplies and clocks. -/
inductive Instr where
  /-- REGISTER_WRITE (R2): A write to a register field that has no row of its own acts as its access code and R18 give. -/
  | registerWrite (a : Agent) (r : RegRef) (v : Word)
  /-- RC_READ (R4): A core load of an RC field returns its value and clears it at once. -/
  | rcRead (c : CpuId) (off : BitVec 20)
  /-- TICK_BOUNDARY (R20): At a tick edge the part commits shadow writes, applies a pending mode change and begins harvest. -/
  | tickBoundary (env : TickEnv)
  /-- HARVEST_END (R56): At the end of harvest the due jobs are released to their owners. -/
  | harvestEnd
  /-- FOREGROUND_WINDOW_CLOSE (R52): When the foreground window closes, engine jobs park at their next landing point and yield to the Caretaker. -/
  | foregroundWindowClose
  /-- RUN_AHEAD (R67): At 90 % of the period the scheduler fetches the next frame's descriptors and issues tagged run-ahead searches. -/
  | runAhead
  /-- SLACK_PHASE (R50): The slack phase starts and the Caretaker runs its background work through its engines. -/
  | slackPhase
  /-- TICK_KICK (R55): A write of TICK_KICK requests the release of on-demand jobs in the next frame. -/
  | tickKick (a : Agent) (n : Fin 2) (v : Word)
  /-- TICK_DONE (R58): A core writes TICK_DONE to complete its outstanding job, or the write is refused with DONEERR. -/
  | tickDone (c : CpuId) (job : JobId)
  /-- JOB_BUDGET_USED (R60): A job exhausts its per-frame budget: an engine job parks at the next landing point, a core job gets the budget interrupt. -/
  | jobBudgetUsed (j : JobId)
  /-- JOB_OVERRUN (R64): A job still incomplete at its deadline edge raises OVERRUN and is aborted by owner. -/
  | jobOverrun (j : JobId)
  /-- LANDING_POINT (R65): An engine reaches a landing point and parks, yields or resumes a job. -/
  | landingPoint (e : Engine)
  /-- ENGINE_JOB_COMPLETE (R59): An engine reports completion of the command block of its job. -/
  | engineJobComplete (j : JobId)
  /-- PLL_RELOCK (R550): After the PLL has held lock for 100 µs, FSYS returns to the PLL and the stopped engines restart at a tick boundary. -/
  | pllRelock
  /-- CLAIM (R25): The sender claims a FREE Hatch slot, making it WRITING. -/
  | claim (a : Agent) (n : Fin 16)
  /-- RING (R26): The sender rings a slot, its trailer is checked, and the slot is posted with the doorbell set on LAST. -/
  | ring (a : Agent) (n : Fin 16)
  /-- ABANDON (R25): The sender returns a WRITING or POSTED slot to FREE. -/
  | abandon (a : Agent) (n : Fin 16)
  /-- TAKE (R25): The receiver takes a POSTED slot, making its body readable. -/
  | take (a : Agent) (n : Fin 16)
  /-- DONE (R25): The receiver returns a TAKEN slot to FREE. -/
  | done (a : Agent) (n : Fin 16)
  /-- HATCH_BODY_ACCESS (R27): An access to a slot body is served only for the owner in the right state, otherwise reads 0 and raises MISUSE. -/
  | hatchBodyAccess (a : Agent) (n : Fin 16) (k : Fin 16) (v : Option Word)
  /-- APPLET_REPLY (R147): CON takes an APPLET_REPLY and turns it into the console reply line. -/
  | appletReply (n : Fin 16)
  /-- VERB_REG (R144): CON takes a VERB_REG, registers or withdraws the region C rule, and answers VERB_REG_ACK. -/
  | verbReg (n : Fin 16)
  /-- MODE_REQ (R35): CON takes a MODE_REQ, grants or refuses it, and answers MODE_ACK. -/
  | modeReq (n : Fin 16)
  /-- APPLET_TIMEOUT (R30): No APPLET_REPLY arrives within the applet timeout, so CON replies E71 and abandons its request. -/
  | appletTimeout
  /-- CARE_WATCHDOG_EXPIRY (R44): The Caretaker watchdog expires and the Caretaker restarts from ROM. -/
  | careWatchdogExpiry
  /-- POWER_ON (R96): VCC rises through 2.70 V, giving a COLD or CELLAR-LOSS reset into RISE. -/
  | powerOn (vcc : BitVec 16)
  /-- VCC_FALL (R90): VCC falls through 2.70 V and a change to HOLD becomes pending. -/
  | vccFall (vcc : BitVec 16)
  /-- HOLD_EXIT (R91): Every HOLD cause has cleared, and HOLD is left at the tick boundary. -/
  | holdExit (env : TickEnv)
  /-- CELLAR_ENTRY (R86): VCC falls below 2.45 V and the part enters CELLAR, with the main domain off. -/
  | cellarEntry (vcc : BitVec 16)
  /-- CELLAR_SUPPLY_SWITCH (R525): The Cellar moves between VCC and VBAT at its switchover thresholds. -/
  | cellarSupplySwitch (vcc : BitVec 16) (vbat : BitVec 16)
  /-- CELLAR_FLOOR (R526): The Cellar supply falls below 1.90 V, so the Vault is zeroized and the Cellar marks itself invalid. -/
  | cellarFloor (vbat : BitVec 16)
  /-- VIO_CHANGE (R529): VIO falls below or returns above 1.50 V, changing bank M and Hostlink pads and the VCEL source. -/
  | vioChange (vio : BitVec 16)
  /-- RST_N_ASSERT (R95): An RST_N pulse is accepted and the main domain is reset. -/
  | rstNAssert (ns : Nat)
  /-- RST_N_RELEASE (R106): RST_N rises, ending the reset and recording any hold longer than 100 ms. -/
  | rstNRelease (ms : Nat)
  /-- RESET_HOLD_DETECT (R104): RST_N stays low past 100 ms and the Cellar records the hold. -/
  | resetHoldDetect
  /-- RESET_STUCK (R105): A reset hold reaches T_STUCK and the Cellar raises RESET_STUCK. -/
  | resetStuck
  /-- RISE (R96): After a reset the part runs the RISE sequence and enters the mode of Table 3.9. -/
  | rise (env : RiseEnv)
  /-- RISE_PLL_LOCK (R97): RISE, waiting at step 4, continues once the PLL locks. -/
  | risePllLock (env : RiseEnv)
  /-- DEFERRED_FUSE_BLOW (R100): In ERASED the outstanding ERASED bits are blown once VCC has held 2.90 V for 10 ms. -/
  | deferredFuseBlow
  /-- CORE_WATCHDOG_EXPIRY (R308): A core watchdog expires and the part performs a WARM reset. -/
  | coreWatchdogExpiry (c : CpuId)
  /-- WATCHDOG_HALF (R307): A core watchdog reaches half its period and latches the WDOG interrupt. -/
  | watchdogHalf (c : CpuId)
  /-- WATCHDOG_KICK (R307): Writing 0x5A to CPUn_WDKICK restarts the watchdog count. -/
  | watchdogKick (c : CpuId) (v : Word)
  /-- CONSOLE_BYTE (R117): A console byte is received, stored or edited and echoed, or dropped on FIFO overflow. -/
  | consoleByte (b : Byte)
  /-- CTRL_C (R119): Ctrl-C discards the line in reception or ends an applet wait with E71. -/
  | ctrlC
  /-- FRAMING_LOSS (R111): Console framing is lost, so the line is discarded and any session ends. -/
  | framingLoss
  /-- BAUD_REVERT (R109): No clean line arrives within 30 s of a rate change, so the rate reverts with a notice. -/
  | baudRevert
  /-- SESSION_IDLE_TIMEOUT (R138): The session ends after its idle time without a received byte. -/
  | sessionIdleTimeout
  /-- CHALLENGE_EXPIRY (R134): An AUTH challenge lapses 60 s after it was issued. -/
  | challengeExpiry
  /-- HOLD_EXPIRY (R142): A held protected line expires unconfirmed and !HOLD EXPIRED is emitted. -/
  | holdExpiry
  /-- IMAGE_LOAD_TIMEOUT (R178): An open image load is abandoned 60 s after its last line or command. -/
  | imageLoadTimeout
  /-- TIME_SET_PPS_TIMEOUT (R166): TIME SET SRC=PPS sees no PPS edge within 2 s and is answered E22. -/
  | timeSetPpsTimeout
  /-- VERB_COMMIT_REPLY (R150): A configuration form replies once its change has taken effect at the tick boundary, or E20 if discarded. -/
  | verbCommitReply
  /-- VERB_RESET (R151): After the last stop bit of a LIFE, UNLOCK or RESET reply, the reset begins. -/
  | verbReset
  /-- APPLET_VERB (R146): An applet verb line is checked against region C and forwarded to its core as APPLET_REQ. -/
  | appletVerb (l : Line) (text : List Byte)
  /-- HELP (R154): HELP lists the verbs permitted in the present mode and level. -/
  | help (l : Line)
  /-- HELP_VERB (R154): HELP verb lists the forms of one verb. -/
  | helpVerb (l : Line) (v : VerbName)
  /-- INFO (R155): INFO reports part, unit ID, stage, mode and image versions. -/
  | info (l : Line)
  /-- MODE_SHOW (R156): MODE reports the mode, the pending mode and the previous mode. -/
  | modeShow (l : Line)
  /-- MODE_CHANGE (R156): MODE with a named mode writes a pending transition and replies when it takes effect. -/
  | modeChange (l : Line) (m : Mode)
  /-- ECHO_ON (R157): ECHO ON selects typed mode. -/
  | echoOn (l : Line)
  /-- ECHO_OFF (R157): ECHO OFF selects generated mode. -/
  | echoOff (l : Line)
  /-- ECHO_SHOW (R157): ECHO reports the echo setting. -/
  | echoShow (l : Line)
  /-- LINE_SHOW (R157): LINE reports the baud rate and echo. -/
  | lineShow (l : Line)
  /-- LINE_BAUD (R109): LINE BAUD= changes the console rate after the reply. -/
  | lineBaud (l : Line) (baud : Nat)
  /-- AUTH_LEVEL (R134): AUTH Ln issues a DRBG challenge for the requested level. -/
  | authLevel (l : Line) (lv : Fin 6)
  /-- AUTH_RESP (R136): AUTH RESP= checks the answer and opens a session or counts a failure. -/
  | authResp (l : Line) (h : BitVec 64)
  /-- AUTH_CARD (R135): AUTH CARD= sends the challenge message to a card at APDU level. -/
  | authCard (l : Line) (p : PortId)
  /-- AUTH_CARD_RESPONSE (R135): The card's answer or its 1 s timeout is judged, opening a session or counting a failure. -/
  | authCardResponse
  /-- LOGOUT (R159): LOGOUT ends any session and held line. -/
  | logout (l : Line)
  /-- CONFIRM (R141): CONFIRM with the matching token decides the held line again from step 5 and executes it. -/
  | confirm (l : Line) (tok : BitVec 16)
  /-- STAT (R160): STAT reports mode, stage, time source, lock and tamper summary. -/
  | stat (l : Line)
  /-- STAT_RESET (R160): STAT RESET reports the reset kind, cause and hold record. -/
  | statReset (l : Line)
  /-- STAT_RISE (R160): STAT RISE reports the RISE outcome. -/
  | statRise (l : Line)
  /-- LOG_TAMPER (R161): LOG TAMPER lists tamper-log entries, newest first. -/
  | logTamper (l : Line) (n : Nat)
  /-- LOG_ATTIC (R161): LOG ATTIC lists Attic records, newest first. -/
  | logAttic (l : Line) (t : Option (Fin 8)) (n : Nat)
  /-- COUNT (R162): COUNT lists every counter that has a ring. -/
  | count (l : Line)
  /-- COUNT_CTR (R162): COUNT CTRn reports one counter's value, sequence and slots. -/
  | countCtr (l : Line) (c : CtrId)
  /-- COUNT_RING (R162): COUNT RING sets the ring of a counter never incremented. -/
  | countRing (l : Line) (c : CtrId) (slots : Nat)
  /-- TICK_SHOW (R163): TICK reports period, floor, frame count and overrun counts. -/
  | tickShow (l : Line)
  /-- TICK_JOBS (R163): TICK JOBS lists the valid job entries. -/
  | tickJobs (l : Line)
  /-- TICK_SET (R163): TICK SET changes period and floor, saves group 0, and replies when committed or refused. -/
  | tickSet (l : Line) (per : Option Nat) (bgf : Option Nat)
  /-- TIME_SHOW (R164): TIME reports UTC, the timebase state and the allowance left. -/
  | timeShow (l : Line)
  /-- TIME_ADJ (R165): TIME ADJ steps UTC, within or beyond the allowance. -/
  | timeAdj (l : Line) (d : Int)
  /-- TIME_SET (R166): TIME SET sets UTC and clears TIMEUNK, optionally at the next PPS edge. -/
  | timeSet (l : Line) (utc : Word) (pps : Bool)
  /-- CAL_SHOW (R167): CAL reports RTC error, ageing and TDC state. -/
  | calShow (l : Line)
  /-- CAL_K (R167): CAL K sets a PULSE port's k-factor and writes a TIME record. -/
  | calK (l : Line) (p : PortId) (k16 : Nat)
  /-- CAL_RUN (R167): CAL RUN runs a calibration and replies within 50 ms. -/
  | calRun (l : Line)
  /-- CAL_RAW (R167): CAL RAW reads raw entropy samples in FOUNDRY. -/
  | calRaw (l : Line) (n : Nat)
  /-- PORT_LIST (R168): PORT lists every port's function, claim and armed state. -/
  | portList (l : Line)
  /-- PORT_SHOW (R168): PORT Pn reports one port's function and status. -/
  | portShow (l : Line) (p : PortId)
  /-- PORT_FN (R168): PORT Pn FN= configures a port function, granted or refused whole at the next tick. -/
  | portFn (l : Line) (p : PortId) (c : PortCfg)
  /-- PORT_CLEAR (R168): PORT Pn CLEAR clears a latched DISCREPANCY when the channels have agreed long enough. -/
  | portClear (l : Line) (p : PortId)
  /-- QUEUE_LIST (R169): QUEUE lists the queues holding crates. -/
  | queueList (l : Line)
  /-- QUEUE_SHOW (R169): QUEUE Qn reports one queue's state and counts. -/
  | queueShow (l : Line) (q : QueueId)
  /-- QUEUE_FLUSH (R169): QUEUE Qn FLUSH flushes a queue and replies PENDING or DONE. -/
  | queueFlush (l : Line) (q : QueueId)
  /-- STORE_SHOW (R170): STORE reports region sizes, use, temperature, rate, moves and repairs. -/
  | storeShow (l : Line)
  /-- STORE_FIND (R170): STORE FIND searches a region and reports the answer. -/
  | storeFind (l : Line) (r : Region) (key : BitVec 160)
  /-- STORE_SIZE (R170): STORE SIZE resizes the regions while K, A0 and A1 are empty. -/
  | storeSize (l : Line) (k c a0 a1 h : Nat)
  /-- KEY_LIST (R171): KEY LIST lists the non-EMPTY Vault entries. -/
  | keyList (l : Line)
  /-- KEY_SHOW (R172): KEY SHOW shows the value of a public key. -/
  | keyShow (l : Line) (id : Word)
  /-- KEY_STAGE (R171): KEY STAGE starts a console staged entry. -/
  | keyStage (l : Line) (k : KeyArgs)
  /-- KEY_DATA (R171): KEY DATA adds a value chunk at the staged offset. -/
  | keyData (l : Line) (off : Nat) (v : List Byte)
  /-- KEY_WRITE (R172): KEY WRITE stores the staged entry in the Vault. -/
  | keyWrite (l : Line)
  /-- KEY_GEN (R171): KEY GEN generates an EC key pair into the Vault. -/
  | keyGen (l : Line) (k : KeyArgs)
  /-- KEY_RETIRE (R171): KEY RETIRE retires a key. -/
  | keyRetire (l : Line) (id : Word)
  /-- KEY_REVOKE (R171): KEY REVOKE revokes a key. -/
  | keyRevoke (l : Line) (id : Word)
  /-- WATCH_LIST (R173): WATCH lists the tripped or armed sources. -/
  | watchList (l : Line)
  /-- WATCH_SRC (R173): WATCH SRC= reports one source's configuration and state. -/
  | watchSrc (l : Line) (n : SrcId)
  /-- WATCH_SET (R173): WATCH SET changes a source's response or filter. -/
  | watchSet (l : Line) (n : SrcId) (resp : Option Resp) (filt : Option Byte)
  /-- WATCH_FLOOR (R173): WATCH FLOOR raises a source's floor. -/
  | watchFloor (l : Line) (n : SrcId) (resp : Resp)
  /-- WATCH_ARM (R173): WATCH ARM arms a port source. -/
  | watchArm (l : Line) (n : SrcId)
  /-- WATCH_DISARM (R173): WATCH DISARM disarms a port source at the authority its floor requires. -/
  | watchDisarm (l : Line) (n : SrcId)
  /-- TELE (R174): TELE decodes the newest TELE record. -/
  | tele (l : Line)
  /-- TELE_SHOW (R174): TELE SHOW lists the newest TELE records in hex. -/
  | teleShow (l : Line) (n : Nat)
  /-- TELE_PER (R174): TELE PER= sets the telemetry period and saves group 6. -/
  | telePer (l : Line) (t : Nat)
  /-- TELE_STREAM_ON (R174): TELE STREAM ON starts copying TELE records to H7. -/
  | teleStreamOn (l : Line)
  /-- TELE_STREAM_OFF (R174): TELE STREAM OFF stops the telemetry stream. -/
  | teleStreamOff (l : Line)
  /-- IMAGE_LIST (R175): IMAGE lists the image slots and their states. -/
  | imageList (l : Line)
  /-- IMAGE_BEGIN (R175): IMAGE BEGIN opens an image load into the inactive slot. -/
  | imageBegin (l : Line) (k : ImgKind) (len : Nat) (crc : Option Word)
  /-- IMAGE_DATA (R176): IMAGE DATA writes a chunk of at most 64 bytes at the next offset. -/
  | imageData (l : Line) (off : Nat) (v : List Byte)
  /-- IMAGE_END (R177): IMAGE END verifies the image and commits its switch record, or empties the slot. -/
  | imageEnd (l : Line)
  /-- IMAGE_ABORT (R175): IMAGE ABORT abandons the open load. -/
  | imageAbort (l : Line)
  /-- LIFE_SHOW (R179): LIFE reports stage, epoch, blown bits and retirement. -/
  | lifeShow (l : Line)
  /-- LIFE_FIT (R81): LIFE FIT blows the FIT bit and resets. -/
  | lifeFit (l : Line)
  /-- LIFE_SEAL (R180): LIFE SEAL checks the required keys, blows the SEALED bit, raises floors and resets. -/
  | lifeSeal (l : Line)
  /-- LIFE_ERASE (R83): LIFE ERASE zeroizes the Vault, sets ERASEPEND, blows the erasure bits and ends with an ERASE reset. -/
  | lifeErase (l : Line)
  /-- LIFE_RETIRE (R81): LIFE RETIRE blows the retire fuse and resets. -/
  | lifeRetire (l : Line)
  /-- LIFE_REFIT (R81): LIFE REFIT blows a bit into a new FIT epoch and resets. -/
  | lifeRefit (l : Line)
  /-- UNLOCK (R181): UNLOCK clears LOCKED and performs a WARM reset. -/
  | unlock (l : Line)
  /-- RESET (R182): RESET performs a WARM reset with WHY 3. -/
  | reset (l : Line)
  /-- GPIO_EDGE (R199): A filtered GPIO edge sets its edge flag and raises the port interrupt. -/
  | gpioEdge (p : PortId) (b : Bool) (e : PinEdge)
  /-- ACTIVATE (R204): The card ACTIVATE command runs the activation sequence. -/
  | activate (c : CpuId) (p : PortId)
  /-- DEACTIVATE (R205): The card DEACTIVATE command runs the deactivation sequence. -/
  | deactivate (c : CpuId) (p : PortId)
  /-- CARD_WARM_RESET (R206): The warm reset command resets an activated card and awaits a new ATR. -/
  | cardWarmReset (c : CpuId) (p : PortId)
  /-- CARD_INSERTION (R204): Card presence is confirmed after its filter and, with AUTO, activation starts. -/
  | cardInsertion (x : PresSense)
  /-- CARD_REMOVAL (R205): Loss of card presence deactivates the card. -/
  | cardRemoval (x : PresSense)
  /-- ATR_RECEIVED (R204): The ATR ends and is delivered as one RX packet with flag 17. -/
  | atrReceived (p : PortId) (x : CardAtr)
  /-- ATR_TIMEOUT (R204): No ATR starts in time, so the card is deactivated and an empty flagged packet is produced. -/
  | atrTimeout (p : PortId)
  /-- CARD_TX_PACKET (R207): A TX packet is sent to the card at byte level or as an APDU exchange. -/
  | cardTxPacket (p : PortId)
  /-- CARD_RESPONSE (R207): The card's response completes and forms an RX packet. -/
  | cardResponse (p : PortId) (l : List CardChar) (reps : List Byte)
  /-- CARD_CWT_EXPIRY (R207): The character waiting time passes and a byte-level RX packet closes. -/
  | cardCwtExpiry (x : PortWait)
  /-- UART_TX_PACKET (R201): A UART TX packet's payload is sent in order. -/
  | uartTxPacket (p : PortId)
  /-- UART_RX_CHAR (R201): A UART character is received into the RX packet. -/
  | uartRxChar (p : PortId) (b : Byte) (e : CharEnd)
  /-- UART_IDLE_CLOSE (R201): The line is idle for PAR1.IDLE characters and the RX packet closes. -/
  | uartIdleClose (x : PortWait)
  /-- SPIC_TRANSFER (R202): An SPIC TX packet is shifted out under CS and the captured bytes form an RX packet. -/
  | spicTransfer (p : PortId) (miso : List Byte)
  /-- DUAL_DISCREPANCY (R210): A DUAL disagreement reaches NDISC samples and DISCREPANCY latches. -/
  | dualDiscrepancy (p : PortId) (a : Bool)
  /-- DUAL_AUTOCLEAR (R211): With AUTOCLR, DISCREPANCY clears at the NDISC-th agreeing sample. -/
  | dualAutoclear (p : PortId) (a : Bool)
  /-- DISC_CLEAR (R211): A write of PORTn_STAT.DISC clears the latch only after sufficient agreement. -/
  | discClear (c : CpuId) (p : PortId)
  /-- PULSE_EDGE (R212): An accepted PULSE edge is timestamped, counted and recorded. -/
  | pulseEdge (p : PortId) (b : Bool) (e : PinEdge) (t : BitVec 26) (dir : Bool)
  /-- PPS_EDGE (R217): An accepted PPS edge is timestamped, recorded and judged by the timebase loop. -/
  | ppsEdge (p : PortId) (e : TimedEdge)
  /-- PULSEOUT_CYCLE_END (R218): At the end of a PULSEOUT cycle a newly committed period takes effect. -/
  | pulseoutCycleEnd (p : PortId)
  /-- LOOP_RESEED (R222): The LOOP LFSR is reseeded from the DRBG every RESEED seconds. -/
  | loopReseed (p : PortId)
  /-- WRITE_Q (R236): A Hostlink WRITE_Q writes a packet into an inbound queue. -/
  | writeQ (qid : Byte) (len : BitVec 16) (data : List Byte) (tr : Word) (fl : Bool)
  /-- READ_Q (R237): A Hostlink READ_Q delivers the packet at the read pointer of an outbound queue. -/
  | readQ (qid : Byte) (len : BitVec 16)
  /-- STATUS (R240): A Hostlink STATUS returns the status block and optionally clears errors. -/
  | status (qid : Byte) (len : BitVec 16)
  /-- ACK (R239): A Hostlink ACK releases the eligible outbound packet. -/
  | ack (qid : Byte) (len : BitVec 16) (tr : Word)
  /-- HOSTLINK_ABORT (R235): HCS_N rises before the trailer is complete and the transaction is abandoned. -/
  | hostlinkAbort (h : Option HlkHdr)
  /-- H6_BEGIN (R241): An H6 BEGIN command opens an image load. -/
  | h6Begin
  /-- H6_DATA (R241): An H6 DATA command writes image data. -/
  | h6Data
  /-- H6_END (R241): An H6 END command verifies and commits the image. -/
  | h6End
  /-- H6_ABORT (R241): An H6 ABORT command abandons the load. -/
  | h6Abort
  /-- QUEUE_PUSH (R249): A producer pushes a word, with header admission and trailer check at packet boundaries. -/
  | queuePush (c : CpuId) (q : QueueId) (w : Word)
  /-- QUEUE_POP (R255): The consumer reads the word at RD through QFX_Qn_POP. -/
  | queuePop (c : CpuId) (q : QueueId)
  /-- MARK (R256): MARK sets the queue's mark at RD. -/
  | mark (c : CpuId) (q : QueueId)
  /-- REWIND (R256): REWIND returns RD to the mark. -/
  | rewind (c : CpuId) (q : QueueId)
  /-- RELEASE (R256): RELEASE frees the queue up to the last complete packet read. -/
  | release (c : CpuId) (q : QueueId)
  /-- FLUSH (R258): FLUSH empties the queue at once or at the producer's next boundary. -/
  | flush (c : CpuId) (q : QueueId)
  /-- FLUSH_LIMIT_EXPIRY (R259): No trailer arrives within FLUSH_LIMIT ticks, so the boundary is forced and PROD_DESYNC counts. -/
  | flushLimitExpiry (q : QueueId)
  /-- RLY_OPEN (R277): OPEN binds a relay session, which then moves and closes by itself. -/
  | rlyOpen (c : CpuId) (n : Fin 8)
  /-- RLY_ABORT (R281): ABORT ends a relay session with ABORTED. -/
  | rlyAbort (c : CpuId) (n : Fin 8)
  /-- RLY_DROPSRC (R282): DROPSRC releases the failed source packet of a FAILED session. -/
  | rlyDropsrc (c : CpuId) (n : Fin 8)
  /-- RLY_FREE (R277): FREE returns a SEALED or FAILED session to IDLE. -/
  | rlyFree (c : CpuId) (n : Fin 8)
  /-- RELAY_SOURCE_READY (R278): A QUEUE source waiting in BOUND finds a packet and the move starts. -/
  | relaySourceReady (n : Fin 8)
  /-- RELAY_SEAL (R279): The move closes, the source check is compared, and the session seals or fails. -/
  | relaySeal (n : Fin 8) (ecc : Bool)
  /-- CORE_LOAD (R296): A core load is performed under the ordering, map and fault rules. -/
  | coreLoad (c : CpuId) (ca : CoreAt) (a : Word) (w : Width) (sgn : Bool) (ecc : Fin 3)
  /-- CORE_STORE (R296): A core store enters the store buffer, or is issued at commit for strong regions. -/
  | coreStore (c : CpuId) (ca : CoreAt) (a : Word) (w : Width) (v : Word)
  /-- STORE_BUFFER_DRAIN (R296): A buffered store becomes visible, in program order. -/
  | storeBufferDrain (c : CpuId)
  /-- FENCE (R298): FENCE orders accesses, and with W before R drains the store buffer. -/
  | fence (c : CpuId) (ca : CoreAt) (f : FenceArgs)
  /-- FENCE_I (R293): FENCE.I makes the issuing core's instruction cache see stored code. -/
  | fenceI (c : CpuId) (ca : CoreAt)
  /-- LR (R300): LR loads and sets a reservation on a 32-byte SRAM block. -/
  | lr (c : CpuId) (ca : CoreAt) (a : Word) (aq rl : Bool) (ecc : Fin 3)
  /-- SC (R300): SC stores only if the reservation holds. -/
  | sc (c : CpuId) (ca : CoreAt) (a : Word) (v : Word) (aq rl : Bool)
  /-- AMO (R300): An AMO performs an atomic read-modify-write in SRAM. -/
  | amo (c : CpuId) (ca : CoreAt) (op : AmoOp) (a : Word) (v : Word) (aq rl : Bool) (ecc : Fin 3)
  /-- WFI (R306): WFI waits until an enabled source is pending. -/
  | wfi (c : CpuId) (ca : CoreAt)
  /-- INTERRUPT_TRAP (R305): A pending source above ITHR is taken as the machine external interrupt between instructions. -/
  | interruptTrap (c : CpuId) (ca : CoreAt)
  /-- VLT_STORE (R325): STORE writes a staged entry into the Vault with its region K entries and shadow update. -/
  | vltStore (c : CpuId)
  /-- VLT_READ (R330): READ copies an entry header and exposes public values only. -/
  | vltRead (c : CpuId) (idx : Byte)
  /-- VLT_RETIRE (R328): RETIRE moves an ACTIVE entry to RETIRED. -/
  | vltRetire (c : CpuId) (idx : Byte)
  /-- VLT_REVOKE (R328): REVOKE moves an ACTIVE or RETIRED entry to REVOKED. -/
  | vltRevoke (c : CpuId) (idx : Byte)
  /-- VLT_ZEROIZE (R328): ZEROIZE empties a retired, revoked or SESSION entry and removes its region K entries. -/
  | vltZeroize (c : CpuId) (idx : Byte)
  /-- VLT_LOOKUP (R332): LOOKUP decides a key lookup through region K and the entry state. -/
  | vltLookup (c : CpuId)
  /-- VLT_DENY (R331): DENY writes a deny entry into region K. -/
  | vltDeny (c : CpuId)
  /-- VLT_UNDENY (R331): UNDENY removes a deny entry. -/
  | vltUndeny (c : CpuId)
  /-- VLT_UNANY (R331): UNANY removes an entry's role entry. -/
  | vltUnany (c : CpuId) (idx : Byte)
  /-- VLT_CLEAR (R325): CLEAR empties the writer's staging buffer. -/
  | vltClear (c : CpuId)
  /-- VLT_GEN_CMD (R327): GEN runs KEYGEN and stores an EC key pair. -/
  | vltGenCmd (c : CpuId)
  /-- VLT_WIN_ACCESS (R323): A VLT_WIN access writes staged value bytes or reads public bytes and advances the offset. -/
  | vltWinAccess (c : CpuId) (v : Option Word)
  /-- SHADOW_UPDATE_COMMIT (R339): A Vault shadow update commits with its CTR2 increment and VLT_STAT reads DONE. -/
  | shadowUpdateCommit
  /-- REMASK_PASS_START (R336): A re-mask pass begins every REMASK_PER ticks. -/
  | remaskPassStart
  /-- STR_WRITE (R357): WRITE inserts an entry by local shift, logging it when KEEP is set. -/
  | strWrite (c : CpuId)
  /-- INSERT_RESUME (R357): An insert waiting for a block move proceeds once a hole reaches its stride. -/
  | insertResume
  /-- STR_INVALIDATE (R360): INVALIDATE clears the lowest equal valid entry. -/
  | strInvalidate (c : CpuId)
  /-- CORE_SEARCH (R349): A core's STR_SCMD GO performs a search in its own view. -/
  | coreSearch (c : CpuId) (r : Region)
  /-- BLOCK_MOVE (R358): A queued block move shifts entries to bring a hole into a stride. -/
  | blockMove (n : Nat)
  /-- MADD (R379): MADD computes A + B mod M. -/
  | madd (r : EngReq)
  /-- MSUB (R379): MSUB computes A − B mod M. -/
  | msub (r : EngReq)
  /-- MMUL (R379): MMUL computes A × B mod M. -/
  | mmul (r : EngReq)
  /-- MRED (R379): MRED reduces A mod M. -/
  | mred (r : EngReq)
  /-- MINV (R379): MINV computes A inverse mod M, or ends NOINV. -/
  | minv (r : EngReq)
  /-- MEXP (R379): MEXP computes A^B mod M. -/
  | mexp (r : EngReq)
  /-- CMP (R379): CMP compares A and B. -/
  | cmp (r : EngReq)
  /-- COPY (R379): COPY copies A to C. -/
  | copy (r : EngReq)
  /-- ECDSA_SIGN_CHECKED (R381): ECDSA_SIGN_CHECKED signs on the S-pipe and releases only after verification. -/
  | ecdsaSignChecked (r : EngReq)
  /-- ECDSA_VERIFY (R382): ECDSA_VERIFY verifies a signature on the P-pipe. -/
  | ecdsaVerify (r : EngReq)
  /-- ECDH (R385): ECDH computes and checks a shared point and writes its X. -/
  | ecdh (r : EngReq)
  /-- KEYGEN (R378): KEYGEN generates an EC key pair at the Vault's request. -/
  | keygen (r : EngReq)
  /-- POINT_CHECK (R384): POINT_CHECK validates a point. -/
  | pointCheck (r : EngReq)
  /-- RSA_VERIFY (R383): RSA_VERIFY verifies a PKCS #1 v1.5 or PSS signature. -/
  | rsaVerify (r : EngReq)
  /-- PKE_ABORT (R393): ABORT ends a direct PKE command at its next landing point. -/
  | pkeAbort (c : CpuId)
  /-- PKE_OP_COMPLETE (R385): A PKE operation ends, releasing or withholding its output and writing its status. -/
  | pkeOpComplete (r : EngReq) (fault : Bool)
  /-- PKE_CONTEXT_CLAIM (R370): A waiting S-pipe program claims a freed sealed context. -/
  | pkeContextClaim
  /-- SHELF_STORE (R375): A core store to a public shelf is accepted, or ignored when the shelf is busy. -/
  | shelfStore (c : CpuId) (k : Fin 4096) (w : Word)
  /-- SHELF_LEN_COMMIT (R373): A shelf length change commits at the first idle tick boundary. -/
  | shelfLenCommit
  /-- ECB_ENC (R399): ECB_ENC encrypts AES blocks. -/
  | ecbEnc (r : EngReq)
  /-- ECB_DEC (R399): ECB_DEC decrypts AES blocks. -/
  | ecbDec (r : EngReq)
  /-- CBC_ENC (R400): CBC_ENC encrypts in CBC mode. -/
  | cbcEnc (r : EngReq)
  /-- CBC_DEC (R400): CBC_DEC decrypts in CBC mode. -/
  | cbcDec (r : EngReq)
  /-- CTR (R400): CTR runs AES counter mode. -/
  | ctr (r : EngReq)
  /-- CMAC_GEN (R400): CMAC_GEN produces a CMAC. -/
  | cmacGen (r : EngReq)
  /-- CMAC_CHK (R401): CMAC_CHK checks a CMAC tag. -/
  | cmacChk (r : EngReq)
  /-- GCM_ENC (R400): GCM_ENC encrypts and tags. -/
  | gcmEnc (r : EngReq)
  /-- GCM_DEC (R401): GCM_DEC decrypts and releases plaintext only when the tag verifies. -/
  | gcmDec (r : EngReq)
  /-- SHA256 (R402): SHA256 hashes a message. -/
  | sha256 (r : EngReq)
  /-- SHA384 (R402): SHA384 hashes a message. -/
  | sha384 (r : EngReq)
  /-- SHA512 (R402): SHA512 hashes a message. -/
  | sha512 (r : EngReq)
  /-- HMAC256_GEN (R399): HMAC256_GEN produces an HMAC-SHA-256. -/
  | hmac256Gen (r : EngReq)
  /-- HMAC384_GEN (R399): HMAC384_GEN produces an HMAC-SHA-384. -/
  | hmac384Gen (r : EngReq)
  /-- HMAC512_GEN (R399): HMAC512_GEN produces an HMAC-SHA-512. -/
  | hmac512Gen (r : EngReq)
  /-- HMAC256_CHK (R401): HMAC256_CHK checks an HMAC-SHA-256 tag. -/
  | hmac256Chk (r : EngReq)
  /-- HMAC384_CHK (R401): HMAC384_CHK checks an HMAC-SHA-384 tag. -/
  | hmac384Chk (r : EngReq)
  /-- HMAC512_CHK (R401): HMAC512_CHK checks an HMAC-SHA-512 tag. -/
  | hmac512Chk (r : EngReq)
  /-- KDF (R405): KDF derives a key by SP 800-108 straight into a SESSION entry. -/
  | kdf (r : EngReq)
  /-- SYM_ABORT (R408): ABORT ends a symmetric command and frees its context. -/
  | symAbort (c : CpuId)
  /-- SYM_OP_COMPLETE (R406): A symmetric operation or part ends and writes its status. -/
  | symOpComplete (r : EngReq)
  /-- RNG_HEALTH_FAIL (R414): A health test fails, raising RNG_FAIL and blocking the DRBG. -/
  | rngHealthFail (apt : Bool)
  /-- RNG_RESTART_COMPLETE (R414): The restarted source passes its start-up tests, the DRBG is reinstantiated and RNG_FAIL clears. -/
  | rngRestartComplete
  /-- DRBG_RESEED (R412): The DRBG reseeds after its request count or interval. -/
  | drbgReseed
  /-- RNG_OUT_READ (R413): A load of RNG_OUT takes one DRBG word, or returns 0 with EMPTY. -/
  | rngOutRead (c : CpuId)
  /-- COUNTER_INCREMENT (R425): A write to LDR_INC increments a counter by writing its next ring slot. -/
  | counterIncrement (c : CpuId) (k : CtrId)
  /-- RING_CONFIG (R424): LDR_RCFG.GO sets a counter's ring. -/
  | ringConfig (c : CpuId) (k : CtrId) (slots : Fin 512)
  /-- PARAM_SAVE (R431): LDR_PSAVE snapshots and writes a parameter group record. -/
  | paramSave (c : CpuId) (g : Fin 8)
  /-- LARDER_STORE (R419): A core store to the Larder writes its 8-byte group atomically. -/
  | larderStore (c : CpuId) (off : BitVec 18) (w : Width) (v : Word)
  /-- HOLDOFF_END (R422): Larder hold-off ends: waiting saves, increments and commits are written and a full scrub begins. -/
  | holdoffEnd
  /-- ARC_OPEN (R445): OPEN starts a transaction and programs its BEGIN unit. -/
  | arcOpen (c : CpuId) (t : Fin 16) (k : Fin 8) (n : Fin 32)
  /-- ARC_CTR (R447): CTR stages a counter increment in a transaction. -/
  | arcCtr (c : CpuId) (t : Fin 16) (k : CtrId)
  /-- ARC_COMMIT (R448): COMMIT writes the commit record and applies the transaction. -/
  | arcCommit (c : CpuId) (t : Fin 16)
  /-- ARC_ABORT (R450): ABORT frees a transaction and leaves its block void. -/
  | arcAbort (c : CpuId) (t : Fin 16)
  /-- ARC_TRIM (R444): TRIM advances an area's HEAD. -/
  | arcTrim (c : CpuId) (k : Fin 8)
  /-- ERASE_AHEAD (R443): The controller starts erasing a sector ahead of RESV. -/
  | eraseAhead (k : Fin 8)
  /-- SECTOR_ERASE_COMPLETE (R433): A sector erase completes, clearing its INCOMPLETE mark and counting wear. -/
  | sectorEraseComplete (b : Fin 2)
  /-- PROGRAM_UNIT_COMPLETE (R433): An Archive unit finishes programming. -/
  | programUnitComplete (b : Fin 2)
  /-- ERASE_RESUME (R435): A suspended erase resumes after 5 µs without reads of its bank. -/
  | eraseResume (b : Fin 2)
  /-- RTC_TEMP_UPDATE (R456): A new temperature reading updates the RTC compensation. -/
  | rtcTempUpdate (t : Byte)
  /-- AGEING_UPDATE (R458): After 24 h of lock, TBS_AGE moves one eighth toward the measured error. -/
  | ageingUpdate (m : BitVec 16)
  /-- PPS_LOSS (R460): No accepted PPS edge arrives for LOSS seconds, so LOCKED falls to HOLDOVER. -/
  | ppsLoss
  /-- HOLDOVER_EXPIRY (R461): HOLDOVER lasts HOLDMAX minutes and falls to FREE. -/
  | holdoverExpiry
  /-- LEAP_SECOND (R464): At the announced midnight a leap second is inserted or deleted. -/
  | leapSecond
  /-- ADJ_WINDOW_END (R465): The adjustment window ends and TBS_ADJUSED returns to 0. -/
  | adjWindowEnd
  /-- DISCIPLINE_SAVE (R466): Discipline saves group 5 once an hour while it counts. -/
  | disciplineSave
  /-- TIME_LATCH (R463): A load of TBS_TLO latches the time fields of one instant. -/
  | timeLatch (c : CpuId)
  /-- TDC_CALIBRATION (R469): Each TDC's interpolator is measured and its table rebuilt. -/
  | tdcCalibration (fail : BitVec 4)
  /-- WATCH_ONSET (R483): A filtered source trips at its FILT-th tripped sample and its response acts. -/
  | watchOnset (l : List OnsetArg)
  /-- WATCH_UNTRIP (R483): A filtered source untrips at its FILT-th clean sample. -/
  | watchUntrip (x : SrcQuiet)
  /-- DISAGREE_ONSET (R478): A detector disagreement lasts 5 samples and MONITOR_DISAGREE has an onset. -/
  | disagreeOnset (n : SrcId) (lagB : Bool) (alike : Nat)
  /-- STIMULUS_ROUND (R480): Every 1024 ticks the Caretaker starts a stimulus round. -/
  | stimulusRound
  /-- STIMULUS_STEP (R481): One detector is stimulated, and a failure to respond is reported. -/
  | stimulusStep (ok : Bool)
  /-- CELLAR_SAMPLE (R495): Cellar logic samples the CELLAR-live sources and bank C ports every T_CS. -/
  | cellarSample (x : CelSample)
  /-- SRAM_SCRUB_STEP (R506): The SRAM scrubber reads and corrects one word. -/
  | sramScrubStep (bad : Fin 3)
  /-- LARDER_SCRUB_STEP (R507): The Larder scrubber reads and corrects one group. -/
  | larderScrubStep (bad : Fin 4)
  /-- ARCHIVE_PATROL (R508): The patrol reads one programmed Archive unit. -/
  | archivePatrol (bad : Fin 4)
  /-- SECTOR_REFRESH (R508): The Caretaker acts on a queued sector by its region. -/
  | sectorRefresh
  /-- ATTIC_APPEND (R513): The append engine programs buffered records into the Attic ring. -/
  | atticAppend
  /-- STREAM_CONTROL (R518): The stream engine takes a Q55 packet and starts, stops or replays the stream, or rejects it. -/
  | streamControl
  /-- LOOP_BIT_COMPARE (R221): At the middle of each transmit bit time a LOOP port samples pin B, compares it with the bit sent DLY bit times earlier, counts mismatches, and the LOOP condition begins or ends. -/
  | loopBitCompare (p : PortId) (b : Bool)
  /-- SWITCH_CONDITION_CHANGE (R223): The filtered level of a SWITCH port's pin comes to differ from, or return to, its expected level, and the SWITCH condition and Watch source PORTn begin or end. -/
  | switchConditionChange (p : PortId) (a : Bool) (b : PinEdge)
  /-- DUAL_NEAR_MISS (R210): A DUAL disagreement ends at an agreeing sample with its length below NDISC and at least half of it, and CNT1 increments. -/
  | dualNearMiss (p : PortId) (len : BitVec 16) (a : Bool)
  /-- PULSEOUT_READBACK_MISMATCH (R218): At the middle of a high or low half, pin B reads back a level other than the one driven, CNT0 increments and RBERR sets. -/
  | pulseoutReadbackMismatch (p : PortId)
  /-- CELLAR_START (R523): VBAT rises while VCC is absent, the Cellar starts on VBAT, marks itself invalid when it holds no valid contents, and starts XT32. -/
  | cellarStart (vbat : BitVec 16)
  /-- LIFE_FUSE_RESUME (R81): A LIFE verb whose further fuse bits wait after a dip resumes blowing them once VCC is back at or above 2.90 V. -/
  | lifeFuseResume (vcc : BitVec 16)
deriving DecidableEq, Repr

end Sys2Proof
end

