-- ==== Sys2Proof/Config.lean ====
section
/-!
DEFINITION. Config.lean: what the spec leaves to one unit or leaves open, as constants without a body: nothing can evaluate
them, so a statement about them holds for every value. The sequences are read at a counter of State that each draw advances.
-/
namespace Sys2Proof

/-- Words of the DRBG (R412, R413). -/
opaque Config.drbg : Nat → BitVec 32

/-- Raw entropy samples, one bit each (R411). -/
opaque Config.rawBit : Nat → Bool

/-- Free choices: the number of the alternative taken, read modulo the count of alternatives. -/
opaque Config.choice : Nat → Nat

/-- Free measured values: calibration results and the like. -/
opaque Config.measure : Nat → Int

/-- Words of undefined contents: a torn Archive unit, an access the spec leaves undefined. -/
opaque Config.anyWord : Nat → BitVec 32

/-- The contents of ROM, which the spec nowhere gives. -/
opaque Config.romByte : Nat → BitVec 8

/-- The unit ID, 8 bytes from fuses (Table 4.8). -/
opaque Config.unitId : BitVec 64

/-- The unit credential, a 256-bit CMAC key in fuses (R132). -/
opaque Config.unitCred : BitVec 256

/-- The key regrown from the PUF (R338), by generation of the helper data. -/
opaque Config.pufKey : Nat → BitVec 256

/-- Affine coordinates of the ROM root key on P-384 (R389). -/
opaque Config.romRootX : Nat
opaque Config.romRootY : Nat

/-- The implementation version a core shows in mimpid. -/
opaque Config.mimpid : BitVec 32

/-- The RTC coefficients A0 to A3 in ppb and T0 in °C, measured at FOUNDRY (R456). -/
opaque Config.rtcCoef : Nat → Int

end Sys2Proof
end

