-- ==== Sys2Proof/Machine/Bits.lean ====
section
/-!
DEFINITION. Bits.lean: the two check codes of the part, and plain text.
-/
namespace Sys2Proof.Machine

/-- `n` shifts of the CRC-16/CCITT-FALSE register (R122). -/
def crc16Shift : Nat → Nat → Nat
  | 0, c => c
  | n + 1, c => crc16Shift n (if 0x8000 ≤ c then ((c * 2) ^^^ 0x1021) % 0x10000 else (c * 2) % 0x10000)

/-- CRC-16/CCITT-FALSE: polynomial 0x1021, initial value 0xFFFF, no reflection, no final XOR (R122). -/
def crc16 (l : List Byte) : Nat := l.foldl (fun c b => crc16Shift 8 (c ^^^ (b.toNat * 256))) 0xFFFF

/-- `n` shifts of the reflected CRC-32C register. -/
def crc32Shift : Nat → Nat → Nat
  | 0, c => c
  | n + 1, c => crc32Shift n (if c % 2 = 1 then (c / 2) ^^^ 0x82F63B78 else c / 2)

/-- A byte into the running CRC-32C register (R269). -/
def crc32Byte (c : Nat) (b : Byte) : Nat := crc32Shift 8 (c ^^^ b.toNat)

/-- The running CRC-32C register over bytes. -/
def crc32Run (c : Nat) (l : List Byte) : Nat := l.foldl crc32Byte c

/-- The initial register of CRC-32C. -/
def crc32Init : Nat := 0xFFFFFFFF

/-- CRC-32C (Castagnoli, reflected, initial value and final XOR all ones). -/
def crc32c (l : List Byte) : Word := BitVec.ofNat 32 (crc32Run crc32Init l ^^^ 0xFFFFFFFF)

/-- Printable ASCII (R114). -/
def printable (b : Byte) : Bool := decide (0x20 ≤ b.toNat) && decide (b.toNat ≤ 0x7E)

/-- The bytes of a text. -/
def txt (t : String) : List Byte := t.toList.map (fun c => BitVec.ofNat 8 c.toNat)

/-- One uppercase hex digit. -/
def hexDigit (n : Nat) : Byte := BitVec.ofNat 8 (if n % 16 < 10 then 0x30 + n % 16 else 0x41 + n % 16 - 10)

/-- `n` hex digits of a number, most significant first. -/
def hexN : Nat → Nat → List Byte
  | 0, _ => []
  | n + 1, v => hexN n (v / 16) ++ [hexDigit v]

/-- Hex digits of bytes, in order. -/
def hexBytes (l : List Byte) : List Byte := l.flatMap (fun b => hexN 2 b.toNat)

/-- Decimal digits with a fuel of digits. -/
def decFuel : Nat → Nat → List Byte
  | 0, _ => []
  | f + 1, v => (if v < 10 then [] else decFuel f (v / 10)) ++ [BitVec.ofNat 8 (0x30 + v % 10)]

/-- A number in decimal, without leading zeros. -/
def dec (v : Nat) : List Byte := decFuel 40 v

/-- `n` decimal digits of a number. -/
def decN : Nat → Nat → List Byte
  | 0, _ => []
  | n + 1, v => decN n (v / 10) ++ [BitVec.ofNat 8 (0x30 + v % 10)]

/-- A signed number in decimal. -/
def decInt (v : Int) : List Byte := if v < 0 then 0x2D :: dec v.natAbs else dec v.natAbs

/-- One bit as a digit. -/
def bit01 (b : Bool) : List Byte := if b then [0x31] else [0x30]

/-- A field `name=value` preceded by a space. -/
def fld (name : String) (v : List Byte) : List Byte := (0x20 :: txt name) ++ (0x3D :: v)

/-- The bit of a truth value. -/
def b2n (b : Bool) : Nat := if b then 1 else 0

/-- Bits `lo` to `lo + w - 1` of a number. -/
def bits (v lo w : Nat) : Nat := (v / 2 ^ lo) % 2 ^ w

/-- Bit `i` of a number. -/
def bitAt (v i : Nat) : Bool := (v / 2 ^ i) % 2 = 1

/-- Days since 1970-01-01 turned into year, month and day (proleptic Gregorian calendar). -/
def civil (days : Nat) : Nat × Nat × Nat :=
  let z := 719468 + days
  let era := z / 146097
  let doe := z - 146097 * era
  let yoe := (doe - doe / 1460 + doe / 36524 - doe / 146096) / 365
  let doy := doe - (365 * yoe + yoe / 4 - yoe / 100)
  let mp := (5 * doy + 2) / 153
  let d := doy - (153 * mp + 2) / 5 + 1
  let m := if mp < 10 then mp + 3 else mp - 9
  (yoe + era * 400 + (if m ≤ 2 then 1 else 0), m, d)

/-- Days since 1970-01-01 of a civil date. -/
def daysOf (y m d : Nat) : Nat :=
  let y' := if m ≤ 2 then y - 1 else y
  let era := y' / 400
  let yoe := y' - era * 400
  let doy := (153 * (if m > 2 then m - 3 else m + 9) + 2) / 5 + d - 1
  let doe := yoe * 365 + yoe / 4 - yoe / 100 + doy
  146097 * era + doe - 719468

/-- UTC seconds as YYYY-MM-DDThh:mm:ss, the second shown as 60 within an inserted one (R464). -/
def isoSec (sec : Nat) (leap : Bool) : List Byte :=
  let (y, m, d) := civil (sec / 86400)
  let t := sec % 86400
  decN 4 y ++ [0x2D] ++ decN 2 m ++ [0x2D] ++ decN 2 d ++ [0x54] ++ decN 2 (t / 3600) ++ [0x3A] ++ decN 2 (t / 60 % 60) ++
    [0x3A] ++ decN 2 (if leap then 60 else t % 60)

end Sys2Proof.Machine
end

