-- ==== Sys2Proof/Machine/Fields.lean ====
section
/-!
DEFINITION. Fields.lean: the register fields of the spec's register tables, each with its offset from 0x4000_0000, its bits,
its access code (Table 0.2), its reset value and what survives a reset (Table 0.3). A field whose value the part computes
from other state (a mode, a pointer, a count of a queue) has no row here: Machine/Regs.lean computes it at the read.
-/
namespace Sys2Proof.Machine

/-- Access codes (R2, Table 0.2). -/
inductive Access where
  | ro | rw | rws | w1c | wo | rc | rwt
deriving DecidableEq, Repr

/-- What keeps a field across a reset (R9, Table 0.3): `main` takes its reset value at every reset; `cellar` ("—") keeps its
value unless the Cellar is lost; `nv` is held in the Larder or Archive ("stored"). -/
inductive Keep where
  | main | cellar | nv
deriving DecidableEq, Repr

/-- One field of one register. `view` tells the copies apart where a register has one copy per bus master (0: one copy for
all; otherwise the agent code plus 1). -/
structure Field where
  off : Nat
  hi : Nat
  lo : Nat
  acc : Access
  dflt : Nat := 0
  keep : Keep := .main
  view : Nat := 0
deriving DecidableEq, Repr

/-- The number under which the register file holds a field. -/
def Field.key (f : Field) : Nat := 32 * (0x40000 * f.view + f.off) + f.lo

/-- Width of a field in bits. -/
def Field.width (f : Field) : Nat := f.hi - f.lo + 1

/-- The view of an agent's own copy. -/
def Agent.view (a : Agent) : Nat := a.code + 1

/-! ## SYS (Table 3.11; the table gives no offsets: its order is taken, DESIGN CHOICE, log entry 4) -/
def SYS_RSTCAUSE_KIND : Field := ⟨0x004, 1, 0, .ro, 0, .main, 0⟩
def SYS_RSTCAUSE_WHY : Field := ⟨0x004, 6, 4, .ro, 0, .main, 0⟩
def SYS_RSTCAUSE_SRC : Field := ⟨0x004, 15, 8, .ro, 0xFF, .main, 0⟩
def SYS_RISE_STEP : Field := ⟨0x00C, 3, 0, .ro, 0, .main, 0⟩
def SYS_RISE_FUSEPEND : Field := ⟨0x00C, 4, 4, .ro, 0, .main, 0⟩
def SYS_RISE_FAIL : Field := ⟨0x00C, 11, 8, .ro, 0, .main, 0⟩
def SYS_RISE_NOFW : Field := ⟨0x00C, 12, 12, .ro, 0, .main, 0⟩
def SYS_RISE_NOUC : Field := ⟨0x00C, 13, 13, .ro, 0, .main, 0⟩
def SYS_RISE_SHADOWRW : Field := ⟨0x00C, 14, 14, .ro, 0, .main, 0⟩
def SYS_RISE_REPLAY : Field := ⟨0x00C, 15, 15, .ro, 0, .main, 0⟩
def SYS_RISE_DUR : Field := ⟨0x00C, 31, 16, .ro, 0, .main, 0⟩

/-! ## TICK (Tables 2.7 to 2.10) -/
def TICK_CFG_PER : Field := ⟨0x1000, 2, 0, .rws, 2, .main, 0⟩
def TICK_CFG_BGF : Field := ⟨0x1000, 15, 8, .rws, 6, .main, 0⟩
def TICK_CFG_RAEN : Field := ⟨0x1000, 16, 16, .rwt, 1, .main, 0⟩
def TICK_STAT_RUN : Field := ⟨0x1004, 0, 0, .ro, 0, .main, 0⟩
def TICK_STAT_RCFB : Field := ⟨0x1004, 1, 1, .ro, 0, .main, 0⟩
def TICK_STAT_PERPEND : Field := ⟨0x1004, 2, 2, .ro, 0, .main, 0⟩
def TICK_STAT_BOOKERR : Field := ⟨0x1004, 3, 3, .w1c, 0, .main, 0⟩
def TICK_STAT_DONEERR : Field := ⟨0x1004, 4, 4, .w1c, 0, .main, 0⟩
/-- TICK_FRAME.COUNT; TICK_FRAME.GEN is its low byte. -/
def TICK_FRAME_COUNT : Field := ⟨0x1008, 31, 0, .ro, 0, .main, 0⟩
def TICK_KICK (n : Fin 2) : Field := ⟨0x100C + 4 * n.val, 31, 0, .wo, 0, .main, 0⟩
def TICK_DONE_JOB : Field := ⟨0x1014, 5, 0, .wo, 0, .main, 0⟩
def TICK_CORE_JOB (c : CpuId) : Field := ⟨0x1018 + 4 * c.val, 5, 0, .ro, 0, .main, 0⟩
def TICK_CORE_ACTIVE (c : CpuId) : Field := ⟨0x1018 + 4 * c.val, 6, 6, .ro, 0, .main, 0⟩
def TICK_CORE_ABORT (c : CpuId) : Field := ⟨0x1018 + 4 * c.val, 7, 7, .ro, 0, .main, 0⟩
def TICK_CORE_ARG (c : CpuId) : Field := ⟨0x1018 + 4 * c.val, 31, 16, .ro, 0, .main, 0⟩
def TICK_OVR_COUNT : Field := ⟨0x1020, 15, 0, .rc, 0, .main, 0⟩
def TICK_OVR_LAST : Field := ⟨0x1020, 21, 16, .ro, 0, .main, 0⟩
def TICK_SKIP_COUNT : Field := ⟨0x1024, 15, 0, .rc, 0, .main, 0⟩
def jobOff (j : JobId) : Nat := 0x1100 + 0x10 * j.val
def TICK_JOB_VALID (j : JobId) : Field := ⟨jobOff j, 0, 0, .rwt, 0, .main, 0⟩
def TICK_JOB_OWNER (j : JobId) : Field := ⟨jobOff j, 3, 1, .rwt, 0, .main, 0⟩
def TICK_JOB_DOZE (j : JobId) : Field := ⟨jobOff j, 4, 4, .rwt, 0, .main, 0⟩
def TICK_JOB_SPAN (j : JobId) : Field := ⟨jobOff j, 11, 8, .rwt, 0, .main, 0⟩
def TICK_JOB_BUDGET (j : JobId) : Field := ⟨jobOff j, 29, 16, .rwt, 0, .main, 0⟩
def TICK_JOB_PERIOD (j : JobId) : Field := ⟨jobOff j + 4, 15, 0, .rwt, 0, .main, 0⟩
def TICK_JOB_PHASE (j : JobId) : Field := ⟨jobOff j + 4, 31, 16, .rwt, 0, .main, 0⟩
def TICK_JOB_ARG (j : JobId) : Field := ⟨jobOff j + 8, 15, 0, .rwt, 0, .main, 0⟩
def TICK_JOB_STATUS (j : JobId) : Field := ⟨jobOff j + 12, 2, 0, .ro, 0, .main, 0⟩
def raOff (m : Fin 16) : Nat := 0x1600 + 0x20 * m.val
def TICK_RA_KEY (m : Fin 16) (k : Fin 5) : Field := ⟨raOff m + 4 * k.val, 31, 0, .rwt, 0, .main, 0⟩
def TICK_RA_JOB (m : Fin 16) : Field := ⟨raOff m + 0x14, 5, 0, .rwt, 0, .main, 0⟩
def TICK_RA_REGION (m : Fin 16) : Field := ⟨raOff m + 0x14, 9, 8, .rwt, 0, .main, 0⟩
def TICK_RA_EN (m : Fin 16) : Field := ⟨raOff m + 0x14, 15, 15, .rwt, 0, .main, 0⟩
def TICK_RA_STATE (m : Fin 16) : Field := ⟨raOff m + 0x14, 17, 16, .ro, 0, .main, 0⟩
def TICK_RA_RES (m : Fin 16) : Field := ⟨raOff m + 0x18, 31, 0, .ro, 0, .main, 0⟩
/-- TICK_RAm IDX: the whole word in the layout of Table 2.10 (INDEX, MULTI, DENY, NONE, PRIO, GEN). -/
def TICK_RA_IDX (m : Fin 16) : Field := ⟨raOff m + 0x1C, 31, 0, .ro, 0, .main, 0⟩

/-! ## PORTn (Tables 6.7 to 6.10); function parameters are the whole words PAR0 to PAR3 -/
def portOff (n : PortId) : Nat := 0x2000 + 0x100 * n.val
def PORT_FUNC_FN (n : PortId) : Field := ⟨portOff n, 3, 0, .rwt, 0, .main, 0⟩
def PORT_FUNC_FIX (n : PortId) : Field := ⟨portOff n, 8, 8, .rws, 0, .main, 0⟩
def PORT_CFG_FILT (n : PortId) : Field := ⟨portOff n + 4, 11, 0, .rwt, 1, .main, 0⟩
def PORT_CFG_PULLA (n : PortId) : Field := ⟨portOff n + 4, 13, 12, .rwt, 0, .main, 0⟩
def PORT_CFG_PULLB (n : PortId) : Field := ⟨portOff n + 4, 15, 14, .rwt, 0, .main, 0⟩
def PORT_CFG_AUTOCLR (n : PortId) : Field := ⟨portOff n + 4, 16, 16, .rwt, 0, .main, 0⟩
def PORT_STAT_CLAIM (n : PortId) : Field := ⟨portOff n + 8, 7, 4, .ro, 0, .main, 0⟩
def PORT_STAT_ARMED (n : PortId) : Field := ⟨portOff n + 8, 10, 10, .ro, 0, .main, 0⟩
def PORT_STAT_EVENT (n : PortId) : Field := ⟨portOff n + 8, 11, 11, .w1c, 0, .main, 0⟩
/-- DISCREPANCY; its clear has the row DISC_CLEAR of its own (R211). -/
def PORT_STAT_DISC (n : PortId) : Field := ⟨portOff n + 8, 12, 12, .w1c, 0, .main, 0⟩
def PORT_STAT_RBERR (n : PortId) : Field := ⟨portOff n + 8, 14, 14, .w1c, 0, .main, 0⟩
def PORT_STAT_SWA (n : PortId) : Field := ⟨portOff n + 8, 15, 15, .ro, 0, .main, 0⟩
def PORT_STAT_SWB (n : PortId) : Field := ⟨portOff n + 8, 16, 16, .ro, 0, .main, 0⟩
def PORT_STAT_PRES (n : PortId) : Field := ⟨portOff n + 8, 17, 17, .ro, 0, .main, 0⟩
def PORT_STAT_ACTIVE (n : PortId) : Field := ⟨portOff n + 8, 18, 18, .ro, 0, .main, 0⟩
def PORT_PAR (n : PortId) (k : Fin 4) : Field := ⟨portOff n + 0x10 + 4 * k.val, 31, 0, .rwt, 0, .main, 0⟩
def PORT_CNT0 (n : PortId) : Field := ⟨portOff n + 0x20, 15, 0, .rc, 0, .main, 0⟩
def PORT_CNT1 (n : PortId) : Field := ⟨portOff n + 0x24, 15, 0, .rc, 0, .main, 0⟩
def PORT_HARV_LVLA (n : PortId) : Field := ⟨portOff n + 0x28, 0, 0, .ro, 0, .main, 0⟩
def PORT_HARV_LVLB (n : PortId) : Field := ⟨portOff n + 0x28, 1, 1, .ro, 0, .main, 0⟩
def PORT_HARV_VAL (n : PortId) : Field := ⟨portOff n + 0x28, 2, 2, .ro, 0, .main, 0⟩
def PORT_HARV_DISC (n : PortId) : Field := ⟨portOff n + 0x28, 3, 3, .ro, 0, .main, 0⟩
def PORT_PCNT_PULSES (n : PortId) : Field := ⟨portOff n + 0x2C, 15, 0, .ro, 0, .main, 0⟩
def PORT_PCNT_REV (n : PortId) : Field := ⟨portOff n + 0x2C, 31, 16, .ro, 0, .main, 0⟩
def PORT_SPEED_KMH (n : PortId) : Field := ⟨portOff n + 0x30, 15, 0, .ro, 0, .main, 0⟩
def PORT_SPEED_VALID (n : PortId) : Field := ⟨portOff n + 0x30, 16, 16, .ro, 0, .main, 0⟩
def PORT_GPIO_OUTA (n : PortId) : Field := ⟨portOff n + 0x34, 0, 0, .rw, 0, .main, 0⟩
def PORT_GPIO_OUTB (n : PortId) : Field := ⟨portOff n + 0x34, 1, 1, .rw, 0, .main, 0⟩
def PORT_GPIO_EDGA (n : PortId) : Field := ⟨portOff n + 0x34, 8, 8, .w1c, 0, .main, 0⟩
def PORT_GPIO_EDGB (n : PortId) : Field := ⟨portOff n + 0x34, 9, 9, .w1c, 0, .main, 0⟩
def PORT_CARDCMD (n : PortId) : Field := ⟨portOff n + 0x38, 1, 0, .wo, 0, .main, 0⟩
def PORT_CXCMD (n : PortId) (k : Fin 8) : Field := ⟨portOff n + 0x40 + 4 * k.val, 31, 0, .rwt, 0, .main, 0⟩
def PORT_CXCTL_LEN (n : PortId) : Field := ⟨portOff n + 0x60, 5, 0, .rwt, 0, .main, 0⟩
def PORT_CXCTL_GO (n : PortId) : Field := ⟨portOff n + 0x60, 8, 8, .rwt, 0, .main, 0⟩
def PORT_CXRSP (n : PortId) (k : Fin 4) : Field := ⟨portOff n + 0x64 + 4 * k.val, 31, 0, .ro, 0, .main, 0⟩
def PORT_CXSTAT_STATE (n : PortId) : Field := ⟨portOff n + 0x74, 1, 0, .ro, 0, .main, 0⟩
def PORT_CXSTAT_RLEN (n : PortId) : Field := ⟨portOff n + 0x74, 12, 8, .ro, 0, .main, 0⟩

/-! ## QFX (Tables 8.6, 8.7) -/
def qOff (q : QueueId) : Nat := 0x4000 + 0x20 * q.val
/-- Default consumer of Table 8.2: 0 CPU0, 2 HLK, 3 PORT, 4 RLY, 5 CARE. -/
def qOwnerDflt (q : Nat) : Nat :=
  if q < 48 then (if q % 2 = 0 then 0 else 3)
  else if q < 54 then 0 else if q = 54 then 4 else if q = 55 then 5 else 2
/-- Default producer of Table 8.2. -/
def qProdDflt (q : Nat) : Nat :=
  if q < 48 then (if q % 2 = 0 then 3 else 0)
  else if q < 56 then 2 else if q < 62 then 0 else if q = 62 then 4 else 5
/-- QFX_Qn_SRC.ID at reset (R248). -/
def qSrcDflt (q : Nat) : Nat :=
  if q < 48 then (if q % 2 = 0 then q / 2 else 0)
  else if q < 56 then 0x30 + (q - 48) else if q = 62 then 0x36 else if q = 63 then 0x37 else 0
/-- QFX_Qn_CFG.FULL at reset: DROP_NEW is fixed for Q63 (R253). -/
def qFullDflt (q : Nat) : Nat := if q = 63 then 1 else 0
def QFX_RES (q : QueueId) : Field := ⟨qOff q, 7, 0, .rwt, if q.val < 48 then 0 else 1, .main, 0⟩
def QFX_QUOTA (q : QueueId) : Field := ⟨qOff q, 15, 8, .rwt, 8, .main, 0⟩
def QFX_FULL (q : QueueId) : Field := ⟨qOff q, 16, 16, .rwt, qFullDflt q.val, .main, 0⟩
def QFX_IEN (q : QueueId) : Field := ⟨qOff q, 17, 17, .rwt, 0, .main, 0⟩
def QFX_OWNER (q : QueueId) : Field := ⟨qOff q, 22, 20, .rwt, qOwnerDflt q.val, .main, 0⟩
def QFX_PROD (q : QueueId) : Field := ⟨qOff q, 26, 24, .rwt, qProdDflt q.val, .main, 0⟩
def QFX_SRC_ID (q : QueueId) : Field := ⟨qOff q + 4, 7, 0, .rwt, qSrcDflt q.val, .main, 0⟩
def QFX_CMD (q : QueueId) : Field := ⟨qOff q + 8, 2, 0, .wo, 0, .main, 0⟩
def QFX_PUSH (q : QueueId) : Field := ⟨qOff q + 0x10, 31, 0, .wo, 0, .main, 0⟩
def QFX_STAT_CHK (q : QueueId) : Field := ⟨qOff q + 0x18, 20, 20, .ro, 0, .main, 0⟩
def QFX_STAT_NOROOM (q : QueueId) : Field := ⟨qOff q + 0x18, 21, 21, .w1c, 0, .main, 0⟩
def QFX_CNT_DROPS (q : QueueId) : Field := ⟨qOff q + 0x1C, 15, 0, .rc, 0, .main, 0⟩
def QFX_CNT_DESYNC (q : QueueId) : Field := ⟨qOff q + 0x1C, 31, 16, .rc, 0, .main, 0⟩
def QFX_STAT_CFGERR : Field := ⟨0x4800, 16, 16, .w1c, 0, .main, 0⟩
def QFX_ERR_DOUBLE : Field := ⟨0x4804, 0, 0, .w1c, 0, .main, 0⟩
def QFX_ERR_NOTOWNER : Field := ⟨0x4804, 1, 1, .w1c, 0, .main, 0⟩
def QFX_ERR_NOMARK : Field := ⟨0x4804, 2, 2, .w1c, 0, .main, 0⟩
def QFX_ERR_UNDER : Field := ⟨0x4804, 3, 3, .w1c, 0, .main, 0⟩
def QFX_ERR_PCRC : Field := ⟨0x4804, 4, 4, .w1c, 0, .main, 0⟩
def QFX_ERR_HDR : Field := ⟨0x4804, 5, 5, .w1c, 0, .main, 0⟩
def QFX_ERR_BIG : Field := ⟨0x4804, 6, 6, .w1c, 0, .main, 0⟩
def QFX_ERR_QN : Field := ⟨0x4804, 13, 8, .ro, 0, .main, 0⟩
def QFX_FLUSHLIM : Field := ⟨0x4810, 3, 0, .rwt, 2, .main, 0⟩

/-! ## PKE (Tables 13.7, 13.9) -/
def PKE_SHELFCFG_LEN : Field := ⟨0x5000, 6, 0, .rwt, 9, .main, 0⟩
def PKE_STAT_SHELFPEND : Field := ⟨0x5004, 6, 6, .ro, 0, .main, 0⟩
def PKE_STAT_STOPPED : Field := ⟨0x5004, 7, 7, .ro, 0, .main, 0⟩
def PKE_CBASE : Field := ⟨0x5008, 31, 5, .rw, 0, .main, 0⟩
def PKE_UC_VER : Field := ⟨0x500C, 31, 0, .ro, 0, .main, 0⟩
def PKE_ERR_SHELF : Field := ⟨0x5010, 0, 0, .w1c, 0, .main, 0⟩
def PKE_ERR_SEALED : Field := ⟨0x5010, 1, 1, .w1c, 0, .main, 0⟩
def PKE_ERR_CHAN : Field := ⟨0x5010, 2, 2, .w1c, 0, .main, 0⟩
def PKE_CNT_FAULTS : Field := ⟨0x5014, 15, 0, .rc, 0, .main, 0⟩
def PKE_CNT_POINTINV : Field := ⟨0x5014, 31, 16, .rc, 0, .main, 0⟩
def PKE_LASTF_OP : Field := ⟨0x5018, 7, 0, .ro, 0, .main, 0⟩
def PKE_LASTF_CURVE : Field := ⟨0x5018, 11, 8, .ro, 0, .main, 0⟩
def PKE_LASTF_IDX : Field := ⟨0x5018, 23, 16, .ro, 0, .main, 0⟩
def PKE_DW (c : CpuId) (k : Fin 4) : Field := ⟨0x5020 + 4 * k.val, 31, 0, .rw, 0, .main, c.agent.view⟩
def PKE_DCMD (c : CpuId) : Field := ⟨0x5030, 1, 0, .wo, 0, .main, c.agent.view⟩
def PKE_DSTAT_STATE (c : CpuId) : Field := ⟨0x5034, 1, 0, .ro, 0, .main, c.agent.view⟩
def PKE_DSTAT_CODE (c : CpuId) : Field := ⟨0x5034, 11, 4, .ro, 0, .main, c.agent.view⟩
def PKE_DSTAT_VCODE (c : CpuId) : Field := ⟨0x5034, 19, 12, .ro, 0, .main, c.agent.view⟩
def PKE_DSTAT_CMP (c : CpuId) : Field := ⟨0x5034, 21, 20, .ro, 0, .main, c.agent.view⟩

/-! ## SYM and RNG (Table 14.6) -/
def SYM_CBASE : Field := ⟨0x6000, 31, 5, .rw, 0, .main, 0⟩
def SYM_ERR_CTX : Field := ⟨0x6008, 0, 0, .w1c, 0, .main, 0⟩
def SYM_ERR_CHAN : Field := ⟨0x6008, 1, 1, .w1c, 0, .main, 0⟩
def SYM_CNT_INVALID : Field := ⟨0x600C, 15, 0, .rc, 0, .main, 0⟩
def SYM_DW (c : CpuId) (k : Fin 8) : Field := ⟨0x6020 + 4 * k.val, 31, 0, .rw, 0, .main, c.agent.view⟩
def SYM_DCMD (c : CpuId) : Field := ⟨0x6040, 1, 0, .wo, 0, .main, c.agent.view⟩
def SYM_DSTAT_STATE (c : CpuId) : Field := ⟨0x6044, 1, 0, .ro, 0, .main, c.agent.view⟩
def SYM_DSTAT_CODE (c : CpuId) : Field := ⟨0x6044, 11, 4, .ro, 0, .main, c.agent.view⟩
def SYM_DSTAT_VCODE (c : CpuId) : Field := ⟨0x6044, 19, 12, .ro, 0, .main, c.agent.view⟩
def RNG_CFG_RESEED_REQ : Field := ⟨0x7000, 15, 0, .rws, 0, .main, 0⟩
def RNG_CFG_RESEED_MS : Field := ⟨0x7000, 31, 16, .rws, 1000, .main, 0⟩
def RNG_STAT_FAIL : Field := ⟨0x7004, 0, 0, .ro, 0, .main, 0⟩
def RNG_STAT_DEAD : Field := ⟨0x7004, 1, 1, .ro, 0, .main, 0⟩
def RNG_STAT_EMPTY : Field := ⟨0x7004, 2, 2, .ro, 0, .main, 0⟩
def RNG_CNT_RCT : Field := ⟨0x700C, 15, 0, .rc, 0, .main, 0⟩
def RNG_CNT_APT : Field := ⟨0x700C, 31, 16, .rc, 0, .main, 0⟩

/-! ## VLT (Tables 11.10, 11.11); one copy per writer of VLT_CMD to VLT_HDR -/
def VLT_CMD_CMD (a : Agent) : Field := ⟨0x8000, 3, 0, .wo, 0, .main, a.view⟩
def VLT_CMD_IDX (a : Agent) : Field := ⟨0x8000, 15, 8, .wo, 0, .main, a.view⟩
def VLT_STAT_STATE (a : Agent) : Field := ⟨0x8004, 1, 0, .ro, 0, .main, a.view⟩
def VLT_STAT_CODE (a : Agent) : Field := ⟨0x8004, 11, 4, .ro, 0, .main, a.view⟩
def VLT_STAT_IDX (a : Agent) : Field := ⟨0x8004, 23, 16, .ro, 0, .main, a.view⟩
def VLT_STG_ID (a : Agent) : Field := ⟨0x8008, 31, 0, .rw, 0, .main, a.view⟩
def VLT_STG_ROLE (a : Agent) : Field := ⟨0x800C, 7, 0, .rw, 0, .main, a.view⟩
def VLT_STG_TYPE (a : Agent) : Field := ⟨0x800C, 15, 8, .rw, 0, .main, a.view⟩
def VLT_STG_USE (a : Agent) : Field := ⟨0x800C, 31, 16, .rw, 0, .main, a.view⟩
def VLT_STG_PRIO (a : Agent) : Field := ⟨0x8010, 7, 0, .rw, 0, .main, a.view⟩
def VLT_STG_ANYOK (a : Agent) : Field := ⟨0x8010, 8, 8, .rw, 0, .main, a.view⟩
def VLT_STG_AUTOIDX (a : Agent) : Field := ⟨0x8010, 9, 9, .rw, 1, .main, a.view⟩
def VLT_STG_IDX (a : Agent) : Field := ⟨0x8010, 23, 16, .rw, 0, .main, a.view⟩
def VLT_STG_PAIR (a : Agent) : Field := ⟨0x8010, 31, 24, .rw, 0, .main, a.view⟩
/-- VLT_WINOFF.OFF; bits [1:0] are ignored, so the field holds [9:2] (Table 11.11). -/
def VLT_WINOFF (a : Agent) : Field := ⟨0x8014, 9, 2, .rw, 0, .main, a.view⟩
def VLT_WIN (a : Agent) : Field := ⟨0x8018, 31, 0, .rw, 0, .main, a.view⟩
def VLT_LK0_ID (a : Agent) : Field := ⟨0x8020, 31, 0, .rw, 0, .main, a.view⟩
def VLT_LK1_ROLE (a : Agent) : Field := ⟨0x8024, 7, 0, .rw, 0, .main, a.view⟩
def VLT_LK1_OP (a : Agent) : Field := ⟨0x8024, 11, 8, .rw, 0, .main, a.view⟩
def VLT_LKRES_IDX (a : Agent) : Field := ⟨0x8028, 7, 0, .ro, 0, .main, a.view⟩
def VLT_LKRES_MULTI (a : Agent) : Field := ⟨0x8028, 8, 8, .ro, 0, .main, a.view⟩
def VLT_HDR (a : Agent) (k : Fin 4) : Field := ⟨0x8030 + 4 * k.val, 31, 0, .ro, 0, .main, a.view⟩
def VLT_DENY_ROLE (a : Agent) : Field := ⟨0x8040, 7, 0, .rw, 0, .main, a.view⟩
def VLT_DENY_USE (a : Agent) : Field := ⟨0x8040, 23, 8, .rw, 0, .main, a.view⟩
def VLT_DENY_DANY (a : Agent) : Field := ⟨0x8040, 24, 24, .rw, 0, .main, a.view⟩
def VLT_DENYID (a : Agent) : Field := ⟨0x8044, 31, 0, .rw, 0, .main, a.view⟩
def VLT_CFG_REMASK_PER : Field := ⟨0x8048, 15, 0, .rws, 4096, .cellar, 0⟩
def VLT_REMASK_PTR : Field := ⟨0x804C, 7, 0, .ro, 0, .cellar, 0⟩
def VLT_REMASK_PASSES : Field := ⟨0x804C, 31, 16, .ro, 0, .cellar, 0⟩

/-! ## STR (Tables 12.6, 12.7); "stored" fields are held in the persisted copy -/
def STR_CFG_H : Field := ⟨0x9000, 1, 0, .rws, 1, .nv, 0⟩
def STR_CFG_MOVE_BUDGET : Field := ⟨0x9000, 15, 8, .rwt, 64, .main, 0⟩
def STR_CFG_A0OWN : Field := ⟨0x9000, 16, 16, .rwt, 0, .main, 0⟩
def STR_CFG_A1OWN : Field := ⟨0x9000, 17, 17, .rwt, 1, .main, 0⟩
def STR_SIZE0_K : Field := ⟨0x9004, 13, 0, .rws, 2048, .nv, 0⟩
def STR_SIZE0_C : Field := ⟨0x9004, 29, 16, .rws, 256, .nv, 0⟩
def STR_SIZE1_A0 : Field := ⟨0x9008, 13, 0, .rws, 2944, .nv, 0⟩
def STR_SIZE1_A1 : Field := ⟨0x9008, 29, 16, .rws, 2944, .nv, 0⟩
def STR_STAT_RATE : Field := ⟨0x900C, 1, 0, .ro, 0, .main, 0⟩
def STR_STAT_TJ : Field := ⟨0x900C, 15, 8, .ro, 0, .main, 0⟩
def STR_STAT_ORPHANS : Field := ⟨0x900C, 31, 24, .ro, 0, .main, 0⟩
def STR_MOVE_PTR : Field := ⟨0x9010, 16, 4, .ro, 0, .cellar, 0⟩
def STR_CNT_MOVES : Field := ⟨0x901C, 15, 0, .rc, 0, .main, 0⟩
def STR_CNT_REPAIRS : Field := ⟨0x901C, 31, 16, .rc, 0, .main, 0⟩
def STR_ERR_PAR : Field := ⟨0x9020, 0, 0, .w1c, 0, .main, 0⟩
def STR_ERR_LEDGER : Field := ⟨0x9020, 1, 1, .w1c, 0, .main, 0⟩
def STR_ERR_BAD : Field := ⟨0x9020, 2, 2, .w1c, 0, .main, 0⟩
def STR_ERR_NOTOWNER : Field := ⟨0x9020, 3, 3, .w1c, 0, .main, 0⟩
def STR_ERR_SIZE : Field := ⟨0x9020, 4, 4, .w1c, 0, .main, 0⟩
def STR_ERR_IDX : Field := ⟨0x9020, 28, 16, .ro, 0, .main, 0⟩
def STR_BATCH_BASE : Field := ⟨0x9024, 31, 4, .rw, 0, .main, 0⟩
def STR_KEY (c : CpuId) (k : Fin 5) : Field := ⟨0x9040 + 4 * k.val, 31, 0, .rw, 0, .main, c.agent.view⟩
def STR_SCMD_REGION (c : CpuId) : Field := ⟨0x9054, 1, 0, .wo, 0, .main, c.agent.view⟩
def STR_SCMD_GO (c : CpuId) : Field := ⟨0x9054, 8, 8, .wo, 0, .main, c.agent.view⟩
def STR_SSTAT_STATE (c : CpuId) : Field := ⟨0x9058, 1, 0, .ro, 0, .main, c.agent.view⟩
def STR_SRES (c : CpuId) : Field := ⟨0x905C, 31, 0, .ro, 0, .main, c.agent.view⟩
def STR_SIDX (c : CpuId) : Field := ⟨0x9060, 31, 0, .ro, 0, .main, c.agent.view⟩
def STR_UKEY (c : CpuId) (k : Fin 5) : Field := ⟨0x9080 + 4 * k.val, 31, 0, .rw, 0, .main, c.agent.view⟩
def STR_UMSK (c : CpuId) (k : Fin 5) : Field := ⟨0x9094 + 4 * k.val, 31, 0, .rw, 0, .main, c.agent.view⟩
def STR_UATTR_PRIO (c : CpuId) : Field := ⟨0x90A8, 7, 0, .rw, 0, .main, c.agent.view⟩
def STR_UATTR_DENY (c : CpuId) : Field := ⟨0x90A8, 8, 8, .rw, 0, .main, c.agent.view⟩
def STR_UATTR_KEEP (c : CpuId) : Field := ⟨0x90A8, 9, 9, .rw, 0, .main, c.agent.view⟩
def STR_UATTR_PLACE (c : CpuId) : Field := ⟨0x90A8, 10, 10, .rw, 0, .main, c.agent.view⟩
def STR_UATTR_REGION (c : CpuId) : Field := ⟨0x90A8, 13, 12, .rw, 0, .main, c.agent.view⟩
def STR_URES (c : CpuId) : Field := ⟨0x90AC, 31, 0, .rw, 0, .main, c.agent.view⟩
def STR_UCMD (c : CpuId) : Field := ⟨0x90B0, 1, 0, .wo, 0, .main, c.agent.view⟩
def STR_USTAT_STATE (c : CpuId) : Field := ⟨0x90B4, 1, 0, .ro, 0, .main, c.agent.view⟩
def STR_USTAT_CODE (c : CpuId) : Field := ⟨0x90B4, 7, 4, .ro, 0, .main, c.agent.view⟩
def STR_USTAT_IDX (c : CpuId) : Field := ⟨0x90B4, 28, 16, .ro, 0, .main, c.agent.view⟩

/-! ## ARC (Tables 15.13, 15.14) -/
def ARC_CFG_SUSPEND : Field := ⟨0xA000, 0, 0, .rw, 1, .main, 0⟩
def ARC_CFG_IEN : Field := ⟨0xA000, 1, 1, .rw, 0, .main, 0⟩
/-- stored; the spec gives no FOUNDRY value: 1 is taken (DESIGN CHOICE, log entry 3). -/
def ARC_CFG_ERAHEAD : Field := ⟨0xA000, 6, 4, .rws, 1, .nv, 0⟩
def ARC_STAT_WORN : Field := ⟨0xA004, 31, 16, .ro, 0, .nv, 0⟩
def ARC_ERR_UNCORR : Field := ⟨0xA008, 0, 0, .w1c, 0, .main, 0⟩
def ARC_ERR_CFG : Field := ⟨0xA008, 1, 1, .w1c, 0, .main, 0⟩
def ARC_EADDR : Field := ⟨0xA00C, 21, 0, .ro, 0, .main, 0⟩
def ARC_CNT_CORR : Field := ⟨0xA010, 15, 0, .rc, 0, .main, 0⟩
def ARC_CNT_SUSPENDS : Field := ⟨0xA010, 31, 16, .rc, 0, .main, 0⟩
def ARC_CBASE : Field := ⟨0xA014, 31, 4, .rw, 0, .main, 0⟩
/-- FOUNDRY descriptors (R439): RA0 is all of span 0, RA1 all of span 1, the others disabled. -/
def areaStartDflt (k : Nat) : Nat := if k = 0 then 0x140 else if k = 1 then 0x2C0 else 0
def areaSectorsDflt (k : Nat) : Nat := if k = 0 then 192 else if k = 1 then 320 else 0
def ARC_AREA_START (k : Fin 8) : Field := ⟨0xA020 + 4 * k.val, 9, 0, .rws, areaStartDflt k.val, .nv, 0⟩
def ARC_AREA_SECTORS (k : Fin 8) : Field := ⟨0xA020 + 4 * k.val, 25, 16, .rws, areaSectorsDflt k.val, .nv, 0⟩
def ARC_AREA_POLICY (k : Fin 8) : Field := ⟨0xA020 + 4 * k.val, 28, 28, .rws, if k.val = 1 then 1 else 0, .nv, 0⟩
def ARC_AREA_EN (k : Fin 8) : Field := ⟨0xA020 + 4 * k.val, 31, 31, .rws, if k.val < 2 then 1 else 0, .nv, 0⟩
def ARC_ASEL (c : CpuId) : Field := ⟨0xA040, 2, 0, .rw, 0, .main, c.agent.view⟩
def ARC_TCMD (c : CpuId) : Field := ⟨0xA060, 29, 0, .wo, 0, .main, c.agent.view⟩
def ARC_TARG (c : CpuId) : Field := ⟨0xA064, 31, 0, .rw, 0, .main, c.agent.view⟩
def ARC_TSTAT_STATE (c : CpuId) : Field := ⟨0xA068, 1, 0, .ro, 0, .main, c.agent.view⟩
def ARC_TSTAT_CODE (c : CpuId) : Field := ⟨0xA068, 7, 4, .ro, 0, .main, c.agent.view⟩

/-! ## LDR (Tables 15.10, 15.11); LDR_CSEL to LDR_PSTAT one copy per core -/
def LDR_STAT_HOLDOFF : Field := ⟨0xB000, 0, 0, .ro, 0, .main, 0⟩
def LDR_STAT_SCRUB : Field := ⟨0xB000, 1, 1, .ro, 0, .main, 0⟩
def LDR_STAT_PDEF : Field := ⟨0xB000, 15, 8, .ro, 0, .main, 0⟩
def LDR_ERR_HELD : Field := ⟨0xB004, 0, 0, .w1c, 0, .main, 0⟩
def LDR_ERR_UNCORR : Field := ⟨0xB004, 1, 1, .w1c, 0, .main, 0⟩
def LDR_ERR_MISUSE : Field := ⟨0xB004, 2, 2, .w1c, 0, .main, 0⟩
def LDR_ERR_RING : Field := ⟨0xB004, 3, 3, .w1c, 0, .main, 0⟩
def LDR_EADDR : Field := ⟨0xB008, 17, 0, .ro, 0, .main, 0⟩
def LDR_CNT_CORR : Field := ⟨0xB00C, 15, 0, .rc, 0, .main, 0⟩
def LDR_CNT_UNCORR : Field := ⟨0xB00C, 31, 16, .rc, 0, .main, 0⟩
def LDR_CSEL (c : CpuId) : Field := ⟨0xB010, 5, 0, .rw, 0, .main, c.agent.view⟩
def LDR_INCAMT (c : CpuId) : Field := ⟨0xB024, 31, 0, .rw, 1, .main, c.agent.view⟩
def LDR_INC (c : CpuId) : Field := ⟨0xB028, 5, 0, .wo, 0, .main, c.agent.view⟩
def LDR_INCSTAT (c : CpuId) : Field := ⟨0xB02C, 3, 0, .ro, 0, .main, c.agent.view⟩
def LDR_RCFG_CTR (c : CpuId) : Field := ⟨0xB030, 5, 0, .rws, 0, .main, c.agent.view⟩
def LDR_RCFG_SLOTS (c : CpuId) : Field := ⟨0xB030, 16, 8, .rws, 0, .main, c.agent.view⟩
/-- LDR_RCFG.GO: 1 applies the change and reads 0 (row RING_CONFIG, R424). -/
def LDR_RCFG_GO (c : CpuId) : Field := ⟨0xB030, 31, 31, .wo, 0, .main, c.agent.view⟩
def LDR_PSAVE (c : CpuId) : Field := ⟨0xB034, 2, 0, .wo, 0, .main, c.agent.view⟩
def LDR_PSTAT_STATE (c : CpuId) : Field := ⟨0xB038, 1, 0, .ro, 0, .main, c.agent.view⟩
def LDR_PSTAT_CODE (c : CpuId) : Field := ⟨0xB038, 7, 4, .ro, 0, .main, c.agent.view⟩

/-! ## WATCH (Tables 17.2, 17.8, 17.9) -/
def WATCH_STAT_STIMRUN : Field := ⟨0xC000, 16, 16, .ro, 0, .main, 0⟩
def WATCH_ERR_FLOOR : Field := ⟨0xC004, 0, 0, .w1c, 0, .main, 0⟩
def WATCH_ERR_MODE : Field := ⟨0xC004, 1, 1, .w1c, 0, .main, 0⟩
def WATCH_ERR_STIM : Field := ⟨0xC004, 2, 2, .w1c, 0, .main, 0⟩
def WATCH_NOTE (k : Fin 3) : Field := ⟨0xC008 + 4 * k.val, 31, 0, .w1c, 0, .main, 0⟩
def WATCH_STIM : Field := ⟨0xC014, 13, 0, .w1c, 0, .main, 0⟩
def WATCH_THR0_VBATTH : Field := ⟨0xC018, 5, 0, .rws, 20, .cellar, 0⟩
/-- −45 °C in two's complement. -/
def WATCH_THR0_TLO : Field := ⟨0xC018, 15, 8, .rws, 0xD3, .cellar, 0⟩
def WATCH_THR0_THI : Field := ⟨0xC018, 23, 16, .rws, 125, .cellar, 0⟩
def WATCH_THR0_SLEW : Field := ⟨0xC018, 31, 24, .rws, 8, .cellar, 0⟩
def WATCH_THR1_FIELDTH : Field := ⟨0xC01C, 4, 0, .rws, 12, .cellar, 0⟩
def WATCH_THR1_LIGHTSENS : Field := ⟨0xC01C, 9, 8, .rws, 1, .cellar, 0⟩
def srcOff (n : SrcId) : Nat := 0xC100 + 0x10 * n.val

/-- Sources that exist (R475, Table 17.2). -/
def srcExists (n : Nat) : Bool :=
  (n ≤ 4) || (8 ≤ n && n ≤ 0xA) || (0x10 ≤ n && n ≤ 0x12) || (0x14 ≤ n && n ≤ 0x16)
    || (0x18 ≤ n && n ≤ 0x1A) || (0x20 ≤ n && n ≤ 0x26) || (0x40 ≤ n && n ≤ 0x57)

/-- Sources of the first class: those with a sample period (R477). -/
def srcSampled (n : Nat) : Bool := srcExists n && decide (n ≤ 0x16)

/-- Port sources (0x40 + n). -/
def srcPort (n : Nat) : Bool := decide (0x40 ≤ n) && decide (n ≤ 0x57)

/-- Event sources: neither sampled nor ports (R484). -/
def srcEvent (n : Nat) : Bool := srcExists n && !srcSampled n && !srcPort n

/-- Default responses (Table 17.2). -/
def srcRespDflt (n : Nat) : Resp :=
  if !srcExists n then .none
  else match n with
  | 0x00 => .log | 0x01 => .hold | 0x02 => .reset | 0x03 => .log | 0x09 => .reset | 0x12 => .log
  | 0x15 => .lock | 0x19 => .log | 0x20 => .log | 0x21 => .log | _ => .notify

/-- FILT defaults (Table 17.2); event and port sources read 1 (R484). -/
def srcFiltDflt (n : Nat) : Nat :=
  if !srcExists n then 0
  else match n with
  | 0x00 => 4 | 0x01 => 4 | 0x02 => 1 | 0x03 => 4 | 0x04 => 2 | 0x08 => 2 | 0x09 => 1 | 0x0A => 2
  | 0x10 => 2 | 0x11 => 2 | 0x12 => 1 | 0x14 => 2 | 0x15 => 2 | 0x16 => 3 | _ => 1

/-- Minimum floors after SEAL (Table 17.2). -/
def srcMinFloor (n : Nat) : Resp :=
  if !srcExists n then .none
  else match n with
  | 0x14 => .notify | 0x15 => .lock | 0x16 => .notify | 0x22 => .notify | _ => .log

/-- Floors in FOUNDRY (R476). -/
def srcFloorDflt (n : Nat) : Resp := if n = 0x22 then .notify else .none

def WATCH_RESP (n : SrcId) : Field := ⟨srcOff n, 2, 0, .rwt, (srcRespDflt n.val).code, .main, 0⟩
def WATCH_FILT (n : SrcId) : Field := ⟨srcOff n, 15, 8, .rwt, srcFiltDflt n.val, .main, 0⟩
def WATCH_CFILT (n : SrcId) : Field := ⟨srcOff n, 19, 16, .rwt, if srcExists n.val then 1 else 0, .main, 0⟩
def WATCH_ARM (n : SrcId) : Field := ⟨srcOff n, 24, 24, .rwt, 0, .main, 0⟩
def WATCH_FLOOR (n : SrcId) : Field := ⟨srcOff n + 4, 2, 0, .rws, (srcFloorDflt n.val).code, .cellar, 0⟩
def WATCH_FMAX (n : SrcId) : Field := ⟨srcOff n + 4, 15, 8, .rws, if srcExists n.val then 16 else 0, .main, 0⟩
def WATCH_ESCN (n : SrcId) : Field := ⟨srcOff n + 8, 3, 0, .rws, 0, .main, 0⟩
def WATCH_ESCRESP (n : SrcId) : Field := ⟨srcOff n + 8, 6, 4, .rws, 0, .main, 0⟩
def WATCH_ESCWIN (n : SrcId) : Field := ⟨srcOff n + 8, 31, 16, .rws, 0, .main, 0⟩
def WATCH_ST_ACTED (n : SrcId) : Field := ⟨srcOff n + 12, 6, 4, .ro, 0, .main, 0⟩
def WATCH_ST_COUNT (n : SrcId) : Field := ⟨srcOff n + 12, 31, 16, .rc, 0, .main, 0⟩

/-! ## CEL (Tables 3.12, 17.9) -/
def CEL_FLAGS_LOCKED : Field := ⟨0xD000, 0, 0, .ro, 0, .cellar, 0⟩
def CEL_FLAGS_ERASEPEND : Field := ⟨0xD000, 1, 1, .ro, 0, .cellar, 0⟩
def CEL_FLAGS_TIMEUNK : Field := ⟨0xD000, 2, 2, .ro, 0, .cellar, 0⟩
def CEL_FLAGS_LIFE : Field := ⟨0xD000, 6, 4, .ro, 0, .cellar, 0⟩
def CEL_CFG_T_CS : Field := ⟨0xD004, 2, 0, .rws, 3, .cellar, 0⟩
def CEL_TLOG_LOST : Field := ⟨0xD008, 31, 16, .ro, 0, .cellar, 0⟩
def CEL_TLCOPY_COPIED : Field := ⟨0xD00C, 15, 0, .ro, 0, .cellar, 0⟩
def CEL_TLCOPY_PEND : Field := ⟨0xD00C, 23, 16, .ro, 0, .cellar, 0⟩
def CEL_TLSEL (a : Agent) : Field := ⟨0xD010, 5, 0, .rw, 0, .main, a.view⟩
def CEL_LOCKSRC : Field := ⟨0xD024, 7, 0, .ro, 0xFF, .cellar, 0⟩
def CEL_RSTCFG_T_STUCK : Field := ⟨0xD100, 7, 0, .rws, 0x1E, .cellar, 0⟩
def CEL_RSTHOLD_ACTIVE : Field := ⟨0xD104, 0, 0, .ro, 0, .cellar, 0⟩
def CEL_RSTHOLD_STUCK : Field := ⟨0xD104, 1, 1, .ro, 0, .cellar, 0⟩
def CEL_RSTSTART_UTC : Field := ⟨0xD108, 31, 0, .ro, 0, .cellar, 0⟩
def CEL_RSTDUR_MS : Field := ⟨0xD10C, 31, 0, .ro, 0, .cellar, 0⟩

/-! ## TBS (Tables 16.5, 16.6); "stored" fields are loaded from parameter group 5 at RISE -/
def TBS_STAT_STATE : Field := ⟨0xE000, 1, 0, .ro, 0, .main, 0⟩
def TBS_STAT_PPSOFF : Field := ⟨0xE000, 4, 4, .ro, 0, .main, 0⟩
def TBS_STAT_TDCFAIL : Field := ⟨0xE000, 11, 8, .ro, 0, .main, 0⟩
def TBS_PPSCFG_DELAY : Field := ⟨0xE018, 15, 0, .rwt, 0, .main, 0⟩
def TBS_PPSCFG_LOSS : Field := ⟨0xE018, 19, 16, .rwt, 3, .main, 0⟩
def TBS_PPSCFG_HOLDMAX : Field := ⟨0xE018, 31, 24, .rwt, 60, .main, 0⟩
def TBS_PPSERR : Field := ⟨0xE01C, 31, 0, .ro, 0, .main, 0⟩
def TBS_AGE : Field := ⟨0xE020, 15, 0, .ro, 0, .main, 0⟩
def TBS_ADJCFG_MAX : Field := ⟨0xE024, 11, 0, .rws, 60, .main, 0⟩
def TBS_ADJCFG_WIN : Field := ⟨0xE024, 20, 16, .rws, 7, .main, 0⟩
def TBS_ADJUSED : Field := ⟨0xE028, 31, 0, .ro, 0, .main, 0⟩
def TBS_ADJWSTART : Field := ⟨0xE02C, 31, 0, .ro, 0, .main, 0⟩
def TBS_LEAP_DAY : Field := ⟨0xE030, 31, 0, .rwt, 0, .main, 0⟩
def TBS_SPDCFG_WIN : Field := ⟨0xE034, 11, 0, .rwt, 1000, .main, 0⟩
def TBS_LEAPCTL_DIR : Field := ⟨0xE038, 1, 0, .rwt, 0, .main, 0⟩
def TBS_LEAPCTL_TAI : Field := ⟨0xE038, 15, 8, .rwt, 37, .main, 0⟩

/-! ## RLY (Tables 9.6, 9.7) -/
def rlyOff (n : Fin 8) : Nat := 0xF000 + 0x40 * n.val
def RLY_CMD (n : Fin 8) : Field := ⟨rlyOff n, 2, 0, .wo, 0, .main, 0⟩
def RLY_SRC_KIND (n : Fin 8) : Field := ⟨rlyOff n + 4, 1, 0, .rw, 0, .main, 0⟩
def RLY_SRC_Q (n : Fin 8) : Field := ⟨rlyOff n + 4, 13, 8, .rw, 0, .main, 0⟩
def RLY_SADR (n : Fin 8) : Field := ⟨rlyOff n + 8, 31, 0, .rw, 0, .main, 0⟩
def RLY_LEN (n : Fin 8) : Field := ⟨rlyOff n + 0xC, 12, 0, .rw, 0, .main, 0⟩
def RLY_SRCCHK (n : Fin 8) : Field := ⟨rlyOff n + 0x10, 31, 0, .rw, 0, .main, 0⟩
def RLY_DST_KIND (n : Fin 8) : Field := ⟨rlyOff n + 0x14, 1, 0, .rw, 0, .main, 0⟩
def RLY_DST_Q (n : Fin 8) : Field := ⟨rlyOff n + 0x14, 13, 8, .rw, 0, .main, 0⟩
def RLY_DST_FLAGS (n : Fin 8) : Field := ⟨rlyOff n + 0x14, 19, 16, .rw, 0, .main, 0⟩
def RLY_DST_TXN (n : Fin 8) : Field := ⟨rlyOff n + 0x14, 23, 20, .rw, 0, .main, 0⟩
def RLY_DST_SEQ (n : Fin 8) : Field := ⟨rlyOff n + 0x14, 31, 24, .rw, 0, .main, 0⟩
def RLY_DADR (n : Fin 8) : Field := ⟨rlyOff n + 0x18, 31, 0, .rw, 0, .main, 0⟩
def RLY_KEY (n : Fin 8) : Field := ⟨rlyOff n + 0x1C, 31, 0, .rw, 0, .main, 0⟩
def RLY_STAT_STATE (n : Fin 8) : Field := ⟨rlyOff n + 0x20, 2, 0, .ro, 0, .main, 0⟩
def RLY_STAT_RESULT (n : Fin 8) : Field := ⟨rlyOff n + 0x20, 7, 4, .ro, 0, .main, 0⟩
def RLY_STAT_SEALED (n : Fin 8) : Field := ⟨rlyOff n + 0x20, 8, 8, .ro, 0, .main, 0⟩
def RLY_STAT_SRCFREE (n : Fin 8) : Field := ⟨rlyOff n + 0x20, 9, 9, .ro, 0, .main, 0⟩
def RLY_STAT_DFLUSH (n : Fin 8) : Field := ⟨rlyOff n + 0x20, 10, 10, .ro, 0, .main, 0⟩
def RLY_STAT_OWNER (n : Fin 8) : Field := ⟨rlyOff n + 0x20, 12, 12, .ro, 0, .main, 0⟩
def RLY_STAT_IEN (n : Fin 8) : Field := ⟨rlyOff n + 0x20, 16, 16, .rw, 0, .main, 0⟩
def RLY_DSTCHK (n : Fin 8) : Field := ⟨rlyOff n + 0x24, 31, 0, .ro, 0, .main, 0⟩
def RLY_HDR (n : Fin 8) : Field := ⟨rlyOff n + 0x28, 31, 0, .ro, 0, .main, 0⟩
def RLY_ERR_LANE : Field := ⟨0xF200, 0, 0, .w1c, 0, .main, 0⟩
def RLY_ERR_SESS : Field := ⟨0xF200, 1, 1, .w1c, 0, .main, 0⟩
def RLY_LANE (n : Fin 6) : Field := ⟨0xF204, 4 * n.val + 3, 4 * n.val, .rc, 0, .main, 0⟩
def RLY_CNT_DROPSRC : Field := ⟨0xF208, 15, 0, .rc, 0, .main, 0⟩

/-! ## HLK (Table 7.6) -/
def HLK_CFG_IENQ : Field := ⟨0x10000, 7, 0, .rwt, 0xFF, .main, 0⟩
def HLK_CFG_IENERR : Field := ⟨0x10000, 8, 8, .rwt, 1, .main, 0⟩
def HLK_CFG_H6EN : Field := ⟨0x10000, 9, 9, .rws, 1, .main, 0⟩
def HLK_STAT_LASTQ : Field := ⟨0x10004, 18, 16, .ro, 0, .main, 0⟩
def HLK_STAT_LASTRES : Field := ⟨0x10004, 21, 20, .ro, 0, .main, 0⟩
def HLK_WSEQ (k : Fin 8) : Field :=
  ⟨if k.val < 4 then 0x10008 else 0x10014, 8 * (k.val % 4) + 7, 8 * (k.val % 4), .ro, 0, .main, 0⟩
def HLK_ERR_CRC : Field := ⟨0x1000C, 0, 0, .w1c, 0, .main, 0⟩
def HLK_ERR_HDR : Field := ⟨0x1000C, 1, 1, .w1c, 0, .main, 0⟩
def HLK_ERR_MODE : Field := ⟨0x1000C, 2, 2, .w1c, 0, .main, 0⟩
def HLK_ERR_ABORT : Field := ⟨0x1000C, 3, 3, .w1c, 0, .main, 0⟩
def HLK_ERR_SRC : Field := ⟨0x1000C, 4, 4, .w1c, 0, .main, 0⟩
def HLK_ERR_BIG : Field := ⟨0x1000C, 5, 5, .w1c, 0, .main, 0⟩
def HLK_ERR_ACK : Field := ⟨0x1000C, 6, 6, .w1c, 0, .main, 0⟩
def HLK_ERR_ACKCRC : Field := ⟨0x1000C, 7, 7, .w1c, 0, .main, 0⟩
def HLK_CNT_CRCERR : Field := ⟨0x10010, 15, 0, .rc, 0, .main, 0⟩
def HLK_CNT_RETRY : Field := ⟨0x10010, 31, 16, .rc, 0, .main, 0⟩

/-! ## CON (Tables 4.10, 4.11) -/
def CON_CFG_CHKREQ : Field := ⟨0x11000, 0, 0, .rwt, 0, .main, 0⟩
def CON_CFG_IDLE : Field := ⟨0x11000, 15, 8, .rwt, 30, .main, 0⟩
def CON_CFG_APTO : Field := ⟨0x11000, 23, 16, .rwt, 20, .main, 0⟩
def CON_LINE_BAUD : Field := ⟨0x11004, 3, 0, .ro, 7, .main, 0⟩
def CON_LINE_ECHO : Field := ⟨0x11004, 4, 4, .ro, 1, .main, 0⟩
def CON_ERR_FRAME : Field := ⟨0x1100C, 0, 0, .w1c, 0, .main, 0⟩
def CON_ERR_OVF : Field := ⟨0x1100C, 1, 1, .w1c, 0, .main, 0⟩
def CON_ERR_LONG : Field := ⟨0x1100C, 2, 2, .w1c, 0, .main, 0⟩
def CON_CNT_E20 : Field := ⟨0x11010, 15, 0, .rc, 0, .main, 0⟩
def CON_CNT_E21 : Field := ⟨0x11010, 31, 16, .rc, 0, .main, 0⟩
/-- CON_AUTH.FAILS, from the Larder parameter store (R136). -/
def CON_AUTH_FAILS : Field := ⟨0x11014, 7, 0, .ro, 0, .main, 0⟩

/-! ## TELE, CARE, ATTIC (Table 18.8) -/
def TELE_CFG_PER : Field := ⟨0x12000, 15, 0, .rwt, 1000, .main, 0⟩
def TELE_CFG_INFOTO : Field := ⟨0x12000, 17, 16, .rwt, 0, .main, 0⟩
def TELE_CFG_HOSTCTL : Field := ⟨0x12000, 20, 20, .rws, 0, .main, 0⟩
def TELE_STAT_STREAM : Field := ⟨0x12004, 0, 0, .ro, 0, .main, 0⟩
def TELE_STAT_REJECT : Field := ⟨0x12004, 31, 16, .rc, 0, .main, 0⟩
def TELE_LAST (k : Fin 8) : Field := ⟨0x12010 + 4 * k.val, 31, 0, .ro, 0, .main, 0⟩
def CARE_CFG_AWARN : Field := ⟨0x12100, 6, 0, .rws, 80, .main, 0⟩
def CARE_CFG_LWARN : Field := ⟨0x12100, 14, 8, .rws, 80, .main, 0⟩
def CARE_STAT_LAG : Field := ⟨0x12104, 15, 0, .rc, 0, .main, 0⟩
def CARE_STAT_RESTARTS : Field := ⟨0x12104, 23, 16, .rc, 0, .main, 0⟩
def CARE_CNT_SRAMCORR : Field := ⟨0x12108, 15, 0, .rc, 0, .main, 0⟩
def CARE_CNT_REFRESH : Field := ⟨0x12108, 23, 16, .rc, 0, .main, 0⟩
def CARE_CNT_INFODROP : Field := ⟨0x12108, 31, 24, .rc, 0, .main, 0⟩
def ATTIC_HEAD : Field := ⟨0x12200, 17, 0, .ro, 0, .nv, 0⟩
def ATTIC_TAIL : Field := ⟨0x12204, 17, 0, .ro, 0, .nv, 0⟩
def ATTIC_SEQ : Field := ⟨0x12208, 15, 0, .ro, 0, .nv, 0⟩
def ATTIC_STAT_LOST : Field := ⟨0x1220C, 15, 0, .rc, 0, .main, 0⟩

/-! ## HATCH (Tables 1.11 to 1.13) -/
def HATCH_CMD (n : Fin 16) : Field := ⟨0x13400 + 4 * n.val, 2, 0, .wo, 0, .main, 0⟩
/-- HATCH_CTLn.DROPPED: set in the sender's view (R29). -/
def HATCH_DROPPED (n : Fin 16) : Field := ⟨0x13400 + 4 * n.val, 24, 24, .w1c, 0, .main, 0⟩
def HATCH_IEN (a : Agent) : Field := ⟨0x13444, 0, 0, .rw, 0, .main, a.view⟩
def HATCH_ERR_CRC (a : Agent) : Field := ⟨0x13448, 0, 0, .w1c, 0, .main, a.view⟩
def HATCH_ERR_STATE (a : Agent) : Field := ⟨0x13448, 1, 1, .w1c, 0, .main, a.view⟩
def HATCH_ERR_OWNER (a : Agent) : Field := ⟨0x13448, 2, 2, .w1c, 0, .main, a.view⟩
def HATCH_ERR_KIND (a : Agent) : Field := ⟨0x13448, 3, 3, .w1c, 0, .main, a.view⟩

/-! ## CPUn: core-local CSRs (Table 10.6); they occupy no device address, so their keys lie above device space -/
def csrOff (c : CpuId) (num : Nat) : Nat := 0x20000 + 0x4000 * c.val + 4 * num
def CPU_ILVL (c : CpuId) (src : Fin 16) : Field :=
  ⟨csrOff c (0x7C0 + src.val / 8), 4 * (src.val % 8) + 2, 4 * (src.val % 8), .rw, 0, .main, 0⟩
/-- Latched event sources of CPUn_IPEND (R304); level sources follow their blocks. -/
def CPU_IPEND (c : CpuId) : Field := ⟨csrOff c 0x7C2, 15, 0, .w1c, 0, .main, 0⟩
def CPU_ITHR (c : CpuId) : Field := ⟨csrOff c 0x7C3, 2, 0, .rw, 0, .main, 0⟩
def CPU_WDOG_PER (c : CpuId) : Field := ⟨csrOff c 0x7C4, 15, 0, .rw, 1000, .main, 0⟩
def CPU_WDKICK (c : CpuId) : Field := ⟨csrOff c 0x7C5, 7, 0, .wo, 0, .main, 0⟩
def CPU_ECC_CORR (c : CpuId) : Field := ⟨csrOff c 0x7C6, 15, 0, .rw, 0, .main, 0⟩
def CPU_WDCNT (c : CpuId) : Field := ⟨csrOff c 0xFC1, 15, 0, .ro, 0, .main, 0⟩
def CPU_BOOT_SLOT (c : CpuId) : Field := ⟨csrOff c 0xFC2, 0, 0, .ro, 0, .main, 0⟩
def CPU_BOOT_FALLBACK (c : CpuId) : Field := ⟨csrOff c 0xFC2, 1, 1, .ro, 0, .main, 0⟩
def CPU_BOOT_APPOK (c : CpuId) : Field := ⟨csrOff c 0xFC2, 2, 2, .ro, 0, .main, 0⟩
def CPU_BOOT_VERSION (c : CpuId) : Field := ⟨csrOff c 0xFC3, 31, 0, .ro, 0, .main, 0⟩

/-! ## The fields of one register, by offset and reading agent -/

/-- A bounded index from a number. -/
def finOf (n : Nat) [NeZero n] (i : Nat) : Fin n := Fin.ofNat n i

/-- The stored fields of the device register at an offset, as the agent sees it. -/
def fieldsAt (a : Agent) (off : Nat) : List Field :=
  let pick (l : List Field) : List Field := l.filter (fun f => decide (f.off = off))
  if off < 0x1000 then
    pick [SYS_RSTCAUSE_KIND, SYS_RSTCAUSE_WHY, SYS_RSTCAUSE_SRC, SYS_RISE_STEP, SYS_RISE_FUSEPEND, SYS_RISE_FAIL,
      SYS_RISE_NOFW, SYS_RISE_NOUC, SYS_RISE_SHADOWRW, SYS_RISE_REPLAY, SYS_RISE_DUR]
  else if off < 0x1100 then
    pick ([TICK_CFG_PER, TICK_CFG_BGF, TICK_CFG_RAEN, TICK_STAT_RUN, TICK_STAT_RCFB, TICK_STAT_PERPEND,
      TICK_STAT_BOOKERR, TICK_STAT_DONEERR, TICK_FRAME_COUNT, TICK_KICK 0, TICK_KICK 1, TICK_DONE_JOB,
      TICK_OVR_COUNT, TICK_OVR_LAST, TICK_SKIP_COUNT] ++
      [TICK_CORE_JOB 0, TICK_CORE_ACTIVE 0, TICK_CORE_ABORT 0, TICK_CORE_ARG 0,
       TICK_CORE_JOB 1, TICK_CORE_ACTIVE 1, TICK_CORE_ABORT 1, TICK_CORE_ARG 1])
  else if off < 0x1500 then
    let j := finOf 64 ((off % 0x1000 - 0x100) / 0x10)
    pick [TICK_JOB_VALID j, TICK_JOB_OWNER j, TICK_JOB_DOZE j, TICK_JOB_SPAN j, TICK_JOB_BUDGET j,
      TICK_JOB_PERIOD j, TICK_JOB_PHASE j, TICK_JOB_ARG j, TICK_JOB_STATUS j]
  else if 0x1600 ≤ off ∧ off < 0x1800 then
    let m := finOf 16 ((off % 0x200) / 0x20)
    pick [TICK_RA_KEY m 0, TICK_RA_KEY m 1, TICK_RA_KEY m 2, TICK_RA_KEY m 3, TICK_RA_KEY m 4,
      TICK_RA_JOB m, TICK_RA_REGION m, TICK_RA_EN m, TICK_RA_STATE m, TICK_RA_RES m, TICK_RA_IDX m]
  else if 0x2000 ≤ off ∧ off < 0x3800 then
    let n := finOf 24 ((off % 0x2000) / 0x100)
    pick ([PORT_FUNC_FN n, PORT_FUNC_FIX n, PORT_CFG_FILT n, PORT_CFG_PULLA n, PORT_CFG_PULLB n, PORT_CFG_AUTOCLR n,
      PORT_STAT_CLAIM n, PORT_STAT_ARMED n, PORT_STAT_EVENT n, PORT_STAT_DISC n, PORT_STAT_RBERR n, PORT_STAT_SWA n,
      PORT_STAT_SWB n, PORT_STAT_PRES n, PORT_STAT_ACTIVE n, PORT_PAR n 0, PORT_PAR n 1, PORT_PAR n 2, PORT_PAR n 3] ++
      [PORT_CNT0 n, PORT_CNT1 n, PORT_HARV_LVLA n, PORT_HARV_LVLB n, PORT_HARV_VAL n, PORT_HARV_DISC n,
      PORT_PCNT_PULSES n, PORT_PCNT_REV n, PORT_SPEED_KMH n, PORT_SPEED_VALID n, PORT_GPIO_OUTA n, PORT_GPIO_OUTB n,
      PORT_GPIO_EDGA n, PORT_GPIO_EDGB n, PORT_CARDCMD n] ++
      [PORT_CXCMD n 0, PORT_CXCMD n 1, PORT_CXCMD n 2, PORT_CXCMD n 3, PORT_CXCMD n 4, PORT_CXCMD n 5, PORT_CXCMD n 6,
      PORT_CXCMD n 7, PORT_CXCTL_LEN n, PORT_CXCTL_GO n, PORT_CXRSP n 0, PORT_CXRSP n 1, PORT_CXRSP n 2, PORT_CXRSP n 3,
      PORT_CXSTAT_STATE n, PORT_CXSTAT_RLEN n])
  else if 0x4000 ≤ off ∧ off < 0x4800 then
    let q := finOf 64 ((off % 0x4000) / 0x20)
    pick [QFX_RES q, QFX_QUOTA q, QFX_FULL q, QFX_IEN q, QFX_OWNER q, QFX_PROD q, QFX_SRC_ID q, QFX_CMD q, QFX_PUSH q,
      QFX_STAT_CHK q, QFX_STAT_NOROOM q, QFX_CNT_DROPS q, QFX_CNT_DESYNC q]
  else if 0x4800 ≤ off ∧ off < 0x5000 then
    pick [QFX_STAT_CFGERR, QFX_ERR_DOUBLE, QFX_ERR_NOTOWNER, QFX_ERR_NOMARK, QFX_ERR_UNDER, QFX_ERR_PCRC, QFX_ERR_HDR,
      QFX_ERR_BIG, QFX_ERR_QN, QFX_FLUSHLIM]
  else if 0x5000 ≤ off ∧ off < 0x6000 then
    pick ([PKE_SHELFCFG_LEN, PKE_STAT_SHELFPEND, PKE_STAT_STOPPED, PKE_CBASE, PKE_UC_VER, PKE_ERR_SHELF, PKE_ERR_SEALED,
      PKE_ERR_CHAN, PKE_CNT_FAULTS, PKE_CNT_POINTINV, PKE_LASTF_OP, PKE_LASTF_CURVE, PKE_LASTF_IDX] ++
      (match a.cpu with
       | some c => [PKE_DW c 0, PKE_DW c 1, PKE_DW c 2, PKE_DW c 3, PKE_DCMD c, PKE_DSTAT_STATE c, PKE_DSTAT_CODE c,
           PKE_DSTAT_VCODE c, PKE_DSTAT_CMP c]
       | none => []))
  else if 0x6000 ≤ off ∧ off < 0x7000 then
    pick ([SYM_CBASE, SYM_ERR_CTX, SYM_ERR_CHAN, SYM_CNT_INVALID] ++
      (match a.cpu with
       | some c => [SYM_DW c 0, SYM_DW c 1, SYM_DW c 2, SYM_DW c 3, SYM_DW c 4, SYM_DW c 5, SYM_DW c 6, SYM_DW c 7,
           SYM_DCMD c, SYM_DSTAT_STATE c, SYM_DSTAT_CODE c, SYM_DSTAT_VCODE c]
       | none => []))
  else if 0x7000 ≤ off ∧ off < 0x8000 then
    pick [RNG_CFG_RESEED_REQ, RNG_CFG_RESEED_MS, RNG_STAT_FAIL, RNG_STAT_DEAD, RNG_STAT_EMPTY, RNG_CNT_RCT, RNG_CNT_APT]
  else if 0x8000 ≤ off ∧ off < 0x9000 then
    pick ((if a = .care then [] else [VLT_CMD_CMD a, VLT_CMD_IDX a, VLT_STAT_STATE a, VLT_STAT_CODE a, VLT_STAT_IDX a, VLT_STG_ID a, VLT_STG_ROLE a,
      VLT_STG_TYPE a, VLT_STG_USE a, VLT_STG_PRIO a, VLT_STG_ANYOK a, VLT_STG_AUTOIDX a, VLT_STG_IDX a, VLT_STG_PAIR a,
      VLT_WINOFF a, VLT_WIN a, VLT_LK0_ID a, VLT_LK1_ROLE a, VLT_LK1_OP a, VLT_LKRES_IDX a, VLT_LKRES_MULTI a, VLT_HDR a 0,
      VLT_HDR a 1, VLT_HDR a 2, VLT_HDR a 3, VLT_DENY_ROLE a, VLT_DENY_USE a, VLT_DENY_DANY a, VLT_DENYID a]) ++
      [VLT_CFG_REMASK_PER, VLT_REMASK_PTR, VLT_REMASK_PASSES])
  else if 0x9000 ≤ off ∧ off < 0xA000 then
    pick ([STR_CFG_H, STR_CFG_MOVE_BUDGET, STR_CFG_A0OWN, STR_CFG_A1OWN, STR_SIZE0_K, STR_SIZE0_C, STR_SIZE1_A0,
      STR_SIZE1_A1, STR_STAT_RATE, STR_STAT_TJ, STR_STAT_ORPHANS, STR_MOVE_PTR, STR_CNT_MOVES, STR_CNT_REPAIRS,
      STR_ERR_PAR, STR_ERR_LEDGER, STR_ERR_BAD, STR_ERR_NOTOWNER, STR_ERR_SIZE, STR_ERR_IDX, STR_BATCH_BASE] ++
      (match a.cpu with
       | some c => [STR_KEY c 0, STR_KEY c 1, STR_KEY c 2, STR_KEY c 3, STR_KEY c 4, STR_SCMD_REGION c, STR_SCMD_GO c,
           STR_SSTAT_STATE c, STR_SRES c, STR_SIDX c, STR_UKEY c 0, STR_UKEY c 1, STR_UKEY c 2, STR_UKEY c 3, STR_UKEY c 4,
           STR_UMSK c 0, STR_UMSK c 1, STR_UMSK c 2, STR_UMSK c 3, STR_UMSK c 4, STR_UATTR_PRIO c, STR_UATTR_DENY c,
           STR_UATTR_KEEP c, STR_UATTR_PLACE c, STR_UATTR_REGION c, STR_URES c, STR_UCMD c, STR_USTAT_STATE c,
           STR_USTAT_CODE c, STR_USTAT_IDX c]
       | none => []))
  else if 0xA000 ≤ off ∧ off < 0xB000 then
    let k := finOf 8 ((off % 0x20) / 4)
    pick ([ARC_CFG_SUSPEND, ARC_CFG_IEN, ARC_CFG_ERAHEAD, ARC_STAT_WORN, ARC_ERR_UNCORR, ARC_ERR_CFG, ARC_EADDR,
      ARC_CNT_CORR, ARC_CNT_SUSPENDS, ARC_CBASE, ARC_AREA_START k, ARC_AREA_SECTORS k, ARC_AREA_POLICY k, ARC_AREA_EN k] ++
      (match a.cpu with
       | some c => [ARC_ASEL c, ARC_TCMD c, ARC_TARG c, ARC_TSTAT_STATE c, ARC_TSTAT_CODE c]
       | none => []))
  else if 0xB000 ≤ off ∧ off < 0xC000 then
    pick ([LDR_STAT_HOLDOFF, LDR_STAT_SCRUB, LDR_STAT_PDEF, LDR_ERR_HELD, LDR_ERR_UNCORR, LDR_ERR_MISUSE, LDR_ERR_RING,
      LDR_EADDR, LDR_CNT_CORR, LDR_CNT_UNCORR] ++
      (match a.cpu with
       | some c => [LDR_CSEL c, LDR_INCAMT c, LDR_INC c, LDR_INCSTAT c, LDR_RCFG_CTR c, LDR_RCFG_SLOTS c, LDR_RCFG_GO c,
           LDR_PSAVE c, LDR_PSTAT_STATE c, LDR_PSTAT_CODE c]
       | none => []))
  else if 0xC000 ≤ off ∧ off < 0xC100 then
    pick [WATCH_STAT_STIMRUN, WATCH_ERR_FLOOR, WATCH_ERR_MODE, WATCH_ERR_STIM, WATCH_NOTE 0, WATCH_NOTE 1, WATCH_NOTE 2,
      WATCH_STIM, WATCH_THR0_VBATTH, WATCH_THR0_TLO, WATCH_THR0_THI, WATCH_THR0_SLEW, WATCH_THR1_FIELDTH,
      WATCH_THR1_LIGHTSENS]
  else if 0xC100 ≤ off ∧ off < 0xC680 then
    let n := finOf 0x58 ((off % 0x1000 - 0x100) / 0x10)
    if srcExists n.val then
      pick [WATCH_RESP n, WATCH_FILT n, WATCH_CFILT n, WATCH_ARM n, WATCH_FLOOR n, WATCH_FMAX n, WATCH_ESCN n,
        WATCH_ESCRESP n, WATCH_ESCWIN n, WATCH_ST_ACTED n, WATCH_ST_COUNT n]
    else []
  else if 0xD000 ≤ off ∧ off < 0xE000 then
    pick [CEL_FLAGS_LOCKED, CEL_FLAGS_ERASEPEND, CEL_FLAGS_TIMEUNK, CEL_FLAGS_LIFE, CEL_CFG_T_CS, CEL_TLOG_LOST,
      CEL_TLCOPY_COPIED, CEL_TLCOPY_PEND, CEL_TLSEL a, CEL_LOCKSRC, CEL_RSTCFG_T_STUCK, CEL_RSTHOLD_ACTIVE,
      CEL_RSTHOLD_STUCK, CEL_RSTSTART_UTC, CEL_RSTDUR_MS]
  else if 0xE000 ≤ off ∧ off < 0xF000 then
    pick [TBS_STAT_STATE, TBS_STAT_PPSOFF, TBS_STAT_TDCFAIL, TBS_PPSCFG_DELAY, TBS_PPSCFG_LOSS, TBS_PPSCFG_HOLDMAX,
      TBS_PPSERR, TBS_AGE, TBS_ADJCFG_MAX, TBS_ADJCFG_WIN, TBS_ADJUSED, TBS_ADJWSTART, TBS_LEAP_DAY, TBS_SPDCFG_WIN,
      TBS_LEAPCTL_DIR, TBS_LEAPCTL_TAI]
  else if 0xF000 ≤ off ∧ off < 0xF200 then
    let n := finOf 8 ((off % 0x1000) / 0x40)
    pick [RLY_CMD n, RLY_SRC_KIND n, RLY_SRC_Q n, RLY_SADR n, RLY_LEN n, RLY_SRCCHK n, RLY_DST_KIND n, RLY_DST_Q n,
      RLY_DST_FLAGS n, RLY_DST_TXN n, RLY_DST_SEQ n, RLY_DADR n, RLY_KEY n, RLY_STAT_STATE n, RLY_STAT_RESULT n,
      RLY_STAT_SEALED n, RLY_STAT_SRCFREE n, RLY_STAT_DFLUSH n, RLY_STAT_OWNER n, RLY_STAT_IEN n, RLY_DSTCHK n, RLY_HDR n]
  else if 0xF200 ≤ off ∧ off < 0x10000 then
    pick [RLY_ERR_LANE, RLY_ERR_SESS, RLY_LANE 0, RLY_LANE 1, RLY_LANE 2, RLY_LANE 3, RLY_LANE 4, RLY_LANE 5,
      RLY_CNT_DROPSRC]
  else if 0x10000 ≤ off ∧ off < 0x11000 then
    pick [HLK_CFG_IENQ, HLK_CFG_IENERR, HLK_CFG_H6EN, HLK_STAT_LASTQ, HLK_STAT_LASTRES, HLK_WSEQ 0, HLK_WSEQ 1, HLK_WSEQ 2,
      HLK_WSEQ 3, HLK_WSEQ 4, HLK_WSEQ 5, HLK_WSEQ 6, HLK_WSEQ 7, HLK_ERR_CRC, HLK_ERR_HDR, HLK_ERR_MODE, HLK_ERR_ABORT,
      HLK_ERR_SRC, HLK_ERR_BIG, HLK_ERR_ACK, HLK_ERR_ACKCRC, HLK_CNT_CRCERR, HLK_CNT_RETRY]
  else if 0x11000 ≤ off ∧ off < 0x12000 then
    pick [CON_CFG_CHKREQ, CON_CFG_IDLE, CON_CFG_APTO, CON_LINE_BAUD, CON_LINE_ECHO, CON_ERR_FRAME, CON_ERR_OVF,
      CON_ERR_LONG, CON_CNT_E20, CON_CNT_E21, CON_AUTH_FAILS]
  else if 0x12000 ≤ off ∧ off < 0x13000 then
    pick [TELE_CFG_PER, TELE_CFG_INFOTO, TELE_CFG_HOSTCTL, TELE_STAT_STREAM, TELE_STAT_REJECT, TELE_LAST 0, TELE_LAST 1,
      TELE_LAST 2, TELE_LAST 3, TELE_LAST 4, TELE_LAST 5, TELE_LAST 6, TELE_LAST 7, CARE_CFG_AWARN, CARE_CFG_LWARN,
      CARE_STAT_LAG, CARE_STAT_RESTARTS, CARE_CNT_SRAMCORR, CARE_CNT_REFRESH, CARE_CNT_INFODROP, ATTIC_HEAD, ATTIC_TAIL,
      ATTIC_SEQ, ATTIC_STAT_LOST]
  else if 0x13400 ≤ off ∧ off < 0x14000 then
    let n := finOf 16 ((off % 0x400) / 4)
    pick [HATCH_CMD n, HATCH_DROPPED n, HATCH_IEN a, HATCH_ERR_CRC a, HATCH_ERR_STATE a, HATCH_ERR_OWNER a,
      HATCH_ERR_KIND a]
  else []

/-- The stored fields of a core's CSR (Table 10.6). -/
def csrFields (c : CpuId) (num : Nat) : List Field :=
  ([0, 1, 2, 3, 4, 5, 6, 7, 8, 9, 10, 11, 12, 13, 14, 15].map (CPU_ILVL c) ++
   [CPU_IPEND c, CPU_ITHR c, CPU_WDOG_PER c, CPU_WDKICK c, CPU_ECC_CORR c, CPU_WDCNT c, CPU_BOOT_SLOT c,
    CPU_BOOT_FALLBACK c, CPU_BOOT_APPOK c, CPU_BOOT_VERSION c]).filter (fun f => decide (f.off = csrOff c num))

/-- The plane of the block at an offset (R15, Table 1.2); TICK and HATCH belong to none. -/
def planeOf (off : Nat) : Plane :=
  if off < 0x1000 then .control
  else if off < 0x2000 then .meeting
  else if off < 0xC000 then .data
  else if off < 0xE000 then .management
  else if off < 0x11000 then .data
  else if off < 0x12000 then .control
  else if off < 0x13000 then .management
  else .meeting

/-- A listed device block stands at the offset (Table 1.8, R38): PORT ends at 0x37FF. -/
def deviceListed (off : Nat) : Bool :=
  decide (off < 0x3800) || (decide (0x4000 ≤ off) && decide (off < 0x14000))

end Sys2Proof.Machine
end

