-- ==== Sys2Proof/Machine/Sparse.lean ====
section
/-!
DEFINITION. Sparse.lean: finite maps as lists of key and value in one canonical form (keys strictly rising, no entry that
equals what an unlisted key reads as), tables of a fixed number of like things, and the registers' association list.
-/
namespace Sys2Proof.Machine

/-! ## Sparse maps -/

/-- The value of a key; `d` is what an unlisted key reads as. -/
def spGet {α : Type} (d : α) : List (Nat × α) → Nat → α
  | [], _ => d
  | (k, v) :: t, a => if k = a then v else spGet d t a

/-- Insertion at the key's place, replacing an entry of the same key. -/
def spInsert {α : Type} : List (Nat × α) → Nat → α → List (Nat × α)
  | [], a, x => [(a, x)]
  | (k, v) :: t, a, x =>
    if a < k then (a, x) :: (k, v) :: t
    else if a = k then (a, x) :: t
    else (k, v) :: spInsert t a x

/-- Removal of a key's entry. -/
def spErase {α : Type} : List (Nat × α) → Nat → List (Nat × α)
  | [], _ => []
  | (k, v) :: t, a => if k = a then t else (k, v) :: spErase t a

/-- A write: a value equal to the unlisted one removes the entry, so that equal maps are equal lists. -/
def spPut {α : Type} [DecidableEq α] (d : α) (m : List (Nat × α)) (a : Nat) (x : α) : List (Nat × α) :=
  if x = d then spErase m a else spInsert m a x

/-- Every key is above `a`. -/
def spAbove {α : Type} (a : Nat) (m : List (Nat × α)) : Bool := m.all (fun e => decide (a < e.1))

/-- The canonical form: keys strictly rising and no entry equal to what an unlisted key reads as. -/
def spWf {α : Type} [DecidableEq α] (d : Nat → α) : List (Nat × α) → Bool
  | [] => true
  | (k, v) :: t => spAbove k t && !decide (v = d k) && spWf d t

/-! ## Tables -/

/-- A fixed number of like things. -/
abbrev Tab (n : Nat) (α : Type) := Vector α n

/-- A table from a function of the index. -/
def Tab.ofFn {α : Type} (n : Nat) (f : Nat → α) : Tab n α := ⟨⟨(List.range n).map f⟩, by simp⟩

/-- A table holding one value everywhere. -/
def Tab.const {α : Type} (n : Nat) (x : α) : Tab n α := Tab.ofFn n (fun _ => x)

/-- Entry `i`. -/
def Tab.at {n : Nat} {α : Type} (t : Tab n α) (i : Fin n) : α := t[i.val]

/-- The table with entry `i` replaced. -/
def Tab.put {n : Nat} {α : Type} (t : Tab n α) (i : Fin n) (x : α) : Tab n α := t.set i.val x i.isLt

/-- The table with entry `i` changed. -/
def Tab.upd {n : Nat} {α : Type} (t : Tab n α) (i : Fin n) (f : α → α) : Tab n α := t.put i (f (t.at i))

/-- Every index, in rising order. -/
def finList (n : Nat) : List (Fin n) := List.finRange n

/-! ## The registers' list -/

/-- The value listed under a key, `d` when none is. -/
def lkGet {α : Type} (d : α) : List (Nat × α) → Nat → α
  | [], _ => d
  | (k, v) :: t, a => if k = a then v else lkGet d t a

/-- Assignment: the key's entry is replaced, or appended when none is listed. -/
def lkPut {α : Type} : List (Nat × α) → Nat → α → List (Nat × α)
  | [], a, x => [(a, x)]
  | (k, v) :: t, a, x => if k = a then (a, x) :: t else (k, v) :: lkPut t a x

end Sys2Proof.Machine
end

