-- ==== Sys2Proof/Machine/State.lean ====
section
/-!
DEFINITION. State.lean: everything the spec gives the block, as plain data, and the block right after its first power-on
(a CELLAR-LOSS reset: Table 0.3, column three).
-/
namespace Sys2Proof.Machine

/-! ## Stops -/

/-- Reasons for a machine stop. -/
inductive Fault where
  /-- Raised by no command: the spec stops the block on none. Safe. -/
  | none
deriving DecidableEq, Repr

/-- Reasons for which a command has no meaning. -/
inductive Refusal where
  /-- Raised by exec for a command whose meaning is not written. Safe. -/
  | notModelled (mnemonic : String)
deriving DecidableEq, Repr

/-! ## Registers -/

/-- One write that waits for the tick boundary (R2, R5, R18): by whom, to which field, which value. -/
structure ShadowWrite where
  agent : Agent
  fld : Field
  val : Word
deriving DecidableEq, Repr

/-! ## Modes and resets (chapter 3) -/

/-- A mode change waiting for the tick boundary (R36, R77): the mode, the cause code of its MODE record (Table 18.6), and the
core and message number to answer with MODE_ACK when a MODE_REQ asked for it (R35). -/
structure PendMode where
  dest : Mode
  cause : Nat
  core : Option CpuId := none
  seq : Byte := 0
deriving DecidableEq, Repr

/-- Mode, HOLD causes and the reset in progress (main domain). -/
structure Sys where
  mode : Mode := .rise
  prev : Mode := .rise
  pend : Option PendMode := none
  /-- the VCC cause of HOLD (R90, R91). -/
  holdVcc : Bool := false
  /-- the sources whose HOLD responses are causes (R485). -/
  holdSrc : List Nat := []
  /-- the main domain is held in reset, RST_N low (R95). -/
  held : Bool := false
  /-- the kind the present reset records (R93, R94). -/
  kind : ResetKind := .cellarLoss
  /-- RISE has passed step 2: it runs, or waits at step 4 for the PLL (R97) or at step 6 for the end of hold-off (R422). -/
  begun : Bool := false
  /-- a LOCK response acted during RISE (R101). -/
  riseLock : Bool := false
  /-- FSYS runs on the RC oscillator, and the engines have stopped (R42); the PLL holds lock again and they restart at the
  next boundary (R550). -/
  stopped : Bool := false
  relock : Bool := false
  /-- a deferred blow has failed: no further attempt until the next RISE (R100). -/
  fuseGaveUp : Bool := false
deriving DecidableEq, Repr

/-- Supplies in mV, RST_N, PLL and the lifecycle fuses (chapters 3 and 19). -/
structure Silicon where
  vcc : Nat := 3300
  vio : Nat := 3300
  vbat : Nat := 3000
  /-- the Cellar draws on VCC (R525). -/
  cellarOnVcc : Bool := true
  pll : Bool := false
  /-- LIFE[12:0] (R80). -/
  life : BitVec 13 := 0
  /-- fuse bits that do not blow (R82). -/
  stuck : BitVec 13 := 0
deriving DecidableEq, Repr

/-- A tamper-log entry (Table 17.7), without its check. -/
structure TlogEntry where
  utc : Word
  frac : BitVec 16
  src : Byte
  det : Byte
  acted : Resp
  cfg : BitVec 3
  unk : Bool
  cellar : Bool
  degraded : Bool
  escalated : Bool
  rel : Byte
  rep : Nat
  seq : Nat
deriving DecidableEq, Repr

/-- What the Cellar keeps for one source it samples (R494, R495). -/
structure CelSrc where
  resp : BitVec 3 := 0
  cfilt : Nat := 1
  /-- consecutive Cellar samples that read tripped, or clean once tripped. -/
  cnt : Nat := 0
  trip : Bool := false
  /-- consecutive samples of one disagreement, and which detector lags (R478, R479). -/
  dis : Nat := 0
  lagB : Bool := false
  /-- the disagreement has had its onset; consecutive samples at which both detectors have read alike since (R478). -/
  disDone : Bool := false
  alike : Nat := 0
deriving DecidableEq, Repr

/-- A bank C port that runs in CELLAR (R184, R227): its function, configuration and expected or last levels. -/
structure CelPort where
  fn : PortFn
  cfg : BitVec 17
  par0 : Word
  par1 : Word
  par2 : Word
  armed : Bool
  lfsr : BitVec 31
deriving DecidableEq, Repr

/-- The Cellar domain beside its registers: it keeps all of this across every reset but a Cellar loss. -/
structure Cellar where
  /-- the contents are valid (R526). -/
  valid : Bool := true
  /-- the tamper log, newest entry first, at most 64 (R498). -/
  tlog : List TlogEntry := []
  /-- SEQ of the next entry. -/
  tseq : Nat := 1
  /-- index of the newest entry (CEL_TLOG.HEAD). -/
  thead : BitVec 6 := 0
  /-- sources recorded as tripped at a reset (R489). -/
  tripped : List Nat := []
  src : Tab 0x58 CelSrc := Tab.ofFn 0x58 (fun i => { resp := BitVec.ofNat 3 (srcRespDflt i).code })
  ports : List (Nat × CelPort) := []
  /-- pending pulse amounts per counter (R552). -/
  pulses : List (Nat × Nat) := []
  /-- the mode left and the time at entry to CELLAR (R77). -/
  left : Option (Mode × Word) := none
  /-- RTC in units of 2^-20 s (R455). -/
  rtc : Nat := 0
  /-- the part of corrections and steps smaller than one unit, carried forward, in 10^-18 units (R455, R467). -/
  rtcRem : Int := 0
  /-- its temperature reading in °C plus 64, the correction in force in ppb, and the one that takes effect at the next whole
  second (R456). -/
  rtcT : Nat := 89
  corr : Int := 0
  corrNext : Int := 0
  /-- the announced leap second as the RTC holds it: DAY and DIR, and one it applied while the main domain was off (R464). -/
  leapDay : Word := 0
  leapDir : BitVec 2 := 0
  leapDone : BitVec 2 := 0
  /-- elapsed nanoseconds since the Cellar was lost last (R466). -/
  elapsed : Nat := 0
  /-- Store Room compare index (R511). -/
  strCmp : Nat := 0
deriving DecidableEq, Repr

/-! ## The tick (chapter 2) -/

/-- Phases of a frame (R50). -/
inductive Phase where
  | harvest | foreground | slack
deriving DecidableEq, Repr

/-- A released instance of a job entry, with the descriptor it keeps (R63). -/
structure JobInst where
  owner : JobOwner
  arg : BitVec 16
  /-- edges left until the deadline (R61). -/
  edges : Nat
  /-- delivered to the core, or started on the engine. -/
  started : Bool := false
  parked : Bool := false
  /-- the per-frame budget is used (R60). -/
  spent : Bool := false
  /-- parked at a landing point in favour of a job of higher priority (R65). -/
  yielded : Bool := false
  /-- a Store Room batch: searches whose results are written (R349). -/
  served : Nat := 0
  /-- the deadline edge has passed (R64). -/
  overdue : Bool := false
  /-- aborted or cancelled, waiting for its TICK_DONE (Table 2.4, R74). -/
  aborted : Bool := false
deriving DecidableEq, Repr

/-- The scheduler beside its registers. -/
structure Tick where
  /-- frames since reset (R49); TICK_FRAME.COUNT is its low 32 bits. -/
  frame : Nat := 0
  phase : Phase := .slack
  /-- the foreground window of the frame has closed (R52). -/
  closed : Bool := false
  inst : Tab 64 (Option JobInst) := Tab.const 64 none
  /-- kicks written in the frame in progress, and those of earlier frames that the next release takes (R55). -/
  kick : BitVec 64 := 0
  kicked : BitVec 64 := 0
  /-- a change of PER waiting for its boundary, with the BGF that commits with it (R48, R54). -/
  cfg : Option (Nat × Option Nat) := none
  /-- jobs whose descriptors run-ahead fetched for the next frame (R67). -/
  ahead : List JobId := []
  /-- jobs that own the slots of the latest issue (R69). -/
  raOwners : List JobId := []
  /-- a response of RESET or higher, or the abort of a slot's job, cancels the next frame's run-ahead results (R69). -/
  cancel : Bool := false
deriving DecidableEq, Repr

/-! ## The Hatch (chapter 1) -/

/-- Slot states (Table 1.7). -/
inductive SlotState where
  | free | writing | posted | taken
deriving DecidableEq, Repr

/-- HATCH_CTLn.STATE codes. -/
def SlotState.code : SlotState → Nat
  | .free => 0 | .writing => 1 | .posted => 2 | .taken => 3

/-- A Hatch slot: body and what RING latches (Table 1.12). -/
structure HatchSlot where
  body : Tab 16 Word := Tab.const 16 0
  st : SlotState := .free
  dest : Agent := .con
  seq : Byte := 0
  last : Bool := false
  frag : Nat := 0
deriving DecidableEq, Repr

/-! ## Watch (chapter 17) -/

/-- The running state of one source. -/
structure WSrc where
  trip : Bool := false
  deta : Bool := false
  detb : Bool := false
  /-- frames of the onsets that count toward escalation (R486). -/
  hist : List Nat := []
  /-- the frame of the source's latest entry (R485). -/
  entryAt : Option Nat := none
  /-- no further disagreement onset until both detectors have read alike (R478). -/
  disDone : Bool := false
deriving DecidableEq, Repr

/-- Watch beside its registers. -/
structure Watch where
  src : Tab 0x58 WSrc := Tab.const 0x58 {}
  /-- the detector the running stimulus round tests next (R480). -/
  stim : Option (Fin 14) := none
deriving DecidableEq, Repr

/-! ## The Caretaker and the Attic (chapter 18) -/

/-- An Attic record before its SEQ-bearing bytes are formed (Table 18.5). -/
structure AtticRec where
  typ : BitVec 4
  unk : Bool
  leap : Bool
  rise : Bool
  seq : BitVec 16
  utc : Word
  body : List Byte
deriving DecidableEq, Repr

/-- What one TELE period has gathered (Table 18.7). -/
structure TelePeriod where
  tjmax : Nat := 0
  vccmin : Nat := 3600
  ovr : Nat := 0
  skip : Nat := 0
  sram : Nat := 0
  nvcorr : Nat := 0
  strrep : Nat := 0
  qloss : Nat := 0
  onsets : Nat := 0
  status : Byte := 0
  remask : Nat := 0
  ppserr : Nat := 0
  conerr : Nat := 0
  authf : Nat := 0
deriving DecidableEq, Repr

/-- The Caretaker beside its registers. -/
structure Care where
  /-- the append buffer, oldest record first, at most 32 (R514). -/
  buf : List AtticRec := []
  period : TelePeriod := {}
  tj : Nat := 89
  /-- a TELE record is due in this frame's slack (R517). -/
  teleDue : Bool := false
  streamSeq : Byte := 0
  /-- pointers of the scrubs and of the patrol (R511). -/
  sramPtr : Nat := 0
  larderPtr : Nat := 0
  patrolPtr : Nat := 0
  /-- sectors queued for refresh (R508). -/
  refresh : List Nat := []
  /-- next message number of the Caretaker. -/
  seq : Byte := 0
  /-- percentages at which the last WEAR messages were sent (R509): Archive, Larder. -/
  awarned : Nat := 0
  lwarned : Nat := 0
  /-- work of the frame that is outstanding (R504). -/
  owing : Bool := false
deriving DecidableEq, Repr

/-! ## Time (chapter 16) -/

/-- The view of the time fields that one agent's load of TBS_TLO latched (R463). -/
structure TimeView where
  hi : Word := 0
  sec : Word := 0
  ns : Nat := 0
  leap : Bool := false
  unk : Bool := false
deriving DecidableEq, Repr

/-- The timebase beside its registers. -/
structure Tbs where
  /-- the monotonic count in nanoseconds (R459). -/
  mono : Nat := 0
  /-- UTC less the count, in nanoseconds (TBS_OFFSET). -/
  off : Int := 0
  /-- within an inserted second (R464). -/
  leapNow : Bool := false
  /-- consecutive accepted edges with |e| below 100 ns, and above 1 µs (R460, R461). -/
  good : Nat := 0
  bad : Nat := 0
  /-- the seconds value that TIME SET SRC=PPS applies at the next edge (R166). -/
  setAt : Option Word := none
  /-- nanoseconds of lock accumulated toward the next ageing update (R458). -/
  lockNs : Nat := 0
  /-- allowance used, in nanoseconds (R465). -/
  adjNs : Nat := 0
  /-- elapsed time at which an adjustment window of unknown end is over (R466). -/
  adjEnd : Option Nat := none
  /-- discipline met the allowance (R465): no edge is followed until the window ends or WORKSHOP is entered. -/
  exhausted : Bool := false
  /-- TDCs that failed their start-up calibration and none since passed (R472). -/
  startFail : BitVec 4 := 0
  /-- elapsed time of the last hourly save by discipline (R466). -/
  savedAt : Nat := 0
  /-- UTC seconds of the last calibration, and whether one runs (R167, R469). -/
  calAt : Word := 0
  calRuns : Bool := false
  view : Tab 2 TimeView := Tab.const 2 {}
deriving DecidableEq, Repr

/-! ## The console (chapters 4 and 5) -/

/-- A session (R132): its level, and whether its MODE verb entered WORKSHOP or INSPECT (R78). -/
structure Session where
  level : Nat
  entered : Bool := false
deriving DecidableEq, Repr

/-- A challenge that waits for its answer (R134). -/
structure Chal where
  level : Nat
  mode : Mode
  bytes : BitVec 64
  /-- 60 s have passed since it was issued. -/
  late : Bool := false
deriving DecidableEq, Repr

/-- A protected line that waits for CONFIRM (R140). -/
inductive HeldLine where
  | hw (v : Verb)
  /-- an applet's line as received, with its check: the received one, or the one computed at reception (R125). -/
  | applet (line : List Byte) (chk : BitVec 16)
deriving DecidableEq, Repr

/-- How a configuration form stands between its execution and its reply (R150). -/
inductive CommitState where
  | waiting
  /-- its Vault command is under way. -/
  | issued
  | took
  | refused (code : Nat) (detail : List Byte)
deriving DecidableEq, Repr

/-- What CON is doing between a line and its reply. -/
inductive Busy where
  | idle
  /-- a line is being decided and executed. -/
  | exec
  /-- waits for an APPLET_REPLY of a core to a message number (R146). -/
  | applet (tag : Option Byte) (c : CpuId) (seq : Byte)
  /-- a configuration form waits for its boundary, or for VERB_COMMIT_REPLY (R150). -/
  | commit (tag : Option Byte) (v : Verb) (st : CommitState)
  /-- TIME SET SRC=PPS waits for an edge (R166). -/
  | pps (tag : Option Byte)
  /-- CAL RUN waits for the calibration (R167). -/
  | cal (tag : Option Byte)
  /-- AUTH CARD= waits for the card (R135). -/
  | card (tag : Option Byte) (p : PortId) (ch : Chal)
  /-- LIFE ERASE waits for VCC before its second fuse bit (R81): the fuse word before it. -/
  | fuse (tag : Option Byte) (old : BitVec 13)
  /-- the reply is out and the reset follows its last stop bit (R151). -/
  | reset (k : ResetKind) (w : Why)
deriving DecidableEq, Repr

/-- The console's staged key (R171). -/
structure StagedKey where
  args : KeyArgs
  data : List Byte := []
  lastOff : Nat := 0
deriving DecidableEq, Repr

/-- A message of CON that waits for free slots. -/
structure HatchMsg where
  dest : Agent
  kind : Byte
  seq : Byte
  pay : List Byte
deriving DecidableEq, Repr

/-- What the receive FIFO holds (R110): a byte, or the terminator of a line of which bytes were dropped, CR or LF. -/
inductive RxItem where
  | byte (b : Byte)
  | cut (cr : Bool)
deriving DecidableEq, Repr

/-- CON beside its registers. -/
structure Con where
  /-- CON has started (RISE step 13). -/
  started : Bool := false
  /-- the line in reception, in order, any byte outside the set of R114 with it. -/
  line : List Byte := []
  /-- characters past the 240th, of which only the tag is looked at (R114, R121). -/
  excess : List Byte := []
  /-- the last byte was a CR (R113). -/
  cr : Bool := false
  /-- what waits while a line executes (R110). -/
  fifo : List RxItem := []
  /-- bytes are being dropped up to the next terminator (R110). -/
  ovf : Bool := false
  /-- every byte sent on CON_TX since the reset. -/
  tx : List Byte := []
  notes : List (List Byte) := []
  lost : Nat := 0
  session : Option Session := none
  chal : Option Chal := none
  held : Option (HeldLine × BitVec 16) := none
  busy : Busy := .idle
  /-- elapsed times of the E20 and E21 replies that count toward PROBE (R131). -/
  probe : List Nat := []
  /-- elapsed time at which the AUTH lock-out ends (R137). -/
  lockEnd : Nat := 0
  /-- the rate to return to, while no clean line has arrived since a change (R109). -/
  revert : Option (BitVec 4) := none
  stage : Option StagedKey := none
  /-- next message number CON sends. -/
  seq : Byte := 0
  /-- message numbers of applet requests that ended; replies to them are discarded (R30). -/
  dead : List Byte := []
  outbox : List HatchMsg := []
deriving DecidableEq, Repr

/-! ## Queues (chapter 8) -/

/-- A queue. Positions are word counts that only rise (their low 16 bits are the registers); `chain` lists its crates from
the one that holds the word at REL on; `ends` the ends of its complete packets above REL. -/
structure Queue where
  rel : Nat := 0
  rd : Nat := 0
  wr : Nat := 0
  pw : Nat := 0
  chain : List Nat := []
  ends : List Nat := []
  mark : Option Nat := none
  /-- a flush is pending, and the tick edges since its request (R258, R259). -/
  flush : Option Nat := none
  /-- words of the packet in progress still to come, its trailer included. -/
  left : Nat := 0
  /-- CRC-32C register over the packet in progress (R249). -/
  crc : Nat := 0
  /-- words of a packet that is not kept, still to be dropped. -/
  drop : Nat := 0
  /-- words are dropped until a valid header (R259, R260). -/
  desync : Bool := false
deriving DecidableEq, Repr

/-! ## Ports (chapter 6) -/

/-- Where a CARD port stands (Tables 6.4, 6.11, R207). -/
inductive CardPhase where
  /-- not activated. -/
  | off
  /-- an activation, or a warm reset, runs (Tables 6.4, 6.11), up to its ATR. -/
  | atr (warm : Bool)
  | ready
  /-- a byte-level or APDU-level exchange is in progress; the latter may be CON's (R208). -/
  | bytes
  | apdu (con : Bool)
deriving DecidableEq, Repr

/-- What a port shifted out last: the time of a bit in sixteenths of an FSYS cycle, the levels in order, and the time for which
the port then keeps its idle level at least (R200 to R202). -/
structure Wave where
  bit : Nat := 0
  levels : List Bool := []
  rest : Nat := 0
deriving DecidableEq, Repr

/-- An entry of a port's capture buffer, a byte or an edge record, with its parity bit (Table 9.2, lane 2). -/
structure Capt where
  v : Nat
  par : Bool
deriving DecidableEq, Repr

/-- A port beside its registers. -/
structure Port where
  /-- the function in force (STAT.FN). -/
  fn : PortFn := .off
  /-- filtered levels (R197). -/
  lvlA : Bool := false
  lvlB : Bool := false
  /-- DUAL: the logical value, and consecutive agreeing samples (R209, R211). -/
  val : Bool := false
  agree : Nat := 0
  /-- PULSE: accepted edges of the frame in progress on A, on B, with DIR high; the counts R215 accumulates, each under the
  counter bound when it was counted. -/
  cntA : Nat := 0
  cntB : Nat := 0
  rev : Nat := 0
  accs : List (CtrId × Nat) := []
  /-- the edge packet in progress: its BASE and its records, oldest first (R213). -/
  base : Nat := 0
  recs : List Capt := []
  /-- records were dropped since the previous packet. -/
  loss : Bool := false
  /-- packets produced; accepted edges (low 16 bits). -/
  pseq : Byte := 0
  eseq : BitVec 16 := 0
  /-- the edges of the speed window, oldest first: the timestamp in quarter ns of the monotonic count, and NOTS (R471). -/
  win : List (Nat × Bool) := []
  /-- the latest accepted edge on A and on B, in quarter ns. -/
  last : Option Nat := none
  lastB : Option Nat := none
  /-- PULSE ran at the latest harvest too (R472). -/
  ran : Bool := false
  /-- PPS: the latest edge accepted for discipline (R217). -/
  lastOk : Option Nat := none
  /-- the TDCs held, a PRBS generator held, and the VCCEN pin of a card (R189, R193). -/
  tdc : List (Fin 4) := []
  prbs : Bool := false
  vcc : Option (PortId × Bool) := none
  /-- UART and CARD: bytes of the RX packet in progress, and the closed packets its queue has not admitted:
  flags, sequence and bytes, oldest first. -/
  rx : List Capt := []
  rxWait : List (Nat × Byte × List Capt) := []
  /-- characters were lost since the previous packet (R201). -/
  ovrn : Bool := false
  /-- the bytes the port sent for its latest TX packet, or its latest exchange, and their levels at the pad. -/
  tx : List Byte := []
  wave : Wave := {}
  card : CardPhase := .off
  /-- T=1: the sequence bits of the next block out, and of the next block in (R207). -/
  t1s : Bool := false
  t1r : Bool := false
  /-- PULSEOUT: the period in force. -/
  period : Nat := 0
  /-- LOOP: the LFSR, the last bits sent (newest first), the window of mismatches (newest first), the condition. -/
  lfsr : BitVec 31 := 1
  sent : List Bool := []
  mism : List Bool := []
  cond : Bool := false
deriving DecidableEq, Repr

/-! ## Hostlink (chapter 7) -/

/-- Hostlink beside its registers. -/
structure Hostlink where
  /-- Hostlink answers (RISE step 13). -/
  up : Bool := false
  /-- the position of the packet of Hk that is eligible for ACK (R239). -/
  elig : Tab 8 (Option Nat) := Tab.const 8 none
  /-- next sequence of the packets written to Hk (R236), and of the part's own packets in H6 out. -/
  seq : Tab 8 Byte := Tab.const 8 0
  h6seq : Byte := 0
  /-- the packet of inbound H6 whose check failed, kept at its head (Table 9.2, lane 5). -/
  h6bad : Option Nat := none
  /-- the bytes the part drove on HMISO in the latest transaction, after the header. -/
  out : List Byte := []
deriving DecidableEq, Repr

/-! ## Cores (chapter 10) -/

/-- A core beside its registers of Table 10.6. -/
structure Core where
  /-- released from reset (R314). -/
  run : Bool := false
  /-- U-mode. -/
  user : Bool := false
  /-- where the core stands: the entry at release, the instruction it was last seen at, the handler at a trap. -/
  pc : Word := 0
  /-- mstatus.MIE, MPIE, MPP = U, MPRV. -/
  mie : Bool := false
  mpie : Bool := false
  mppU : Bool := false
  mprv : Bool := false
  mtvec : Word := 0
  mepc : Word := 0
  mcause : Word := 0
  mtval : Word := 0
  mscratch : Word := 0
  /-- mie.MEIE. -/
  meie : Bool := false
  mcycle : BitVec 64 := 0
  minstret : BitVec 64 := 0
  /-- PMP entries (R290). -/
  pmpcfg : Tab 16 Byte := Tab.const 16 0
  pmpaddr : Tab 16 Word := Tab.const 16 0
  /-- the general registers; x0 reads 0 (R286; reset values DESIGN CHOICE, log entry 99). -/
  x : Tab 32 Word := Tab.const 32 0
  /-- what the latest load, CSR access, LR, SC or AMO put into its destination register. -/
  rdata : Word := 0
  /-- the store buffer: address and bytes, oldest first (R296). -/
  sb : List (Nat × List Byte) := []
  /-- the aligned 32-byte block of the reservation (R300). -/
  resv : Option Nat := none
  /-- the line buffer (R294). -/
  line : Option (Nat × List Byte) := none
  /-- earlier contents of SRAM blocks, which a speculative load since the last load may have put into the line buffer (R301). -/
  past : List (Nat × List Byte) := []
  /-- aligned 32-byte SRAM blocks stored to since this core's latest FENCE.I (R293). -/
  stale : List Nat := []
  /-- waits in WFI. -/
  wfi : Bool := false
  /-- the watchdog period in force (R307). -/
  wdPer : Nat := 1000
deriving DecidableEq, Repr

/-! ## The Vault (chapter 11) -/

/-- A Vault entry, unmasked, with the mask its mask plane holds; the data plane holds the exclusive or of both. -/
structure VEntry where
  keyid : Word := 0
  role : Byte := 0
  type : Byte := 0
  use : BitVec 16 := 0
  gen : BitVec 16 := 0
  /-- 0 EMPTY, 1 ACTIVE, 2 RETIRED, 3 REVOKED. -/
  st : BitVec 2 := 0
  bad : Bool := false
  pair : Byte := 0
  value : List Byte := List.replicate 112 0
  hchk : Word := 0
  mask : List Word := List.replicate 32 0
deriving DecidableEq, Repr

/-- A writer's staging buffer and READ window (R322, R330). -/
structure VWriter where
  /-- staged bytes by offset, and the length staged. -/
  buf : List (Nat × Byte) := []
  len : Nat := 0
  /-- bytes VLT_WIN shows after a READ of a public type. -/
  win : List Byte := []
deriving DecidableEq, Repr

/-- Who waits for a Vault command. -/
inductive VReq where
  | agent (a : Agent)
  /-- the public half of a GEN, whose private half follows (R327). -/
  | half
  /-- an operation of the symmetric engine: KDF. -/
  | kdf
deriving DecidableEq, Repr

/-- A Vault command whose shadow update has still to commit (R326, R339): requester, VLT_CMD code, entry, entries changed, and
the status it ends with. -/
structure VJob where
  req : VReq
  cmd : Nat
  idx : Nat
  changed : List Nat
  code : Nat
  /-- the key's ID, role, type and GEN, as its KEY record carries them (Table 18.6). -/
  about : List Byte := []
deriving DecidableEq, Repr

/-- What a writer has staged for a STORE or GEN (R323, R327). -/
structure VNew where
  keyid : Word
  role : Byte
  type : Byte
  use : BitVec 16
  prio : Byte
  anyok : Bool := false
  auto : Bool := true
  idx : Byte := 0
  pair : Byte := 0xFF
  /-- the staged bytes, and the length staged. -/
  value : List Byte := []
  len : Nat := 0
deriving DecidableEq, Repr

/-- A writer's command with what its staging registers held at its arrival (R322). -/
structure VCmd where
  agent : Agent
  /-- VLT_CMD.CMD and IDX. -/
  cmd : Nat
  idx : Nat
  new : VNew
  /-- VLT_LK0 and VLT_LK1: key ID, role, operation. -/
  lkId : Word := 0
  lkRole : Byte := 0
  lkOp : Nat := 0
  /-- VLT_DENY and VLT_DENYID: key ID, role, usage, any ID. -/
  dnId : Word := 0
  dnRole : Byte := 0
  dnUse : BitVec 16 := 0
  dnAny : Bool := false
deriving DecidableEq, Repr

/-- The Vault beside its registers. -/
structure Vault where
  ent : List (Nat × VEntry) := []
  /-- the generation table (R317). -/
  gens : List (Nat × Nat) := []
  /-- SWING.IDX, the swing buffer; some while SWING.VALID (R337). -/
  swing : Option (Nat × VEntry) := none
  /-- a re-mask pass runs (R336), and ticks since the latest one began. -/
  pass : Bool := false
  ticks : Nat := 0
  /-- the Vault write generation (VLT_GEN is its low word). -/
  vgen : Nat := 0
  /-- entries changed since the shadow's generation (R340). -/
  dirty : List Nat := []
  wr : Tab 4 VWriter := Tab.const 4 {}
  jobs : List VJob := []
  /-- the pairs that KEYGEN programs are generating, by writer. -/
  gen : List (Agent × VNew) := []
  /-- commands that wait for another writer's, in order of arrival (R322). -/
  waiting : List VCmd := []
deriving DecidableEq, Repr

/-- A shadow record (R338): the CTR2 value of its IV, the sealed 128 bytes, and the tag. -/
structure ShadowRec where
  ctr : Nat
  text : List Byte
  tag : List Byte
deriving DecidableEq, Repr

/-- The shadow (R338): its records by entry, and the generation in its header. An entry of 0 to 239 without one here has the
record of an EMPTY entry never stored, sealed when the shadow was begun, at CTR2 value `base`. -/
structure Shadow where
  recs : List (Nat × ShadowRec) := []
  base : Nat := 0
  gen : Nat := 0
deriving DecidableEq, Repr

/-! ## The Store Room (chapter 12) -/

/-- A Store Room entry (Table 12.2). -/
structure SEntry where
  key : BitVec 160 := 0
  mask : BitVec 160 := 0
  prio : Byte := 0
  valid : Bool := false
  deny : Bool := false
  keep : Bool := false
  bad : Bool := false
  region : Region := .k
  result : Word := 0
  parity : BitVec 12 := 0
deriving DecidableEq, Repr

/-- Who writes to the Store Room: a core, the Vault, or CON for the rule of a core's VERB_REG with its message number. -/
inductive SReq where
  | cpu (c : CpuId)
  | vault
  | con (c : CpuId) (seq : Byte)
deriving DecidableEq, Repr

/-- An update that waits for a hole, for its turn or for a mode (R350, R357, R367): a WRITE with its placement, or an
INVALIDATE. -/
structure SUpd where
  req : SReq
  ent : SEntry
  first : Bool
  inval : Bool := false
deriving DecidableEq, Repr

/-- The run of a block move in progress (R358): the hole it started from, the index that becomes the hole, its direction. -/
structure SRun where
  hole : Nat
  goal : Nat
  /-- the entries shift toward higher index. -/
  up : Bool
  /-- the entry copied latest (R359). -/
  ptr : Option Nat := none
deriving DecidableEq, Repr

/-- A block move (R358): its region, the first index of the stride that needs a hole, and its run once it has started. -/
structure SMove where
  region : Region
  stride : Nat
  run : Option SRun := none
deriving DecidableEq, Repr

/-- A log record (R364). -/
inductive SLog where
  | write (idx hole : Nat) (e : SEntry)
  | invalidate (idx : Nat)
  | moveStart (r : SRun)
  | moveEnd
deriving DecidableEq, Repr

/-- A log record whose bus write waits for the end of hold-off (R364, R422): its sequence number, and the core whose STR_USTAT
waits for it, with the index it then shows. -/
structure SHeld where
  cpu : Option CpuId
  idx : Nat
  seq : Nat
  what : SLog
deriving DecidableEq, Repr

/-- The Store Room beside its registers. -/
structure StoreRoom where
  ent : List (Nat × SEntry) := []
  /-- the ledger copies, and the indices at which the ledger copy is uncorrectable. -/
  led : List (Nat × SEntry) := []
  ledBad : List Nat := []
  wait : List SUpd := []
  /-- moves waiting or in progress, in order. -/
  moves : List SMove := []
  /-- entries the comparator takes first (R363). -/
  urgent : List Nat := []
  /-- move slots used in the frame (R351). -/
  slots : Nat := 0
  held : List SHeld := []
deriving DecidableEq, Repr

/-! ## Larder and Archive (chapter 15) -/

/-- A written counter slot (Table 15.3); a slot not listed is not valid. -/
structure CtrSlot where
  value : Nat
  seq : Word
deriving DecidableEq, Repr

/-- The ring of a counter and its resolved current slot (R424, R426). -/
structure Ring where
  base : Nat := 0
  slots : Nat := 0
  /-- position of the current slot in the ring. -/
  cur : Nat := 0
  suspect : Bool := false
  noValid : Bool := false
deriving DecidableEq, Repr

/-- A parameter record (R430): its sequence and the values of its group's fields. -/
structure ParamRec where
  pseq : Word
  vals : List (Nat × Word)
  /-- group 5 also holds the CTR5 stamp (R466) and the time of the last calibration. -/
  stamp : Nat := 0
  cal : Word := 0
deriving DecidableEq, Repr

/-- A record area's pointers, as physical offsets, and its block sequence (R441, R442). -/
structure AreaPtr where
  head : Nat := 0
  commit : Nat := 0
  resv : Nat := 0
  bseq : Word := 0
deriving DecidableEq, Repr

/-- Kinds of journal records (Table 15.9). -/
inductive CommitKind where
  | firmware | vault | store | switch | head
deriving DecidableEq, Repr

/-- A commit record (Table 15.9). -/
structure CommitRec where
  kind : CommitKind
  txn : Nat
  area : Option (Fin 8)
  n : Nat
  used : Nat
  begin : Nat
  commit : Nat
  head : Nat
  /-- counter, target SEQ, target VALUE. -/
  ctrs : List (CtrId × Word × Nat)
  jseq : Nat
deriving DecidableEq, Repr

/-- An Archive transaction (R445). -/
structure Txn where
  owner : CpuId
  area : Fin 8
  n : Nat
  /-- OPEN waits for erased units (R443). -/
  waiting : Bool := false
  /-- COMMIT waits for hold-off to end (R448). -/
  committing : Bool := false
  void : Bool := false
  begin : Nat := 0
  next : Nat := 0
  used : Nat := 0
  bseq : Word := 0
  ctrs : List (CtrId × Nat) := []
deriving DecidableEq, Repr

/-- What follows once a unit has been programmed: RESV passes a block (R441), a commit is finished (R449). -/
inductive ProgEnd where
  | begin (t : Fin 16) (k : Fin 8) (n : Nat)
  | close (c : CpuId) (t : Fin 16) (r : CommitRec)
deriving DecidableEq, Repr

/-- A unit that is programmed, or waits for its bank: its physical offset, its bytes, and what follows. -/
structure Prog where
  off : Nat
  bytes : List Byte
  fin : ProgEnd
deriving DecidableEq, Repr

/-- What a bank is doing (R433, R435). -/
inductive BankOp where
  | idle
  | program (unit : Nat)
  | erase (sector : Nat) (susp : Bool) (n : Nat)
deriving DecidableEq, Repr

/-- The state of an image slot (R175). -/
structure ImgSlot where
  /-- a verified image stands in the slot. -/
  valid : Bool := false
  ver : Word := 0
  len : Nat := 0
deriving DecidableEq, Repr

/-- Everything the two non-volatile memories hold beside their bytes and their "stored" registers. -/
structure NonVol where
  ring : Tab 64 Ring := Tab.ofFn 64 (fun i => if i < 8 then { base := 32 * i, slots := 32 } else {})
  slots : List (Nat × CtrSlot) := (List.range 8).map (fun i => (32 * i, ⟨0, 0⟩))
  wraps : List (Nat × Nat) := []
  param : Tab 8 (Option ParamRec) := Tab.const 8 none
  area : Tab 8 AreaPtr := Tab.ofFn 8 (fun i =>
    if i = 0 then { head := 0x140000, commit := 0x140000, resv := 0x140000 }
    else if i = 1 then { head := 0x2C0000, commit := 0x2C0000, resv := 0x2C0000 } else {})
  txn : Tab 16 (Option Txn) := Tab.const 16 none
  journal : List CommitRec := []
  jseq : Nat := 0
  applied : Nat := 0
  /-- sectors marked INCOMPLETE (R443). -/
  incomplete : List Nat := []
  /-- sectors erased by the Caretaker's append engine or ready: erase counts (R436). -/
  erases : List (Nat × Nat) := []
  retired : List Nat := []
  /-- image slots: FW, UC, APP, two each (Table 15.6), and the slot the switch record makes active next. -/
  img : Tab 6 ImgSlot := Tab.const 6 {}
  next : Tab 3 (Fin 2) := Tab.const 3 0
  active : Tab 3 (Fin 2) := Tab.const 3 0
  /-- the shadow, and the generation of the PUF helper data (R338, R341). -/
  shadow : Option Shadow := some {}
  puf : Option Nat := some 0
  pufGen : Nat := 0
  /-- the newest complete Store Room image, the sequence number it covers, the log records after it with theirs, and the
  number of the newest record made (R364). -/
  strImg : List (Nat × SEntry) := []
  strCov : Nat := 0
  strLog : List (Nat × SLog) := []
  strSeq : Nat := 0
deriving DecidableEq, Repr

/-- The Larder controller's waiting work (R422). -/
structure Ldr where
  /-- Larder writes of the Archive controller that wait. -/
  later : List ProgEnd := []
  /-- commits that wait, in order of arrival: the issuer (none for a job's), the transaction. -/
  commits : List (Option CpuId × Fin 16) := []
  /-- TRIM commands that wait: issuer, area, offset. -/
  trims : List (CpuId × Fin 8 × Nat) := []
  incs : List (CtrId × Nat) := []
  saves : List (Nat × ParamRec) := []
  /-- switch records that wait: image kind, slot. -/
  switches : List (Fin 3 × Fin 2) := []
deriving DecidableEq, Repr

/-! ## The engines (chapters 13 and 14) -/

/-- An operation of the public-key engine, accepted and not yet ended. -/
structure PkeOp where
  /-- which of the operations accepted since the reset it is. -/
  id : Nat
  req : EngReq
  op : Nat
  args : PkeArgs
  /-- the SRAM address of a job's command block. -/
  blk : Nat := 0
  /-- a program of the S-pipe. -/
  spipe : Bool
  /-- a sealed context is held (R370); an S-pipe program without one waits. -/
  ctx : Option (Fin 8) := none
  parked : Bool := false
  /-- its pipe has begun it: the key is looked up, the operands are read, the output shelves zeroed (R375, R381). -/
  started : Bool := false
  /-- its candidate has passed the hand-off port, and its checking part is in the P-pipe's order (R372, R391). -/
  handed : Bool := false
  /-- an ABORT, a mode or a failure ends it at its next landing point, with this code. -/
  ends : Option Nat := none
  /-- the Vault entry used and its generation. -/
  key : Option (Nat × BitVec 16) := none
  /-- byte ranges of the public bank that are busy (R375). -/
  busy : List (Nat × Nat) := []
  /-- what a P-pipe operation comes to: bytes by offset in the public bank, and the codes. -/
  out : List (Nat × List Byte) := []
  code : Nat := 0
  cmp : Nat := 0
  /-- ECDSA_SIGN_CHECKED: the digest as a number (R380). -/
  digest : Nat := 0
deriving DecidableEq, Repr

/-- What the hand-off port has carried into the P-pipe's working RAM for one S-pipe program (R372): the candidate (r and s, or
the coordinates of a point), and the public point it is checked against. -/
structure HandOff where
  id : Nat
  cand : Option (Nat × Nat)
  point : Option (Nat × Nat) := none
deriving DecidableEq, Repr

/-- The running state of a multi-part operation (R408). -/
inductive SymRun where
  /-- CBC, CTR: chaining block; CMAC: the state after whole blocks with at least one withheld. -/
  | block (b : List Byte)
  | cmac (x : List Byte) (held : List Byte)
  /-- the hash value and the bytes in its whole blocks. -/
  | hash (words : List Nat) (done : Nat)
deriving DecidableEq, Repr

/-- A context of the symmetric engine. -/
structure SymCtx where
  req : EngReq
  op : Nat
  key : Option (Nat × BitVec 16)
  run : SymRun
deriving DecidableEq, Repr

/-- What masks an operation with a Vault key (R404): the key schedule under its mask, that mask, and the mask of the block in
the engine. -/
structure SymMask where
  sched : List Byte
  key : List Word
  block : List Word
deriving DecidableEq, Repr

/-- An operation of the symmetric engine, accepted and not yet ended. -/
structure SymOp where
  /-- which of the operations accepted since the reset it is. -/
  id : Nat
  req : EngReq
  op : Nat
  args : SymArgs
  blk : Nat := 0
  ends : Option Nat := none
  parked : Bool := false
  /-- the engine has begun it. -/
  started : Bool := false
  mask : Option SymMask := none
  out : List (Nat × List Byte) := []
  code : Nat := 0
  /-- the context after this part: none leaves contexts alone, some none frees it. -/
  ctx : Option (Option SymCtx) := none
  /-- KDF: the STORE of the derived key, and the entry it has taken while region K's part of it waits. -/
  kdf : Option VNew := none
  stored : Option Nat := none
deriving DecidableEq, Repr

/-- Both engines and the random source beside their registers. -/
structure Engines where
  pke : List PkeOp := []
  /-- operations accepted since the reset. -/
  count : Nat := 0
  /-- the sealed bank, Z0 to Z111 (R370). -/
  sealed : Tab 112 (BitVec 576) := Tab.const 112 0
  /-- the P-pipe's working RAM (R372). -/
  work : List HandOff := []
  /-- a change of LEN was waiting at the boundary that began this frame (R373). -/
  lenDue : Bool := false
  sym : List SymOp := []
  ctx : Tab 8 (Option SymCtx) := Tab.const 8 none
  /-- RNG_OUT: words in the buffer; generate requests since the latest seed, and elapsed time at it (R412); frames of the latest
  failures. -/
  rngOut : Nat := 16
  reqs : Nat := 0
  seedAt : Nat := 0
  fails : List Nat := []
  /-- the health tests (R411): the latest sample and how often it has come in a row; the first sample of the window, how often it
  has come in it, and the samples in it. -/
  rct : Bool × Nat := (false, 0)
  apt : Bool × Nat × Nat := (false, 0, 0)
deriving DecidableEq, Repr

/-- What OPEN binds: the session's registers as they stood then (R273). -/
structure RlyBind where
  srcK : Nat
  srcQ : QueueId
  sadr : Nat
  len : Nat
  chk : Nat
  dstK : Nat
  dstQ : QueueId
  flags : Nat
  seq : Nat
  txn : Fin 16
  dadr : Nat
  keyid : Nat
deriving DecidableEq, Repr

/-- A relay session beside its registers. -/
structure RlySess where
  bound : Option RlyBind := none
  /-- a FAILED session's packet, still at the head of its source queue (R282). -/
  failed : Option Nat := none
  /-- the owner core's reset has ended the session: it belongs to no core (R272, R284). -/
  orphan : Bool := false
  /-- the RECORD_MAC key loaded at BOUND (R276). -/
  key : List Byte := []
  /-- a QUEUE source: where its packet stands; a QUEUE destination: words of the packet still to come. -/
  rd : Nat := 0
  left : Nat := 0
  /-- a QUEUE destination: the position of the sealed packet (DFLUSH). -/
  done : Option Nat := none
deriving DecidableEq, Repr

/-- An open image load (R175, R241). -/
structure ImgLoad where
  h6 : Bool
  kind : ImgKind
  slot : Fin 2
  len : Nat
  crc : Option Word
  rcvd : Nat := 0
  /-- the offset of the last chunk (R176). -/
  lastOff : Nat := 0
deriving DecidableEq, Repr

/-- The state of the block. -/
structure State where
  /-- the commands that wait, first in, first out. -/
  pending : List Instr := []
  /-- the model's own count of free values drawn (log entry 2). -/
  draws : Nat := 0
  regs : List (Nat × Word) := []
  shadow : List ShadowWrite := []
  mem : List Host.Cell := []
  sys : Sys := {}
  si : Silicon := {}
  cel : Cellar := {}
  nv : NonVol := {}
  tick : Tick := {}
  hatch : Tab 16 HatchSlot := Tab.const 16 {}
  watch : Watch := {}
  care : Care := {}
  ldr : Ldr := {}
  bank : Tab 2 BankOp := Tab.const 2 .idle
  /-- units to program per bank, the one in progress first. -/
  progs : Tab 2 (List Prog) := Tab.const 2 []
  tbs : Tbs := {}
  con : Con := {}
  load : Option ImgLoad := none
  qfx : Tab 64 Queue := Tab.const 64 {}
  port : Tab 24 Port := Tab.const 24 {}
  hlk : Hostlink := {}
  rly : Tab 8 RlySess := Tab.const 8 {}
  cpu : Tab 2 Core := Tab.const 2 {}
  vlt : Vault := {}
  str : StoreRoom := {}
  eng : Engines := {}
deriving DecidableEq, Repr

/-- CELLAR_LOSS, the first entry of a new log (R499; CEL_TLOG.VALID reads 1 after a Cellar loss): RISE step 12 completes it. -/
def lossEntry : TlogEntry where
  utc := 0
  frac := 0
  src := 0x19
  det := 8
  acted := .log
  cfg := 1
  unk := true
  cellar := false
  degraded := false
  escalated := false
  rel := 0xFF
  rep := 0
  seq := 1

/-- The Cellar right after a loss. -/
def freshCellar : Cellar := { tlog := [lossEntry], tseq := 2 }

/-- The block right after its first power-on: a CELLAR-LOSS reset in stage FOUNDRY, with time unknown. -/
def State.reset : State where
  regs := [(SYS_RSTCAUSE_KIND.key, 2), (CEL_FLAGS_TIMEUNK.key, 1)]
  cel := freshCellar

end Sys2Proof.Machine
end

