-- ==== Sys2Proof/Machine/Ops.lean ====
section
/-!
DEFINITION. Ops.lean: the named operations every block uses: register fields, memory bytes, free values, time, counters, the
Attic, the tamper log, and what CON sends.
-/
namespace Sys2Proof.Machine

/-! ## Register fields -/

/-- The value of a field. -/
def State.rd (s : State) (f : Field) : Nat := (lkGet (BitVec.ofNat 32 f.dflt) s.regs f.key).toNat

/-- A field set by the part or by an accepted write; the value is taken modulo the field's width. -/
def State.wr (s : State) (f : Field) (v : Nat) : State :=
  { s with regs := lkPut s.regs f.key (BitVec.ofNat 32 (v % 2 ^ f.width)) }

/-- A one-bit field set. -/
def State.setb (s : State) (f : Field) : State := s.wr f 1

/-- A one-bit field as a truth value. -/
def State.isSet (s : State) (f : Field) : Bool := s.rd f != 0

/-- A saturating count of `n` more (every count the spec calls saturating). -/
def State.addc (s : State) (f : Field) (n : Nat) : State := s.wr f (satAdd (2 ^ f.width - 1) (s.rd f) n)

/-- A saturating count of one more. -/
def State.bump (s : State) (f : Field) : State := s.addc f 1

/-- Several fields set, in order. -/
def State.wrs (s : State) (l : List (Field × Nat)) : State := l.foldl (fun s e => s.wr e.1 e.2) s

/-- Fields from `f 0` on hold the words of a list. -/
def wrWords {n : Nat} (f : Fin n → Field) (l : List Word) (s : State) : State :=
  (finList n).foldl (fun s i => s.wr (f i) (l.getD i.val 0).toNat) s

/-! ## Memory -/

/-- Core addresses of the memories (Table 1.8). -/
def sramBase : Nat := 0x10000000
def arcBase : Nat := 0x20000000
def ldrBase : Nat := 0x30000000
def crateBase : Nat := 0x50000000
def shelfBase : Nat := 0x60000000

/-- What an address reads as while no entry lists it: an erased Archive unit reads 0xFF (R433), everything else 0. -/
def memDflt (a : Nat) : Byte := if arcBase ≤ a ∧ a < arcBase + 0x400000 then 0xFF else 0

/-- The canonical form of a memory: addresses strictly rising, no entry equal to what an unlisted address reads as. -/
def Memory.wf (m : List Host.Cell) : Bool := spWf memDflt m

/-- The byte at an address. -/
def State.getB (s : State) (a : Nat) : Byte := spGet (memDflt a) s.mem a

/-- The byte at an address written. -/
def State.putB (s : State) (a : Nat) (b : Byte) : State := { s with mem := spPut (memDflt a) s.mem a b }

/-- `n` bytes from an address. -/
def State.getBytes (s : State) (a n : Nat) : List Byte := (List.range n).map (fun i => s.getB (a + i))

/-- Bytes written from an address on. -/
def State.putBytes (s : State) (a : Nat) : List Byte → State
  | [] => s
  | b :: t => (s.putB a b).putBytes (a + 1) t

/-- The little-endian word at an address (R12). -/
def State.getW (s : State) (a : Nat) : Word := Word.ofBytes (s.getBytes a 4)

/-- A word written, little-endian (R12). -/
def State.putW (s : State) (a : Nat) (w : Word) : State := s.putBytes a w.bytes

/-- A byte of the Archive at a physical offset. -/
def State.arcB (s : State) (off : Nat) : Byte := s.getB (arcBase + off)

/-- Both cores' line buffers are invalidated (R294). -/
def State.linesDrop (s : State) : State :=
  { s with cpu := (s.cpu.upd 0 (fun c => { c with line := none, past := [] })).upd 1 (fun c =>
    { c with line := none, past := [] }) }

/-- A unit other than a core is about to write `n` bytes of SRAM from `a` on: what the blocks hold now stays in the reach of the
speculative loads that each core may have made (R301). -/
def State.pastKeep (s : State) (a n : Nat) : State :=
  let old := (List.range (if n = 0 then 0 else (a % 32 + n + 31) / 32)).map (fun k =>
    (a / 32 * 32 + 32 * k, s.getBytes (a / 32 * 32 + 32 * k) 32))
  { s with cpu := (s.cpu.upd 0 (fun c => { c with past := old ++ c.past })).upd 1 (fun c => { c with past := old ++ c.past }) }

/-- Bytes that a unit other than a core writes to SRAM or to a shelf. -/
def State.unitPut (s : State) (a : Nat) (l : List Byte) : State :=
  (if sramBase ≤ a ∧ a < sramBase + 0x40000 then s.pastKeep a l.length else s).putBytes a l

/-- Archive bytes set from a physical offset on (program or erase); the line buffers go (R294). -/
def State.arcPut (s : State) (off : Nat) (l : List Byte) : State := (s.putBytes (arcBase + off) l).linesDrop

/-- The entries of an address range dropped: the range reads as unlisted. -/
def State.memClear (s : State) (lo hi : Nat) : State :=
  { s with mem := s.mem.filter (fun e => !(decide (lo ≤ e.1) && decide (e.1 < hi))) }

/-- An erased sector reads 0xFF (R433). -/
def State.arcErase (s : State) (sector : Nat) : State :=
  (s.memClear (arcBase + 0x1000 * sector) (arcBase + 0x1000 * sector + 0x1000)).linesDrop

/-- A unit of 16 bytes is erased (R433). -/
def State.unitErased (s : State) (off : Nat) : Bool := (s.getBytes (arcBase + off) 16).all (· == 0xFF)

/-! ## Free values -/

/-- One word of the DRBG: a generate request (R412). -/
def State.drbg (s : State) : Word × State :=
  (Config.drbg s.draws, { s with draws := s.draws + 1, eng := { s.eng with reqs := s.eng.reqs + 1 } })

/-- `n` words of the DRBG, in one request. -/
def State.drbgWords (s : State) (n : Nat) : List Word × State :=
  ((List.range n).map (fun i => Config.drbg (s.draws + i)),
    { s with draws := s.draws + n, eng := { s.eng with reqs := s.eng.reqs + 1 } })

/-- A free choice below `n`. -/
def State.choose (s : State) (n : Nat) : Nat × State := (Config.choice s.draws % n, { s with draws := s.draws + 1 })

/-- A free measured value. -/
def State.measure (s : State) : Int × State := (Config.measure s.draws, { s with draws := s.draws + 1 })

/-- Words of undefined contents. -/
def State.anyWords (s : State) (n : Nat) : List Word × State :=
  ((List.range n).map (fun i => Config.anyWord (s.draws + i)), { s with draws := s.draws + n })

/-! ## Mode and stage -/

/-- Blown bits in LIFE[11:0] (R80). -/
def lifeK (l : BitVec 13) : Nat := ((List.range 12).filter (fun i => l.getLsbD i)).length

/-- The stage and the epoch of the fuse word (R80, Table 3.3). -/
def stageOf (l : BitVec 13) : Stage × Nat :=
  let k := lifeK l
  let e := if k = 0 then 0 else Nat.min 2 ((k - 1) / 3)
  if l.getLsbD 12 then (.retired, e)
  else if k = 0 then (.foundry, 0)
  else if 10 ≤ k then (.erased, 2)
  else if k % 3 = 1 then (.fit, e) else if k % 3 = 2 then (.sealed, e) else (.erased, e)

/-- The stage in force. -/
def State.stage (s : State) : Stage := (stageOf s.si.life).1

/-- The epoch in force. -/
def State.epoch (s : State) : Nat := (stageOf s.si.life).2

/-- The main domain runs: powered and out of reset, with RISE begun. -/
def State.mainUp (s : State) : Bool := s.sys.mode.main && !s.sys.held && !(s.sys.mode == .rise && !s.sys.begun)

/-- The Cellar watches in place of the main domain: CELLAR, or a reset not yet at RISE step 2 (R495, R551). -/
def State.cellarWatch (s : State) : Bool := !s.mainUp

/-- The lifecycle condition of an RWS field: FOUNDRY or FIT (Table 0.2). -/
def State.rwsOpen (s : State) : Bool := s.stage == .foundry || s.stage == .fit

/-- SYS_MODE.HOLDSRC (Table 3.11): the causes that act, in the modes that a cause takes to HOLD and in HOLD. -/
def State.holdSrcCode (s : State) : Nat :=
  if !(s.sys.mode.running || s.sys.mode == .hold) then 0 else b2n s.sys.holdVcc + 2 * b2n (!s.sys.holdSrc.isEmpty)

/-- A change to HOLD waits for the next boundary (R90, R485). -/
def State.holdDue (s : State) : Bool := s.sys.mode.running && (s.sys.holdVcc || !s.sys.holdSrc.isEmpty)

/-- The pending mode that SYS_MODE.PEND shows. -/
def State.pendCode (s : State) : Nat :=
  if s.holdDue then Mode.hold.code
  else match s.sys.pend with | some p => p.dest.code | none => s.sys.mode.code

/-! ## Time -/

/-- The tick periods of TICK_CFG.PER in ns (Table 2.8); 6 and 7 act as 2. -/
def periodNs (per : Nat) : Nat :=
  match per with
  | 0 => 250000 | 1 => 500000 | 3 => 2000000 | 4 => 5000000 | 5 => 10000000 | _ => 1000000

/-- The tick period in force, in ns. -/
def State.period (s : State) : Nat := periodNs (s.rd TICK_CFG_PER)

/-- BG_FLOOR in percent (Table 2.8): 0 and 1 act as 2, above 50 as 50. -/
def bgFloor (v : Nat) : Nat := if v < 2 then 2 else if 50 < v then 50 else v

/-- UTC in nanoseconds, as the timebase gives it. -/
def State.utcNs (s : State) : Nat := ((s.tbs.mono : Int) + s.tbs.off).toNat

/-- TBS_UTCS: UTC seconds. -/
def State.utcS (s : State) : Word := BitVec.ofNat 32 (s.utcNs / 1000000000)

/-- The modes in which the Caretaker re-masks, calibrates and tracks wear beside its other work (Table 18.3). -/
def Mode.careFull : Mode → Bool
  | .foundry | .fit | .service | .workshop | .inspect | .doze | .hold | .quarantine => true
  | _ => false

/-- Time is unknown (R468). -/
def State.timeUnk (s : State) : Bool := s.isSet CEL_FLAGS_TIMEUNK

/-- Seconds and 2^-16 fraction for a tamper entry: the timebase, or the RTC while the Cellar watches (Table 17.7). -/
def State.stamp (s : State) : Word × BitVec 16 :=
  if s.cellarWatch then (BitVec.ofNat 32 (s.cel.rtc / 2 ^ 20), BitVec.ofNat 16 (s.cel.rtc % 2 ^ 20 / 16))
  else (s.utcS, BitVec.ofNat 16 (65536 * (s.utcNs % 1000000000) / 1000000000))

/-- By how many ppb the RTC gains on the time that passes. On ticks that is the count: in FREE, in HOLDOVER and during the RC
fallback the count follows the RTC, and in ACQUIRE and LOCKED it is steered within ±5 ppm of it (R460, R461). Elsewhere it is
the crystal's own error, which nothing gives, and the correction in force (R456). -/
def State.rtcGain (s : State) (tick : Bool) : Int × State :=
  if tick ∧ (s.sys.stopped ∨ s.rd TBS_STAT_STATE = 0 ∨ s.rd TBS_STAT_STATE = 3) then (0, s)
  else
    let r := s.measure
    (if tick then r.1 % 10001 - 5000 else r.1 + s.cel.corr, r.2)

/-- Time passes: the count (while the PLL paces it), the RTC in whole units with the rest carried forward (R455), and the elapsed
time of the Cellar advance. A new correction takes effect at a whole second (R456). -/
def State.advance (s : State) (ns : Nat) (tick : Bool) : State :=
  let g := s.rtcGain tick
  let total := 1048576 * (ns : Int) * (1000000000 + g.1) + s.cel.rtcRem
  let rtc := ((s.cel.rtc : Int) + total / 1000000000000000000).toNat
  { g.2 with
    tbs := if tick then { g.2.tbs with mono := s.tbs.mono + ns } else g.2.tbs
    cel := { g.2.cel with
      rtc := rtc
      rtcRem := total % 1000000000000000000
      corr := if rtc / 1048576 = s.cel.rtc / 1048576 then s.cel.corr else s.cel.corrNext
      elapsed := s.cel.elapsed + ns } }

/-! ## The Attic -/

/-- The sequence the next Attic record takes. -/
def State.atticNext (s : State) : BitVec 16 :=
  match s.care.buf.getLast? with
  | some r => r.seq + 1
  | none => BitVec.ofNat 16 (s.rd ATTIC_SEQ + 1)

/-- The list without its first TELE record. -/
def dropTele : List AtticRec → List AtticRec
  | [] => []
  | r :: t => if r.typ = 1 then t else r :: dropTele t

/-- A record enters the append buffer (R514): a full buffer drops a new TELE record, gives another record the place of the
oldest TELE record, and drops it where no TELE record is held. -/
def State.atticRec (s : State) (r : AtticRec) : State :=
  if s.care.buf.length < 32 then { s with care := { s.care with buf := s.care.buf ++ [r] } }
  else if r.typ ≠ 1 ∧ s.care.buf.any (fun x => x.typ == 1) then
    { s.bump ATTIC_STAT_LOST with care := { s.care with buf := dropTele s.care.buf ++ [r] } }
  else s.bump ATTIC_STAT_LOST

/-- A record of a type with a body (Tables 18.5, 18.6), padded to 22 bytes. -/
def State.attic (s : State) (typ : Nat) (body : List Byte) (rise : Bool := false) : State :=
  s.atticRec { typ := BitVec.ofNat 4 typ, unk := s.timeUnk, leap := s.tbs.leapNow, rise := rise, seq := s.atticNext,
               utc := s.utcS, body := (body ++ List.replicate 22 0).take 22 }

/-- The 32 bytes of a record (Table 18.5). -/
def AtticRec.bytes (r : AtticRec) : List Byte :=
  let h : List Byte := [BitVec.ofNat 8 (r.typ.toNat + 16 * b2n r.unk + 32 * b2n r.leap + 64 * b2n r.rise), 0] ++
    leBytes 2 r.seq.toNat ++ r.utc.bytes ++ r.body
  h ++ leBytes 2 (crc16 h)

/-- A MODE record (Table 18.6). -/
def State.modeRec (s : State) (frm dest cause info level : Nat) (rise : Bool := false) : State :=
  s.attic 3 [BitVec.ofNat 8 frm, BitVec.ofNat 8 dest, BitVec.ofNat 8 cause, BitVec.ofNat 8 info, BitVec.ofNat 8 level] rise

/-- A LIFE record (Table 18.6): verb, old and new stage, epoch, K before and after, mirror value found. -/
def State.lifeRec (s : State) (verb : Nat) (old : BitVec 13) (mirror : Nat) : State :=
  s.attic 7 [BitVec.ofNat 8 verb, BitVec.ofNat 8 (stageOf old).1.code, BitVec.ofNat 8 s.stage.code,
    BitVec.ofNat 8 s.epoch, BitVec.ofNat 8 (lifeK old), BitVec.ofNat 8 (lifeK s.si.life), BitVec.ofNat 8 mirror]

/-! ## Counters -/

/-- The value and sequence of a counter's current slot (R426); 0 without a ring or a valid slot. -/
def State.ctrSlot (s : State) (c : CtrId) : CtrSlot :=
  let r := s.nv.ring.at c
  if r.slots = 0 ∨ r.noValid then ⟨0, 0⟩ else spGet ⟨0, 0⟩ (s.nv.slots) (r.base + r.cur)

/-- VALUE of a counter. -/
def State.ctrVal (s : State) (c : CtrId) : Nat := (s.ctrSlot c).value

/-- Hold-off is in force (R422). -/
def State.holdoff (s : State) : Bool := s.isSet LDR_STAT_HOLDOFF

/-- The slot after the current one is written with value and sequence (R425), and becomes current; a wrap of SEQ is counted
in the wear table (R509). -/
def State.ctrWrite (s : State) (c : CtrId) (value : Nat) (seq : Word) : State :=
  let r := s.nv.ring.at c
  let cur := if r.slots = 0 then 0 else (r.cur + 1) % r.slots
  { s with nv := { s.nv with
      ring := s.nv.ring.put c { r with cur := cur }
      slots := spInsert s.nv.slots (r.base + cur) ⟨value, seq⟩
      wraps := if seq = 0 then lkPut s.nv.wraps c.val (lkGet 0 s.nv.wraps c.val + 1) else s.nv.wraps } }

/-- One increment (R425, R426): the code of Table 15.12, and the state after it. -/
def State.ctrInc (s : State) (c : CtrId) (a : Nat) : Nat × State :=
  let r := s.nv.ring.at c
  let cur := s.ctrSlot c
  if r.slots = 0 then (1, s)
  else if r.noValid then (7, s)
  else if a = 0 then (4, s)
  else if 2 ^ 64 ≤ cur.value + a then (5, s)
  else (0, s.ctrWrite c (cur.value + a) (cur.seq + 1))

/-- An increment the part makes itself: during hold-off it accumulates per counter (R422). -/
def State.ctrAuto (s : State) (c : CtrId) (a : Nat) : State :=
  let l := s.ldr.incs
  let l' := if l.any (fun e => decide (e.1 = c)) then l.map (fun e => if e.1 = c then (c, e.2 + a) else e) else l ++ [(c, a)]
  if s.holdoff then { s with ldr := { s.ldr with incs := l' } } else (s.ctrInc c a).2

/-! ## What CON sends -/

/-- A line on CON_TX: its text, a space, "*", the check over all that, CR LF (R124). -/
def conBytes (t : List Byte) : List Byte := t ++ [0x20, 0x2A] ++ hexN 4 (crc16 (t ++ [0x20])) ++ [0x0D, 0x0A]

/-- Bytes on CON_TX. -/
def State.conTx (s : State) (l : List Byte) : State := { s with con := { s.con with tx := s.con.tx ++ l } }

/-- Typed mode (R117). -/
def State.echo (s : State) : Bool := s.isSet CON_LINE_ECHO

/-- The prompt, in typed mode. -/
def State.conPrompt (s : State) : State := if s.echo then s.conTx [0x3E, 0x20] else s

/-- One notice between replies (R127): in typed mode a partly entered line is sent again after it. -/
def State.sendNote (s : State) (t : List Byte) : State :=
  if s.echo ∧ s.con.line ≠ [] then ((s.conTx [0x0D, 0x0A]).conTx (conBytes t)).conTx ([0x3E, 0x20] ++ s.con.line.filter printable)
  else s.conTx (conBytes t)

/-- The queued notices go out, and the count of lost ones after them. -/
def State.flushNotes (s : State) : State :=
  let s1 := s.con.notes.foldl State.sendNote s
  let s2 := if s.con.lost = 0 then s1 else s1.sendNote (txt "!LOST" ++ fld "n" (dec s.con.lost))
  { s2 with con := { s2.con with notes := [], lost := 0 } }

/-- A notice is queued (at most 16), and goes out at once where no reply is due. -/
def State.notice (s : State) (t : List Byte) : State :=
  if !s.con.started then s
  else
    let s1 := if s.con.notes.length < 16 then { s with con := { s.con with notes := s.con.notes ++ [t] } }
      else { s with con := { s.con with lost := s.con.lost + 1 } }
    if s1.con.busy == .idle then s1.flushNotes else s1

/-- The names of the modes (Table 3.2). -/
def Mode.name : Mode → List Byte
  | .cellar => txt "CELLAR" | .rise => txt "RISE" | .foundry => txt "FOUNDRY" | .fit => txt "FIT"
  | .service => txt "SERVICE" | .workshop => txt "WORKSHOP" | .inspect => txt "INSPECT" | .doze => txt "DOZE"
  | .hold => txt "HOLD" | .quarantine => txt "QUARANTINE" | .erased => txt "ERASED" | .retired => txt "RETIRED"

/-- The names of the stages (Table 3.3). -/
def Stage.name : Stage → List Byte
  | .foundry => txt "FOUNDRY" | .fit => txt "FIT" | .sealed => txt "SEALED" | .erased => txt "ERASED"
  | .retired => txt "RETIRED"

/-- The names of the responses (Table 17.4). -/
def Resp.name : Resp → List Byte
  | .none => txt "NONE" | .log => txt "LOG" | .notify => txt "NOTIFY" | .hold => txt "HOLD" | .reset => txt "RESET"
  | .lock => txt "LOCK" | .erase => txt "ERASE"

/-- The names of the Watch sources (Table 17.2). -/
def srcName (n : Nat) : List Byte :=
  match n with
  | 0x00 => txt "VCC_LOW" | 0x01 => txt "VCC_HIGH" | 0x02 => txt "VCORE_GLITCH" | 0x03 => txt "VIO_LOW"
  | 0x04 => txt "VBAT_LOW" | 0x08 => txt "XHF_FREQ" | 0x09 => txt "CLK_GLITCH" | 0x0A => txt "XT32_STOP"
  | 0x10 => txt "TEMP_LOW" | 0x11 => txt "TEMP_HIGH" | 0x12 => txt "TEMP_SLEW" | 0x14 => txt "LIGHT"
  | 0x15 => txt "MESH" | 0x16 => txt "FIELD" | 0x18 => txt "RESET_STUCK" | 0x19 => txt "CELLAR_LOSS"
  | 0x1A => txt "MONITOR_DISAGREE" | 0x20 => txt "OVERRUN" | 0x21 => txt "MISUSE" | 0x22 => txt "PKE_FAULT"
  | 0x23 => txt "RNG_FAIL" | 0x24 => txt "ECC_UNCORR" | 0x25 => txt "IMAGE_FAIL" | 0x26 => txt "PROBE"
  | _ => if srcPort n then txt "PORT" ++ dec (n - 0x40) else []

/-- The names of the error codes (Table 4.6). -/
def errName (e : Nat) : List Byte :=
  match e with
  | 10 => txt "SYNTAX" | 11 => txt "VERB" | 12 => txt "ARG" | 13 => txt "CHECK" | 20 => txt "STATE" | 21 => txt "LEVEL"
  | 22 => txt "BUSY" | 30 => txt "CLAIM" | 31 => txt "SPACE" | 40 => txt "VAULT" | 41 => txt "STORE"
  | 42 => txt "ARCHIVE" | 43 => txt "COUNTER" | 50 => txt "PKE" | 60 => txt "LOCKED" | 70 => txt "APPLET"
  | 71 => txt "APPLET-TIMEOUT" | _ => txt "INTERNAL"

/-- @tt as every line of a reply carries it (R121). -/
def tagBytes : Option Byte → List Byte
  | some t => 0x40 :: hexN 2 t.toNat
  | none => []

/-- The end of a reply: CON is idle again, the prompt goes out in typed mode, and queued notices follow. -/
def State.replyEnd (s : State) : State :=
  let s1 := { s with con := { s.con with busy := .idle } }
  s1.conPrompt.flushNotes

/-- A single-line success (R126); `t` begins with the space of its first field, or is empty. -/
def State.replyOk (s : State) (tag : Option Byte) (t : List Byte) : State :=
  (s.conTx (conBytes (txt "OK" ++ tagBytes tag ++ t))).replyEnd

/-- A multi-line reply (R126). -/
def State.replyLines (s : State) (tag : Option Byte) (ls : List (List Byte)) : State :=
  (ls.foldl (fun s l => s.conTx (conBytes ([0x3D] ++ tagBytes tag ++ [0x20] ++ l))) s).replyOk tag
    (fld "lines" (dec ls.length))

/-! ## What a core latches -/

/-- An interrupt source latched in a core's CPUn_IPEND (R304). -/
def State.ipend (s : State) (c : CpuId) (src : Nat) : State :=
  s.wr (CPU_IPEND c) (s.rd (CPU_IPEND c) ||| 2 ^ src)

/-- A source latched in both cores. -/
def State.ipendAll (s : State) (src : Nat) : State := (s.ipend 0 src).ipend 1 src

end Sys2Proof.Machine
end

