-- ==== Sys2Proof/Machine/Iso7816.lean ====
section
/-!
DEFINITION. Iso7816.lean: an APDU exchange as the card engine runs it, under T=0 and under T=1 (spec/06_ports.md, R203, R207).
The spec leaves the protocols to ISO/IEC 7816-3; the procedure bytes, block formats and the three tries of a block are that
standard's (PRESUMED, log entry 94).
-/
namespace Sys2Proof.Machine

/-- A length byte that 0 stands for 256. -/
def len256 (b : Byte) : Nat := if b = 0 then 256 else b.toNat

/-! ## T=0 -/

/-- What the engine awaits: a procedure byte, `k` data bytes, the second status byte; or the exchange is over. -/
inductive T0Phase where
  | proc
  | data (k : Nat)
  | sw (sw1 : Byte)
  | done
  | bad
deriving DecidableEq, Repr

/-- A T=0 exchange in progress. -/
structure T0 where
  /-- the header in force: CLA INS P1 P2 P3. -/
  hdr : List Byte
  /-- data bytes not yet sent, and the number not yet received. -/
  out : List Byte := []
  need : Nat := 0
  /-- the response, and everything sent. -/
  got : List Byte := []
  sent : List Byte := []
  ph : T0Phase := .proc
deriving DecidableEq, Repr

/-- A header goes out; `n` bytes are due. -/
def T0.command (x : T0) (hdr : List Byte) (n : Nat) : T0 :=
  { x with hdr := hdr, out := [], need := n, sent := x.sent ++ hdr, ph := .proc }

/-- The instruction byte of the header in force. -/
def T0.ins (x : T0) : Byte := x.hdr.getD 1 0

/-- The first command of an APDU; none for one that no short form of T=0 carries. -/
def t0Start (apdu : List Byte) : Option T0 :=
  match apdu with
  | [c, i, p, q] => some (({ hdr := [] } : T0).command [c, i, p, q, 0] 0)
  | [c, i, p, q, le] => some (({ hdr := [] } : T0).command [c, i, p, q, le] (len256 le))
  | c :: i :: p :: q :: lc :: rest =>
    if lc ≠ 0 ∧ (rest.length = lc.toNat ∨ rest.length = lc.toNat + 1) then
      some { ({ hdr := [] } : T0).command [c, i, p, q, lc] 0 with out := rest.take lc.toNat }
    else none
  | _ => none

/-- The engine sends `n` of the data bytes, or awaits `n`. -/
def T0.go (x : T0) (n : Nat) : T0 :=
  if !x.out.isEmpty then { x with sent := x.sent ++ x.out.take n, out := x.out.drop n }
  else if x.need = 0 then x
  else { x with ph := .data (Nat.min n x.need) }

/-- The end of a command: GET RESPONSE on 61xx, the command again on 6Cxx, else the response is complete. -/
def T0.status (x : T0) (a b : Byte) : T0 :=
  if a = 0x61 then x.command [x.hdr.getD 0 0, 0xC0, 0, 0, b] (len256 b)
  else if a = 0x6C then x.command (x.hdr.take 4 ++ [b]) (len256 b)
  else { x with got := x.got ++ [a, b], ph := .done }

/-- One byte from the card. -/
def T0.step (x : T0) (b : Byte) : T0 :=
  match x.ph with
  | .done => x
  | .bad => x
  | .data k =>
    { x with got := x.got ++ [b], need := x.need - 1, ph := if k ≤ 1 then .proc else .data (k - 1) }
  | .sw a => x.status a b
  | .proc =>
    if b = 0x60 then x
    else if b = x.ins then x.go 65536
    else if b = x.ins ^^^ 0xFF then x.go 1
    else if b &&& 0xF0 = 0x60 ∨ b &&& 0xF0 = 0x90 then { x with ph := .sw b }
    else { x with ph := .bad }

/-- A whole exchange: the response APDU, if the card completes it, and what the engine sent. -/
def t0Run (apdu l : List Byte) : Option (List Byte) × List Byte :=
  match t0Start apdu with
  | none => (none, [])
  | some x0 =>
    let x := l.foldl T0.step x0
    (if x.ph = .done then some x.got else none, x.sent)

/-! ## T=1 -/

/-- A T=1 exchange in progress. -/
structure T1 where
  /-- chunks of the command not yet acknowledged, the one last sent first. -/
  out : List (List Byte)
  /-- the sequence bits of the next block out, and of the next block in. -/
  ns : Bool
  nr : Bool
  got : List Byte := []
  sent : List Byte := []
  /-- the block last sent, and what has arrived of the next one, with whether any of it had a parity error. -/
  last : List Byte := []
  buf : List Byte := []
  bad : Bool := false
  /-- failures in a row; the exchange is over, with its response or without. -/
  tries : Nat := 0
  done : Bool := false
  ok : Bool := false
deriving DecidableEq, Repr

/-- The longitudinal redundancy check. -/
def lrc (l : List Byte) : Byte := l.foldl (fun n b => n ^^^ b) 0

/-- A block with NAD 0. -/
def t1Block (pcb : Byte) (inf : List Byte) : List Byte :=
  let b := [0, pcb, BitVec.ofNat 8 inf.length] ++ inf
  b ++ [lrc b]

/-- A block goes out. -/
def T1.put (x : T1) (b : List Byte) : T1 := { x with sent := x.sent ++ b, last := b }

/-- The I-block of the first chunk, and an R-block with an error code. -/
def T1.iblock (x : T1) : List Byte :=
  t1Block (BitVec.ofNat 8 (64 * b2n x.ns + 32 * b2n (decide (1 < x.out.length)))) (x.out.headD [])
def T1.rblock (x : T1) (err : Nat) : List Byte := t1Block (BitVec.ofNat 8 (128 + 16 * b2n x.nr + err)) []

/-- A block that is wrong, or that asks for the last one again; the third failure in a row ends the exchange. -/
def T1.again (x : T1) (b : List Byte) : T1 :=
  if 2 ≤ x.tries then { x with done := true } else { x.put b with tries := x.tries + 1 }

/-- An I-block of the card: it acknowledges the last chunk. -/
def T1.seeI (x : T1) (pcb : Byte) (inf : List Byte) : T1 :=
  if 1 < x.out.length ∨ pcb.getLsbD 6 ≠ x.nr then x.again (x.rblock 2)
  else
    let y := { x with
      ns := if x.out.isEmpty then x.ns else !x.ns, nr := !x.nr, out := [], got := x.got ++ inf, tries := 0 }
    if pcb.getLsbD 5 then y.put (y.rblock 0) else { y with done := true, ok := true }

/-- An R-block of the card: the next chunk of a chain, or the last block again. -/
def T1.seeR (x : T1) (pcb : Byte) : T1 :=
  if 1 < x.out.length ∧ pcb.getLsbD 4 ≠ x.ns then
    let y := { x with ns := !x.ns, out := x.out.drop 1, tries := 0 }
    y.put y.iblock
  else x.again x.last

/-- A block of the card. -/
def T1.see (x : T1) (b : List Byte) (bad : Bool) : T1 :=
  let pcb := b.getD 1 0
  let inf := (b.drop 3).take (b.length - 4)
  if bad ∨ lrc b ≠ 0 then x.again (x.rblock 1)
  else if b.headD 0 ≠ 0 then x.again (x.rblock 2)
  else if !pcb.getLsbD 7 then x.seeI pcb inf
  else if !pcb.getLsbD 6 then x.seeR pcb
  else if pcb = 0xC3 ∧ inf.length = 1 then x.put (t1Block 0xE3 inf)
  else x.again (x.rblock 2)

/-- One character from the card. -/
def T1.step (x : T1) (c : CardChar) : T1 :=
  if x.done then x
  else
    let buf := x.buf ++ [c.b]
    let bad := x.bad || c.bad != 0
    if 4 ≤ buf.length ∧ buf.length = (buf.getD 2 0).toNat + 4 then { x with buf := [], bad := false }.see buf bad
    else { x with buf := buf, bad := bad }

/-- Pieces of at most `n` bytes; one empty piece of nothing. -/
def piecesFuel (n : Nat) : Nat → List Byte → List (List Byte)
  | 0, l => [l]
  | k + 1, l => if l.length ≤ n then [l] else l.take n :: piecesFuel n k (l.drop n)

/-- A whole exchange: the response APDU, if the card completes it, what the engine sent, and the sequence bits it leaves. -/
def t1Run (apdu : List Byte) (ifsc : Nat) (ns nr : Bool) (l : List CardChar) : Option (List Byte) × List Byte × Bool × Bool :=
  let x0 : T1 := { out := piecesFuel ifsc apdu.length apdu, ns := ns, nr := nr }
  let x := l.foldl T1.step (x0.put x0.iblock)
  (if x.ok then some x.got else none, x.sent, x.ns, x.nr)

end Sys2Proof.Machine
end

