-- ==== Sys2Proof/Machine/Aes.lean ====
section
/-!
DEFINITION. Aes.lean: AES (FIPS 197), its modes ECB, CBC and CTR, CMAC (SP 800-38B) and GCM, over byte lists in the order of
the standards (R12).
-/
namespace Sys2Proof.Machine

/-- The S-box of FIPS 197, entry i in bits 8i+7 to 8i. -/
def aesSbox : Nat :=
  0x16bb54b00f2d99416842e6bf0d89a18cdf2855cee9871e9b948ed9691198f8e19e1dc186b95735610ef6034866b53e708a8bbd4b1f74dde8c6b4a61c2e2578ba08ae7a65eaf4566ca94ed58d6d37c8e779e4959162acd3c25c2406490a3a32e0db0b5ede14b8ee4688902a22dc4f816073195d643d7ea7c41744975fec130ccdd2f3ff1021dab6bcf5389d928f40a351a89f3c507f02f94585334d43fbaaefd0cf584c4a39becb6a5bb1fc20ed00d153842fe329b3d63b52a05a6e1b1a2c830975b227ebe28012079a059618c323c7041531d871f1e5a534ccf73f362693fdb7c072a49cafa2d4adf04759fa7dc982ca76abd7fe2b670130c56f6bf27b777c63

/-- The inverse S-box. -/
def aesInvSbox : Nat :=
  0x7d0c2155631469e126d677ba7e042b17619953833cbbebc8b0f52aae4d3be0a0ef9cc9939f7ae52d0d4ab519a97f51605fec8027591012b131c7078833a8dd1ff45acd78fec0db9a2079d2c64b3e56fc1bbe18aa0e62b76f89c5291d711af1476edf751ce837f9e28535ade72274ac9673e6b4f0cecff297eadc674f4111913a6b8a130103bdafc1020f3fca8f1e2cd00645b3b80558e4f70ad3bc8c00abd890849d8da75746155edab9edfd5048706c92b6655dcc5ca4d41698688664f6f87225d18b6d49a25b76b224d92866a12e084ec3fa420b954cee3d23c2a632947b54cbe9dec444438e3487ff2f9b8239e37cfbd7f3819ea340bf38a53630d56a0952

/-- A byte through a table. -/
def sub8 (tab : Nat) (b : Byte) : Byte := BitVec.ofNat 8 (tab >>> (8 * b.toNat))

/-- Multiplication by x in GF(2^8). -/
def xtime (b : Byte) : Byte := if b.msb then (b <<< 1) ^^^ 0x1B else b <<< 1

/-- Multiplication in GF(2^8) by a constant below 16. -/
def gfMul (c : Nat) (b : Byte) : Byte :=
  let b2 := xtime b
  let b4 := xtime b2
  let b8 := xtime b4
  (if bitAt c 0 then b else 0) ^^^ (if bitAt c 1 then b2 else 0) ^^^ (if bitAt c 2 then b4 else 0) ^^^
    (if bitAt c 3 then b8 else 0)

/-- Bytewise exclusive or. -/
def xorB (a b : List Byte) : List Byte := List.zipWith (· ^^^ ·) a b

/-- Byte i of a list, 0 beyond its end. -/
def nthB (l : List Byte) (i : Nat) : Byte := l.getD i 0

/-- The words of a key. -/
def keyWords : Nat → List Byte → List (List Byte)
  | 0, _ => []
  | n + 1, l => l.take 4 :: keyWords n (l.drop 4)

/-- One more word of the key schedule; `ws` holds the words so far, newest first. -/
def aesNextWord (nk i : Nat) (rcon : Byte) (ws : List (List Byte)) : List Byte :=
  let t := ws.getD 0 []
  let u := if i % nk = 0 then
      let r := (t.drop 1 ++ t.take 1).map (sub8 aesSbox)
      (nthB r 0 ^^^ rcon) :: r.drop 1
    else if 6 < nk ∧ i % nk = 4 then t.map (sub8 aesSbox) else t
  xorB (ws.getD (nk - 1) []) u

/-- The key schedule (FIPS 197, 5.2), newest word first. -/
def aesExpand (nk : Nat) : Nat → Nat → Byte → List (List Byte) → List (List Byte)
  | 0, _, _, ws => ws
  | n + 1, i, rcon, ws =>
    aesExpand nk n (i + 1) (if i % nk = 0 then xtime rcon else rcon) (aesNextWord nk i rcon ws :: ws)

/-- The round keys of a key of 16, 24 or 32 bytes, 16 bytes each. -/
def aesRoundKeys (key : List Byte) : List (List Byte) :=
  let nk := key.length / 4
  let total := 4 * (nk + 7)
  let ws := (aesExpand nk (total - nk) nk 1 (keyWords nk key).reverse).reverse
  (List.range (nk + 7)).map (fun r => ((ws.drop (4 * r)).take 4).flatten)

/-- ShiftRows. -/
def shiftRows (s : List Byte) : List Byte :=
  [0, 5, 10, 15, 4, 9, 14, 3, 8, 13, 2, 7, 12, 1, 6, 11].map (nthB s)

/-- InvShiftRows. -/
def invShiftRows (s : List Byte) : List Byte :=
  [0, 13, 10, 7, 4, 1, 14, 11, 8, 5, 2, 15, 12, 9, 6, 3].map (nthB s)

/-- MixColumns with the coefficients of a circulant row. -/
def mixWith (c : List Nat) (s : List Byte) : List Byte :=
  (List.range 16).map (fun i =>
    (List.range 4).foldl (fun x j => x ^^^ gfMul (c.getD ((j + 4 - i % 4) % 4) 0) (nthB s (i / 4 * 4 + j))) 0)

/-- One block encrypted. -/
def aesEnc (key blk : List Byte) : List Byte :=
  let rks := aesRoundKeys key
  let n := rks.length - 1
  let s0 := xorB blk (rks.getD 0 [])
  let s1 := (List.range (n - 1)).foldl
    (fun s r => xorB (mixWith [2, 3, 1, 1] (shiftRows (s.map (sub8 aesSbox)))) (rks.getD (r + 1) [])) s0
  xorB (shiftRows (s1.map (sub8 aesSbox))) (rks.getD n [])

/-- One block decrypted. -/
def aesDec (key blk : List Byte) : List Byte :=
  let rks := aesRoundKeys key
  let n := rks.length - 1
  let s0 := xorB blk (rks.getD n [])
  let s1 := (List.range (n - 1)).foldl
    (fun s r => mixWith [14, 11, 13, 9] (xorB ((invShiftRows s).map (sub8 aesInvSbox)) (rks.getD (n - 1 - r) []))) s0
  xorB ((invShiftRows s1).map (sub8 aesInvSbox)) (rks.getD 0 [])

/-- The 16-byte blocks of a message; the last may be short. -/
def blocksFuel : Nat → List Byte → List (List Byte)
  | 0, _ => []
  | n + 1, l => if l.isEmpty then [] else l.take 16 :: blocksFuel n (l.drop 16)
def blocks16 (l : List Byte) : List (List Byte) := blocksFuel (l.length / 16 + 1) l

/-- ECB. -/
def ecbEnc (key msg : List Byte) : List Byte := (blocks16 msg).flatMap (aesEnc key)
def ecbDec (key msg : List Byte) : List Byte := (blocks16 msg).flatMap (aesDec key)

/-- CBC encryption: the ciphertext and the last block, which chains on. -/
def cbcEnc (key iv msg : List Byte) : List Byte × List Byte :=
  (blocks16 msg).foldl (fun (acc, v) b => let c := aesEnc key (xorB b v); (acc ++ c, c)) ([], iv)

/-- CBC decryption. -/
def cbcDec (key iv msg : List Byte) : List Byte × List Byte :=
  (blocks16 msg).foldl (fun (acc, v) c => (acc ++ xorB (aesDec key c) v, c)) ([], iv)

/-- The counter block plus one, over its last `n` bytes. -/
def incBlock (n : Nat) (b : List Byte) : List Byte := b.take (16 - n) ++ beBytes n (beNat (b.drop (16 - n)) + 1)

/-- Counter mode over the last `n` bytes of the counter block: the output and the next counter block. -/
def ctrMode (n : Nat) (key cb msg : List Byte) : List Byte × List Byte :=
  (blocks16 msg).foldl (fun (acc, c) b => (acc ++ xorB b (aesEnc key c), incBlock n c)) ([], cb)

/-- Doubling in GF(2^128) of SP 800-38B. -/
def dbl128 (b : List Byte) : List Byte :=
  let v := beNat b
  beBytes 16 ((2 * v) ^^^ (if 2 ^ 127 ≤ v then 0x87 else 0))

/-- The chaining value of CMAC after whole blocks. -/
def cmacChain (key x : List Byte) (bs : List (List Byte)) : List Byte := bs.foldl (fun x b => aesEnc key (xorB x b)) x

/-- The tag of CMAC from a chaining value and the last block, which may be short or empty. -/
def cmacLast (key x last : List Byte) : List Byte :=
  let k1 := dbl128 (aesEnc key (List.replicate 16 0))
  let m := if last.length = 16 then xorB last k1
    else xorB ((last ++ [0x80] ++ List.replicate 16 0).take 16) (dbl128 k1)
  aesEnc key (xorB x m)

/-- AES-CMAC of a message (SP 800-38B). -/
def cmac (key msg : List Byte) : List Byte :=
  let bs := blocks16 msg
  cmacLast key (cmacChain key (List.replicate 16 0) bs.dropLast) (bs.getLastD [])

/-- Multiplication in GF(2^128) of GCM; bit 0 is the most significant one. -/
def ghMulFuel : Nat → Nat → Nat → Nat → Nat
  | 0, _, _, z => z
  | n + 1, x, v, z =>
    ghMulFuel n x (if v % 2 = 1 then (v / 2) ^^^ (0xE1 <<< 120) else v / 2) (if bitAt x n then z ^^^ v else z)
def ghMul (x y : Nat) : Nat := ghMulFuel 128 x y 0

/-- GHASH over bytes, each run padded to whole blocks by the caller. -/
def ghash (h y : Nat) (msg : List Byte) : Nat :=
  (blocks16 msg).foldl (fun y b => ghMul (y ^^^ beNat ((b ++ List.replicate 16 0).take 16)) h) y

/-- The GCM tag over associated data and ciphertext with a 12-byte nonce. -/
def gcmTag (key nonce aad ct : List Byte) : List Byte :=
  let h := beNat (aesEnc key (List.replicate 16 0))
  let y := ghash h (ghash h 0 aad) ct
  let z := ghMul (y ^^^ (2 ^ 67 * aad.length + 8 * ct.length)) h
  xorB (beBytes 16 z) (aesEnc key (nonce ++ [0, 0, 0, 1]))

/-- GCM encryption or decryption of the text (the same keystream). -/
def gcmText (key nonce msg : List Byte) : List Byte := (ctrMode 4 key (nonce ++ [0, 0, 0, 2]) msg).1

end Sys2Proof.Machine
end

