-- ==== Sys2Proof/Machine/Sha.lean ====
section
/-!
DEFINITION. Sha.lean: SHA-256, SHA-384 and SHA-512 (FIPS 180-4), HMAC (FIPS 198-1) and the counter-mode KDF (SP 800-108), with
the running state that a context keeps between parts of a message.
-/
namespace Sys2Proof.Machine

/-- The three hashes. -/
inductive Hash where
  | sha256 | sha384 | sha512
deriving DecidableEq, Repr

/-- Word width in bits. -/
def Hash.w : Hash → Nat
  | .sha256 => 32
  | _ => 64

/-- Block length in bytes. -/
def Hash.block : Hash → Nat
  | .sha256 => 64
  | _ => 128

/-- Digest length in bytes. -/
def Hash.len : Hash → Nat
  | .sha256 => 32 | .sha384 => 48 | .sha512 => 64

/-- Rounds. -/
def Hash.rounds : Hash → Nat
  | .sha256 => 64
  | _ => 80

/-- The round constants, entry i in bits w·i and up. -/
def sha256K : Nat :=
  0xc67178f2bef9a3f7a4506ceb90befffa8cc7020884c8781478a5636f748f82ee682e6ff35b9cca4f4ed8aa4a391c0cb334b0bcb52748774c1e376c0819a4c116106aa070f40e3585d6990624d192e819c76c51a3c24b8b70a81a664ba2bfe8a192722c8581c2c92e766a0abb650a735453380d134d2c6dfc2e1b213827b70a851429296706ca6351d5a79147c6e00bf3bf597fc7b00327c8a831c66d983e515276f988da5cb0a9dc4a7484aa2de92c6f240ca1cc0fc19dc6efbe4786e49b69c1c19bf1749bdc06a780deb1fe72be5d74550c7dc3243185be12835b01d807aa98ab1c5ed5923f82a459f111f13956c25be9b5dba5b5c0fbcf71374491428a2f98
def sha512K : Nat :=
  0x6c44198c4a4758175fcb6fab3ad6faec597f299cfc657e2a4cc5d4becb3e42b6431d67c49c100d4c3c9ebe0a15c9bebc32caab7b40c7249328db77f523047d841b710b35131c471b113f9804bef90dae0a637dc5a2c898a606f067aa72176fbaf57d4f7fee6ed178eada7dd6cde0eb1ed186b8c721c0c207ca273eceea26619cc67178f2e372532bbef9a3f7b2c67915a4506cebde82bde990befffa23631e288cc702081a6439ec84c87814a1f0ab7278a5636f43172f60748f82ee5defb2fc682e6ff3d6b2b8a35b9cca4f7763e3734ed8aa4ae3418acb391c0cb3c5c95a6334b0bcb5e19b48a82748774cdf8eeb991e376c085141ab5319a4c116b8d2d0c8106aa07032bbd1b8f40e35855771202ad69906245565a910d192e819d6ef5218c76c51a30654be30c24b8b70d0f89791a81a664bbc423001a2bfe8a14cf1036492722c851482353b81c2c92e47edaee6766a0abb3c77b2a8650a73548baf63de53380d139d95b3df4d2c6dfc5ac42aed2e1b21385c26c92627b70a8546d22ffc142929670a0e6e7006ca6351e003826fd5a79147930aa725c6e00bf33da88fc2bf597fc7beef0ee4b00327c898fb213fa831c66d2db43210983e5152ee66dfab76f988da831153b55cb0a9dcbd41fbd44a7484aa6ea6e4832de92c6f592b0275240ca1cc77ac9c650fc19dc68b8cd5b5efbe4786384f25e3e49b69c19ef14ad2c19bf174cf6926949bdc06a725c7123580deb1fe3b1696b172be5d74f27b896f550c7dc3d5ffb4e2243185be4ee4b28c12835b0145706fbed807aa98a3030242ab1c5ed5da6d8118923f82a4af194f9b59f111f1b605d0193956c25bf348b538e9b5dba58189dbbcb5c0fbcfec4d3b2f7137449123ef65cd428a2f98d728ae22

/-- Round constant i. -/
def Hash.k (h : Hash) (i : Nat) : Nat :=
  match h with
  | .sha256 => (sha256K >>> (32 * i)) % 2 ^ 32
  | _ => (sha512K >>> (64 * i)) % 2 ^ 64

/-- The initial hash value. -/
def Hash.init : Hash → List Nat
  | .sha256 => [0x6a09e667, 0xbb67ae85, 0x3c6ef372, 0xa54ff53a, 0x510e527f, 0x9b05688c, 0x1f83d9ab, 0x5be0cd19]
  | .sha384 => [0xcbbb9d5dc1059ed8, 0x629a292a367cd507, 0x9159015a3070dd17, 0x152fecd8f70e5939, 0x67332667ffc00b31, 0x8eb44a8768581511, 0xdb0c2e0d64f98fa7, 0x47b5481dbefa4fa4]
  | .sha512 => [0x6a09e667f3bcc908, 0xbb67ae8584caa73b, 0x3c6ef372fe94f82b, 0xa54ff53a5f1d36f1, 0x510e527fade682d1, 0x9b05688c2b3e6c1f, 0x1f83d9abfb41bd6b, 0x5be0cd19137e2179]

/-- Rotation right of a `w`-bit word. -/
def ror (w x n : Nat) : Nat := (x >>> n ||| x <<< (w - n)) % 2 ^ w

/-- The four sigma functions: rotations, and a third rotation or a shift. -/
def Hash.bigSigma0 (h : Hash) (x : Nat) : Nat :=
  if h.w = 32 then ror 32 x 2 ^^^ ror 32 x 13 ^^^ ror 32 x 22 else ror 64 x 28 ^^^ ror 64 x 34 ^^^ ror 64 x 39
def Hash.bigSigma1 (h : Hash) (x : Nat) : Nat :=
  if h.w = 32 then ror 32 x 6 ^^^ ror 32 x 11 ^^^ ror 32 x 25 else ror 64 x 14 ^^^ ror 64 x 18 ^^^ ror 64 x 41
def Hash.sigma0 (h : Hash) (x : Nat) : Nat :=
  if h.w = 32 then ror 32 x 7 ^^^ ror 32 x 18 ^^^ x >>> 3 else ror 64 x 1 ^^^ ror 64 x 8 ^^^ x >>> 7
def Hash.sigma1 (h : Hash) (x : Nat) : Nat :=
  if h.w = 32 then ror 32 x 17 ^^^ ror 32 x 19 ^^^ x >>> 10 else ror 64 x 19 ^^^ ror 64 x 61 ^^^ x >>> 6

/-- `n` big-endian words of `b` bytes. -/
def beWords (b : Nat) : Nat → List Byte → List Nat
  | 0, _ => []
  | n + 1, l => beNat (l.take b) :: beWords b n (l.drop b)

/-- The message schedule, newest word first. -/
def Hash.schedule (h : Hash) : Nat → List Nat → List Nat
  | 0, ws => ws
  | n + 1, ws =>
    h.schedule n ((h.sigma1 (ws.getD 1 0) + ws.getD 6 0 + h.sigma0 (ws.getD 14 0) + ws.getD 15 0) % 2 ^ h.w :: ws)

/-- One round on the working variables a to h. -/
def Hash.round (h : Hash) (v : List Nat) (kw : Nat) : List Nat :=
  let m := 2 ^ h.w
  let (a, b, c) := (v.getD 0 0, v.getD 1 0, v.getD 2 0)
  let (e, f, g) := (v.getD 4 0, v.getD 5 0, v.getD 6 0)
  let t1 := v.getD 7 0 + h.bigSigma1 e + ((e &&& f) ^^^ ((m - 1 - e) &&& g)) + kw
  let t2 := h.bigSigma0 a + ((a &&& b) ^^^ (a &&& c) ^^^ (b &&& c))
  [(t1 + t2) % m, a, b, c, (v.getD 3 0 + t1) % m, e, f, g]

/-- One block into the hash value. -/
def Hash.compress (h : Hash) (v : List Nat) (blk : List Byte) : List Nat :=
  let ws := (h.schedule (h.rounds - 16) (beWords (h.w / 8) 16 blk).reverse).reverse
  let r := (List.range h.rounds).foldl (fun x i => h.round x (h.k i + ws.getD i 0)) v
  List.zipWith (fun a b => (a + b) % 2 ^ h.w) v r

/-- Whole blocks into the hash value. -/
def Hash.absorb (h : Hash) : Nat → List Nat → List Byte → List Nat
  | 0, v, _ => v
  | n + 1, v, l => h.absorb n (h.compress v (l.take h.block)) (l.drop h.block)

/-- The padding of a message of `n` bytes in all. -/
def Hash.pad (h : Hash) (n : Nat) : List Byte :=
  let z := (2 * h.block - 1 - h.w / 4 - n % h.block) % h.block
  0x80 :: (List.replicate z 0 ++ beBytes (h.w / 4) (8 * n))

/-- The digest from a hash value after `done` bytes in whole blocks, and the rest of the message. -/
def Hash.finish (h : Hash) (v : List Nat) (done : Nat) (rest : List Byte) : List Byte :=
  let l := rest ++ h.pad (done + rest.length)
  ((h.absorb (l.length / h.block) v l).flatMap (beBytes (h.w / 8))).take h.len

/-- The digest of a message. -/
def Hash.digest (h : Hash) (msg : List Byte) : List Byte := h.finish h.init 0 msg

/-- The HMAC key block. -/
def Hash.keyBlock (h : Hash) (key : List Byte) : List Byte :=
  let k := if h.block < key.length then h.digest key else key
  k ++ List.replicate (h.block - k.length) 0

/-- The inner and outer pads of HMAC. -/
def Hash.ipad (h : Hash) (key : List Byte) : List Byte := (h.keyBlock key).map (· ^^^ 0x36)
def Hash.opad (h : Hash) (key : List Byte) : List Byte := (h.keyBlock key).map (· ^^^ 0x5C)

/-- HMAC (FIPS 198-1). -/
def Hash.hmac (h : Hash) (key msg : List Byte) : List Byte :=
  h.digest (h.opad key ++ h.digest (h.ipad key ++ msg))

end Sys2Proof.Machine
end

