-- ==== Sys2Proof/Machine/Curve.lean ====
section
/-!
DEFINITION. Curve.lean: modular arithmetic, the six elliptic curves of Table 10.4 (FIPS 186-5, RFC 5639), ECDSA, and RSA
verification (PKCS #1), as the programs of the public-key engine compute them (spec/13_public_key_engine.md).
-/
namespace Sys2Proof.Machine

/-! ## Modular arithmetic -/

/-- Extended Euclid: the greatest common divisor of `a` and `b`, and the factor of the first. -/
def egcd : Nat → Nat → Nat → Int → Int → Nat × Int
  | 0, a, _, x, _ => (a, x)
  | f + 1, a, b, x, y => if b = 0 then (a, x) else egcd f b (a % b) y (x - (a / b : Nat) * y)

/-- The inverse of `a` modulo `m`, where they share no factor. -/
def invMod (a m : Nat) : Option Nat :=
  let (g, x) := egcd (2 * Nat.log2 m + 4) (a % m) m 1 0
  if g = 1 then some (x % (m : Int)).toNat else none

/-- a^e mod m, square and multiply from the lowest bit. -/
def powFuel : Nat → Nat → Nat → Nat → Nat → Nat
  | 0, _, _, m, acc => acc % m
  | f + 1, a, e, m, acc =>
    if e = 0 then acc % m else powFuel f (a * a % m) (e / 2) m (if e % 2 = 1 then acc * a % m else acc)

def powMod (a e m : Nat) : Nat := powFuel (Nat.log2 e + 1) (a % m) e m 1

/-! ## Curves -/

/-- y² = x³ + ax + b over the field of `p`, base point, its order, and the byte length of a coordinate (Table 13.2). -/
structure Curve where
  p : Nat
  a : Nat
  b : Nat
  n : Nat
  gx : Nat
  gy : Nat
  len : Nat

def p256 : Curve :=
  { p := 0xffffffff00000001000000000000000000000000ffffffffffffffffffffffff
    a := 0xffffffff00000001000000000000000000000000fffffffffffffffffffffffc
    b := 0x5ac635d8aa3a93e7b3ebbd55769886bc651d06b0cc53b0f63bce3c3e27d2604b
    n := 0xffffffff00000000ffffffffffffffffbce6faada7179e84f3b9cac2fc632551
    gx := 0x6b17d1f2e12c4247f8bce6e563a440f277037d812deb33a0f4a13945d898c296
    gy := 0x4fe342e2fe1a7f9b8ee7eb4a7c0f9e162bce33576b315ececbb6406837bf51f5
    len := 32 }
def p384 : Curve :=
  { p := 0xfffffffffffffffffffffffffffffffffffffffffffffffffffffffffffffffeffffffff0000000000000000ffffffff
    a := 0xfffffffffffffffffffffffffffffffffffffffffffffffffffffffffffffffeffffffff0000000000000000fffffffc
    b := 0xb3312fa7e23ee7e4988e056be3f82d19181d9c6efe8141120314088f5013875ac656398d8a2ed19d2a85c8edd3ec2aef
    n := 0xffffffffffffffffffffffffffffffffffffffffffffffffc7634d81f4372ddf581a0db248b0a77aecec196accc52973
    gx := 0xaa87ca22be8b05378eb1c71ef320ad746e1d3b628ba79b9859f741e082542a385502f25dbf55296c3a545e3872760ab7
    gy := 0x3617de4a96262c6f5d9e98bf9292dc29f8f41dbd289a147ce9da3113b5f0b8c00a60b1ce1d7e819d7a431d7c90ea0e5f
    len := 48 }
def p521 : Curve :=
  { p := 0x1ffffffffffffffffffffffffffffffffffffffffffffffffffffffffffffffffffffffffffffffffffffffffffffffffffffffffffffffffffffffffffffffffff
    a := 0x1fffffffffffffffffffffffffffffffffffffffffffffffffffffffffffffffffffffffffffffffffffffffffffffffffffffffffffffffffffffffffffffffffc
    b := 0x51953eb9618e1c9a1f929a21a0b68540eea2da725b99b315f3b8b489918ef109e156193951ec7e937b1652c0bd3bb1bf073573df883d2c34f1ef451fd46b503f00
    n := 0x1fffffffffffffffffffffffffffffffffffffffffffffffffffffffffffffffffa51868783bf2f966b7fcc0148f709a5d03bb5c9b8899c47aebb6fb71e91386409
    gx := 0xc6858e06b70404e9cd9e3ecb662395b4429c648139053fb521f828af606b4d3dbaa14b5e77efe75928fe1dc127a2ffa8de3348b3c1856a429bf97e7e31c2e5bd66
    gy := 0x11839296a789a3bc0045c8a5fb42c7d1bd998f54449579b446817afbd17273e662c97ee72995ef42640c550b9013fad0761353c7086a272c24088be94769fd16650
    len := 66 }
def bp256 : Curve :=
  { p := 0xa9fb57dba1eea9bc3e660a909d838d726e3bf623d52620282013481d1f6e5377
    a := 0x7d5a0975fc2c3057eef67530417affe7fb8055c126dc5c6ce94a4b44f330b5d9
    b := 0x26dc5c6ce94a4b44f330b5d9bbd77cbf958416295cf7e1ce6bccdc18ff8c07b6
    n := 0xa9fb57dba1eea9bc3e660a909d838d718c397aa3b561a6f7901e0e82974856a7
    gx := 0x8bd2aeb9cb7e57cb2c4b482ffc81b7afb9de27e1e3bd23c23a4453bd9ace3262
    gy := 0x547ef835c3dac4fd97f8461a14611dc9c27745132ded8e545c1d54c72f046997
    len := 32 }
def bp384 : Curve :=
  { p := 0x8cb91e82a3386d280f5d6f7e50e641df152f7109ed5456b412b1da197fb71123acd3a729901d1a71874700133107ec53
    a := 0x7bc382c63d8c150c3c72080ace05afa0c2bea28e4fb22787139165efba91f90f8aa5814a503ad4eb04a8c7dd22ce2826
    b := 0x4a8c7dd22ce28268b39b55416f0447c2fb77de107dcd2a62e880ea53eeb62d57cb4390295dbc9943ab78696fa504c11
    n := 0x8cb91e82a3386d280f5d6f7e50e641df152f7109ed5456b31f166e6cac0425a7cf3ab6af6b7fc3103b883202e9046565
    gx := 0x1d1c64f068cf45ffa2a63a81b7c13f6b8847a3e77ef14fe3db7fcafe0cbd10e8e826e03436d646aaef87b2e247d4af1e
    gy := 0x8abe1d7520f9c2a45cb1eb8e95cfd55262b70b29feec5864e19c054ff99129280e4646217791811142820341263c5315
    len := 48 }
def bp512 : Curve :=
  { p := 0xaadd9db8dbe9c48b3fd4e6ae33c9fc07cb308db3b3c9d20ed6639cca703308717d4d9b009bc66842aecda12ae6a380e62881ff2f2d82c68528aa6056583a48f3
    a := 0x7830a3318b603b89e2327145ac234cc594cbdd8d3df91610a83441caea9863bc2ded5d5aa8253aa10a2ef1c98b9ac8b57f1117a72bf2c7b9e7c1ac4d77fc94ca
    b := 0x3df91610a83441caea9863bc2ded5d5aa8253aa10a2ef1c98b9ac8b57f1117a72bf2c7b9e7c1ac4d77fc94cadc083e67984050b75ebae5dd2809bd638016f723
    n := 0xaadd9db8dbe9c48b3fd4e6ae33c9fc07cb308db3b3c9d20ed6639cca70330870553e5c414ca92619418661197fac10471db1d381085ddaddb58796829ca90069
    gx := 0x81aee4bdd82ed9645a21322e9c4c6a9385ed9f70b5d916c1b43b62eef4d0098eff3b1f78e2d0d48d50d1687b93b97d5f7c6d5047406a5e688b352209bcb9f822
    gy := 0x7dde385d566332ecc0eabfa9cf7822fdf209f70024a57b1aa000c55b881f8111b2dcde494a5f485e5bca4bd88a2763aed1ca2b2fa8f0540678cd1e0f3ad80892
    len := 64 }
/-- The curve of a code (Table 10.4); codes above 5 name none. -/
def Curve.ofCode : Nat → Option Curve
  | 0 => some p256 | 1 => some p384 | 2 => some p521 | 3 => some bp256 | 4 => some bp384 | 5 => some bp512
  | _ => none

/-- A point; none is the identity. -/
abbrev Pt := Option (Nat × Nat)

/-- The sum of two points. -/
def Curve.add (c : Curve) (P Q : Pt) : Pt :=
  match P, Q with
  | none, Q => Q
  | P, none => P
  | some (x1, y1), some (x2, y2) =>
    if x1 = x2 ∧ (y1 + y2) % c.p = 0 then none
    else
      let num := if x1 = x2 then (3 * x1 * x1 + c.a) % c.p else (y2 + c.p - y1) % c.p
      let den := if x1 = x2 then 2 * y1 % c.p else (x2 + c.p - x1) % c.p
      let l := num * (invMod den c.p).getD 0 % c.p
      let x3 := (l * l + 2 * c.p - x1 - x2) % c.p
      some (x3, (l * (x1 + c.p - x3) + c.p - y1) % c.p)

/-- k times a point, from the lowest bit of k. -/
def Curve.mulFuel (c : Curve) : Nat → Nat → Pt → Pt → Pt
  | 0, _, _, acc => acc
  | f + 1, k, P, acc =>
    if k = 0 then acc else c.mulFuel f (k / 2) (c.add P P) (if k % 2 = 1 then c.add acc P else acc)

def Curve.mul (c : Curve) (k : Nat) (P : Pt) : Pt := c.mulFuel (Nat.log2 k + 1) k P none

/-- The base point. -/
def Curve.G (c : Curve) : Pt := some (c.gx, c.gy)

/-- Point validation (R384): coordinates below p, the equation, not the identity (X = Y = 0). -/
def Curve.valid (c : Curve) (x y : Nat) : Bool :=
  decide (x < c.p) && decide (y < c.p) && decide ((y * y) % c.p = (x * x * x + c.a * x + c.b) % c.p) && !(x == 0 && y == 0)

/-- The digest as a number: its leftmost bits, as many as the order has (R380). -/
def Curve.digest (c : Curve) (d : List Byte) : Nat :=
  let have_ := 8 * d.length
  let want := Nat.log2 c.n + 1
  if want < have_ then beNat d / 2 ^ (have_ - want) else beNat d

/-- ECDSA with a given nonce: r and s, none where either is 0 (R381). -/
def Curve.sign (c : Curve) (d k e : Nat) : Option (Nat × Nat) :=
  match c.mul k c.G with
  | none => none
  | some (x, _) =>
    let r := x % c.n
    let s := (invMod k c.n).getD 0 * ((e + r * d) % c.n) % c.n
    if r = 0 ∨ s = 0 then none else some (r, s)

/-- ECDSA verification; r or s outside 1 to n − 1 fails (R382). -/
def Curve.verify (c : Curve) (Q : Pt) (e r s : Nat) : Bool :=
  if r = 0 ∨ s = 0 ∨ c.n ≤ r ∨ c.n ≤ s then false
  else
    let w := (invMod s c.n).getD 0
    match c.add (c.mul (e * w % c.n) c.G) (c.mul (r * w % c.n) Q) with
    | none => false
    | some (x, _) => x % c.n == r

/-! ## RSA (R383) -/

/-- The hash of a digest length in words. -/
def rsaHash : Nat → Option Hash
  | 8 => some .sha256 | 12 => some .sha384 | 16 => some .sha512 | _ => none

/-- DigestInfo before the digest (PKCS #1 v1.5). -/
def digestInfo (h : Hash) : List Byte :=
  let (t, o) : Nat × Nat := match h with | .sha256 => (0x31, 1) | .sha384 => (0x41, 2) | .sha512 => (0x51, 3)
  [0x30, BitVec.ofNat 8 t, 0x30, 0x0d, 0x06, 0x09, 0x60, 0x86, 0x48, 0x01, 0x65, 0x03, 0x04, 0x02, BitVec.ofNat 8 o,
   0x05, 0x00, 0x04, BitVec.ofNat 8 h.len]

/-- EMSA-PKCS1-v1_5 encoding in `k` bytes. -/
def emsaV15 (h : Hash) (d : List Byte) (k : Nat) : List Byte :=
  let t := digestInfo h ++ d
  [0x00, 0x01] ++ List.replicate (k - 3 - t.length) 0xFF ++ [0x00] ++ t

/-- MGF1. -/
def mgf1 (h : Hash) (seed : List Byte) (n : Nat) : List Byte :=
  ((List.range (ceilDiv n h.len)).flatMap (fun i => h.digest (seed ++ beBytes 4 i))).take n

/-- EMSA-PSS verification of an encoded message of `k` bytes whose top bit is 0 (a modulus of 8k bits), salt of hash length. -/
def pssVerify (h : Hash) (d em : List Byte) : Bool :=
  let k := em.length
  let dbLen := k - h.len - 1
  let masked := em.take dbLen
  let hash := (em.drop dbLen).take h.len
  let db0 := List.zipWith (· ^^^ ·) masked (mgf1 h hash dbLen)
  let db := match db0 with | b :: t => (b &&& 0x7F) :: t | [] => []
  let pad := dbLen - h.len - 1
  let top := match masked with | b :: _ => decide (b.toNat < 128) | [] => false
  top && em.getLast? == some 0xBC && (db.take pad).all (· == 0) && db.getD pad 0 == 1 &&
    hash == h.digest (List.replicate 8 0 ++ d ++ db.drop (pad + 1))

/-- RSA verification. -/
def rsaVerify (pss : Bool) (h : Hash) (d : List Byte) (k n e sig : Nat) : Bool :=
  if n ≤ sig then false
  else
    let em := beBytes k (powMod sig e n)
    if pss then pssVerify h d em else em == emsaV15 h d k

end Sys2Proof.Machine
end

