-- ==== Sys2Proof/Machine/Queues.lean ====
section
/-!
DEFINITION. Queues.lean: the queue fabric (spec/08_queues.md): crates, packets, admission, consumer commands, flush and
configuration. Owner codes are those of QFX_Qn_CFG.OWNER: 0 CPU0, 1 CPU1, 2 HLK, 3 PORT, 4 RLY, 5 CARE.
-/
namespace Sys2Proof.Machine

/-- The owner code of an agent that uses queues; CON uses none. -/
def Agent.qcode : Agent → Nat
  | .cpu0 => 0 | .cpu1 => 1 | .care => 5 | .con => 6

/-- A queue changed. -/
def State.qset (s : State) (q : QueueId) (f : Queue → Queue) : State := { s with qfx := s.qfx.upd q f }

/-- An error bit of QFX_ERR with the queue it concerns. -/
def State.qerr (s : State) (f : Field) (q : QueueId) : State := (s.setb f).wr QFX_ERR_QN q.val

/-- A drop or desynchronisation of a queue counts, there and in telemetry (QLOSS). -/
def State.qlost (s : State) (f : Field) : State :=
  let s1 := s.bump f
  { s1 with care := { s1.care with period := { s1.care.period with qloss := s1.care.period.qloss + 1 } } }

/-- Crates that the words from `a` to `b` touch (R251). -/
def crates (a b : Nat) : Nat := if b ≤ a then 0 else (b - 1) / 64 - a / 64 + 1

/-- Words of a packet with `len` payload bytes (R247). -/
def pktWords (len : Nat) : Nat := 2 + ceilDiv len 4

/-- Crates a queue holds (R251), with all those that the header of its packet in progress has claimed (R252). -/
def Queue.held (q : Queue) : Nat := crates q.rel (q.pw + q.left)

/-- The quota; 0 acts as 1 (Table 8.7). -/
def State.quota (s : State) (q : QueueId) : Nat := Nat.max 1 (s.rd (QFX_QUOTA q))

/-- Pool crates in use by all queues: what each holds above its reservation. -/
def State.poolUsed (s : State) : Nat :=
  (finList 64).foldl (fun n q => n + ((s.qfx.at q).held - s.rd (QFX_RES q))) 0

/-- The sum of the reservations. -/
def State.resSum (s : State) : Nat := (finList 64).foldl (fun n q => n + s.rd (QFX_RES q)) 0

/-- Free pool crates, QFX_STAT.POOL (R251). -/
def State.pool (s : State) : Nat := 256 - s.resSum - s.poolUsed

/-- Crates a queue can take now, QFX_Qn_STAT.ROOM (R252), at most 255. -/
def State.room (s : State) (q : QueueId) : Nat :=
  let h := (s.qfx.at q).held
  Nat.min 255 (Nat.min (s.quota q - h) ((s.rd (QFX_RES q) - h) + s.pool))

/-- The crates `words` more words would add to a queue. -/
def Queue.need (q : Queue) (words : Nat) : Nat := crates q.rel (q.pw + words) - q.held

/-- Admission of a packet of `words` words (R252). -/
def State.admits (s : State) (q : QueueId) (words : Nat) : Bool :=
  let x := s.qfx.at q
  let n := x.need words
  let r := s.rd (QFX_RES q)
  decide (x.held + n ≤ s.quota q) && decide ((x.held + n - r) - (x.held - r) ≤ s.pool)

/-- A crate no queue holds. -/
def State.freeCrates (s : State) : List Nat :=
  (List.range 256).filter (fun c => !(finList 64).any (fun q => (s.qfx.at q).chain.contains c))

/-- `n` free crates join a queue's chain; which ones is left open (log entry 6). -/
def State.takeCrates (s : State) (q : QueueId) : Nat → State
  | 0 => s
  | n + 1 =>
    let fr := s.freeCrates
    let (i, s1) := s.choose (Nat.max 1 fr.length)
    (s1.qset q (fun x => { x with chain := x.chain ++ [fr.getD i 0] })).takeCrates q n

/-- The crate RAM address of word `w` of a queue: offset w mod 64 of chain crate ⌊w/64⌋ (the Model of chapter 8). -/
def Queue.wordAddr (x : Queue) (w : Nat) : Nat :=
  crateBase + 256 * x.chain.getD (w / 64 - x.rel / 64) 0 + 4 * (w % 64)

/-- The word at a position. -/
def State.qword (s : State) (q : QueueId) (w : Nat) : Word := s.getW ((s.qfx.at q).wordAddr w)

/-- The chain cut to the crates a queue still holds between two positions, those claimed included. -/
def Queue.trim (x : Queue) (rel pw : Nat) : Queue :=
  { x with rel := rel, pw := pw, chain := (x.chain.drop (rel / 64 - x.rel / 64)).take (crates rel (pw + x.left)) }

/-- All positions meet at PW: every crate returns (R256, R258). -/
def Queue.empty (x : Queue) : Queue :=
  { x with rel := x.pw, rd := x.pw, wr := x.pw, chain := [], ends := [], mark := none, flush := none, left := 0 }

/-- The packet in progress withdrawn (R249, R264, R267, R280): its words and crates go; a pending flush completes (R258). -/
def Queue.withdraw (x : Queue) : Queue :=
  let y := { x with left := 0 }.trim x.rel x.wr
  if y.flush.isSome then y.empty else y

/-- A packet is in progress. -/
def Queue.inPacket (x : Queue) : Bool := decide (x.left ≠ 0)

/-- What became of a header. -/
inductive Admit where
  | taken | waits | dropped
deriving DecidableEq, Repr

/-- A header is valid (R248). -/
def State.headerOk (s : State) (q : QueueId) (w : Word) : Bool :=
  decide (bits w.toNat 20 12 ≤ 4092) && decide (bits w.toNat 8 8 = s.rd (QFX_SRC_ID q))

/-- The full policy in force: DROP_NEW while the queue's port runs PULSE or PPS, fixed for Q48 to Q55 and Q63 (R253). -/
def State.dropNew (s : State) (q : QueueId) : Bool :=
  if q.val = 63 then true
  else if 48 ≤ q.val ∧ q.val < 56 then false
  else if q.val < 48 ∧ q.val % 2 = 0 then
    let fn := (s.port.at (finOf 24 (q.val / 2))).fn.code
    fn == 6 || fn == 10 || s.isSet (QFX_FULL q)
  else s.isSet (QFX_FULL q)

/-- A word joins the packet in progress. -/
def State.qappend (s : State) (q : QueueId) (w : Word) : State :=
  let x := s.qfx.at q
  (s.putW (x.wordAddr x.pw) w).qset q (fun x => { x with pw := x.pw + 1, left := x.left - 1, crc := crc32Run x.crc w.bytes })

/-- The write of a header at a packet boundary (R252, R253, R254, R260). -/
def State.pushHeader (s : State) (code : Nat) (q : QueueId) (w : Word) : Admit × State :=
  let x := s.qfx.at q
  let words := pktWords (bits w.toNat 20 12)
  if !s.headerOk q w then
    if x.desync then (.dropped, s)
    else (.dropped, ((s.qset q (fun x => { x with desync := true })).qlost (QFX_CNT_DESYNC q)).qerr QFX_ERR_HDR q)
  else if s.admits q words then
    let s1 := s.takeCrates q (x.need words)
    (.taken, (s1.qset q (fun x => { x with left := words, crc := crc32Init, desync := false, drop := 0 })).qappend q w)
  else
    let s1 := if s.quota q < ceilDiv words 64 then s.qerr QFX_ERR_BIG q else s
    let hw := code == 2 || code == 3
    if hw && !s.dropNew q then (.waits, s1)
    else
      let s2 := (s1.qlost (QFX_CNT_DROPS q)).qset q (fun x => { x with drop := words - 1 })
      (.dropped, if hw then s2 else s2.setb (QFX_STAT_NOROOM q))

/-- The write of a trailer (R249): WR becomes PW, or the packet is discarded whole; a pending flush completes (R258). -/
def State.pushTrailer (s : State) (q : QueueId) (w : Word) : State :=
  let x := s.qfx.at q
  if w.toNat = x.crc ^^^ 0xFFFFFFFF then
    (s.qappend q w).qset q (fun x =>
      let y := { x with wr := x.pw, ends := x.ends ++ [x.pw], left := 0 }
      if y.flush.isSome then y.empty else y)
  else (s.qset q Queue.withdraw).qerr QFX_ERR_PCRC q

/-- One word from the producer (R249, R253, R259, R260). -/
def State.pushWord (s : State) (code : Nat) (q : QueueId) (w : Word) : Admit × State :=
  let x := s.qfx.at q
  if x.drop ≠ 0 then (.dropped, s.qset q (fun x => { x with drop := x.drop - 1 }))
  else if x.left = 0 then s.pushHeader code q w
  else if x.left = 1 then (.taken, s.pushTrailer q w)
  else (.taken, s.qappend q w)

/-- The words of payload bytes, padded with 0x00 (R247). -/
def payWords : List Byte → List Word
  | [] => []
  | [a] => [Word.ofBytes [a]]
  | [a, b] => [Word.ofBytes [a, b]]
  | [a, b, c] => [Word.ofBytes [a, b, c]]
  | a :: b :: c :: d :: t => Word.ofBytes [a, b, c, d] :: payWords t

/-- A packet header word (Table 8.3). -/
def pktHeader (len flags src seq : Nat) : Word :=
  BitVec.ofNat 32 (2 ^ 20 * (len % 4096) + 2 ^ 16 * (flags % 16) + 256 * (src % 256) + seq % 256)

/-- The words of a whole packet, trailer included. -/
def pktOf (hdr : Word) (pay : List Byte) : List Word :=
  let ws := hdr :: payWords pay
  ws ++ [crc32c (ws.flatMap Word.bytes)]

/-- A producer of the part writes a whole packet: the header is admitted, waits or is dropped, and the rest follows it. -/
def State.pushPacket (s : State) (code : Nat) (q : QueueId) (flags seq : Nat) (pay : List Byte) : Admit × State :=
  let hdr := pktHeader pay.length flags (s.rd (QFX_SRC_ID q)) seq
  match s.pushHeader code q hdr with
  | (.taken, s1) => (.taken, ((pktOf hdr pay).drop 1).foldl (fun s w => (s.pushWord code q w).2) s1)
  | (.dropped, s1) => (.dropped, s1.qset q (fun x => { x with drop := 0 }))
  | (.waits, s1) => (.waits, s1)

/-- The consumer sees words: below WR, and no flush is pending (R255, R258). -/
def Queue.readable (x : Queue) : Bool := decide (x.rd < x.wr) && x.flush.isNone

/-- Complete packets from RD on, at most 255 (R257). -/
def Queue.pkts (x : Queue) : Nat :=
  if x.flush.isSome then 0
  else Nat.min 255 ((x.rel :: x.ends).dropLast.filter (fun b => decide (x.rd ≤ b))).length

/-- The packet boundaries of a queue, from REL on. -/
def Queue.bounds (x : Queue) : List Nat := x.rel :: x.ends

/-- The largest boundary at or below a position. -/
def Queue.boundBelow (x : Queue) (p : Nat) : Nat := (x.bounds.filter (fun b => decide (b ≤ p))).foldl Nat.max x.rel

/-- The trailer of the packet that ends at `e` matches its stored words (R250). -/
def State.pktGood (s : State) (q : QueueId) (e : Nat) : Bool :=
  let x := s.qfx.at q
  let b := x.boundBelow (e - 1)
  let ws := (List.range (e - 1 - b)).map (fun i => s.qword q (b + i))
  s.qword q (e - 1) == crc32c (ws.flatMap Word.bytes)

/-- A read of the word at RD (R255, R250). -/
def State.popWord (s : State) (q : QueueId) : Word × State :=
  let x := s.qfx.at q
  if !x.readable then (0, s.qerr QFX_ERR_UNDER q)
  else
    let s1 := s.qset q (fun x => { x with rd := x.rd + 1 })
    (s.qword q x.rd,
     if x.ends.contains (x.rd + 1) then s1.wr (QFX_STAT_CHK q) (b2n (s.pktGood q (x.rd + 1))) else s1)

/-- The payload bytes and header of the packet at RD, which is a packet boundary with a complete packet. -/
def State.headPacket (s : State) (q : QueueId) : Word × List Byte :=
  let x := s.qfx.at q
  let hdr := s.qword q x.rd
  let len := bits hdr.toNat 20 12
  (hdr, ((List.range (ceilDiv len 4)).flatMap (fun i => (s.qword q (x.rd + 1 + i)).bytes)).take len)

/-- RD moves past the packet at RD. -/
def State.passHead (s : State) (q : QueueId) : State :=
  s.qset q (fun x => { x with rd := x.rd + pktWords (bits (s.qword q x.rd).toNat 20 12) })

/-- A complete packet stands at RD. -/
def State.hasHead (s : State) (q : QueueId) : Bool := (s.qfx.at q).pkts != 0

/-- RELEASE (Table 8.5), by an allowed issuer: what it frees; none where nothing is to release. -/
def Queue.release (x : Queue) : Option Queue :=
  let b := x.boundBelow x.rd
  if x.rel < b then
    some { x.trim b x.pw with mark := none, ends := x.ends.filter (fun e => decide (b < e)) }
  else none

/-- The packet at the head is released. -/
def State.headRelease (s : State) (q : QueueId) : State :=
  let s1 := s.passHead q
  match (s1.qfx.at q).release with
  | some y => s1.qset q (fun _ => y)
  | none => s1

/-- FLUSH by an allowed issuer (R258, R261): at once at a boundary, otherwise pending. -/
def Queue.doFlush (x : Queue) : Queue :=
  if x.flush.isSome then x
  else if x.inPacket then { x with flush := some 0, mark := none }
  else x.empty

/-- The forced boundary of a flush that met its limit (R259). -/
def Queue.force (x : Queue) : Queue :=
  { x.empty with drop := x.left, desync := true }

/-- FLUSH_LIMIT (Table 8.7): 0 acts as 2. -/
def State.flushLimit (s : State) : Nat := if s.rd QFX_FLUSHLIM = 0 then 2 else s.rd QFX_FLUSHLIM

/-- The consumer and producer codes allowed for a queue (Table 8.2). -/
def ownerAllowed (q v : Nat) : Bool :=
  if q < 48 then (if q % 2 = 0 then v == 0 || v == 1 || v == 4 else v == 3)
  else if q < 54 then v == 0 || v == 1 || v == 4
  else if q = 54 then v == 4 else if q = 55 then v == 5 else v == 2
def prodAllowed (q v : Nat) : Bool :=
  if q < 48 then (if q % 2 = 0 then v == 3 else v == 0 || v == 1 || v == 4)
  else if q < 56 then v == 2 else if q < 62 then v == 0 || v == 1 || v == 4
  else if q = 62 then v == 4 else v == 5

/-- A source ID is fixed where the producer is fixed hardware (R248). -/
def srcAllowed (q v : Nat) : Bool :=
  if (q < 48 ∧ q % 2 = 0) ∨ (48 ≤ q ∧ q < 56) ∨ 62 ≤ q then v == qSrcDflt q else true

/-- FULL is fixed for Q48 to Q55 and Q63 (R253). -/
def fullAllowed (q v : Nat) : Bool :=
  if 48 ≤ q ∧ q < 56 then v == 0 else if q = 63 then v == 1 else true

/-- The configuration of every queue is one the fabric accepts (R262). -/
def State.qfxCfgOk (s : State) : Bool :=
  decide (s.resSum + s.poolUsed ≤ 256) &&
  (finList 64).all (fun q => ownerAllowed q.val (s.rd (QFX_OWNER q)) && prodAllowed q.val (s.rd (QFX_PROD q)) &&
    srcAllowed q.val (s.rd (QFX_SRC_ID q)) && fullAllowed q.val (s.rd (QFX_FULL q)))

/-- The effect of new owners on one queue (R264); a new producer owes no words of a packet of the old one. -/
def State.qfxOwners (old s : State) (q : QueueId) : State :=
  let s1 := if old.rd (QFX_OWNER q) ≠ s.rd (QFX_OWNER q) then s.qset q (fun x => { x with rd := x.rel, mark := none }) else s
  if old.rd (QFX_PROD q) ≠ s1.rd (QFX_PROD q) ∧ (s1.qfx.at q).inPacket then
    (s1.qset q Queue.withdraw).qlost (QFX_CNT_DESYNC q)
  else if old.rd (QFX_PROD q) ≠ s1.rd (QFX_PROD q) then s1.qset q (fun x => { x with drop := 0 })
  else s1

/-- At a tick boundary the fabric judges all pending changes together (R262): the state after them, or the state before with
CFGERR set. -/
def State.qfxCommit (old new : State) : State :=
  if new.qfxCfgOk then (finList 64).foldl (fun s q => old.qfxOwners s q) new else old.setb QFX_STAT_CFGERR

/-- A core that owns queues enters reset alone (R267). -/
def State.qfxCoreReset (s : State) (c : CpuId) : State :=
  (finList 64).foldl (fun s q =>
    let s1 := if s.rd (QFX_OWNER q) = c.val then s.qset q (fun x => { x with rd := x.rel, mark := none }) else s
    if s1.rd (QFX_PROD q) = c.val ∧ (s1.qfx.at q).inPacket then (s1.qset q Queue.withdraw).qlost (QFX_CNT_DESYNC q) else s1) s

/-- The queues whose interrupt a core sees (R257). -/
def State.qfxPend (s : State) (c : CpuId) : List QueueId :=
  (finList 64).filter (fun q => s.rd (QFX_OWNER q) == c.val && s.isSet (QFX_IEN q) && (s.qfx.at q).pkts != 0)

end Sys2Proof.Machine
end

