-- ==== Sys2Proof/Machine/Intr.lean ====
section
/-!
DEFINITION. Intr.lean: the local interrupt sources of a core, their levels, and what is pending (spec/10_cores.md,
R303 to R306).
-/
namespace Sys2Proof.Machine

/-- The doorbell of a slot in an agent's view (Table 1.13). -/
def State.belled (s : State) (a : Agent) (n : Fin 16) : Bool :=
  let x := s.hatch.at n
  x.st == .posted && x.last && x.dest == a

/-- The condition of a level source (Table 10.3). For 9 to 12 the completion that the block's own status shows is taken
(DEDUCED, log entry 37); 13 stays from a change of the timebase's state until the core reads TBS_STAT (DESIGN CHOICE, log
entry 38). -/
def State.levelOn (s : State) (c : CpuId) (src : Nat) : Bool :=
  match src with
  | 4 => s.isSet (HATCH_IEN c.agent) && (finList 16).any (s.belled c.agent)
  | 5 => !(s.qfxPend c).isEmpty
  | 6 => (finList 8).any (fun n => decide (4 ≤ s.rd (RLY_STAT_STATE n)) && s.isSet (RLY_STAT_IEN n) &&
      s.rd (RLY_STAT_OWNER n) == c.val)
  | 7 => (finList 24).any (fun p => s.isSet (PORT_GPIO_EDGA p) || s.isSet (PORT_GPIO_EDGB p))
  | 8 => (finList 3).any (fun k => s.isSet (WATCH_NOTE k))
  | 9 => s.rd (PKE_DSTAT_STATE c) == 3
  | 10 => s.rd (SYM_DSTAT_STATE c) == 3
  | 11 => decide (2 ≤ s.rd (STR_USTAT_STATE c)) || decide (2 ≤ s.rd (STR_SSTAT_STATE c))
  | 12 => s.isSet ARC_CFG_IEN && decide (2 ≤ s.rd (ARC_TSTAT_STATE c))
  | 13 => bitAt (s.rd (CPU_IPEND c)) 13
  | _ => false

/-- The event sources (Table 10.3). -/
def eventSrc (src : Nat) : Bool := decide (src ≤ 3) || src == 14

/-- A source is pending. -/
def State.srcPend (s : State) (c : CpuId) (src : Nat) : Bool :=
  if eventSrc src then bitAt (s.rd (CPU_IPEND c)) src else s.levelOn c src

/-- CPUn_IPEND. -/
def State.ipendWord (s : State) (c : CpuId) : Nat :=
  (List.range 16).foldl (fun n i => if s.srcPend c i then n + 2 ^ i else n) 0

/-- The level of a source. -/
def State.ilvl (s : State) (c : CpuId) (src : Nat) : Nat := s.rd (CPU_ILVL c (finOf 16 src))

/-- The pending source of highest level, the lowest number first; level 0 where none is pending at a level (R305). -/
def State.inext (s : State) (c : CpuId) : Nat × Nat :=
  (List.range 16).foldl (fun b i => if s.srcPend c i ∧ b.2 < s.ilvl c i then (i, s.ilvl c i) else b) (0, 0)

/-- The machine external interrupt is pending (R305). -/
def State.meip (s : State) (c : CpuId) : Bool := decide (s.rd (CPU_ITHR c) < (s.inext c).2)

/-- An enabled source is pending, whatever mstatus.MIE (R306). -/
def State.wakes (s : State) (c : CpuId) : Bool := (s.inext c).2 != 0

end Sys2Proof.Machine
end

