-- ==== Sys2Proof/Machine/Domains.lean ====
section
/-!
DEFINITION. Domains.lean: what the blocks do when a mode change, a LOCK, an entry to HOLD or a reset reaches them: Hatch slots
return, jobs are cancelled, engines end their work, sessions end, pulse counts move to the Cellar.
-/
namespace Sys2Proof.Machine

/-! ## The Hatch (R22, R29) -/

/-- The fixed sender of a slot (Table 1.4). -/
def hatchSender (n : Fin 16) : Agent :=
  if n.val < 6 then .con else if n.val < 8 then .care else if n.val < 12 then .cpu0 else .cpu1

/-- A core is out of reset, its clock runs (Table 10.5), and it does not wait in WFI (R306). -/
def State.coreRuns (s : State) (c : CpuId) : Bool :=
  (s.cpu.at c).run && s.sys.mode != .hold && (!(s.cpu.at c).wfi || s.wakes c)

/-- The 32-byte block of an address. -/
def block32 (a : Nat) : Nat := a / 32 * 32

/-- Bytes of a list overwritten from an index on. -/
def overlay (l : List Byte) (i : Nat) (b : List Byte) : List Byte := l.take i ++ b ++ l.drop (i + b.length)

/-- A core's SRAM store becomes visible (R293, R294, R296, R300): the other core's reservation and line buffer of the block
go, and both cores' instruction caches may be stale there. The core's own line buffer follows (DEDUCED, log entry 39). -/
def State.sramStore (s : State) (c : CpuId) (a : Nat) (b : List Byte) : State :=
  let blk := block32 a
  let s1 := s.putBytes a b
  { s1 with cpu := Tab.ofFn 2 (fun i =>
      let x := s1.cpu.at (finOf 2 i)
      let y := { x with stale := blk :: x.stale.filter (fun k => decide (k ≠ blk)) }
      if i = c.val then
        { y with
          line := y.line.map (fun l => if l.1 = blk then (blk, overlay l.2 (a - blk) b) else l)
          past := y.past.map (fun l => if l.1 = blk then (blk, overlay l.2 (a - blk) b) else l) }
      else
        { y with
          resv := if y.resv = some blk then none else y.resv
          line := match y.line with | some l => if l.1 = blk then none else some l | none => none
          past := y.past.filter (fun l => decide (l.1 ≠ blk)) }) }

/-- Stores that wait, made visible in order. -/
def State.sbApply (s : State) (c : CpuId) (l : List (Nat × List Byte)) : State :=
  l.foldl (fun s e => s.sramStore c e.1 e.2) s

/-- The store buffer drains (R296, R298). -/
def State.sbDrain (s : State) (c : CpuId) : State :=
  let s1 := s.sbApply c (s.cpu.at c).sb
  { s1 with cpu := s1.cpu.upd c (fun x => { x with sb := [] }) }

/-- A core that acts has left WFI. -/
def State.coreWake (s : State) (c : CpuId) : State := { s with cpu := s.cpu.upd c (fun x => { x with wfi := false }) }

/-- Loads that follow return nothing older (R297, R298): the line buffer is not used again. -/
def State.lineDrop (s : State) (c : CpuId) : State :=
  { s with cpu := s.cpu.upd c (fun x => { x with line := none, past := [] }) }

/-- A Larder, device, crate or shelf access of a core is issued: every earlier store is visible (R297). -/
def State.strongIssue (s : State) (c : CpuId) : State := ((s.coreWake c).sbDrain c).lineDrop c

/-- What a core commands at a block, while it runs. -/
def State.byCore (s : State) (c : CpuId) (f : State → State) : State := if s.coreRuns c then f (s.strongIssue c) else s

/-- An agent that can act. -/
def State.agentUp (s : State) : Agent → Bool
  | .con => s.con.started
  | .care => s.mainUp
  | .cpu0 => s.coreRuns 0
  | .cpu1 => s.coreRuns 1

/-- What an agent commands, while it can act. -/
def State.byAgent (s : State) (a : Agent) (f : State → State) : State :=
  match a.cpu with
  | some c => s.byCore c f
  | none => if s.agentUp a then f s else s

/-- An agent is held in reset (R29). -/
def State.inReset (s : State) : Agent → Bool
  | .con => !s.con.started
  | .care => !s.mainUp
  | .cpu0 => !(s.cpu.at 0).run
  | .cpu1 => !(s.cpu.at 1).run

/-- A slot changed. -/
def State.slot (s : State) (n : Fin 16) (f : HatchSlot → HatchSlot) : State := { s with hatch := s.hatch.upd n f }

/-- A slot returns to FREE. -/
def State.slotFree (s : State) (n : Fin 16) : State := s.slot n (fun x => { x with st := .free })

/-- Slots posted to an agent that is held in reset or restarted return to FREE, and their senders see it (R29). -/
def State.hatchTo (s : State) (a : Agent) : State :=
  (finList 16).foldl (fun s n =>
    let x := s.hatch.at n
    if x.dest = a ∧ (x.st = .posted ∨ x.st = .taken) then (s.slotFree n).setb (HATCH_DROPPED n) else s) s

/-- An agent is held in reset or restarted (R29): slots posted to it, and its own. -/
def State.hatchDrop (s : State) (a : Agent) : State :=
  (finList 16).foldl (fun s n => if hatchSender n = a then s.slotFree n else s) (s.hatchTo a)

/-! ## Replies that no PROBE count sees -/

/-- An error reply (R126): its code, name and detail. -/
def errLine (tag : Option Byte) (e : Nat) (detail : List Byte) : List Byte :=
  conBytes (txt "ER" ++ tagBytes tag ++ txt " E" ++ decN 2 e ++ [0x20] ++ errName e ++ detail)

/-- A request that CON waits on still stands: in a slot POSTED to the core or TAKEN by it, or in CON. -/
def State.reqOut (s : State) (c : CpuId) (seq : Byte) : Bool :=
  (finList 16).any (fun n =>
    let x := s.hatch.at n
    hatchSender n == .con && x.dest == c.agent && x.seq == seq && (x.st == .posted || x.st == .taken)) ||
  s.con.outbox.any (fun m => m.dest == c.agent && m.seq == seq && m.kind == 1)

/-- CON's wait for an applet of a core ends with E70 (R30). -/
def State.appletDrop (s : State) (c : CpuId) : State :=
  match s.con.busy with
  | .applet tag d seq =>
    if d = c then
      let s1 := s.conTx (errLine tag 70 [])
      { s1 with con := { s1.con with dead := seq :: s1.con.dead } }.replyEnd
    else s
  | _ => s

/-- A core enters reset: CON's wait ends with E70 where its request is dropped; a request that the core has given back is not, and
CON goes on waiting (R29, R30). -/
def State.appletLost (s : State) (c : CpuId) : State :=
  match s.con.busy with
  | .applet _ d seq =>
    if d = c ∧ s.reqOut c seq then
      { s with con := { s.con with outbox := s.con.outbox.filter (fun m => !(m.dest == c.agent && m.seq == seq && m.kind == 1)) } }.appletDrop c
    else s
  | _ => s

/-! ## Jobs -/

/-- W3.STATUS of a job entry. -/
def State.jobStatus (s : State) (j : JobId) (code : Nat) : State := s.wr (TICK_JOB_STATUS j) code

/-- The instance of an entry changed. -/
def State.setInst (s : State) (j : JobId) (i : Option JobInst) : State :=
  { s with tick := { s.tick with inst := s.tick.inst.put j i } }

/-- TICK_COREn shows no job; JOB and ARG then read 0 (DESIGN CHOICE, log entry 105). -/
def State.coreIdle (s : State) (c : CpuId) : State :=
  s.wrs [(TICK_CORE_JOB c, 0), (TICK_CORE_ACTIVE c, 0), (TICK_CORE_ABORT c, 0), (TICK_CORE_ARG c, 0)]

/-- Operations of a job end at their next landing point. -/
def State.engineJobEnd (s : State) (j : JobId) : State :=
  { s with eng := { s.eng with
      pke := s.eng.pke.map (fun o => if o.req = .job j then { o with ends := some (o.ends.getD 10) } else o)
      sym := s.eng.sym.map (fun o => if o.req = .job j then { o with ends := some (o.ends.getD 6) } else o) } }

/-- A running instance is aborted (Table 2.4) or cancelled (R74), with the status it ends with. A core's delivered job stays
outstanding until its TICK_DONE, unless the core enters reset; one that overrun has aborted before is cancelled like any other
(DESIGN CHOICE, log entry 106). -/
def State.jobAbort (s : State) (j : JobId) (status : Nat) (reset : Bool) : State :=
  match s.tick.inst.at j with
  | none => s
  | some i =>
    let s1 := s.jobStatus j status
    match i.owner with
    | .cpu c =>
      if reset then (s1.setInst j none).coreIdle c
      else if i.started then
        ((s1.setInst j (some { i with aborted := true, overdue := true })).setb (TICK_CORE_ABORT c)).ipend c 2
      else s1.setInst j none
    | _ => (s1.setInst j none).engineJobEnd j

/-- Every running job is cancelled without OVERRUN (Table 2.6). -/
def State.jobCancelAll (s : State) (reset : Bool) : State :=
  (finList 64).foldl (fun s j => s.jobAbort j 5 reset) s

/-! ## Engines -/

/-- A PKE operation writes its status (R376): W4 of a job's block, PKE_DSTAT of a direct command. -/
def State.pkeStatus (s : State) (o : PkeOp) (code vcode cmp : Nat) : State :=
  match o.req with
  | .direct c => s.wrs [(PKE_DSTAT_STATE c, 3), (PKE_DSTAT_CODE c, code), (PKE_DSTAT_VCODE c, vcode), (PKE_DSTAT_CMP c, cmp)]
  | .job _ => s.unitPut (o.blk + 16) (Word.bytes (BitVec.ofNat 32 (code + 256 * vcode + 65536 * cmp)))
  | .vault a =>
    { s with vlt := { s.vlt with gen := s.vlt.gen.filter (fun e => decide (e.1 ≠ a)) } }.wrs
      [(VLT_STAT_STATE a, 3), (VLT_STAT_CODE a, if code = 4 then vcode else if code = 8 then 13 else 5)]
  | .image => s

/-- A SYM operation writes its status: W7 of a job's block, SYM_DSTAT of a direct command. -/
def State.symStatus (s : State) (o : SymOp) (code vcode : Nat) : State :=
  match o.req with
  | .direct c => s.wrs [(SYM_DSTAT_STATE c, 3), (SYM_DSTAT_CODE c, code), (SYM_DSTAT_VCODE c, vcode)]
  | .job _ => s.unitPut (o.blk + 28) (Word.bytes (BitVec.ofNat 32 (code + 256 * vcode)))
  | _ => s

/-- Every operation of both engines ends at once with the given codes, and every context is zeroized (R397, R398, R416). -/
def State.enginesStop (s : State) (pcode scode : Nat) : State :=
  let s1 := s.eng.pke.foldl (fun s o => s.pkeStatus o pcode 0 0) s
  let s2 := s1.eng.sym.foldl (fun s o => s.symStatus o scode 0) s1
  { s2 with eng := { s2.eng with pke := [], sym := [], ctx := Tab.const 8 none, sealed := Tab.const 112 0, work := [] } }

/-- Internal requests and direct commands end at their next landing point, and contexts are zeroized (R397, R416). -/
def State.enginesEnd (s : State) (pcode scode : Nat) : State :=
  { s with eng := { s.eng with
      pke := s.eng.pke.map (fun o => { o with ends := some (o.ends.getD pcode), ctx := none })
      sealed := Tab.const 112 0
      work := []
      sym := s.eng.sym.map (fun o => { o with ends := some (o.ends.getD scode) })
      ctx := Tab.const 8 none } }

/-- The public bank reads 0 (R398). -/
def State.shelvesClear (s : State) : State := s.memClear shelfBase (shelfBase + 0x4000)

/-! ## Relay sessions (R280, R281, R284) -/

/-- What the session's registers name. -/
def State.rlyRegs (s : State) (n : Fin 8) : RlyBind :=
  { srcK := s.rd (RLY_SRC_KIND n), srcQ := finOf 64 (s.rd (RLY_SRC_Q n)), sadr := s.rd (RLY_SADR n), len := s.rd (RLY_LEN n)
    chk := s.rd (RLY_SRCCHK n), dstK := s.rd (RLY_DST_KIND n), dstQ := finOf 64 (s.rd (RLY_DST_Q n))
    flags := s.rd (RLY_DST_FLAGS n), seq := s.rd (RLY_DST_SEQ n), txn := finOf 16 (s.rd (RLY_DST_TXN n))
    dadr := s.rd (RLY_DADR n), keyid := s.rd (RLY_KEY n) }

/-- What the session binds: what its registers named at OPEN, until FREE (R273). -/
def State.rlyB (s : State) (n : Fin 8) : RlyBind := (s.rly.at n).bound.getD (s.rlyRegs n)

def State.rlySrcK (s : State) (n : Fin 8) : Nat := (s.rlyB n).srcK
def State.rlyDstK (s : State) (n : Fin 8) : Nat := (s.rlyB n).dstK
def State.rlySrcQ (s : State) (n : Fin 8) : QueueId := (s.rlyB n).srcQ
def State.rlyDstQ (s : State) (n : Fin 8) : QueueId := (s.rlyB n).dstQ
def State.rlyTxn (s : State) (n : Fin 8) : Fin 16 := (s.rlyB n).txn
def State.rlySt (s : State) (n : Fin 8) : Nat := s.rd (RLY_STAT_STATE n)

/-- The session's own state changed. -/
def State.rlySet (s : State) (n : Fin 8) (f : RlySess → RlySess) : State := { s with rly := s.rly.upd n f }

/-- What an unsealed destination leaves behind (R280): the packet in progress is withdrawn, the transaction is void. -/
def State.rlyUndo (s : State) (n : Fin 8) : State :=
  match s.rlyDstK n with
  | 1 =>
    let q := s.rlyDstQ n
    let l := (s.rly.at n).left
    if l ≠ 0 ∧ (s.qfx.at q).left = l then s.qset q Queue.withdraw
    else if l ≠ 0 ∧ (s.qfx.at q).drop = l then s.qset q (fun x => { x with drop := 0 })
    else s
  | 2 =>
    if s.rlySt n ≤ 1 then s
    else { s with nv := { s.nv with txn := s.nv.txn.upd (s.rlyTxn n) (fun x => x.map (fun t => { t with void := true })) } }
  | _ => s

/-- A session ends without a seal: the destination is invalid, the source is kept. -/
def State.rlyFail (s : State) (n : Fin 8) (result : Nat) : State :=
  s.wrs [(RLY_STAT_STATE n, 5), (RLY_STAT_RESULT n, result), (RLY_DSTCHK n, 0), (RLY_ERR_SESS, 1)]

/-- A session ends with a result other than SEALED; a packet that it had begun to read stays at the head of its source queue,
unless that was flushed. -/
def State.rlyEnd (s : State) (n : Fin 8) (result : Nat) : State :=
  let kept := if s.rlySrcK n = 1 ∧ 2 ≤ s.rlySt n ∧ result ≠ 8 then some (s.rly.at n).rd else none
  ((s.rlyUndo n).rlyFail n result).rlySet n (fun x => { bound := x.bound, failed := kept, orphan := x.orphan })

/-- The sessions of a core end with ABORTED, and belong to no core from then on (R272, R284). -/
def State.rlyCoreReset (s : State) (c : CpuId) : State :=
  (finList 8).foldl (fun s n =>
    let st := s.rlySt n
    if st = 0 ∨ s.rd (RLY_STAT_OWNER n) ≠ c.val then s
    else ((if st ≤ 3 then s.rlyEnd n 6 else s).rlySet n (fun x => { x with orphan := true }))) s

/-- A flush of a queue: a session that moves a packet from it or to it ends FLUSHED (R281, the corner of chapter 9); a session
whose sealed packet it discards shows DFLUSH. -/
def State.flushQueue (s : State) (q : QueueId) : State :=
  let x := s.qfx.at q
  let s1 := (finList 8).foldl (fun s n =>
    if s.rlySt n = 2 ∧ ((s.rlySrcK n = 1 ∧ s.rlySrcQ n = q) ∨ (s.rlyDstK n = 1 ∧ s.rlyDstQ n = q)) then s.rlyEnd n 8
    else match (s.rly.at n).done with
      | some e =>
        if s.rlySt n = 4 ∧ s.rlyDstK n = 1 ∧ s.rlyDstQ n = q ∧ x.ends.contains e then s.setb (RLY_STAT_DFLUSH n) else s
      | none => s) s
  s1.qset q Queue.doFlush

/-- A lane failure (R271). -/
def State.laneFail (s : State) (n : Fin 6) : State := (s.bump (RLY_LANE n)).setb RLY_ERR_LANE

/-! ## A core enters reset without a reset of the main domain -/

/-- The registers of Table 10.6 of a core take their reset values. -/
def State.csrReset (s : State) (c : CpuId) : State :=
  s.wrs ((finList 16).map (fun k => (CPU_ILVL c k, 0)) ++
    [(CPU_IPEND c, 0), (CPU_ITHR c, 0), (CPU_WDOG_PER c, 1000), (CPU_ECC_CORR c, 0), (CPU_WDCNT c, 0)])

/-- Everything a core's reset does to the blocks it uses (R29, R30, R74, R267, R284, R453); an update of its own that waits in the
Store Room is gone (log entry 84). -/
def State.coreReset (s : State) (c : CpuId) : State :=
  let s0 := ((((s.appletLost c).hatchDrop c.agent).qfxCoreReset c).rlyCoreReset c).csrReset c
  let s1 := if s0.str.wait.any (fun u => decide (u.req = .cpu c)) then s0.wr (STR_USTAT_STATE c) 0 else s0
  { s1 with
    cpu := s1.cpu.put c {}
    nv := { s1.nv with txn := Tab.ofFn 16 (fun i =>
      (s1.nv.txn.at (finOf 16 i)).map (fun t => if t.owner = c then { t with void := true } else t)) }
    str := { s1.str with wait := s1.str.wait.filter (fun u => decide (u.req ≠ .cpu c)) } }

/-- Both cores: what is posted to either is dropped before either's own slots return. -/
def State.coresReset (s : State) : State :=
  (((((s.appletLost 0).appletLost 1).hatchTo .cpu0).hatchTo .cpu1).coreReset 0).coreReset 1

/-! ## Console sessions (R78, R138, R142, R171, R178) -/

/-- An IMAGE record (Table 18.6): event, failed check; the rest from the load. -/
def State.imageRec (s : State) (ev : Nat) (kind : ImgKind) (slot : Fin 2) (check : Nat) (ver len src : Nat) : State :=
  s.attic 6 ([BitVec.ofNat 8 ev, BitVec.ofNat 8 kind.code, BitVec.ofNat 8 slot.val, BitVec.ofNat 8 check] ++
    leBytes 4 ver ++ leBytes 4 len ++ [BitVec.ofNat 8 src])

/-- An open load is abandoned (R178). -/
def State.loadAbandon (s : State) : State :=
  match s.load with
  | none => s
  | some l => { s with load := none }.imageRec 5 l.kind l.slot 0 0 l.len (b2n l.h6)

/-- The session ends with a reason, "" for LOGOUT: what depended on it is cancelled, and a session that entered WORKSHOP or
INSPECT takes the part back to SERVICE at the next boundary. -/
def State.sessionEnd (s : State) (reason : String) : State :=
  match s.con.session with
  | none => s
  | some x =>
    let s1 := { s with con := { s.con with session := none, held := none, stage := none } }
    let s2 := match s1.load with
      | some l => if l.h6 then s1 else s1.loadAbandon
      | none => s1
    let back := x.entered && (s2.sys.mode == .workshop || s2.sys.mode == .inspect)
    let busy := match s2.con.busy with
      | .commit tag (.modeChange m) .waiting => .commit tag (.modeChange m) (.refused 20 [])
      | b => b
    let s3 := if back then
        { s2 with sys := { s2.sys with pend := some { dest := .service, cause := 5 } }, con := { s2.con with busy := busy } }
      else s2
    if reason = "" then s3 else s3.notice (txt "!SESSION END" ++ fld "reason" (txt reason))

/-- What a mode change does to the console; `own` when the session's own MODE verb made it. -/
def State.conModeChange (s : State) (own : Bool) : State :=
  let s1 := { s with con := { s.con with held := none, stage := none } }
  let s2 := s1.loadAbandon
  if own then s2 else s2.sessionEnd "MODE"

/-- A mode change takes effect (R77, R34, R127): MODE record, notice, and the cores' interrupt. -/
def State.modeEnter (s : State) (dest : Mode) (cause info : Nat) (own : Bool) : State :=
  let frm := s.sys.mode
  let level := match s.con.session with | some x => x.level | none => 0
  let probe := if frm = .quarantine ∨ frm = .erased ∨ frm = .retired then [] else s.con.probe
  let s1 := { s with sys := { s.sys with mode := dest, prev := frm }, con := { s.con with probe := probe } }
  let s2 := (s1.modeRec frm.code dest.code cause info level).conModeChange own
  (s2.ipendAll 3).notice (txt "!MODE" ++ fld "from" frm.name ++ fld "to" dest.name)

/-! ## Pulse counts on the way to a reset (R552) -/

/-- The counter a PULSE port adds to (R214): 0 to 7 bind none. -/
def State.pulseCtr (s : State) (p : PortId) : Option CtrId :=
  let c := bits (s.rd (PORT_PAR p 0)) 8 6
  if (s.port.at p).fn = .pulse ∧ 8 ≤ c then some (finOf 64 c) else none

/-- An amount joins a counter's pending amount. -/
def pulseJoin (l : List (Nat × Nat)) (k n : Nat) : List (Nat × Nat) :=
  if n = 0 then l else lkPut l k (lkGet 0 l k + n)

/-- Every count not yet added moves to the Cellar: the frame in progress, and what R215 accumulates. -/
def State.pulsesToCellar (s : State) : List (Nat × Nat) :=
  (finList 24).foldl (fun l p =>
    let l1 := (s.port.at p).accs.foldl (fun l e => pulseJoin l e.1.val e.2) l
    match s.pulseCtr p with
    | none => l1
    | some c => pulseJoin l1 c.val (s.port.at p).cntA) s.cel.pulses

end Sys2Proof.Machine
end

