-- ==== Sys2Proof/Machine/Slots.lean ====
section
/-!
DEFINITION. Slots.lean: the bodies of Hatch slots, posting, the messages that CON and the Caretaker send (spec/01_planes.md, R22 to
R29), and the answer to a mode change that was asked for (R35, R36).
-/
namespace Sys2Proof.Machine

/-! ## Slot bodies -/

/-- The 64 bytes of a slot (Table 1.5). -/
def HatchSlot.bytes (x : HatchSlot) : List Byte := (finList 16).flatMap (fun k => (x.body.at k).bytes)

/-- Byte `i` of a slot. -/
def HatchSlot.byte (x : HatchSlot) (i : Nat) : Byte := x.bytes.getD i 0

/-- ROUTE, LEN, SEQ and payload of a body. -/
def HatchSlot.route (x : HatchSlot) : Nat := (x.byte 1).toNat
def HatchSlot.len (x : HatchSlot) : Nat := (x.byte 2).toNat
def HatchSlot.payload (x : HatchSlot) : List Byte := (x.bytes.drop 4).take (Nat.min 56 x.len)

/-- The trailer of R23 matches, and LEN is one the part accepts (Table 1.5). -/
def HatchSlot.ok (x : HatchSlot) : Bool :=
  decide (x.len ≤ 56) && x.body.at 15 == crc32c (x.bytes.take 60)

/-- A body written out: kind, route, length, number and payload, with its trailer. -/
def bodyOf (kind : Byte) (dest : Agent) (frag : Nat) (last : Bool) (seq : Byte) (pay : List Byte) : Tab 16 Word :=
  let b := [kind, BitVec.ofNat 8 (dest.code + 4 * frag + 32 * b2n last), BitVec.ofNat 8 pay.length, seq] ++ pay
  let l := b ++ List.replicate (60 - b.length) 0
  let full := l ++ (crc32c l).bytes
  Tab.ofFn 16 (fun k => Word.ofBytes (full.drop (4 * k)))

/-! ## Posting -/

/-- A slot that its sender has rung becomes POSTED, or returns to FREE with DROPPED where its receiver is in reset (R29). -/
def State.post (s : State) (n : Fin 16) : State :=
  let x := s.hatch.at n
  let dest := Agent.ofCode (bits x.route 0 2)
  let s1 := s.slot n (fun x => { x with
    st := .posted, dest := dest, seq := x.byte 3, frag := bits x.route 2 3, last := bitAt x.route 5 })
  if s.inReset dest then (s1.slotFree n).setb (HATCH_DROPPED n) else s1

/-- The FREE slots an agent sends from. -/
def State.freeSlots (s : State) (a : Agent) : List (Fin 16) :=
  (finList 16).filter (fun n => hatchSender n == a && (s.hatch.at n).st == .free)

/-- Payload bytes in fragments of 56; an empty payload is one fragment. -/
def fragsOf : Nat → List Byte → List (List Byte)
  | 0, _ => []
  | f + 1, l => if l.length ≤ 56 then [l] else l.take 56 :: fragsOf f (l.drop 56)

/-- The fragments of a message enter the slots given, in order. -/
def State.sendFrags (s : State) (m : HatchMsg) (k : Nat) : List (List Byte) → List (Fin 16) → State
  | p :: ps, n :: ns =>
    let s1 := s.slot n (fun x => { x with body := bodyOf m.kind m.dest k ps.isEmpty m.seq p })
    (s1.post n).sendFrags m (k + 1) ps ns
  | _, _ => s

/-- CON sends the messages that wait, as far as its slots allow, in order. -/
def State.conFlushFuel : Nat → State → State
  | 0, s => s
  | f + 1, s =>
    match s.con.outbox with
    | [] => s
    | m :: t =>
      let fr := fragsOf 6 m.pay
      let sl := s.freeSlots .con
      if fr.length ≤ sl.length then
        conFlushFuel f ({ s with con := { s.con with outbox := t } }.sendFrags m 0 fr sl)
      else s

def State.conFlush (s : State) : State := conFlushFuel (s.con.outbox.length) s

/-- CON sends a message (it waits in CON while CON's slots are taken). -/
def State.conSend (s : State) (dest : Agent) (kind seq : Byte) (pay : List Byte) : State :=
  { s with con := { s.con with outbox := s.con.outbox ++ [({ dest := dest, kind := kind, seq := seq, pay := pay } : HatchMsg)] } }.conFlush

/-- The Caretaker's CARE_INFO message (R512): to the core TELE_CFG.INFOTO names, dropped where both its slots are busy. -/
def State.careInfo (s : State) (pay : List Byte) : State :=
  let t := s.rd TELE_CFG_INFOTO
  if t < 2 then s
  else match s.freeSlots .care with
    | [] => s.bump CARE_CNT_INFODROP
    | n :: _ =>
      let m : HatchMsg := ⟨Agent.ofCode t, 7, s.care.seq, pay⟩
      { s with care := { s.care with seq := s.care.seq + 1 } }.sendFrags m 0 [pay] [n]

/-! ## Mode changes that wait (R35, R36) -/

/-- A pending mode change is discarded (R36): a MODE verb that waits for it is refused. -/
def State.pendDrop (s : State) : State :=
  let busy := match s.con.busy with
    | .commit tag (.modeChange m) .waiting => .commit tag (.modeChange m) (.refused 20 [])
    | b => b
  { s with sys := { s.sys with pend := none }, con := { s.con with busy := busy } }

/-- A core that waits for MODE_ACK gets it (R35): its status and the mode in force. -/
def State.modeAck (s : State) (p : PendMode) (status : Nat) : State :=
  match p.core with
  | some c => s.conSend c.agent 6 p.seq [BitVec.ofNat 8 status, BitVec.ofNat 8 s.sys.mode.code]
  | none => s

/-- A pending change is discarded (R36), its askers answered. -/
def State.pendDiscard (s : State) : State :=
  match s.sys.pend with
  | some p => s.pendDrop.modeAck p 20
  | none => s

end Sys2Proof.Machine
end

