-- ==== Sys2Proof/Machine/Watch.lean ====
section
/-!
DEFINITION. Watch.lean: the tamper log, what an onset does (spec/17_watch.md), the responses LOCK, ERASE and RESET, and the
start of a reset (spec/03_modes.md, Table 3.7).
-/
namespace Sys2Proof.Machine

/-! ## The tamper log (R498, R499) -/

/-- Bytes 0 to 13 of an entry (Table 17.7). -/
def TlogEntry.body (e : TlogEntry) : List Byte :=
  e.utc.bytes ++ leBytes 2 e.frac.toNat ++ [e.src, e.det, BitVec.ofNat 8 (e.acted.code + 16 * e.cfg.toNat),
    BitVec.ofNat 8 (b2n e.unk + 2 * b2n e.cellar + 4 * b2n e.degraded + 8 * b2n e.escalated), e.rel, BitVec.ofNat 8 e.rep] ++
    leBytes 2 e.seq

/-- The 16 bytes of an entry. -/
def TlogEntry.bytes (e : TlogEntry) : List Byte := e.body ++ leBytes 2 (crc16 e.body)

/-- A new entry; the oldest of 65 is overwritten, and counted in LOST where it had not been copied. -/
def State.tlogPush (s : State) (e : TlogEntry) : State :=
  let s1 := if s.cel.tlog.length = 64 ∧ 64 ≤ s.rd CEL_TLCOPY_PEND then s.bump CEL_TLOG_LOST else s
  { s1 with cel := { s1.cel with
      tlog := (e :: s1.cel.tlog).take 64
      thead := if s1.cel.tlog.isEmpty then 0 else s1.cel.thead + 1
      tseq := (s1.cel.tseq + 1) % 65536 } }

/-- The entry goes to the Attic and to CTR1 now (main modes). -/
def State.tlogCopy (s : State) (e : TlogEntry) : State :=
  ((s.attic 2 (1 :: e.body)).ctrAuto 1 1).wr CEL_TLCOPY_COPIED e.seq

/-- An entry that has still to be copied at RISE step 12. -/
def State.tlogLater (s : State) : State := s.bump CEL_TLCOPY_PEND

/-! ## Onsets -/

/-- An onset: the source, DET and REL. -/
structure Onset where
  src : Nat
  det : Nat := 8
  rel : Nat := 0xFF
deriving DecidableEq, Repr

/-- The higher of two responses (R33). -/
def Resp.max (a b : Resp) : Resp := if a.code < b.code then b else a

/-- The response a source carries (R485, R490, R494): from RISE step 2 to step 12 at least its floor; the Cellar's copy while
the Cellar watches. -/
def State.respOf (s : State) (n : SrcId) : Resp :=
  let floor := Resp.ofCode (s.rd (WATCH_FLOOR n))
  if s.cellarWatch then (Resp.ofCode (s.cel.src.at n).resp.toNat).max floor
  else if s.sys.mode = .rise then (Resp.ofCode (s.rd (WATCH_RESP n))).max floor
  else Resp.ofCode (s.rd (WATCH_RESP n))

/-- What a response is reduced to (Table 17.5). -/
def Resp.reduce (m : Mode) (cellar : Bool) (r : Resp) : Resp :=
  if cellar then
    match r with | .none => .none | .lock => .lock | .erase => .erase | _ => .log
  else match m, r with
    | .foundry, .hold => .notify
    | .foundry, .lock => .log
    | .foundry, .erase => .log
    | .quarantine, .hold => .notify
    | .quarantine, .lock => .notify
    | .erased, .hold => .notify
    | .erased, .lock => .notify
    | .erased, .erase => .notify
    | .retired, .hold => .notify
    | .retired, .lock => .notify
    | .retired, .erase => .notify
    | _, r => r

/-- Escalation (R486): the response, whether it was raised, and the onsets that go on counting. -/
def State.escalate (s : State) (n : SrcId) (r : Resp) : Resp × Bool × List Nat :=
  let escn := s.rd (WATCH_ESCN n)
  let win := Nat.max 1 (s.rd (WATCH_ESCWIN n))
  let hist := ((s.watch.src.at n).hist.filter (fun f => decide (s.tick.frame < f + win))) ++ [s.tick.frame]
  if escn = 0 then (r, false, [])
  else if escn ≤ hist.length then (r.max (Resp.ofCode (s.rd (WATCH_ESCRESP n))), true, [])
  else (r, false, hist)

/-- The WATCH_NOTE bit of a source (Table 17.8). -/
def State.noteBit (s : State) (src : Nat) : State :=
  let put (k : Fin 3) (b : Nat) : State := s.wr (WATCH_NOTE k) (s.rd (WATCH_NOTE k) ||| 2 ^ b)
  if src < 0x20 then put 0 src else if src < 0x28 then put 1 (src - 0x20) else put 2 (src - 0x40)

/-- The !TAMPER notice (Table 4.4). -/
def State.tamperNote (s : State) (src : Nat) (r : Resp) : State :=
  s.notice (txt "!TAMPER" ++ fld "src" (txt "0x" ++ hexN 2 src) ++ fld "name" (srcName src) ++ fld "resp" r.name)

/-- The change to the latest entry of a source when a further onset merges into it (R485). -/
def repUp (src : Nat) : List TlogEntry → List TlogEntry
  | [] => []
  | e :: t => if e.src.toNat = src then { e with rep := Nat.min 255 (e.rep + 1) } :: t else e :: repUp src t

/-- What an onset of NOTIFY or higher shows, and its HOLD cause; a RESET or ERASE loses notice and interrupt (Table 17.4). -/
def State.showOnset (s : State) (src : Nat) (acted : Resp) : State :=
  let s1 := if acted = .hold ∧ !s.sys.holdSrc.contains src then
      { s with sys := { s.sys with holdSrc := s.sys.holdSrc ++ [src] } } else s
  match acted with
  | .notify | .hold | .lock => (s1.noteBit src).tamperNote src acted
  | _ => s1

/-- One onset: count, escalation, reduction, entry or merge, Attic, CTR1, note and notice. Answers the response that acts. -/
def State.onset1 (s : State) (o : Onset) : Resp × State :=
  let n : SrcId := finOf 0x58 o.src
  let cellar := s.cellarWatch
  let cfg0 := s.respOf n
  let (cfg, esc, hist) := if cellar then (cfg0, false, []) else s.escalate n cfg0
  let acted := cfg.reduce s.sys.mode cellar
  let w := s.watch.src.at n
  let before := s.rd (WATCH_ST_ACTED n)
  let merged := !cellar && s.isSet TICK_STAT_RUN && w.entryAt == some s.tick.frame && acted != .none
  let s1 := if cellar then s else
    let s2 := (s.bump (WATCH_ST_COUNT n)).wr (WATCH_ST_ACTED n) (if merged then Nat.max before acted.code else acted.code)
    let w1 : WSrc := { w with hist := hist, entryAt := if acted = .none then w.entryAt else some s.tick.frame }
    { s2 with
      watch := { s2.watch with src := s2.watch.src.put n w1 }
      care := { s2.care with period := { s2.care.period with
        onsets := s2.care.period.onsets + 1
        status := if o.src = 0x22 then s2.care.period.status ||| 8 else s2.care.period.status } } }
  if acted = .none then (.none, s1)
  else if merged then
    let s2 := { s1 with cel := { s1.cel with tlog := repUp o.src s1.cel.tlog } }
    if before < acted.code then (acted, s2.showOnset o.src acted) else (.none, s2)
  else
    let (utc, frac) := s1.stamp
    let e : TlogEntry := {
      utc := utc, frac := frac, src := BitVec.ofNat 8 o.src, det := BitVec.ofNat 8 o.det, acted := acted,
      cfg := BitVec.ofNat 3 cfg.code, unk := s1.timeUnk, cellar := cellar, degraded := decide (acted.code < cfg.code),
      escalated := esc, rel := BitVec.ofNat 8 o.rel, rep := 0, seq := s1.cel.tseq }
    let s2 := s1.tlogPush e
    if cellar ∨ acted = .reset ∨ acted = .erase then (acted, s2.tlogLater)
    else (acted, (s2.tlogCopy e).showOnset o.src acted)

/-! ## Vault entries -/

/-- Header bytes 0 to 11 (Table 11.2). -/
def VEntry.head (e : VEntry) : List Byte :=
  e.keyid.bytes ++ [e.role, e.type] ++ leBytes 2 e.use.toNat ++ leBytes 2 e.gen.toNat ++
    [BitVec.ofNat 8 (e.st.toNat + 4 * b2n e.bad), e.pair]

/-- The check that HCHK holds. -/
def VEntry.check (e : VEntry) : Word := crc32c (e.head ++ e.value)

/-- The entry with its check. -/
def VEntry.seal (e : VEntry) : VEntry := { e with hchk := e.check }

/-- The 128 bytes of an entry, unmasked. -/
def VEntry.bytes (e : VEntry) : List Byte := e.head ++ e.hchk.bytes ++ e.value

/-- An entry from its 128 bytes, with a mask. -/
def VEntry.ofBytes (l : List Byte) (mask : List Word) : VEntry :=
  let b (i : Nat) : Byte := l.getD i 0
  { keyid := Word.ofBytes l, role := b 4, type := b 5, use := BitVec.ofNat 16 (leNat ((l.drop 6).take 2)),
    gen := BitVec.ofNat 16 (leNat ((l.drop 8).take 2)), st := BitVec.ofNat 2 (b 10).toNat, bad := (b 10).getLsbD 2,
    pair := b 11, hchk := Word.ofBytes (l.drop 12), value := ((l.drop 16) ++ List.replicate 112 0).take 112, mask := mask }

/-- Bytes combined by exclusive or. -/
def xorBytes (a b : List Byte) : List Byte := List.zipWith (· ^^^ ·) a b

/-- A reset or a loss of power meets a re-mask pass (R337): between two entries, or within the treatment of one, before, between
or after the writes of its two planes. What the planes then hold is in the swing buffer whole. -/
def State.remaskTear (s : State) : State :=
  let i := s.rd VLT_REMASK_PTR
  let e := spGet {} s.vlt.ent i
  if !s.vlt.pass ∨ e.st = 0 ∨ s.vlt.swing.isSome then s
  else
    let (k, s1) := s.choose 4
    let (m, s2) := s1.drbgWords 32
    let torn := VEntry.ofBytes (xorBytes e.bytes (xorBytes (e.mask.flatMap Word.bytes) (m.flatMap Word.bytes))) m
    let held (x : VEntry) : State := { s2 with vlt := { s2.vlt with ent := spPut {} s2.vlt.ent i x, swing := some (i, e) } }
    if k = 0 then s1 else if k = 1 then held e else if k = 2 then held torn else held { e with mask := m }

/-! ## Erasure (R342) -/

/-- Both planes, the swing buffer and every staging buffer are zeroized, the generation table is kept, ERASEPEND is set. -/
def State.eraseVault (s : State) : State :=
  { s.setb CEL_FLAGS_ERASEPEND with
    vlt := { s.vlt with ent := [], swing := none, pass := false, dirty := [], wr := Tab.const 4 {}, jobs := [], gen := [],
                        waiting := [] }
    con := { s.con with stage := none } }

/-! ## The start of a reset (Table 3.7, R9, R29, R107, R283, R489, R552) -/

/-- The register fields that a reset with the Cellar intact leaves alone ("—" and "stored", Table 0.3). -/
def keepFields : List Field :=
  [VLT_CFG_REMASK_PER, VLT_REMASK_PTR, VLT_REMASK_PASSES, STR_CFG_H, STR_SIZE0_K, STR_SIZE0_C, STR_SIZE1_A0, STR_SIZE1_A1,
   STR_MOVE_PTR, ARC_CFG_ERAHEAD, ARC_STAT_WORN, WATCH_THR0_VBATTH, WATCH_THR0_TLO, WATCH_THR0_THI, WATCH_THR0_SLEW,
   WATCH_THR1_FIELDTH, WATCH_THR1_LIGHTSENS, CEL_FLAGS_LOCKED, CEL_FLAGS_ERASEPEND, CEL_FLAGS_TIMEUNK, CEL_FLAGS_LIFE,
   CEL_CFG_T_CS, CEL_TLOG_LOST, CEL_TLCOPY_COPIED, CEL_TLCOPY_PEND, CEL_LOCKSRC, CEL_RSTCFG_T_STUCK, CEL_RSTHOLD_ACTIVE,
   CEL_RSTHOLD_STUCK, CEL_RSTSTART_UTC, CEL_RSTDUR_MS, ATTIC_HEAD, ATTIC_TAIL, ATTIC_SEQ] ++
  (finList 8).flatMap (fun k => [ARC_AREA_START k, ARC_AREA_SECTORS k, ARC_AREA_POLICY k, ARC_AREA_EN k]) ++
  (finList 0x58).map WATCH_FLOOR

/-- Those of them that the Cellar holds, which a Cellar loss takes to their defaults. -/
def cellarFields : List Field := keepFields.filter (fun f => f.keep == .cellar)

/-- The listed registers with a key among those of `l`. -/
def regsOf (l : List Field) (regs : List (Nat × Word)) : List (Nat × Word) :=
  let keys := l.map Field.key
  regs.filter (fun e => keys.contains e.1)

/-- The sources tripped now: filtered ones and ports. -/
def State.trippedNow (s : State) : List Nat :=
  ((finList 0x58).filter (fun n => (s.watch.src.at n).trip || (s.cellarWatch && (s.cel.src.at n).trip))).map (fun n => n.val)

/-- The sampled sources that the Cellar watches too (Table 17.2). -/
def cellarLive (n : Nat) : Bool := [0x04, 0x0A, 0x10, 0x11, 0x12, 0x14, 0x15, 0x16].contains n

/-- The Cellar takes up the watch: it continues the trips of the sources it samples (R483; DEDUCED, log entry 36). -/
def State.cellarTrips (s : State) : Tab 0x58 CelSrc :=
  Tab.ofFn 0x58 (fun i =>
    let n : SrcId := finOf 0x58 i
    let c := s.cel.src.at n
    let keep : CelSrc := { resp := c.resp, cfilt := c.cfilt }
    if cellarLive i || srcPort i then { keep with trip := (s.watch.src.at n).trip } else keep)

/-- UTC less the count where the count is 0: the RTC, or 0 while time is unknown (Table 16.6, R468). -/
def State.rtcOff (s : State) : Int := if s.timeUnk then 0 else ((1000000000 * s.cel.rtc / 2 ^ 20 : Nat) : Int)

/-- The main domain goes into reset: its state takes reset values, pending shadow writes and the mode change are lost, what
Table 3.7 keeps stays, SESSION entries clear, and the pulse counts move to the Cellar. -/
def State.mainReset (s : State) : State :=
  let up := s.sys.mode.main
  { State.reset with
    pending := s.pending
    draws := s.draws
    regs := regsOf keepFields s.regs
    mem := s.mem
    si := s.si
    nv := s.nv
    tbs := { off := s.rtcOff }
    cel := { s.cel with
      pulses := if up then s.pulsesToCellar else s.cel.pulses
      src := if s.cellarWatch then s.cel.src else s.cellarTrips }
    vlt := { s.vlt with ent := s.vlt.ent.filter (fun e => decide (e.1 < 240)), wr := Tab.const 4 {}, jobs := [], gen := [],
                        waiting := [] } }

/-- A unit whose programming a reset interrupts: erased, whole, or torn (R433; the corners of chapter 15). -/
def State.tearUnit (s : State) (b : Fin 2) : State :=
  match s.bank.at b, s.progs.at b with
  | .program _, p :: _ =>
    let (i, s1) := s.choose 3
    let (l, s2) := s1.anyWords 4
    if i = 0 then s2 else if i = 1 then s2.arcPut p.off p.bytes else s2.arcPut p.off (l.flatMap Word.bytes)
  | _, _ => s

/-- The order of R94. -/
def ResetKind.rank : ResetKind → Nat
  | .erase => 0 | .cellarLoss => 1 | .cold => 2 | .warm => 3

/-- The kind of two causes that are present together (R94). -/
def ResetKind.first (a b : ResetKind) : ResetKind := if a.rank ≤ b.rank then a else b

/-- A reset of a kind begins (R93 to R96): RSTCAUSE is written, and the MODE record of the entry to RISE. A cause that comes
while the main domain is still in reset joins the cause present (R94). -/
def State.enterReset (s : State) (k0 : ResetKind) (why : Why) (src : Nat) : State :=
  let level := match s.con.session with | some x => x.level | none => 0
  let joins := s.sys.mode == .rise && !s.sys.begun
  let k := if joins then k0.first s.sys.kind else k0
  let warm := decide (k = ResetKind.warm)
  let code := if !warm then 0 else if joins && decide (k0 = ResetKind.warm) then Nat.min why.code (s.rd SYS_RSTCAUSE_WHY)
    else why.code
  let low := s.sys.held || decide (why = Why.rstN)
  let s1 := (((s.tearUnit 0).tearUnit 1).remaskTear).mainReset
  let s2 := s1.wrs [(SYS_RSTCAUSE_KIND, k.code), (SYS_RSTCAUSE_WHY, code),
    (SYS_RSTCAUSE_SRC, if warm && decide (code = 4) then src else 0xFF)]
  let s3 := { s2 with sys := { mode := .rise, prev := .rise, kind := k, held := low, holdVcc := s.sys.holdVcc } }
  if s.sys.mode = .rise then s3
  else s3.modeRec s.sys.mode.code Mode.rise.code 8 (k.code + 16 * code) level

/-- A reset that a RESET or ERASE response causes also records the tripped sources (R489). -/
def State.responseReset (s : State) (k : ResetKind) (src : Nat) : State :=
  let t := s.trippedNow
  let s1 := s.enterReset k .resetResponse src
  { s1 with cel := { s1.cel with tripped := t } }

/-! ## LOCK -/

/-- The LOCK response (Table 17.4, R36, R101, R397, R398): flag and source at once; QUARANTINE with the cores in reset, the jobs
cancelled and the engines' work ended, or, in RISE, at the end of RISE. -/
def State.lockNow (s : State) (src : Nat) : State :=
  let s1 := (s.setb CEL_FLAGS_LOCKED).wr CEL_LOCKSRC src
  if s1.cellarWatch then s1
  else if s1.sys.mode = .rise then { s1 with sys := { s1.sys with riseLock := true } }
  else
    let s2 := { s1.pendDiscard with tick := { s1.tick with cancel := true } }
    let s3 := (((s2.jobCancelAll true).coresReset).enginesStop 10 6).shelvesClear
    s3.modeEnter .quarantine 3 src false

/-! ## Onsets together -/

/-- The source whose response acts. -/
def firstWith (r : Resp) : List (Resp × Nat) → Nat
  | [] => 0xFF
  | (a, n) :: t => if a = r then n else firstWith r t

/-- A response acts (Table 17.4); while the Cellar watches, ERASE turns a reset in progress into an ERASE reset (R551). -/
def State.respond (s : State) (r : Resp) (src : Nat) : State :=
  match r with
  | .reset => s.responseReset .warm src
  | .lock => s.lockNow src
  | .erase =>
    if s.cellarWatch then
      let s1 := s.eraseVault
      if s1.sys.mode = .rise then
        { s1.wrs [(SYS_RSTCAUSE_KIND, 3), (SYS_RSTCAUSE_WHY, 0), (SYS_RSTCAUSE_SRC, 0xFF)] with
          sys := { s1.sys with kind := .erase } }
      else s1
    else (s.eraseVault).responseReset .erase src
  | _ => s

/-- Onsets of one sample (R33): each is logged with its own response, and the highest acts. -/
def State.onsets (s : State) (l : List Onset) : State :=
  let (acts, s1) := l.foldl (fun (p : List (Resp × Nat) × State) o =>
    let (r, t) := p.2.onset1 o
    (p.1 ++ [(r, o.src)], t)) ([], s)
  let top := acts.foldl (fun m a => m.max a.1) Resp.none
  s1.respond top (firstWith top acts)

/-- An event source has an onset (R484). -/
def State.raise (s : State) (src : Nat) : State := s.onsets [{ src := src }]

/-- MISUSE. -/
def State.misuse (s : State) : State := s.raise 0x21

/-- ECC_UNCORR. -/
def State.eccUncorr (s : State) : State := s.raise 0x24

/-- IMAGE_FAIL. -/
def State.imageFail (s : State) : State := s.raise 0x25

end Sys2Proof.Machine
end

