-- ==== Sys2Proof/Machine/Hatch.lean ====
section
/-!
DEFINITION. Hatch.lean: the mailbox of the three planes (spec/01_planes.md, R22 to R30).
-/
namespace Sys2Proof.Machine

/-! ## The slot commands (Table 1.7) -/

/-- A command by the wrong agent or in the wrong state (R25). -/
def State.hatchBad (s : State) (f : Field) : State := (s.setb f).misuse

/-- CLAIM. The agent is judged before the state, here and below: a command that both are wrong for sets OWNER alone (R25; DESIGN
CHOICE, log entry 103). -/
def State.hatchClaim (s : State) (a : Agent) (n : Fin 16) : State :=
  if hatchSender n ≠ a then s.hatchBad (HATCH_ERR_OWNER a)
  else if (s.hatch.at n).st ≠ .free then s.hatchBad (HATCH_ERR_STATE a)
  else s.slot n (fun x => { x with st := .writing })

/-- RING (R26): a trailer that does not match leaves the slot WRITING, without MISUSE. -/
def State.hatchRing (s : State) (a : Agent) (n : Fin 16) : State :=
  if hatchSender n ≠ a then s.hatchBad (HATCH_ERR_OWNER a)
  else if (s.hatch.at n).st ≠ .writing then s.hatchBad (HATCH_ERR_STATE a)
  else if !(s.hatch.at n).ok then s.setb (HATCH_ERR_CRC a)
  else s.post n

/-- ABANDON. -/
def State.hatchAbandon (s : State) (a : Agent) (n : Fin 16) : State :=
  let st := (s.hatch.at n).st
  if hatchSender n ≠ a then s.hatchBad (HATCH_ERR_OWNER a)
  else if st ≠ .writing ∧ st ≠ .posted then s.hatchBad (HATCH_ERR_STATE a)
  else (s.slotFree n).conFlush

/-- DONE. -/
def State.hatchDone (s : State) (a : Agent) (n : Fin 16) : State :=
  let x := s.hatch.at n
  if x.dest ≠ a then s.hatchBad (HATCH_ERR_OWNER a)
  else if x.st ≠ .taken then s.hatchBad (HATCH_ERR_STATE a)
  else (s.slotFree n).conFlush

/-! ## Messages to CON and to the Caretaker (R24, R28) -/

/-- The slots of the message whose LAST fragment stands in slot `n`, in FRAG order: those of the same sender, to the same
receiver, with the same SEQ. -/
def State.msgSlots (s : State) (n : Fin 16) : List (Option (Fin 16)) :=
  let x := s.hatch.at n
  (List.range x.frag).map (fun f =>
    (finList 16).find? (fun m =>
      let y := s.hatch.at m
      hatchSender m == hatchSender n && y.st == .posted && y.dest == x.dest && y.seq == x.seq && y.frag == f && m != n)) ++ [some n]

/-- No fragment is missing. -/
def State.msgWhole (s : State) (n : Fin 16) : Bool := (s.msgSlots n).all Option.isSome

/-- The payload of a whole message. -/
def State.msgPayload (s : State) (n : Fin 16) : List Byte :=
  ((s.msgSlots n).filterMap id).flatMap (fun m => (s.hatch.at m).payload)

/-- Every present fragment is taken and given back (TAKE, then DONE). -/
def State.msgDone (s : State) (n : Fin 16) : State :=
  (((s.msgSlots n).filterMap id).foldl State.slotFree s).conFlush

/-- The KIND of a message. -/
def State.msgKind (s : State) (n : Fin 16) : Nat := ((s.hatch.at n).byte 0).toNat

/-- A message addressed to CON or the Caretaker is malformed (R24). -/
def State.msgBad (s : State) (n : Fin 16) : Bool :=
  let k := s.msgKind n
  (s.hatch.at n).dest == .care || !s.msgWhole n || !(k == 2 || k == 3 || k == 5) ||
    (hatchSender n).cpu.isNone

/-- An incomplete APPLET_REPLY ends CON's wait with E70 (R28). -/
def State.appletBroken (s : State) (n : Fin 16) : State :=
  match s.con.busy, (hatchSender n).cpu with
  | .applet _ c seq, some d =>
    if s.msgKind n = 2 ∧ c = d ∧ (s.hatch.at n).seq = seq ∧ !s.msgWhole n then s.appletDrop c else s
  | _, _ => s

/-- A malformed message is taken and discarded (R24). -/
def State.msgDiscard (s : State) (n : Fin 16) : State :=
  (((s.appletBroken n).msgDone n).setb (HATCH_ERR_KIND (hatchSender n))).misuse

/-- TAKE (R25); CON and the Caretaker discard a malformed message whose LAST fragment they take. -/
def State.hatchTake (s : State) (a : Agent) (n : Fin 16) : State :=
  let x := s.hatch.at n
  if x.dest ≠ a then s.hatchBad (HATCH_ERR_OWNER a)
  else if x.st ≠ .posted then s.hatchBad (HATCH_ERR_STATE a)
  else if (a = .con ∨ a = .care) ∧ x.last ∧ s.msgBad n then s.msgDiscard n
  else s.slot n (fun x => { x with st := .taken })

/-! ## Bodies (R27) -/

/-- The word an agent reads from a slot body. -/
def State.bodyRead (s : State) (a : Agent) (n : Fin 16) (k : Fin 16) : Word :=
  let x := s.hatch.at n
  if x.st = .taken ∧ x.dest = a then x.body.at k else 0

/-- A body access: writable by the sender in WRITING, readable by the receiver in TAKEN; any other sets OWNER and is a
misuse. -/
def State.bodyAccess (s : State) (a : Agent) (n : Fin 16) (k : Fin 16) (v : Option Word) : State :=
  let x := s.hatch.at n
  match v with
  | some w =>
    if x.st = .writing ∧ hatchSender n = a then s.slot n (fun x => { x with body := x.body.put k w })
    else s.hatchBad (HATCH_ERR_OWNER a)
  | none => if x.st = .taken ∧ x.dest = a then s else s.hatchBad (HATCH_ERR_OWNER a)

/-- A core's read leaves the word in its destination register. -/
def State.loaded (s : State) (c : CpuId) (w : Word) : State := { s with cpu := s.cpu.upd c (fun x => { x with rdata := w }) }

/-! ## Meanings -/

/-- CLAIM (R25). -/
def execClaim (a : Agent) (n : Fin 16) (s : State) : Host.Outcome State Fault Refusal := .next (s.byAgent a (fun s => s.hatchClaim a n))
/-- RING (R26). -/
def execRing (a : Agent) (n : Fin 16) (s : State) : Host.Outcome State Fault Refusal := .next (s.byAgent a (fun s => s.hatchRing a n))
/-- ABANDON (R25). -/
def execAbandon (a : Agent) (n : Fin 16) (s : State) : Host.Outcome State Fault Refusal := .next (s.byAgent a (fun s => s.hatchAbandon a n))
/-- TAKE (R25). -/
def execTake (a : Agent) (n : Fin 16) (s : State) : Host.Outcome State Fault Refusal := .next (s.byAgent a (fun s => s.hatchTake a n))
/-- DONE (R25). -/
def execDone (a : Agent) (n : Fin 16) (s : State) : Host.Outcome State Fault Refusal := .next (s.byAgent a (fun s => s.hatchDone a n))
/-- HATCH_BODY_ACCESS (R27): a core's read also leaves the word in its destination register. -/
def execHatchBodyAccess (a : Agent) (n : Fin 16) (k : Fin 16) (v : Option Word) (s : State) :
    Host.Outcome State Fault Refusal :=
  .next (s.byAgent a (fun s =>
    (match a.cpu, v with
      | some c, none => s.loaded c (s.bodyRead a n k)
      | _, _ => s).bodyAccess a n k v))

end Sys2Proof.Machine
end

