-- ==== Sys2Proof/Machine/StoreRoom.lean ====
section
/-!
DEFINITION. StoreRoom.lean: the associative memory (spec/12_store_room.md, R343 to R367): regions, search, order, inserts by
local shift, block moves, the ledger, persistence.
-/
namespace Sys2Proof.Machine

/-! ## Regions and entries -/

/-- The stride H (Table 12.7). -/
def State.strH (s : State) : Nat := 8 * 2 ^ s.rd STR_CFG_H

/-- Size of a region (R344). -/
def State.strSize (s : State) : Region → Nat
  | .k => s.rd STR_SIZE0_K | .c => s.rd STR_SIZE0_C | .a0 => s.rd STR_SIZE1_A0 | .a1 => s.rd STR_SIZE1_A1

/-- First index of a region (R344). -/
def State.strStart (s : State) : Region → Nat
  | .k => 0
  | .c => s.strSize .k
  | .a0 => s.strSize .k + s.strSize .c
  | .a1 => s.strSize .k + s.strSize .c + s.strSize .a0

/-- The index past a region. -/
def State.strEnd (s : State) (r : Region) : Nat := s.strStart r + s.strSize r

/-- The region of an index. -/
def State.strRegion (s : State) (i : Nat) : Region :=
  if i < s.strStart .c then .k else if i < s.strStart .a0 then .c else if i < s.strStart .a1 then .a0 else .a1

/-- An entry. -/
def State.sEnt (s : State) (i : Nat) : SEntry := spGet {} s.str.ent i

/-- Table 12.2, KEY in the lowest bits and the others after it in the order of the table (log entry 79). -/
def SEntry.bits (e : SEntry) : Nat :=
  e.key.toNat + 2 ^ 160 * e.mask.toNat + 2 ^ 320 * e.prio.toNat + 2 ^ 328 * b2n e.valid + 2 ^ 329 * b2n e.deny +
    2 ^ 330 * b2n e.keep + 2 ^ 331 * b2n e.bad + 2 ^ 332 * e.region.code + 2 ^ 334 * e.result.toNat

/-- Ones in the low `n` bits of a number, modulo 2. -/
def oddOnes (n x : Nat) : Bool := (List.range n).foldl (fun b i => b != x.testBit i) false

/-- PARITY: even parity over each 32-bit group, the last of 14 bits (Table 12.2). -/
def SEntry.parityOf (e : SEntry) : BitVec 12 :=
  (List.range 12).foldl (fun p g => if oddOnes 32 (e.bits / 2 ^ (32 * g)) then p ||| (1 <<< g) else p) 0

/-- The stored PARITY matches. -/
def SEntry.par (e : SEntry) : Bool := e.parity == e.parityOf

/-- An entry as it is written, with its parity. -/
def SEntry.sealed (e : SEntry) : SEntry := { e with parity := e.parityOf }

/-- An entry and its ledger copy written in one slot (R361). -/
def State.sWrite (s : State) (i : Nat) (e l : SEntry) : State :=
  { s with str := { s.str with
      ent := spPut {} s.str.ent i e, led := spPut {} s.str.led i l,
      ledBad := s.str.ledBad.filter (fun j => decide (j ≠ i)) } }

/-- An entry copied, with its ledger copy as it reads: one that is uncorrectable stays so. -/
def State.sCopy (s : State) (src dst : Nat) : State :=
  let s1 := s.sWrite dst (s.sEnt src) (spGet {} s.str.led src)
  if s.str.ledBad.contains src then { s1 with str := { s1.str with ledBad := dst :: s1.str.ledBad } } else s1

/-- An entry becomes a hole. -/
def State.sClear (s : State) (i : Nat) : State := s.sWrite i {} {}

/-- The move sources every search ignores (R359): of the move that runs, and of one that waits at a step boundary (R367). -/
def State.sSources (s : State) : List Nat := s.str.moves.filterMap (fun m => m.run.bind SRun.ptr)

/-- The entries of a region in rising index order, without a move source. -/
def State.sList (s : State) (r : Region) : List (Nat × SEntry) :=
  s.str.ent.filter (fun e => decide (s.strStart r ≤ e.1) && decide (e.1 < s.strEnd r) && !s.sSources.contains e.1)

/-- Valid entries of a region, STR_USED. -/
def State.strUsed (s : State) (r : Region) : Nat := ((s.sList r).filter (fun e => e.2.valid)).length

/-! ## Search (R346, R347) -/

/-- An answer in the layout of TICK_RAm RES and IDX. -/
structure SAns where
  result : Word := 0
  index : Nat := 0
  multi : Bool := false
  deny : Bool := false
  none : Bool := false
  prio : Byte := 0
deriving DecidableEq, Repr

/-- The answer of a search that is not performed (R347). -/
def SAns.busy : SAns := { result := 0xFFFFFFFF, deny := true, none := true }

/-- That answer. -/
def SAns.isBusy (a : SAns) : Bool := a.deny && a.none

/-- The IDX word (Table 2.10). -/
def SAns.idxWord (a : SAns) (gen : Nat) : Word :=
  BitVec.ofNat 32 (a.index % 8192 + 2 ^ 13 * b2n a.multi + 2 ^ 14 * b2n a.deny + 2 ^ 15 * b2n a.none +
    2 ^ 16 * a.prio.toNat + 2 ^ 24 * (gen % 256))

/-- The running decision of a search. -/
structure SScan where
  win : Option (Nat × SEntry) := none
  tie : Bool := false
  deny : Option Nat := none
  /-- indices at which a parity error was met, latest first. -/
  par : List Nat := []

/-- One entry of the scan. -/
def SScan.next (r : Region) (key : BitVec 160) (a : SScan) (x : Nat × SEntry) : SScan :=
  let (i, e) := x
  let parBad := !e.par || e.region != r
  if !e.valid then a
  else if e.bad || parBad then
    { a with deny := some (a.deny.getD i), par := if parBad then i :: a.par else a.par }
  else if (e.key ^^^ key) &&& e.mask ≠ 0 then a
  else if e.deny then { a with deny := some (a.deny.getD i) }
  else match a.win with
    | none => { a with win := some (i, e), tie := false }
    | some (_, w) =>
      if w.prio.toNat < e.prio.toNat then { a with win := some (i, e), tie := false }
      else if e.prio = w.prio then { a with tie := true } else a

/-- The decision. -/
def SScan.answer (a : SScan) : SAns :=
  match a.deny, a.win with
  | some d, _ => { deny := true, index := d }
  | none, some (i, e) => { result := e.result, index := i, multi := a.tie, prio := e.prio }
  | none, none => { none := true }

/-- A mode serves a search of a region (Table 12.5), the rate does (Table 12.3), and FSYS runs (R354); `cred` is CON's CRED
lookup. -/
def State.strServed (s : State) (r : Region) (cred : Bool) : Bool :=
  !s.sys.stopped && s.sys.mode != .cellar &&
  !(s.rd STR_STAT_RATE == 3 && (r == .a0 || r == .a1)) &&
  (match s.sys.mode with
   | .hold | .quarantine => r == .c || (r == .k && cred)
   | .erased | .retired => r == .c
   | _ => true)

/-- A search as performed: parity errors set STR_ERR.PAR and lead the comparator's order (R363). -/
def State.strScan (s : State) (r : Region) (key : BitVec 160) : SAns × State :=
  let a := (s.sList r).foldl (SScan.next r key) {}
  let s1 := match a.par with
    | [] => s
    | i :: _ => (s.setb STR_ERR_PAR).wr STR_ERR_IDX i
  (a.answer, { s1 with str := { s1.str with urgent := a.par ++ s1.str.urgent.filter (fun j => !a.par.contains j) } })

/-- A search, or the answer BUSY. -/
def State.strSearch (s : State) (r : Region) (key : BitVec 160) (cred : Bool := false) : SAns × State :=
  if s.strServed r cred then s.strScan r key else (SAns.busy, s)

/-- A search by the data plane, which region C does not answer (R15, R367; log entry 76). -/
def State.strAsk (s : State) (r : Region) (key : BitVec 160) : SAns × State :=
  if r = .c then (SAns.busy, s) else s.strSearch r key

/-- Five words as a key, word 0 least significant. -/
def keyOf (l : List Word) : BitVec 160 := BitVec.ofNat 160 (leNat ((l.take 5).flatMap Word.bytes))

/-- A core's search (R349). -/
def State.coreSearch (s : State) (c : CpuId) (r : Region) : State :=
  let key := keyOf ((finList 5).map (fun k => BitVec.ofNat 32 (s.rd (STR_KEY c k))))
  let (a, s1) := s.strAsk r key
  s1.wrs [(STR_SSTAT_STATE c, if a.isBusy then 3 else 2), (STR_SRES c, a.result.toNat),
    (STR_SIDX c, (a.idxWord s.tick.frame).toNat)]

/-! ## Persistence (R364) -/

/-- The entries that persist. -/
def State.strKeep (s : State) : List (Nat × SEntry) := s.str.ent.filter (fun e => e.2.valid && e.2.keep)

/-- A fresh image of all KEEP entries: it covers every record made, and frees the ring of them. -/
def State.strImage (s : State) : State :=
  { s with nv := { s.nv with strImg := s.strKeep, strCov := s.nv.strSeq, strLog := [] } }

/-- Past three quarters of its 682 places the ring is freed by a fresh image, at a time no move runs. -/
def State.strRoom (s : State) : State := if 511 ≤ s.nv.strLog.length ∧ s.sSources = [] then s.strImage else s

/-- The sequence number of a new record. -/
def State.strStamp (s : State) : State := { s with nv := { s.nv with strSeq := s.nv.strSeq + 1 } }

/-- A record reaches the log ring, unless an image covers it. -/
def State.strLogAdd (s : State) (seq : Nat) (l : SLog) : State :=
  if seq ≤ s.nv.strCov then s else { s with nv := { s.nv with strLog := s.nv.strLog ++ [(seq, l)] } }

/-- The move that stands in the log as started and not ended. -/
def openMove (l : List SLog) : Option SRun :=
  l.foldl (fun o x => match x with
    | .moveStart r => some r
    | .moveEnd => none
    | _ => o) none

/-! ## Updates -/

/-- A mode permits updates and moves of a region (Table 12.5, R354). -/
def State.strUpd (s : State) (r : Region) : Bool :=
  !s.sys.stopped &&
  (match s.sys.mode with
   | .rise | .cellar => false
   | .hold | .quarantine | .erased | .retired => r == .c
   | _ => true)

/-- The writer of a region (R344). -/
def State.strWriter (s : State) (r : Region) : SReq → Bool
  | .vault => r == .k
  | .con _ _ => r == .c
  | .cpu c => (r == .a0 && s.rd STR_CFG_A0OWN == c.val) || (r == .a1 && s.rd STR_CFG_A1OWN == c.val)

/-- What a requester reads of its update. -/
def State.strReport (s : State) (q : SReq) (state code idx : Nat) : State :=
  match q with
  | .cpu c => s.wrs [(STR_USTAT_STATE c, state), (STR_USTAT_CODE c, code), (STR_USTAT_IDX c, idx)]
  | .con c seq =>
    if state = 1 then s
    else s.conSend c.agent 4 seq (BitVec.ofNat 8 (if code = 0 then 0 else if code = 1 then 31 else 41) :: leBytes 2 idx)
  | .vault => s

/-- A write or invalidate makes the run-ahead slots of its region STALE that were issued for the next frame (R69, R70). -/
def State.raStale (s : State) (r : Region) : State :=
  (finList 16).foldl (fun s m =>
    if (s.rd (TICK_RA_STATE m) = 1 ∨ s.rd (TICK_RA_STATE m) = 3) ∧ s.rd (TICK_RA_REGION m) = r.code ∧
        s.rd (TICK_RA_IDX m) / 2 ^ 24 = (s.tick.frame + 1) % 256 then
      s.wrs [(TICK_RA_STATE m, 2), (TICK_RA_RES m, 0), (TICK_RA_IDX m, 2 ^ 24 * (s.rd (TICK_RA_IDX m) / 2 ^ 24))]
    else s) s

/-- A finished update: with a log record its DONE waits for the record, which waits for the end of hold-off. -/
def State.strFinish (s : State) (q : SReq) (idx : Nat) (l : Option SLog) : State :=
  match l with
  | none => s.strReport q 2 0 idx
  | some r =>
    let s1 := s.strStamp
    let seq := s1.nv.strSeq
    if s.holdoff then
      match q with
      | .cpu c => { s1 with str := { s1.str with held := s1.str.held ++ [(⟨some c, idx, seq, r⟩ : SHeld)] } }.strReport q 1 0 0
      | _ => { s1 with str := { s1.str with held := s1.str.held ++ [(⟨none, idx, seq, r⟩ : SHeld)] } }.strReport q 2 0 idx
    else ((s1.strLogAdd seq r).strRoom).strReport q 2 0 idx

/-- The records that hold-off kept waiting are written, and their updates read DONE. -/
def State.strHeldFlush (s : State) : State :=
  let l := s.str.held
  l.foldl (fun s x =>
    let s1 := (s.strLogAdd x.seq x.what).strRoom
    match x.cpu with
    | some c => s1.strReport (.cpu c) 2 0 x.idx
    | none => s1) { s with str := { s.str with held := [] } }

/-- The target index of an insert (R355). -/
def State.strTarget (s : State) (r : Region) (prio : Nat) (first : Bool) : Nat :=
  (s.sList r).foldl (fun t e =>
    if e.2.valid ∧ (if first then prio < e.2.prio.toNat else prio ≤ e.2.prio.toNat) then e.1 + 1 else t) (s.strStart r)

/-- An index holds no valid entry. -/
def State.sHole (s : State) (i : Nat) : Bool := !(s.sEnt i).valid

/-- The first index of the stride an insert at `t` uses (R357). -/
def State.strStride (s : State) (r : Region) (t : Nat) : Nat :=
  let t' := if t = s.strEnd r then t - 1 else t
  t' - t' % s.strH

/-- Of the holes listed in rising order, the one nearest to `t`; of two equally near, the lower. -/
def nearest (t : Nat) : List Nat → Option Nat
  | [] => none
  | h :: l => match nearest t l with
    | none => some h
    | some k => if (k - t) + (t - k) < (h - t) + (t - h) then some k else some h

/-- The holes of the stride at `w`. -/
def State.strideHoles (s : State) (w : Nat) : List Nat :=
  ((List.range s.strH).map (fun k => w + k)).filter s.sHole

/-- How far a hole lies from a stride. -/
def State.strDist (s : State) (w h : Nat) : Nat := if h < w then w - h else h - (w + s.strH - 1)

/-- The hole a block move takes for the stride at `w` (R358). -/
def State.moveHole (s : State) (r : Region) (w : Nat) : Option Nat :=
  let out := ((List.range (s.strSize r)).map (fun k => s.strStart r + k)).filter
    (fun i => s.sHole i && (decide (i < w) || decide (w + s.strH ≤ i)))
  let rich := out.filter (fun i => decide (2 ≤ (s.strideHoles (i - i % s.strH)).length))
  let near (l : List Nat) : Option Nat := l.foldl (fun b i => match b with
    | none => some i
    | some j => if s.strDist w i < s.strDist w j then some i else some j) none
  (near rich).orElse (fun _ => near out)

/-- Moves that wait behind the first (STR_MOVE.PENDING). -/
def State.movesWaiting (s : State) : Nat := s.str.moves.length - 1

/-- Local-shift steps toward the hole above: entries `t` to `t + n - 1` one place up, the highest first. -/
def State.shiftUp (s : State) (t : Nat) : Nat → State
  | 0 => s
  | n + 1 => (s.sCopy (t + n) (t + n + 1)).shiftUp t n

/-- Entries `h + 1` to `h + n` one place down, the lowest first. -/
def State.shiftDown (s : State) (h : Nat) : Nat → State
  | 0 => s
  | n + 1 => (s.sCopy (h + 1) h).shiftDown (h + 1) n

/-- An entry placed with the hole `h` for the target `t` (R357): the index written. -/
def State.strPlace (s : State) (t h : Nat) (e : SEntry) : Nat × State :=
  let x := e.sealed
  if t ≤ h then (t, (s.shiftUp t (h - t)).sWrite t x x)
  else (t - 1, (s.shiftDown h (t - 1 - h)).sWrite (t - 1) x x)

/-- The entries of a run that have still to shift, its source with them. -/
def SRun.ahead (r : SRun) : Option (Nat × Nat) := r.ptr.map (fun p => if r.up then (r.goal, p) else (p, r.goal))

/-- A move in motion has still to shift an entry between two indices: a local shift there waits for it (log entry 24). -/
def State.strMoving (s : State) (lo hi : Nat) : Bool :=
  s.str.moves.any (fun m => match m.run.bind SRun.ahead with
    | some (a, b) => decide (a ≤ hi) && decide (lo ≤ b)
    | none => false)

/-- The index that replay gives an entry, which shifts the whole run of a move in motion at its start. -/
def State.logIdx (s : State) (i : Nat) : Nat :=
  match s.str.moves.find? (fun m => match m.run.bind SRun.ahead with
    | some (a, b) => decide (a ≤ i) && decide (i ≤ b)
    | none => false) with
  | some m => match m.run with
    | some r => if r.up then i + 1 else i - 1
    | none => i
  | none => i

/-- What an insert comes to. -/
inductive Insert where
  | done (idx : Nat)
  | refused (code : Nat)
  | waits
deriving DecidableEq, Repr

/-- The insert itself once it is allowed (R357); `again` for one that has waited. -/
def State.strInsert (s : State) (u : SUpd) (again : Bool) : Insert × State :=
  let r := u.ent.region
  let same := (s.sList r).any (fun e => e.2.valid && e.2.key == u.ent.key && e.2.mask == u.ent.mask && e.2.prio == u.ent.prio)
  let size := s.strSize r
  if same then (.refused 3, s)
  else if size - size / s.strH ≤ s.strUsed r then (.refused 1, s)
  else
    let t := s.strTarget r u.ent.prio.toNat u.first
    let w := s.strStride r t
    match nearest t (s.strideHoles w) with
    | some h =>
      let lo := Nat.min t h
      let hi := Nat.max t h
      if s.strMoving lo hi then (.waits, s) else
      let keep := u.ent.keep || (s.sList r).any (fun e => e.2.keep && decide (lo ≤ e.1) && decide (e.1 ≤ hi))
      let (i, s1) := s.strPlace t h u.ent
      (.done i, (s1.strFinish u.req i (if keep then some (.write i h u.ent.sealed) else none)).raStale r)
    | none =>
      match s.moveHole r w with
      | none => (.refused 1, s)
      | some h =>
        let n := ceilDiv (s.strDist w h) 512
        if s.str.moves.any (fun m => decide (m.region = r ∧ m.stride = w)) then (.waits, s)
        else if 5 < s.str.moves.length + n then (if again || u.req = .vault then (.waits, s) else (.refused 5, s))
        else (.waits, { s with str := { s.str with moves := s.str.moves ++ List.replicate n { region := r, stride := w } } })

/-- The INVALIDATE itself (R360): the lowest valid entry equal in region, key, mask and priority. -/
def State.strRemove (s : State) (q : SReq) (e : SEntry) : State :=
  let r := e.region
  match (s.sList r).find? (fun x => x.2.valid && x.2.key == e.key && x.2.mask == e.mask && x.2.prio == e.prio) with
  | none => s.strReport q 3 4 0
  | some (i, x) => ((s.sClear i).strFinish q i (if x.keep then some (.invalidate (s.logIdx i)) else none)).raStale r

/-- Updates of one region, and of one requester, are served in the order of their arrival (R350). -/
def SUpd.follows (u v : SUpd) : Bool := u.ent.region == v.ent.region || u.req == v.req

/-- The requester of a waiting update reads BUSY. -/
def State.strBusy (s : State) (q : SReq) : State :=
  if s.str.wait.any (fun u => u.req == q) then s.strReport q 1 0 0 else s

/-- A WRITE or INVALIDATE (R344, R350, R356, R357, R360, R367): without MISUSE, which the caller raises last. -/
def State.strUpdate (s : State) (u : SUpd) : State :=
  let r := u.ent.region
  let waits (s : State) : State := { s with str := { s.str with wait := s.str.wait ++ [u] } }.strReport u.req 1 0 0
  if !s.strWriter r u.req then ((s.setb STR_ERR_NOTOWNER).strReport u.req 3 2 0).strBusy u.req
  else if !s.strUpd r then (s.strReport u.req 3 6 0).strBusy u.req
  else if s.str.wait.any u.follows then waits s
  else if u.inval then s.strRemove u.req u.ent
  else match s.strInsert u false with
    | (.done _, s1) => s1
    | (.refused code, s1) => s1.strReport u.req 3 code 0
    | (.waits, s1) => waits s1

/-- A WRITE. -/
def State.strWrite (s : State) (u : SUpd) : State := s.strUpdate u

/-- A waiting update has its turn: a mode permits it, and it follows none that waits before it. -/
def State.updTurn (s : State) (u : SUpd) : Bool :=
  s.strUpd u.ent.region && s.str.wait.contains u && !(s.str.wait.takeWhile (fun v => v != u)).any u.follows

/-- One waiting update is tried; while it still waits it keeps its place (R367). -/
def State.updTry (s : State) (u : SUpd) : State :=
  let gone (s : State) : State := { s with str := { s.str with wait := s.str.wait.erase u } }
  if u.inval then ((gone s).strRemove u.req u.ent).strBusy u.req
  else match s.strInsert u true with
    | (.done _, s1) => (gone s1).strBusy u.req
    | (.refused code, s1) => ((gone s1).strReport u.req 3 code 0).strBusy u.req
    | (.waits, s1) => s1

/-- The waiting updates that a mode permits are tried again, in their order. -/
def State.insertResume (s : State) : State :=
  s.str.wait.foldl (fun s u => if s.updTurn u then s.updTry u else s) s

/-- The entry that a core's update registers name. -/
def State.updEntry (s : State) (c : CpuId) : SEntry :=
  { key := keyOf ((finList 5).map (fun k => BitVec.ofNat 32 (s.rd (STR_UKEY c k))))
    mask := keyOf ((finList 5).map (fun k => BitVec.ofNat 32 (s.rd (STR_UMSK c k))))
    prio := BitVec.ofNat 8 (s.rd (STR_UATTR_PRIO c))
    valid := true
    deny := s.isSet (STR_UATTR_DENY c)
    keep := s.isSet (STR_UATTR_KEEP c)
    region := Region.ofCode (s.rd (STR_UATTR_REGION c))
    result := BitVec.ofNat 32 (s.rd (STR_URES c)) }

/-- An INVALIDATE of the entry equal in region, key, mask and priority (R360). -/
def State.strInvalidate (s : State) (q : SReq) (e : SEntry) : State := s.strUpdate ⟨q, e, false, true⟩

/-- A core writes STR_UCMD; behind an update of its own that waits, it takes its turn (R350, log entry 25). -/
def State.coreUpdate (s : State) (c : CpuId) (write : Bool) : State :=
  let e := s.updEntry c
  let s1 := if write then s.strWrite ⟨.cpu c, e, s.isSet (STR_UATTR_PLACE c), false⟩ else s.strInvalidate (.cpu c) e
  if s.strWriter e.region (.cpu c) then s1 else s1.misuse

/-! ## Block moves (R358, R359) -/

/-- The run of a move whose hole is at `h` (one move shifts at most 512 entries). -/
def State.runOf (s : State) (w h : Nat) : SRun :=
  if h < w then { hole := h, goal := Nat.min w (h + 512), up := false }
  else { hole := h, goal := Nat.max (w + s.strH - 1) (h - 512), up := true }

/-- Entries of the run that persist. -/
def State.runKeep (s : State) (r : SRun) : Bool :=
  s.str.ent.any (fun e => e.2.keep && decide (Nat.min r.hole r.goal ≤ e.1) && decide (e.1 ≤ Nat.max r.hole r.goal))

/-- The moves; the pointer register follows the source of the first. -/
def State.setMoves (s : State) (l : List SMove) : State :=
  let s1 := { s with str := { s.str with moves := l } }
  s1.wr STR_MOVE_PTR ((l.head?.bind (fun m => m.run.bind SRun.ptr)).getD 0)

/-- The first move replaced. -/
def State.setMove (s : State) (m : SMove) : State := s.setMoves (m :: s.str.moves.drop 1)

/-- A move that its mode permits stands first: one that waits lets those of region C by (Table 12.5). -/
def State.moveFront (s : State) : State :=
  match s.str.moves.find? (fun m => s.strUpd m.region) with
  | some m => { s with str := { s.str with moves := m :: s.str.moves.erase m } }
  | none => s

/-- A record of a move; while hold-off is in force it waits. -/
def State.moveLog (s : State) (l : SLog) : State :=
  let s1 := (if s.holdoff then s else s.strRoom).strStamp
  let seq := s1.nv.strSeq
  if s.holdoff then { s1 with str := { s1.str with held := s1.str.held ++ [⟨none, 0, seq, l⟩] } } else s1.strLogAdd seq l

/-- The log with the records that wait. -/
def State.logNow (s : State) : List SLog := s.nv.strLog.map Prod.snd ++ s.str.held.map SHeld.what

/-- The move ends: its last source becomes the hole, and a chained move goes on from there. -/
def State.moveEnd (s : State) (m : SMove) (r : SRun) : State :=
  let s1 := (s.sClear r.goal).bump STR_CNT_MOVES
  let rest := match s1.str.moves.drop 1 with
    | n :: t => if n.region = m.region ∧ n.stride = m.stride then { n with run := some (s1.runOf m.stride r.goal) } :: t else n :: t
    | [] => []
  let s2 := s1.setMoves rest
  if (openMove s2.logNow).isSome then s2.moveLog .moveEnd else s2

/-- A move leaves the queue with nothing to shift. -/
def State.moveDrop (s : State) : State := s.setMoves (s.str.moves.drop 1)

/-- One slot of block-move work; none where no move can take a step. -/
def State.moveStep (s : State) : Option State :=
  let s := s.moveFront
  match s.str.moves with
  | [] => none
  | m :: _ =>
    if !s.strUpd m.region then none
    else match m.run with
      | none =>
        match s.moveHole m.region m.stride with
        | none => some s.moveDrop
        | some h =>
          if s.strideHoles m.stride ≠ [] then some s.moveDrop
          else some (s.setMove { m with run := some (s.runOf m.stride h) })
      | some r =>
        match r.ptr with
        | none =>
          if !s.sHole r.hole || decide (r.hole = r.goal) then some (s.setMove { m with run := none })
          else
            let src := if r.up then r.hole - 1 else r.hole + 1
            let s1 := if s.runKeep r then s.moveLog (.moveStart { r with ptr := none }) else s
            some ((s1.sCopy src r.hole).setMove { m with run := some { r with ptr := some src } })
        | some p =>
          if p = r.goal then some (s.moveEnd m r)
          else
            let src := if r.up then p - 1 else p + 1
            some ((s.sCopy src p).setMove { m with run := some { r with ptr := some src } })

/-- MOVE_BUDGET: 0 acts as 1 (Table 12.7). -/
def State.moveBudget (s : State) : Nat := Nat.max 1 (s.rd STR_CFG_MOVE_BUDGET)

/-- Up to `n` slots of block-move work in this frame's slack (R351). -/
def State.moveSteps : Nat → State → State
  | 0, s => s
  | n + 1, s =>
    if s.tick.phase = .slack ∧ s.str.slots < s.moveBudget then
      match s.moveStep with
      | none => s
      | some s1 => moveSteps n { s1 with str := { s1.str with slots := s1.str.slots + 1 } }
    else s

/-! ## The comparator (R362) -/

/-- The comparator runs (Table 12.5). -/
def State.strCmpRuns (s : State) : Bool := s.sys.mode != .rise && s.sys.mode != .cellar && !s.sys.stopped

/-- One entry compared (R362); true where ECC_UNCORR is to be raised. -/
def State.ledgerOne (s : State) (i : Nat) : Bool × State :=
  let e := s.sEnt i
  let l := spGet {} s.str.led i
  if s.sSources.contains i then (false, s)
  else if !s.str.ledBad.contains i then
    if e = l then (false, s)
    else
      let s1 := ((s.sWrite i l l).bump STR_CNT_REPAIRS).attic 2 (3 :: leBytes 2 i)
      let s2 := { s1 with care := { s1.care with period := { s1.care.period with
        strrep := s1.care.period.strrep + 1 } } }
      (false, s2.careInfo (3 :: leBytes 2 i))
  else if e.par && (!e.valid || e.region == s.strRegion i) then
    (false, ((s.sWrite i e e).setb STR_ERR_LEDGER).wr STR_ERR_IDX i)
  else
    let s1 := { s with str := { s.str with ent := spPut {} s.str.ent i { e with bad := true } } }
    (true, (s1.setb STR_ERR_BAD).wr STR_ERR_IDX i)

/-- Entries compared, those that a search found corrupt first: how often ECC_UNCORR is to be raised. -/
def State.ledgerLoop : Nat → Nat → State → Nat × State
  | 0, b, s => (b, s)
  | n + 1, b, s =>
    match s.str.urgent with
    | i :: t =>
      let (x, s1) := { s with str := { s.str with urgent := t } }.ledgerOne i
      ledgerLoop n (b + b2n x) s1
    | [] =>
      let (x, s1) := s.ledgerOne s.cel.strCmp
      ledgerLoop n (b + b2n x) { s1 with cel := { s1.cel with strCmp := (s1.cel.strCmp + 1) % 8192 } }

/-! ## RISE step 9 (R366) -/

/-- The steps of a run from its hole to an index, applied to a list of entries: each entry on the way one place toward the
hole; the last source is a hole. -/
def shiftRun (l : List (Nat × SEntry)) (r : SRun) (last : Nat) : List (Nat × SEntry) :=
  let n := (r.hole - last) + (last - r.hole)
  let moved := (List.range n).foldl (fun l k =>
    if r.up then spPut {} l (r.hole - k) (spGet {} l (r.hole - k - 1)) else spPut {} l (r.hole + k) (spGet {} l (r.hole + k + 1))) l
  spPut {} moved last {}

/-- The steps of a run beyond an index taken back: the entries that a whole shift put on the way there, each one place away
from the hole; the index is the hole. -/
def shiftBack (l : List (Nat × SEntry)) (r : SRun) (last : Nat) : List (Nat × SEntry) :=
  let n := (last - r.goal) + (r.goal - last)
  let moved := (List.range n).foldl (fun l k =>
    if r.up then spPut {} l (r.goal + k) (spGet {} l (r.goal + k + 1)) else spPut {} l (r.goal - k) (spGet {} l (r.goal - k - 1))) l
  spPut {} moved last {}

/-- One log record applied: an entry that does not persist is a hole. A move is applied whole (R366). -/
def replayOne (l : List (Nat × SEntry)) : SLog → List (Nat × SEntry)
  | .write i h e =>
    let e' := if e.keep then e else {}
    let n := (i - h) + (h - i)
    let moved := (List.range n).foldl (fun l k =>
      if i ≤ h then spPut {} l (h - k) (spGet {} l (h - k - 1)) else spPut {} l (h + k) (spGet {} l (h + k + 1))) l
    spPut {} moved i e'
  | .invalidate i => spPut {} l i {}
  | .moveStart r => shiftRun l r r.goal
  | .moveEnd => l

/-- The entries that RISE restores: the newest image with every later record. -/
def State.strRestored (s : State) : List (Nat × SEntry) := (s.nv.strLog.map Prod.snd).foldl replayOne s.nv.strImg

/-- Regions K, A0, A1 empty, with image and log destroyed (R366). -/
def State.strDestroy (s : State) : State :=
  { s with nv := { s.nv with strImg := [], strLog := [] }, str := { s.str with ent := [], led := [], ledBad := [], moves := [] } }.wr
    STR_MOVE_PTR 0

/-- The run that a reset interrupted, at the step that the Cellar's pointer names (R366): none where no move stood open, or the
pointer is lost or names no step of it. -/
def State.strOpenRun (s : State) : Option SRun :=
  let p := s.rd STR_MOVE_PTR
  match openMove (s.nv.strLog.map Prod.snd) with
  | some r =>
    if p ≠ 0 ∧ (if r.up then r.goal ≤ p ∧ p < r.hole else r.hole < p ∧ p ≤ r.goal) then some { r with ptr := some p } else none
  | none => none

/-- The Store Room after its restore; region C starts empty. A move that a reset interrupted stands at its step and goes on in
the first frames; after a Cellar loss, and where it had ended, the whole run is shifted. -/
def State.strLoad (s : State) : State :=
  let l := s.strRestored.filter (fun e => decide (s.strRegion e.1 ≠ .c))
  match s.strOpenRun with
  | some r =>
    let p := r.ptr.getD 0
    let back := shiftBack l r p
    let m : SMove := { region := s.strRegion r.goal, stride := r.goal - r.goal % s.strH, run := some r }
    { s with str := { s.str with ent := back, led := back, ledBad := [], moves := [m] } }
  | none =>
    { s with
      str := { s.str with ent := l, led := l, ledBad := [], moves := [] }
      nv := { s.nv with strImg := l, strCov := s.nv.strSeq, strLog := [] } }.wr STR_MOVE_PTR 0

/-! ## Meanings -/

/-- STR_WRITE (R357). -/
def execStrWrite (c : CpuId) (s : State) : Host.Outcome State Fault Refusal :=
  .next (s.byCore c (fun s => s.coreUpdate c true))
/-- STR_INVALIDATE (R360). -/
def execStrInvalidate (c : CpuId) (s : State) : Host.Outcome State Fault Refusal :=
  .next (s.byCore c (fun s => s.coreUpdate c false))
/-- CORE_SEARCH (R349). -/
def execCoreSearch (c : CpuId) (r : Region) (s : State) : Host.Outcome State Fault Refusal :=
  .next (s.byCore c (fun s => s.coreSearch c r))
/-- BLOCK_MOVE (R358): up to `n` slots of work in the frame's slack. -/
def execBlockMove (n : Nat) (s : State) : Host.Outcome State Fault Refusal := .next (State.moveSteps n s)

end Sys2Proof.Machine
end

