-- ==== Sys2Proof/Machine/Vault.lean ====
section
/-!
DEFINITION. Vault.lean: keys, their region K entries, lookups, the commands of a writer (spec/11_vault.md, R317 to R337).
-/
namespace Sys2Proof.Machine

/-! ## Types and roles -/

/-- Value length of a type (Table 11.3); none for a reserved one and for CONT. -/
def vTypeLen (t : Nat) : Option Nat :=
  match t with
  | 0x01 => some 16 | 0x02 => some 24 | 0x03 => some 32 | 0x04 => some 64
  | 0x10 => some 32 | 0x11 => some 48 | 0x12 => some 66 | 0x13 => some 32 | 0x14 => some 48 | 0x15 => some 64
  | 0x20 => some 64 | 0x21 => some 96 | 0x22 => some 132 | 0x23 => some 64 | 0x24 => some 96 | 0x25 => some 128
  | 0x30 => some 260 | 0x31 => some 388 | 0x32 => some 516 | 0x40 => some 32
  | _ => none

/-- Public types. -/
def vPublic (t : Nat) : Bool := (decide (0x20 ≤ t) && decide (t ≤ 0x25)) || (decide (0x30 ≤ t) && decide (t ≤ 0x32)) || t == 0x7F

/-- Entries a type takes (Table 11.3). -/
def vEntries (t : Nat) : Nat := ceilDiv ((vTypeLen t).getD 1) 112

def vAes (t : Nat) : Bool := decide (1 ≤ t) && decide (t ≤ 3)
def vEcPriv (t : Nat) : Bool := decide (0x10 ≤ t) && decide (t ≤ 0x15)
def vEcPub (t : Nat) : Bool := decide (0x20 ≤ t) && decide (t ≤ 0x25)
def vRsa (t : Nat) : Bool := decide (0x30 ≤ t) && decide (t ≤ 0x32)

/-- A role admits a type (Table 11.4). -/
def roleAdmits (r t : Nat) : Bool :=
  match r with
  | 0x01 => vEcPub t
  | 0x02 => vEcPriv t || vEcPub t
  | 0x03 => vEcPriv t || vEcPub t
  | 0x04 => vEcPub t || vRsa t
  | 0x05 => vAes t
  | 0x06 => vAes t
  | 0x07 => t == 0x40
  | 0x08 => vAes t || t == 4
  | 0x09 => (vTypeLen t).isSome
  | 0x0A => (vTypeLen t).isSome
  | _ => false

/-- SESSION. -/
def roleSession : Byte := 8

/-! ## Modes (Tables 3.6, 11.6) -/

/-- A mode permits Vault use (R334). -/
def Mode.vaultUse (m : Mode) : Bool := m.running

/-- The status of a command or lookup that the mode does not permit (R334). -/
def Mode.vaultNo (m : Mode) : Nat := if m = .quarantine then 16 else 5

/-- STORE, GEN and ZEROIZE of a role. -/
def Mode.vaultStore (m : Mode) (role : Byte) : Bool :=
  match m with
  | .fit => true
  | .workshop => role == 6 || role == 8
  | .service | .inspect | .doze => role == 8
  | _ => false

/-- A role that may be written in the present mode and stage: from SEALED on none but SENSOR_PAIR and SESSION, so too between
the blow of LIFE SEAL and its reset (R84). -/
def State.vRoleOpen (s : State) (role : Byte) : Bool :=
  s.sys.mode.vaultStore role && (s.stage == .fit || role == 6 || role == 8)

/-- RETIRE and REVOKE. -/
def Mode.vaultRetire (m : Mode) : Bool := m == .fit || m == .workshop || m == .service

/-! ## Entries -/

/-- An entry. -/
def State.vEnt (s : State) (i : Nat) : VEntry := spGet {} s.vlt.ent i

/-- An entry rewritten under its present mask. -/
def State.vSet (s : State) (i : Nat) (e : VEntry) : State :=
  { s with vlt := { s.vlt with ent := spPut {} s.vlt.ent i e.seal } }

/-- An entry written under a fresh mask (R325). -/
def State.vWrite (s : State) (i : Nat) (e : VEntry) : State :=
  let (m, s1) := s.drbgWords 32
  s1.vSet i { e with mask := m }

/-- The head of an entry (R319). -/
def State.vHead (s : State) (i : Nat) : Nat := if (s.vEnt i).type = 0x7F then (s.vEnt i).pair.toNat else i

/-- The entries of a head with its continuations. -/
def State.vSpan (s : State) (i : Nat) : List Nat := (List.range (vEntries (s.vEnt i).type.toNat)).map (fun k => i + k)

/-- The value of a head entry, continuations included. -/
def State.vValue (s : State) (i : Nat) : List Byte :=
  ((s.vSpan i).flatMap (fun k => (s.vEnt k).value)).take ((vTypeLen (s.vEnt i).type.toNat).getD 0)

/-- The point of an EC_PUB entry. -/
def State.vPoint (s : State) (i : Nat) : Nat × Nat :=
  let v := s.vValue i
  (beNat (v.take (v.length / 2)), beNat (v.drop (v.length / 2)))

/-- Entries that are ACTIVE, and EMPTY (VLT_INFO). -/
def State.vActive (s : State) : Nat := (s.vlt.ent.filter (fun e => e.2.st == 1)).length
def State.vEmpty (s : State) : Nat := 256 - (s.vlt.ent.filter (fun e => e.2.st != 0)).length

/-! ## Region K (R331) -/

/-- Bits 40 to 55: the usage bits. -/
def useBits (u : BitVec 16) : BitVec 160 := (u.setWidth 160) <<< 40

/-- The bits every allow entry compares: role, forbidden usage, BYID and the rest above. -/
def allowMask (use : BitVec 16) : BitVec 160 :=
  ((0xFF : BitVec 160) <<< 32) ||| useBits (~~~use) ||| (BitVec.allOnes 160 <<< 56)

/-- Key ID and role of a key. -/
def idRole (id : Word) (role : Byte) : BitVec 160 := id.setWidth 160 ||| ((role.setWidth 160) <<< 32)

/-- The result word of an entry. -/
def kResult (i : Nat) (gen : BitVec 16) : Word := BitVec.ofNat 32 (i + 256 * gen.toNat)

/-- The ID entry of a key. -/
def idEntry (i : Nat) (e : VEntry) (prio : Byte) : SEntry :=
  { key := idRole e.keyid e.role ||| (1 : BitVec 160) <<< 56, mask := 0xFFFFFFFF ||| allowMask e.use, prio := prio,
    valid := true, keep := decide (e.role ≠ roleSession), region := .k, result := kResult i e.gen }

/-- The role entry of a key: the bits it ignores hold the key ID (log entry 26). -/
def roleEntry (i : Nat) (e : VEntry) (prio : Byte) : SEntry :=
  { key := idRole e.keyid e.role, mask := allowMask e.use, prio := prio, valid := true,
    keep := decide (e.role ≠ roleSession), region := .k, result := kResult i e.gen }

/-- The deny entry of a pattern. -/
def denyEntry (id : Word) (role : Byte) (use : BitVec 16) (any : Bool) : SEntry :=
  { key := idRole (if any then 0 else id) role
    mask := (if any then 0 else 0xFFFFFFFF) ||| ((0xFF : BitVec 160) <<< 32) ||| useBits (~~~use) |||
      (BitVec.allOnes 160 <<< 57)
    valid := true, deny := true, keep := true, region := .k }

/-- Region K can take `n` more entries (R324, R356). -/
def State.kRoom (s : State) (n : Nat) : Bool :=
  decide (s.strUsed .k + n ≤ s.strSize .k - s.strSize .k / s.strH)

/-- A region K write by the Vault, which takes its turn (R350): true where the Store Room refuses it (R325). -/
def State.kWrite (s : State) (e : SEntry) : Bool × State :=
  let u : SUpd := { req := .vault, ent := e, first := false }
  if s.str.wait.any u.follows then (false, { s with str := { s.str with wait := s.str.wait ++ [u] } })
  else match s.strInsert u false with
    | (.done _, s1) => (false, s1)
    | (.refused _, s1) => (true, s1)
    | (.waits, s1) => (false, { s1 with str := { s1.str with wait := s1.str.wait ++ [u] } })

/-- The allow entries of a Vault index, in region K. -/
def State.kOf (s : State) (i : Nat) : List (Nat × SEntry) :=
  (s.sList .k).filter (fun e => e.2.valid && !e.2.deny && e.2.result.toNat % 256 == i)

/-- One region K entry removed. -/
def State.kErase (s : State) (x : Nat × SEntry) : State := s.strInvalidate .vault x.2

/-- Both region K entries of an index removed, and writes of it that still wait. -/
def State.kRemove (s : State) (i : Nat) : State :=
  let s1 := { s with str := { s.str with wait := s.str.wait.filter (fun u =>
    decide (¬(u.req = SReq.vault ∧ u.inval = false ∧ u.ent.deny = false ∧ u.ent.result.toNat % 256 = i))) } }
  (s1.kOf i).foldl State.kErase s1

/-! ## STORE (R324, R325) -/

/-- The indices a role may take (R320). -/
def roleRange (role : Byte) : Nat × Nat := if role = roleSession then (240, 256) else (0, 240)

/-- A run of EMPTY entries stands at an index. -/
def State.vRun (s : State) (i n : Nat) : Bool := (List.range n).all (fun k => (s.vEnt (i + k)).st == 0)

/-- The index a STORE takes: FULL or INDEX where there is none. -/
def State.vPlace (s : State) (n : VNew) : Nat × Nat :=
  let k := vEntries n.type.toNat
  let (lo, hi) := roleRange n.role
  if n.auto then
    match ((List.range (hi - lo + 1 - k)).map (fun j => lo + j)).find? (fun i => s.vRun i k) with
    | some i => (0, i)
    | none => (9, 0)
  else
    let i := n.idx.toNat
    if lo ≤ i ∧ i + k ≤ hi ∧ s.vRun i k then (0, i) else (14, 0)

/-- The curve of an EC type. -/
def vCurve (t : Nat) : Option Curve := Curve.ofCode (t % 16)

/-- The first entry of a value that fails HCHK (R335). -/
def State.vBroken (s : State) (i : Nat) : Option Nat :=
  (s.vSpan i).find? (fun k => decide ((s.vEnt k).hchk ≠ (s.vEnt k).check))

/-- An entry of a value has BAD set. -/
def State.vBad (s : State) (i : Nat) : Bool := (s.vSpan i).any (fun k => (s.vEnt k).bad)

/-- The use of an entry (R335): CORRUPT where it has BAD set, and where it fails HCHK, which sets BAD; true where ECC_UNCORR is to
be raised once the requester is done. -/
def State.vUseEntry (s : State) (i : Nat) : Bool × Bool × State :=
  if s.vBad i then (false, false, s)
  else match s.vBroken i with
    | some k => (false, true, { s with vlt := { s.vlt with ent := spPut {} s.vlt.ent k { s.vEnt k with bad := true } } })
    | none => (true, false, s)

/-- The pair that an EC_PRIV names stands (R324). -/
def State.vPairOk (s : State) (n : VNew) (c : Curve) (d : Nat) : Bool :=
  let p := s.vEnt n.pair.toNat
  p.st == 1 && p.type.toNat == n.type.toNat + 16 && p.role == n.role && p.keyid == n.keyid &&
    c.mul d c.G == some (s.vPoint n.pair.toNat)

/-- The value of a STORE is one its type admits: RANGE or POINT where not, CORRUPT where the pair it names is (R335). -/
def State.vValueCode (s : State) (n : VNew) : Nat :=
  let t := n.type.toNat
  match vCurve t with
  | none => 0
  | some c =>
    if vEcPriv t then
      let d := beNat n.value
      if d = 0 ∨ c.n ≤ d then 11
      else if (s.vEnt n.pair.toNat).st = 1 ∧ (s.vBad n.pair.toNat ∨ (s.vBroken n.pair.toNat).isSome) then 4
      else if s.vPairOk n c d then 0 else 12
    else if vEcPub t then
      if c.valid (beNat (n.value.take c.len)) (beNat (n.value.drop c.len)) then 0 else 12
    else 0

/-- An entry of the same role, key ID and kind stands (R324). -/
def State.vDup (s : State) (n : VNew) : Bool :=
  s.vlt.ent.any (fun e => e.2.st != 0 && e.2.role == n.role && e.2.keyid == n.keyid &&
    vPublic e.2.type.toNat == vPublic n.type.toNat)

/-- The first refusal that holds, in the order of R324, or 0; and the index. -/
def State.vCheck (s : State) (n : VNew) : Nat × Nat :=
  let t := n.type.toNat
  if !s.vRoleOpen n.role then (s.sys.mode.vaultNo, 0)
  else match vTypeLen t with
    | none => (7, 0)
    | some l =>
      if !roleAdmits n.role.toNat t then (6, 0)
      else if n.len ≠ l then (8, 0)
      else if s.vDup n then (10, 0)
      else match s.vPlace n with
        | (0, i) =>
          let v := s.vValueCode n
          if v ≠ 0 then (v, 0)
          else if s.isSet RNG_STAT_FAIL || !s.strUpd .k then (13, 0)
          else if n.keyid = 0xFFFFFFFF then (17, 0)
          else if !s.kRoom (1 + b2n n.anyok) then (18, 0)
          else (0, i)
        | (x, _) => (x, 0)

/-- The generation count of an index after one more STORE (R317). -/
def State.vNextGen (s : State) (i : Nat) : Nat := Nat.min 0xFFFF (lkGet 0 s.vlt.gens i + 1)

/-- The pieces of a value enter an entry and its continuations (R319). -/
def State.vPieces (s : State) (n : VNew) (head : Nat) (gen : BitVec 16) : List Nat → List Byte → State
  | [], _ => s
  | i :: t, v =>
    let e : VEntry := {
      keyid := n.keyid, role := n.role, type := if i = head then n.type else 0x7F, use := n.use, gen := gen, st := 1,
      pair := if i ≠ head then BitVec.ofNat 8 head else if vEcPriv n.type.toNat then n.pair else 0xFF,
      value := (v ++ List.replicate 112 0).take 112 }
    let s1 := s.vWrite i e
    let s2 := { s1 with vlt := { s1.vlt with gens := lkPut s1.vlt.gens i (s1.vNextGen i) } }
    s2.vPieces n head gen t (v.drop 112)

/-- What a command changes in VLT_GEN (R326). -/
def State.vCount (s : State) (changed : List Nat) : State :=
  { s with vlt := { s.vlt with vgen := (s.vlt.vgen + 1) % 2 ^ 64, dirty := s.vlt.dirty ++ changed } }

/-- A permitted STORE: whether region K refused it, the entries changed, and the state. -/
def State.vStoreNow (s : State) (n : VNew) (i : Nat) : Bool × List Nat × State :=
  let idx := (List.range (vEntries n.type.toNat)).map (fun k => i + k)
  let s1 := s.vPieces n i (BitVec.ofNat 16 (s.vNextGen i)) idx n.value
  let priv := vEcPriv n.type.toNat
  let p := n.pair.toNat
  let s2 := if priv then s1.vSet p { s1.vEnt p with pair := BitVec.ofNat 8 i } else s1
  let changed := if priv then idx ++ [p] else idx
  let s3 := if n.role = roleSession then s2 else s2.vCount changed
  let e := s3.vEnt i
  let (r1, s4) := s3.kWrite (idEntry i e n.prio)
  let (r2, s5) := if n.anyok && !r1 then s4.kWrite (roleEntry i e n.prio) else (false, s4)
  (r1 || r2, changed, s5)

/-- A requester reads the end of its command. -/
def State.vEnd (s : State) (q : VReq) (code idx : Nat) : State :=
  match q with
  | .agent a => s.wrs [(VLT_STAT_STATE a, if code = 0 then 2 else 3), (VLT_STAT_CODE a, code), (VLT_STAT_IDX a, idx)]
  | _ => s

/-- A requester's command runs on. -/
def State.vBusy (s : State) (q : VReq) : State :=
  match q with
  | .agent a => s.wr (VLT_STAT_STATE a) 1
  | _ => s

/-- The Vault still waits for a region K write. -/
def State.kWaits (s : State) : Bool := s.str.wait.any (fun u => decide (u.req = SReq.vault))

/-- What a KEY record says of an entry (Table 18.6, bytes 10 to 17). -/
def VEntry.about (e : VEntry) : List Byte := e.keyid.bytes ++ [e.role, e.type] ++ leBytes 2 e.gen.toNat

/-- A command ends with a code: its KEY record (log entry 34), and what its requester reads. -/
def State.vJobEnd (s : State) (j : VJob) (code : Nat) : State :=
  let s1 := match j.req with
    | .agent a =>
      let who := match a with | .cpu0 => 0 | .cpu1 => 1 | _ => 2
      s.attic 5 ([BitVec.ofNat 8 j.cmd, BitVec.ofNat 8 j.idx] ++ j.about ++ [BitVec.ofNat 8 who, BitVec.ofNat 8 code])
    | _ => s
  s1.vEnd j.req code j.idx

/-- Commands that need no shadow update end once their region K entries are placed. -/
def State.vSettle (s : State) : State :=
  if s.kWaits then s
  else
    let s1 := { s with vlt := { s.vlt with jobs := s.vlt.jobs.filter (fun j => decide (j.changed ≠ [])) } }
    (s.vlt.jobs.filter (fun j => decide (j.changed = []))).foldl (fun s j => s.vJobEnd j j.code) s1

/-- A command that has changed entries goes on to its shadow update; one on a SESSION entry does not (R326). -/
def State.vJob (s : State) (q : VReq) (cmd idx code : Nat) (role : Byte) (changed : List Nat) (e : VEntry) : State :=
  let ch := if role = roleSession then [] else changed
  let j : VJob := { req := q, cmd := cmd, idx := idx, changed := ch, code := code, about := e.about }
  ({ s with vlt := { s.vlt with jobs := s.vlt.jobs ++ [j] } }.vBusy q).vSettle

/-- The pair that a refused STORE was about to use fails HCHK: BAD is set, and ECC_UNCORR follows once the STORE has ended
(R335). -/
def State.vPairUse (s : State) (n : VNew) (code : Nat) : Bool × State :=
  if code = 4 then (s.vUseEntry n.pair.toNat).2 else (false, s)

/-- A STORE. -/
def State.vStore (s : State) (q : VReq) (n : VNew) : State :=
  match s.vCheck n with
  | (0, i) =>
    let (refused, changed, s1) := s.vStoreNow n i
    s1.vJob q 1 i (if refused then 19 else 0) n.role changed (s1.vEnt i)
  | (code, _) =>
    let (ecc, s1) := s.vPairUse n code
    let s2 := s1.vEnd q code 0
    if ecc then s2.eccUncorr else s2

/-- The key that a waiting region K write belongs to has an entry equal to it. -/
def State.kPlaced (s : State) (e : SEntry) : Bool := (s.sList .k).any (fun x => decide (x.2 = e.sealed))

/-- INSERT_RESUME for the Vault's writes too: one refused now ends its STORE with KREFUSED (R325). -/
def State.vResume (s : State) : State :=
  let s1 := s.insertResume
  let lost := s.str.wait.filter (fun u => decide (u.req = SReq.vault) && !u.inval && !s1.str.wait.contains u && !s1.kPlaced u.ent)
  let hit (j : VJob) : Bool := lost.any (fun u =>
    let i := u.ent.result.toNat % 256
    if u.ent.deny then j.cmd == 7
    else (j.cmd == 1 && j.idx == i) || (j.cmd == 11 && (j.idx == i || (s1.vEnt j.idx).pair.toNat == i)))
  { s1 with vlt := { s1.vlt with jobs := s1.vlt.jobs.map (fun j =>
      if hit j && j.code == 0 then { j with code := 19 } else j) } }.vSettle

/-! ## RETIRE, REVOKE, ZEROIZE (R328) -/

/-- RETIRE or REVOKE: the state of an entry and its continuations. -/
def State.vState (s : State) (l : List Nat) (st : BitVec 2) : State :=
  l.foldl (fun s i => s.vSet i { s.vEnt i with st := st }) s

def State.vRetire (s : State) (q : VReq) (idx : Nat) (revoke : Bool) : State :=
  let i := s.vHead idx
  let e := s.vEnt i
  if !s.sys.mode.vaultRetire then s.vEnd q s.sys.mode.vaultNo 0
  else if e.st = 1 ∨ (revoke ∧ e.st = 2) then
    let l := s.vSpan i
    let s1 := s.vState l (if revoke then 3 else 2)
    let s2 := if e.role = roleSession then s1 else s1.vCount l
    s2.vJob q (if revoke then 4 else 3) i 0 e.role l e
  else s.vEnd q 14 0

/-- ZEROIZE. -/
def State.vZeroize (s : State) (q : VReq) (idx : Nat) : State :=
  let i := s.vHead idx
  let e := s.vEnt i
  if !s.sys.mode.vaultUse then s.vEnd q s.sys.mode.vaultNo 0
  else if e.st = 0 then s.vEnd q 14 0
  else if !s.sys.mode.vaultStore e.role then s.vEnd q s.sys.mode.vaultNo 0
  else if e.st = 1 ∧ e.role ≠ roleSession then s.vEnd q 14 0
  else if !s.strUpd .k then s.vEnd q 13 0
  else
    let l := s.vSpan i
    let s1 := { s with vlt := { s.vlt with ent := l.foldl spErase s.vlt.ent } }
    let s2 := (if e.role = roleSession then s1 else s1.vCount l).kRemove i
    s2.vJob q 5 i 0 e.role l e

/-! ## Lookup (R332) -/

/-- Who makes a lookup: CON, or another requester. -/
inductive VUser where
  | con | other
deriving DecidableEq, Repr

/-- The outcome of a lookup; `ecc` asks for ECC_UNCORR once the requester is done (R335). -/
structure VLook where
  code : Nat
  idx : Nat := 0
  multi : Bool := false
  ecc : Bool := false
deriving DecidableEq, Repr

/-- The search key of a lookup (Table 11.7). -/
def lookKey (role : Byte) (id : Word) (op : Nat) : BitVec 160 :=
  let byid := id != 0xFFFFFFFF
  idRole (if byid then id else 0) role ||| (BitVec.ofNat 160 (2 ^ (40 + op % 16))) |||
    (if byid then (1 : BitVec 160) <<< 56 else 0)

/-- The lookup; the use checks the entry and its continuations (R335). -/
def State.vLookup (s : State) (who : VUser) (role : Byte) (id : Word) (op : Nat) : VLook × State :=
  let m := s.sys.mode
  let cred := who == .con && role == 7
  if !(m.vaultUse || m == .rise || (cred && (m == .hold || m == .quarantine))) then ({ code := m.vaultNo }, s)
  else
    let (a, s1) := s.strSearch .k (lookKey role id op) cred
    if a.isBusy then ({ code := 13 }, s1)
    else if a.deny then ({ code := 2 }, s1)
    else if a.none then ({ code := 1 }, s1)
    else
      let i := a.result.toNat % 256
      let e := s1.vEnt i
      if e.st ≠ 1 ∨ e.gen.toNat ≠ a.result.toNat / 256 % 65536 ∨ e.role ≠ role then ({ code := 3 }, s1)
      else match s1.vUseEntry i with
        | (true, _, s2) => ({ code := 0, idx := i, multi := a.multi }, s2)
        | (false, ecc, s2) => ({ code := 4, ecc := ecc }, s2)

/-- The entry used is still ACTIVE with an unchanged GEN (R385). -/
def State.vStill (s : State) (k : Nat × BitVec 16) : Bool := (s.vEnt k.1).st == 1 && (s.vEnt k.1).gen == k.2

/-! ## A writer's commands -/

/-- What a core has staged (R323): a staged length rounds a value length up to words (log entry 27). -/
def State.vStaged (s : State) (a : Agent) : VNew :=
  let w := s.vlt.wr.at (finOf 4 a.code)
  let t := s.rd (VLT_STG_TYPE a)
  let l := (vTypeLen t).getD 0
  let len := if w.len = (l + 3) / 4 * 4 then l else if w.len = l then w.len + 1 else w.len
  { keyid := BitVec.ofNat 32 (s.rd (VLT_STG_ID a)), role := BitVec.ofNat 8 (s.rd (VLT_STG_ROLE a)), type := BitVec.ofNat 8 t,
    use := BitVec.ofNat 16 (s.rd (VLT_STG_USE a)), prio := BitVec.ofNat 8 (s.rd (VLT_STG_PRIO a)),
    anyok := s.isSet (VLT_STG_ANYOK a), auto := s.isSet (VLT_STG_AUTOIDX a), idx := BitVec.ofNat 8 (s.rd (VLT_STG_IDX a)),
    pair := BitVec.ofNat 8 (s.rd (VLT_STG_PAIR a)), value := (List.range l).map (fun i => spGet 0 w.buf i), len := len }

/-- A writer's staging buffer and window changed. -/
def State.vWr (s : State) (a : Agent) (f : VWriter → VWriter) : State :=
  { s with vlt := { s.vlt with wr := s.vlt.wr.upd (finOf 4 a.code) f } }

/-- The staging buffer cleared (R325). -/
def State.vClearBuf (s : State) (a : Agent) : State := s.vWr a (fun w => { w with buf := [], len := 0 })

/-- READ (R330). -/
def State.vRead (s : State) (a : Agent) (i : Nat) : State :=
  let e := s.vEnt i
  let h := s.vHead i
  let win := if vPublic e.type.toNat ∧ e.st ≠ 0 then s.vValue h else []
  let s1 := wrWords (VLT_HDR a) (((List.range 4).map (fun k => Word.ofBytes ((e.head ++ e.hchk.bytes).drop (4 * k))))) s
  ((s1.vWr a (fun w => { w with win := win })).wr (VLT_WINOFF a) 0).vEnd (.agent a) 0 i

/-- LOOKUP: the outcome in VLT_LKRES and VLT_STAT. -/
def State.vLookCmd (s : State) (a : Agent) (role : Byte) (id : Word) (op : Nat) : State :=
  let who : VUser := if a = .con then .con else .other
  let (l, s1) := s.vLookup who role id op
  let s2 := if l.code = 0 then s1.wrs [(VLT_LKRES_IDX a, l.idx), (VLT_LKRES_MULTI a, b2n l.multi)] else s1
  let s3 := s2.vEnd (.agent a) l.code l.idx
  if l.ecc then s3.eccUncorr else s3

/-- The deny entry of a command. -/
def VCmd.pattern (c : VCmd) : SEntry := denyEntry c.dnId c.dnRole c.dnUse c.dnAny

/-- DENY: a further deny entry in region K. -/
def State.vDeny (s : State) (c : VCmd) : State :=
  let q := VReq.agent c.agent
  let e := c.pattern
  if !s.sys.mode.vaultUse then s.vEnd q s.sys.mode.vaultNo 0
  else if !s.strUpd .k then s.vEnd q 13 0
  else if (s.sList .k).any (fun x => x.2.valid && x.2.key == e.key && x.2.mask == e.mask && x.2.prio == e.prio) then s.vEnd q 10 0
  else if !s.kRoom 1 then s.vEnd q 18 0
  else
    let (refused, s1) := s.kWrite e
    s1.vJob q 7 0 (if refused then 19 else 0) roleSession [] { keyid := c.dnId, role := c.dnRole }

/-- UNDENY: the deny entry equal to the pattern goes (log entry 28). -/
def State.vUndeny (s : State) (c : VCmd) : State :=
  let q := VReq.agent c.agent
  let e := c.pattern
  if s.sys.mode ≠ .fit then s.vEnd q s.sys.mode.vaultNo 0
  else if !s.strUpd .k then s.vEnd q 13 0
  else match (s.sList .k).find? (fun x => x.2.valid && x.2.deny && x.2.key == e.key && x.2.mask == e.mask) with
    | none => s.vEnd q 1 0
    | some x => (s.kErase x).vJob q 8 0 0 roleSession [] { keyid := c.dnId, role := c.dnRole }

/-- UNANY: the role entry of an index goes. -/
def State.vUnany (s : State) (a : Agent) (idx : Nat) : State :=
  let q := VReq.agent a
  let i := s.vHead idx
  if s.sys.mode ≠ .fit then s.vEnd q s.sys.mode.vaultNo 0
  else if (s.vEnt i).st = 0 then s.vEnd q 14 0
  else if !s.strUpd .k then s.vEnd q 13 0
  else match (s.kOf i).find? (fun x => !x.2.key.getLsbD 56) with
    | none => s.vEnd q 1 0
    | some x => (s.kErase x).vJob q 9 i 0 roleSession [] (s.vEnt i)

/-- What refuses GEN before its program starts (R327): 0 where nothing does. -/
def State.vGenCheck (s : State) (n : VNew) : Nat :=
  if !s.vRoleOpen n.role then s.sys.mode.vaultNo
  else if !vEcPriv n.type.toNat then 7
  else if !(n.role == 2 || n.role == 3 || n.role == 9 || n.role == 10) then 6
  else if s.isSet RNG_STAT_FAIL then 13
  else if n.keyid = 0xFFFFFFFF then 17
  else 0

/-- The public half of a pair (R327). -/
def VNew.pubHalf (n : VNew) (c : Curve) (x y : Nat) : VNew :=
  { n with type := n.type + 16, use := (n.use &&& 0xFF80) ||| 2, auto := true, pair := 0xFF,
           value := beBytes c.len x ++ beBytes c.len y, len := 2 * c.len }

/-- The private half, paired with the entry of the public one. -/
def VNew.privHalf (n : VNew) (c : Curve) (i d : Nat) : VNew :=
  { n with use := n.use &&& 0xFFFD, auto := true, pair := BitVec.ofNat 8 i, value := beBytes c.len d, len := c.len }

/-- A KEYGEN program has ended for a writer with a scalar and its point: both halves are stored, one STORE each, the public one
first; a private half that is refused ends the command, and the public half stands (R327). -/
def State.vGenDone (s : State) (a : Agent) (d x y : Nat) : State :=
  match s.vlt.gen.find? (fun e => decide (e.1 = a)) with
  | none => s
  | some (_, n) =>
    let s1 := { s with vlt := { s.vlt with gen := s.vlt.gen.filter (fun e => decide (e.1 ≠ a)) } }
    match vCurve n.type.toNat with
    | none => s1.vEnd (.agent a) 7 0
    | some c =>
      let pub := n.pubHalf c x y
      match s1.vCheck pub with
      | (0, i) =>
        let (r1, ch1, s2) := s1.vStoreNow pub i
        let priv := n.privHalf c i d
        match s2.vCheck priv with
        | (0, j) =>
          let (r2, ch2, s3) := (s2.vJob .half 1 i 0 n.role ch1 (s2.vEnt i)).vStoreNow priv j
          s3.vJob (.agent a) 11 j (if r1 || r2 then 19 else 0) n.role ch2 (s3.vEnt j)
        | (code, _) =>
          let (ecc, s3) := s2.vPairUse priv code
          let s4 := s3.vJob (.agent a) 11 i code n.role ch1 (s3.vEnt i)
          if ecc then s4.eccUncorr else s4
      | (code, _) => s1.vEnd (.agent a) code 0

/-! ## The value window (R323, R330) -/

/-- The word VLT_WIN shows at the window offset. -/
def State.winWord (s : State) (a : Agent) : Word :=
  let w := s.vlt.wr.at (finOf 4 a.code)
  Word.ofBytes ((w.win.drop (4 * s.rd (VLT_WINOFF a))).take 4)

/-- Four bytes staged at the window offset; offset and, for a read as for a write, its advance (log entry 29). -/
def State.winAccess (s : State) (a : Agent) (v : Option Word) : State :=
  let off := 4 * s.rd (VLT_WINOFF a)
  let s1 := match v with
    | some x => s.vWr a (fun w => { w with
        buf := (List.range 4).foldl (fun b k => spPut 0 b (off + k) (x.bytes.getD k 0)) w.buf
        len := Nat.max w.len (off + 4) })
    | none => s
  s1.wr (VLT_WINOFF a) (s.rd (VLT_WINOFF a) + 1)

/-! ## Re-masking (R336) -/

/-- Ticks between passes (Table 11.11). -/
def State.remaskPer (s : State) : Nat := Nat.max 256 (s.rd VLT_CFG_REMASK_PER)

/-- One entry treated: it stands in the swing buffer while its planes are written under a fresh mask. -/
def State.remaskOne (s : State) (i : Nat) : State :=
  let e := s.vEnt i
  let s1 := if e.st = 0 then s
    else
      let (m, s2) := { s with vlt := { s.vlt with swing := some (i, e) } }.drbgWords 32
      { s2 with vlt := { s2.vlt with ent := spPut {} s2.vlt.ent i { e with mask := m }, swing := none } }
  s1.wr VLT_REMASK_PTR (i + 1)

/-- The pass has treated the last entry. -/
def State.remaskEnd (s : State) : State :=
  { s.wr VLT_REMASK_PASSES (s.rd VLT_REMASK_PASSES + 1) with
    vlt := { s.vlt with pass := false }
    care := { s.care with period := { s.care.period with remask := s.care.period.remask + 1 } } }

/-- The 16 entries of one tick. -/
def State.remaskStep (s : State) : State :=
  if !s.vlt.pass || s.isSet RNG_STAT_FAIL then s
  else
    let p := s.rd VLT_REMASK_PTR
    let n := Nat.min 16 (256 - p)
    let s1 := (List.range n).foldl (fun s k => s.remaskOne (p + k)) s
    if p + n = 256 then s1.remaskEnd else s1

/-- A tick is counted toward the next pass (R336). -/
def State.remaskTick (s : State) : State := { s with vlt := { s.vlt with ticks := s.vlt.ticks + 1 } }

/-- A pass begins: one period after the latest, in the main domain, and not while RNG_FAIL is active (R336, R337). -/
def State.remaskStart (s : State) : State :=
  if s.isSet RNG_STAT_FAIL || !s.mainUp || s.vlt.pass || decide (s.vlt.ticks < s.remaskPer) then s
  else { s with vlt := { s.vlt with pass := true, ticks := 0 } }

/-! ## Meanings -/

/-- VLT_WIN_ACCESS (R323). -/
def execVltWinAccess (c : CpuId) (v : Option Word) (s : State) : Host.Outcome State Fault Refusal :=
  .next (s.byCore c (fun s =>
    let s1 := if v.isNone then s.loaded c (s.winWord c.agent) else s
    s1.winAccess c.agent v))
/-- REMASK_PASS_START (R336). -/
def execRemaskPassStart (s : State) : Host.Outcome State Fault Refusal := .next s.remaskStart

end Sys2Proof.Machine
end

