-- ==== Sys2Proof/Machine/Window.lean ====
section
/-!
DEFINITION. Window.lean: the layout of the Archive and the window through which cores and engines read it (R437, R438), the
public shelves (R373), and what a bus read returns.
-/
namespace Sys2Proof.Machine

/-- Index of an image kind in the slot tables. -/
def ImgKind.idx : ImgKind → Fin 3
  | .fw => 0 | .uc => 1 | .app => 2

/-- Index of an image slot. -/
def imgIdx (k : ImgKind) (n : Fin 2) : Fin 6 := finOf 6 (2 * k.code + n.val)

/-- Size of an image slot (Table 15.6). -/
def ImgKind.size : ImgKind → Nat
  | .fw => 0x40000 | .uc => 0x8000 | .app => 0x20000

/-- Physical offset of an image slot (Table 15.6). -/
def imgOff (k : ImgKind) (n : Fin 2) : Nat :=
  (match k with | .fw => 0 | .uc => 0x80000 | .app => 0x90000) + k.size * n.val

/-- The physical offset that a window offset shows; none where the window reads 0 (Table 15.7). -/
def State.winPhys (s : State) (w : Nat) : Option Nat :=
  if w < 0x40000 then some (imgOff .fw (s.nv.active.at 0) + w)
  else if w < 0x60000 then some (imgOff .app (s.nv.active.at 2) + w % 0x20000)
  else if w < 0x100000 then none
  else if w < 0x200000 then some w
  else if w < 0x2C0000 then none
  else if w < 0x400000 then some w
  else none

/-- A byte of the window. -/
def State.winB (s : State) (w : Nat) : Byte :=
  match s.winPhys w with | some p => s.arcB p | none => 0

/-- Bytes of a shelf: LEN below 4 acts as 4, above 64 as 64 (Table 13.9). -/
def State.shelfBytes (s : State) : Nat := 8 * Nat.max 4 (Nat.min 64 (s.rd PKE_SHELFCFG_LEN))

/-- Public shelves, PKE_SHELFCFG.COUNT. -/
def State.shelfCount (s : State) : Nat := 16384 / s.shelfBytes

/-- A byte of the public bank: those beyond the last shelf read 0 (R373). -/
def State.shelfB (s : State) (off : Nat) : Byte := if off < s.shelfCount * s.shelfBytes then s.getB (shelfBase + off) else 0

/-- The byte that a bus read of SRAM, the window, the Larder, crate RAM or the shelves returns. -/
def State.busB (s : State) (a : Nat) : Byte :=
  if arcBase ≤ a ∧ a < arcBase + 0x400000 then s.winB (a % 0x10000000)
  else if shelfBase ≤ a ∧ a < shelfBase + 0x4000 then s.shelfB (a - shelfBase) else s.getB a

/-- Bytes of a bus read. -/
def State.busBytes (s : State) (a n : Nat) : List Byte := (List.range n).map (fun i => s.busB (a + i))

/-- An address range lies within a region. -/
def within (a n base size : Nat) : Bool := decide (base ≤ a) && decide (a + n ≤ base + size)

/-- A range lies in SRAM; in SRAM, the window or the shelves; in SRAM or the shelves. -/
def inSram (a n : Nat) : Bool := within a n sramBase 0x40000
def inShelf (a n : Nat) : Bool := within a n shelfBase 0x4000
def inWindow (a n : Nat) : Bool := within a n arcBase 0x400000

end Sys2Proof.Machine
end

