-- ==== Sys2Proof/Machine/Pke.lean ====
section
/-!
DEFINITION. Pke.lean: the public-key engine (spec/13_public_key_engine.md, R368 to R398). An operation reads its inputs when
its pipe begins it; PKE_OP_COMPLETE ends the part that a pipe serves (log entry 30): the candidate of an S-pipe program passes the
hand-off port, a checked one or a P-pipe result is released or withheld.
-/
namespace Sys2Proof.Machine

/-! ## Shelves (R373, R374) -/

/-- Shelves of an operand of `l` bytes. -/
def State.shelfSpan (s : State) (l : Nat) : Nat := ceilDiv l s.shelfBytes

/-- An operand stands within the bank. -/
def State.shelfFits (s : State) (sh l : Nat) : Bool := decide (sh + s.shelfSpan l ≤ s.shelfCount)

/-- The first byte of a shelf within the bank. -/
def State.shelfOff (s : State) (sh : Nat) : Nat := sh * s.shelfBytes

/-- The `l` bytes of an operand. -/
def State.shelfGet (s : State) (sh l : Nat) : List Byte := s.getBytes (shelfBase + s.shelfOff sh) l

/-- An operand as a number, big-endian. -/
def State.shelfNat (s : State) (sh l : Nat) : Nat := beNat (s.shelfGet sh l)

/-- An output operand: its bytes, and 0 to the end of its shelves. -/
def State.shelfOut (s : State) (sh l v : Nat) : Nat × List Byte :=
  let n := s.shelfSpan l * s.shelfBytes
  (s.shelfOff sh, beBytes l v ++ List.replicate (n - l) 0)

/-- The byte range of an operand's shelves. -/
def State.shelfRange (s : State) (sh l : Nat) : Nat × Nat := (s.shelfOff sh, s.shelfOff sh + s.shelfSpan l * s.shelfBytes)

/-- Two byte ranges meet. -/
def meet (a b : Nat × Nat) : Bool := decide (a.1 < b.2) && decide (b.1 < a.2)

/-! ## The command block (Table 13.3) -/

/-- The words of a requester's block: W0 to W3, and W5 to W7 of a job's. -/
def State.pkeWords (s : State) (r : EngReq) (blk : Nat) : List Word :=
  match r with
  | .direct c => (finList 4).map (fun k => BitVec.ofNat 32 (s.rd (PKE_DW c k)))
  | _ => [0, 4, 8, 12, 20, 24, 28].map (fun o => s.getW (blk + o))

/-- The SRAM address of a job's block. -/
def State.pkeBlk (s : State) (j : JobId) : Nat :=
  let arg := match s.tick.inst.at j with | some i => i.arg.toNat | none => s.rd (TICK_JOB_ARG j)
  32 * s.rd PKE_CBASE + 32 * arg

/-- The fields of a block. -/
def pkeArgs (w : List Word) : Nat × PkeArgs :=
  let w0 := (w.getD 0 0).toNat
  let w2 := (w.getD 2 0).toNat
  let w3 := (w.getD 3 0).toNat
  (bits w0 0 8, {
    curve := BitVec.ofNat 4 (bits w0 8 4), src := bitAt w0 12, pss := bitAt w0 13, nw := BitVec.ofNat 8 (bits w0 16 8),
    role := BitVec.ofNat 8 (bits w0 24 8), keyid := w.getD 1 0,
    sa := BitVec.ofNat 10 (bits w2 0 10), sb := BitVec.ofNat 10 (bits w2 16 10),
    sc := BitVec.ofNat 10 (bits w3 0 10), sd := BitVec.ofNat 10 (bits w3 16 10) })

/-- Bits the table does not name are 0. -/
def pkeReserved (w : List Word) : Bool :=
  (w.getD 0 0).toNat / 2 ^ 14 % 4 == 0 &&
  [2, 3].all (fun i => bits (w.getD i 0).toNat 10 6 == 0 && bits (w.getD i 0).toNat 26 6 == 0) &&
  (w.drop 4).all (· == 0)

/-- Operations of Table 13.4. -/
def opLevel1 (op : Nat) : Bool := decide (1 ≤ op) && decide (op ≤ 8)
def opSpipe (op : Nat) : Bool := op == 0x10 || op == 0x12 || op == 0x13
def opKnown (op : Nat) : Bool := opLevel1 op || (decide (0x10 ≤ op) && decide (op ≤ 0x15))

/-! ## What a block names (R374, R377, R379) -/

/-- Operands by first shelf and length: the inputs, and the outputs. -/
structure PkeIo where
  ins : List (Nat × Nat) := []
  outs : List (Nat × Nat) := []

/-- Bytes of an RSA modulus. -/
def rsaLen (cv : Nat) : Nat := match cv with | 8 => 256 | 9 => 384 | _ => 512

/-- The operands of an operation by its block; none where NW or CURVE is one it does not take. -/
def State.pkeIo (s : State) (op : Nat) (a : PkeArgs) : Option PkeIo :=
  let A := a.sa.toNat
  let B := a.sb.toNat
  let C := a.sc.toNat
  let D := a.sd.toNat
  let nw := a.nw.toNat
  if opLevel1 op then
    let l := 4 * nw
    if nw = 0 ∨ 128 < nw then none
    else some {
      ins := [(A, if op = 4 then 2 * l else l)] ++ (if op = 1 ∨ op = 2 ∨ op = 3 ∨ op = 6 ∨ op = 7 then [(B, l)] else []) ++
        (if op ≤ 6 then [(D, l)] else [])
      outs := if op = 7 then [] else [(C, l)] }
  else if op = 0x15 then
    let l := rsaLen a.curve.toNat
    match rsaHash nw with
    | none => none
    | some h =>
      if a.curve.toNat < 8 then none
      else some { ins := [(A, h.len), (C, l)] ++ (if a.src then [(B, l), (D, 4)] else []) }
  else match Curve.ofCode a.curve.toNat with
    | none => none
    | some c =>
      let pt (sh : Nat) : List (Nat × Nat) := [(sh, c.len), (sh + s.shelfSpan c.len, c.len)]
      if op = 0x10 ∨ op = 0x11 then
        if nw < 4 ∨ 16 < nw then none
        else if op = 0x10 then some { ins := [(A, 4 * nw)], outs := pt C }
        else some { ins := [(A, 4 * nw)] ++ pt C ++ (if a.src then pt B else []) }
      else if nw ≠ 0 then none
      else if op = 0x12 then some { ins := pt A, outs := [(C, c.len)] }
      else if op = 0x13 then some {}
      else some { ins := pt A }

/-- Every operand stands in the bank, and a program's inputs are disjoint from its outputs. -/
def State.pkeIoOk (s : State) (op : Nat) (x : PkeIo) : Bool :=
  (x.ins ++ x.outs).all (fun e => s.shelfFits e.1 e.2) &&
  (opLevel1 op || x.ins.all (fun i => x.outs.all (fun o => !meet (s.shelfRange i.1 i.2) (s.shelfRange o.1 o.2))))

/-! ## P-pipe operations -/

/-- What an operation comes to: the codes, the output operands as shelf, length and value, the key used. -/
structure PkeRes where
  code : Nat := 0
  vcode : Nat := 0
  cmp : Nat := 0
  out : List (Nat × Nat × Nat) := []
  key : Option (Nat × BitVec 16) := none
  digest : Nat := 0
  ecc : Bool := false

/-- ARG. -/
def PkeRes.arg : PkeRes := { code := 5 }

/-- A Level 1 primitive (R379). -/
def State.pkeLevel1 (s : State) (op : Nat) (a : PkeArgs) : PkeRes :=
  let l := 4 * a.nw.toNat
  let x := s.shelfNat a.sa.toNat (if op = 4 then 2 * l else l)
  let y := s.shelfNat a.sb.toNat l
  let m := s.shelfNat a.sd.toNat l
  let res (v : Nat) : PkeRes := { out := [(a.sc.toNat, l, v)] }
  if op ≤ 6 ∧ (m % 2 = 0 ∨ m ≤ 1) then .arg
  else if (op = 1 ∨ op = 2 ∨ op = 3) ∧ (m ≤ x ∨ m ≤ y) then .arg
  else if (op = 5 ∨ op = 6) ∧ m ≤ x then .arg
  else match op with
    | 1 => res ((x + y) % m)
    | 2 => res ((x + m - y) % m)
    | 3 => res (x * y % m)
    | 4 => res (x % m)
    | 5 => match invMod x m with
      | some v => res v
      | none => { res 0 with code := 12 }
    | 6 => res (powMod x y m)
    | 7 => { cmp := if x = y then 0 else if x < y then 1 else 2 }
    | _ => res x

/-- A key for an operation: KEY with its status, ARG for another curve, or the entry (R381). -/
def State.pkeKey (s : State) (a : PkeArgs) (usage type : Nat) : PkeRes × Option Nat × State :=
  let (l, s1) := s.vLookup .other a.role a.keyid usage
  let t := (s1.vEnt l.idx).type.toNat
  if l.code ≠ 0 then ({ code := 4, vcode := l.code, ecc := l.ecc }, none, s1)
  else if t / 16 ≠ type / 16 then ({ code := 4, vcode := 7 }, none, s1)
  else if t ≠ type then (.arg, none, s1)
  else ({ key := some (l.idx, (s1.vEnt l.idx).gen) }, some l.idx, s1)

/-- A point operand. -/
def State.shelfPoint (s : State) (sh : Nat) (c : Curve) : Nat × Nat := (s.shelfNat sh c.len, s.shelfNat (sh + s.shelfSpan c.len) c.len)

/-- ECDSA_VERIFY (R382). -/
def State.pkeVerify (s : State) (a : PkeArgs) (c : Curve) : PkeRes × State :=
  let e := c.digest (s.shelfGet a.sa.toNat (4 * a.nw.toNat))
  let (r, t) := s.shelfPoint a.sc.toNat c
  if a.src then
    let p := s.shelfPoint a.sb.toNat c
    if !c.valid p.1 p.2 then ({ code := 2 }, s) else ({ code := if c.verify (some p) e r t then 0 else 1 }, s)
  else match s.pkeKey a 1 (0x20 + a.curve.toNat) with
    | (q, some i, s1) => ({ q with code := if c.verify (some (s1.vPoint i)) e r t then 0 else 1 }, s1)
    | (q, none, s1) => (q, s1)

/-- POINT_CHECK (R384). -/
def State.pkePoint (s : State) (a : PkeArgs) (c : Curve) : PkeRes :=
  let p := s.shelfPoint a.sa.toNat c
  { code := if c.valid p.1 p.2 then 0 else 2 }

/-- RSA_VERIFY (R383): a modulus that has not the bits of its size is refused (log entry 31). -/
def State.pkeRsa (s : State) (a : PkeArgs) : PkeRes × State :=
  let l := rsaLen a.curve.toNat
  match rsaHash a.nw.toNat with
  | none => (.arg, s)
  | some h =>
    let go (r : PkeRes) (n e : Nat) : PkeRes :=
      if e % 2 = 0 ∨ e < 3 ∨ n < 2 ^ (8 * l - 1) then .arg
      else { r with code := if rsaVerify a.pss h (s.shelfGet a.sa.toNat h.len) l n e (s.shelfNat a.sc.toNat l) then 0 else 1 }
    if a.src then (go {} (s.shelfNat a.sb.toNat l) (s.shelfNat a.sd.toNat 4), s)
    else match s.pkeKey a 1 (0x30 + (a.curve.toNat - 8)) with
      | (r, some i, s1) =>
        let v := s1.vValue i
        (go r (beNat (v.take l)) (beNat (v.drop l)), s1)
      | (r, none, s1) => (r, s1)

/-! ## The sealed bank and the S-pipe (R369, R370) -/

/-- Shelf `k` of a context (log entry 80): 0 the scalar under its mask, 1 the mask, 2 the blinding ρ, 3 and 4 the blinded scalar
of the multiplication, low and high, 5 to 7 the starting X, Y and Z. -/
def zShelf (c : Fin 8) (k : Nat) : Fin 112 := finOf 112 (14 * c.val + k)

/-- A shelf of a context as a number. -/
def State.zGet (s : State) (c : Fin 8) (k : Nat) : Nat := (s.eng.sealed.at (zShelf c k)).toNat

/-- Shelves of a context written. -/
def State.zPut (s : State) (c : Fin 8) (l : List (Nat × Nat)) : State :=
  { s with eng := { s.eng with sealed := l.foldl (fun z e => z.put (zShelf c e.1) (BitVec.ofNat 576 e.2)) s.eng.sealed } }

/-- A context zeroized. -/
def State.zClear (s : State) (c : Fin 8) : State := s.zPut c ((List.range 14).map (fun k => (k, 0)))

/-- `n` words of the DRBG as one number. -/
def State.drawNat (s : State) (n : Nat) : Nat × State :=
  let (w, s1) := s.drbgWords n
  (beNat (w.flatMap Word.bytes), s1)

/-- A number from 1 to `m` − 1, uniform by rejection (R381): draws of as many bits as `m` has, until one lies there (log entry
80). -/
def State.drawBelow (m : Nat) : Nat → State → Nat × State
  | 0, s => (1, s)
  | f + 1, s =>
    let b := Nat.log2 m + 1
    let (x, s1) := s.drawNat (ceilDiv b 32)
    let y := x % 2 ^ b
    if 0 < y ∧ y < m then (y, s1) else drawBelow m f s1

/-- Draws after which rejection gives up. -/
@[irreducible] def drawTries : Nat := 1024

/-- The secret scalar enters its context masked. -/
def State.zLoad (s : State) (c : Fin 8) (d : Nat) : State :=
  let (m, s1) := s.drawNat 18
  s1.zPut c [(0, d ^^^ m), (1, m)]

/-- The secret scalar of a context. -/
def State.zScalar (s : State) (c : Fin 8) : Nat := s.zGet c 0 ^^^ s.zGet c 1

/-- The multiplication of a point by a secret `k` is set up: `k` blinded as k + ρ·n with a fresh 64-bit ρ, the point in
projective coordinates with a random Z (R369). -/
def State.zMulStart (s : State) (c : Fin 8) (cv : Curve) (k : Nat) (P : Nat × Nat) : State :=
  let (r, s1) := s.drawNat 2
  let (z, s2) := State.drawBelow cv.p drawTries s1
  let b := k + r * cv.n
  s2.zPut c [(2, r), (3, b % 2 ^ 576), (4, b / 2 ^ 576), (5, P.1 * (z * z) % cv.p), (6, P.2 * (z * z * z) % cv.p), (7, z)]

/-- The blinded scalar of a context. -/
def State.zBlind (s : State) (c : Fin 8) : Nat := s.zGet c 3 + 2 ^ 576 * s.zGet c 4

/-- A projective point in affine coordinates: X / Z², Y / Z³. -/
def Curve.affine (c : Curve) (x y z : Nat) : Nat × Nat :=
  let w := (invMod z c.p).getD 0
  (x * (w * w) % c.p, y * (w * w * w) % c.p)

/-- The product that a context's multiplication ends with. -/
def State.zMul (s : State) (c : Fin 8) (cv : Curve) : Pt :=
  cv.mul (s.zBlind c) (some (cv.affine (s.zGet c 5) (s.zGet c 6) (s.zGet c 7)))

/-- A nonce is drawn, and its multiplication of the base point set up. -/
def State.zNonce (s : State) (c : Fin 8) (cv : Curve) : State :=
  let (k, s1) := State.drawBelow cv.n drawTries s
  s1.zMulStart c cv k (cv.gx, cv.gy)

/-- The signature that a context's nonce gives (R381): none where r or s is 0. -/
def State.zSign (s : State) (c : Fin 8) (cv : Curve) (e : Nat) : Option (Nat × Nat) :=
  match s.zMul c cv with
  | none => none
  | some (x, _) =>
    let k := s.zBlind c % cv.n
    let r := x % cv.n
    let t := (invMod k cv.n).getD 0 * ((e + r * s.zScalar c) % cv.n) % cv.n
    if r = 0 ∨ t = 0 then none else some (r, t)

/-- Signing, with a fresh nonce where r or s comes out 0. -/
def State.zSignRun (c : Fin 8) (cv : Curve) (e : Nat) : Nat → State → Option (Nat × Nat) × State
  | 0, s => (none, s)
  | f + 1, s => (s.zSign c cv e).elim (zSignRun c cv e f (s.zNonce c cv)) (fun x => (some x, s))

/-- The pair entry of an EC_PRIV entry is an ACTIVE EC_PUB. -/
def State.pairActive (s : State) (i : Nat) : Bool :=
  let p := s.vEnt (s.vEnt i).pair.toNat
  p.st == 1 && vEcPub p.type.toNat

/-- ECDSA_SIGN_CHECKED begins (R381). -/
def State.pkeSign (s : State) (a : PkeArgs) (c : Curve) (z : Fin 8) : PkeRes × State :=
  match s.pkeKey a 0 (0x10 + a.curve.toNat) with
  | (r, some i, s1) =>
    if !s1.pairActive i then ({ code := 4, vcode := 3 }, s1)
    else
      ({ r with digest := c.digest (s1.shelfGet a.sa.toNat (4 * a.nw.toNat)) }, (s1.zLoad z (beNat (s1.vValue i))).zNonce z c)
  | (r, none, s1) => (r, s1)

/-- ECDH begins (R384, R385). -/
def State.pkeEcdh (s : State) (a : PkeArgs) (c : Curve) (z : Fin 8) : PkeRes × State :=
  let p := s.shelfPoint a.sa.toNat c
  match s.pkeKey a 2 (0x10 + a.curve.toNat) with
  | (r, some i, s1) =>
    if !c.valid p.1 p.2 then ({ code := 2 }, s1)
    else
      let d := beNat (s1.vValue i)
      (r, (s1.zLoad z d).zMulStart z c d p)
  | (r, none, s1) => (r, s1)

/-- KEYGEN begins (R385): the scalar is drawn. -/
def State.pkeKeygen (s : State) (c : Curve) (z : Fin 8) : PkeRes × State :=
  let (d, s1) := State.drawBelow c.n drawTries s
  ({}, (s1.zLoad z d).zMulStart z c d (c.gx, c.gy))

/-! ## Acceptance -/

/-- The programs of the ROM set and of microcode (R390). -/
def State.pkeProg (s : State) (op : Nat) : Bool :=
  opLevel1 op || op == 0x11 || op == 0x14 || (!s.isSet SYS_RISE_NOUC && s.stage != .foundry && s.sys.mode != .foundry)

/-- A mode serves PKE and SYM (Table 3.6). -/
def Mode.engines (m : Mode) : Bool := m.running || m == .foundry

/-- RNG_FAIL is active (R396). -/
def State.rngBlocked (s : State) : Bool := s.isSet RNG_STAT_FAIL

/-- What refuses a block, as far as its words alone decide (0 where nothing does). -/
def State.pkeRefuse (s : State) (r : EngReq) (op : Nat) (a : PkeArgs) (clean : Bool) : Nat :=
  let internal := match r with | .vault _ => true | _ => false
  let cv := a.curve.toNat
  if s.sys.stopped then 13
  else if !s.sys.mode.engines then 9
  else if !opKnown op || !clean || (op == 0x13 && !internal) then 5
  else if [a.sa, a.sb, a.sc, a.sd].any (fun x => x.getLsbD 9) then 6
  else if cv = 6 ∨ cv = 7 ∨ 10 < cv then 5
  else if !s.pkeProg op then 7
  else if opSpipe op && s.rngBlocked then 8
  else match s.pkeIo op a with
    | none => 5
    | some x => if s.pkeIoOk op x then 0 else 5

/-- An operation begins: the key, the values of its operands, and for a P-pipe operation what it comes to. -/
def State.pkeBegin (s : State) (o : PkeOp) : PkeRes × State :=
  let a := o.args
  let z := o.ctx.getD 0
  if opSpipe o.op && s.rngBlocked then ({ code := 8 }, s)
  else if opLevel1 o.op then (s.pkeLevel1 o.op a, s)
  else if o.op = 0x15 then s.pkeRsa a
  else match Curve.ofCode a.curve.toNat with
    | none => (.arg, s)
    | some c =>
      if o.op = 0x10 then s.pkeSign a c z
      else if o.op = 0x11 then s.pkeVerify a c
      else if o.op = 0x12 then s.pkeEcdh a c z
      else if o.op = 0x13 then s.pkeKeygen c z
      else (s.pkePoint a c, s)

/-! ## Service order (R370, R391) -/

/-- Class of a requester. -/
def EngReq.class : EngReq → Nat
  | .job _ => 0 | .vault _ => 1 | .image => 1 | .direct _ => 2

/-- A requester goes before another: class, then the table order of jobs; otherwise arrival decides. -/
def EngReq.before (a b : EngReq) : Bool :=
  decide (a.class < b.class) ||
  (match a, b with | .job i, .job j => decide (i.val < j.val) | _, _ => false)

/-- A job gets no service in harvest and slack (R50, R52), nor while it is parked (R60). -/
def State.reqIdle (s : State) (r : EngReq) : Bool :=
  match r with
  | .job j => s.tick.phase != .foreground || (match s.tick.inst.at j with | some i => i.parked && !i.yielded | none => false)
  | _ => false

/-- The operation is in a pipe's order: a program in the S-pipe's until its candidate is handed over, then in the P-pipe's. -/
def PkeOp.inPipe (o : PkeOp) (sp : Bool) : Bool := (o.spipe && !o.handed) == sp && (!o.spipe || o.ctx.isSome)

/-- The operation a pipe serves: the one that has it, up to its next landing point, then the first in the order of service. -/
def State.pkeHead (s : State) (sp : Bool) : Option PkeOp :=
  let l := s.eng.pke.filter (fun o => o.inPipe sp)
  match l.find? (fun o => !o.parked) with
  | some o => some o
  | none => (l.filter (fun o => !s.reqIdle o.req)).foldl (fun b o => match b with
    | none => some o
    | some x => if o.req.before x.req then some o else b) none

/-- The operation of an identity changed. -/
def State.pkeUpd (s : State) (id : Nat) (f : PkeOp → PkeOp) : State :=
  { s with eng := { s.eng with pke := s.eng.pke.map (fun o => if o.id = id then f o else o) } }

/-- The operation of an identity leaves the engine: its context and its place in the working RAM are zeroized. -/
def State.pkeDrop (s : State) (o : PkeOp) : State :=
  let s1 := match o.ctx with | some c => s.zClear c | none => s
  { s1 with eng := { s1.eng with
      pke := s1.eng.pke.filter (fun x => decide (x.id ≠ o.id)), work := s1.eng.work.filter (fun h => decide (h.id ≠ o.id)) } }

/-- A job in an engine's order runs, or gives way to another (R65). -/
def State.jobYield (s : State) (r : EngReq) (started run : Bool) : State :=
  match r with
  | .job j =>
    match s.tick.inst.at j with
    | some i =>
      if i.aborted ∨ (i.parked ∧ !i.yielded) then s
      else if run then
        if i.parked then { s with tick := { s.tick with inst := s.tick.inst.put j (some { i with parked := false, yielded := false }) } }.jobStatus j 2
        else s
      else if started ∧ !i.parked ∧ s.tick.phase = .foreground then
        { s with tick := { s.tick with inst := s.tick.inst.put j (some { i with parked := true, yielded := true }) } }.jobStatus j 3
      else s
    | none => s
  | _ => s

/-- An operation its pipe serves begins, or ends refused: ECC_UNCORR follows a failing Vault entry. -/
def State.pkeEnter (s : State) (o : PkeOp) : State :=
  let (x, s1) := s.pkeBegin o
  let pre := (decide (4 ≤ x.code) && decide (x.code ≤ 9)) || (opSpipe o.op && x.code == 2)
  let s2 :=
    if pre then
      let s3 := (s1.pkeDrop o).pkeStatus o x.code x.vcode 0
      if x.code = 2 then s3.bump PKE_CNT_POINTINV else s3
    else
      let outs := match s1.pkeIo o.op o.args with | some io => io.outs | none => []
      let s3 := outs.foldl (fun s e =>
        s.putBytes (shelfBase + s.shelfOff e.1) (List.replicate (s.shelfSpan e.2 * s.shelfBytes) 0)) s1
      s3.pkeUpd o.id (fun o => { o with
        started := true, key := x.key, code := x.code, cmp := x.cmp, digest := x.digest
        out := x.out.map (fun e => s3.shelfOut e.1 e.2.1 e.2.2) })
  if x.ecc then s2.eccUncorr else s2

/-- Both pipes serve: a head that has not begun begins, and where it ends refused the next has its turn. -/
def State.pkeServe : Nat → State → State
  | 0, s => s
  | f + 1, s =>
    match [s.pkeHead true, s.pkeHead false].find? (fun h => match h with | some o => !o.started | none => false) with
    | some (some o) => pkeServe f (s.pkeEnter o)
    | _ => s

/-- The pipes take up their order: DSTAT of the direct channels reads RUN for an operation its pipe serves and WAIT otherwise,
jobs run or give way, and an operation that is not served is parked. -/
def State.pkeStates (s0 : State) : State :=
  let s := State.pkeServe (s0.eng.pke.length + 1) s0
  let run (o : PkeOp) : Bool := [s.pkeHead true, s.pkeHead false].any (fun h => h.map PkeOp.id == some o.id)
  let s1 := s.eng.pke.foldl (fun s o => match o.req with
    | .direct c => s.wr (PKE_DSTAT_STATE c) (if run o then 2 else 1)
    | _ => s.jobYield o.req o.started (run o)) s
  { s1 with eng := { s1.eng with pke := s1.eng.pke.map (fun o => { o with parked := !run o }) } }

/-- Sealed contexts held. -/
def State.ctxHeld (s : State) : List (Fin 8) := s.eng.pke.filterMap PkeOp.ctx

/-- A free sealed context, the lowest. -/
def State.ctxFree (s : State) : Option (Fin 8) := (finList 8).find? (fun c => !s.ctxHeld.contains c)

/-- The operation of a requester that stands in the engine; one of a job's earlier release that has still to end is not it. -/
def State.pkeOf (s : State) (r : EngReq) : Option PkeOp :=
  s.eng.pke.find? (fun o => decide (o.req = r) && !(decide (r.class = 0) && o.ends.isSome))

/-- An operation as it joins the engine: the shelves it names are busy (R375), a context is claimed where one is free and no
earlier program waits for one. -/
def State.pkeNew (s : State) (r : EngReq) (op blk : Nat) (a : PkeArgs) : PkeOp :=
  let sp := opSpipe op
  let waits := s.eng.pke.any (fun o => o.spipe && o.ctx.isNone && o.ends.isNone)
  let ctx := if sp && !waits then s.ctxFree else none
  let io := match s.pkeIo op a with | some x => x.ins ++ x.outs | none => []
  { id := s.eng.count, req := r, op := op, args := a, blk := blk, spipe := sp, parked := true, ctx := ctx
    busy := io.map (fun e => s.shelfRange e.1 e.2) }

/-- An operation joins the engine. -/
def State.pkeJoin (s : State) (r : EngReq) (op blk : Nat) (a : PkeArgs) : State :=
  { s with eng := { s.eng with pke := s.eng.pke ++ [s.pkeNew r op blk a], count := s.eng.count + 1 } }.pkeStates

/-- A block accepted (R376): refused at once, or in the order of its pipe. -/
def State.pkeAccept (s : State) (r : EngReq) (op blk : Nat) (a : PkeArgs) (clean : Bool) : State :=
  match s.pkeRefuse r op a clean with
  | 0 => s.pkeJoin r op blk a
  | code =>
    let o : PkeOp := { id := s.eng.count, req := r, op := op, args := a, blk := blk, spipe := false }
    (if code = 6 then s.setb PKE_ERR_SEALED else s).pkeStatus o code 0 0

/-- The block of a job names an operation that no table lists. -/
def State.pkeReservedOp (s : State) (j : JobId) : Bool := !opKnown (pkeArgs (s.pkeWords (.job j) (s.pkeBlk j))).1

/-- The pipe a job's block begins in. -/
def State.jobPipe (s : State) (j : JobId) : Bool := opSpipe (pkeArgs (s.pkeWords (.job j) (s.pkeBlk j))).1

/-- A job of an engine owner stands released and has not been started, and no job before it that uses the same pipe does (R56). -/
def State.engJobReady (s : State) (j : JobId) (o : JobOwner) : Bool :=
  let waits (k : JobId) : Bool := match s.tick.inst.at k with
    | some i => i.owner == o && !i.started && !i.aborted
    | none => false
  waits j && s.tick.phase == .foreground &&
  (finList 64).all (fun k => !(decide (k.val < j.val) && waits k && (o != .pke || s.jobPipe k == s.jobPipe j)))

/-- The job has its engine. -/
def State.engJobStart (s : State) (j : JobId) : State :=
  match s.tick.inst.at j with
  | some i => s.setInst j (some { i with started := true })
  | none => s

/-- The block of a released job is taken up. -/
def State.pkeJobStart (s : State) (j : JobId) : State :=
  let blk := s.pkeBlk j
  let w := s.pkeWords (.job j) blk
  (s.engJobStart j).pkeAccept (.job j) (pkeArgs w).1 blk (pkeArgs w).2 (pkeReserved w)

/-- An operation of Table 13.4 starts for a requester whose block names it; a block that names another leaves the state. -/
def State.pkeStart (s : State) (op : Nat) (r : EngReq) : State :=
  match r with
  | .direct c =>
    let w := s.pkeWords r 0
    if !s.coreRuns c then s
    else if (s.pkeOf r).isSome then s.setb PKE_ERR_CHAN
    else if (pkeArgs w).1 ≠ op then s
    else s.pkeAccept r op 0 (pkeArgs w).2 (pkeReserved w)
  | .job j =>
    if !s.engJobReady j .pke || (pkeArgs (s.pkeWords r (s.pkeBlk j))).1 != op then s else s.pkeJobStart j
  | .vault a =>
    match s.vlt.gen.find? (fun e => decide (e.1 = a)) with
    | some (_, n) =>
      if op ≠ 0x13 ∨ (s.pkeOf r).isSome then s
      else s.pkeAccept r op 0 ⟨BitVec.ofNat 4 n.type.toNat, false, false, 0, n.role, n.keyid, 0, 0, 0, 0⟩ true
    | none => s
  | .image => s

/-- GO written to PKE_DCMD: the block decides the operation; a reserved OP is refused with ARG (R376, R378). -/
def State.pkeGo (s : State) (c : CpuId) : State :=
  s.pkeStart (pkeArgs (s.pkeWords (.direct c) 0)).1 (.direct c)

/-! ## The end of an operation (R385, R386) -/

/-- The operation leaves the engine with its status. -/
def State.pkeLeave (s : State) (o : PkeOp) (code vcode cmp : Nat) : State :=
  ((s.pkeDrop o).pkeStatus o code vcode cmp).pkeStates

/-- A failed check. -/
def State.pkeFault (s : State) (o : PkeOp) : State :=
  let s1 := (s.pkeLeave o 3 0 0).bump PKE_CNT_FAULTS
  let s2 := s1.wrs [(PKE_LASTF_OP, o.op), (PKE_LASTF_CURVE, o.args.curve.toNat),
    (PKE_LASTF_IDX, match o.key with | some k => k.1 | none => 0)]
  s2.raise 0x22

/-- What the S-pipe part ends with: the candidate; `fault` where an intermediate value has been corrupted. -/
def State.pkeCandidate (s : State) (o : PkeOp) (fault : Bool) : Option (Nat × Nat) × State :=
  match o.ctx, Curve.ofCode o.args.curve.toNat with
  | some z, some c =>
    let (x, s1) := if o.op = 0x10 then State.zSignRun z c o.digest 8 s else (s.zMul z c, s)
    (if fault then none else x, s1)
  | _, _ => (none, s)

/-- The candidate passes the hand-off port with the public point of the key's pair (R372): a pair that fails HCHK ends the program
with KEY and CORRUPT (R335), and true asks for ECC_UNCORR. -/
def State.pkeHandOff (s : State) (o : PkeOp) (fault : Bool) : State :=
  let (x, s1) := s.pkeCandidate o fault
  let pair := match o.key with | some k => (s1.vEnt k.1).pair.toNat | none => 0
  let (ok, ecc, s2) := if o.op = 0x10 then s1.vUseEntry pair else (true, false, s1)
  let s3 :=
    if !ok then s2.pkeLeave o 4 4 0
    else
      let h : HandOff := { id := o.id, cand := x, point := if o.op = 0x10 then some (s2.vPoint pair) else none }
      ({ s2 with eng := { s2.eng with work := s2.eng.work ++ [h] } }.pkeUpd o.id
        (fun o => { o with handed := true, parked := true })).pkeStates
  if ecc then s3.eccUncorr else s3

/-- The check of R385 passes for what the working RAM holds. -/
def HandOff.ok (h : HandOff) (c : Curve) (op digest : Nat) : Bool :=
  match h.cand with
  | none => false
  | some (x, y) => if op = 0x10 then c.verify h.point digest x y else c.valid x y

/-- The output operands of a program that has passed its check. -/
def State.pkeProgOut (s : State) (o : PkeOp) (c : Curve) (x : Nat × Nat) : List (Nat × List Byte) :=
  let C := o.args.sc.toNat
  if o.op = 0x10 then [s.shelfOut C c.len x.1, s.shelfOut (C + s.shelfSpan c.len) c.len x.2] else [s.shelfOut C c.len x.1]

/-- The checking part of a program ends: release, or what withholds it. -/
def State.pkeCheck (s : State) (o : PkeOp) (fault : Bool) : State :=
  match s.eng.work.find? (fun h => decide (h.id = o.id)), Curve.ofCode o.args.curve.toNat with
  | some h, some c =>
    if fault || !h.ok c o.op o.digest then s.pkeFault o
    else if (match o.key with | some k => !s.vStill k | none => false) then s.pkeLeave o 4 3 0
    else
      let x := h.cand.getD (0, 0)
      match o.req with
      | .vault a =>
        let d := match o.ctx with | some z => s.zScalar z | none => 0
        (s.pkeDrop o).pkeStates.vGenDone a d x.1 x.2
      | _ => ((s.pkeProgOut o c x).foldl (fun s e => s.putBytes (shelfBase + e.1) e.2) s).pkeLeave o 0 0 0
  | _, _ => s.pkeFault o

/-- The operation that a pipe serves ends its part there. -/
def State.pkeRelease (s : State) (o : PkeOp) (fault : Bool) : State :=
  match o.ends with
  | some code => s.pkeLeave o code 0 0
  | none =>
    if o.spipe then (if o.handed then s.pkeCheck o fault else s.pkeHandOff o fault)
    else if o.code = 2 then (s.pkeLeave o 2 0 0).bump PKE_CNT_POINTINV
    else (o.out.foldl (fun s e => s.putBytes (shelfBase + e.1) e.2) s).pkeLeave o o.code 0 o.cmp

/-- The operation of a requester ends, or passes to the other pipe, where its pipe serves it. -/
def State.pkeComplete (s : State) (r : EngReq) (fault : Bool) : State :=
  match s.pkeOf r with
  | none => s
  | some o => if (s.pkeHead (o.spipe && !o.handed)).map PkeOp.id = some o.id then s.pkeRelease o fault else s

/-- The first program that waits claims a free context (R370). -/
def State.pkeClaim (s : State) : State :=
  match s.eng.pke.find? (fun o => o.spipe && o.ctx.isNone && o.ends.isNone), s.ctxFree with
  | some o, some c => (s.pkeUpd o.id (fun x => { x with ctx := some c })).pkeStates
  | _, _ => s

/-- A landing point of a pipe: operations that are to end do, an S-pipe program ends with RNG while RNG_FAIL is active (R396),
and the order of service is taken again. -/
def State.pkeLanding (s : State) (sp : Bool) : State :=
  let here (o : PkeOp) : Bool := (o.spipe && !o.handed) == sp
  let s1 := (s.eng.pke.filter here).foldl (fun s o =>
    match o.ends with
    | some code => s.pkeLeave o code 0 0
    | none => if sp && s.rngBlocked then s.pkeLeave o 8 0 0 else s) s
  { s1 with eng := { s1.eng with pke := s1.eng.pke.map (fun (o : PkeOp) => { o with parked := o.parked || here o }) } }.pkeStates

/-- ABORT of a channel (R393). -/
def State.pkeAbort (s : State) (c : CpuId) : State :=
  { s with eng := { s.eng with pke := s.eng.pke.map (fun o =>
      if o.req = .direct c then { o with ends := some (o.ends.getD 10) } else o) } }

/-! ## Core stores to shelves, and the length (R373, R375) -/

/-- Byte offsets of the bank that are busy. -/
def State.shelfBusy (s : State) (off : Nat) : Bool :=
  s.eng.pke.any (fun o => o.busy.any (fun r => decide (r.1 ≤ off) && decide (off < r.2)))

/-- A word stored to the public bank. -/
def State.shelfStore (s : State) (k : Fin 4096) (w : Word) : State :=
  let off := 4 * k.val
  if s.shelfCount * s.shelfBytes ≤ off then s
  else if s.shelfBusy off then (s.setb PKE_ERR_SHELF).misuse
  else s.putW (shelfBase + off) w

/-- The waiting change of LEN takes effect at a boundary at which no operation is in the engine. -/
def State.shelfLenCommit (s : State) : State :=
  if s.eng.pke ≠ [] then s
  else
    let l := s.shadow.filter (fun e => decide (e.fld = PKE_SHELFCFG_LEN))
    let s1 := l.foldl (fun s e => s.wr PKE_SHELFCFG_LEN e.val.toNat) s
    { s1 with
      shadow := s1.shadow.filter (fun e => decide (e.fld ≠ PKE_SHELFCFG_LEN))
      eng := { s1.eng with lenDue := false } }.wr PKE_STAT_SHELFPEND 0

/-- SHELF_LEN_COMMIT: at the boundary that began the frame, for a change that waited there while an operation ended at it; at no
other time (log entry 81). -/
def State.shelfLenEdge (s : State) : State :=
  if s.eng.lenDue ∧ s.tick.phase = .harvest ∧ s.isSet TICK_STAT_RUN then s.shelfLenCommit else s

/-! ## Meanings -/

/-- MADD (R379). -/
def execMadd (r : EngReq) (s : State) : Host.Outcome State Fault Refusal := .next (s.pkeStart 0x01 r)
/-- MSUB (R379). -/
def execMsub (r : EngReq) (s : State) : Host.Outcome State Fault Refusal := .next (s.pkeStart 0x02 r)
/-- MMUL (R379). -/
def execMmul (r : EngReq) (s : State) : Host.Outcome State Fault Refusal := .next (s.pkeStart 0x03 r)
/-- MRED (R379). -/
def execMred (r : EngReq) (s : State) : Host.Outcome State Fault Refusal := .next (s.pkeStart 0x04 r)
/-- MINV (R379). -/
def execMinv (r : EngReq) (s : State) : Host.Outcome State Fault Refusal := .next (s.pkeStart 0x05 r)
/-- MEXP (R379). -/
def execMexp (r : EngReq) (s : State) : Host.Outcome State Fault Refusal := .next (s.pkeStart 0x06 r)
/-- CMP (R379). -/
def execCmp (r : EngReq) (s : State) : Host.Outcome State Fault Refusal := .next (s.pkeStart 0x07 r)
/-- COPY (R379). -/
def execCopy (r : EngReq) (s : State) : Host.Outcome State Fault Refusal := .next (s.pkeStart 0x08 r)
/-- ECDSA_SIGN_CHECKED (R381). -/
def execEcdsaSignChecked (r : EngReq) (s : State) : Host.Outcome State Fault Refusal := .next (s.pkeStart 0x10 r)
/-- ECDSA_VERIFY (R382). -/
def execEcdsaVerify (r : EngReq) (s : State) : Host.Outcome State Fault Refusal := .next (s.pkeStart 0x11 r)
/-- ECDH (R385). -/
def execEcdh (r : EngReq) (s : State) : Host.Outcome State Fault Refusal := .next (s.pkeStart 0x12 r)
/-- KEYGEN (R378). -/
def execKeygen (r : EngReq) (s : State) : Host.Outcome State Fault Refusal := .next (s.pkeStart 0x13 r)
/-- POINT_CHECK (R384). -/
def execPointCheck (r : EngReq) (s : State) : Host.Outcome State Fault Refusal := .next (s.pkeStart 0x14 r)
/-- RSA_VERIFY (R383). -/
def execRsaVerify (r : EngReq) (s : State) : Host.Outcome State Fault Refusal := .next (s.pkeStart 0x15 r)
/-- PKE_ABORT (R393). -/
def execPkeAbort (c : CpuId) (s : State) : Host.Outcome State Fault Refusal := .next (s.byCore c (fun s => s.pkeAbort c))
/-- PKE_CONTEXT_CLAIM (R370). -/
def execPkeContextClaim (s : State) : Host.Outcome State Fault Refusal := .next s.pkeClaim
/-- SHELF_STORE (R375). -/
def execShelfStore (c : CpuId) (k : Fin 4096) (w : Word) (s : State) : Host.Outcome State Fault Refusal :=
  .next (s.byCore c (fun s => s.shelfStore k w))
/-- SHELF_LEN_COMMIT (R373). -/
def execShelfLenCommit (s : State) : Host.Outcome State Fault Refusal := .next s.shelfLenEdge

end Sys2Proof.Machine
end

