-- ==== Sys2Proof/Machine/VaultCmds.lean ====
section
/-!
DEFINITION. VaultCmds.lean: the commands of the Vault's writers, one at a time in the order of their arrival (spec/11_vault.md,
R322), and the events that let the next one run.
-/
namespace Sys2Proof.Machine

/-- GEN: checks, then the S-pipe's KEYGEN program (R327). -/
def State.vGenStart (s : State) (a : Agent) (n : VNew) : State :=
  match s.vGenCheck n with
  | 0 =>
    let s1 : State := { s with vlt := { s.vlt with gen := (s.vlt.gen.filter (fun (e : Agent × VNew) => decide (e.1 ≠ a))) ++ [(a, n)] } }
    (s1.vBusy (.agent a)).pkeStart 0x13 (.vault a)
  | code => s.vEnd (.agent a) code 0

/-- A command outside the modes of Vault use fails (R334). -/
def State.vUse (s : State) (a : Agent) (f : State → State) : State :=
  if s.sys.mode.vaultUse then f s else s.vEnd (.agent a) s.sys.mode.vaultNo 0

/-- A command is carried out (Table 11.11). The staging buffer is cleared at the end of a STORE (R325). -/
def State.vExec (s : State) (c : VCmd) : State :=
  let a := c.agent
  let q := VReq.agent a
  match c.cmd with
  | 1 => (s.vStore q c.new).vClearBuf a
  | 2 => s.vUse a (fun s => s.vRead a c.idx)
  | 3 => s.vRetire q c.idx false
  | 4 => s.vRetire q c.idx true
  | 5 => s.vZeroize q c.idx
  | 6 => s.vLookCmd a c.lkRole c.lkId c.lkOp
  | 7 => s.vDeny c
  | 8 => s.vUndeny c
  | 9 => s.vUnany a c.idx
  | 10 => s.vUse a (fun s => (s.vClearBuf a).vEnd q 0 0)
  | 11 => s.vGenStart a c.new
  | _ => s

/-- No command is under way. -/
def State.vIdle (s : State) : Bool := s.vlt.jobs.isEmpty && s.vlt.gen.isEmpty

/-- Waiting commands run, in the order of their arrival, while none is under way; one of CON's that fails takes with it those of
the same form behind it (log entry 45). -/
def State.vPump : Nat → State → State
  | 0, s => s
  | f + 1, s =>
    match s.vlt.waiting with
    | [] => s
    | c :: t =>
      if !s.vIdle then s
      else
        let s1 := { s with vlt := { s.vlt with waiting := t } }.vExec c
        let failed := c.agent = .con ∧ s1.rd (VLT_STAT_STATE .con) = 3
        vPump f (if failed then
          { s1 with vlt := { s1.vlt with waiting := s1.vlt.waiting.filter (fun x => decide (x.agent ≠ .con)) } } else s1)

/-- The Vault goes on with the commands that wait. -/
def State.vNext (s : State) : State := State.vPump (s.vlt.waiting.length + 1) s

/-- Commands of a writer arrive: its status reads BUSY, and they wait their turn. -/
def State.vQueue (s : State) (l : List VCmd) : State :=
  (l.foldl (fun (s : State) c => s.vBusy (.agent c.agent)) { s with vlt := { s.vlt with waiting := s.vlt.waiting ++ l } }).vNext

/-- What the staging registers of a writer give a command. -/
def State.vStagedCmd (s : State) (a : Agent) (cmd idx : Nat) : VCmd :=
  { agent := a, cmd := cmd, idx := idx, new := s.vStaged a
    lkId := BitVec.ofNat 32 (s.rd (VLT_LK0_ID a)), lkRole := BitVec.ofNat 8 (s.rd (VLT_LK1_ROLE a)), lkOp := s.rd (VLT_LK1_OP a)
    dnId := BitVec.ofNat 32 (s.rd (VLT_DENYID a)), dnRole := BitVec.ofNat 8 (s.rd (VLT_DENY_ROLE a))
    dnUse := BitVec.ofNat 16 (s.rd (VLT_DENY_USE a)), dnAny := s.isSet (VLT_DENY_DANY a) }

/-- A write to VLT_CMD (R322): while the writer's previous command has not finished it is refused with BUSY, and VLT_STAT.STATE
goes on reading BUSY (log entry 82); a STORE so refused clears the staging buffer (R325). -/
def State.vCmd (s : State) (a : Agent) (cmd idx : Nat) : State :=
  if s.rd (VLT_STAT_STATE a) = 1 then
    let s1 := s.wr (VLT_STAT_CODE a) 13
    if cmd = 1 then s1.vClearBuf a else s1
  else s.vQueue [s.vStagedCmd a cmd idx]

/-! ## Meanings -/

/-- VLT_STORE (R325). -/
def execVltStore (c : CpuId) (s : State) : Host.Outcome State Fault Refusal :=
  .next (s.byCore c (fun s => s.vCmd c.agent 1 0))
/-- VLT_READ (R330). -/
def execVltRead (c : CpuId) (i : Byte) (s : State) : Host.Outcome State Fault Refusal :=
  .next (s.byCore c (fun s => s.vCmd c.agent 2 i.toNat))
/-- VLT_RETIRE (R328). -/
def execVltRetire (c : CpuId) (i : Byte) (s : State) : Host.Outcome State Fault Refusal :=
  .next (s.byCore c (fun s => s.vCmd c.agent 3 i.toNat))
/-- VLT_REVOKE (R328). -/
def execVltRevoke (c : CpuId) (i : Byte) (s : State) : Host.Outcome State Fault Refusal :=
  .next (s.byCore c (fun s => s.vCmd c.agent 4 i.toNat))
/-- VLT_ZEROIZE (R328). -/
def execVltZeroize (c : CpuId) (i : Byte) (s : State) : Host.Outcome State Fault Refusal :=
  .next (s.byCore c (fun s => s.vCmd c.agent 5 i.toNat))
/-- VLT_LOOKUP (R332). -/
def execVltLookup (c : CpuId) (s : State) : Host.Outcome State Fault Refusal :=
  .next (s.byCore c (fun s => s.vCmd c.agent 6 0))
/-- VLT_DENY (R331). -/
def execVltDeny (c : CpuId) (s : State) : Host.Outcome State Fault Refusal :=
  .next (s.byCore c (fun s => s.vCmd c.agent 7 0))
/-- VLT_UNDENY (R331). -/
def execVltUndeny (c : CpuId) (s : State) : Host.Outcome State Fault Refusal :=
  .next (s.byCore c (fun s => s.vCmd c.agent 8 0))
/-- VLT_UNANY (R331). -/
def execVltUnany (c : CpuId) (i : Byte) (s : State) : Host.Outcome State Fault Refusal :=
  .next (s.byCore c (fun s => s.vCmd c.agent 9 i.toNat))
/-- VLT_CLEAR (R325). -/
def execVltClear (c : CpuId) (s : State) : Host.Outcome State Fault Refusal :=
  .next (s.byCore c (fun s => s.vCmd c.agent 10 0))
/-- VLT_GEN_CMD (R327). -/
def execVltGenCmd (c : CpuId) (s : State) : Host.Outcome State Fault Refusal :=
  .next (s.byCore c (fun s => s.vCmd c.agent 11 0))
/-- INSERT_RESUME (R357). -/
def execInsertResume (s : State) : Host.Outcome State Fault Refusal := .next s.vResume.vNext
/-- PKE_OP_COMPLETE (R385, R386): `fault` where a fault has corrupted an intermediate value. -/
def execPkeOpComplete (r : EngReq) (fault : Bool) (s : State) : Host.Outcome State Fault Refusal :=
  .next (s.pkeComplete r fault).vNext

end Sys2Proof.Machine
end

