-- ==== Sys2Proof/Machine/Sym.lean ====
section
/-!
DEFINITION. Sym.lean: the symmetric engine and the random source (spec/14_symmetric_random.md, R399 to R416). As in the
public-key engine, an operation is computed when the engine begins it and SYM_OP_COMPLETE releases it (log entry 30).
-/
namespace Sys2Proof.Machine

/-! ## The command block (Table 14.3) -/

/-- The words of a requester's block. -/
def State.symWords (s : State) (r : EngReq) (blk : Nat) : List Word :=
  match r with
  | .direct c => (finList 8).map (fun k => BitVec.ofNat 32 (s.rd (SYM_DW c k)))
  | _ => (List.range 8).map (fun k => s.getW (blk + 4 * k))

/-- The SRAM address of a job's block. -/
def State.symBlk (s : State) (j : JobId) : Nat :=
  let arg := match s.tick.inst.at j with | some i => i.arg.toNat | none => s.rd (TICK_JOB_ARG j)
  32 * s.rd SYM_CBASE + 32 * arg

/-- The fields of a block. -/
def symArgs (w : List Word) : Nat × SymArgs :=
  let w0 := (w.getD 0 0).toNat
  let w4 := (w.getD 4 0).toNat
  (bits w0 0 8, {
    ksrc := BitVec.ofNat 2 (bits w0 8 2), klen := BitVec.ofNat 2 (bits w0 10 2), first := bitAt w0 12, last := bitAt w0 13,
    dir := bitAt w0 14, ctx := BitVec.ofNat 3 (bits w0 16 3), curve := BitVec.ofNat 4 (bits w0 20 4),
    role := BitVec.ofNat 8 (bits w0 24 8), keyid := w.getD 1 0, src := w.getD 2 0, dst := w.getD 3 0,
    len := BitVec.ofNat 16 (bits w4 0 16), aadlen := BitVec.ofNat 16 (bits w4 16 16), padr := w.getD 5 0, kadr := w.getD 6 0 })

/-- Operations of Table 14.2. -/
def symAes (op : Nat) : Bool := decide (1 ≤ op) && decide (op ≤ 9)
def symSha (op : Nat) : Bool := decide (0x10 ≤ op) && decide (op ≤ 0x12)
def symHmac (op : Nat) : Bool := (decide (0x18 ≤ op) && decide (op ≤ 0x1A)) || (decide (0x1C ≤ op) && decide (op ≤ 0x1E))
def symKnown (op : Nat) : Bool := symAes op || symSha op || symHmac op || op == 0x20
def symMulti (op : Nat) : Bool := (decide (3 ≤ op) && decide (op ≤ 7)) || symSha op || symHmac op
def symCheck (op : Nat) : Bool := op == 7 || (decide (0x1C ≤ op) && decide (op ≤ 0x1E))

/-- The hash of an operation. -/
def symHash (op : Nat) : Hash :=
  match op % 4 with | 0 => .sha256 | 1 => .sha384 | _ => .sha512

/-- Bits the table does not name are 0: W0 [15] and [19], the upper bits of W2 for a shelf source, of W6 for a tag length. -/
def symReserved (w : List Word) : Bool :=
  let (op, a) := symArgs w
  !bitAt (w.getD 0 0).toNat 15 && !bitAt (w.getD 0 0).toNat 19 && (a.ksrc == 1 || decide (a.kadr.toNat < 256)) &&
    (!(op == 0x20 && a.ksrc == 2) || decide (a.src.toNat < 1024))

/-- The usage bit an operation asks for (Table 14.2). -/
def symUsage (op : Nat) (dir : Bool) : Nat :=
  match op with
  | 1 => 3 | 2 => 4 | 3 => 3 | 4 => 4 | 5 => if dir then 4 else 3 | 6 => 0 | 7 => 1 | 8 => 3 | 9 => 4 | 0x20 => 5
  | _ => if symCheck op then 1 else 0

/-- Part length that a part which is not the last must be a multiple of. -/
def symUnit (op : Nat) : Nat := if symSha op || symHmac op then (symHash op).block else 16

/-! ## Results -/

/-- What an operation comes to. -/
structure SymRes where
  code : Nat := 0
  vcode : Nat := 0
  out : List (Nat × List Byte) := []
  run : Option SymRun := none
  key : Option (Nat × BitVec 16) := none
  ecc : Bool := false
  misuse : Bool := false

/-- Codes that end a command before it starts (ARG, KEY, RNG, MODE, SHELF, STOPPED, CTX). -/
def symRefusal (code : Nat) : Bool := (decide (2 ≤ code) && decide (code ≤ 5)) || (decide (8 ≤ code) && decide (code ≤ 10))

/-- Tag length: the low byte of W6, or 16 with a clear key (log entry 32). -/
def SymArgs.tagLen (a : SymArgs) : Nat := if a.ksrc = 1 then 16 else a.kadr.toNat % 256

/-- Bytes written by an operation at DST. -/
def symOutLen (op : Nat) (a : SymArgs) : Nat :=
  let n := a.len.toNat
  if op ≤ 5 then n
  else if op = 6 then (if a.last then a.tagLen else 0)
  else if op = 8 then n + a.tagLen
  else if op = 9 then n
  else if symSha op then (if a.last then (symHash op).len else 0)
  else if symHmac op && !symCheck op then (if a.last then a.tagLen else 0)
  else 0

/-- Lengths the operation admits (Table 14.2, R400). -/
def symLenOk (op : Nat) (a : SymArgs) : Bool :=
  let n := a.len.toNat
  let part := !symMulti op || a.last || n % symUnit op == 0
  part &&
  (if op ≤ 4 then n % 16 == 0
   else if op = 5 then true
   else if op ≤ 7 then !a.last || (decide (8 ≤ a.tagLen) && decide (a.tagLen ≤ 16))
   else if op ≤ 9 then decide (a.aadlen.toNat + n ≤ 16384) && decide (12 ≤ a.tagLen) && decide (a.tagLen ≤ 16)
   else if symSha op then true
   else if symHmac op then !a.last || (decide (16 ≤ a.tagLen) && decide (a.tagLen ≤ (symHash op).len))
   else n == 0)

/-- Source bytes of an operation: the associated data too for GCM. -/
def symSrcLen (op : Nat) (a : SymArgs) : Nat := a.len.toNat + (if op = 8 ∨ op = 9 then a.aadlen.toNat else 0)

/-- Parameter bytes an operation reads at PADR. -/
def symParLen (op : Nat) (a : SymArgs) : Nat :=
  if (op = 3 ∨ op = 4 ∨ op = 5) ∧ a.first then 16
  else if op = 8 then 12
  else if op = 9 then 16 + a.tagLen
  else if symCheck op ∧ a.last then a.tagLen
  else if op = 0x20 then 10 else 0

/-- A readable range (R407). -/
def symSrcOk (a n : Nat) : Bool := n == 0 || inSram a n || inWindow a n || inShelf a n

/-- A writable range (R407). -/
def symDstOk (a n : Nat) : Bool := n == 0 || inSram a n || inShelf a n

/-- Ranges and overlap (R407). -/
def symRanges (op : Nat) (a : SymArgs) : Bool :=
  let sl := symSrcLen op a
  let dl := symOutLen op a
  let src := a.src.toNat
  let dst := a.dst.toNat
  symSrcOk src sl && symDstOk dst dl && symSrcOk a.padr.toNat (symParLen op a) &&
    (!(a.ksrc == 1 && symAes op) || symSrcOk a.kadr.toNat (16 + 8 * a.klen.toNat)) &&
    (!(sl != 0 && dl != 0 && meet (src, src + sl) (dst, dst + dl)) || (decide (op ≤ 5) && src == dst))

/-- A byte range touches a busy shelf (R375). -/
def State.rangeBusy (s : State) (a n : Nat) : Bool :=
  n != 0 && s.eng.pke.any (fun o => o.busy.any (fun r => meet (a, a + n) (shelfBase + r.1, shelfBase + r.2)))

/-- The requester holds the context (R408). -/
def symCtxOf (c : Option SymCtx) (r : EngReq) : Bool :=
  match c with | some x => decide (x.req = r) | none => false

/-- The Vault key of a command: the context's entry for a later part, a lookup otherwise (R335, R403, R408). -/
def State.symVaultKey (s : State) (op : Nat) (a : SymArgs) (ctx : Option SymCtx) : SymRes × Option (List Byte) × State :=
  match ctx.bind SymCtx.key with
  | some k =>
    if !s.vStill k then ({ code := 3, vcode := 3 }, none, s)
    else match s.vUseEntry k.1 with
      | (true, _, s1) => ({ key := some k }, some (s1.vValue k.1), s1)
      | (false, ecc, s1) => ({ code := 3, vcode := 4, ecc := ecc }, none, s1)
  | none =>
    let (l, s1) := s.vLookup .other a.role a.keyid (symUsage op a.dir)
    let t := (s1.vEnt l.idx).type.toNat
    if l.code ≠ 0 then ({ code := 3, vcode := l.code, ecc := l.ecc }, none, s1)
    else if (if symHmac op then t ≠ 4 else !vAes t) then ({ code := 2 }, none, s1)
    else ({ key := some (l.idx, (s1.vEnt l.idx).gen) }, some (s1.vValue l.idx), s1)

/-- The operand length that CURVE gives a shelf source (Table 13.2). -/
def curveLen (cv : Nat) : Option Nat :=
  match cv with
  | 0 => some 32 | 1 => some 48 | 2 => some 66 | 3 => some 32 | 4 => some 48 | 5 => some 64
  | 8 => some 256 | 9 => some 384 | 10 => some 512 | _ => none

/-- The key bytes of a command; with RNG_FAIL active a Vault key ends it with RNG, and KDF is refused with the Vault's BUSY (R415;
DEDUCED, log entry 83). -/
def State.symKey (s : State) (op : Nat) (a : SymArgs) (ctx : Option SymCtx) : SymRes × Option (List Byte) × State :=
  if symSha op then ({}, some [], s)
  else if op = 0x20 ∧ s.rngBlocked then ({ code := 3, vcode := 13 }, none, s)
  else if a.ksrc = 1 then
    if symAes op ∧ a.klen ≠ 3 then ({}, some (s.busBytes a.kadr.toNat (16 + 8 * a.klen.toNat)), s) else ({ code := 2 }, none, s)
  else if a.ksrc = 2 then
    match curveLen a.curve.toNat with
    | some l =>
      let sh := a.src.toNat % 1024
      if op ≠ 0x20 ∨ !s.shelfFits sh l then ({ code := 2 }, none, s)
      else if s.rangeBusy (shelfBase + s.shelfOff sh) (s.shelfSpan l * s.shelfBytes) then ({ code := 8 }, none, s)
      else ({}, some (Hash.sha256.digest (s.shelfGet sh l)), s)
    | none => ({ code := 2 }, none, s)
  else if a.ksrc = 0 then
    if s.sys.mode = .foundry then ({ code := 5 }, none, s)
    else if s.rngBlocked then ({ code := 4 }, none, s)
    else s.symVaultKey op a ctx
  else ({ code := 2 }, none, s)

/-- The running state a part starts from. -/
def State.symRun0 (s : State) (op : Nat) (a : SymArgs) (key : List Byte) (ctx : Option SymCtx) : SymRun :=
  match ctx with
  | some x => x.run
  | none =>
    if op = 3 ∨ op = 4 ∨ op = 5 then .block (s.busBytes a.padr.toNat 16)
    else if op = 6 ∨ op = 7 then .cmac (List.replicate 16 0) []
    else
      let h := symHash op
      if symSha op then .hash h.init 0 else .hash (h.compress h.init (h.ipad key)) h.block

/-- A tag produced at DST, or compared at PADR. -/
def State.symTag (s : State) (op : Nat) (a : SymArgs) (tag : List Byte) : SymRes :=
  let t := tag.take a.tagLen
  if symCheck op then { code := if s.busBytes a.padr.toNat a.tagLen = t then 0 else 1 }
  else { out := [(a.dst.toNat, t)] }

/-- Block modes with a chaining block. -/
def symBlockMode (op : Nat) (key b msg : List Byte) : List Byte × List Byte :=
  match op with
  | 3 => cbcEnc key b msg
  | 4 => cbcDec key b msg
  | _ => ctrMode 16 key b msg

/-- A part of a multi-part operation. -/
def State.symPart (s : State) (op : Nat) (a : SymArgs) (key : List Byte) (run : SymRun) : SymRes :=
  let msg := s.busBytes a.src.toNat a.len.toNat
  match run with
  | .block b =>
    let (o, b') := symBlockMode op key b msg
    { out := [(a.dst.toNat, o)], run := some (.block b') }
  | .cmac x held =>
    let bs := blocks16 (held ++ msg)
    let x' := cmacChain key x bs.dropLast
    let last := bs.getLastD []
    if a.last then s.symTag op a (cmacLast key x' last) else { run := some (.cmac x' last) }
  | .hash w done =>
    let h := symHash op
    if a.last then
      let d := h.finish w done msg
      if symSha op then { out := [(a.dst.toNat, d)] } else s.symTag op a (h.digest (h.opad key ++ d))
    else { run := some (.hash (h.absorb (msg.length / h.block) w msg) (done + msg.length)) }

/-- Output of the KDF (R405): counter-mode CMAC blocks for `bits` bits. -/
def kdfOut (key label context : List Byte) (bits : Nat) : List Byte :=
  let blk (i : Nat) := cmac key (beBytes 4 i ++ label ++ [0] ++ context ++ beBytes 4 bits)
  ((List.range (ceilDiv bits 128)).flatMap (fun i => blk (i + 1))).take (bits / 8)

/-- The SESSION key a KDF derives, as the STORE it makes; none for a parameter block it refuses. -/
def State.kdfNew (s : State) (a : SymArgs) (key : List Byte) : Option VNew :=
  let p := s.busBytes a.padr.toNat 10
  let at' (i : Nat) : Nat := (p.getD i 0).toNat
  let t := at' 4
  let ll := at' 8
  let cl := at' 9
  let body := s.busBytes (a.padr.toNat + 10) (ll + cl)
  match vTypeLen t with
  | some l =>
    if 32 < ll ∨ 64 < cl ∨ !(vAes t || t == 4) ∨ !symSrcOk a.padr.toNat (10 + ll + cl) then none
    else some {
      keyid := Word.ofBytes p, role := roleSession, type := p.getD 4 0, use := BitVec.ofNat 16 (at' 5 + 256 * at' 6),
      prio := p.getD 7 0, value := kdfOut key (body.take ll) (body.drop ll) (8 * l), len := l }
  | none => none

/-- GCM. -/
def State.symGcm (s : State) (op : Nat) (a : SymArgs) (key : List Byte) : SymRes :=
  let nonce := s.busBytes a.padr.toNat 12
  let aad := s.busBytes a.src.toNat a.aadlen.toNat
  let msg := s.busBytes (a.src.toNat + a.aadlen.toNat) a.len.toNat
  let out := gcmText key nonce msg
  if op = 8 then { out := [(a.dst.toNat, out ++ (gcmTag key nonce aad out).take a.tagLen)] }
  else if (gcmTag key nonce aad msg).take a.tagLen = s.busBytes (a.padr.toNat + 16) a.tagLen then { out := [(a.dst.toNat, out)] }
  else { code := 1, out := [(a.dst.toNat, List.replicate a.len.toNat 0)] }

/-- A command with its key. -/
def State.symCompute (s : State) (op : Nat) (a : SymArgs) (key : List Byte) (ctx : Option SymCtx) : SymRes :=
  if op ≤ 2 then
    let m := s.busBytes a.src.toNat a.len.toNat
    { out := [(a.dst.toNat, if op = 1 then ecbEnc key m else ecbDec key m)] }
  else if op = 8 ∨ op = 9 then s.symGcm op a key
  else if op = 0x20 then {}
  else s.symPart op a key (s.symRun0 op a key ctx)

/-- The context a part works in: none for a first part or an operation without parts; or the refusal. -/
def State.symContext (s : State) (r : EngReq) (op : Nat) (a : SymArgs) : SymRes × Option SymCtx :=
  let c := s.eng.ctx.at (finOf 8 a.ctx.toNat)
  if !symMulti op then ({}, none)
  else match c with
    | some x =>
      if x.req ≠ r then ({ code := 10, misuse := true }, none)
      else if a.first then ({ code := 10 }, none)
      else if x.op ≠ op then ({ code := 2 }, none)
      else ({}, some x)
    | none => if a.first then ({}, none) else ({ code := 10 }, none)

/-- What refuses a command at its acceptance (0 where nothing does); whether MISUSE is raised. -/
def State.symRefuse (s : State) (r : EngReq) (op : Nat) (a : SymArgs) (clean : Bool) : Nat × Bool :=
  if s.sys.stopped then (9, false)
  else if !s.sys.mode.engines then (5, false)
  else if !symKnown op || !clean || !symLenOk op a || !symRanges op a then (2, false)
  else
    let cx := (s.symContext r op a).1
    (cx.code, cx.misuse)

/-- A shelf that the command names is busy (R407). -/
def State.symShelfBusy (s : State) (op : Nat) (a : SymArgs) : Bool :=
  s.rangeBusy a.dst.toNat (symOutLen op a) || s.rangeBusy a.src.toNat (symSrcLen op a) ||
    s.rangeBusy a.padr.toNat (symParLen op a) || (a.ksrc == 1 && s.rangeBusy a.kadr.toNat (16 + 8 * a.klen.toNat))

/-- A command begun: its key, and what it comes to; the KDF's new entry beside. -/
def State.symBegin (s : State) (op : Nat) (a : SymArgs) (ctx : Option SymCtx) :
    SymRes × Option VNew × List Byte × State :=
  if s.symShelfBusy op a then ({ code := 8 }, none, [], s)
  else match s.symKey op a ctx with
    | (k, none, s1) => (k, none, [], s1)
    | (k, some key, s1) =>
      if op = 0x20 then
        match s1.kdfNew a key with
        | some n => ({ key := k.key }, some n, key, s1)
        | none => ({ code := 2 }, none, [], s1)
      else ({ s1.symCompute op a key ctx with key := k.key }, none, key, s1)

/-! ## Masks (R404) -/

/-- The bytes of a key schedule: the round keys of AES, the key of HMAC. -/
def symSchedule (op : Nat) (key : List Byte) : List Byte := if symHmac op then key else (aesRoundKeys key).flatten

/-- Blocks that a command works on. -/
def symBlocks (op : Nat) (a : SymArgs) : Nat := ceilDiv (symSrcLen op a) (symUnit op)

/-- The masks of a command with a Vault key: the schedule under a fresh mask, and a fresh one for each block, of which the last
stays. -/
def State.symMasks (s : State) (op : Nat) (a : SymArgs) (key : List Byte) : SymMask × State :=
  let sc := symSchedule op key
  let (m, s1) := s.drbgWords (ceilDiv sc.length 4)
  let n := symBlocks op a
  let (b, s2) := s1.drbgWords (4 * n)
  ({ sched := xorB sc (m.flatMap Word.bytes), key := m, block := b.drop (4 * (n - 1)) }, s2)

/-! ## Service -/

/-- A command uses a Vault key. -/
def SymOp.vaultKey (o : SymOp) : Bool := !symSha o.op && o.args.ksrc == 0

/-- The operation the engine serves (R409): the one that has it, up to its next landing point, then the first in order. -/
def State.symHead (s : State) : Option SymOp :=
  match s.eng.sym.find? (fun o => !o.parked) with
  | some o => some o
  | none => (s.eng.sym.filter (fun o => !s.reqIdle o.req)).foldl (fun b o => match b with
    | none => some o
    | some x => if o.req.before x.req then some o else b) none

/-- A context set. -/
def State.setCtx (s : State) (n : Fin 8) (c : Option SymCtx) : State := { s with eng := { s.eng with ctx := s.eng.ctx.put n c } }

/-- The operation of an identity leaves the engine. -/
def State.symDrop (s : State) (o : SymOp) : State :=
  { s with eng := { s.eng with sym := s.eng.sym.filter (fun x => decide (x.id ≠ o.id)) } }

/-- The context an operation names, freed where it works in one. -/
def State.symFree (s : State) (o : SymOp) : State :=
  if symMulti o.op ∧ symCtxOf (s.eng.ctx.at (finOf 8 o.args.ctx.toNat)) o.req then s.setCtx (finOf 8 o.args.ctx.toNat) none else s

/-- An operation that is served begins, or ends refused; a part refused for its key, or at its first part, frees its context
(R408). -/
def State.symEnter (s : State) (o : SymOp) : State :=
  let ctx := if symMulti o.op ∧ !o.args.first then s.eng.ctx.at (finOf 8 o.args.ctx.toNat) else none
  let (x, kdf, key, s1) := s.symBegin o.op o.args ctx
  let s2 :=
    if symRefusal x.code then
      let s3 := (s1.symDrop o).symStatus o x.code x.vcode
      if x.code = 3 ∨ o.args.first then s3.symFree o else s3
    else
      let (mask, s3) := if o.vaultKey ∨ o.op = 0x20 then (let (m, t) := s1.symMasks o.op o.args key; (some m, t)) else (none, s1)
      { s3 with eng := { s3.eng with sym := s3.eng.sym.map (fun y => if y.id ≠ o.id then y else
          { y with
            started := true, mask := mask, out := x.out, code := x.code, kdf := kdf
            ctx := if !symMulti o.op then none else if o.args.last then some none
              else some ((x.run).map (fun run => { req := o.req, op := o.op, key := x.key, run := run })) }) } }
  if x.ecc then s2.eccUncorr else s2

/-- The engine serves: a head that has not begun begins, and where it ends refused the next has its turn. -/
def State.symServe : Nat → State → State
  | 0, s => s
  | f + 1, s =>
    match s.symHead with
    | some o => if o.started then s else symServe f (s.symEnter o)
    | none => s

/-- The engine takes up its order: DSTAT of the direct channels, jobs that run or give way, and what is not served is parked. -/
def State.symStates (s0 : State) : State :=
  let s := State.symServe (s0.eng.sym.length + 1) s0
  let run (o : SymOp) : Bool := s.symHead.map SymOp.id == some o.id
  let s1 := s.eng.sym.foldl (fun s o => match o.req with
    | .direct c => s.wr (SYM_DSTAT_STATE c) (if run o then 2 else 1)
    | _ => s.jobYield o.req o.started (run o)) s
  { s1 with eng := { s1.eng with sym := s1.eng.sym.map (fun o => { o with parked := !run o }) } }

/-- The operation of a requester that stands in the engine; one of a job's earlier release that has still to end is not it. -/
def State.symOf (s : State) (r : EngReq) : Option SymOp :=
  s.eng.sym.find? (fun o => decide (o.req = r) && !(decide (r.class = 0) && o.ends.isSome))

/-- A block accepted: refused at once, or in the order of service; a first part claims its context (R408). -/
def State.symAccept (s : State) (r : EngReq) (op blk : Nat) (a : SymArgs) (clean : Bool) : State :=
  let o : SymOp := { id := s.eng.count, req := r, op := op, args := a, blk := blk, parked := true }
  match s.symRefuse r op a clean with
  | (0, _) =>
    let s1 := if symMulti op ∧ a.first then
      s.setCtx (finOf 8 a.ctx.toNat) (some { req := r, op := op, key := none, run := .block [] }) else s
    { s1 with eng := { s1.eng with sym := s1.eng.sym ++ [o], count := s1.eng.count + 1 } }.symStates
  | (code, misuse) =>
    let s1 := (if misuse then s.setb SYM_ERR_CTX else s).symStatus o code 0
    if misuse then s1.misuse else s1

/-- The block of a job names an operation that no table lists. -/
def State.symReservedOp (s : State) (j : JobId) : Bool := !symKnown (symArgs (s.symWords (.job j) (s.symBlk j))).1

/-- The block of a released job is taken up. -/
def State.symJobStart (s : State) (j : JobId) : State :=
  let blk := s.symBlk j
  let w := s.symWords (.job j) blk
  (s.engJobStart j).symAccept (.job j) (symArgs w).1 blk (symArgs w).2 (symReserved w)

/-- A command starts for a requester whose block names it; a block that names another leaves the state. -/
def State.symStart (s : State) (op : Nat) (r : EngReq) : State :=
  match r with
  | .direct c =>
    let w := s.symWords r 0
    if !s.coreRuns c then s
    else if (s.symOf r).isSome then s.setb SYM_ERR_CHAN
    else if (symArgs w).1 ≠ op then s
    else s.symAccept r op 0 (symArgs w).2 (symReserved w)
  | .job j =>
    if !s.engJobReady j .sym || (symArgs (s.symWords r (s.symBlk j))).1 != op then s else s.symJobStart j
  | _ => s

/-- GO written to SYM_DCMD. -/
def State.symGo (s : State) (c : CpuId) : State := s.symStart (symArgs (s.symWords (.direct c) 0)).1 (.direct c)

/-! ## The end of an operation -/

/-- The operation leaves the engine with its status; an INVALID is counted. -/
def State.symLeave (s : State) (o : SymOp) (code vcode : Nat) : State :=
  let s1 := ((s.symDrop o).symStatus o code vcode).symStates
  if code = 1 then s1.bump SYM_CNT_INVALID else s1

/-- Bytes of a result; those for a shelf that has become busy are ignored (R375). -/
def State.symPut (s : State) (e : Nat × List Byte) : State :=
  if s.rangeBusy e.1 e.2.length then s else s.unitPut e.1 e.2

/-- An operation ended early frees its context. -/
def State.symEndEarly (s : State) (o : SymOp) (code : Nat) : State := (s.symFree o).symLeave o code 0

/-- The derived key enters the Vault; a refused STORE ends the operation with KEY (R405). While region K's part of the STORE
waits, the operation does. -/
def State.kdfStore (s : State) (o : SymOp) : State :=
  match o.stored, o.kdf with
  | some i, _ =>
    if s.kWaits then s else if (s.kOf i).isEmpty then s.symLeave o 3 19 else s.symLeave o 0 0
  | none, none => s.symLeave o 0 0
  | none, some n =>
    match s.vCheck n with
    | (0, i) =>
      let (refused, _, s2) := s.vStoreNow n i
      if refused then s2.symLeave o 3 19
      else if s2.kWaits then
        { s2 with eng := { s2.eng with sym := s2.eng.sym.map (fun y => if y.id = o.id then { y with stored := some i } else y) } }
      else s2.symLeave o 0 0
    | (code, _) => s.symLeave o 3 code

/-- SYM_OP_COMPLETE. -/
def State.symComplete (s : State) (r : EngReq) : State :=
  match s.symOf r with
  | none => s
  | some o =>
    if s.symHead.map SymOp.id ≠ some o.id then s
    else match o.ends with
      | some code => s.symEndEarly o code
      | none =>
        if o.op = 0x20 then s.kdfStore o
        else
          let s1 := o.out.foldl State.symPut s
          let s2 := match o.ctx with
            | some c => s1.setCtx (finOf 8 o.args.ctx.toNat) c
            | none => s1
          s2.symLeave o o.code 0

/-- A landing point: operations that are to end do; with RNG_FAIL active those with a Vault key end with RNG (R415). -/
def State.symLanding (s : State) : State :=
  let s1 := s.eng.sym.foldl (fun s o =>
    match o.ends with
    | some code => s.symEndEarly o code
    | none => if o.vaultKey && s.rngBlocked then s.symEndEarly o 4 else s) s
  { s1 with eng := { s1.eng with sym := s1.eng.sym.map (fun (o : SymOp) => { o with parked := true }) } }.symStates

/-- ABORT of a channel: its command ends at the next landing point; with none running the context that the block names is
freed where the channel holds it (R408, log entry 33). -/
def State.symAbort (s : State) (c : CpuId) : State :=
  let r := EngReq.direct c
  if (s.symOf r).isSome then
    { s with eng := { s.eng with sym := s.eng.sym.map (fun o =>
        if o.req = r then { o with ends := some (o.ends.getD 6) } else o) } }
  else
    let n : Fin 8 := finOf 8 (symArgs (s.symWords r 0)).2.ctx.toNat
    if symCtxOf (s.eng.ctx.at n) r then s.setCtx n none else s

/-! ## The random source (R411 to R414) -/

/-- A health test fails: the DRBG is blocked; a third failure within 1000 ticks latches DEAD. -/
def State.rngFail (s : State) (apt : Bool) : State :=
  let l := (s.eng.fails.filter (fun f => decide (s.tick.frame < f + 1000))) ++ [s.tick.frame]
  let s1 := ((if apt then s.bump RNG_CNT_APT else s.bump RNG_CNT_RCT)).setb RNG_STAT_FAIL
  let s2 := if 3 ≤ l.length then s1.setb RNG_STAT_DEAD else s1
  { s2 with eng := { s2.eng with fails := l } }.raise 0x23

/-- A fresh instance or reseed: requests are counted anew, and RNG_OUT's buffer is refilled. -/
def State.rngSeed (s : State) : State :=
  { s with eng := { s.eng with reqs := 0, seedAt := s.cel.elapsed, rngOut := 16 } }.wr RNG_STAT_EMPTY 0

/-- A reseed is due (R412, Table 14.6): after RESEED_REQ × 1024 requests, 0 meaning 64, or RESEED_MS, below 10 acting as 10. -/
def State.reseedDue (s : State) : Bool :=
  let req := s.rd RNG_CFG_RESEED_REQ
  decide (1024 * (if req = 0 then 64 else req) ≤ s.eng.reqs) ||
    decide (1000000 * Nat.max 10 (s.rd RNG_CFG_RESEED_MS) ≤ s.cel.elapsed - s.eng.seedAt)

/-- A raw sample passes the health tests (R411): repetition count with cutoff 41, adaptive proportion with window 1024 and cutoff
800. -/
def State.rngSample (s : State) (b : Bool) : State :=
  let run := if s.eng.rct.2 ≠ 0 ∧ s.eng.rct.1 = b then s.eng.rct.2 + 1 else 1
  let (x, n, k) := s.eng.apt
  let (x', n', k') := if k = 0 ∨ 1024 ≤ k then (b, 1, 1) else (x, if x = b then n + 1 else n, k + 1)
  let s1 := { s with eng := { s.eng with rct := (b, run), apt := (x', n', k') } }
  let s2 := if run = 41 then s1.rngFail false else s1
  if n' = 800 ∧ n ≠ 800 then s2.rngFail true else s2

/-- A raw sample of the source. -/
def State.rawSample (s : State) : Bool × State :=
  let b := Config.rawBit s.draws
  (b, { s with draws := s.draws + 1 }.rngSample b)

/-- `n` raw samples, the first first. -/
def State.rawSamples : Nat → State → List Bool × State
  | 0, s => ([], s)
  | n + 1, s =>
    let (b, s1) := s.rawSample
    let (l, s2) := rawSamples n s1
    (b :: l, s2)

/-- A load of RNG_OUT (R413, R415). -/
def State.rngOut (s : State) (c : CpuId) : State :=
  if s.rngBlocked then s.loaded c 0
  else if s.eng.rngOut = 0 then (s.loaded c 0).setb RNG_STAT_EMPTY
  else
    let (w, s1) := s.drbg
    { s1 with eng := { s1.eng with rngOut := s1.eng.rngOut - 1 } }.loaded c w

/-! ## Meanings -/

/-- ECB_ENC (R399). -/
def execEcbEnc (r : EngReq) (s : State) : Host.Outcome State Fault Refusal := .next (s.symStart 0x01 r)
/-- ECB_DEC (R399). -/
def execEcbDec (r : EngReq) (s : State) : Host.Outcome State Fault Refusal := .next (s.symStart 0x02 r)
/-- CBC_ENC (R400). -/
def execCbcEnc (r : EngReq) (s : State) : Host.Outcome State Fault Refusal := .next (s.symStart 0x03 r)
/-- CBC_DEC (R400). -/
def execCbcDec (r : EngReq) (s : State) : Host.Outcome State Fault Refusal := .next (s.symStart 0x04 r)
/-- CTR (R400). -/
def execCtr (r : EngReq) (s : State) : Host.Outcome State Fault Refusal := .next (s.symStart 0x05 r)
/-- CMAC_GEN (R400). -/
def execCmacGen (r : EngReq) (s : State) : Host.Outcome State Fault Refusal := .next (s.symStart 0x06 r)
/-- CMAC_CHK (R401). -/
def execCmacChk (r : EngReq) (s : State) : Host.Outcome State Fault Refusal := .next (s.symStart 0x07 r)
/-- GCM_ENC (R400). -/
def execGcmEnc (r : EngReq) (s : State) : Host.Outcome State Fault Refusal := .next (s.symStart 0x08 r)
/-- GCM_DEC (R401). -/
def execGcmDec (r : EngReq) (s : State) : Host.Outcome State Fault Refusal := .next (s.symStart 0x09 r)
/-- SHA256 (R402). -/
def execSha256 (r : EngReq) (s : State) : Host.Outcome State Fault Refusal := .next (s.symStart 0x10 r)
/-- SHA384 (R402). -/
def execSha384 (r : EngReq) (s : State) : Host.Outcome State Fault Refusal := .next (s.symStart 0x11 r)
/-- SHA512 (R402). -/
def execSha512 (r : EngReq) (s : State) : Host.Outcome State Fault Refusal := .next (s.symStart 0x12 r)
/-- HMAC256_GEN (R399). -/
def execHmac256Gen (r : EngReq) (s : State) : Host.Outcome State Fault Refusal := .next (s.symStart 0x18 r)
/-- HMAC384_GEN (R399). -/
def execHmac384Gen (r : EngReq) (s : State) : Host.Outcome State Fault Refusal := .next (s.symStart 0x19 r)
/-- HMAC512_GEN (R399). -/
def execHmac512Gen (r : EngReq) (s : State) : Host.Outcome State Fault Refusal := .next (s.symStart 0x1A r)
/-- HMAC256_CHK (R401). -/
def execHmac256Chk (r : EngReq) (s : State) : Host.Outcome State Fault Refusal := .next (s.symStart 0x1C r)
/-- HMAC384_CHK (R401). -/
def execHmac384Chk (r : EngReq) (s : State) : Host.Outcome State Fault Refusal := .next (s.symStart 0x1D r)
/-- HMAC512_CHK (R401). -/
def execHmac512Chk (r : EngReq) (s : State) : Host.Outcome State Fault Refusal := .next (s.symStart 0x1E r)
/-- KDF (R405). -/
def execKdf (r : EngReq) (s : State) : Host.Outcome State Fault Refusal := .next (s.symStart 0x20 r)
/-- SYM_ABORT (R408). -/
def execSymAbort (c : CpuId) (s : State) : Host.Outcome State Fault Refusal := .next (s.byCore c (fun s => s.symAbort c))
/-- SYM_OP_COMPLETE (R406). -/
def execSymOpComplete (r : EngReq) (s : State) : Host.Outcome State Fault Refusal := .next (s.symComplete r)
/-- RNG_HEALTH_FAIL (R414): `apt` for the adaptive proportion test. -/
def execRngHealthFail (apt : Bool) (s : State) : Host.Outcome State Fault Refusal :=
  .next (if s.mainUp then s.rngFail apt else s)
/-- RNG_RESTART_COMPLETE (R414): not once DEAD is latched. -/
def execRngRestartComplete (s : State) : Host.Outcome State Fault Refusal :=
  .next (if !s.mainUp || s.isSet RNG_STAT_DEAD || !s.rngBlocked then s else (s.wr RNG_STAT_FAIL 0).rngSeed)
/-- DRBG_RESEED (R412). -/
def execDrbgReseed (s : State) : Host.Outcome State Fault Refusal :=
  .next (if !s.mainUp || s.rngBlocked || !s.reseedDue then s else s.rngSeed)
/-- RNG_OUT_READ (R413). -/
def execRngOutRead (c : CpuId) (s : State) : Host.Outcome State Fault Refusal := .next (s.byCore c (fun s => s.rngOut c))

end Sys2Proof.Machine
end

