-- ==== Sys2Proof/Machine/Jobs.lean ====
section
/-!
DEFINITION. Jobs.lean: the job table, its releases, budgets, deadlines, landing points and run-ahead (spec/02_tick.md, R50 to
R75).
-/
namespace Sys2Proof.Machine

/-! ## The table (Table 2.9) -/

/-- The owner of an entry that is in use: reserved owners and a budget of 0 act as VALID = 0. -/
def State.jobOwner (s : State) (j : JobId) : Option JobOwner :=
  if s.isSet (TICK_JOB_VALID j) ∧ s.rd (TICK_JOB_BUDGET j) ≠ 0 then JobOwner.ofCode (s.rd (TICK_JOB_OWNER j)) else none

/-- The per-frame budget in µs: above 10000 acts as 10000. -/
def State.jobBudget (s : State) (j : JobId) : Nat := Nat.min 10000 (s.rd (TICK_JOB_BUDGET j))

/-- Budget sum of an owner over all valid entries (R54). -/
def State.bookSum (s : State) (o : JobOwner) : Nat :=
  (finList 64).foldl (fun n j => if s.jobOwner j = some o then n + s.jobBudget j else n) 0

/-- The foreground window in µs for a period code and a floor (R50): from 5 µs to P × (1 − BG_FLOOR). -/
def windowUs (per bgf : Nat) : Nat := periodNs per / 1000 * (100 - bgFloor bgf) / 100 - 5

/-- Every owner's sum fits a window (R54). -/
def State.bookFits (s : State) (per bgf : Nat) : Bool :=
  [JobOwner.cpu 0, .cpu 1, .pke, .sym, .str, .arc].all (fun o => decide (s.bookSum o ≤ windowUs per bgf))

/-- An entry is due in the frame whose TICK_FRAME.COUNT is `count`, of 32 bits; on demand, where a kick of an earlier frame asks
for it (R55). -/
def State.jobDue (s : State) (j : JobId) (count : Nat) (kicks : BitVec 64) : Bool :=
  let p := s.rd (TICK_JOB_PERIOD j)
  if p = 0 then kicks.getLsbD j.val else count % 2 ^ 32 % p == s.rd (TICK_JOB_PHASE j) % p

/-- The mode releases an entry (Table 2.6). -/
def State.jobMode (s : State) (j : JobId) : Bool :=
  match s.sys.mode with
  | .fit | .service | .workshop | .inspect => true
  | .doze => s.isSet (TICK_JOB_DOZE j)
  | _ => false

/-- The owner's engine is stopped by the fallback to the RC oscillator (R75). -/
def State.ownerStopped (s : State) (o : JobOwner) : Bool := s.sys.stopped && (o == .pke || o == .sym || o == .str)

/-! ## Delivery to cores (R57) -/

/-- The instance delivered to a core. -/
def State.delivered (s : State) (c : CpuId) : Option JobId :=
  (finList 64).find? (fun j => match s.tick.inst.at j with
    | some i => i.owner == .cpu c && i.started
    | none => false)

/-- A core with nothing outstanding gets its next waiting job. -/
def State.deliver (s : State) (c : CpuId) : State :=
  if (s.delivered c).isSome then s
  else match (finList 64).find? (fun j => match s.tick.inst.at j with | some i => i.owner == .cpu c | none => false) with
    | none => s
    | some j => match s.tick.inst.at j with
      | none => s
      | some i =>
        ((s.setInst j (some { i with started := true })).wrs [(TICK_CORE_JOB c, j.val), (TICK_CORE_ACTIVE c, 1),
          (TICK_CORE_ABORT c, 0), (TICK_CORE_ARG c, i.arg.toNat)]).ipend c 0

/-! ## Releases (R55, R56, R62, R74, R75) -/

/-- A release skipped; SKIPPED shows only where no instance is outstanding. -/
def State.jobSkip (s : State) (j : JobId) : State :=
  let s1 := s.bump TICK_SKIP_COUNT
  let s2 := { s1 with care := { s1.care with period := { s1.care.period with skip := s1.care.period.skip + 1 } } }
  if (s.tick.inst.at j).isNone then s2.jobStatus j 6 else s2

/-- The release of one due entry. -/
def State.jobRelease (s : State) (j : JobId) : State :=
  match s.jobOwner j with
  | none => s
  | some o =>
    if s.jobDue j s.tick.frame s.tick.kicked = false then s
    else if s.sys.mode = .hold then s.jobSkip j
    else if s.jobMode j = false then s
    else if s.ownerStopped o || (s.tick.inst.at j).isSome then s.jobSkip j
    else
      let i : JobInst := { owner := o, arg := BitVec.ofNat 16 (s.rd (TICK_JOB_ARG j)), edges := Nat.max 1 (s.rd (TICK_JOB_SPAN j)) }
      (s.setInst j (some i)).jobStatus j 2

/-- A parked instance takes its turn in a new frame. -/
def State.jobResume (s : State) (j : JobId) : State :=
  match s.tick.inst.at j with
  | some i =>
    if i.parked ∧ !i.aborted then (s.setInst j (some { i with parked := false, yielded := false, spent := false })).jobStatus j 2
      else s.setInst j (some { i with spent := false })
  | none => s

/-- Parked jobs resume and due jobs are released, in table order; kicks are used up. -/
def State.jobsRelease (s : State) : State :=
  let s1 := if s.sys.mode = .hold then s else (finList 64).foldl State.jobResume s
  let s2 := (finList 64).foldl State.jobRelease s1
  { s2 with tick := { s2.tick with kicked := 0 } }

/-! ## Jobs of the Store Room and the Archive -/

/-- The job that has the engine of an owner. -/
def State.jobOn (s : State) (o : JobOwner) : Option JobId :=
  (finList 64).find? (fun j => match s.tick.inst.at j with
    | some i => i.owner == o && i.started && !i.parked && !i.aborted
    | none => false)

/-- The first job that waits for the engine of an owner, in table order (R56): one released, or one that gave way (R65). -/
def State.jobWaits (s : State) (o : JobOwner) : Option JobId :=
  (finList 64).find? (fun j => match s.tick.inst.at j with
    | some i => i.owner == o && !i.aborted && ((!i.started && !i.parked) || i.yielded)
    | none => false)

/-- The engine of an owner takes a job where it has none. -/
def State.jobTake (s : State) (o : JobOwner) : State :=
  if (s.jobOn o).isSome ∨ s.tick.phase ≠ .foreground then s
  else match s.jobWaits o with
    | none => s
    | some j => match s.tick.inst.at j with
      | some i => (s.setInst j (some { i with started := true, parked := false, yielded := false })).jobStatus j 2
      | none => s

/-- At a landing point the engine of an owner passes to a job of higher priority (R65). -/
def State.jobPass (s : State) (o : JobOwner) : State :=
  match s.jobOn o, s.jobWaits o with
  | some j, some k =>
    if k.val < j.val ∧ s.tick.phase = .foreground then
      match s.tick.inst.at j with
      | some i => ((s.setInst j (some { i with parked := true, yielded := true })).jobStatus j 3).jobTake o
      | none => s
    else s
  | _, _ => s.jobTake o

/-- Both engines take their first jobs. -/
def State.jobsTake (s : State) : State := (s.jobTake .str).jobTake .arc

/-! ## Batches of the Store Room (R349) -/

/-- Little-endian words written where they lie in SRAM. -/
def State.sramPut (s : State) (a : Nat) (l : List Byte) : State := if inSram a l.length then s.unitPut a l else s

/-- Searches of a batch from the `k`th on, in order. -/
def State.batchRun (r : Region) (kadr radr : Nat) : Nat → Nat → State → State
  | 0, _, s => s
  | n + 1, k, s =>
    let key := BitVec.ofNat 160 (leNat (s.busBytes (kadr + 20 * k) 20))
    let (a, s1) := s.strAsk r key
    State.batchRun r kadr radr n (k + 1) (s1.sramPut (radr + 8 * k) (a.result.bytes ++ (a.idxWord s.tick.frame).bytes))

/-- Word `k` of a batch block. -/
def State.batchWord (s : State) (i : JobInst) (k : Nat) : Nat := leNat (s.busBytes (16 * s.rd STR_BATCH_BASE + 16 * i.arg.toNat + 4 * k) 4)

/-- Searches of a batch. -/
def State.batchLen (s : State) (i : JobInst) : Nat := bits (s.batchWord i 0) 8 8

/-- The next `n` searches of a job's batch. -/
def State.batchMore (s : State) (i : JobInst) (n : Nat) : State :=
  State.batchRun (Region.ofCode (s.batchWord i 0 % 4)) (s.batchWord i 1) (s.batchWord i 2) n i.served s

/-- The batch that the Store Room works on has come some way by now, which the spec does not say: any number of its searches is
done, and their results stay (Table 2.4). -/
def State.strProgress (s : State) : State :=
  match s.jobOn .str with
  | none => s
  | some j => match s.tick.inst.at j with
    | none => s
    | some i =>
      if s.sys.stopped then s
      else
        let (n, s1) := s.choose (s.batchLen i - i.served + 1)
        (s1.batchMore i n).setInst j (some { i with served := i.served + n })

/-- Both cores get their next job, while they run. -/
def State.deliverAll (s : State) : State := if s.sys.mode = .hold then s else (s.deliver 0).deliver 1

/-- The phase of the frame changed. -/
def State.setPhase (s : State) (p : Phase) (closed : Bool) : State :=
  { s with tick := { s.tick with phase := p, closed := closed } }

/-- The end of harvest: jobs are released, and cores get theirs. -/
def State.harvestEnd (s : State) : State :=
  if !s.isSet TICK_STAT_RUN || s.tick.phase != .harvest then s
  else (s.setPhase .foreground false).jobsRelease.jobsTake.deliverAll.pkeStates.symStates

/-- TICK_KICKn. -/
def State.kick (s : State) (n : Fin 2) (v : Word) : State :=
  { s with tick := { s.tick with kick := s.tick.kick ||| ((v.setWidth 64) <<< (32 * n.val)) } }

/-! ## The end of a job -/

/-- TICK_DONE by a core (R57, R58). -/
def State.tickDone (s : State) (c : CpuId) (job : JobId) : State :=
  if s.delivered c = some job then
    let aborted := match s.tick.inst.at job with | some i => i.aborted | none => false
    let s1 := (s.setInst job none).coreIdle c
    (if aborted then s1 else s1.jobStatus job 1).deliver c
  else (s.setb TICK_STAT_DONEERR).misuse

/-- A job has used its per-frame budget (R60). -/
def State.budgetUsed (s : State) (j : JobId) : State :=
  match s.tick.inst.at j with
  | none => s
  | some i =>
    if i.aborted || i.spent || s.tick.phase == .harvest then s
    else
      let s1 := s.setInst j (some { i with spent := true })
      match i.owner with
      | .cpu c => if i.started then s1.ipend c 1 else s
      | _ => s1

/-- The run-ahead slots a test picks, tagged with the frame in force, become STALE (R69, R70). -/
def State.raCancel (s : State) (f : Fin 16 → Bool) : State :=
  (finList 16).foldl (fun s m =>
    let g := s.rd (TICK_RA_IDX m) / 2 ^ 24
    if f m && (s.rd (TICK_RA_STATE m) == 1 || s.rd (TICK_RA_STATE m) == 3) && g == s.tick.frame % 256 then
      s.wrs [(TICK_RA_STATE m, 2), (TICK_RA_RES m, 0), (TICK_RA_IDX m, 2 ^ 24 * g)]
    else s) s

/-- A job incomplete at its deadline edge (R64): the abort, whatever OVERRUN's response; where it owned a run-ahead slot, every
result of the frame becomes STALE (R69). -/
def State.jobOverrun (s : State) (j : JobId) : State :=
  match s.tick.inst.at j with
  | none => s
  | some i =>
    if i.edges ≠ 0 ∨ i.aborted then s
    else
      let s1 := (s.bump TICK_OVR_COUNT).wr TICK_OVR_LAST j.val
      let s2 := { s1 with care := { s1.care with period := { s1.care.period with ovr := s1.care.period.ovr + 1 } } }
      let s3 := (if i.owner = .str then s2.strProgress else s2).jobAbort j 4 false
      let s4 := if s.tick.raOwners.contains j then s3.raCancel (fun _ => true) else s3
      s4.jobsTake.raise 0x20

/-! ## Landing points (R52, R60, R65) -/

/-- An engine job parks where its budget is used, or the window has closed. -/
def State.jobPark (s : State) (f : JobId → JobOwner → Bool) : State :=
  (finList 64).foldl (fun s j => match s.tick.inst.at j with
    | some i =>
      if f j i.owner && i.started && (!i.parked || i.yielded) && !i.aborted && (i.spent || s.tick.phase == .slack) then
        (s.setInst j (some { i with parked := true, yielded := false })).jobStatus j 3
      else s
    | none => s) s

/-- A job's operation runs in a pipe. -/
def State.inPipe (s : State) (sp : Bool) (j : JobId) (o : JobOwner) : Bool :=
  o == .pke && (match s.pkeOf (.job j) with | some x => (x.spipe && !x.handed) == sp | none => false)

/-- A landing point of an engine. -/
def State.landing (s : State) (e : Engine) : State :=
  match e with
  | .spipe => (s.jobPark (s.inPipe true)).pkeLanding true
  | .ppipe => (s.jobPark (s.inPipe false)).pkeLanding false
  | .sym => (s.jobPark (fun _ o => o == .sym)).symLanding
  | .storeRoom => (s.strProgress.jobPark (fun _ o => o == .str)).jobPass .str
  | .archive => (s.jobPark (fun _ o => o == .arc)).jobPass .arc

/-- A frame ends: the window has closed, and every engine job has come to its landing point (R50, R52; Table 2.5). -/
def State.frameClose (s : State) : State :=
  if s.tick.phase = .harvest then s
  else ((((((s.setPhase .slack true).landing .spipe).landing .ppipe).landing .sym).landing .storeRoom).landing .archive).vNext

/-! ## Run-ahead (R67 to R72) -/

/-- An entry is to be released in the next frame, as far as is known now: an instance outstanding may end by then (R69). -/
def State.jobNext (s : State) (j : JobId) : Bool :=
  match s.jobOwner j with
  | none => false
  | some o => s.jobDue j (s.tick.frame + 1) s.tick.kick && s.jobMode j && !s.ownerStopped o

/-- A slot issues a search in this frame (R67). -/
def State.raIssues (s : State) (m : Fin 16) : Bool :=
  s.isSet (TICK_RA_EN m) && s.rd (TICK_RA_REGION m) != 1 && s.jobNext (finOf 64 (s.rd (TICK_RA_JOB m)))

/-- One slot's search: the slot reads EMPTY from the issue on, and its answer once the search returns, which by the edge it need
not (R68). The search writes nothing but the slot (R72). -/
def State.raIssue (s : State) (m : Fin 16) : State :=
  if !s.raIssues m then s
  else
    let (k, s1) := s.choose 2
    if k = 0 then s1.wrs [(TICK_RA_STATE m, 0), (TICK_RA_RES m, 0), (TICK_RA_IDX m, 0)]
    else
      let key := keyOf ((finList 5).map (fun k => BitVec.ofNat 32 (s.rd (TICK_RA_KEY m k))))
      let a := (s1.strSearch (Region.ofCode (s.rd (TICK_RA_REGION m))) key).1
      s1.wrs [(TICK_RA_STATE m, if a.isBusy then 3 else 1), (TICK_RA_RES m, a.result.toNat),
        (TICK_RA_IDX m, (a.idxWord (s.tick.frame + 1)).toNat)]

/-- Run-ahead at 90 % of the period. -/
def State.runAhead (s : State) : State :=
  if !s.isSet TICK_STAT_RUN || !s.isSet TICK_CFG_RAEN || s.tick.phase == .harvest then s
  else
    let l := (finList 64).filter s.jobNext
    let owners := ((finList 16).filter s.raIssues).map (fun m => finOf 64 (s.rd (TICK_RA_JOB m)))
    (finList 16).foldl State.raIssue { s with tick := { s.tick with ahead := l, raOwners := owners } }

/-- No instance is outstanding (R50). -/
def State.noneOutstanding (s : State) : Bool := (finList 64).all (fun j => (s.tick.inst.at j).isNone)

/-- The foreground window closes (R52). -/
def State.windowClose (s : State) : State :=
  if !s.isSet TICK_STAT_RUN || s.tick.phase == .harvest then s
  else (s.setPhase .slack true).pkeStates.symStates

/-! ## Meanings -/

/-- HARVEST_END (R56). -/
def execHarvestEnd (s : State) : Host.Outcome State Fault Refusal := .next s.harvestEnd
/-- FOREGROUND_WINDOW_CLOSE (R52). -/
def execForegroundWindowClose (s : State) : Host.Outcome State Fault Refusal := .next s.windowClose
/-- RUN_AHEAD (R67). -/
def execRunAhead (s : State) : Host.Outcome State Fault Refusal := .next s.runAhead
/-- TICK_KICK (R55). -/
def execTickKick (a : Agent) (n : Fin 2) (v : Word) (s : State) : Host.Outcome State Fault Refusal :=
  .next (s.byAgent a (fun s => s.kick n v))
/-- TICK_DONE (R57, R58). -/
def execTickDone (c : CpuId) (job : JobId) (s : State) : Host.Outcome State Fault Refusal :=
  .next (s.byCore c (fun s => s.tickDone c job))
/-- JOB_BUDGET_USED (R60). -/
def execJobBudgetUsed (j : JobId) (s : State) : Host.Outcome State Fault Refusal := .next (s.budgetUsed j)
/-- JOB_OVERRUN (R64). -/
def execJobOverrun (j : JobId) (s : State) : Host.Outcome State Fault Refusal := .next (s.jobOverrun j)
/-- LANDING_POINT (R65). -/
def execLandingPoint (e : Engine) (s : State) : Host.Outcome State Fault Refusal := .next (s.landing e).vNext
/-- PLL_RELOCK (R550): the PLL has held lock for 100 µs; the next boundary ends the fallback. -/
def execPllRelock (s : State) : Host.Outcome State Fault Refusal :=
  .next (if s.sys.stopped && !(s.watch.src.at 8).trip && s.sys.mode != .rise then { s with sys := { s.sys with relock := true } } else s)

end Sys2Proof.Machine
end

