-- ==== Sys2Proof/Machine/Larder.lean ====
section
/-!
DEFINITION. Larder.lean: counters, rings, the parameter store and core stores to the Larder (spec/15_larder_archive.md, R417
to R432).
-/
namespace Sys2Proof.Machine

/-! ## Parameter groups (Table 15.5) -/

/-- The sources that exist. -/
def srcIds : List SrcId := (finList 0x58).filter (fun n => srcExists n.val)

/-- The configuration fields of a port (R185). -/
def portCfgFields (p : PortId) : List Field :=
  [PORT_FUNC_FN p, PORT_FUNC_FIX p, PORT_CFG_FILT p, PORT_CFG_PULLA p, PORT_CFG_PULLB p, PORT_CFG_AUTOCLR p,
   PORT_PAR p 0, PORT_PAR p 1, PORT_PAR p 2, PORT_PAR p 3]

/-- The configuration fields of a queue (R262). -/
def queueCfgFields (q : QueueId) : List Field :=
  [QFX_RES q, QFX_QUOTA q, QFX_FULL q, QFX_IEN q, QFX_OWNER q, QFX_PROD q, QFX_SRC_ID q]

/-- The configuration fields of a Watch source (R494). -/
def watchCfgFields (n : SrcId) : List Field :=
  [WATCH_RESP n, WATCH_FILT n, WATCH_CFILT n, WATCH_FLOOR n, WATCH_FMAX n, WATCH_ESCN n, WATCH_ESCWIN n, WATCH_ESCRESP n,
   WATCH_ARM n]

/-- The fields a parameter group holds. -/
def groupFields (g : Nat) : List Field :=
  match g with
  | 0 => [TICK_CFG_PER, TICK_CFG_BGF]
  | 1 => (finList 24).flatMap portCfgFields
  | 2 => (finList 64).flatMap queueCfgFields ++ [QFX_FLUSHLIM]
  | 3 => srcIds.flatMap watchCfgFields ++
      [WATCH_THR0_VBATTH, WATCH_THR0_TLO, WATCH_THR0_THI, WATCH_THR0_SLEW, WATCH_THR1_FIELDTH, WATCH_THR1_LIGHTSENS,
       CEL_CFG_T_CS, CEL_RSTCFG_T_STUCK]
  | 4 => [CON_CFG_CHKREQ, CON_CFG_IDLE, CON_CFG_APTO, CON_AUTH_FAILS]
  | 5 => [TBS_AGE, TBS_PPSCFG_DELAY, TBS_PPSCFG_LOSS, TBS_PPSCFG_HOLDMAX, TBS_ADJCFG_MAX, TBS_ADJCFG_WIN, TBS_ADJUSED,
      TBS_ADJWSTART, TBS_LEAP_DAY, TBS_LEAPCTL_DIR, TBS_LEAPCTL_TAI, TBS_SPDCFG_WIN]
  | 6 => [TELE_CFG_PER, TELE_CFG_INFOTO, TELE_CFG_HOSTCTL, CARE_CFG_AWARN, CARE_CFG_LWARN]
  | _ => []

/-- CTR5 as it will stand once waiting increments are written (R422, R466). -/
def State.ctr5 (s : State) : Nat :=
  s.ctrVal 5 + (s.ldr.incs.filter (fun e => decide (e.1 = (5 : CtrId)))).foldl (fun n e => n + e.2) 0

/-- The snapshot of a group: the values in force (R431). -/
def State.snapshot (s : State) (g : Fin 8) : ParamRec :=
  { pseq := 0
    vals := (groupFields g.val).map (fun f => (f.key, BitVec.ofNat 32 (s.rd f)))
    stamp := if g = 5 then s.ctr5 else 0
    cal := if g = 5 then s.tbs.calAt else 0 }

/-- A snapshot written to the window's next slot, with PSEQ one above the newest (R431). -/
def State.paramWrite (s : State) (g : Fin 8) (r : ParamRec) : State :=
  let pseq := match s.nv.param.at g with | some o => o.pseq + 1 | none => 1
  { s with nv := { s.nv with param := s.nv.param.put g (some { r with pseq := pseq }) } }

/-- A save that a verb or a block asks for: it waits through hold-off with the snapshot of its request (R422). -/
def State.paramAuto (s : State) (g : Fin 8) : State :=
  if s.holdoff then { s with ldr := { s.ldr with saves := s.ldr.saves ++ [(g.val, s.snapshot g)] } }
  else s.paramWrite g (s.snapshot g)

/-- A core's save (R431): HELD during hold-off, GROUP for group 7. -/
def State.paramSave (s : State) (c : CpuId) (g : Fin 8) : State :=
  let refuse (code : Nat) : State := s.wrs [(LDR_PSTAT_STATE c, 3), (LDR_PSTAT_CODE c, code)]
  if g = 7 then refuse 9
  else if s.holdoff then refuse 6
  else (s.paramWrite g (s.snapshot g)).wrs [(LDR_PSTAT_STATE c, 2), (LDR_PSTAT_CODE c, 0)]

/-! ## Counters (R425 to R428) -/

/-- A port running PULSE names the counter (R428). -/
def State.ctrBound (s : State) (k : CtrId) : Bool := (finList 24).any (fun p => s.pulseCtr p == some k)

/-- The counters a core increments (Table 15.4). -/
def ctrOfCores (k : CtrId) : Bool := k.val == 3 || decide (8 ≤ k.val)

/-- A core's increment: its code and the state after it. -/
def State.ctrCore (s : State) (k : CtrId) (a : Nat) : Nat × State :=
  if !ctrOfCores k then (2, s)
  else if s.ctrBound k then (3, s)
  else if s.holdoff then (6, s)
  else s.ctrInc k a

/-- LDR_INC by a core. -/
def State.counterIncrement (s : State) (c : CpuId) (k : CtrId) : State :=
  let (code, s1) := s.ctrCore k (s.rd (LDR_INCAMT c))
  s1.wr (LDR_INCSTAT c) code

/-! ## Rings (R424) -/

/-- The slot ranges that the other counters' rings take. -/
def State.ringsBut (s : State) (k : CtrId) : List (Nat × Nat) :=
  (finList 64).filterMap (fun j =>
    let r := s.nv.ring.at j
    if j = k ∨ r.slots = 0 then none else some (r.base, r.slots))

/-- A run of slots meets no ring. -/
def runFree (l : List (Nat × Nat)) (base n : Nat) : Bool :=
  decide (base + n ≤ 4096) && l.all (fun r => decide (base + n ≤ r.1) || decide (r.1 + r.2 ≤ base))

/-- The lowest free run begins at slot 0 or where a ring ends. -/
def State.ringPlace (s : State) (k : CtrId) (n : Nat) : Option Nat :=
  let l := s.ringsBut k
  let starts := (0 :: l.map (fun r => r.1 + r.2)).filter (fun b => runFree l b n)
  match starts with
  | [] => none
  | b :: t => some (t.foldl Nat.min b)

/-- What a ring change comes to: 0 done, 1 the mode, 2 the size, 3 already incremented or no valid slot, 4 no space. -/
def State.ringSet (s : State) (k : CtrId) (n : Nat) : Nat × State :=
  let r := s.nv.ring.at k
  let bad (code : Nat) : Nat × State := (code, s.setb LDR_ERR_RING)
  if n < 16 ∨ 256 < n then bad 2
  else if s.sys.mode ≠ .fit then bad 1
  else if r.slots ≠ 0 ∧ (r.noValid ∨ (s.ctrSlot k).seq ≠ 0) then bad 3
  else match s.ringPlace k n with
    | none => bad 4
    | some b =>
      let old := s.nv.slots.filter (fun e => decide (e.1 < r.base) || decide (r.base + r.slots ≤ e.1))
      let clean := old.filter (fun e => decide (e.1 < b) || decide (b + n ≤ e.1))
      (0, { s with nv := { s.nv with
        ring := s.nv.ring.put k { base := b, slots := n }
        slots := spInsert clean b ⟨0, 0⟩ } })

/-- LDR_RCFG.GO by a core; an RWS register, so that the write is ignored from SEALED on (R2). -/
def State.ringConfig (s : State) (k : CtrId) (n : Nat) : State := if s.rwsOpen then (s.ringSet k n).2 else s

/-! ## Core stores (R417 to R419, R422) -/

/-- An offset of the application area. -/
def ldrApp (off : Nat) : Bool := decide (0x1F000 ≤ off) && decide (off < 0x40000)

/-- A core store. -/
def State.larderStore (s : State) (off : Nat) (w : Width) (v : Word) : State :=
  if off % w.bytes ≠ 0 then s
  else if !ldrApp off then (s.setb LDR_ERR_MISUSE).misuse
  else if s.holdoff then s.setb LDR_ERR_HELD
  else s.putBytes (ldrBase + off) (v.bytes.take w.bytes)

/-! ## Meanings -/

/-- COUNTER_INCREMENT (R425 to R428). -/
def execCounterIncrement (c : CpuId) (k : CtrId) (s : State) : Host.Outcome State Fault Refusal :=
  .next (s.byCore c (fun s => s.counterIncrement c k))
/-- RING_CONFIG (R424). -/
def execRingConfig (c : CpuId) (k : CtrId) (slots : Fin 512) (s : State) : Host.Outcome State Fault Refusal :=
  .next (s.byCore c (fun s => s.ringConfig k slots.val))
/-- PARAM_SAVE (R431). -/
def execParamSave (c : CpuId) (g : Fin 8) (s : State) : Host.Outcome State Fault Refusal :=
  .next (s.byCore c (fun s => s.paramSave c g))
/-- LARDER_STORE (R418, R419, R422). -/
def execLarderStore (c : CpuId) (off : BitVec 18) (w : Width) (v : Word) (s : State) : Host.Outcome State Fault Refusal :=
  .next (s.byCore c (fun s => s.larderStore off.toNat w v))

end Sys2Proof.Machine
end

