-- ==== Sys2Proof/Machine/Time.lean ====
section
/-!
DEFINITION. Time.lean: the Cellar RTC, the timebase and its states, UTC and its steps, leap seconds and the adjustment
allowance (spec/16_time_measurement.md, R455 to R469).
-/
namespace Sys2Proof.Machine

/-! ## Texts of the console -/

/-- UTC with nine fraction digits, or `unknown` (R164, R468). -/
def State.utcText (s : State) : List Byte :=
  if s.timeUnk then txt "unknown"
  else isoSec (s.utcNs / 1000000000) s.tbs.leapNow ++ [0x2E] ++ decN 9 (s.utcNs % 1000000000) ++ [0x5A]

/-- The timebase state as Table 16.2 shows it (R164). -/
def State.srcText (s : State) : List Byte :=
  if s.timeUnk then txt "UNKNOWN"
  else match s.rd TBS_STAT_STATE with
    | 2 => txt "PPS" | 3 => txt "HOLDOVER" | _ => txt "RTC"

/-! ## States (Table 16.2) -/

/-- A change of the timebase state raises the TBS interrupt (R460). -/
def State.tbsTo (s : State) (st : Nat) : State :=
  if s.rd TBS_STAT_STATE = st then s
  else
    let s1 := { s with tbs := { s.tbs with good := if st = 2 then s.tbs.good else 0, bad := 0 } }
    (s1.wr TBS_STAT_STATE st).ipendAll 13

/-! ## The allowance (R465) -/

/-- MAX in ns. -/
def State.adjMaxNs (s : State) : Nat := 1000000000 * Nat.min 3600 (s.rd TBS_ADJCFG_MAX)

/-- WIN in seconds. -/
def State.adjWinS (s : State) : Nat := 86400 * (if s.rd TBS_ADJCFG_WIN = 0 then 7 else s.rd TBS_ADJCFG_WIN)

/-- A change of `n` ns fits what is left. -/
def State.adjFits (s : State) (n : Nat) : Bool := decide (s.tbs.adjNs + n ≤ s.adjMaxNs)

/-- A counted change; the first one opens a window. -/
def State.adjCharge (s : State) (n : Nat) : State :=
  let s1 := if s.rd TBS_ADJWSTART = 0 ∧ s.tbs.adjEnd.isNone then s.wr TBS_ADJWSTART s.utcS.toNat else s
  let used := s1.tbs.adjNs + n
  { s1 with tbs := { s1.tbs with adjNs := used } }.wr TBS_ADJUSED (Nat.min 0xFFFFFFFF (used / 1000000))

/-! ## Steps of UTC (R464, R467) -/

/-- TBS_OFFSET and the RTC move together; the RTC to its nearest unit, the remainder carried (R467). -/
def State.stepUtc (s : State) (d : Int) : State :=
  let total := 1048576000000000 * d + s.cel.rtcRem
  let units := (1000000000000000000 + 2 * total) / 2000000000000000000
  { s with
    tbs := { s.tbs with off := s.tbs.off + d }
    cel := { s.cel with rtc := ((s.cel.rtc : Int) + units).toNat, rtcRem := total - 1000000000000000000 * units } }

/-- The RTC agrees with the timebase, to its nearest unit, the remainder carried. -/
def State.rtcAgree (s : State) : State :=
  let units := (1000000000 + 2 * (1048576 * s.utcNs)) / 2000000000
  { s with cel := { s.cel with
      rtc := units, rtcRem := 1000000000 * ((1048576 * s.utcNs : Int) - 1000000000 * units) } }

/-- A whole second of UTC has begun within the last `ns`. -/
def State.secondBegun (s : State) (ns : Nat) : Bool := decide (s.utcNs / 1000000000 ≠ (s.utcNs - ns) / 1000000000)

/-- While LOCKED the RTC is stepped at each whole second to agree with the timebase (R462); during the RC fallback the count is
set to what the RTC gives, so that the two agree at every edge (R460). -/
def State.rtcSlave (s : State) (ns : Nat) : State :=
  if s.sys.stopped ∨ (s.rd TBS_STAT_STATE = 2 ∧ s.secondBegun ns) then s.rtcAgree else s

/-- A TIME record (Table 18.6): kind, its own bytes 9 to 17, then the low word of CTR5. -/
def State.timeRec (s : State) (kind : Nat) (body : List Byte) : State :=
  s.attic 4 (BitVec.ofNat 8 kind :: ((body ++ List.replicate 9 0).take 9 ++ leBytes 4 s.ctr5))

/-- CTR5 can be incremented, now or after hold-off (R166). -/
def State.ctr5Ok (s : State) : Bool := decide ((s.ctrInc 5 1).1 = 0)

/-- A step with a fraction of a second, made while LOCKED, sends the loop to ACQUIRE with PPSOFF set. -/
def State.stepLock (s : State) (d : Int) : State :=
  if s.rd TBS_STAT_STATE = 2 ∧ d % 1000000000 ≠ 0 then (s.tbsTo 1).setb TBS_STAT_PPSOFF else s

/-- Two's complement of a signed number, in `n` little-endian bytes. -/
def intBytes (n : Nat) (d : Int) : List Byte := leBytes n (d % (256 ^ n : Nat)).toNat

/-- An ADJ (R165, R466): the step, its charge outside WORKSHOP, CTR5, the record and the save. -/
def State.timeAdj (s : State) (d : Int) : State :=
  let s1 := if s.sys.mode = .workshop then s else s.adjCharge d.natAbs
  (((s1.stepUtc d).stepLock d).ctrAuto 5 1).timeRec 0 (intBytes 8 d) |>.paramAuto 5

/-- While time is unknown UTC counts from RISE (R468): the RTC is brought to it, so that a SET leaves both alike (R467). -/
def State.rtcAlign (s : State) : State := if s.timeUnk then s.rtcAgree else s

/-- A SET (R166, R466) that moves UTC by `d`; `old` is the UTC before it. -/
def State.timeSet (s : State) (d : Int) : State :=
  let old := s.utcS
  let s1 := ((s.rtcAlign.stepUtc d).stepLock d).wr CEL_FLAGS_TIMEUNK 0
  (s1.ctrAuto 5 1).timeRec 1 old.bytes |>.paramAuto 5

/-- The step that takes UTC to a whole second now. -/
def State.stepTo (s : State) (utc : Word) : Int := 1000000000 * (utc.toNat : Int) - ((s.tbs.mono : Int) + s.tbs.off)

/-! ## PPS (R217, R461, R462) -/

/-- The phase error e of an edge at `t4` quarter ns of the count, in ns, within ±0.5 s. -/
def State.ppsPhase (s : State) (t4 : Nat) : Int :=
  let u := (t4 : Int) / 4 - (s.rd TBS_PPSCFG_DELAY : Int) + s.tbs.off
  let r := u % 1000000000
  if 500000000 < r then r - 1000000000 else r

/-- TBS_PPSERR and the telemetry maximum. -/
def State.ppsNote (s : State) (e : Int) : State :=
  let s1 := s.wr TBS_PPSERR (e % 4294967296).toNat
  let m := Nat.min 65535 (Nat.max s1.care.period.ppserr e.natAbs)
  { s1 with care := { s1.care with period := { s1.care.period with ppserr := m } } }

/-- The runs of consecutive edges below 100 ns and above 1 µs. -/
def State.ppsRuns (s : State) (e : Int) : State :=
  { s with tbs := { s.tbs with
      good := if e.natAbs < 100 then s.tbs.good + 1 else 0
      bad := if 1000 < e.natAbs then s.tbs.bad + 1 else 0 } }

/-- What one second of discipline takes from the allowance: left open by the spec, at most 5 ppm (R461). -/
def State.ppsUse (s : State) : Nat × State :=
  let (m, s1) := s.measure
  (m.natAbs % 5001, s1)

/-- The state after an accepted edge (Table 16.2, R461). -/
def State.ppsState (s : State) : State :=
  match s.rd TBS_STAT_STATE with
  | 0 | 3 =>
    let g := s.tbs.good
    let s1 := s.tbsTo 1
    { s1 with tbs := { s1.tbs with good := g } }
  | 1 => if 16 ≤ s.tbs.good then s.tbsTo 2 else s
  | _ => if 3 ≤ s.tbs.bad then s.tbsTo 1 else s

/-- Discipline of one edge: the allowance, then the state. -/
def State.ppsFollow (s : State) (e : Int) : State :=
  let near := decide (e.natAbs ≤ 2000000)
  let s1 := (s.wr TBS_STAT_PPSOFF (b2n (!near))).ppsRuns e
  if s1.sys.mode = .workshop ∨ !near then s1.ppsState
  else
    let (n, s2) := s1.ppsUse
    if s2.adjFits n then (s2.adjCharge n).ppsState
    else { (s2.setb TBS_STAT_PPSOFF).tbsTo 0 with tbs := { ((s2.setb TBS_STAT_PPSOFF).tbsTo 0).tbs with exhausted := true } }

/-- An edge that the loop judges. During the RC fallback the timebase stays FREE; after an exhausted allowance it stays FREE
until the window ends or WORKSHOP is entered. -/
def State.ppsJudge (s : State) (t4 : Nat) : State :=
  let e := s.ppsPhase t4
  let s1 := s.ppsNote e
  let s2 := if s1.sys.mode = .workshop then { s1 with tbs := { s1.tbs with exhausted := false } } else s1
  if s2.sys.stopped ∨ s2.tbs.exhausted then s2 else s2.ppsFollow e

/-- TIME SET SRC=PPS: the seconds value is applied at this edge with the nanoseconds at 0 (R166). -/
def State.ppsSet (s : State) (t4 : Nat) : State :=
  match s.tbs.setAt with
  | none => s
  | some u =>
    let d := 1000000000 * (u.toNat : Int) - ((t4 : Int) / 4 - (s.rd TBS_PPSCFG_DELAY : Int) + s.tbs.off)
    let s1 := { s with tbs := { s.tbs with setAt := none } }
    let s2 := s1.timeSet d
    match s2.con.busy with
    | .pps tag => s2.replyOk tag (fld "utc" s2.utcText ++ fld "src" s2.srcText)
    | _ => s2

/-! ## Losses and expiries (R460, R461, R465, R466) -/

/-- No accepted edge for LOSS seconds while LOCKED. -/
def State.ppsLoss (s : State) : State := if s.rd TBS_STAT_STATE = 2 then s.tbsTo 3 else s

/-- HOLDMAX minutes of HOLDOVER. -/
def State.holdoverEnd (s : State) : State := if s.rd TBS_STAT_STATE = 3 then s.tbsTo 0 else s

/-- A window is open, or counts as open from RISE (R466). -/
def State.adjOpen (s : State) : Bool := s.rd TBS_ADJWSTART != 0 || s.tbs.adjEnd.isSome

/-- The window ends. -/
def State.adjWindowEnd (s : State) : State :=
  if !s.adjOpen then s
  else
    let s1 := if s.tbs.exhausted then s.wr TBS_STAT_PPSOFF 0 else s
    { s1.wrs [(TBS_ADJUSED, 0), (TBS_ADJWSTART, 0)] with
      tbs := { s1.tbs with adjNs := 0, adjEnd := none, exhausted := false } }

/-- Discipline counts against the allowance. -/
def State.disciplining (s : State) : Bool :=
  (s.rd TBS_STAT_STATE == 1 || s.rd TBS_STAT_STATE == 2) && s.sys.mode != .workshop

/-- The hourly save. -/
def State.disciplineSave (s : State) : State :=
  if s.disciplining then { s.paramAuto 5 with tbs := { s.tbs with savedAt := s.cel.elapsed } } else s

/-! ## The RTC (R456, R458) -/

/-- c(T) in ppb at a temperature (R456). -/
def rtcPoly (t : Int) : Int :=
  let d := t - Config.rtcCoef 4
  Config.rtcCoef 0 + Config.rtcCoef 1 * d + Config.rtcCoef 2 * d ^ 2 + Config.rtcCoef 3 * d ^ 3

/-- TBS_AGE as a signed number. -/
def State.age (s : State) : Int := (BitVec.ofNat 16 (s.rd TBS_AGE)).toInt

/-- The correction of a temperature reading, c(T) plus the learned ageing, is to take effect at the next whole second. -/
def State.rtcTemp (s : State) (t : Byte) : State :=
  { s with cel := { s.cel with rtcT := t.toNat, corrNext := rtcPoly ((t.toNat : Int) - 64) + s.age } }

/-- Clamped to ±3000 ppb. -/
def ageClamp (v : Int) : Int := if v < -3000 then -3000 else if 3000 < v then 3000 else v

/-- 24 h of lock, in ns (R458). -/
def dayNs : Nat := 86400000000000

/-- 24 h of lock have accumulated: one eighth of the way toward the measured error, which is rounded one way or the other
(R458). -/
def State.ageing (s : State) (m : Int) : State :=
  if s.rd TBS_STAT_STATE ≠ 2 ∨ s.timeUnk ∨ s.tbs.lockNs < dayNs then s
  else
    let d := m - s.age
    let (up, s1) := if d % 8 = 0 then (0, s) else s.choose 2
    let v := ageClamp (s.age + d / 8 + up)
    let s2 := { s1.wr TBS_AGE (v % 65536).toNat with tbs := { s1.tbs with lockNs := s1.tbs.lockNs - dayNs } }
    (s2.rtcTemp (BitVec.ofNat 8 s2.cel.rtcT)).paramAuto 5

/-! ## Leap seconds (R464) -/

/-- The RTC holds the announced leap second while the main domain is off. -/
def State.leapCellar (s : State) : State :=
  let day := s.cel.leapDay.toNat
  let sec := s.cel.rtc / 1048576
  match s.cel.leapDir.toNat with
  | 1 => if day ≤ sec + 1 ∧ sec ≤ day then
      { s with cel := { s.cel with rtc := s.cel.rtc - 1048576, leapDir := 0, leapDone := 1 } } else s
  | 2 => if day ≤ sec + 2 ∧ sec < day then
      { s with cel := { s.cel with rtc := 1048576 + s.cel.rtc, leapDir := 0, leapDone := 2 } } else s
  | _ => s

/-- The registers after a leap second: DIR returns to 0 and TAI − UTC changes by one. -/
def State.leapRegs (s : State) (insert : Bool) : State :=
  let t := s.rd TBS_LEAPCTL_TAI
  (s.wrs [(TBS_LEAPCTL_DIR, 0), (TBS_LEAPCTL_TAI, if insert then t + 1 else t + 255)]).timeRec 3 []

/-- A second of UTC begins by the end of the frame in progress. -/
def State.secondNear (s : State) (sec : Nat) : Bool := decide (1000000000 * sec ≤ s.utcNs + s.period)

/-- The announced midnight, in the frame in which it falls; a DAY already past is cleared without effect. -/
def State.leap (s : State) : State :=
  let day := s.rd TBS_LEAP_DAY
  let sec := s.utcS.toNat
  match s.rd TBS_LEAPCTL_DIR with
  | 1 =>
    if day < sec then s.wr TBS_LEAPCTL_DIR 0
    else if !s.secondNear day then s
    else
      let s1 := s.stepUtc (-1000000000)
      { s1 with tbs := { s1.tbs with leapNow := true } }.leapRegs true
  | 2 =>
    if day ≤ sec then s.wr TBS_LEAPCTL_DIR 0
    else if !s.secondNear (day - 1) then s
    else (s.stepUtc 1000000000).leapRegs false
  | _ => s

/-! ## Reading and calibration (R463, R469) -/

/-- A core's load of TBS_TLO: the view of one instant. -/
def State.timeLatch (s : State) (c : CpuId) : State :=
  let v : TimeView := { hi := BitVec.ofNat 32 (s.tbs.mono / 2 ^ 32), sec := s.utcS, ns := s.utcNs % 1000000000,
                        leap := s.tbs.leapNow, unk := s.timeUnk }
  { s with
    tbs := { s.tbs with view := s.tbs.view.put c v }
    cpu := s.cpu.upd c (fun x => { x with rdata := BitVec.ofNat 32 s.tbs.mono }) }

/-- A measured RTC error in steps of 0.025 ppm (R469). -/
def ppmText (m : Int) : List Byte :=
  let v := m.natAbs * 25
  (if m < 0 then [0x2D] else []) ++ dec (v / 1000) ++ [0x2E] ++ decN 3 (v % 1000)

/-- CAL RUN's reply once its calibration is complete (R167). -/
def State.calReply (s : State) : State :=
  match s.con.busy with
  | .cal tag =>
    let (ppm, s1) := s.measure
    s1.replyOk tag (fld "rtc_ppm" (ppmText ppm) ++ fld "tdc" (if s1.rd TBS_STAT_TDCFAIL = 0 then txt "OK" else txt "FAIL"))
  | _ => s

/-- A calibration is complete: which TDCs fail. -/
def State.tdcCal (s : State) (fail : BitVec 4) : State :=
  let s1 := s.wr TBS_STAT_TDCFAIL fail.toNat
  { s1 with tbs := { s1.tbs with calAt := s1.utcS, calRuns := false, startFail := s1.tbs.startFail &&& fail } }.calReply

/-! ## Meanings -/

/-- RTC_TEMP_UPDATE (R456). -/
def execRtcTempUpdate (t : Byte) (s : State) : Host.Outcome State Fault Refusal := .next (s.rtcTemp t)
/-- AGEING_UPDATE (R458): the RTC's mean error against the timebase, less c(T), in ppb. -/
def execAgeingUpdate (m : BitVec 16) (s : State) : Host.Outcome State Fault Refusal := .next (s.ageing m.toInt)
/-- PPS_LOSS (R460). -/
def execPpsLoss (s : State) : Host.Outcome State Fault Refusal := .next s.ppsLoss
/-- HOLDOVER_EXPIRY (R461). -/
def execHoldoverExpiry (s : State) : Host.Outcome State Fault Refusal := .next s.holdoverEnd
/-- LEAP_SECOND (R464). -/
def execLeapSecond (s : State) : Host.Outcome State Fault Refusal := .next (if s.mainUp then s.leap else s.leapCellar)
/-- ADJ_WINDOW_END (R465). -/
def execAdjWindowEnd (s : State) : Host.Outcome State Fault Refusal := .next s.adjWindowEnd
/-- DISCIPLINE_SAVE (R466). -/
def execDisciplineSave (s : State) : Host.Outcome State Fault Refusal := .next s.disciplineSave
/-- TIME_LATCH (R463). -/
def execTimeLatch (c : CpuId) (s : State) : Host.Outcome State Fault Refusal := .next (s.byCore c (fun s => s.timeLatch c))
/-- TDC_CALIBRATION (R469). -/
def execTdcCalibration (fail : BitVec 4) (s : State) : Host.Outcome State Fault Refusal :=
  .next (if s.mainUp then s.tdcCal fail else s)

end Sys2Proof.Machine
end

