-- ==== Sys2Proof/Machine/Ports.lean ====
section
/-!
DEFINITION. Ports.lean: the twenty-four ports: packets, GPIO, UART, SPIC, DUAL, PULSE, PPS, PULSEOUT, LOOP, SWITCH and their
Watch conditions (spec/06_ports.md). Cards stand in Cards.lean, claims and harvest in Claims.lean.
-/
namespace Sys2Proof.Machine

/-! ## Parameters (Table 6.9) -/

/-- Bits of PAR word `k`. -/
def State.par (s : State) (p : PortId) (k : Fin 4) (lo w : Nat) : Nat := bits (s.rd (PORT_PAR p k)) lo w

/-- One bit of PAR word `k`. -/
def State.parBit (s : State) (p : PortId) (k : Fin 4) (i : Nat) : Bool := bitAt (s.rd (PORT_PAR p k)) i

/-- A number that 0 stands for. -/
def orElse0 (v d : Nat) : Nat := if v = 0 then d else v

/-- A port changed. -/
def State.pset (s : State) (p : PortId) (f : Port → Port) : State := { s with port := s.port.upd p f }

/-- The function in force. -/
def State.pfn (s : State) (p : PortId) : PortFn := (s.port.at p).fn

/-- What a port does while it runs a function. -/
def State.ifFn (s : State) (p : PortId) (fn : PortFn) (f : State → State) : State := if s.pfn p = fn then f s else s

/-- The RX and TX queues of a port (Table 8.2). -/
def rxQ (p : PortId) : QueueId := finOf 64 (2 * p.val)
def txQ (p : PortId) : QueueId := finOf 64 (2 * p.val + 1)

/-- A parameter of a function form: its name, the word it stands in (4: CFG), its low bit and its width. -/
abbrev FnParam := String × Nat × Nat × Nat

/-- The parameters of a function (Table 6.9). -/
def fnParams : Nat → List FnParam
  | 1 => [("OEA", 0, 0, 1), ("OEB", 0, 1, 1), ("ODA", 0, 4, 1), ("ODB", 0, 5, 1), ("IRQA", 0, 8, 2), ("IRQB", 0, 10, 2)]
  | 2 => [("DIV", 0, 0, 24), ("DATA7", 1, 0, 1), ("PAR", 1, 1, 2), ("STOP2", 1, 3, 1), ("IDLE", 1, 8, 4)]
  | 3 => [("CLKDIV", 0, 0, 8), ("FI", 0, 8, 4), ("DI", 0, 12, 4), ("T", 0, 16, 1), ("RETRY", 0, 17, 3), ("PRESPOL", 0, 20, 1),
      ("VCCPOL", 0, 21, 1), ("AUTO", 0, 22, 1), ("VCCEN", 0, 24, 6), ("GT", 1, 0, 8), ("WI", 1, 8, 8), ("BWI", 1, 16, 4),
      ("CWI", 1, 20, 4), ("IFSC", 1, 24, 8), ("TRST", 2, 0, 16), ("TVCC", 2, 16, 8), ("PRESF", 2, 24, 8)]
  | 4 => [("DIV", 0, 0, 16), ("MODE", 0, 16, 2), ("LSBF", 0, 18, 1), ("CSGAP", 0, 24, 8)]
  | 5 => [("NDISC", 0, 0, 16), ("ANTI", 0, 16, 1)]
  | 6 => [("EDGE", 0, 0, 2), ("BMODE", 0, 2, 2), ("CTR", 0, 8, 6), ("K", 1, 0, 20)]
  | 7 => [("PERIOD", 0, 0, 24)]
  | 8 => [("PRBS", 0, 0, 1), ("LEVEL", 0, 1, 1), ("RDIV", 0, 16, 10), ("DLY", 0, 28, 3), ("M", 1, 0, 11), ("W", 1, 16, 11),
      ("RESEED", 2, 0, 16), ("CDLY", 2, 16, 3)]
  | 9 => [("EXPA", 0, 0, 1), ("EXPB", 0, 1, 1), ("ENB", 0, 2, 1)]
  | 10 => [("EDGE", 0, 0, 2)]
  | _ => []

/-- The bits of PAR word `k` that a function has; the others read 0 and are not written (R7, chapter 6). -/
def parMask (fn : Nat) (k : Fin 4) : Nat :=
  ((fnParams fn).filter (fun x => x.2.1 == k.val)).foldl (fun n x => n ||| (2 ^ x.2.2.2 - 1) * 2 ^ x.2.2.1) 0

/-- The FILT-th sample at a level has come (R197); 0 acts as 1. -/
def State.filtered (s : State) (p : PortId) (held : Nat) : Bool := decide (orElse0 (s.rd (PORT_CFG_FILT p)) 1 ≤ held)

/-! ## Watch conditions (R224, R484, R489) -/

/-- The Watch source of a port. -/
def portSrc (p : PortId) : SrcId := finOf 0x58 (0x40 + p.val)

/-- A source trips; a source recorded as tripped at a reset continues its trip and has no onset (R489). -/
def State.srcTrip (s : State) (n : SrcId) : State :=
  { s with watch := { s.watch with src := s.watch.src.upd n (fun w => { w with trip := true }) } }

/-- A source untrips: its HOLD cause and its record of R489 end. -/
def State.srcUntrip (s : State) (n : SrcId) : State :=
  { s with
    watch := { s.watch with src := s.watch.src.upd n (fun w => { w with trip := false }) }
    sys := { s.sys with holdSrc := s.sys.holdSrc.filter (fun k => decide (k ≠ n.val)) }
    cel := { s.cel with tripped := s.cel.tripped.filter (fun k => decide (k ≠ n.val)) } }

/-- The condition a port presents (R224). -/
def State.portCond (s : State) (p : PortId) : Bool :=
  match s.pfn p with
  | .dual => s.isSet (PORT_STAT_DISC p)
  | .loop => (s.port.at p).cond
  | .switch => s.isSet (PORT_STAT_SWA p) || s.isSet (PORT_STAT_SWB p)
  | _ => false

/-- After a change of a port's condition or of its armed state; `was` is the condition before it. -/
def State.portSettle (s : State) (p : PortId) (was : Bool) : State :=
  let now := s.portCond p
  let s1 := if now && !was then s.setb (PORT_STAT_EVENT p) else s
  let n := portSrc p
  let t := now && s.isSet (WATCH_ARM n)
  if t = (s1.watch.src.at n).trip then s1
  else if !t then s1.srcUntrip n
  else if s1.cel.tripped.contains n.val then s1.srcTrip n
  else (s1.srcTrip n).raise n.val

/-! ## Packets (R196, R213, R228) -/

/-- An entry as the port captures it. -/
def capt (v : Nat) : Capt := ⟨v, (List.range 64).foldl (fun p i => p ^^ v.testBit i) false⟩
def captBytes (l : List Byte) : List Capt := l.map (fun b => capt b.toNat)

/-- Every entry still has its parity. -/
def captOk (l : List Capt) : Bool := l.all (fun e => decide (e = capt e.v))

/-- A packet of a port offered to its RX queue, each entry of `w` bytes: what became of it. One with a parity error is withdrawn
(lane 2 of Table 9.2). -/
def State.portOffer (s : State) (p : PortId) (flags : Nat) (seq : Byte) (head : List Byte) (w : Nat) (l : List Capt) : Admit × State :=
  if captOk l then s.pushPacket 3 (rxQ p) flags seq.toNat (head ++ l.flatMap (fun e => leBytes w e.v))
  else (.dropped, s.laneFail 2)

/-- The packets that wait are offered again, in order, until one waits again. -/
def State.portRetryFuel (s : State) (p : PortId) : Nat → State
  | 0 => s
  | n + 1 =>
    match (s.port.at p).rxWait with
    | [] => s
    | (fl, seq, pay) :: t =>
      match s.portOffer p fl seq [] 1 pay with
      | (.waits, s1) => s1
      | (.taken, s1) => (s1.pset p (fun x => { x with rxWait := t })).portRetryFuel p n
      | (.dropped, s1) => (s1.pset p (fun x => { x with rxWait := t, loss := true })).portRetryFuel p n

/-- A port's own admission point (Table 8.4). -/
def State.portRetry (s : State) (p : PortId) : State := s.portRetryFuel p (s.port.at p).rxWait.length

/-- A closed packet of a UART, CARD or SPIC port: queued behind those that wait, then offered. SPIC has no LOSS flag
(Table 6.3). -/
def State.portSend (s : State) (p : PortId) (flags : Nat) (pay : List Capt) : State :=
  let x := s.port.at p
  let fl := if x.fn = .spic then flags else flags ||| b2n x.loss
  (s.pset p (fun x => { x with
    rxWait := x.rxWait ++ [(fl, x.pseq, pay)], pseq := x.pseq + 1, loss := false })).portRetry p

/-- The payload of the packet at the head of the TX queue, taken and released; none without a complete packet. -/
def State.txTake (s : State) (p : PortId) : Option (Nat × List Byte × State) :=
  let q := txQ p
  if (s.qfx.at q).pkts = 0 then none
  else
    let (hdr, pay) := s.headPacket q
    let s1 := s.passHead q
    let s2 := s1.qset q (fun x => (x.release).getD x)
    some (bits hdr.toNat 16 4, pay, s2.pset p (fun x => { x with tx := pay }))

/-! ## GPIO (R199) -/

/-- An edge that a selection of IRQA or IRQB takes: 1 rising, 2 falling, 3 both. -/
def edgePick (sel : Nat) (rise : Bool) : Bool := if rise then sel % 2 == 1 else decide (2 ≤ sel)

/-- The filtered level of a pin. -/
def State.lvl (s : State) (p : PortId) (b : Bool) : Bool := if b then (s.port.at p).lvlB else (s.port.at p).lvlA

/-- The filtered level of a GPIO pin; a change is an edge. -/
def State.gpioLevel (s : State) (p : PortId) (b lvl : Bool) : State :=
  let s1 := s.pset p (fun x => if b then { x with lvlB := lvl } else { x with lvlA := lvl })
  if s.lvl p b ≠ lvl ∧ edgePick (s.par p 0 (if b then 10 else 8) 2) lvl then
    s1.setb (if b then PORT_GPIO_EDGB p else PORT_GPIO_EDGA p)
  else s1

/-- A GPIO pin has held a level for `held` samples. -/
def State.gpioEdge (s : State) (p : PortId) (b lvl : Bool) (held : Nat) : State :=
  s.ifFn p .gpio (fun s => if s.filtered p held then s.gpioLevel p b lvl else s)

/-! ## UART (R200, R201) -/

/-- Data bits of a character. -/
def State.uartBits (s : State) (p : PortId) : Nat := if s.parBit p 1 0 then 7 else 8

/-- The parity bit of a character: 1 even, 2 odd; none where PAR is 0, or 3, which acts as 0. -/
def State.uartParity (s : State) (p : PortId) (b : Byte) : Option Bool :=
  let even := ((List.range (s.uartBits p)).filter (fun i => b.getLsbD i)).length % 2 == 1
  match s.par p 1 1 2 with
  | 1 => some even
  | 2 => some (!even)
  | _ => none

/-- Stop bits. -/
def State.uartStops (s : State) (p : PortId) : Nat := if s.parBit p 1 3 then 2 else 1

/-- The levels of a character on the line: a start bit, the data bits, the parity bit, the stop bits. -/
def State.uartFrame (s : State) (p : PortId) (b : Byte) : List Bool :=
  false :: (List.range (s.uartBits p)).map (fun i => b.getLsbD i) ++ (s.uartParity p b).toList ++ List.replicate (s.uartStops p) true

/-- The bit time in sixteenths of an FSYS cycle: the nearest end outside the range. -/
def State.uartDiv (s : State) (p : PortId) : Nat := Nat.max 853 (Nat.min 8533334 (s.par p 0 0 24))

/-- Bit times of an idle line that close a packet: IDLE characters, 0 as 2. -/
def State.uartGap (s : State) (p : PortId) : Nat := orElse0 (s.par p 1 8 4) 2 * (s.uartFrame p 0).length

/-- The RX packet in progress closes. -/
def State.uartClose (s : State) (p : PortId) (err fin : Bool) : State :=
  let x := s.port.at p
  if x.rx.isEmpty then s
  else
    let s1 := s.pset p (fun x => { x with rx := [], ovrn := false })
    s1.portSend p (2 * b2n err + 4 * b2n x.ovrn + 8 * b2n fin) x.rx

/-- A parity or framing error of a received character, from its parity bit and its stop bits, the first in bit 0. -/
def State.uartErr (s : State) (p : PortId) (b : Byte) (par : Bool) (stop : BitVec 2) : Bool :=
  (match s.uartParity p b with | some x => x != par | none => false) || !stop.getLsbD 0 || (s.uartStops p == 2 && !stop.getLsbD 1)

/-- A received character: while a packet waits for its queue the port holds 32 characters of its own, and loses more. -/
def State.uartRx (s : State) (p : PortId) (c : Byte) (par : Bool) (stop : BitVec 2) : State :=
  s.ifFn p .uart (fun s =>
    let err := s.uartErr p c par stop
    let b : Byte := if s.uartBits p = 7 then c &&& 0x7F else c
    let s1 := (if err then s.bump (PORT_CNT0 p) else s).portRetry p
    let x := s1.port.at p
    let held := (x.rxWait.drop 1).foldl (fun n e => n + e.2.2.length) x.rx.length
    if !x.rxWait.isEmpty && decide (32 ≤ held) then
      (s1.pset p (fun x => { x with ovrn := true })).bump (PORT_CNT1 p)
    else
      let s2 := s1.pset p (fun x => { x with rx := x.rx ++ [capt b.toNat] })
      if err then s2.uartClose p true false
      else if x.rxWait.isEmpty && decide (252 ≤ x.rx.length + 1) then s2.uartClose p false false
      else s2)

/-- The line has been idle for `t` bit times. -/
def State.uartIdle (s : State) (p : PortId) (t : Nat) : State :=
  s.ifFn p .uart (fun s => if s.uartGap p ≤ t then (s.portRetry p).uartClose p false false else s)

/-- A TX packet's payload is sent, character after character. -/
def State.uartTx (s : State) (p : PortId) : State :=
  s.ifFn p .uart (fun s =>
    match s.txTake p with
    | some (_, pay, s1) =>
      s1.pset p (fun x => { x with wave := { bit := s.uartDiv p, levels := pay.flatMap (s.uartFrame p) } })
    | none => s)

/-! ## SPIC (R202) -/

/-- The bits of a byte in the order in which they are shifted. -/
def State.spicOrder (s : State) (p : PortId) (b : Byte) : List Bool :=
  let l := (List.range 8).map (fun i => b.getLsbD i)
  if s.parBit p 0 18 then l else l.reverse

/-- The byte that eight levels give, in the order in which they are shifted. -/
def State.spicByte (s : State) (p : PortId) (l : List Bool) : Byte :=
  BitVec.ofNat 8 ((if s.parBit p 0 18 then l.reverse else l).foldl (fun n b => 2 * n + b2n b) 0)

/-- DIV; below 4 acts as 4. An SCK period is 2 DIV cycles of FSYS. -/
def State.spicDiv (s : State) (p : PortId) : Nat := Nat.max 4 (s.par p 0 0 16)

/-- A TX packet is shifted out under CS, and as many bytes are captured from MISO, each given by its eight levels, the first in
bit 7. CS then stays high for CSGAP periods, 0 as 1. -/
def State.spic (s : State) (p : PortId) (miso : List Byte) : State :=
  s.ifFn p .spic (fun s =>
    let s0 := s.portRetry p
    if (s0.port.at p).rxWait.isEmpty then
      match s0.txTake p with
      | some (_, pay, s1) =>
        let bit := 32 * s.spicDiv p
        let w : Wave := { bit := bit, levels := pay.flatMap (s.spicOrder p), rest := orElse0 (s.par p 0 24 8) 1 * bit }
        let seen := (miso ++ List.replicate pay.length 0).take pay.length
        (s1.pset p (fun x => { x with wave := w })).portSend p 0
          (captBytes (seen.map (fun b => s.spicByte p ((List.range 8).map (fun i => b.getLsbD (7 - i))))))
      | none => s0
    else s0)

/-! ## DUAL (R209 to R211) -/

/-- NDISC; 0 acts as 1. -/
def State.ndisc (s : State) (p : PortId) : Nat := orElse0 (s.par p 0 0 16) 1

/-- The level of B at which the channels agree with a level of A. -/
def State.dualMate (s : State) (p : PortId) (a : Bool) : Bool := a ^^ s.parBit p 0 16

/-- The value after an agreeing sample with A at a level; it reads 0 while DISCREPANCY is latched. -/
def State.dualAgree (s : State) (p : PortId) (a : Bool) (n : Nat) : State :=
  let disc := s.isSet (PORT_STAT_DISC p)
  s.pset p (fun x => { x with lvlA := a, lvlB := s.dualMate p a, agree := n, val := a && !disc })

/-- The NDISC-th disagreeing sample. -/
def State.dualFault (s : State) (p : PortId) (a : Bool) : State :=
  s.ifFn p .dual (fun s =>
    let s1 := s.pset p (fun x => { x with lvlA := a, lvlB := !s.dualMate p a, agree := 0 })
    if s1.isSet (PORT_STAT_DISC p) then s1
    else
      let s2 := (s1.setb (PORT_STAT_DISC p)).bump (PORT_CNT0 p)
      (s2.pset p (fun x => { x with val := false })).portSettle p false)

/-- A disagreement of `len` samples ends at an agreeing sample with A at a level. -/
def State.dualNear (s : State) (p : PortId) (len : Nat) (a : Bool) : State :=
  s.ifFn p .dual (fun s =>
    let s1 := s.dualAgree p a 1
    if !s.isSet (PORT_STAT_DISC p) && decide (len < s.ndisc p) && decide ((s.ndisc p + 1) / 2 ≤ len) then
      s1.bump (PORT_CNT1 p)
    else s1)

/-- DISCREPANCY clears. -/
def State.discDrop (s : State) (p : PortId) : State :=
  let s1 := s.wr (PORT_STAT_DISC p) 0
  (s1.pset p (fun x => { x with val := x.lvlA })).portSettle p true

/-- The clear that firmware or the operator asks for; true when it is accepted. -/
def State.discClear (s : State) (p : PortId) : Bool × State :=
  if s.pfn p = .dual ∧ s.ndisc p ≤ (s.port.at p).agree then
    (true, if s.isSet (PORT_STAT_DISC p) then s.discDrop p else s)
  else (false, s)

/-- The automatic clear at the NDISC-th agreeing sample. -/
def State.dualAuto (s : State) (p : PortId) (a : Bool) : State :=
  s.ifFn p .dual (fun s =>
    let s1 := s.dualAgree p a (s.ndisc p)
    if s1.isSet (PORT_CFG_AUTOCLR p) && s1.isSet (PORT_STAT_DISC p) then s1.discDrop p else s1)

/-! ## PULSE and PPS (R212 to R217) -/

/-- EDGE of PULSE: 0 acts as 1. -/
def State.edgeSel (s : State) (p : PortId) : Nat := orElse0 (s.par p 0 0 2) 1

/-- BMODE; 3 acts as 0. -/
def State.bmode (s : State) (p : PortId) : Nat := let b := s.par p 0 2 2; if b = 3 then 0 else b

/-- An edge record (Table 6.6). -/
def edgeRec (ts4 : Nat) (b rise dir nots : Bool) (seq : Nat) : Nat :=
  (if nots then 0 else ts4 % 2 ^ 34) + 2 ^ 34 * b2n b + 2 ^ 35 * b2n rise + 2 ^ 36 * b2n dir + 2 ^ 37 * b2n nots +
    2 ^ 48 * (seq % 65536)

/-- The packet of edge records closes. Dropped records are counted, and flagged LOSS on the next packet (R213). -/
def State.edgeClose (s : State) (p : PortId) (fin : Bool) : State :=
  let x := s.port.at p
  if x.recs.isEmpty then s
  else
    let st := s.rd TBS_STAT_STATE
    let flags := b2n x.loss + 2 * b2n (st == 0 || st == 3) + 8 * b2n fin
    let (r, s1) := s.portOffer p flags x.pseq (leBytes 8 x.base) 8 x.recs
    let took := decide (r = .taken)
    let s2 := s1.pset p (fun x => { x with recs := [], pseq := x.pseq + 1, loss := !took })
    if took || !captOk x.recs then s2
    else s2.addc (if x.fn = .pps then PORT_CNT1 p else PORT_CNT0 p) x.recs.length

/-- An accepted edge is recorded: its timestamp in quarter ns, NOTS within the dead time of the previous one on the pin, and on a
second channel that came without a second TDC (log entry 13). -/
def State.edgeAdd (s : State) (p : PortId) (ts4 : Nat) (b rise dir : Bool) : Bool × State :=
  let x := s.port.at p
  let prev := if b then x.lastB else x.last
  let nots := (match prev with | some l => decide (ts4 < l + 80) | none => false) || (b && decide (x.tdc.length < 2))
  let rec1 := edgeRec ts4 b rise dir nots (x.eseq.toNat + 1)
  let s1 := s.pset p (fun x => { x with
    base := if x.recs.isEmpty then s.tbs.mono else x.base
    recs := x.recs ++ [capt rec1]
    eseq := x.eseq + 1
    last := if b then x.last else some ts4
    lastB := if b then some ts4 else x.lastB })
  (nots, if 64 ≤ (s1.port.at p).recs.length then s1.edgeClose p false else s1)

/-- An edge of a PULSE port whose new level holds for `held` samples; `t` is in quarter ns since the frame's opening edge. -/
def State.pulseEdge (s : State) (p : PortId) (b rise : Bool) (t : Nat) (dir : Bool) (held : Nat) : State :=
  s.ifFn p .pulse (fun s =>
    if !s.filtered p held then s else
    let ts4 := 4 * s.tbs.mono + t
    let sel := s.edgeSel p
    let lv := s.pset p (fun x => if b then { x with lvlB := rise } else { x with lvlA := rise })
    if !edgePick sel rise || (b && s.bmode p != 1) then lv
    else
      let d := dir && s.bmode p == 2
      let (nots, s1) := lv.edgeAdd p ts4 b rise d
      s1.pset p (fun x =>
        if b then { x with cntB := x.cntB + 1 }
        else { x with
          cntA := x.cntA + 1
          rev := x.rev + b2n d
          win := if sel == 3 && !rise then x.win else x.win ++ [(ts4, nots)] }))

/-- A PPS edge arrives more than 1 ms from 1 s after the previous accepted edge; after LOSS seconds without an accepted edge
there is none to judge by (log entry 64). -/
def State.ppsFar (s : State) (p : PortId) (ts4 : Nat) : Bool :=
  match (s.port.at p).lastOk with
  | some l => decide (ts4 ≤ 4000000000 * orElse0 (s.rd TBS_PPSCFG_LOSS) 3 + l) &&
      (decide (ts4 < 3996000000 + l) || decide (4004000000 + l < ts4))
  | none => false

/-- An edge of a PPS port whose new level holds for `held` samples: one of the selected polarity is recorded, and judged by the
loop unless R217 keeps it from discipline. -/
def State.ppsEdge (s : State) (p : PortId) (rise : Bool) (t held : Nat) : State :=
  s.ifFn p .pps (fun s =>
    if !s.filtered p held then s
    else
      let lv := s.pset p (fun x => { x with lvlA := rise })
      if rise = (s.par p 0 0 2 == 2) then lv
      else
        let ts4 := 4 * s.tbs.mono + t
        let (_, s1) := lv.edgeAdd p ts4 false rise false
        if s.ppsFar p ts4 then s1.bump (PORT_CNT0 p)
        else ((s1.pset p (fun x => { x with lastOk := some ts4 })).ppsSet ts4).ppsJudge ts4)

/-! ## PULSEOUT (R218) -/

/-- The period a parameter gives: 1 to 15 act as 16. -/
def State.outPeriod (s : State) (p : PortId) : Nat :=
  let v := s.par p 0 0 24
  if 1 ≤ v ∧ v < 16 then 16 else v

/-- The end of a cycle: the committed period takes effect. -/
def State.pulseoutEnd (s : State) (p : PortId) : State :=
  s.ifFn p .pulseout (fun s => s.pset p (fun x => { x with period := s.outPeriod p }))

/-- A readback mismatch. -/
def State.pulseoutBad (s : State) (p : PortId) : State :=
  s.ifFn p .pulseout (fun s => (s.bump (PORT_CNT0 p)).setb (PORT_STAT_RBERR p))

/-! ## LOOP (R219 to R222) -/

/-- One step of the LFSR x^31 + x^28 + 1. -/
def lfsrStep (l : BitVec 31) : BitVec 31 :=
  (l <<< 1) ||| (if l.getLsbD 30 ^^ l.getLsbD 27 then 1#31 else 0#31)

/-- The port sends a PRBS: PAR0.PRBS with a generator held (log entry 13). -/
def State.prbsOn (s : State) (p : PortId) : Bool := s.parBit p 0 0 && (s.port.at p).prbs

/-- The bit the port sends with an LFSR state. -/
def State.loopBit (s : State) (p : PortId) (l : BitVec 31) : Bool :=
  if s.prbsOn p then l.getLsbD 30 else s.parBit p 0 1

/-- M of W (R221). -/
def State.loopW (s : State) (p : PortId) : Nat := Nat.min 1024 (orElse0 (s.par p 1 16 11) 1)
def State.loopM (s : State) (p : PortId) : Nat := Nat.min (s.loopW p) (orElse0 (s.par p 1 0 11) 1)

/-- The next bit goes out. -/
def State.loopNext (s : State) (p : PortId) : State :=
  let x := s.port.at p
  let l := if s.prbsOn p then lfsrStep x.lfsr else x.lfsr
  s.pset p (fun x => { x with lfsr := l, sent := (s.loopBit p l :: x.sent).take 8 })

/-- The sample of B in the middle of a bit time. -/
def State.loopCompare (s : State) (p : PortId) (b : Bool) : State :=
  s.ifFn p .loop (fun s =>
    let x := s.port.at p
    match x.sent[s.par p 0 28 3]? with
    | none => s.loopNext p
    | some bit =>
      let bad := bit ^^ b
      let win := (bad :: x.mism).take (s.loopW p)
      let cond := decide (s.loopM p ≤ (win.filter (fun m => m)).length)
      let s1 := (if bad then s.bump (PORT_CNT0 p) else s).pset p (fun x => { x with lvlB := b, mism := win, cond := cond })
      let s2 := if cond && !x.cond then s1.bump (PORT_CNT1 p) else s1
      (s2.loopNext p).portSettle p x.cond)

/-- A seed from the DRBG; zero is replaced by 1. -/
def State.loopSeed (s : State) (p : PortId) : State :=
  let (w, s1) := s.drbg
  let l : BitVec 31 := w.setWidth 31
  s1.pset p (fun x => { x with lfsr := if l = 0 then 1 else l })

/-! ## SWITCH (R223) -/

/-- The pins differ from what is expected. -/
def State.switchSee (s : State) (p : PortId) (a b : Bool) : State :=
  (s.pset p (fun x => { x with lvlA := a, lvlB := b })).wrs
    [(PORT_STAT_SWA p, b2n (a ^^ s.parBit p 0 0)), (PORT_STAT_SWB p, b2n (s.parBit p 0 2 && (b ^^ s.parBit p 0 1)))]

/-- The filtered levels of a SWITCH port. -/
def State.switchLevels (s : State) (p : PortId) (a b : Bool) : State := (s.switchSee p a b).portSettle p (s.portCond p)

/-- The pins have held their levels for `held` samples. -/
def State.switchChange (s : State) (p : PortId) (a b : Bool) (held : Nat) : State :=
  s.ifFn p .switch (fun s => if s.filtered p held then s.switchLevels p a b else s)

/-! ## Levels of a port, whatever it runs -/

/-- The filtered levels of a port become these: GPIO sees its edges, SWITCH its condition, DUAL an agreement of `agree` samples or
a disagreement. -/
def State.levelsGo (s : State) (p : PortId) (a b : Bool) (agree : Nat) : State :=
  match s.pfn p with
  | .off => s
  | .gpio => (s.gpioLevel p false a).gpioLevel p true b
  | .switch => s.switchLevels p a b
  | .dual =>
    if b = s.dualMate p a then s.dualAgree p a agree
    else s.pset p (fun x => { x with lvlA := a, lvlB := b, agree := 0 })
  | .uart | .card | .spic | .pulse | .pulseout | .loop | .pps => s.pset p (fun x => { x with lvlA := a, lvlB := b })

/-! ## Meanings -/

/-- GPIO_EDGE (R199). -/
def execGpioEdge (p : PortId) (b : Bool) (e : PinEdge) (s : State) : Host.Outcome State Fault Refusal :=
  .next (s.gpioEdge p b e.lvl e.held.toNat)
/-- UART_TX_PACKET (R201). -/
def execUartTxPacket (p : PortId) (s : State) : Host.Outcome State Fault Refusal := .next (s.uartTx p)
/-- UART_RX_CHAR (R201). -/
def execUartRxChar (p : PortId) (b : Byte) (e : CharEnd) (s : State) : Host.Outcome State Fault Refusal :=
  .next (s.uartRx p b e.par e.stop)
/-- UART_IDLE_CLOSE (R201). -/
def execUartIdleClose (x : PortWait) (s : State) : Host.Outcome State Fault Refusal := .next (s.uartIdle x.p x.t.toNat)
/-- SPIC_TRANSFER (R202). -/
def execSpicTransfer (p : PortId) (miso : List Byte) (s : State) : Host.Outcome State Fault Refusal := .next (s.spic p miso)
/-- DUAL_DISCREPANCY (R210). -/
def execDualDiscrepancy (p : PortId) (a : Bool) (s : State) : Host.Outcome State Fault Refusal := .next (s.dualFault p a)
/-- DUAL_NEAR_MISS (R210). -/
def execDualNearMiss (p : PortId) (len : BitVec 16) (a : Bool) (s : State) : Host.Outcome State Fault Refusal :=
  .next (s.dualNear p len.toNat a)
/-- DUAL_AUTOCLEAR (R211). -/
def execDualAutoclear (p : PortId) (a : Bool) (s : State) : Host.Outcome State Fault Refusal := .next (s.dualAuto p a)
/-- DISC_CLEAR (R211). -/
def execDiscClear (c : CpuId) (p : PortId) (s : State) : Host.Outcome State Fault Refusal :=
  .next (s.byCore c (fun s => (s.discClear p).2))
/-- PULSE_EDGE (R212). -/
def execPulseEdge (p : PortId) (b : Bool) (e : PinEdge) (t : BitVec 26) (dir : Bool) (s : State) :
    Host.Outcome State Fault Refusal :=
  .next (s.pulseEdge p b e.lvl t.toNat dir e.held.toNat)
/-- PPS_EDGE (R217). -/
def execPpsEdge (p : PortId) (e : TimedEdge) (s : State) : Host.Outcome State Fault Refusal :=
  .next (s.ppsEdge p e.lvl e.t.toNat e.held.toNat)
/-- PULSEOUT_CYCLE_END (R218). -/
def execPulseoutCycleEnd (p : PortId) (s : State) : Host.Outcome State Fault Refusal := .next (s.pulseoutEnd p)
/-- PULSEOUT_READBACK_MISMATCH (R218). -/
def execPulseoutReadbackMismatch (p : PortId) (s : State) : Host.Outcome State Fault Refusal := .next (s.pulseoutBad p)
/-- LOOP_RESEED (R222). -/
def execLoopReseed (p : PortId) (s : State) : Host.Outcome State Fault Refusal := .next (s.ifFn p .loop (fun s => s.loopSeed p))
/-- LOOP_BIT_COMPARE (R221). -/
def execLoopBitCompare (p : PortId) (b : Bool) (s : State) : Host.Outcome State Fault Refusal := .next (s.loopCompare p b)
/-- SWITCH_CONDITION_CHANGE (R223): the level of A, that of B, and the samples for which both have held. -/
def execSwitchConditionChange (p : PortId) (a : Bool) (b : PinEdge) (s : State) : Host.Outcome State Fault Refusal :=
  .next (s.switchChange p a b.lvl b.held.toNat)

end Sys2Proof.Machine
end

