-- ==== Sys2Proof/Machine/Cards.lean ====
section
/-!
DEFINITION. Cards.lean: CARD ports within ISO/IEC 7816-3: presence, activation, warm reset, exchanges of the TX queue and of
CON (spec/06_ports.md, R203 to R208).
-/
namespace Sys2Proof.Machine

/-! ## The card's times and polarities (R203, R204, R207, Table 6.9) -/

/-- FSYS cycles of a card clock: below 32 acts as 32, an odd number as the next lower even one. -/
def State.cardClk (s : State) (p : PortId) : Nat := let v := Nat.max 32 (s.par p 0 0 8); v - v % 2

/-- Fi and Di; reserved codes act as 0x1. -/
def State.cardF (s : State) (p : PortId) : Nat := if s.par p 0 8 4 = 9 then 512 else 372
def State.cardD (s : State) (p : PortId) : Nat :=
  match s.par p 0 12 4 with
  | 2 => 2 | 3 => 4 | 4 => 8 | 5 => 16 | 6 => 32 | 8 => 12 | 9 => 20 | _ => 1

/-- The port runs T=1. -/
def State.cardT1 (s : State) (p : PortId) : Bool := s.parBit p 0 16

/-- TVCC in ms, 0 as 10; TRST in clocks, below 400 as 400; PRESF in ms, 0 as 10. -/
def State.cardTvcc (s : State) (p : PortId) : Nat := orElse0 (s.par p 2 16 8) 10
def State.cardTrst (s : State) (p : PortId) : Nat := Nat.max 400 (s.par p 2 0 16)
def State.cardPresf (s : State) (p : PortId) : Nat := orElse0 (s.par p 2 24 8) 10

/-- The level of the presence pin that means a card: PRESPOL (log entry 95). -/
def State.presLevel (s : State) (p : PortId) : Bool := s.parBit p 0 20

/-- IFSC; 0 acts as 32. -/
def State.cardIfsc (s : State) (p : PortId) : Nat := orElse0 (s.par p 1 24 8) 32

/-- Guard time between characters that the port sends, in elementary time units: 12 + GT, where 255 adds nothing (T=0) or takes
one away (T=1), by ISO/IEC 7816-3. -/
def State.cardGuard (s : State) (p : PortId) : Nat :=
  let g := s.par p 1 0 8
  if g = 255 then (if s.cardT1 p then 11 else 12) else 12 + g

/-- The character waiting time in card clocks times Di: WI × 960 × Fi under T=0 (0 acts as 10), (11 + 2^CWI) × Fi / Di under
T=1, by ISO/IEC 7816-3. -/
def State.cardWait (s : State) (p : PortId) : Nat :=
  if s.cardT1 p then (11 + 2 ^ s.par p 1 20 4) * s.cardF p
  else orElse0 (s.par p 1 8 8) 10 * 960 * s.cardF p * s.cardD p

/-- The block waiting time in card clocks times Di, by ISO/IEC 7816-3. -/
def State.cardBlockWait (s : State) (p : PortId) : Nat := 11 * s.cardF p + 2 ^ s.par p 1 16 4 * 960 * 372 * s.cardD p

/-! ## Phases -/

/-- The phase of a card changed. -/
def State.cardTo (s : State) (p : PortId) (ph : CardPhase) : State := s.pset p (fun x => { x with card := ph })

/-- What the console's exchange shows (PORTn_CXSTAT). -/
def State.cxEnd (s : State) (p : PortId) (st : Nat) (rsp : List Byte) : State :=
  let w (k : Nat) : Nat := (Word.ofBytes ((rsp.take 16).drop (4 * k))).toNat
  s.wrs [(PORT_CXSTAT_STATE p, st), (PORT_CXSTAT_RLEN p, Nat.min 16 rsp.length), (PORT_CXRSP p 0, w 0), (PORT_CXRSP p 1, w 1),
    (PORT_CXRSP p 2, w 2), (PORT_CXRSP p 3, w 3)]

/-- An RX packet of received characters closes, with flags. -/
def State.cardClose (s : State) (p : PortId) (flags : Nat) : State :=
  let x := s.port.at p
  (s.pset p (fun x => { x with rx := [] })).portSend p flags x.rx

/-- An exchange in progress ends with an RX packet carrying flag 18, and flag 19 where the function changes; CON's own exchange
fails. -/
def State.cardBreak (s : State) (p : PortId) (fin : Bool) : State :=
  match (s.port.at p).card with
  | .bytes => s.cardClose p (4 + 8 * b2n fin)
  | .apdu false => s.cardClose p (4 + 8 * b2n fin)
  | .apdu true => s.cxEnd p 3 []
  | _ => s

/-- CON's waiting exchange can no longer run. -/
def State.cxGiveUp (s : State) (p : PortId) : State := if s.rd (PORT_CXSTAT_STATE p) = 1 then s.cxEnd p 3 [] else s

/-- Deactivation (R205). -/
def State.cardEnd (s : State) (p : PortId) (fin : Bool) : State :=
  if (s.port.at p).card = .off then s.cxGiveUp p
  else (((s.cardBreak p fin).cardTo p .off).wr (PORT_STAT_ACTIVE p) 0).cxGiveUp p

/-- Deactivation outside a function change. -/
def State.cardOff (s : State) (p : PortId) : State := s.cardEnd p false

/-- Activation (R204): the sequence of Table 6.4 starts, which the pads show (Pins.lean), and its ATR is awaited. -/
def State.cardOn (s : State) (p : PortId) : State :=
  if (s.port.at p).card = .off then (s.cardTo p (.atr false)).setb (PORT_STAT_ACTIVE p) else s

/-- The command bytes CON has written (R208). -/
def State.cxBytes (s : State) (p : PortId) : List Byte :=
  ((finList 8).flatMap (fun k => Word.bytes (BitVec.ofNat 32 (s.rd (PORT_CXCMD p k))))).take (Nat.min 32 (s.rd (PORT_CXCTL_LEN p)))

/-- CON's exchange runs between two queue exchanges, and activates a present, inactive card first. -/
def State.cxTry (s : State) (p : PortId) : State :=
  if s.pfn p ≠ .card ∨ s.rd (PORT_CXSTAT_STATE p) ≠ 1 then s
  else match (s.port.at p).card with
    | .ready => s.pset p (fun x => { x with card := .apdu true, tx := s.cxBytes p })
    | .off => if s.isSet (PORT_STAT_PRES p) then s.cardOn p else s.cxEnd p 3 []
    | _ => s

/-- PORTn_CXCTL.GO takes effect: the exchange starts (row AUTH_CARD). -/
def State.cxGo (s : State) (p : PortId) : State :=
  if s.pfn p ≠ .card then (s.wr (PORT_CXCTL_GO p) 0).cxEnd p 3 []
  else ((s.wrs [(PORT_CXCTL_GO p, 0), (PORT_CXSTAT_STATE p, 1), (PORT_CXSTAT_RLEN p, 0)])).cxTry p

/-- A queue or console exchange has ended. -/
def State.cardReady (s : State) (p : PortId) : State := (s.cardTo p .ready).cxTry p

/-- The warm reset of an activated card (R206): the sequence of Table 6.11 starts. -/
def State.cardWarm (s : State) (p : PortId) : State :=
  if (s.port.at p).card = .off then s else (s.cardBreak p false).cardTo p (.atr true)

/-- The presence pin has stood at a level for `ms` ms: presence is confirmed (R204). -/
def State.cardIn (s : State) (p : PortId) (lvl : Bool) (ms : Nat) : State :=
  if lvl ≠ s.presLevel p ∨ ms < s.cardPresf p then s
  else
    let s1 := s.setb (PORT_STAT_PRES p)
    if s.parBit p 0 22 then s1.cardOn p else s1

/-- Presence is lost (R205). -/
def State.cardOut (s : State) (p : PortId) (lvl : Bool) (ms : Nat) : State :=
  if lvl = s.presLevel p ∨ ms < s.cardPresf p then s
  else
    let s1 := s.wr (PORT_STAT_PRES p) 0
    (if s.isSet (PORT_STAT_ACTIVE p) then s1.bump (PORT_CNT1 p) else s1).cardOff p

/-- An ATR is awaited. -/
def CardPhase.awaits : CardPhase → Bool
  | .atr _ => true
  | _ => false

/-- No ATR starts in time: deactivation, and one empty RX packet with flags 17 and 18. -/
def State.cardNoAtr (s : State) (p : PortId) : State :=
  if (s.port.at p).card.awaits then (s.cardOff p).portSend p 6 [] else s

/-- An ATR that started `t` clocks after RST rose has ended: one RX packet with flag 17; too early or too late it is none. -/
def State.cardAtr (s : State) (p : PortId) (t : Nat) (l : List Byte) : State :=
  if !(s.port.at p).card.awaits then s
  else if t < 400 ∨ 40000 < t then s.cardNoAtr p
  else ((s.pset p (fun x => { x with t1s := false, t1r := false })).portSend p 2 (captBytes l)).cardReady p

/-- A TX packet goes to the card: at APDU level with flag 17, else at byte level (R207). -/
def State.cardTx (s : State) (p : PortId) : State :=
  let s0 := s.portRetry p
  let x := s0.port.at p
  if x.card ≠ .ready ∨ !x.rxWait.isEmpty then s0
  else match s0.txTake p with
    | none => s0
    | some (fl, _, s1) => s1.cardTo p (if bitAt fl 1 then .apdu false else .bytes)

/-- Received characters form RX packets of at most 252 bytes. -/
def State.cardChars (s : State) (p : PortId) (l : List Byte) : State :=
  l.foldl (fun s b =>
    let s1 := s.pset p (fun x => { x with rx := x.rx ++ [capt b.toNat] })
    if 252 ≤ (s1.port.at p).rx.length then s1.cardClose p 0 else s1) s

/-- RETRY. -/
def State.cardRetry (s : State) (p : PortId) : Nat := s.par p 0 17 3

/-- Repetitions under T=0, each character's up to RETRY (R207, Table 6.10). -/
def State.cardReps (s : State) (p : PortId) (reps : List Byte) : State :=
  if s.cardT1 p then s
  else s.addc (PORT_CNT0 p) (reps.foldl (fun n r => n + Nat.min r.toNat (s.cardRetry p)) 0)

/-- The characters of the card that arrive: under T=0 up to the first one that RETRY repetitions do not mend, and none where one
of the port's own, each with its repetitions, does not get through. -/
def State.cardHeard (s : State) (p : PortId) (l : List CardChar) (reps : List Byte) : List CardChar :=
  if s.cardT1 p then l
  else if reps.all (fun r => decide (r.toNat ≤ s.cardRetry p)) then l.takeWhile (fun c => decide (c.bad.toNat ≤ s.cardRetry p))
  else []

/-- The APDU exchange with what the card sends until it falls silent: the response, and the state after it. -/
def State.cardRun (s : State) (p : PortId) (l : List CardChar) : Option (List Byte) × State :=
  let x := s.port.at p
  if s.cardT1 p then
    let (r, sent, ns, nr) := t1Run x.tx (s.cardIfsc p) x.t1s x.t1r l
    (r, s.pset p (fun x => { x with tx := sent, t1s := ns, t1r := nr }))
  else
    let (r, sent) := t0Run x.tx (l.map CardChar.b)
    (r, s.pset p (fun x => { x with tx := sent }))

/-- The card's response: at byte level its characters, at APDU level all it sends in the exchange. -/
def State.cardAnswer (s : State) (p : PortId) (l : List CardChar) (reps : List Byte) : State :=
  let heard := s.cardHeard p l reps
  let s1 := s.cardReps p (reps ++ (l.take (heard.length + 1)).map CardChar.bad)
  let cut := decide (heard.length < l.length) || !reps.all (fun r => s.cardT1 p || decide (r.toNat ≤ s.cardRetry p))
  match (s.port.at p).card with
  | .bytes =>
    let s2 := s1.cardChars p (heard.map CardChar.b)
    if cut then (s2.cardClose p 4).cardReady p else s2
  | .apdu con =>
    let (r, s2) := s1.cardRun p heard
    (match con, r with
      | false, some a => s2.portSend p 0 (captBytes a)
      | false, none => s2.portSend p 4 []
      | true, some a => s2.cxEnd p 2 a
      | true, none => s2.cxEnd p 3 []).cardReady p
  | .off | .atr _ | .ready => s

/-- `t` card clocks have passed since the last character at byte level: the character waiting time closes the packet. -/
def State.cardCwt (s : State) (p : PortId) (t : Nat) : State :=
  if (s.port.at p).card = .bytes ∧ s.cardWait p ≤ t * s.cardD p then
    (if (s.port.at p).rx.isEmpty then s else s.cardClose p 0).cardReady p
  else s

/-! ## Meanings -/

/-- ACTIVATE (R204). -/
def execActivate (c : CpuId) (p : PortId) (s : State) : Host.Outcome State Fault Refusal :=
  .next (s.byCore c (fun s => s.ifFn p .card (fun s => s.cardOn p)))
/-- DEACTIVATE (R205). -/
def execDeactivate (c : CpuId) (p : PortId) (s : State) : Host.Outcome State Fault Refusal :=
  .next (s.byCore c (fun s => s.ifFn p .card (fun s => s.cardOff p)))
/-- CARD_WARM_RESET (R206). -/
def execCardWarmReset (c : CpuId) (p : PortId) (s : State) : Host.Outcome State Fault Refusal :=
  .next (s.byCore c (fun s => s.ifFn p .card (fun s => s.cardWarm p)))
/-- CARD_INSERTION (R204). -/
def execCardInsertion (x : PresSense) (s : State) : Host.Outcome State Fault Refusal :=
  .next (s.ifFn x.p .card (fun s => s.cardIn x.p x.lvl x.ms.toNat))
/-- CARD_REMOVAL (R205). -/
def execCardRemoval (x : PresSense) (s : State) : Host.Outcome State Fault Refusal :=
  .next (s.ifFn x.p .card (fun s => s.cardOut x.p x.lvl x.ms.toNat))
/-- ATR_RECEIVED (R204). -/
def execAtrReceived (p : PortId) (x : CardAtr) (s : State) : Host.Outcome State Fault Refusal :=
  .next (s.ifFn p .card (fun s => s.cardAtr p x.t.toNat x.l))
/-- ATR_TIMEOUT (R204). -/
def execAtrTimeout (p : PortId) (s : State) : Host.Outcome State Fault Refusal := .next (s.ifFn p .card (fun s => s.cardNoAtr p))
/-- CARD_TX_PACKET (R207). -/
def execCardTxPacket (p : PortId) (s : State) : Host.Outcome State Fault Refusal := .next (s.ifFn p .card (fun s => s.cardTx p))
/-- CARD_RESPONSE (R207). -/
def execCardResponse (p : PortId) (l : List CardChar) (reps : List Byte) (s : State) : Host.Outcome State Fault Refusal :=
  .next (s.ifFn p .card (fun s => s.cardAnswer p l reps))
/-- CARD_CWT_EXPIRY (R207). -/
def execCardCwtExpiry (x : PortWait) (s : State) : Host.Outcome State Fault Refusal :=
  .next (s.ifFn x.p .card (fun s => s.cardCwt x.p x.t.toNat))

end Sys2Proof.Machine
end

