-- ==== Sys2Proof/Machine/Claims.lean ====
section
/-!
DEFINITION. Claims.lean: port functions claimed at the tick boundary, and what ports latch at harvest (spec/06_ports.md, R189
to R195, R198, R214 to R216, R228, R552; spec/16_time_measurement.md, R471 to R473).
-/
namespace Sys2Proof.Machine

/-! ## Pooled resources (R189) -/

/-- Ports beside `p` whose function in force passes a test. -/
def State.otherPorts (_ : State) (p : PortId) (f : PortId → Bool) : List PortId :=
  (finList 24).filter (fun q => decide (q ≠ p) && f q)

/-- Free units of a pool for a claim of `p`: what other ports do not hold. -/
def State.poolFree (s : State) (p : PortId) (size : Nat) (f : PortId → Bool) : Nat := size - (s.otherPorts p f).length

/-- Free TDCs for a claim of `p`. -/
def State.tdcFree (s : State) (p : PortId) : List (Fin 4) :=
  (finList 4).filter (fun t => (s.otherPorts p (fun q => (s.port.at q).tdc.contains t)).isEmpty)

/-- TDCs a configuration needs: read from the PAR words in `s`. -/
def State.tdcNeed (s : State) (p : PortId) (fn : PortFn) : Nat :=
  match fn with
  | .pulse => if s.bmode p = 1 then 2 else 1
  | .pps => 1
  | _ => 0

/-- The port that holds `p` as its partner (R192). -/
def State.pairedBy (s : State) (p : PortId) : Option PortId :=
  if p.val % 2 = 0 then none
  else
    let q : PortId := finOf 24 (p.val - 1)
    if s.pfn q = .card ∨ s.pfn q = .spic then some q else none

/-- PORTn_STAT.PAIRED. -/
def State.paired (s : State) (p : PortId) : Bool := (s.pairedBy p).isSome

/-- The pin PAR0.VCCEN names: port and pin B. -/
def State.vccen (s : State) (p : PortId) : Nat × Bool := (s.par p 0 25 5, s.parBit p 0 24)

/-- Another card holds a pin of port `q`. -/
def State.vccHeld (s : State) (p : PortId) (q : Nat) (pin : Option Bool) : Bool :=
  !(s.otherPorts p (fun k =>
    match (s.port.at k).vcc with
    | some (v, b) => v.val == q && (match pin with | some x => x == b | none => true)
    | none => false)).isEmpty

/-! ## The claim (R190 to R195, Table 6.2) -/

/-- Pair and VCCEN conditions: the code and the port in conflict. -/
def State.claimPlace (s : State) (p : PortId) (fn : PortFn) : Option (Nat × Nat) :=
  if fn = .card ∨ fn = .spic then
    if p.val % 2 = 1 ∨ p.val = 23 then some (6, p.val)
    else
      let m : PortId := finOf 24 (p.val + 1)
      let (vp, vb) := s.vccen p
      if s.pfn m ≠ .off then some (6, m.val)
      else if fn = .card ∧ (24 ≤ vp ∨ s.pfn (finOf 24 vp) ≠ .gpio ∨ s.vccHeld p vp (some vb)) then some (9, vp)
      else none
  else none

/-- Pools and the single PPS port: the code and the free count or the port. -/
def State.claimPool (s : State) (p : PortId) (fn : PortFn) : Option (Nat × Nat) :=
  let pool (code size : Nat) (f : PortId → Bool) : Option (Nat × Nat) :=
    let n := s.poolFree p size f
    if n = 0 then some (code, 0) else none
  match fn with
  | .pulse => if (s.tdcFree p).length < s.tdcNeed p fn then some (1, (s.tdcFree p).length) else none
  | .pps =>
    match s.otherPorts p (fun q => decide (s.pfn q = .pps)) with
    | q :: _ => some (8, q.val)
    | [] => if (s.tdcFree p).isEmpty then some (1, 0) else none
  | .loop => if s.parBit p 0 0 then pool 2 8 (fun q => (s.port.at q).prbs) else none
  | .card => pool 3 4 (fun q => decide (s.pfn q = .card))
  | .uart => pool 4 12 (fun q => decide (s.pfn q = .uart))
  | .spic => pool 5 4 (fun q => decide (s.pfn q = .spic))
  | _ => none

/-- A write of the port's function waits for this boundary. -/
def State.fnWritten (s : State) (p : PortId) : Bool := s.shadow.any (fun w => w.fld == PORT_FUNC_FN p)

/-- The judgement of a port whose candidate configuration stands in the registers: 0 with nothing, or a code with its
detail. A configuration whose function is unchanged claims nothing new (R190). -/
def State.claim (s : State) (p : PortId) : Nat × Nat :=
  let fn := PortFn.ofCode (s.rd (PORT_FUNC_FN p))
  match s.pairedBy p with
  | some q => (6, q.val)
  | none =>
    if s.isSet (PORT_STAT_ARMED p) then (7, p.val)
    else if s.pfn p = .gpio ∧ s.fnWritten p ∧ s.vccHeld p p.val none then (9, p.val)
    else if s.pfn p = fn then (0, 0)
    else match s.claimPlace p fn with
      | some r => r
      | none => (s.claimPool p fn).getD (0, 0)

/-! ## Taking a function (R191, R218, R222, R228) -/

/-- The packet in progress closes with flag 19, and a card deactivates. -/
def State.portEnd (s : State) (p : PortId) : State :=
  match s.pfn p with
  | .pulse => s.edgeClose p true
  | .pps => s.edgeClose p true
  | .uart => s.uartClose p false true
  | .card => s.cardEnd p true
  | _ => s

/-- The port after its function changes: the status of the old function reads 0 (log entry 13); packets already closed and counts
not yet added go on, and the RC counters keep their values (R4). -/
def State.portFresh (s : State) (p : PortId) (fn : PortFn) : State :=
  let x := s.port.at p
  let s1 := s.pset p (fun _ => { fn := fn, lvlA := x.lvlA, lvlB := x.lvlB, pseq := x.pseq, loss := x.loss, rxWait := x.rxWait,
                                 accs := x.accs })
  s1.wrs ([PORT_STAT_DISC p, PORT_STAT_RBERR p, PORT_STAT_SWA p, PORT_STAT_SWB p, PORT_STAT_PRES p, PORT_STAT_ACTIVE p,
    PORT_GPIO_EDGA p, PORT_GPIO_EDGB p, PORT_CXSTAT_STATE p, PORT_CXSTAT_RLEN p].map (fun f => (f, 0)))

/-- What a new function starts with. -/
def State.portStart (s : State) (p : PortId) : State :=
  match s.pfn p with
  | .loop =>
    let s1 := (s.pset p (fun x => { x with prbs := s.parBit p 0 0 })).loopSeed p
    s1.pset p (fun x => { x with sent := [s1.loopBit p x.lfsr] })
  | .card => s.pset p (fun x => { x with vcc := some (finOf 24 (s.vccen p).1, (s.vccen p).2) })
  | .pulseout => s.pulseoutEnd p
  | .switch => (s.switchSee p (s.port.at p).lvlA (s.port.at p).lvlB).portSettle p false
  | _ => s

/-- The lowest free TDCs are taken. -/
def State.tdcTake (s : State) (p : PortId) : State :=
  let l := (s.tdcFree p).take (s.tdcNeed p (s.pfn p))
  s.pset p (fun x => { x with tdc := l })

/-- The PAR words keep the bits that the granted function has (R7). -/
def State.parTrim (s : State) (p : PortId) : State :=
  let fn := (PortFn.ofCode (s.rd (PORT_FUNC_FN p))).code
  s.wrs ((finList 4).map (fun k => (PORT_PAR p k, s.rd (PORT_PAR p k) &&& parMask fn k)))

/-- A granted claim; `old` holds the port's words in force, under which the old function ends. -/
def State.portGrant (s old : State) (p : PortId) : State :=
  let fn := PortFn.ofCode (s.rd (PORT_FUNC_FN p))
  let now := (portCfgFields p).map (fun f => (f, s.rd f))
  if s.pfn p = fn then
    let s1 := (s.parTrim p).wr (PORT_STAT_CLAIM p) 0
    match fn with
    | .pulseout => if (s1.port.at p).period = 0 then s1.pulseoutEnd p else s1
    | .switch => s1.switchLevels p (s1.port.at p).lvlA (s1.port.at p).lvlB
    | _ => s1
  else
    let s1 := (s.wrs ((portCfgFields p).map (fun f => (f, old.rd f)))).portEnd p
    ((((s1.wrs now).parTrim p).portFresh p fn).wr (PORT_STAT_CLAIM p) 0).tdcTake p |>.portStart p

/-- A refused claim: the port's FUNC, CFG and PAR words stay as they were. -/
def State.portRefuse (s old : State) (p : PortId) (code : Nat) : State :=
  (s.wrs ((portCfgFields p).map (fun f => (f, old.rd f)))).wr (PORT_STAT_CLAIM p) code

/-- One port judged; `old` holds its words in force. -/
def State.portJudge (s old : State) (p : PortId) : State :=
  let (code, _) := s.claim p
  if code = 0 then s.portGrant old p else s.portRefuse old p code

/-! ## Harvest (R198, R214, R215) -/

/-- A count joins what a port accumulates for a counter. -/
def accJoin (l : List (CtrId × Nat)) (c : CtrId) (n : Nat) : List (CtrId × Nat) :=
  if n = 0 then l
  else if l.any (fun e => decide (e.1 = c)) then l.map (fun e => if e.1 = c then (c, e.2 + n) else e)
  else l ++ [(c, n)]

/-- The ended frame's count goes to the counter bound in that frame, with what has accumulated, in one increment; during
hold-off it accumulates (R214, R215, R552). -/
def State.pulseAdd (s : State) (p : PortId) : State :=
  let x := s.port.at p
  let l := match s.pulseCtr p with
    | some c => accJoin x.accs c x.cntA
    | none => x.accs
  if s.holdoff then s.pset p (fun x => { x with accs := l })
  else l.foldl (fun s e => (s.ctrInc e.1 e.2).2) (s.pset p (fun x => { x with accs := [] }))

/-- TBS_SPDCFG.WIN in ms: the nearer end outside 100 to 2000. -/
def State.speedWin (s : State) : Nat := Nat.max 100 (Nat.min 2000 (s.rd TBS_SPDCFG_WIN))

/-- Edges marked NOTS are never first or last (R471). -/
def trimNots (l : List (Nat × Bool)) : List (Nat × Bool) :=
  ((l.dropWhile (fun e => e.2)).reverse.dropWhile (fun e => e.2)).reverse

/-- KMH of the edges in a window: `e` counted edges per interval, K16 in sixteenths of a pulse per kilometre (R471, R472). -/
def kmh (l : List (Nat × Bool)) (e k16 : Nat) : Nat :=
  let w := trimNots l
  match w.head?, w.getLast? with
  | some a, some b =>
    let dt := b.1 - a.1
    if w.length < 2 ∨ dt = 0 then 0
    else Nat.min 65535 ((46080000000000000 * ((w.length - 1) * e) + k16 * dt) / (2 * k16 * dt))
  | _, _ => 0

/-- K; below 1600 acts as 1600 (Table 6.9). -/
def State.k16 (s : State) (p : PortId) : Nat := Nat.max 1600 (s.par p 1 0 20)

/-- What a PULSE port has of the ended frame, under the configuration of that frame: PORTn_PCNT, PORTn_SPEED at a harvest 5 µs
after the edge, and CNT1 where A and B are apart. -/
def State.pulseLatch (s : State) (p : PortId) : State :=
  s.ifFn p .pulse (fun s =>
  let x := s.port.at p
  let start := 4 * (s.tbs.mono + 5000) - 4000000 * s.speedWin
  let win := x.win.filter (fun e => decide (start ≤ e.1))
  let v := kmh win (if s.edgeSel p = 3 then 2 else 1) (s.k16 p)
  let bad := match x.tdc with | t :: _ => s.tbs.startFail.getLsbD t.val | [] => false
  let s1 := s.wrs [(PORT_PCNT_PULSES p, Nat.min 65535 x.cntA), (PORT_PCNT_REV p, Nat.min 65535 x.rev), (PORT_SPEED_KMH p, v),
    (PORT_SPEED_VALID p, b2n (x.ran && !bad))]
  let apart := s.bmode p == 1 && (decide (x.cntA + 1 < x.cntB) || decide (x.cntB + 1 < x.cntA))
  let s2 := if apart then s1.bump (PORT_CNT1 p) else s1
  s2.pset p (fun x => { x with cntA := 0, cntB := 0, rev := 0, win := win, ran := true }))

/-- The end of a frame at the ports, before the waiting writes commit. -/
def State.pulsesEnd (s : State) : State := (finList 24).foldl (fun s p => (s.pulseAdd p).pulseLatch p) s

/-- The registers of the other functions read 0. -/
def State.pulseNone (s : State) (p : PortId) : State :=
  s.wrs [(PORT_PCNT_PULSES p, 0), (PORT_PCNT_REV p, 0), (PORT_SPEED_KMH p, 0), (PORT_SPEED_VALID p, 0)]

/-- What a port latches. -/
def State.portLatch (s : State) (p : PortId) : State :=
  let s1 := match s.pfn p with
    | .pulse => s.edgeClose p false
    | .pps => (s.pulseNone p).edgeClose p false
    | _ => s.pulseNone p
  let x := s1.port.at p
  let dual := decide (x.fn = .dual)
  (s1.wrs [(PORT_HARV_LVLA p, b2n x.lvlA), (PORT_HARV_LVLB p, b2n x.lvlB), (PORT_HARV_VAL p, b2n (dual && x.val)),
    (PORT_HARV_DISC p, b2n (dual && s1.isSet (PORT_STAT_DISC p)))]).portRetry p

/-- VCEL in mV: VIO while it is present, VBAT otherwise (R183). -/
def State.vcel (s : State) : Nat := if 1500 ≤ s.si.vio then s.si.vio else s.si.vbat

/-- The pads of a port are supplied: bank M from VIO, bank C from VCEL (R183, R529; log entry 96). -/
def State.padsUp (s : State) (p : PortId) : Bool := decide (1500 ≤ (if p.val < 16 then s.si.vio else s.vcel))

/-- A pin as the part reads it: inputs without a supply read 0 (R529). -/
def State.pinSeen (s : State) (r : PinReading) : PinReading := if s.padsUp r.p then r else { r with a := false, b := false }

/-- The pins that the environment lists, through their filters. -/
def State.pinsRead (s : State) (l : List PinReading) : State :=
  l.foldl (fun s r0 =>
    let r := s.pinSeen r0
    if s.filtered r.p r.held.toNat then s.levelsGo r.p r.a r.b r.agree.toNat else s) s

/-! ## The boundary (R190, R227) -/

/-- The ports with pending writes, in the order of their last write to FUNC; one without such a write takes the place of its
last write. -/
def State.portOrder (s : State) : List PortId :=
  let idx := s.shadow.zipIdx
  let place (p : PortId) : Option Nat :=
    let mine := idx.filter (fun e => (portCfgFields p).contains e.1.fld)
    let fn := mine.filter (fun e => e.1.fld == PORT_FUNC_FN p)
    ((if fn.isEmpty then mine else fn).getLast?).map (fun e => e.2)
  let l := (finList 24).filterMap (fun p => (place p).map (fun n => (n, p)))
  (l.mergeSort (fun a b => decide (a.1 ≤ b.1))).map (fun e => e.2)

/-- The port's waiting writes with the function they leave in force: from SEALED on, K is not written outside FIT and WORKSHOP,
whatever the order of the writes (R186). -/
def State.portMine (s : State) (ws : List ShadowWrite) (p : PortId) : Bool × List (Field × Nat) :=
  let mine := (ws.filter (fun w => (portCfgFields p).contains w.fld)).map (fun w => (w.fld, w.val.toNat))
  let bad := decide ((s.wrs mine).rd (PORT_FUNC_FN p) = 6) && !s.rwsOpen && s.sys.mode != .fit && s.sys.mode != .workshop &&
    mine.any (fun e => e.1 == PORT_PAR p 1)
  (bad, if bad then mine.filter (fun e => e.1 != PORT_PAR p 1) else mine)

/-- The writes to one port take their place, and the port is judged. -/
def State.portCommit (s : State) (ws : List ShadowWrite) (p : PortId) : State :=
  let (bad, mine) := s.portMine ws p
  let t := (s.wrs mine).portJudge s p
  if bad && t.rd (PORT_STAT_CLAIM p) = 0 then t.wr (PORT_STAT_CLAIM p) 11 else t

/-- The Cellar keeps a copy of the bank C ports that run LOOP or SWITCH (R227). -/
def State.cellarPorts (s : State) : State :=
  let l := (finList 24).filterMap (fun p =>
    let fn := s.pfn p
    if 16 ≤ p.val ∧ (fn = .loop ∨ fn = .switch) then
      let w (k : Fin 4) : Word := BitVec.ofNat 32 (s.rd (PORT_PAR p k))
      let cfg := s.rd (PORT_CFG_FILT p) + 4096 * s.rd (PORT_CFG_PULLA p) + 16384 * s.rd (PORT_CFG_PULLB p) +
        65536 * s.rd (PORT_CFG_AUTOCLR p)
      let par0 := if s.prbsOn p then w 0 else w 0 &&& 0xFFFFFFFE
      let c : CelPort := { fn := fn, cfg := BitVec.ofNat 17 cfg, par0 := par0, par1 := w 1, par2 := w 2,
                           armed := s.isSet (WATCH_ARM (portSrc p)), lfsr := (s.port.at p).lfsr }
      some (p.val, c)
    else none)
  { s with cel := { s.cel with ports := l } }

/-- PORTn_STAT.ARMED follows the source's ARM; only DUAL, LOOP and SWITCH ports are armed (R194). -/
def State.armShow (s : State) (p : PortId) : State :=
  let n := portSrc p
  let fn := s.pfn p
  let on := s.isSet (WATCH_ARM n) && (fn == .dual || fn == .loop || fn == .switch)
  s.wrs [(WATCH_ARM n, b2n on), (PORT_STAT_ARMED p, b2n on)]

/-- RISE step 12: the loaded functions are claimed in ascending port order (R187); a partner without a function of its own claims
nothing. -/
def State.portsLoad (s : State) : State :=
  let zero : State := { s with regs := [] }
  let t := (finList 24).foldl (fun s p =>
    if s.paired p && decide (s.rd (PORT_FUNC_FN p) = 0) then s else s.portJudge zero p) s
  (finList 24).foldl State.armShow t

end Sys2Proof.Machine
end

