-- ==== Sys2Proof/Machine/Archive.lean ====
section
/-!
DEFINITION. Archive.lean: record areas, blocks, transactions, the journal and its replay, erase-ahead, the Vault's shadow
update, and the end of hold-off (spec/15_larder_archive.md, R422, R433 to R454; spec/11_vault.md, R338, R339).
-/
namespace Sys2Proof.Machine

/-! ## Areas (R439) -/

/-- First byte and size in bytes of an area. -/
def State.areaBase (s : State) (k : Fin 8) : Nat := 0x1000 * s.rd (ARC_AREA_START k)
def State.areaSize (s : State) (k : Fin 8) : Nat := 0x1000 * s.rd (ARC_AREA_SECTORS k)

/-- A position moved on by bytes, modulo the area's size. -/
def State.areaAdd (s : State) (k : Fin 8) (u n : Nat) : Nat :=
  let b := s.areaBase k
  let z := s.areaSize k
  if z = 0 then u else b + (u - b + n) % z

/-- Bytes from one position on to another. -/
def State.areaGap (s : State) (k : Fin 8) (u v : Nat) : Nat :=
  let z := s.areaSize k
  if z = 0 then 0 else (v + z - u) % z

/-- The pointers of an area changed. -/
def State.setArea (s : State) (k : Fin 8) (f : AreaPtr → AreaPtr) : State :=
  { s with nv := { s.nv with area := s.nv.area.upd k f } }

/-- Sector of an offset. -/
def sectorOf (u : Nat) : Nat := u / 0x1000

/-- A unit can be programmed: erased, in a sector neither INCOMPLETE nor retired. -/
def State.unitReady (s : State) (u : Nat) : Bool :=
  s.unitErased u && !s.nv.incomplete.contains (sectorOf u) && !s.nv.retired.contains (sectorOf u)

/-- The bank of an offset. -/
def bankOf (u : Nat) : Fin 2 := if u < 0x200000 then 0 else 1

/-! ## Framing units (Table 15.8) -/

/-- A unit with its check. -/
def unitOf (w0 : Word) (a b c : Byte) (w2 : Word) : List Byte :=
  let l := w0.bytes ++ [a, b, c, 0] ++ w2.bytes
  l ++ (crc32c l).bytes

def beginUnit (bseq : Word) (n : Nat) (t : Fin 16) : List Byte :=
  unitOf bseq (BitVec.ofNat 8 n) (BitVec.ofNat 8 t.val) 0xB6 0

def closeUnit (bseq : Word) (used : Nat) (t : Fin 16) (jseq : Nat) : List Byte :=
  unitOf bseq (BitVec.ofNat 8 used) (BitVec.ofNat 8 t.val) 0xC6 (BitVec.ofNat 32 jseq)

/-- N of a valid BEGIN unit. -/
def State.validBegin (s : State) (u : Nat) : Option Nat :=
  let l := s.getBytes (arcBase + u) 16
  let n := (l.getD 4 0).toNat
  if l.getD 6 0 = 0xB6 ∧ Word.ofBytes (l.drop 12) = crc32c (l.take 12) ∧ 1 ≤ n ∧ n ≤ 16 then some n else none

/-- The positions a reader visits from `u` to `v` (R442): true for a block's BEGIN. -/
def State.walk (s : State) (k : Fin 8) (v : Nat) : Nat → Nat → List (Nat × Bool)
  | 0, _ => []
  | f + 1, u =>
    if u = v then []
    else match s.validBegin u with
      | some n => (u, true) :: s.walk k v f (s.areaAdd k u (16 * (n + 2)))
      | none => (u, false) :: s.walk k v f (s.areaAdd k u 16)

/-- Walk with fuel for every unit of the area. -/
def State.walkFrom (s : State) (k : Fin 8) (u v : Nat) : List (Nat × Bool) := s.walk k v (s.areaSize k / 16) u

/-- An offset is a block position between HEAD and COMMIT (R444). -/
def State.blockPos (s : State) (k : Fin 8) (u : Nat) : Bool :=
  let a := s.nv.area.at k
  u == a.commit || (s.walkFrom k a.head a.commit).contains (u, true)

/-! ## What a command answers -/

/-- ARC_TSTAT at the end of a command (Table 15.14). -/
def State.arcEnd (s : State) (c : CpuId) (code : Nat) : State :=
  s.wrs [(ARC_TSTAT_STATE c, if code = 0 then 2 else 3), (ARC_TSTAT_CODE c, code)]

/-- ARC_TSTAT reads WAIT. -/
def State.arcWait (s : State) (c : CpuId) : State := s.wrs [(ARC_TSTAT_STATE c, 1), (ARC_TSTAT_CODE c, 0)]

/-- A core's command; one given while its previous one waits is ignored (log entry 35). -/
def State.arcCmd (s : State) (c : CpuId) (f : State → State) : State :=
  s.byCore c (fun s => if s.rd (ARC_TSTAT_STATE c) = 1 then s else f s)

/-- A transaction changed. -/
def State.setTxn (s : State) (t : Fin 16) (x : Option Txn) : State := { s with nv := { s.nv with txn := s.nv.txn.put t x } }

/-! ## Programming (R433) -/

/-- An idle bank starts its next unit. -/
def State.bankKick (s : State) (b : Fin 2) : State :=
  match s.bank.at b, s.progs.at b with
  | .idle, p :: _ => { s with bank := s.bank.put b (.program p.off) }
  | _, _ => s

/-- A unit joins its bank's queue. -/
def State.progAdd (s : State) (p : Prog) : State :=
  let b := bankOf p.off
  ({ s with progs := s.progs.put b (s.progs.at b ++ [p]) }).bankKick b

/-! ## OPEN (R441, R443, R445) -/

/-- The first position at or after RESV where a block meets no retired sector. -/
def State.blockStart (s : State) (k : Fin 8) (n : Nat) : Nat → Nat → Nat
  | 0, u => u
  | f + 1, u =>
    match ((List.range (n + 2)).map (fun i => s.areaAdd k u (16 * i))).find?
        (fun v => s.nv.retired.contains (sectorOf v)) with
    | none => u
    | some v => s.blockStart k n f (s.areaAdd k (0x1000 * sectorOf v) 0x1000)

/-- Where a block of N goes, once its units are ready. -/
def State.blockPlace (s : State) (k : Fin 8) (n : Nat) : Option Nat :=
  let a := s.nv.area.at k
  let u := s.blockStart k n 1024 a.resv
  let end_ := s.areaGap k a.head u + 16 * (n + 2)
  let ok := (List.range (n + 2)).all (fun i => s.unitReady (s.areaAdd k u (16 * i)))
  if s.areaGap k a.head a.resv ≤ s.areaGap k a.head u ∧ end_ < s.areaSize k ∧ ok then some u else none

/-- ERAHEAD: 0 acts as 1, above 4 as 4. -/
def State.erahead (s : State) : Nat := Nat.max 1 (Nat.min 4 (s.rd ARC_CFG_ERAHEAD))

/-- Sectors from RESV's sector on that are to be kept erased, in order. -/
def State.aheadSectors (s : State) (k : Fin 8) : List Nat :=
  let r := (s.nv.area.at k).resv
  let first := if r % 0x1000 = 0 then 0 else 1
  ((List.range s.erahead).map (fun i => sectorOf (s.areaAdd k (0x1000 * sectorOf r) (0x1000 * (i + first))))).filter
    (fun x => !s.nv.retired.contains x)

/-- A whole sector is erased. -/
def State.sectorErased (s : State) (x : Nat) : Bool :=
  s.mem.all (fun e => !(decide (arcBase + 0x1000 * x ≤ e.1) && decide (e.1 < arcBase + 0x1000 * x + 0x1000)))

/-- A sector lies wholly below HEAD: not between HEAD's sector and RESV. -/
def State.belowHead (s : State) (k : Fin 8) (x : Nat) : Bool :=
  let a := s.nv.area.at k
  let h := 0x1000 * sectorOf a.head
  decide (s.areaGap k h a.resv ≤ s.areaGap k h (0x1000 * x))

/-- The sector that erase-ahead takes next. -/
def State.eraseNext (s : State) (k : Fin 8) : Option Nat :=
  (s.aheadSectors k).find? (fun x =>
    (!s.sectorErased x || s.nv.incomplete.contains x) &&
    (!s.isSet (ARC_AREA_POLICY k) || s.belowHead k x))

/-- A FILL area can erase nothing further (R443). -/
def State.fillFull (s : State) (k : Fin 8) : Bool := s.isSet (ARC_AREA_POLICY k) && (s.eraseNext k).isNone

/-- A block's BEGIN unit is programmed for an open transaction. -/
def State.openGo (s : State) (t : Fin 16) (x : Txn) (u : Nat) : State :=
  let a := s.nv.area.at x.area
  let s1 := s.setTxn t (some { x with waiting := false, begin := u, next := s.areaAdd x.area u 16, bseq := a.bseq })
  (s1.setArea x.area (fun a => { a with resv := u })).progAdd ⟨u, beginUnit a.bseq x.n t, .begin t x.area x.n⟩

/-- OPEN of a block: at once, waiting, or SPACE. -/
def State.openBlock (s : State) (c : CpuId) (t : Fin 16) (x : Txn) : State :=
  match s.blockPlace x.area x.n with
  | some u => (s.openGo t x u).arcWait c
  | none =>
    if s.fillFull x.area ∧ s.bank.at (bankOf (s.areaBase x.area)) = .idle then s.arcEnd c 5
    else (s.setTxn t (some { x with waiting := true })).arcWait c

/-- Area `k` has an open transaction. -/
def State.areaBusy (s : State) (k : Fin 8) : Bool :=
  (finList 16).any (fun t => match s.nv.txn.at t with | some x => x.area == k && x.n != 0 | none => false)

/-- Modes of OPEN (R445), and of every other write to a record area (Table 3.6): INSPECT reads only, HOLD and QUARANTINE do
neither. -/
def Mode.arcOpen : Mode → Bool
  | .fit | .service | .workshop | .doze => true
  | _ => false

/-- OPEN. -/
def State.arcOpen (s : State) (c : CpuId) (t : Fin 16) (k : Fin 8) (n : Nat) : State :=
  let x : Txn := { owner := c, area := k, n := n }
  if (s.nv.txn.at t).isSome then s.arcEnd c 2
  else if 16 < n ∨ (n ≠ 0 ∧ !s.isSet (ARC_AREA_EN k)) then s.arcEnd c 1
  else if n ≠ 0 ∧ s.areaBusy k then s.arcEnd c 3
  else if !s.sys.mode.arcOpen then s.arcEnd c 4
  else if n = 0 then (s.setTxn t (some x)).arcEnd c 0
  else s.openBlock c t x

/-- OPENs that wait are tried again, in a mode that writes record areas. -/
def State.openRetry (s : State) : State :=
  if !s.sys.mode.arcOpen then s
  else (finList 16).foldl (fun s t =>
    match s.nv.txn.at t with
    | some x =>
      if !x.waiting then s
      else match s.blockPlace x.area x.n with
        | some u => s.openGo t x u
        | none =>
          if s.fillFull x.area ∧ s.bank.at (bankOf (s.areaBase x.area)) = .idle then (s.setTxn t none).arcEnd x.owner 5 else s
    | none => s) s

/-! ## CTR, ABORT (R447, R450) -/

/-- The caller's transaction. -/
def State.txnOf (s : State) (c : CpuId) (t : Fin 16) : Option Txn :=
  match s.nv.txn.at t with
  | some x => if x.owner = c then some x else none
  | none => none

/-- A staged amount joins the earlier one of its counter. -/
def stageAmt (l : List (CtrId × Nat)) (k : CtrId) (a : Nat) : List (CtrId × Nat) :=
  if l.any (fun e => decide (e.1 = k)) then l.map (fun e => if e.1 = k then (k, e.2 + a) else e) else l ++ [(k, a)]

/-- CTR. -/
def State.arcCtr (s : State) (c : CpuId) (t : Fin 16) (k : CtrId) : State :=
  match s.txnOf c t with
  | none => s.arcEnd c 2
  | some x =>
    let a := s.rd (ARC_TARG c)
    let l := stageAmt x.ctrs k a
    if x.committing then s.arcEnd c 3
    else if 4 < l.length ∨ !ctrOfCores k ∨ s.ctrBound k then s.arcEnd c 6
    else if a = 0 then s.arcEnd c 1
    else (s.setTxn t (some { x with ctrs := l })).arcEnd c 0

/-- Relay sessions bound to a transaction in one of some states (R446). -/
def State.bound (s : State) (t : Fin 16) (f : Nat → Bool) : Bool :=
  (finList 8).any (fun n => s.rd (RLY_DST_KIND n) == 2 && s.rd (RLY_DST_TXN n) == t.val && f (s.rd (RLY_STAT_STATE n)))

/-- ABORT. -/
def State.arcAbort (s : State) (c : CpuId) (t : Fin 16) : State :=
  match s.txnOf c t with
  | none => s.arcEnd c 2
  | some x =>
    if x.committing || s.bound t (fun st => st == 2 || st == 3) then s.arcEnd c 3
    else (s.setTxn t none).arcEnd c 0

/-! ## The journal (R448, R449) -/

/-- The target slot of a staged increment; none where the counter cannot take it. -/
def State.ctrTarget (s : State) (e : CtrId × Nat) : Option (CtrId × Word × Nat) :=
  let r := s.nv.ring.at e.1
  let cur := s.ctrSlot e.1
  if r.slots = 0 ∨ r.noValid ∨ 2 ^ 64 ≤ cur.value + e.2 then none else some (e.1, cur.seq + 1, cur.value + e.2)

/-- A commit record enters its slot; the journal holds the newest 16. -/
def State.journalPut (s : State) (r : CommitRec) : State :=
  { s with nv := { s.nv with jseq := r.jseq, journal := (s.nv.journal ++ [r]).drop (s.nv.journal.length - 15) } }

/-- Counter slots of a record, as apply and replay write them: a counter at or past its target stays. -/
def State.ctrApply (s : State) (l : List (CtrId × Word × Nat)) : State :=
  l.foldl (fun s e =>
    let cur := s.ctrSlot e.1
    if cur.seq = e.2.1 ∨ serialAfter cur.seq e.2.1 then s else s.ctrWrite e.1 e.2.2 e.2.1) s

/-- JSEQs of the commits that are not yet applied: their CLOSE units are still to be programmed, or their pointers wait (R449;
DEDUCED, log entry 101). -/
def State.closing (s : State) : List Nat :=
  let f (e : ProgEnd) : List Nat := match e with | .close _ _ r => [r.jseq] | .begin _ _ _ => []
  ((s.progs.at 0 ++ s.progs.at 1).map Prog.fin ++ s.ldr.later).flatMap f

/-- The journal slot of the next record holds one that is not yet applied (R448). -/
def State.slotBusy (s : State) : Bool := s.closing.any (fun j => decide (j + 16 ≤ s.nv.jseq + 1))

/-- The area pointers and APPLIED of a record: APPLIED names the latest record up to which all are applied. -/
def State.ptrApply (s : State) (r : CommitRec) : State :=
  let s1 := match r.area with
    | some k => s.setArea k (fun a => { a with commit := r.commit, head := r.head })
    | none => s
  let applied := (s1.closing.filter (fun j => decide (j ≠ r.jseq))).foldl (fun m j => Nat.min m (j - 1)) s1.nv.jseq
  { s1 with nv := { s1.nv with applied := applied } }

/-- An internal commit without a block (R452): journal, counters, APPLIED. -/
def State.internalCommit (s : State) (kind : CommitKind) (ctrs : List (CtrId × Nat)) : State :=
  let l := ctrs.filterMap s.ctrTarget
  let r : CommitRec := { kind := kind, txn := 0xFF, area := none, n := 0, used := 0, begin := 0, commit := 0, head := 0,
                         ctrs := l, jseq := s.nv.jseq + 1 }
  ((s.journalPut r).ctrApply l).ptrApply r

/-- HEAD of an area moves by an internal journal record (R443, R444). -/
def State.headMove (s : State) (k : Fin 8) (u : Nat) : State :=
  let a := s.nv.area.at k
  let r : CommitRec := { kind := .head, txn := 0xFF, area := some k, n := 0, used := 0, begin := 0, commit := a.commit,
                         head := u, ctrs := [], jseq := s.nv.jseq + 1 }
  (s.journalPut r).ptrApply r

/-- The status of a committed transaction: a core's, or the block of the ARC job that committed it. -/
def State.commitDone (s : State) (c : CpuId) (t : Fin 16) (r : CommitRec) : State :=
  ((s.ptrApply r).setTxn t none).arcEnd c 0

/-- The commit record of a transaction (Table 15.9). -/
def State.commitRec (s : State) (t : Fin 16) (x : Txn) : CommitRec :=
  let k := x.area
  let a := s.nv.area.at k
  let blk := decide (x.n ≠ 0)
  { kind := .firmware, txn := t.val, area := if blk then some k else none, n := x.n, used := x.used, begin := x.begin,
    commit := if blk then s.areaAdd k x.begin (16 * (x.n + 2)) else 0, head := a.head, ctrs := x.ctrs.filterMap s.ctrTarget,
    jseq := s.nv.jseq + 1 }

/-- Offset of a transaction's CLOSE unit. -/
def State.closeOff (s : State) (x : Txn) : Nat := s.areaAdd x.area x.begin (16 * (x.n + 1))

/-- The commit record is written, the counters follow, and the CLOSE unit is programmed (R448, R449). -/
def State.commitNow (s : State) (c : CpuId) (t : Fin 16) (x : Txn) : State :=
  let r := s.commitRec t x
  let s1 := (s.journalPut r).ctrApply r.ctrs
  if x.n ≠ 0 then
    ((s1.setTxn t (some { x with committing := true })).arcWait c).progAdd
      ⟨s.closeOff x, closeUnit x.bseq x.used t r.jseq, .close c t r⟩
  else s1.commitDone c t r

/-- What refuses a COMMIT: 0 where nothing does. -/
def State.commitCheck (s : State) (t : Fin 16) (x : Txn) : Nat :=
  if x.n ≠ 0 ∧ !s.sys.mode.arcOpen then 4
  else if x.committing || x.waiting || s.bound t (fun st => st != 4 && st != 5 && st != 0) then 3
  else if x.void then 7
  else 0

/-- COMMIT. -/
def State.arcCommit (s : State) (c : CpuId) (t : Fin 16) : State :=
  match s.txnOf c t with
  | none => s.arcEnd c 2
  | some x =>
    match s.commitCheck t x with
    | 0 =>
      if s.holdoff || s.slotBusy then
        let s1 := (s.setTxn t (some { x with committing := true })).arcWait c
        { s1 with ldr := { s1.ldr with commits := s1.ldr.commits ++ [(some c, t)] } }
      else s.commitNow c t x
    | code => s.arcEnd c code

/-- What refuses a TRIM, or 0. -/
def State.trimCheck (s : State) (k : Fin 8) (u : Nat) : Nat :=
  if !s.sys.mode.arcOpen then 4 else if s.isSet (ARC_AREA_EN k) && s.blockPos k u then 0 else 1

/-- TRIM. -/
def State.arcTrim (s : State) (c : CpuId) (k : Fin 8) : State :=
  let u := s.rd (ARC_TARG c)
  if s.trimCheck k u ≠ 0 then s.arcEnd c (s.trimCheck k u)
  else if s.holdoff then
    { s.arcWait c with ldr := { s.ldr with trims := s.ldr.trims ++ [(c, k, u)] } }
  else (s.headMove k u).arcEnd c 0

/-! ## Completion of programs and erases -/

/-- What follows a programmed unit: Larder writes, which wait through hold-off. -/
def State.progFin (s : State) (e : ProgEnd) : State :=
  if s.holdoff then { s with ldr := { s.ldr with later := s.ldr.later ++ [e] } }
  else match e with
    | .begin t k n =>
      let s1 := s.setArea k (fun a => { a with resv := s.areaAdd k a.resv (16 * (n + 2)), bseq := a.bseq + 1 })
      match s1.nv.txn.at t with
      | some x => s1.arcEnd x.owner 0
      | none => s1
    | .close c t r => s.commitDone c t r

/-- Commits that waited for the end of hold-off or for their journal slot, as far as they can go. -/
def State.commitsGo (s : State) : State :=
  let l := s.ldr.commits
  l.foldl (fun s e =>
    if s.holdoff || s.slotBusy then { s with ldr := { s.ldr with commits := s.ldr.commits ++ [e] } }
    else match s.nv.txn.at e.2 with
      | some x => s.commitNow x.owner e.2 { x with committing := false }
      | none => s) { s with ldr := { s.ldr with commits := [] } }

/-- PROGRAM_UNIT_COMPLETE. -/
def State.progDone (s : State) (b : Fin 2) : State :=
  match s.bank.at b, s.progs.at b with
  | .program _, p :: rest =>
    let s1 := { s with bank := s.bank.put b .idle, progs := s.progs.put b rest }
    ((((s1.arcPut p.off p.bytes).progFin p.fin).commitsGo).openRetry).bankKick b
  | _, _ => s

/-- The first block position beyond a sector that holds HEAD (R443). -/
def State.headBeyond (s : State) (k : Fin 8) (x : Nat) : Nat :=
  let a := s.nv.area.at k
  match (s.walkFrom k a.head a.commit).find? (fun p => decide (sectorOf p.1 ≠ x) && p.2) with
  | some p => p.1
  | none => a.commit

/-- ERASE_AHEAD: the next sector of an area is marked INCOMPLETE, and its erase starts. -/
def State.eraseAhead (s : State) (k : Fin 8) : State :=
  if !s.isSet (ARC_AREA_EN k) ∨ s.holdoff then s
  else match s.eraseNext k with
    | none => s
    | some x =>
      let b := bankOf (0x1000 * x)
      if s.bank.at b ≠ .idle then s
      else
        let a := s.nv.area.at k
        let s1 := if sectorOf a.head = x ∧ a.head ≠ a.resv then s.headMove k (s.headBeyond k x) else s
        { s1 with
          bank := s1.bank.put b (.erase x false 0)
          nv := { s1.nv with incomplete := if s1.nv.incomplete.contains x then s1.nv.incomplete else s1.nv.incomplete ++ [x] } }

/-- The wear table counts an erase; a record sector at 100,000 is retired (R436). -/
def State.wearUp (s : State) (x : Nat) : State :=
  let n := lkGet 0 s.nv.erases x + 1
  let s1 := { s with nv := { s.nv with erases := lkPut s.nv.erases x n } }
  let rec_ := decide (0x140 ≤ x ∧ x < 0x200) || decide (0x2C0 ≤ x ∧ x < 0x400)
  if n = 100000 ∧ rec_ then
    ({ s1 with nv := { s1.nv with retired := s1.nv.retired ++ [x] } }.bump ARC_STAT_WORN).attic 2 (9 :: leBytes 2 x)
  else s1

/-- SECTOR_ERASE_COMPLETE. -/
def State.eraseDone (s : State) (b : Fin 2) : State :=
  match s.bank.at b with
  | .erase x false _ =>
    let s1 := { s.arcErase x with bank := s.bank.put b .idle }
    let s2 := { s1 with nv := { s1.nv with incomplete := s1.nv.incomplete.filter (fun y => decide (y ≠ x)) } }
    ((s2.wearUp x).openRetry).bankKick b
  | _ => s

/-- ERASE_RESUME. -/
def State.eraseResume (s : State) (b : Fin 2) : State :=
  match s.bank.at b with
  | .erase x true n => { s with bank := s.bank.put b (.erase x false n) }
  | _ => s

/-- A read of an erasing bank suspends the erase (R435), at most 256 times. -/
def State.eraseSuspend (s : State) (off : Nat) : State :=
  let b := bankOf off
  match s.bank.at b with
  | .erase x false n =>
    if s.isSet ARC_CFG_SUSPEND ∧ n < 256 then
      { s with bank := s.bank.put b (.erase x true (n + 1)) }.bump ARC_CNT_SUSPENDS
    else s
  | _ => s

/-! ## The Vault's shadow (R338, R339) -/

/-- The key regrown from the PUF with the helper data of generation `g`, in the standard's byte order. -/
def pufBytes (g : Nat) : List Byte := beBytes 32 (Config.pufKey g).toNat

/-- The IV of a record: the index, and the CTR2 value after the update. -/
def shadowIv (i ctr : Nat) : List Byte := leBytes 4 i ++ leBytes 8 ctr

/-- The additional data of a record. -/
def shadowAad : List Byte := beBytes 8 Config.unitId.toNat

/-- The entry that a record carries: an EMPTY one with its count of the generation table (R317). -/
def State.shadowEntry (s : State) (i : Nat) : VEntry :=
  let e := s.vEnt i
  if e.st = 0 then { gen := BitVec.ofNat 16 (lkGet 0 s.vlt.gens i) } else e

/-- An entry sealed with AES-256-GCM (R338). -/
def shadowSeal (g i ctr : Nat) (e : VEntry) : ShadowRec :=
  let text := gcmText (pufBytes g) (shadowIv i ctr) e.bytes
  { ctr := ctr, text := text, tag := gcmTag (pufBytes g) (shadowIv i ctr) shadowAad text }

/-- The entry of a record, unmasked; none where the record does not authenticate. -/
def shadowOpen (g i : Nat) (r : ShadowRec) : Option VEntry :=
  if gcmTag (pufBytes g) (shadowIv i r.ctr) shadowAad r.text = r.tag then
    some (VEntry.ofBytes (gcmText (pufBytes g) (shadowIv i r.ctr) r.text) (List.replicate 32 0))
  else none

/-- The record of an index as it is read: an entry without one listed has that of an EMPTY entry never stored. -/
def Shadow.entry (sh : Shadow) (g i : Nat) : Option VEntry :=
  match sh.recs.find? (fun r => decide (r.1 = i)) with
  | some (_, r) => shadowOpen g i r
  | none => some {}

/-- Records of the changed entries, sealed with the CTR2 value after the update. -/
def State.shadowPut (s : State) (sh : Shadow) (g : Nat) (l : List Nat) (v : Nat) : Shadow :=
  { sh with
    recs := l.foldl (fun (r : List (Nat × ShadowRec)) i =>
      if i < 240 then (r.filter (fun e => decide (e.1 ≠ i))) ++ [(i, shadowSeal g i v (s.shadowEntry i))] else r) sh.recs
    gen := v }

/-- A Vault transaction: the records, one increment of CTR2, the journal record (R339). -/
def State.shadowWrite (s : State) (l : List Nat) : Option State :=
  match s.nv.shadow, s.nv.puf with
  | some sh, some g =>
    let v := s.ctrVal 2 + 1
    let s1 := s.internalCommit .vault [(2, 1)]
    some { s1 with
      nv := { s1.nv with shadow := some (s.shadowPut sh g l v) }
      vlt := { s1.vlt with dirty := s1.vlt.dirty.filter (fun i => !l.contains i) } }
  | _, _ => none

/-- SHADOW_UPDATE_COMMIT: the oldest command that waits for its update ends; without shadow or PUF key it fails with SHADOW. -/
def State.shadowCommit (s : State) : State :=
  match s.vlt.jobs.find? (fun j => decide (j.changed ≠ [])) with
  | none => s
  | some j =>
    if s.kWaits ∨ s.holdoff ∨ s.sys.mode.main = false then s
    else
      let s1 := { s with vlt := { s.vlt with jobs := s.vlt.jobs.erase j } }
      match s1.shadowWrite j.changed with
      | some s2 => s2.vJobEnd j j.code
      | none => s1.vJobEnd j 15

/-! ## The end of hold-off (R422) -/

/-- TRIMs that waited. -/
def State.trimsGo (s : State) : State :=
  let l := s.ldr.trims
  l.foldl (fun s e => (s.headMove e.2.1 e.2.2).arcEnd e.1 0) { s with ldr := { s.ldr with trims := [] } }

/-- Accumulated increments, one per counter. -/
def State.incsGo (s : State) : State :=
  let l := s.ldr.incs
  l.foldl (fun s e => (s.ctrInc e.1 e.2).2) { s with ldr := { s.ldr with incs := [] } }

/-- Snapshots that waited, in arrival order. -/
def State.savesGo (s : State) : State :=
  let l := s.ldr.saves
  l.foldl (fun s e => s.paramWrite (finOf 8 e.1) e.2) { s with ldr := { s.ldr with saves := [] } }

/-- Larder writes of finished programs. -/
def State.laterGo (s : State) : State :=
  let l := s.ldr.later
  l.foldl State.progFin { s with ldr := { s.ldr with later := [] } }

/-- The switch record names a slot (R177). -/
def State.switchNow (s : State) (k : Fin 3) (n : Fin 2) : State :=
  let s1 := s.internalCommit .switch []
  { s1 with nv := { s1.nv with next := s1.nv.next.put k n } }

/-- Switch records that waited (R177, R422). -/
def State.switchesGo (s : State) : State :=
  let l := s.ldr.switches
  l.foldl (fun s e => s.switchNow e.1 e.2) { s with ldr := { s.ldr with switches := [] } }

/-- HOLDOFF_END, once FIELD has untripped: everything that waited is written, and a full scrub begins. -/
def State.holdoffEnd (s : State) : State :=
  if !s.holdoff || (s.watch.src.at 0x16).trip then s
  else
    let s1 := s.wrs [(LDR_STAT_HOLDOFF, 0), (LDR_STAT_SCRUB, 1)]
    let s2 := { s1 with care := { s1.care with larderPtr := 0 } }
    ((((s2.incsGo).savesGo).laterGo).commitsGo).trimsGo.switchesGo.strHeldFlush

/-! ## Area descriptors at the boundary (R439) -/

/-- A descriptor stands within one record span, with at least two sectors. -/
def areaPlace (start n : Nat) : Bool :=
  decide (2 ≤ n) && ((decide (0x140 ≤ start) && decide (start + n ≤ 0x200)) || (decide (0x2C0 ≤ start) && decide (start + n ≤ 0x400)))

/-- Descriptor `k` as it stands is one the part accepts. -/
def State.areaOk (s : State) (k : Fin 8) : Bool :=
  let a := s.rd (ARC_AREA_START k)
  let n := s.rd (ARC_AREA_SECTORS k)
  !s.isSet (ARC_AREA_EN k) ||
  (areaPlace a n && (finList 8).all (fun j =>
    decide (j = k) || !s.isSet (ARC_AREA_EN j) ||
      decide (a + n ≤ s.rd (ARC_AREA_START j)) || decide (s.rd (ARC_AREA_START j) + s.rd (ARC_AREA_SECTORS j) ≤ a)))

/-- The fields of a descriptor. -/
def areaFields (k : Fin 8) : List Field := [ARC_AREA_START k, ARC_AREA_SECTORS k, ARC_AREA_POLICY k, ARC_AREA_EN k]

/-- A changed descriptor is judged; an area whose place changes starts empty. -/
def State.areaJudge (old s : State) (k : Fin 8) : State :=
  let same := (areaFields k).all (fun f => old.rd f == s.rd f)
  if same then s
  else
    let p := old.nv.area.at k
    let used := old.isSet (ARC_AREA_EN k) && p.head != p.resv
    if used || !s.areaOk k then (s.wrs ((areaFields k).map (fun f => (f, old.rd f)))).setb ARC_ERR_CFG
    else
      let b := s.areaBase k
      if old.areaBase k = b ∧ old.areaSize k = s.areaSize k then s
      else s.setArea k (fun a => { a with head := b, commit := b, resv := b })

/-! ## RISE step 6 (R454) -/

/-- One journal record replayed. -/
def State.replayRec (s : State) (r : CommitRec) : State :=
  let s1 := s.ctrApply r.ctrs
  let s2 := match r.area with
    | some k =>
      let u := s1.areaAdd k r.begin (16 * (r.n + 1))
      if r.kind = CommitKind.firmware ∧ s1.unitErased u then
        s1.arcPut u (closeUnit (Word.ofBytes (s1.getBytes (arcBase + r.begin) 4)) r.used (finOf 16 r.txn) r.jseq)
      else s1
    | none => s1
  s2.ptrApply r

/-- RESV recovered: past every unit that is not erased. -/
def State.resvFind (s : State) (k : Fin 8) : Nat → Nat → Nat
  | 0, u => u
  | f + 1, u =>
    if s.unitErased u then u
    else match s.validBegin u with
      | some n => s.resvFind k f (s.areaAdd k u (16 * (n + 2)))
      | none => s.resvFind k f (s.areaAdd k u 16)

/-- A group that reads uncorrectable lies in a range of the Larder. -/
def badIn (bad : List Nat) (a n : Nat) : Bool := bad.any (fun o => decide (a < o + 8) && decide (o < a + n))

/-- The current slot of a counter's ring, resolved from the slots that are valid: the highest SEQ in serial order (R426). -/
def State.ringResolve (s : State) (bad : List Nat) (c : CtrId) : Ring :=
  let r := s.nv.ring.at c
  let slotBad (i : Nat) : Bool := badIn bad (16 * (r.base + i)) 16
  let valid := (s.nv.slots.filter (fun e => decide (r.base ≤ e.1) && decide (e.1 < r.base + r.slots))).filterMap (fun e =>
    if slotBad (e.1 - r.base) then none else some (e.1 - r.base, e.2.seq))
  let best := valid.foldl (fun (b : Option (Nat × Word)) e => match b with
    | none => some e
    | some x => if serialAfter e.2 x.2 then some e else b) none
  { r with
    cur := match best with | some b => b.1 | none => r.cur
    suspect := (List.range r.slots).any slotBad
    noValid := decide (r.slots ≠ 0) && best.isNone }

/-- The journal records of the replay: those that read, past APPLIED (R454). -/
def State.journalReads (s : State) (bad : List Nat) : List CommitRec :=
  s.nv.journal.filter (fun r => decide (s.nv.applied < r.jseq) && !badIn bad (0x10000 + 256 * (r.jseq % 16)) 256)

/-- Replay: counters, journal, RESV, and the end of every firmware transaction. -/
def State.journalReplay (s : State) (bad : List Nat) : State :=
  let s0 := { s with nv := { s.nv with ring := Tab.ofFn 64 (fun i => s.ringResolve bad (finOf 64 i)) } }
  let s1 := (s0.journalReads bad).foldl State.replayRec s0
  let s2 := (finList 8).foldl (fun s k =>
    if s.isSet (ARC_AREA_EN k) then s.setArea k (fun a => { a with resv := s.resvFind k (s.areaSize k / 16) a.resv }) else s) s1
  { s2 with nv := { s2.nv with txn := Tab.const 16 none } }

/-- CTR0, CTR6 after a Cellar loss, and the pending pulse amounts (R454, R552). -/
def State.riseCounters (s : State) : State :=
  let s1 := (s.ctrInc 0 1).2
  let s2 := if s.sys.kind = .cellarLoss then (s1.ctrInc 6 1).2 else s1
  let s3 := s2.cel.pulses.foldl (fun s e => (s.ctrInc (finOf 64 e.1) e.2).2) s2
  { s3 with cel := { s3.cel with pulses := [] } }

/-! ## Meanings -/

/-- ARC_OPEN (R445). -/
def execArcOpen (c : CpuId) (t : Fin 16) (k : Fin 8) (n : Fin 32) (s : State) : Host.Outcome State Fault Refusal :=
  .next (s.arcCmd c (fun s => s.arcOpen c t k n.val))
/-- ARC_CTR (R447). -/
def execArcCtr (c : CpuId) (t : Fin 16) (k : CtrId) (s : State) : Host.Outcome State Fault Refusal :=
  .next (s.arcCmd c (fun s => s.arcCtr c t k))
/-- ARC_COMMIT (R448). -/
def execArcCommit (c : CpuId) (t : Fin 16) (s : State) : Host.Outcome State Fault Refusal :=
  .next (s.arcCmd c (fun s => s.arcCommit c t))
/-- ARC_ABORT (R450). -/
def execArcAbort (c : CpuId) (t : Fin 16) (s : State) : Host.Outcome State Fault Refusal :=
  .next (s.arcCmd c (fun s => s.arcAbort c t))
/-- ARC_TRIM (R444). -/
def execArcTrim (c : CpuId) (k : Fin 8) (s : State) : Host.Outcome State Fault Refusal :=
  .next (s.arcCmd c (fun s => s.arcTrim c k))
/-- ERASE_AHEAD (R443). -/
def execEraseAhead (k : Fin 8) (s : State) : Host.Outcome State Fault Refusal :=
  .next (if s.mainUp then (s.eraseAhead k).openRetry else s)
/-- SECTOR_ERASE_COMPLETE (R433, R436). -/
def execSectorEraseComplete (b : Fin 2) (s : State) : Host.Outcome State Fault Refusal := .next (s.eraseDone b)
/-- PROGRAM_UNIT_COMPLETE (R433). -/
def execProgramUnitComplete (b : Fin 2) (s : State) : Host.Outcome State Fault Refusal := .next (s.progDone b)
/-- ERASE_RESUME (R435). -/
def execEraseResume (b : Fin 2) (s : State) : Host.Outcome State Fault Refusal := .next (s.eraseResume b)
/-- SHADOW_UPDATE_COMMIT (R339). -/
def execShadowUpdateCommit (s : State) : Host.Outcome State Fault Refusal := .next s.shadowCommit.vNext
/-- HOLDOFF_END (R422). -/
def execHoldoffEnd (s : State) : Host.Outcome State Fault Refusal := .next s.holdoffEnd

end Sys2Proof.Machine
end

