-- ==== Sys2Proof/Machine/QueueCmds.lean ====
section
/-!
DEFINITION. QueueCmds.lean: what a core does to a queue through its registers, and the flush limit (spec/08_queues.md, R245,
R249, R255 to R261).
-/
namespace Sys2Proof.Machine

/-- An access by an agent that Table 8.2 does not give the queue to (R245). -/
def State.qForeign (s : State) (q : QueueId) : State := (s.qerr QFX_ERR_NOTOWNER q).misuse

/-- The consumer owner is the agent. -/
def State.qConsumer (s : State) (a : Agent) (q : QueueId) : Bool := s.rd (QFX_OWNER q) == a.qcode

/-- The producer owner is the agent. -/
def State.qProducer (s : State) (a : Agent) (q : QueueId) : Bool := s.rd (QFX_PROD q) == a.qcode

/-- What the consumer does; anyone else is refused. -/
def State.qAs (s : State) (a : Agent) (q : QueueId) (f : State → State) : State := if s.qConsumer a q then f s else s.qForeign q

/-- What a core does as the consumer. -/
def State.asConsumer (s : State) (c : CpuId) (q : QueueId) (f : State → State) : State :=
  s.byCore c (fun s => s.qAs c.agent q f)

/-- A load of QFX_Qn_POP by core `c` (R255). -/
def State.qPop (s : State) (c : CpuId) (q : QueueId) : State :=
  if s.qConsumer c.agent q then
    let (w, s1) := s.popWord q
    s1.loaded c w
  else (s.loaded c 0).qForeign q

/-- MARK: nothing while a flush is pending. -/
def State.qMark (s : State) (q : QueueId) : State :=
  s.qset q (fun x => if x.flush.isSome then x else { x with mark := some x.rd })

/-- REWIND. -/
def State.qRewind (s : State) (q : QueueId) : State :=
  let x := s.qfx.at q
  if x.flush.isSome then s
  else match x.mark with
    | some m => s.qset q (fun x => { x with rd := m })
    | none => s.qerr QFX_ERR_NOMARK q

/-- RELEASE: DOUBLE and MISUSE where nothing is to release. -/
def State.qRelease (s : State) (q : QueueId) : State :=
  let x := s.qfx.at q
  if x.flush.isSome then s
  else match x.release with
    | some y => s.qset q (fun _ => y)
    | none => (s.qerr QFX_ERR_DOUBLE q).misuse

/-- FLUSH by either owner, or by CON. -/
def State.qFlush (s : State) (a : Agent) (q : QueueId) : State :=
  if s.qConsumer a q || s.qProducer a q || a == .con then s.flushQueue q else s.qForeign q

/-- A store to QFX_Qn_PUSH. -/
def State.qPush (s : State) (a : Agent) (q : QueueId) (w : Word) : State :=
  if s.qProducer a q then (s.pushWord a.qcode q w).2 else s.qForeign q

/-- A write of QFX_Qn_CMD by an agent that is no core (R245, Table 8.5). -/
def State.qCmdBy (s : State) (a : Agent) (q : QueueId) (cmd : Nat) : State :=
  match cmd with
  | 1 => s.qAs a q (fun s => s.qMark q)
  | 2 => s.qAs a q (fun s => s.qRewind q)
  | 3 => s.qAs a q (fun s => s.qRelease q)
  | 4 => s.qFlush a q
  | _ => s

/-- The flush limit is met: the boundary is forced (R259). -/
def State.flushForce (s : State) (q : QueueId) : State :=
  match (s.qfx.at q).flush with
  | some n => if s.flushLimit ≤ n then (s.qset q Queue.force).qlost (QFX_CNT_DESYNC q) else s
  | none => s

/-- A tick edge counts toward every pending flush. -/
def State.flushEdges (s : State) : State :=
  { s with qfx := Tab.ofFn 64 (fun i =>
      let x := s.qfx.at (finOf 64 i)
      { x with flush := x.flush.map (fun n => n + 1) }) }

/-! ## Meanings -/

/-- QUEUE_PUSH (R249). -/
def execQueuePush (c : CpuId) (q : QueueId) (w : Word) (s : State) : Host.Outcome State Fault Refusal :=
  .next (s.byCore c (fun s => s.qPush c.agent q w))
/-- QUEUE_POP (R255). -/
def execQueuePop (c : CpuId) (q : QueueId) (s : State) : Host.Outcome State Fault Refusal :=
  .next (s.byCore c (fun s => s.qPop c q))
/-- MARK (R256). -/
def execMark (c : CpuId) (q : QueueId) (s : State) : Host.Outcome State Fault Refusal :=
  .next (s.asConsumer c q (fun s => s.qMark q))
/-- REWIND (R256). -/
def execRewind (c : CpuId) (q : QueueId) (s : State) : Host.Outcome State Fault Refusal :=
  .next (s.asConsumer c q (fun s => s.qRewind q))
/-- RELEASE (R256). -/
def execRelease (c : CpuId) (q : QueueId) (s : State) : Host.Outcome State Fault Refusal :=
  .next (s.asConsumer c q (fun s => s.qRelease q))
/-- FLUSH (R258). -/
def execFlush (c : CpuId) (q : QueueId) (s : State) : Host.Outcome State Fault Refusal :=
  .next (s.byCore c (fun s => s.qFlush c.agent q))
/-- FLUSH_LIMIT_EXPIRY (R259). -/
def execFlushLimitExpiry (q : QueueId) (s : State) : Host.Outcome State Fault Refusal := .next (s.flushForce q)

end Sys2Proof.Machine
end

