-- ==== Sys2Proof/Machine/Images.lean ====
section
/-!
DEFINITION. Images.lean: Waivia images, their verification, and image loads from the console and from Hostlink H6
(spec/05_miand_verbs.md, R175 to R178; spec/10_cores.md, R309 to R311; spec/13_public_key_engine.md, R389).
-/
namespace Sys2Proof.Machine

/-! ## Slots -/

/-- The slot of a kind that is not active (R175). -/
def State.spare (s : State) (k : ImgKind) : Fin 2 := 1 - s.nv.active.at k.idx

/-- The record of a slot changed. -/
def State.setImg (s : State) (k : ImgKind) (n : Fin 2) (x : ImgSlot) : State :=
  { s with nv := { s.nv with img := s.nv.img.put (imgIdx k n) x } }

/-- The sectors of a slot read as erased. -/
def State.imgWipe (s : State) (k : ImgKind) (n : Fin 2) : State :=
  ((s.memClear (arcBase + imgOff k n) (arcBase + imgOff k n + k.size)).linesDrop).setImg k n {}

/-- Names of kinds and slots. -/
def ImgKind.name : ImgKind → List Byte
  | .fw => txt "FW" | .uc => txt "UC" | .app => txt "APP"

def slotName (k : ImgKind) (n : Fin 2) : List Byte := k.name ++ dec n.val

/-- State of a slot as IMAGE shows it (R175). -/
def State.slotState (s : State) (k : ImgKind) (n : Fin 2) : List Byte :=
  let loading := match s.load with | some l => l.kind == k && l.slot == n | none => false
  let x := s.nv.img.at (imgIdx k n)
  if loading then txt "LOADING"
  else if !x.valid then txt "EMPTY"
  else if s.nv.active.at k.idx = n then txt "ACTIVE"
  else if s.nv.next.at k.idx = n then txt "NEXT"
  else txt "STANDBY"

/-! ## Verification (R309, R310, R389) -/

/-- Signature bytes, hash and key type of a header's CURVE (Table 10.4). -/
def imgCurve (c : Nat) : Option (Nat × Hash) :=
  match c with
  | 0 => some (64, .sha256) | 1 => some (96, .sha384) | 2 => some (132, .sha512)
  | 3 => some (64, .sha256) | 4 => some (96, .sha384) | 5 => some (128, .sha512) | _ => none

/-- The header's fields of a kind are as Table 10.4 requires. -/
def hdrOk (k : ImgKind) (h : List Byte) : Bool :=
  let at_ (i : Nat) : Nat := (h.getD i 0).toNat
  let le (i n : Nat) : Nat := leNat ((h.drop i).take n)
  h.take 4 == txt "WAIV" && at_ 4 == 1 && at_ 5 == k.code && le 6 2 == 0 && le 8 4 != 0 && le 12 4 % 16 == 0 &&
    (if k = .fw then le 16 4 % 2 == 0 && decide (le 16 4 < le 12 4) else le 16 4 == 0) &&
    at_ 21 == 0 && (match imgCurve (at_ 20) with | some (n, _) => le 22 2 == n | none => false) &&
    (k != .uc || (at_ 20 == 1 && le 24 4 == 0)) && (h.drop 28).all (· == 0)

/-- The key that verifies: the ROM root for UC, the FW_SIGN entry of KEYID otherwise; none where there is none of the curve. -/
def State.imgKey (s : State) (k : ImgKind) (curve : Nat) (id : Word) : Option (Nat × Nat) × Bool × State :=
  if k = .uc then (some (Config.romRootX, Config.romRootY), false, s)
  else
    let (l, s1) := s.vLookup .other 1 id 1
    if l.code = 0 ∧ (s1.vEnt l.idx).type.toNat = 0x20 + curve then (some (s1.vPoint l.idx), l.ecc, s1)
    else (none, l.ecc, s1)

/-- The failed check of `len` bytes in a slot, as H6 byte 6 codes it (0 none, 1 len, 3 sig, 4 ver), its VERSION, and whether
the lookup asks for ECC_UNCORR (R335). -/
def State.imgVerify (s : State) (k : ImgKind) (n : Fin 2) (len : Nat) : Nat × Nat × Bool × State :=
  let at0 := arcBase + imgOff k n
  let h := s.getBytes at0 64
  let plen := leNat ((h.drop 12).take 4)
  let sl := leNat ((h.drop 22).take 2)
  let ver := leNat ((h.drop 8).take 4)
  let cv := (h.getD 20 0).toNat
  if len < 64 ∨ k.size < len ∨ len ≠ 64 + plen + sl then (1, ver, false, s)
  else if !hdrOk k h then (3, ver, false, s)
  else match imgCurve cv, Curve.ofCode cv with
    | some (_, hash), some c =>
      let (key, ecc, s1) := s.imgKey k cv (Word.ofBytes (h.drop 24))
      let msg := s1.getBytes at0 (64 + plen)
      let sig := s1.getBytes (at0 + 64 + plen) sl
      let good := match key with
        | some (x, y) => c.verify (some (x, y)) (c.digest (hash.digest msg)) (beNat (sig.take (sl / 2))) (beNat (sig.drop (sl / 2)))
        | none => false
      if !good then (3, ver, ecc, s1)
      else if k = .fw ∧ ver < s1.ctrVal 3 then (4, ver, ecc, s1)
      else (0, ver, ecc, s1)
    | _, _ => (3, ver, false, s)

/-! ## Loads (R175 to R178) -/

/-- HLK_STAT.LOAD, and STATUS byte 1 bit 1: a load of H6 is open. -/
def State.h6Open (s : State) : Bool := match s.load with | some l => l.h6 | none => false

/-- The open load of one side. -/
def State.loadOf (s : State) (h6 : Bool) : Option ImgLoad :=
  match s.load with | some l => if l.h6 = h6 then some l else none | none => none

/-- BEGIN: 22 while a load is open, 12 for a length the slot does not hold. -/
def State.loadBegin (s : State) (h6 : Bool) (k : ImgKind) (len : Nat) (crc : Option Word) : Nat × State :=
  if s.load.isSome then (22, s)
  else if len = 0 ∨ k.size < len then (12, s)
  else
    let n := s.spare k
    let s1 := { s.imgWipe k n with load := some { h6 := h6, kind := k, slot := n, len := len, crc := crc } }
    (0, s1.imageRec 0 k n 0 0 len (b2n h6))

/-- DATA: at the count received, or the last chunk again at its own offset (R176). -/
def State.loadData (s : State) (h6 : Bool) (off : Nat) (v : List Byte) : Nat × State :=
  match s.loadOf h6 with
  | none => (12, s)
  | some l =>
    if (off ≠ l.rcvd ∧ off ≠ l.lastOff) ∨ l.len < off + v.length then (12, s)
    else (0, { s.arcPut (imgOff l.kind l.slot + off) v with load := some { l with rcvd := off + v.length, lastOff := off } })

/-- END commits the switch record (R177): an Archive commit, which waits through hold-off (R422). -/
def State.switchTo (s : State) (k : Fin 3) (n : Fin 2) : State :=
  if s.holdoff then { s with ldr := { s.ldr with switches := s.ldr.switches ++ [(k, n)] } } else s.switchNow k n

/-- END: the checks of R177; the failed check (0 none), the load and the version. -/
def State.loadEnd (s : State) (h6 : Bool) : Option (Nat × ImgLoad × Nat) × State :=
  match s.loadOf h6 with
  | none => (none, s)
  | some l =>
    let base := arcBase + imgOff l.kind l.slot
    let crcBad := match l.crc with | some c => crc32c (s.getBytes base l.rcvd) != c | none => false
    let (bad, ver, ecc, s1) : Nat × Nat × Bool × State :=
      if l.rcvd ≠ l.len then (1, 0, false, s)
      else if crcBad then (2, 0, false, s)
      else s.imgVerify l.kind l.slot l.len
    let s2 := { s1 with load := none }
    let s3 := if bad = 0 then
        (s2.setImg l.kind l.slot ⟨true, BitVec.ofNat 32 ver, l.len⟩).switchTo l.kind.idx l.slot
      else s2.imgWipe l.kind l.slot
    let s4 := s3.imageRec (if bad = 0 then 1 else 2) l.kind l.slot bad ver l.len (b2n h6)
    (some (bad, l, ver), if ecc then s4.eccUncorr else s4)

/-- ABORT: the load whose slot is empty again. -/
def State.loadAbort (s : State) (h6 : Bool) : Option ImgLoad × State :=
  match s.loadOf h6 with
  | none => (none, s)
  | some l => (some l, s.loadAbandon)

/-- The details of E42 (R177). -/
def checkName (n : Nat) : List Byte :=
  match n with | 1 => txt "len" | 2 => txt "crc" | 3 => txt "sig" | 4 => txt "ver" | _ => []

/-- IMAGE_LOAD_TIMEOUT (R178). -/
def execImageLoadTimeout (s : State) : Host.Outcome State Fault Refusal := .next s.loadAbandon

end Sys2Proof.Machine
end

