-- ==== Sys2Proof/Machine/Hostlink.lean ====
section
/-!
DEFINITION. Hostlink.lean: the SPI target (spec/07_hostlink.md): one transaction is one command. `State.hlk.out` holds the
bytes the part drove on HMISO from the fall of HCS_N on: 0x00 in every byte that R232 does not assign to it; it drives 0x00 in
every byte after those as well (R230, R233, `State.hmisoByte`).
-/
namespace Sys2Proof.Machine

/-! ## Queues behind Hostlink -/

/-- Inbound Hk and outbound Hk (Table 7.2). -/
def hIn (k : Fin 8) : QueueId := finOf 64 (48 + k.val)
def hOut (k : Fin 8) : QueueId := finOf 64 (56 + k.val)

/-- Packets at the head that no READ_Q can deliver are released unread (R239). -/
def State.hlkPurgeFuel (q : QueueId) : Nat → State → State
  | 0, s => s
  | f + 1, s =>
    if s.hasHead q && decide (1020 < (s.headPacket q).2.length) then
      hlkPurgeFuel q f ((s.headRelease q).setb HLK_ERR_BIG)
    else s

/-- All outbound queues. -/
def State.hlkPurge (s : State) : State :=
  (finList 8).foldl (fun s k => hlkPurgeFuel (hOut k) (s.qfx.at (hOut k)).pkts s) s

/-- HLK_STAT.OUTPEND. -/
def State.outpend (s : State) : Nat :=
  (finList 8).foldl (fun n k => n + (if s.hasHead (hOut k) then 2 ^ k.val else 0)) 0

/-- HLK_ERR as one number. -/
def State.hlkErr (s : State) : Nat :=
  s.rd HLK_ERR_CRC + 2 * s.rd HLK_ERR_HDR + 4 * s.rd HLK_ERR_MODE + 8 * s.rd HLK_ERR_ABORT + 16 * s.rd HLK_ERR_SRC +
    32 * s.rd HLK_ERR_BIG + 64 * s.rd HLK_ERR_ACK + 128 * s.rd HLK_ERR_ACKCRC

/-- Hostlink answers: from RISE step 13, with the pads supplied (R230, R529). -/
def State.hlkLive (s : State) : Bool := s.hlk.up && s.mainUp && decide (1500 ≤ s.si.vio)

/-- HIRQ_N is pulled low (R243). -/
def State.hirqLow (s : State) : Bool :=
  s.hlk.up && s.mainUp && (s.outpend &&& s.rd HLK_CFG_IENQ != 0 || (s.isSet HLK_CFG_IENERR && s.hlkErr != 0))

/-! ## Headers (R231, R234) -/

/-- QID and LEN ranges of Table 7.2. -/
def HlkHdr.ok (h : HlkHdr) : Bool :=
  let q := h.qid.toNat
  let n := h.len.toNat
  match h.op.toNat with
  | 1 => decide (q ≤ 7) && decide (n ≤ 1024)
  | 2 => decide (q ≤ 7) && decide (4 ≤ n) && decide (n ≤ 1024)
  | 3 => decide (q ≤ 1) && decide (1 ≤ n) && decide (n ≤ 32)
  | 4 => decide (q ≤ 7) && n == 0
  | _ => false

/-- Opcodes by mode (Table 7.3). -/
def Mode.hlkOp (m : Mode) (op : Nat) : Bool :=
  match m with
  | .rise | .foundry | .fit | .service | .workshop | .inspect | .doze => true
  | .hold => op == 2 || op == 3
  | .quarantine | .erased | .retired => op == 3
  | .cellar => false

/-- The 4 header bytes. -/
def HlkHdr.bytes (h : HlkHdr) : List Byte := [h.op, h.qid] ++ leBytes 2 h.len.toNat

/-- The channel of a header. -/
def HlkHdr.k (h : HlkHdr) : Fin 8 := finOf 8 h.qid.toNat

/-- The byte on HMISO in the `i`-th byte of the latest transaction; none where HMISO is Hi-Z (R230). -/
def State.hmisoByte (s : State) (i : Nat) : Option Byte := if s.hlkLive then some (s.hlk.out.getD i 0) else none

/-- The ready byte 0x00 (R234), with the error bit it sets. -/
def State.hlkNo (s : State) (f : Option Field) : State :=
  let s1 := match f with | some f => s.setb f | none => s
  let s2 := s1.bump HLK_CNT_RETRY
  { s2 with hlk := { s2.hlk with out := [0, 0, 0, 0, 0] } }

/-- The header's four bytes, ready byte 0xA5, then bytes. -/
def State.hlkYes (s : State) (l : List Byte) : State := { s with hlk := { s.hlk with out := [0, 0, 0, 0, 0xA5] ++ l } }

/-- Bytes that the host sends. -/
def hostBytes (n : Nat) : List Byte := List.replicate n 0

/-- A transaction of a header: nothing while HMISO is Hi-Z, the header's error, or what follows. -/
def State.hlkDo (s : State) (h : HlkHdr) (f : State → State) : State :=
  if !s.hlkLive then { s with hlk := { s.hlk with out := [] } }
  else
    let s1 := s.hlkPurge
    if !h.ok then s1.hlkNo (some HLK_ERR_HDR)
    else if !s1.sys.mode.hlkOp h.op.toNat then s1.hlkNo (some HLK_ERR_MODE)
    else f s1

/-! ## H6 (R241, Table 7.5) -/

/-- Loading may proceed. -/
def State.h6On (s : State) : Bool :=
  s.isSet HLK_CFG_H6EN && (s.sys.mode == .foundry || s.sys.mode == .fit || s.sys.mode == .workshop)

/-- Bytes received of H6's load. -/
def State.h6Rcvd (s : State) : Nat := match s.loadOf true with | some l => l.rcvd | none => 0

/-- One answer on outbound H6. -/
def State.h6Say (s : State) (cmd : Byte) (status rcvd check : Nat) : State :=
  let s1 := (s.pushPacket 4 (hOut 6) 0 s.hlk.h6seq.toNat
    ([cmd, BitVec.ofNat 8 status] ++ leBytes 4 rcvd ++ [BitVec.ofNat 8 check])).2
  { s1 with hlk := { s1.hlk with h6seq := s1.hlk.h6seq + 1 } }

/-- The head packet of inbound H6 is read: its payload, and the state without it; where its check does not hold (lane 5), the
packet is kept (R270), and stands there until a flush (log entry 98). -/
def State.h6Take (s : State) : Option (List Byte × Bool × State) :=
  let q := hIn 6
  let rd := (s.qfx.at q).rd
  if !s.hasHead q ∨ s.hlk.h6bad = some rd then none
  else
    let pay := (s.headPacket q).2
    let good := s.pktGood q (rd + pktWords pay.length)
    some (pay, good, if good then s.headRelease q else { s with hlk := { s.hlk with h6bad := some rd } })

/-- The command byte of the packet that the loader reads next. -/
def State.h6Cmd (s : State) : Option Byte := s.h6Take.map (fun r => r.1.getD 0 0)

/-- Reserved commands at the head are answered 12, or 20 where loading does not proceed. -/
def State.h6SkipFuel : Nat → State → State
  | 0, s => s
  | f + 1, s =>
    match s.h6Cmd, s.h6Take with
    | some c, some (_, good, s1) =>
      if 1 ≤ c.toNat ∧ c.toNat ≤ 4 then s
      else
        let s2 := if good then s1 else s1.laneFail 5
        h6SkipFuel f (s2.h6Say c (if !s.h6On then 20 else if good then 12 else 42) s2.h6Rcvd 0)
    | _, _ => s

def State.h6Skip (s : State) : State := h6SkipFuel (s.qfx.at (hIn 6)).pkts s

/-- A command of H6, where it stands at the head: taken, judged and answered. -/
def State.h6Run (s : State) (c : Byte) (f : List Byte → State → State) : State :=
  match s.h6Cmd, s.h6Take with
  | some d, some (pay, good, s1) =>
    if d ≠ c then s
    else if !s.h6On then (s1.h6Say c 20 s1.h6Rcvd 0).h6Skip
    else if !good then ((s1.laneFail 5).h6Say c 42 s1.h6Rcvd 0).h6Skip
    else (f pay s1).h6Skip
  | _, _ => s

/-- BEGIN. -/
def State.h6Begin (s : State) (b : List Byte) : State :=
  let kind := leNat ((b.drop 1).take 3)
  let crc := Word.ofBytes (b.drop 8)
  let k : ImgKind := if kind = 0 then .fw else if kind = 1 then .uc else .app
  if b.length ≠ 12 ∨ 2 < kind then s.h6Say 1 12 s.h6Rcvd 0
  else
    let (e, s1) := s.loadBegin true k (leNat ((b.drop 4).take 4)) (if crc = 0 then none else some crc)
    s1.h6Say 1 e s1.h6Rcvd 0

/-- DATA. -/
def State.h6Data (s : State) (b : List Byte) : State :=
  if b.length < 9 ∨ 1024 < b.length ∨ leNat ((b.drop 1).take 3) ≠ 0 then s.h6Say 2 12 s.h6Rcvd 0
  else
    let (e, s1) := s.loadData true (leNat ((b.drop 4).take 4)) (b.drop 8)
    s1.h6Say 2 e s1.h6Rcvd 0

/-- END and ABORT carry nothing but zeros. -/
def h6Bare (b : List Byte) : Bool := b.length == 4 && leNat ((b.drop 1).take 3) == 0

/-- END. -/
def State.h6End (s : State) (b : List Byte) : State :=
  let n := s.h6Rcvd
  if !h6Bare b then s.h6Say 3 12 n 0
  else match s.loadEnd true with
    | (none, s1) => s1.h6Say 3 12 n 0
    | (some (bad, _, _), s1) => s1.h6Say 3 (if bad = 0 then 0 else 42) n bad

/-- ABORT. -/
def State.h6Abort (s : State) (b : List Byte) : State :=
  if !h6Bare b then s.h6Say 4 12 s.h6Rcvd 0
  else match s.loadAbort true with
    | (none, s1) => s1.h6Say 4 12 0 0
    | (some _, s1) => s1.h6Say 4 0 0 0

/-! ## WRITE_Q (R236) -/

/-- LASTQ and LASTRES. -/
def State.hlkLast (s : State) (k : Fin 8) (res : Nat) : State := s.wrs [(HLK_STAT_LASTQ, k.val), (HLK_STAT_LASTRES, res)]

/-- The payload and a matching trailer: the packet is sealed; `fl` when the queue was flushed meanwhile. -/
def State.hlkSeal (s : State) (k : Fin 8) (hdr : Word) (data : List Byte) (fl : Bool) : State :=
  let q := hIn k
  let s1 := if fl then s.flushQueue q else s
  let s2 := ((pktOf hdr data).drop 1).foldl (fun s w => (s.pushWord 2 q w).2) s1
  if fl then s2.hlkLast k 3
  else
    let s3 := (s2.wr (HLK_WSEQ k) (s2.hlk.seq.at k).toNat).hlkLast k 0
    let s4 := { s3 with hlk := { s3.hlk with seq := s3.hlk.seq.upd k (· + 1) } }
    if k = 6 then s4.h6Skip else s4

/-- The whole write. -/
def State.hlkWrite (s : State) (h : HlkHdr) (data : List Byte) (trailer : Word) (fl : Bool) : State :=
  let k := h.k
  let q := hIn k
  let data := (data ++ List.replicate h.len.toNat 0).take h.len.toNat
  let hdr := pktHeader data.length 0 (s.rd (QFX_SRC_ID q)) (s.hlk.seq.at k).toNat
  match s.pushHeader 2 q hdr with
  | (.taken, s1) =>
    let s2 := s1.hlkYes (hostBytes (data.length + 4))
    if trailer = crc32c (h.bytes ++ data) then s2.hlkSeal k hdr data fl
    else
      let s3 := ((if fl then s2.flushQueue q else s2).qset q Queue.withdraw).laneFail 3
      ((s3.setb HLK_ERR_CRC).bump HLK_CNT_CRCERR).hlkLast k 1
  | (_, s1) => s1.hlkNo none

/-! ## READ_Q and ACK (R237 to R239) -/

/-- What a READ_Q drives after its ready byte, whether it delivers the packet whole, and whether the packet's check is wrong. -/
def State.readStream (s : State) (h : HlkHdr) : List Byte × Bool × Bool :=
  let q := hOut h.k
  let x := s.qfx.at q
  let words := pktWords (s.headPacket q).2.length
  let full := (List.range (words - 1)).flatMap (fun i => (s.qword q (x.rd + i)).bytes)
  let n := h.len.toNat
  let whole := decide (full.length ≤ n)
  let sent := (full ++ List.replicate n 0).take n
  let bad := whole && !s.pktGood q (x.rd + words)
  let crc := crc32c (h.bytes ++ sent)
  (sent ++ (if bad then ~~~crc else crc).bytes, whole, bad)

/-- READ_Q. -/
def State.hlkRead (s : State) (h : HlkHdr) : State :=
  let k := h.k
  let q := hOut k
  if !s.hasHead q then s.hlkNo none
  else
    let (out, whole, bad) := s.readStream h
    let s1 := s.qset q (fun x => { x with mark := some x.rd })
    let s2 := { s1 with hlk := { s1.hlk with elig := s1.hlk.elig.put k (if whole && !bad then some (s.qfx.at q).rd else none) } }
    let s3 := if bad then (s2.setb HLK_ERR_SRC).laneFail 4 else s2
    s3.hlkYes out

/-- The eligible packet of Hk stands at the head. -/
def State.hlkEligible (s : State) (k : Fin 8) : Bool :=
  s.hasHead (hOut k) && s.hlk.elig.at k == some (s.qfx.at (hOut k)).rd

/-- ACK. -/
def State.hlkAck (s : State) (h : HlkHdr) (trailer : Word) : State :=
  let k := h.k
  if !s.hlkEligible k then s.hlkNo (some HLK_ERR_ACK)
  else
    let s1 := s.hlkYes (hostBytes 4)
    if trailer = crc32c h.bytes then
      let s2 := s1.headRelease (hOut k)
      { s2 with hlk := { s2.hlk with elig := s2.hlk.elig.put k none } }
    else (s1.setb HLK_ERR_ACKCRC).bump HLK_CNT_CRCERR

/-! ## STATUS (R240) -/

/-- Byte 3: inbound Hk can accept 1024 bytes now. -/
def State.hlkRoom (s : State) : Nat :=
  (finList 8).foldl (fun n k => n + (if s.admits (hIn k) (pktWords 1024) then 2 ^ k.val else 0)) 0

/-- The STATUS block (Table 7.4). -/
def State.hlkBlock (s : State) : List Byte :=
  let b (n : Nat) : Byte := BitVec.ofNat 8 n
  [b s.sys.mode.code, b (1 + 2 * b2n s.h6Open + 4 * b2n (s.isSet TELE_STAT_STREAM) + 8 * b2n s.timeUnk), b s.outpend,
    b s.hlkRoom, b s.hlkErr, 0, b (s.rd HLK_STAT_LASTQ), b (s.rd HLK_STAT_LASTRES)] ++
  (finList 8).map (fun k => b (s.rd (HLK_WSEQ k))) ++
  (finList 8).map (fun k => b (Nat.min 255 (s.qfx.at (hOut k)).pkts)) ++
  leBytes 4 (s.rd TICK_FRAME_COUNT) ++ leBytes 2 (s.rd HLK_CNT_CRCERR) ++ [0, 0]

/-- The error bits. -/
def hlkErrs : List Field :=
  [HLK_ERR_CRC, HLK_ERR_HDR, HLK_ERR_MODE, HLK_ERR_ABORT, HLK_ERR_SRC, HLK_ERR_BIG, HLK_ERR_ACK, HLK_ERR_ACKCRC]

/-- What a STATUS drives after its ready byte. -/
def State.statusStream (s : State) (h : HlkHdr) : List Byte :=
  let sent := s.hlkBlock.take h.len.toNat
  sent ++ (crc32c (h.bytes ++ sent)).bytes

/-- STATUS. -/
def State.hlkStatus (s : State) (h : HlkHdr) : State :=
  let s1 := s.hlkYes (s.statusStream h)
  if h.qid = 1 ∧ 5 ≤ h.len.toNat then s1.wrs (hlkErrs.map (fun f => (f, 0))) else s1

/-! ## HOSTLINK_ABORT (R235) -/

/-- HCS_N rises before the trailer is complete; no header when that was left incomplete. The part has driven its bytes as far as
the host clocked them. -/
def State.hlkAbort (s : State) (h : Option HlkHdr) : State :=
  match h with
  | none =>
    if s.hlkLive then { s.setb HLK_ERR_ABORT with hlk := { s.hlk with out := [] } }
    else s
  | some h =>
    s.hlkDo h (fun s =>
      let k := h.k
      match h.op.toNat with
      | 1 =>
        let hdr := pktHeader h.len.toNat 0 (s.rd (QFX_SRC_ID (hIn k))) (s.hlk.seq.at k).toNat
        match s.pushHeader 2 (hIn k) hdr with
        | (.taken, s1) => (((s1.qset (hIn k) Queue.withdraw).hlkYes []).setb HLK_ERR_ABORT).hlkLast k 2
        | (_, s1) => s1.hlkNo none
      | 2 =>
        if !s.hasHead (hOut k) then s.hlkNo none
        else
          let s1 := (s.qset (hOut k) (fun x => { x with mark := some x.rd })).setb HLK_ERR_ABORT
          { s1 with hlk := { s1.hlk with elig := s1.hlk.elig.put k none } }.hlkYes (s.readStream h).1
      | 4 => if !s.hlkEligible k then s.hlkNo (some HLK_ERR_ACK) else (s.setb HLK_ERR_ABORT).hlkYes []
      | _ => (s.setb HLK_ERR_ABORT).hlkYes (s.statusStream h))

/-! ## Meanings -/

/-- WRITE_Q (R236): QID, LEN, payload, trailer, and whether the inbound queue is flushed during the write. -/
def execWriteQ (qid : Byte) (len : BitVec 16) (data : List Byte) (tr : Word) (fl : Bool) (s : State) :
    Host.Outcome State Fault Refusal :=
  let h : HlkHdr := ⟨1, qid, len⟩
  .next (s.hlkDo h (fun s => s.hlkWrite h data tr fl))
/-- READ_Q (R237). -/
def execReadQ (qid : Byte) (len : BitVec 16) (s : State) : Host.Outcome State Fault Refusal :=
  let h : HlkHdr := ⟨2, qid, len⟩
  .next (s.hlkDo h (fun s => s.hlkRead h))
/-- STATUS (R240). -/
def execStatus (qid : Byte) (len : BitVec 16) (s : State) : Host.Outcome State Fault Refusal :=
  let h : HlkHdr := ⟨3, qid, len⟩
  .next (s.hlkDo h (fun s => s.hlkStatus h))
/-- ACK (R239). -/
def execAck (qid : Byte) (len : BitVec 16) (tr : Word) (s : State) : Host.Outcome State Fault Refusal :=
  let h : HlkHdr := ⟨4, qid, len⟩
  .next (s.hlkDo h (fun s => s.hlkAck h tr))
/-- HOSTLINK_ABORT (R235). -/
def execHostlinkAbort (h : Option HlkHdr) (s : State) : Host.Outcome State Fault Refusal := .next (s.hlkAbort h)
/-- H6_BEGIN (R241). -/
def execH6Begin (s : State) : Host.Outcome State Fault Refusal := .next (s.h6Run 1 (fun b s => s.h6Begin b))
/-- H6_DATA (R241). -/
def execH6Data (s : State) : Host.Outcome State Fault Refusal := .next (s.h6Run 2 (fun b s => s.h6Data b))
/-- H6_END (R241). -/
def execH6End (s : State) : Host.Outcome State Fault Refusal := .next (s.h6Run 3 (fun b s => s.h6End b))
/-- H6_ABORT (R241). -/
def execH6Abort (s : State) : Host.Outcome State Fault Refusal := .next (s.h6Run 4 (fun b s => s.h6Abort b))

end Sys2Proof.Machine
end

