-- ==== Sys2Proof/Machine/Relay.lean ====
section
/-!
DEFINITION. Relay.lean: the eight relay sessions (spec/09_check_handover.md, R269 to R285; spec/15_larder_archive.md, R446).
Kinds: 0 BUFFER, 1 QUEUE, 2 ARCHIVE. States: 0 IDLE, 1 BOUND, 2 MOVING, 3 CLOSING, 4 SEALED, 5 FAILED.
-/
namespace Sys2Proof.Machine

/-! ## What a session names -/

/-- One side is the Archive. -/
def State.rlyArc (s : State) (n : Fin 8) : Bool := s.rlySrcK n == 2 || s.rlyDstK n == 2

/-- Payload bytes: the header of a QUEUE source gives them. -/
def State.rlyLen (s : State) (n : Fin 8) : Nat :=
  if s.rlySrcK n = 1 then (s.headPacket (s.rlySrcQ n)).2.length else (s.rlyB n).len

/-- Units of an Archive record (R274). -/
def recUnits (len : Nat) : Nat := ceilDiv len 16 + 1

/-- The area whose place holds a physical offset. -/
def State.areaAt (s : State) (u : Nat) : Option (Fin 8) :=
  (finList 8).find? (fun k =>
    s.isSet (ARC_AREA_EN k) && decide (s.areaBase k ≤ u) && decide (u < s.areaBase k + s.areaSize k))

/-! ## The binding (R278, R446) -/

/-- A length that both kinds admit. -/
def State.lenOk (s : State) (n : Fin 8) (len : Nat) : Bool :=
  (if s.rlyArc n then decide (1 ≤ len) && decide (len ≤ 240) else true) &&
  (if s.rlySrcK n = 1 then decide (len ≤ 4092) else decide (1 ≤ len) && decide (len ≤ 4092))

/-- An SRAM address range is word-aligned and inside SRAM. -/
def bufOk (a len : Nat) : Bool := a % 4 == 0 && inSram a len

/-- The transaction takes a record of `len` bytes at DADR, in a mode that writes record areas (Table 3.6). -/
def State.txnTakes (s : State) (n : Fin 8) (c : CpuId) (len : Nat) : Bool :=
  s.sys.mode.arcOpen && match s.nv.txn.at (s.rlyTxn n) with
  | some t =>
    decide (t.owner = c) && t.n != 0 && !t.waiting && !t.committing && decide ((s.rlyB n).dadr = t.next) &&
      decide (t.used + recUnits len ≤ t.n) && (s.areaAt t.next).isSome
  | none => false

/-- The source as far as OPEN can judge it. -/
def State.srcOk (s : State) (n : Fin 8) : Bool :=
  match s.rlySrcK n with
  | 0 => s.lenOk n ((s.rlyB n).len) && bufOk ((s.rlyB n).sadr) ((s.rlyB n).len)
  | 1 => s.rd (QFX_OWNER (s.rlySrcQ n)) == 4 &&
      !(finList 8).any (fun m => m != n && decide (1 ≤ s.rlySt m) && decide (s.rlySt m ≤ 3) && s.rlySrcK m == 1 && s.rlySrcQ m == s.rlySrcQ n)
  | 2 => s.lenOk n ((s.rlyB n).len) && (s.rlyB n).sadr % 16 == 0 && (s.areaAt ((s.rlyB n).sadr)).isSome
  | _ => false

/-- The destination for `len` bytes. -/
def State.dstOk (s : State) (n : Fin 8) (c : CpuId) (len : Nat) : Bool :=
  match s.rlyDstK n with
  | 0 => bufOk ((s.rlyB n).dadr) len
  | 1 => s.rd (QFX_PROD (s.rlyDstQ n)) == 4
  | 2 => s.txnTakes n c len
  | _ => false

/-- The binding is valid: a QUEUE source's length is judged when its packet is there. -/
def State.bindOk (s : State) (n : Fin 8) (c : CpuId) : Bool :=
  s.srcOk n && s.dstOk n c (if s.rlySrcK n = 1 then 1 else (s.rlyB n).len)

/-! ## OPEN and the start of the move (R276, R277) -/

/-- The RECORD_MAC key for one use; none where the lookup fails. -/
def State.rlyKey (s : State) (n : Fin 8) (op : Nat) : Option (List Byte) × Bool × State :=
  let (l, s1) := s.vLookup .other 5 (BitVec.ofNat 32 ((s.rlyB n).keyid)) op
  (if l.code = 0 ∧ vAes (s1.vEnt l.idx).type.toNat then some (s1.vValue l.idx) else none, l.ecc, s1)

/-- The key is loaded: PRODUCE for an Archive destination, CHECK for an Archive source. -/
def State.rlyLoad (s : State) (n : Fin 8) : Bool × Bool × State :=
  let (k1, e1, s1) := if s.rlyDstK n = 2 then s.rlyKey n 0 else (some [], false, s)
  let (k2, e2, s2) := if s.rlySrcK n = 2 then s1.rlyKey n 1 else (some [], false, s1)
  match k1, k2 with
  | some a, some b => (true, e1 || e2, s2.rlySet n (fun x => { x with key := if s.rlyDstK n = 2 then a else b }))
  | _, _ => (false, e1 || e2, s2)

/-- The source is ready, and so is the destination queue: no other session's packet is in progress in it. -/
def State.rlyReady (s : State) (n : Fin 8) : Bool :=
  (s.rlySrcK n != 1 || s.hasHead (s.rlySrcQ n)) && (s.rlyDstK n != 1 || !(s.qfx.at (s.rlyDstQ n)).inPacket)

/-- A QUEUE destination's header is written. -/
def State.rlyHeader (s : State) (n : Fin 8) (len : Nat) : State :=
  let q := s.rlyDstQ n
  let hdr := pktHeader len ((s.rlyB n).flags) (s.rd (QFX_SRC_ID q)) ((s.rlyB n).seq)
  match s.pushHeader 4 q hdr with
  | (.taken, s1) => s1.rlySet n (fun x => { x with left := pktWords len - 1 })
  | (_, s1) => (s1.qset q (fun x => { x with drop := 0 })).rlyEnd n 5

/-- An Archive destination's units: NEXT advances past them (R446). -/
def State.rlyUnits (s : State) (n : Fin 8) (len : Nat) : State :=
  s.setTxn (s.rlyTxn n) ((s.nv.txn.at (s.rlyTxn n)).map (fun t =>
    { t with next := s.areaAdd t.area t.next (16 * recUnits len), used := t.used + recUnits len }))

/-- BOUND to MOVING. -/
def State.rlyMove (s : State) (n : Fin 8) : State :=
  let len := s.rlyLen n
  let c : CpuId := finOf 2 (s.rd (RLY_STAT_OWNER n))
  if !s.rlyReady n then s
  else if s.rlySrcK n = 1 ∧ !(s.lenOk n len && s.dstOk n c len) then s.rlyEnd n 4
  else
    let s1 := s.wr (RLY_STAT_STATE n) 2
    let s2 := if s.rlySrcK n = 1 then
        (s1.rlySet n (fun x => { x with rd := (s.qfx.at (s.rlySrcQ n)).rd })).wr (RLY_HDR n) (s.headPacket (s.rlySrcQ n)).1.toNat
      else s1
    match s.rlyDstK n with
    | 1 => s2.rlyHeader n len
    | 2 => if s.rlySrcK n = 1 then s2.rlyUnits n len else s2
    | _ => s2

/-- OPEN in IDLE. -/
def State.rlyOpen (s : State) (c : CpuId) (n : Fin 8) : State :=
  let s0 := (s.wrs [(RLY_STAT_OWNER n, c.val), (RLY_STAT_STATE n, 1), (RLY_STAT_RESULT n, 0), (RLY_STAT_SEALED n, 0),
    (RLY_STAT_SRCFREE n, 0), (RLY_STAT_DFLUSH n, 0), (RLY_DSTCHK n, 0)]).rlySet n (fun _ => { bound := some (s.rlyRegs n) })
  if !s0.bindOk n c then s0.rlyEnd n 4
  else
    let (ok, ecc, s1) := if s0.rlyArc n then s0.rlyLoad n else (true, false, s0)
    let s2 :=
      if !ok then s1.rlyEnd n 3
      else
        let s3 := if s0.rlyDstK n = 2 ∧ s0.rlySrcK n ≠ 1 then s1.rlyUnits n ((s0.rlyB n).len) else s1
        s3.rlyMove n
    if ecc then s2.eccUncorr else s2

/-! ## The move and its close (R269, R274, R279) -/

/-- The CMAC of a record (R274). -/
def recMac (key : List Byte) (off : Nat) (pay : List Byte) : List Byte :=
  cmac key (leBytes 4 off ++ leBytes 2 pay.length ++ pay)

/-- Bytes of an area from a position on, modulo its size. -/
def State.areaBytes (s : State) (k : Fin 8) (u n : Nat) : List Byte := (List.range n).map (fun i => s.arcB (s.areaAdd k u i))

/-- Units programmed from a position on. -/
def State.areaProg (s : State) (k : Fin 8) (u : Nat) (l : List Byte) : State :=
  (finList (ceilDiv l.length 16)).foldl (fun s i => s.arcPut (s.areaAdd k u (16 * i.val)) ((l.drop (16 * i.val)).take 16)) s

/-- The payload as read, and whether the source check holds. -/
def State.rlySource (s : State) (n : Fin 8) : List Byte × Bool :=
  match s.rlySrcK n with
  | 0 =>
    let l := s.getBytes ((s.rlyB n).sadr) ((s.rlyB n).len)
    (l, (crc32c l).toNat == (s.rlyB n).chk)
  | 1 =>
    let q := s.rlySrcQ n
    let (_, l) := s.headPacket q
    (l, s.pktGood q ((s.qfx.at q).rd + pktWords l.length))
  | _ =>
    let u := (s.rlyB n).sadr
    match s.areaAt u with
    | some k =>
      let len := (s.rlyB n).len
      let l := s.areaBytes k u len
      (l, s.areaBytes k (s.areaAdd k u (16 * ceilDiv len 16)) 16 == recMac (s.rly.at n).key u l)
    | none => ([], false)

/-- A queue at either end was flushed during the move, or its packet went otherwise. -/
def State.rlyFlushed (s : State) (n : Fin 8) : Bool :=
  (s.rlySrcK n == 1 && (!s.hasHead (s.rlySrcQ n) || (s.qfx.at (s.rlySrcQ n)).rd != (s.rly.at n).rd)) ||
  (s.rlyDstK n == 1 && ((s.qfx.at (s.rlyDstQ n)).flush.isSome || (s.qfx.at (s.rlyDstQ n)).left != (s.rly.at n).left))

/-- The destination receives the payload; an Archive record's CMAC unit, a packet's trailer are its seal. -/
def State.rlyPut (s : State) (n : Fin 8) (l : List Byte) (good : Bool) : State :=
  match s.rlyDstK n with
  | 0 =>
    let s1 := s.unitPut ((s.rlyB n).dadr) l
    if good then s1.wrs [(RLY_DSTCHK n, (crc32c l).toNat)] else s1
  | 1 =>
    if !good then s
    else
      let q := s.rlyDstQ n
      let hdr := pktHeader l.length ((s.rlyB n).flags) (s.rd (QFX_SRC_ID q)) ((s.rlyB n).seq)
      let s1 := ((pktOf hdr l).drop 1).foldl (fun s w => (s.pushWord 4 q w).2) s
      s1.rlySet n (fun x => { x with left := 0, done := some (s1.qfx.at q).wr })
  | _ =>
    let u := (s.rlyB n).dadr
    match s.areaAt u with
    | some k =>
      let m := 16 * ceilDiv l.length 16
      let s1 := s.areaProg k u ((l ++ List.replicate 16 0).take m)
      if good then s1.areaProg k (s.areaAdd k u m) (recMac (s.rly.at n).key u l) else s1
    | none => s

/-- SEALED: the source is released. STAT.SEALED tells of a BUFFER destination, SRCFREE of a BUFFER or ARCHIVE source (R279). -/
def State.rlySealed (s : State) (n : Fin 8) : State :=
  let s1 := if s.rlySrcK n = 1 then s.headRelease (s.rlySrcQ n) else s
  s1.wrs [(RLY_STAT_STATE n, 4), (RLY_STAT_RESULT n, 1), (RLY_STAT_SEALED n, b2n (s.rlyDstK n == 0)),
    (RLY_STAT_SRCFREE n, b2n (s.rlySrcK n != 1))]

/-- RELAY_SEAL: `ecc` when the source reads uncorrectable. A session with the Archive waits through HOLD (R285). -/
def State.rlySeal (s : State) (n : Fin 8) (ecc : Bool) : State :=
  if s.rlySt n ≠ 2 ∨ (s.rlyArc n ∧ s.sys.mode = .hold) then s
  else if s.rlyFlushed n then s.rlyEnd n 8
  else if ecc then (s.rlyEnd n 7).eccUncorr
  else
    let (l, good) := s.rlySource n
    let s1 := s.rlyPut n l good
    if good then s1.rlySealed n else s1.rlyEnd n 2

/-! ## Commands -/

/-- A session belongs to the other core (R272). -/
def State.rlyOthers (s : State) (c : CpuId) (n : Fin 8) : Bool :=
  s.rlySt n != 0 && s.rd (RLY_STAT_OWNER n) != c.val && !(s.rly.at n).orphan

/-- A command of a session by a core: the owner's, or OPEN in IDLE; anyone else's is ignored and raises MISUSE (R272). -/
def State.rlyCmd (s : State) (c : CpuId) (n : Fin 8) (f : State → State) : State :=
  s.byCore c (fun s =>
    if s.rlyOthers c n then s.misuse else f s)

/-- ABORT: no effect in CLOSING or once the session has ended. -/
def State.rlyAbort (s : State) (n : Fin 8) : State := if s.rlySt n = 1 ∨ s.rlySt n = 2 then s.rlyEnd n 6 else s

/-- DROPSRC (R282): the failed packet, while it stands at the head. -/
def State.rlyDrop (s : State) (n : Fin 8) : State :=
  let q := s.rlySrcQ n
  if s.rlySt n = 5 ∧ s.rlySrcK n = 1 ∧ (s.rly.at n).failed = some (s.qfx.at q).rd ∧ s.hasHead q ∧ s.rd (QFX_OWNER q) = 4 then
    ((s.headRelease q).rlySet n (fun x => { x with failed := none })).bump RLY_CNT_DROPSRC
  else s

/-- FREE. -/
def State.rlyFree (s : State) (n : Fin 8) : State :=
  if s.rlySt n = 4 ∨ s.rlySt n = 5 then
    (s.wrs [(RLY_STAT_STATE n, 0), (RLY_STAT_RESULT n, 0), (RLY_STAT_SEALED n, 0), (RLY_STAT_SRCFREE n, 0),
      (RLY_STAT_DFLUSH n, 0), (RLY_STAT_OWNER n, 0)]).rlySet n (fun _ => {})
  else s

/-! ## Meanings -/

/-- RLY_OPEN (R277). -/
def execRlyOpen (c : CpuId) (n : Fin 8) (s : State) : Host.Outcome State Fault Refusal :=
  .next (s.rlyCmd c n (fun s => if s.rlySt n = 0 then s.rlyOpen c n else s))
/-- RLY_ABORT (R281). -/
def execRlyAbort (c : CpuId) (n : Fin 8) (s : State) : Host.Outcome State Fault Refusal :=
  .next (s.rlyCmd c n (fun s => s.rlyAbort n))
/-- RLY_DROPSRC (R282). -/
def execRlyDropsrc (c : CpuId) (n : Fin 8) (s : State) : Host.Outcome State Fault Refusal :=
  .next (s.rlyCmd c n (fun s => s.rlyDrop n))
/-- RLY_FREE (R277). -/
def execRlyFree (c : CpuId) (n : Fin 8) (s : State) : Host.Outcome State Fault Refusal :=
  .next (s.rlyCmd c n (fun s => s.rlyFree n))
/-- RELAY_SOURCE_READY (R278). -/
def execRelaySourceReady (n : Fin 8) (s : State) : Host.Outcome State Fault Refusal :=
  .next (if s.rlySt n = 1 ∧ s.mainUp ∧ !(s.rlyArc n && s.sys.mode == .hold) then s.rlyMove n else s)
/-- RELAY_SEAL (R279). -/
def execRelaySeal (n : Fin 8) (ecc : Bool) (s : State) : Host.Outcome State Fault Refusal := .next (s.rlySeal n ecc)

end Sys2Proof.Machine
end

