-- ==== Sys2Proof/Machine/Care.lean ====
section
/-!
DEFINITION. Care.lean: the Caretaker's background work, the Attic ring, telemetry and the stream engine
(spec/18_background.md; spec/01_planes.md, R44).
-/
namespace Sys2Proof.Machine

/-- The period counts changed. -/
def State.tele (s : State) (f : TelePeriod → TelePeriod) : State :=
  { s with care := { s.care with period := f s.care.period } }

/-- An EVENT record: code, the index, sector or counter, and what CARE_INFO adds (Table 18.6). -/
def State.event (s : State) (code x : Nat) (more : List Byte) : State :=
  s.attic 2 ((BitVec.ofNat 8 code :: leBytes 2 x) ++ more)

/-! ## Refresh (R508) -/

/-- A sector is queued for refresh, once. -/
def State.refreshAdd (s : State) (x : Nat) : State :=
  if s.care.refresh.contains x then s
  else { s.bump CARE_CNT_REFRESH with care := { s.care with refresh := s.care.refresh ++ [x] } }

/-- The region code of a sector (Table 18.4). -/
def refreshRegion (x : Nat) : Nat :=
  if x < 0x0D0 then 3 else if x < 0x0D2 then 4 else if x < 0x0D4 then 2 else if x < 0x0F4 then 0
  else if x < 0x100 then 5 else if x < 0x140 then 7 else if x < 0x200 then 6 else if x < 0x2C0 then 1 else 6

/-- The action of a region on one sector; none while it has to wait. -/
def State.refreshOne (s : State) (x : Nat) : Option State :=
  let r := refreshRegion x
  if r = 0 then (if s.holdoff then none else some (s.internalCommit .vault []))
  else if r = 1 then
    if s.holdoff ∨ s.sSources ≠ [] then none
    else
      some (s.internalCommit .store []).strImage
  else if r = 2 then some (s.wearUp x)
  else
    some ((s.event 7 x [BitVec.ofNat 8 r]).careInfo ([4] ++ leBytes 2 x ++ [BitVec.ofNat 8 r]))

/-- SECTOR_REFRESH: the oldest queued sector, in a mode that starts refreshes. -/
def State.refreshStep (s : State) : State :=
  if !(s.sys.mode.running || s.sys.mode == .foundry) then s
  else match s.care.refresh with
    | [] => s
    | x :: t =>
      match s.refreshOne x with
      | some s1 => { s1 with care := { s1.care with refresh := t } }
      | none => s

/-! ## Scrubs and patrol (R420, R434, R506 to R508) -/

/-- The modes and times of the scrubs, the patrol and telemetry (Table 18.3). -/
def State.scrubs (s : State) : Bool := s.mainUp && s.sys.mode != .rise

/-- A correctable Archive read: counted, and its sector queued. -/
def State.arcCorr (s : State) (off : Nat) : State :=
  ((s.bump ARC_CNT_CORR).tele (fun p => { p with nvcorr := p.nvcorr + 1 })).refreshAdd (sectorOf off)

/-- An uncorrectable Archive read. -/
def State.arcUncorr (s : State) (off : Nat) : State := ((s.setb ARC_ERR_UNCORR).wr ARC_EADDR off).eccUncorr

/-- A Larder group read with up to two bits in error, or with three. -/
def State.ldrCorr (s : State) : State := (s.bump LDR_CNT_CORR).tele (fun p => { p with nvcorr := p.nvcorr + 1 })
def State.ldrUncorr (s : State) (off : Nat) : State :=
  (((s.setb LDR_ERR_UNCORR).wr LDR_EADDR off).bump LDR_CNT_UNCORR).eccUncorr

/-- SRAM_SCRUB_STEP: bits in error of the word read (0, 1 or 2). -/
def State.sramScrub (s : State) (bad : Fin 3) : State :=
  if !s.scrubs then s
  else
    let a := s.care.sramPtr
    let s1 := { s with care := { s.care with sramPtr := (a + 4) % 0x40000 } }
    if bad.val = 0 then s1
    else if bad.val = 1 then (s1.bump CARE_CNT_SRAMCORR).tele (fun p => { p with sram := p.sram + 1 })
    else (s1.careInfo ([2, 0] ++ leBytes 4 a)).eccUncorr

/-- LARDER_SCRUB_STEP: bits in error of the group read (0 to 3); the immediate pass ends with the last group. -/
def State.larderScrub (s : State) (bad : Fin 4) : State :=
  if !s.scrubs then s
  else
    let a := s.care.larderPtr
    let s1 := { s with care := { s.care with larderPtr := (a + 8) % 0x40000 } }
    let s2 := if a + 8 = 0x40000 then s1.wr LDR_STAT_SCRUB 0 else s1
    if bad.val = 0 then s2
    else if bad.val < 3 then s2.ldrCorr
    else (s2.careInfo ([2, 1] ++ leBytes 4 a)).ldrUncorr a

/-- The first programmed unit at or after a pointer. -/
def State.nextUnit (s : State) : Nat → Nat → Option Nat
  | 0, _ => none
  | f + 1, u => if s.unitErased u then s.nextUnit f ((u + 16) % 0x400000) else some u

/-- ARCHIVE_PATROL: bits in error of the programmed unit read (0, up to 2, or 3 for more). -/
def State.patrol (s : State) (bad : Fin 4) : State :=
  if !s.scrubs then s
  else match s.nextUnit 0x40000 s.care.patrolPtr with
    | none => s
    | some u =>
      let s1 := { s with care := { s.care with patrolPtr := (u + 16) % 0x400000 } }
      if bad.val = 0 then s1
      else if bad.val < 3 then s1.arcCorr u
      else s1.arcUncorr u

/-! ## Wear (R509) -/

/-- The larger of two by their first parts. -/
def maxBy (a b : Nat × Nat) : Nat × Nat := if a.1 < b.1 then b else a

/-- The worst record sector: erases and sector. -/
def State.arcWorst (s : State) : Nat × Nat :=
  (s.nv.erases.filter (fun e => decide ((0x140 ≤ e.1 ∧ e.1 < 0x200) ∨ (0x2C0 ≤ e.1 ∧ e.1 < 0x400)))).foldl
    (fun m e => maxBy m (e.2, e.1)) (0, 0)

/-- The worst ring: writes per slot and counter. -/
def State.ldrWorst (s : State) : Nat × Nat :=
  (finList 64).foldl (fun m c =>
    let r := s.nv.ring.at c
    if r.slots = 0 then m
    else maxBy m ((2 ^ 32 * lkGet 0 s.nv.wraps c.val + (s.ctrSlot c).seq.toNat) / r.slots, c.val)) (0, 0)

/-- One memory's warning: 0 Archive, 1 Larder. The EVENT record gives the index once (DEDUCED, log entry 108). -/
def State.wearWarn (s : State) (m x pct : Nat) : State :=
  (s.event 8 x [BitVec.ofNat 8 m, BitVec.ofNat 8 pct]).careInfo
    ([5, BitVec.ofNat 8 m] ++ leBytes 2 x ++ [BitVec.ofNat 8 pct])

/-- Both warnings, each at the threshold and at every further whole percent. -/
def State.wearCheck (s : State) : State :=
  let (e, x) := s.arcWorst
  let (w, c) := s.ldrWorst
  let pa := e * 100 / 100000
  let pl := w * 100 / 10 ^ 10
  let s1 := if s.rd CARE_CFG_AWARN ≤ pa ∧ s.care.awarned < pa then
      { s.wearWarn 0 x pa with care := { (s.wearWarn 0 x pa).care with awarned := pa } } else s
  if s1.rd CARE_CFG_LWARN ≤ pl ∧ s1.care.lwarned < pl then
    { s1.wearWarn 1 c pl with care := { (s1.wearWarn 1 c pl).care with lwarned := pl } } else s1

/-! ## The Attic ring (R513) -/

/-- Physical offset of the ring. -/
def atticBase : Nat := 0x100000

/-- A sector of the ring can be programmed: erased, and no erase of it was begun without an end (DEDUCED, log entry 100). -/
def State.atticClean (s : State) (k : Nat) : Bool := s.sectorErased (0x100 + k) && !s.nv.incomplete.contains (0x100 + k)

/-- The erase of a sector of the ring starts (R435); the records in it go, and TAIL passes them. -/
def State.atticErase (s : State) (k : Nat) : State :=
  if s.atticClean k then s
  else
    let s1 := { s with
      bank := s.bank.put 0 (.erase (0x100 + k) false 0)
      nv := { s.nv with incomplete := (0x100 + k) :: s.nv.incomplete.filter (fun y => decide (y ≠ 0x100 + k)) } }
    if s1.rd ATTIC_TAIL / 0x1000 = k ∧ s1.rd ATTIC_TAIL ≠ s1.rd ATTIC_HEAD then s1.wr ATTIC_TAIL (0x1000 * ((k + 1) % 64)) else s1

/-- ATTIC_APPEND: the oldest buffered record is programmed; HEAD's sector is erased first where it is not, and the one after it
when HEAD enters it. -/
def State.atticAppend (s : State) : State :=
  if !s.scrubs || s.bank.at 0 != .idle then s
  else match s.care.buf with
    | [] => s
    | r :: t =>
      let h := s.rd ATTIC_HEAD
      if h % 0x1000 = 0 ∧ !s.atticClean (h / 0x1000) then s.atticErase (h / 0x1000)
      else
      let s1 := (s.arcPut (atticBase + h) r.bytes).wrs [(ATTIC_HEAD, (h + 32) % 0x40000), (ATTIC_SEQ, r.seq.toNat)]
      let s2 := { s1 with care := { s1.care with buf := t } }
      let s3 := if r.typ = 1 then
          wrWords TELE_LAST ((List.range 8).map (fun k => Word.ofBytes (r.bytes.drop (4 * k)))) s2
        else s2
      if (h + 32) % 0x1000 = 0 then s3.atticErase (((h + 32) % 0x40000 / 0x1000 + 1) % 64) else s3

/-- Offsets of the records in the ring, newest first. -/
def State.atticOffs (s : State) : List Nat :=
  let h := s.rd ATTIC_HEAD
  let n := (h + 0x40000 - s.rd ATTIC_TAIL) % 0x40000 / 32
  (List.range n).map (fun i => (h + 0x40000 - 32 * (i + 1)) % 0x40000)

/-- The 32 bytes of a record. -/
def State.atticAt (s : State) (off : Nat) : List Byte := s.getBytes (arcBase + atticBase + off) 32

/-- The check of a record holds (R516). -/
def atticGood (l : List Byte) : Bool := leNat (l.drop 30) == crc16 (l.take 30)

/-- The TELE records of the ring, newest first. -/
def State.teleRecs (s : State) : List (List Byte) :=
  (s.atticOffs.map s.atticAt).filter (fun l => atticGood l && (l.getD 0 0).toNat % 16 == 1)

/-! ## Telemetry (R517, R518) -/

/-- One packet of the stream (R518). -/
def State.streamPut (s : State) (l : List Byte) : State :=
  let s1 := (s.pushPacket 5 63 0 s.care.streamSeq.toNat l).2
  { s1 with care := { s1.care with streamSeq := s1.care.streamSeq + 1 } }

/-- A voltage as 2.00 V + 10 mV × code. -/
def vCode (mv : Nat) : Byte := BitVec.ofNat 8 (Nat.min 255 ((mv - 2000) / 10))

/-- STATUS (Table 18.7): the timebase's state, and the conditions seen in the period or standing now. -/
def State.teleStatus (s : State) : Byte :=
  let now := s.rd TBS_STAT_STATE + 4 * s.rd RNG_STAT_FAIL + 32 * b2n s.holdoff + 64 * b2n (decide (s.rd STR_STAT_RATE ≠ 0))
  s.care.period.status ||| BitVec.ofNat 8 now

/-- The body of a TELE record (Table 18.7); the two loads are measured. -/
def State.teleBody (s : State) (load : Word) : List Byte :=
  let p := s.care.period
  let b (n : Nat) : Byte := BitVec.ofNat 8 (Nat.min 255 n)
  [b s.care.tj, b (Nat.max p.tjmax s.care.tj), vCode (Nat.min p.vccmin s.si.vcc), vCode s.si.vbat, b p.ovr, b p.skip, b p.sram,
    b p.nvcorr, b p.strrep, b p.qloss, b p.onsets, s.teleStatus, load.extractLsb' 0 8, load.extractLsb' 8 8] ++
  leBytes 2 (Nat.min 65535 (s.arcWorst.1 / 16)) ++ [b (s.ldrWorst.1 * 100 / 10 ^ 10), b p.remask] ++
  leBytes 2 (Nat.min 65535 p.ppserr) ++ [b p.conerr, b p.authf]

/-- TELE_CFG.PER: below 100 acts as 100. -/
def State.telePer (s : State) : Nat := Nat.max 100 (s.rd TELE_CFG_PER)

/-- The record that is due: Attic, stream and CARE_INFO; the period begins again. -/
def State.teleMake (s : State) : State :=
  let (l, s1) := s.anyWords 1
  let r : AtticRec := { typ := 1, unk := s1.timeUnk, leap := s1.tbs.leapNow, rise := false, seq := s1.atticNext,
                        utc := s1.utcS, body := s1.teleBody (l.getD 0 0) }
  let s2 := s1.atticRec r
  let s3 := { s2 with care := { s2.care with teleDue := false, period := {} } }
  let s4 := if s3.isSet TELE_STAT_STREAM then s3.streamPut r.bytes else s3
  s4.careInfo (1 :: r.bytes)

/-- STREAM_CONTROL: the packet at the head of Q55 is released and obeyed, or rejected. -/
def State.streamCtl (s : State) : State :=
  if !s.mainUp || !s.hasHead 55 then s
  else
    let b := (s.headPacket 55).2
    let s1 := s.headRelease 55
    let n := (b.getD 1 0).toNat
    if !s1.isSet TELE_CFG_HOSTCTL ∨ b = [] then s1.bump TELE_STAT_REJECT
    else match (b.getD 0 0).toNat with
      | 1 => s1.setb TELE_STAT_STREAM
      | 2 => s1.wr TELE_STAT_STREAM 0
      | 3 => if 1 ≤ n ∧ n ≤ 32 then ((s1.teleRecs.take n).reverse).foldl State.streamPut s1 else s1.bump TELE_STAT_REJECT
      | _ => s1.bump TELE_STAT_REJECT

/-! ## The slack phase (R50, R503, R504, Table 18.1) -/

/-- The frame's work: ledger compare, re-mask, wear, telemetry. -/
def State.careWork (s : State) : State :=
  let (ecc, s1) := if s.strCmpRuns then s.ledgerLoop 64 0 else (0, s)
  let s3 := if s1.sys.mode.careFull then s1.remaskStep.wearCheck else s1
  let s4 := if s3.care.teleDue then s3.teleMake else s3
  let s5 := { s4 with care := { s4.care with owing := false } }
  if ecc = 0 then s5 else s5.onsets (List.replicate ecc { src := 0x24 })

/-- SLACK_PHASE: once the window has closed or no instance is outstanding. -/
def State.slack (s : State) : State :=
  if !s.isSet TICK_STAT_RUN || !s.scrubs || s.tick.phase == .harvest || !(s.tick.closed || s.noneOutstanding) then s
  else
    let s1 := (s.setPhase .slack s.tick.closed).pkeStates.symStates
    if s1.care.owing then s1.careWork else s1

/-- What a tick boundary does to the Caretaker: work still outstanding counts as lag, and the frame's work is due. -/
def State.careFrame (s : State) : State :=
  let s1 := if s.care.owing then
      let t := s.bump CARE_STAT_LAG
      t.careInfo (6 :: leBytes 2 (t.rd CARE_STAT_LAG))
    else s
  let count := s1.tick.frame % 2 ^ 32
  let due := s1.care.teleDue || (decide (count ≠ 0) && count % s1.telePer == 0)
  { s1 with care := { s1.care with owing := true, teleDue := due } }

/-! ## Restart (R44, R511) -/

/-- CARE_WATCHDOG_EXPIRY. -/
def State.careRestart (s : State) : State :=
  if !s.mainUp then s
  else
    let s1 := ((s.hatchDrop .care).event 2 0 []).bump CARE_STAT_RESTARTS
    s1.tele (fun p => { p with status := p.status ||| 0x80 })

/-! ## Meanings -/

/-- SRAM_SCRUB_STEP (R506). -/
def execSramScrubStep (bad : Fin 3) (s : State) : Host.Outcome State Fault Refusal := .next (s.sramScrub bad)
/-- LARDER_SCRUB_STEP (R507). -/
def execLarderScrubStep (bad : Fin 4) (s : State) : Host.Outcome State Fault Refusal := .next (s.larderScrub bad)
/-- ARCHIVE_PATROL (R508). -/
def execArchivePatrol (bad : Fin 4) (s : State) : Host.Outcome State Fault Refusal := .next (s.patrol bad)
/-- SECTOR_REFRESH (R508). -/
def execSectorRefresh (s : State) : Host.Outcome State Fault Refusal := .next s.refreshStep
/-- ATTIC_APPEND (R513). -/
def execAtticAppend (s : State) : Host.Outcome State Fault Refusal := .next s.atticAppend
/-- STREAM_CONTROL (R518). -/
def execStreamControl (s : State) : Host.Outcome State Fault Refusal := .next s.streamCtl
/-- SLACK_PHASE (R50). -/
def execSlackPhase (s : State) : Host.Outcome State Fault Refusal := .next s.slack
/-- CARE_WATCHDOG_EXPIRY (R44). -/
def execCareWatchdogExpiry (s : State) : Host.Outcome State Fault Refusal := .next s.careRestart

end Sys2Proof.Machine
end

