-- ==== Sys2Proof/Machine/WatchCmds.lean ====
section
/-!
DEFINITION. WatchCmds.lean: sampled sources, detector disagreement, stimulus rounds and the Cellar's samples
(spec/17_watch.md, R477 to R483, R495; spec/01_planes.md, R42).
-/
namespace Sys2Proof.Machine

/-! ## The fallback to the RC oscillator (R42, R75, R397, R416, R460) -/

/-- Jobs of the engines that stop are cancelled. -/
def State.stoppedJobs (s : State) : State :=
  (finList 64).foldl (fun s j => match s.tick.inst.at j with
    | some i => if s.ownerStopped i.owner then s.jobAbort j 5 false else s
    | none => s) s

/-- XHF_FREQ has fired, outside RISE. -/
def State.rcFallback (s0 : State) : State :=
  let s := s0.strProgress
  let s1 := { s with sys := { s.sys with stopped := true, relock := false }, si := { s.si with pll := false } }
  ((s1.wrs [(TICK_STAT_RCFB, 1), (PKE_STAT_STOPPED, 1)]).stoppedJobs.enginesStop 13 9).tbsTo 0

/-! ## Trips (R477, R483, R489) -/

/-- DET of a sampled source. -/
def detCode (r : DetReading) : Nat := b2n r.a + 2 * b2n r.b

/-- The latest readings of a source. -/
def State.detSee (s : State) (n : SrcId) (r : DetReading) : State :=
  { s with watch := { s.watch with src := s.watch.src.upd n (fun w => { w with deta := r.a, detb := r.b }) } }

/-- What a source's trip does beside its onset: FIELD puts the Larder in hold-off (R501), XHF_FREQ stops the PLL's users, where it
fires in RISE at the end of RISE (R97; DEDUCED, log entry 87). -/
def State.tripSide (s : State) (n : SrcId) : State :=
  if n.val = 0x16 then s.setb LDR_STAT_HOLDOFF
  else if n.val = 0x08 ∧ s.sys.mode ≠ .rise then s.rcFallback
  else s

/-- The filter in force (R483, R492): a FILT of 0 acts as 1, one above FMAX as FMAX. -/
def State.filtOf (s : State) (n : SrcId) : Nat := Nat.max 1 (Nat.min (s.rd (WATCH_FILT n)) (s.rd (WATCH_FMAX n)))

/-- One source at a sample: at the FILT-th tripped one it trips. The onset it makes, none where the source continues a recorded
trip. -/
def State.srcOnset (s : State) (o : OnsetArg) : Option Onset × State :=
  let n := o.src
  if !srcSampled n.val || (s.watch.src.at n).trip || !(o.det.a || o.det.b) || decide (o.held < s.filtOf n) then (none, s)
  else
    let s1 := ((s.detSee n o.det).srcTrip n).tripSide n
    if s.cel.tripped.contains n.val then (none, s1)
    else (some { src := n.val, det := detCode o.det }, s1)

/-- The sources that complete their trips at one sample (R33). -/
def State.watchOnset (s : State) (l : List OnsetArg) : State :=
  if s.cellarWatch then s
  else
    let (os, s1) := l.foldl (fun (p : List Onset × State) o =>
      let (x, t) := p.2.srcOnset o
      (p.1 ++ x.toList, t)) ([], s)
    s1.onsets os

/-- A source untrips at the FILT-th consecutive clean sample. -/
def State.watchUntrip (s : State) (n : SrcId) (held : Nat) : State :=
  if s.cellarWatch || !srcSampled n.val || !((s.watch.src.at n).trip || s.cel.tripped.contains n.val) ||
      decide (held < s.filtOf n) then s
  else (s.detSee n ⟨false, false⟩).srcUntrip n

/-! ## Disagreement (R478) -/

/-- The fifth sample of a disagreement; `alike`: the longest run of samples at which the detectors have read alike since the
pair's previous onset, of which FILT let it have a further one. -/
def State.disagree (s : State) (n : SrcId) (lagB : Bool) (alike : Nat) : State :=
  if s.cellarWatch || !srcSampled n.val || ((s.watch.src.at n).disDone && decide (alike < s.filtOf n)) then s
  else
    let s1 := { s with watch := { s.watch with src := s.watch.src.upd n (fun w => { w with disDone := true }) } }
    (s1.detSee n ⟨lagB, !lagB⟩).onsets [{ src := 0x1A, det := if lagB then 2 else 1, rel := n.val }]

/-! ## Stimulus (R480, R481) -/

/-- The modes in which stimulus rounds run. -/
def State.stimRuns (s : State) : Bool :=
  s.mainUp && (s.sys.mode.running || s.sys.mode == .foundry || s.sys.mode == .quarantine)

/-- A round starts. -/
def State.stimRound (s : State) : State :=
  if s.stimRuns then { s.setb WATCH_STAT_STIMRUN with watch := { s.watch with stim := some 0 } } else s

/-- The first source of the quantity of a detector (R481). -/
def stimRel (d : Fin 14) : Nat := [0x00, 0x08, 0x10, 0x14, 0x15, 0x16, 0x04].getD (d.val / 2) 0

/-- The next detector of the round is tested; the round ends after the fourteenth. -/
def State.stimStep (s : State) (ok : Bool) : State :=
  match s.watch.stim with
  | none => s
  | some d =>
    if !s.stimRuns then s
    else
      let last := decide (d.val = 13)
      let next : Option (Fin 14) := if last then none else some (finOf 14 (d.val + 1))
      let s1 := { s with watch := { s.watch with stim := next } }
      let s2 := if last then s1.wr WATCH_STAT_STIMRUN 0 else s1
      if ok then s2
      else
        let s3 := (s2.wr WATCH_STIM (s2.rd WATCH_STIM ||| 2 ^ d.val)).setb WATCH_ERR_STIM
        let s4 := { s3 with care := { s3.care with period := { s3.care.period with status := s3.care.period.status ||| 16 } } }
        s4.onsets [{ src := 0x1A, det := 4, rel := stimRel d }]

/-! ## The Cellar's samples (R227, R479, R495) -/

/-- T_CS in ns (Table 17.9). -/
def tcsNs (code : Nat) : Nat := 31250000 * 2 ^ (if code = 7 then 3 else code)

/-- What the detectors that live in CELLAR show of a reading (Table 17.2). -/
def celReading (n : Nat) (r : DetReading) : DetReading :=
  if n = 0x10 ∨ n = 0x11 ∨ n = 0x12 then ⟨false, r.b⟩ else if n = 0x14 then ⟨r.a, false⟩ else r

/-- Sources with two detectors that live in CELLAR (R479). -/
def celBoth (n : Nat) : Bool := n == 0x04 || n == 0x0A || n == 0x15 || n == 0x16

/-- The Cellar samples a port source: in CELLAR, an armed bank C port that runs LOOP or SWITCH. -/
def State.celPort (s : State) (n : Nat) : Bool :=
  s.sys.mode == .cellar && s.cel.ports.any (fun e => decide (0x40 + e.1 = n) && e.2.armed)

/-- CFILT; 0 acts as 1. -/
def CelSrc.filt (c : CelSrc) : Nat := if c.cfilt = 0 then 1 else c.cfilt

/-- The filter at one sample: the source, and whether it trips (some true) or untrips (some false). -/
def CelSrc.step (c : CelSrc) (t : Bool) : CelSrc × Option Bool :=
  if t = c.trip then ({ c with cnt := 0 }, none)
  else if c.filt ≤ c.cnt + 1 then ({ c with cnt := 0, trip := t }, some t)
  else ({ c with cnt := c.cnt + 1 }, none)

/-- The disagreement watch at one sample: whether MONITOR_DISAGREE has its onset. -/
def CelSrc.disStep (c : CelSrc) (r : DetReading) : CelSrc × Bool :=
  if c.disDone then
    let k := if r.a = r.b then c.alike + 1 else 0
    ({ c with alike := k, disDone := decide (k < c.filt), dis := 0 }, false)
  else if r.a = r.b then ({ c with dis := 0 }, false)
  else
    let k := if c.dis ≠ 0 ∧ c.lagB = r.a then c.dis + 1 else 1
    if 5 ≤ k then ({ c with dis := 0, lagB := r.a, disDone := true, alike := 0 }, true)
    else ({ c with dis := k, lagB := r.a }, false)

/-- One source at one Cellar sample. -/
def State.celSee (s : State) (n : SrcId) (r0 : DetReading) : List Onset × State :=
  let r := celReading n.val r0
  let (c1, flip) := (s.cel.src.at n).step (r.a || r.b)
  let (c2, dis) := if celBoth n.val then c1.disStep r else (c1, false)
  let rec0 := s.cel.tripped.contains n.val
  let l1 : List Onset :=
    if flip = some true ∧ !rec0 then [{ src := n.val, det := if srcPort n.val then 8 else detCode r }] else []
  let l2 : List Onset := if dis then [{ src := 0x1A, det := if c2.lagB then 2 else 1, rel := n.val }] else []
  let tripped := if flip = some false then s.cel.tripped.filter (fun k => decide (k ≠ n.val)) else s.cel.tripped
  (l1 ++ l2, { s with cel := { s.cel with src := s.cel.src.put n c2, tripped := tripped } })

/-- The reading that a list gives a source: clean where it lists none. -/
def readingOf (l : List OnsetArg) (n : SrcId) : DetReading :=
  match l.find? (fun o => decide (o.src = n)) with
  | some o => o.det
  | none => ⟨false, false⟩

/-- A bank C port that sends a PRBS burst at each sample. -/
def CelPort.prbs (c : CelPort) : Bool := c.fn == .loop && c.par0.getLsbD 0

/-- The LFSR states of a burst of 32 bits, in order. -/
def burst (l : BitVec 31) : List (BitVec 31) := ((List.range 32).foldl (fun (r : BitVec 31 × List (BitVec 31)) _ =>
  (lfsrStep r.1, r.2 ++ [lfsrStep r.1])) (l, [])).2

/-- The mismatches of a burst at lag CDLY; the first CDLY bits have none to compare with (log entry 97). -/
def CelPort.missed (c : CelPort) (seen : Word) : Nat :=
  let sent := (burst c.lfsr).map (fun l => l.getLsbD 30)
  let lag := bits c.par2.toNat 16 3
  ((List.range 32).filter (fun j => decide (lag ≤ j) && (sent.getD (j - lag) false != seen.getLsbD j))).length

/-- What a bank C port finds at a sample (R227): SWITCH pins against their expected levels, a static LOOP against LEVEL, a PRBS
burst against min(M, 32) mismatches, where an M of 0 acts as 1. -/
def CelPort.trips (c : CelPort) (r : CelPins) : Bool :=
  match c.fn with
  | .switch => (r.a ^^ c.par0.getLsbD 0) || (c.par0.getLsbD 2 && (r.b ^^ c.par0.getLsbD 1))
  | .loop =>
    if c.prbs then decide (Nat.min 32 (orElse0 (bits c.par1.toNat 0 11) 1) ≤ c.missed r.burst) else r.b ^^ c.par0.getLsbD 1
  | _ => false

/-- The reading of a port source; a port whose pins are not given shows no difference. -/
def State.celPortReading (s : State) (l : List CelPins) (n : SrcId) : DetReading :=
  match s.cel.ports.find? (fun e => decide (0x40 + e.1 = n.val)), l.find? (fun r => decide (portSrc r.p = n)) with
  | some e, some r => ⟨e.2.trips r, false⟩
  | _, _ => ⟨false, false⟩

/-- The PRBS ports go on from the LFSR state that a burst of 32 bits leaves. -/
def State.celBursts (s : State) : State :=
  let go (p : CelPort) : CelPort := if p.prbs then { p with lfsr := (burst p.lfsr).getLastD p.lfsr } else p
  if s.sys.mode = .cellar then { s with cel := { s.cel with ports := s.cel.ports.map (fun e => (e.1, go e.2)) } } else s

/-- One sample: T_CS later, every CELLAR-live source is read. -/
def State.cellarSample (s : State) (l : List OnsetArg) (ports : List CelPins) : State :=
  if !s.cellarWatch || !s.cel.valid then s
  else
    let s0 := (s.advance (tcsNs (s.rd CEL_CFG_T_CS)) false).celBursts
    let (os, s1) := ((finList 0x58).filter (fun n => cellarLive n.val || s.celPort n.val)).foldl
      (fun (p : List Onset × State) n =>
        let (x, t) := p.2.celSee n (if srcPort n.val then s.celPortReading ports n else readingOf l n)
        (p.1 ++ x, t)) ([], s0)
    s1.onsets os

/-! ## Meanings -/

/-- WATCH_ONSET (R42, R477, R483, R489). -/
def execWatchOnset (l : List OnsetArg) (s : State) : Host.Outcome State Fault Refusal := .next (s.watchOnset l)
/-- WATCH_UNTRIP (R483). -/
def execWatchUntrip (x : SrcQuiet) (s : State) : Host.Outcome State Fault Refusal := .next (s.watchUntrip x.n x.held)
/-- DISAGREE_ONSET (R478). -/
def execDisagreeOnset (n : SrcId) (lagB : Bool) (alike : Nat) (s : State) : Host.Outcome State Fault Refusal :=
  .next (s.disagree n lagB alike)
/-- STIMULUS_ROUND (R480). -/
def execStimulusRound (s : State) : Host.Outcome State Fault Refusal := .next s.stimRound
/-- STIMULUS_STEP (R481). -/
def execStimulusStep (ok : Bool) (s : State) : Host.Outcome State Fault Refusal := .next (s.stimStep ok)
/-- CELLAR_SAMPLE (R495). -/
def execCellarSample (x : CelSample) (s : State) : Host.Outcome State Fault Refusal :=
  .next (s.cellarSample x.srcs x.ports)

end Sys2Proof.Machine
end

