-- ==== Sys2Proof/Machine/Tick.lean ====
section
/-!
DEFINITION. Tick.lean: the tick boundary (R20): waiting writes commit, a mode change takes effect, harvest begins; and the end
of HOLD and of engine jobs.
-/
namespace Sys2Proof.Machine

/-! ## The configuration verb that waits (R150) -/

/-- The outcome of the verb that CON waits for. -/
def State.commitTo (s : State) (st : CommitState) : State :=
  match s.con.busy with
  | .commit tag v .waiting => { s with con := { s.con with busy := .commit tag v st } }
  | _ => s

/-- The verb that CON waits for. -/
def State.commitVerb (s : State) : Option Verb :=
  match s.con.busy with
  | .commit _ v .waiting => some v
  | _ => none

/-- The detail of a refused claim (Table 6.2). -/
def claimDetail (code n : Nat) : List Byte :=
  let port := txt "P" ++ dec n
  match code with
  | 1 => fld "tdc" (dec n)
  | 2 => fld "prbs" (dec n)
  | 3 => fld "c7816" (dec n)
  | 4 => fld "uart" (dec n)
  | 5 => fld "spi" (dec n)
  | 6 => fld "pair" (dec n)
  | 7 => fld "armed" port
  | 8 => fld "pps" port
  | 9 => fld "vccen" port
  | 10 => fld "fixed" port
  | _ => []

/-! ## Step 1: waiting writes commit -/

/-- Kinds of waiting writes by how they are judged. -/
inductive Wait where
  | tickCfg | job | port | cx | queue | shelf | size | area | arm | floor | plain
deriving DecidableEq, Repr

/-- The kind of a field. -/
def waitOf (f : Field) : Wait :=
  let p : PortId := finOf 24 ((f.off % 0x2000) / 0x100)
  if f == TICK_CFG_PER || f == TICK_CFG_BGF then .tickCfg
  else if 0x1100 ≤ f.off ∧ f.off < 0x1500 then .job
  else if 0x2000 ≤ f.off ∧ f.off < 0x3800 then (if (portCfgFields p).contains f then .port else .cx)
  else if 0x4000 ≤ f.off ∧ f.off < 0x5000 then .queue
  else if f == PKE_SHELFCFG_LEN then .shelf
  else if f == STR_CFG_H || f.off == 0x9004 || f.off == 0x9008 then .size
  else if 0xA020 ≤ f.off ∧ f.off < 0xA040 then .area
  else if 0xC100 ≤ f.off ∧ f.off < 0xC680 then
    let n : SrcId := finOf 0x58 ((f.off % 0x1000 - 0x100) / 16)
    if f == WATCH_ARM n then .arm else if f == WATCH_FLOOR n then .floor else .plain
  else .plain

/-- The waiting writes of a kind, in order. -/
def waits (l : List ShadowWrite) (k : Wait) : List ShadowWrite := l.filter (fun w => waitOf w.fld == k)

/-- Writes take their places. -/
def State.puts (s : State) (l : List ShadowWrite) : State := s.wrs (l.map (fun w => (w.fld, w.val.toNat)))

/-- The value waiting for a field. -/
def waitVal (l : List ShadowWrite) (f : Field) : Option Nat := (l.find? (fun w => w.fld == f)).map (fun w => w.val.toNat)

/-- The periods of TICK SET (R163), by code of TICK_CFG.PER. -/
def perUs : List Nat := [250, 500, 1000, 2000, 5000, 10000]

/-- The code of a period. -/
def perCode (us : Nat) : Nat := (perUs.idxOf? us).getD 2

/-- TICK SET is answered when the change that holds what it asked for is judged, and the group is saved. -/
def State.commitCfg (s : State) (per bgf : Nat) (ok : Bool) : State :=
  match s.commitVerb with
  | some (.tickSet p b) =>
    if !((p.map perCode).getD per == per && b.getD bgf == bgf) then s
    else if ok then (s.paramAuto 0).commitTo .took else s.commitTo (.refused 31 [])
  | _ => s

/-- A change of the period or of the floor is judged against the job table in force (R54). -/
def State.cfgJudge (s : State) (per bgf : Nat) : State :=
  if s.bookFits per bgf then (s.wrs [(TICK_CFG_PER, per), (TICK_CFG_BGF, bgf)]).commitCfg per bgf true
  else (s.setb TICK_STAT_BOOKERR).commitCfg per bgf false

/-- PER and BGF (R48, R54; DESIGN CHOICE, log entry 18): a floor alone at once, a period where the count is a multiple of 10 ms,
with the floor written with it. A change of PER is a value other than the one in force: PER written as it stands takes back a
change that waits. A later change takes the place of one that waits, whose floor stays unless it is written anew. -/
def State.commitTickCfg (s : State) (l : List ShadowWrite) : State :=
  let per := waitVal l TICK_CFG_PER
  let bgf := waitVal l TICK_CFG_BGF
  let now := s.rd TICK_CFG_PER
  let s1 := match per, bgf with
    | none, none => s
    | none, some b => s.cfgJudge now b
    | some p, b =>
      if p = now then
        { s with tick := { s.tick with cfg := none } }.wr TICK_STAT_PERPEND 0 |>.cfgJudge now (b.getD (s.rd TICK_CFG_BGF))
      else { s with tick := { s.tick with cfg := some (p, b.orElse (fun _ => s.tick.cfg.bind Prod.snd)) } }
  match s1.tick.cfg with
  | some (p, b) =>
    if s1.tbs.mono % 10000000 = 0 then
      let s2 := { s1 with tick := { s1.tick with cfg := none } }
      (s2.wr TICK_STAT_PERPEND 0).cfgJudge p (b.getD (s2.rd TICK_CFG_BGF))
    else s1.setb TICK_STAT_PERPEND
  | none => s1

/-- The job table: one change, discarded whole where an owner's budgets exceed the window in force (R53, R54). -/
def State.commitJobs (s : State) (l : List ShadowWrite) : State :=
  if l.isEmpty then s
  else
    let t := s.puts l
    if t.bookFits (s.rd TICK_CFG_PER) (s.rd TICK_CFG_BGF) then t else s.setb TICK_STAT_BOOKERR

/-- Queue configuration, judged together (R262). -/
def State.commitQueues (s : State) (l : List ShadowWrite) : State := if l.isEmpty then s else s.qfxCommit (s.puts l)

/-- The sizes of the regions are ones the part accepts (R170, R344). -/
def State.sizesOk (s : State) (used : Nat) : Bool :=
  let h := s.strH
  let l := [Region.k, .c, .a0, .a1].map s.strSize
  l.all (fun n => n % h == 0) && decide (l.foldl (· + ·) 0 = 8192) && decide (h ≤ s.strSize .k) && decide (h ≤ s.strSize .c) &&
    decide (used ≤ s.strSize .c)

/-- Regions K, A0 and A1 hold no valid entry. -/
def State.regionsEmpty (s : State) : Bool := s.strUsed .k == 0 && s.strUsed .a0 == 0 && s.strUsed .a1 == 0

/-- The rules of region C at its new place, in their order; a fresh image holds what persists. -/
def State.rulesMove (s : State) (l : List (Nat × SEntry)) : State :=
  let at_ := (l.map Prod.snd).zipIdx.map (fun e => (s.strStart .c + e.2, e.1))
  let s1 := { s with str := { s.str with ent := at_, led := at_, ledBad := [], moves := [], urgent := [] } }
  s1.strImage

/-- The Store Room's sizes (R344). -/
def State.commitSizes (s : State) (l : List ShadowWrite) : State :=
  if l.isEmpty then s
  else
    let t := s.puts l
    let rules := (s.sList .c).filter (fun e => e.2.valid)
    let r := if s.regionsEmpty && t.sizesOk rules.length then t.rulesMove rules else s.setb STR_ERR_SIZE
    match s.commitVerb with
    | some (.storeSize ..) =>
      if !s.regionsEmpty then r.commitTo (.refused 41 [])
      else if t.sizesOk rules.length then r.commitTo .took
      else r.commitTo (.refused 31 [])
    | _ => r

/-- Area descriptors (R439). -/
def State.commitAreas (s : State) (l : List ShadowWrite) : State :=
  (finList 8).foldl (fun t k =>
    let mine := l.filter (fun w => (areaFields k).contains w.fld)
    if mine.isEmpty then t else State.areaJudge t (t.puts mine) k) s

/-- Watch configuration: a floor above the response in force raises it (R491). -/
def State.commitFloors (s : State) (l : List ShadowWrite) : State :=
  l.foldl (fun s w =>
    let n : SrcId := finOf 0x58 ((w.fld.off % 0x1000 - 0x100) / 16)
    let v := (Resp.ofCode w.val.toNat).code
    let s1 := s.wr (WATCH_FLOOR n) w.val.toNat
    if (Resp.ofCode (s1.rd (WATCH_RESP n))).code < v then s1.wr (WATCH_RESP n) v else s1) s

/-- One port's configuration, and the answer of the PORT form that asked for it. -/
def State.commitPort (ws : List ShadowWrite) (s : State) (p : PortId) : State :=
  let c := (s.wrs (s.portMine ws p).2).claim p
  let t := s.portCommit ws p
  let refused := t.commitTo (.refused 30 (claimDetail c.1 c.2))
  match s.commitVerb with
  | some (.portFn q _) => if q ≠ p then t else if c.1 = 0 then t.commitTo .took else refused
  | some (.calK q _) => if q ≠ p ∨ c.1 = 0 then t else refused
  | _ => t

/-- Ports, in the order of R190; a granted PORT form saves group 1. -/
def State.commitPorts (s : State) (l : List ShadowWrite) : State :=
  let t := (s.portOrder).foldl (State.commitPort l) s
  match s.commitVerb with
  | some (.portFn p _) => if t.rd (PORT_STAT_CLAIM p) = 0 then t.paramAuto 1 else t
  | _ => t

/-- A port is armed or disarmed, by the function now in force (R194); a source disarmed while tripped untrips. -/
def State.commitArm (s : State) (w : ShadowWrite) : State :=
  let p : PortId := finOf 24 ((w.fld.off % 0x1000 - 0x500) / 16)
  let n := portSrc p
  let s1 := (s.wr (WATCH_ARM n) w.val.toNat).armShow p
  if !s1.isSet (WATCH_ARM n) && (s1.watch.src.at n).trip then s1.srcUntrip n else s1

/-- CON's card exchanges start (R208). -/
def State.commitCx (s : State) (l : List ShadowWrite) : State :=
  let t := s.puts l
  (finList 24).foldl (fun s p =>
    if l.any (fun w => w.fld == PORT_CXCTL_GO p) && s.isSet (PORT_CXCTL_GO p) then s.cxGo p else s) t

/-- The group that the forms of a verb save when they commit (Table 15.5). -/
def verbGroup : Verb → Option (Fin 8)
  | .watchSet .. | .watchFloor .. | .watchArm _ | .watchDisarm _ => some 3
  | .telePer _ => some 6
  | _ => none

/-- What KEY WRITE and KEY GEN store (R172): no role entry, the first free run of entries (log entry 44). -/
def KeyArgs.new (a : KeyArgs) (value : List Byte) (pair : Byte) : VNew :=
  { keyid := a.id, role := a.role, type := a.type, use := a.use, prio := a.prio, pair := pair, value := value, len := value.length }

/-- The ACTIVE public half with which a private key pairs (log entry 44). -/
def State.pubOf (s : State) (a : KeyArgs) : Byte :=
  match s.vlt.ent.find? (fun e => e.2.st == 1 && e.2.type.toNat == a.type.toNat + 16 && e.2.role == a.role && e.2.keyid == a.id) with
  | some e => BitVec.ofNat 8 e.1
  | none => 0xFF

/-- The head entries that hold a key ID. -/
def State.keyHeads (s : State) (id : Word) : List Nat :=
  (s.vlt.ent.filter (fun e => e.2.st != 0 && e.2.type != 0x7F && e.2.keyid == id)).map Prod.fst

/-- A command of CON's console stage. -/
def conCmd (cmd idx : Nat) (n : VNew) : VCmd := { agent := .con, cmd := cmd, idx := idx, new := n }

/-- RETIRE or REVOKE of every head with a key ID, one command each, up to the first refusal (log entry 45). -/
def State.keyMove (s : State) (revoke : Bool) (l : List Nat) : State :=
  s.vQueue (l.map (fun i => conCmd (if revoke then 4 else 3) i (s.vStaged .con)))

/-- CON's Vault command of a KEY form starts (R18, R323). -/
def State.keyIssue (s : State) (v : Verb) : State :=
  match v with
  | .keyWrite =>
    match s.con.stage with
    | some k =>
      let pair := if vEcPriv k.args.type.toNat then s.pubOf k.args else 0xFF
      let s1 := s.vQueue [conCmd 1 0 (k.args.new k.data pair)]
      { s1 with con := { s1.con with stage := none } }.commitTo .issued
    | none => s.commitTo (.refused 12 [])
  | .keyGen a => (s.vQueue [conCmd 11 0 (a.new [] 0xFF)]).commitTo .issued
  | .keyRetire id => (s.keyMove false (s.keyHeads id)).commitTo .issued
  | .keyRevoke id => (s.keyMove true (s.keyHeads id)).commitTo .issued
  | _ => s

/-- The k-factor in force. -/
def State.kInForce (s : State) (p : PortId) : Nat := s.rd (PORT_PAR p 1) % 2 ^ 20

/-- Forms whose change has taken effect with the waiting writes; `old` is the state before them. -/
def State.commitRest (old s : State) : State :=
  match s.commitVerb with
  | some v =>
    match v with
    | .modeChange _ | .tickSet .. | .portFn .. | .storeSize .. | .authResp _ => s
    | .keyWrite | .keyGen _ | .keyRetire _ | .keyRevoke _ => s.keyIssue v
    | .calK p k =>
      ((s.timeRec 2 (BitVec.ofNat 8 p.val :: (leBytes 4 (old.kInForce p) ++ leBytes 4 k))).paramAuto 1).commitTo .took
    | .watchArm n => if s.isSet (WATCH_ARM n) then (s.paramAuto 3).commitTo .took else s.commitTo (.refused 12 [])
    | .countRing c slots =>
      let r := s.ringSet c slots
      if r.1 = 0 then r.2.commitTo .took
      else s.commitTo (.refused (match r.1 with | 1 => 20 | 2 => 12 | 3 => 43 | _ => 31) [])
    | _ => (match verbGroup v with | some g => s.paramAuto g | none => s).commitTo .took
  | none => s

/-- CON's writes to its copy of the Vault's registers: the window's word is staged, and a command runs (R18, R322). -/
def State.commitVlt (s : State) (l : List ShadowWrite) : State :=
  let s1 := (l.filter (fun w => w.fld == VLT_WIN .con)).foldl (fun (s : State) w => s.winAccess .con (some w.val)) s
  if l.any (fun w => w.fld == VLT_CMD_CMD .con) && decide (1 ≤ s1.rd (VLT_CMD_CMD .con)) && decide (s1.rd (VLT_CMD_CMD .con) ≤ 11) then
    (s1.vCmd .con (s1.rd (VLT_CMD_CMD .con)) (s1.rd (VLT_CMD_IDX .con))).wrs [(VLT_CMD_CMD .con, 0), (VLT_CMD_IDX .con, 0)]
  else s1

/-- Every waiting write commits (R20 step 1). A change of the shelf length waits for its own moment (R373). -/
def State.commitAll (s : State) : State :=
  let l := s.shadow
  let s1 := (((s.puts (waits l .plain)).commitVlt l).commitFloors (waits l .floor)).commitTickCfg (waits l .tickCfg)
  let s2 := (((s1.commitJobs (waits l .job)).commitQueues (waits l .queue)).commitSizes (waits l .size)).commitAreas (waits l .area)
  let s3 := (s2.commitPorts (waits l .port)).commitCx (waits l .cx)
  let s4 := (waits l .arm).foldl State.commitArm s3
  let s5 := (State.commitRest s { s4 with shadow := waits l .shelf }).shelfLenCommit
  { s5 with eng := { s5.eng with lenDue := !s5.shadow.isEmpty } }

/-! ## Step 2: the mode -/

/-- The source of the earliest HOLD response that is a cause. -/
def State.holdInfo (s : State) : Nat := s.sys.holdSrc.headD 0xFF

/-- The cause code of the entry to HOLD (Table 18.6), with the source. -/
def State.holdCause (s : State) : Nat × Nat :=
  if s.sys.holdVcc then (if s.sys.holdSrc.isEmpty then (2, 0xFF) else (6, s.holdInfo)) else (3, s.holdInfo)

/-- Entry to HOLD (Table 2.6, R36, R397, R416): jobs are cancelled without OVERRUN, direct and internal operations end. The
MODE_ACK of a change that HOLD discards is sent before the mode changes, and names the mode left (DESIGN CHOICE, log entry 85). -/
def State.holdEnter (s : State) : State :=
  let s1 := ((s.pendDiscard.strProgress).jobCancelAll false).enginesEnd 9 5
  s1.modeEnter .hold s.holdCause.1 s.holdCause.2 false

/-- HOLD ends: the mode left comes back; a WORKSHOP or INSPECT whose session the HOLD ended goes on to SERVICE at the next
boundary (R78, DEDUCED, log entry 42). -/
def State.holdLeave (s : State) : State :=
  let dest := s.sys.prev
  let s1 := s.modeEnter dest 7 0xFF false
  if dest = .workshop ∨ dest = .inspect then { s1 with sys := { s1.sys with pend := some { dest := .service, cause := 5 } } } else s1

/-- The session that enters WORKSHOP or INSPECT by its own verb (R78). -/
def State.sessionEnters (s : State) (dest : Mode) : State :=
  if dest = .workshop ∨ dest = .inspect then
    { s with con := { s.con with session := s.con.session.map (fun x => { x with entered := true }) } }
  else s

/-- The pending change takes effect, and its asker is answered. -/
def State.pendTake (s : State) (p : PendMode) : State :=
  let own := match s.commitVerb with | some (.modeChange _) => decide (p.cause = 0) | _ => false
  let s1 := { s with sys := { s.sys with pend := none } }.modeEnter p.dest p.cause 0xFF own
  let s2 := if p.dest = .workshop then { s1 with tbs := { s1.tbs with exhausted := false } } else s1
  let s3 := if own then (s2.sessionEnters p.dest).commitTo .took else s2
  s3.modeAck p 0

/-- The cause of an event source ends at the first boundary with HOLD in force (R485). -/
def State.holdEvents (s : State) : State :=
  if s.sys.mode = .hold then { s with sys := { s.sys with holdSrc := s.sys.holdSrc.filter (fun n => !srcEvent n) } } else s

/-- The mode at a boundary (R20 step 2). -/
def State.modeStep (s : State) : State :=
  let s1 :=
    if s.holdDue then s.holdEnter
    else if s.sys.mode = .hold then
      (if s.sys.holdVcc || !s.sys.holdSrc.isEmpty then s else s.holdLeave)
    else match s.sys.pend with
      | some p => s.pendTake p
      | none => s
  s1.holdEvents

/-! ## Step 3: the new frame -/

/-- The fallback to the RC oscillator ends (R550). -/
def State.relockStep (s : State) : State :=
  if s.sys.relock then
    let s1 := { s with sys := { s.sys with stopped := false, relock := false }, si := { s.si with pll := true } }
    s1.wrs [(TICK_STAT_RCFB, 0), (PKE_STAT_STOPPED, 0)]
  else s

/-- Edges count toward the deadlines of all instances (R61). -/
def State.edgesDown (s : State) : State :=
  { s with tick := { s.tick with inst := Tab.ofFn 64 (fun i =>
      (s.tick.inst.at (finOf 64 i)).map (fun x => { x with edges := x.edges - 1, overdue := x.overdue || decide (x.edges ≤ 1) })) } }

/-- The watchdogs and cycle counters of the cores whose clocks ran in the frame that ends (R307, R308). -/
def State.coreTicks (s : State) (ns : Nat) : State :=
  if s.sys.mode = .hold then s
  else (finList 2).foldl (fun s c =>
    if !(s.cpu.at c).run then s
    else
      let cyc := if s.sys.stopped then ns * 2 / 125 else ns * 4 / 25
      let s1 := s.bump (CPU_WDCNT c)
      { s1 with cpu := s1.cpu.upd c (fun x => { x with mcycle := x.mcycle + BitVec.ofNat 64 cyc }) }) s

/-- The throttle's rate after a temperature in °C + 64 (Table 12.3). -/
def strRate (rate tj : Nat) : Nat :=
  let up := if 189 < tj then 3 else if 174 < tj then 2 else if 159 < tj then 1 else 0
  let keep := if 186 ≤ tj then 3 else if 171 ≤ tj then 2 else if 156 ≤ tj then 1 else 0
  Nat.max up (Nat.min rate keep)

/-- Temperature and supplies as the Caretaker reads them at a tick: VCC below 2.70 V is a cause of HOLD, whatever the mode was
when it fell (R90, R524); the throttle follows the reading before (R352). -/
def State.readEnv (s : State) (e : TickEnv) : State :=
  let rate := strRate (s.rd STR_STAT_RATE) (s.rd STR_STAT_TJ)
  let s1 := s.wrs [(STR_STAT_RATE, rate), (STR_STAT_TJ, e.tj.toNat)]
  let s2 := { s1 with si := { s1.si with vcc := e.vcc.toNat, vbat := e.vbat.toNat },
                       sys := { s1.sys with holdVcc := s1.sys.holdVcc || decide (e.vcc.toNat < 2700) },
                       care := { s1.care with tj := e.tj.toNat } }
  let p := s2.care.period
  { s2 with care := { s2.care with period := { p with
      tjmax := Nat.max p.tjmax e.tj.toNat, vccmin := Nat.min p.vccmin e.vcc.toNat
      status := (s2.teleStatus &&& 0xFC) } } }

/-- What the Cellar copies at every boundary (R227, R464, R494). -/
def State.cellarCopy (s : State) : State :=
  let src := Tab.ofFn 0x58 (fun i =>
    let n : SrcId := finOf 0x58 i
    { s.cel.src.at n with resp := BitVec.ofNat 3 (s.rd (WATCH_RESP n)), cfilt := s.rd (WATCH_CFILT n) })
  { s with cel := { s.cel with
      src := src, leapDay := BitVec.ofNat 32 (s.rd TBS_LEAP_DAY), leapDir := BitVec.ofNat 2 (s.rd TBS_LEAPCTL_DIR) } }.cellarPorts

/-- Time at the edge: an inserted second ends with its midnight, lock accumulates, every 1024 ticks a calibration starts (R458,
R464, R469; log entry 107), and the RTC follows the timebase where it is LOCKED (R462). -/
def State.timeStep (s : State) (ns : Nat) : State :=
  let past := decide (s.rd TBS_LEAP_DAY ≤ s.utcS.toNat)
  let lock := if s.rd TBS_STAT_STATE = 2 then s.tbs.lockNs + ns else s.tbs.lockNs
  { s with tbs := { s.tbs with
      leapNow := s.tbs.leapNow && !past, lockNs := lock
      calRuns := s.tbs.calRuns || (s.sys.mode.careFull && decide (s.tick.frame % 1024 = 0)) } }.rtcSlave ns

/-- The frame's count, and the run-ahead results that a mode change, HOLD or a response cancels (R49, R69). -/
def State.frameStep (s : State) (cancel : Bool) : State :=
  let n := s.tick.frame + 1
  let s1 := { s with tick := { s.tick with
    frame := n, phase := .harvest, closed := false, ahead := [], cancel := false, kick := 0, kicked := s.tick.kicked ||| s.tick.kick } }
  let s2 := s1.wr TICK_FRAME_COUNT (n % 2 ^ 32)
  if cancel then s2.raCancel (fun _ => true) else s2

/-- Harvest (R50, R198): what the ports latch. -/
def State.harvest (s : State) (e : TickEnv) : State := (finList 24).foldl State.portLatch (s.pinsRead e.pins)

/-- The last step: sources of ports armed or disarmed at this boundary settle. Their responses come last. -/
def State.armSettle (s : State) (l : List ShadowWrite) : State :=
  (waits l .arm).foldl (fun s w =>
    let p : PortId := finOf 24 ((w.fld.off % 0x1000 - 0x500) / 16)
    s.portSettle p (s.portCond p)) s

/-- RNG_OUT's buffer is refilled at every boundary at which the DRBG serves (R413; log entry 77). -/
def State.rngRefill (s : State) : State :=
  if s.rngBlocked then s else { s with eng := { s.eng with rngOut := 16 } }.wr RNG_STAT_EMPTY 0

/-- A tick boundary (R20). -/
def State.boundary (s0 : State) (e : TickEnv) : State :=
  let s := s0.frameClose
  let ns := s.period
  let l := s.shadow
  let s1 := ((s.advance ns true).coreTicks ns).readEnv e
  let s2 := s1.pulsesEnd
  let s3 := s2.commitAll.relockStep
  let s4 := s3.modeStep
  let s5 := (s4.frameStep (s.tick.cancel || decide (s4.sys.mode ≠ s3.sys.mode))).edgesDown
  let s6 := ((s5.harvest e).flushEdges.hlkPurge).timeStep ns
  let s7 := { s6 with str := { s6.str with slots := 0 } }
  (s7.rngRefill.remaskTick.cellarCopy.careFrame).armSettle l

/-- TICK_BOUNDARY, while the tick runs. -/
def State.tickEdge (s : State) (e : TickEnv) : State := if s.isSet TICK_STAT_RUN && s.mainUp then s.boundary e else s

/-- HOLD_EXIT: VCC has stayed at or above 2.75 V for 10 ms, and the boundary follows; it leaves HOLD where no cause remains
(R91). -/
def State.holdExit (s : State) (e : TickEnv) : State :=
  if (s.sys.mode = .hold ∨ s.sys.holdVcc) ∧ 2750 ≤ e.vcc.toNat then { s with sys := { s.sys with holdVcc := false } }.tickEdge e else s

/-! ## The end of an engine job (R59) -/

/-- An instance completes. -/
def State.jobComplete (s : State) (j : JobId) : State := (s.setInst j none).jobStatus j 1

/-- What is left of a Store Room job's batch. -/
def State.strBatch (s : State) (i : JobInst) : State := s.batchMore i (s.batchLen i - i.served)

/-- An Archive job's COMMIT, its CLOSE unit included; the code of Table 15.15. -/
def State.jobCommit (s : State) (t : Fin 16) : Nat × State :=
  match s.nv.txn.at t with
  | none => (2, s)
  | some x =>
    match s.commitCheck t x with
    | 0 =>
      let r := s.commitRec t x
      let s1 := (s.journalPut r).ctrApply r.ctrs
      let s2 := if x.n ≠ 0 then s1.arcPut (s.closeOff x) (closeUnit x.bseq x.used t r.jseq) else s1
      (0, (s2.ptrApply r).setTxn t none)
    | code => (code, s)

/-- An Archive job's block (R451). -/
def State.arcJob (s : State) (i : JobInst) : State :=
  let d := 16 * s.rd ARC_CBASE + 16 * i.arg.toNat
  let w := leNat (s.busBytes d 4)
  let u := leNat (s.busBytes (d + 4) 4)
  let k : Fin 8 := finOf 8 (bits w 8 3)
  let r : Nat × State := match bits w 0 3 with
    | 3 => s.jobCommit (finOf 16 (bits w 4 4))
    | 5 => if s.trimCheck k u = 0 then (0, s.headMove k u) else (s.trimCheck k u, s)
    | _ => (1, s)
  let old := leNat (r.2.busBytes (d + 8) 4)
  r.2.sramPut (d + 8) (leBytes 4 (old - 16 * bits old 4 4 + 16 * r.1))

/-- ENGINE_JOB_COMPLETE: an operation of PKE or SYM has ended, or its block names a reserved OP and is refused with ARG; a Store
Room batch or an Archive command is carried out to its end by the job that has the engine. -/
def State.engineJobEnds (s0 : State) (j : JobId) : State :=
  let s := s0.jobsTake
  match s.tick.inst.at j with
  | none => s
  | some i =>
    if i.aborted || i.parked then s
    else match i.owner with
      | .cpu _ => s
      | .pke =>
        if i.started && (s.pkeOf (.job j)).isNone then s.jobComplete j
        else if s.engJobReady j .pke && s.pkeReservedOp j then (s.pkeJobStart j).jobComplete j else s
      | .sym =>
        if i.started && (s.symOf (.job j)).isNone then s.jobComplete j
        else if s.engJobReady j .sym && s.symReservedOp j then (s.symJobStart j).jobComplete j else s
      | .str => if s.jobOn .str = some j ∧ !s.sys.stopped then ((s.strBatch i).jobComplete j).jobsTake else s
      | .arc => if s.jobOn .arc = some j ∧ !s.holdoff ∧ !s.slotBusy then ((s.arcJob i).jobComplete j).jobsTake else s

/-! ## Meanings -/

/-- ENGINE_JOB_COMPLETE (R59). -/
def execEngineJobComplete (j : JobId) (s : State) : Host.Outcome State Fault Refusal := .next (s.engineJobEnds j)

end Sys2Proof.Machine
end

