-- ==== Sys2Proof/Machine/Power.lean ====
section
/-!
DEFINITION. Power.lean: supplies, RST_N and its holds, fuses, and the RISE sequence (spec/03_modes.md, R80 to R107;
spec/19_edges_electrical.md, R523 to R529).
-/
namespace Sys2Proof.Machine

/-! ## Fuses (R80 to R85, R100) -/

/-- The next `n` bits of LIFE[11:0], which are blown in ascending order (R80). -/
def State.nextBits (s : State) (n : Nat) : List Nat := (List.range n).map (fun i => lifeK s.si.life + i)

/-- Bits blown in order; one that does not blow at its retry ends the blow (R82). -/
def blowBits (stuck : BitVec 13) : List Nat → BitVec 13 → Option Nat × BitVec 13
  | [], l => (none, l)
  | b :: t, l => if stuck.getLsbD b then (some b, l) else blowBits stuck t (l ||| (1 <<< b))

/-- Fuses blown: the bit that failed, if any. -/
def State.fuseBlow (s : State) (l : List Nat) : Option Nat × State :=
  let (bad, life) := blowBits s.si.stuck l s.si.life
  (bad, { s with si := { s.si with life := life } })

/-- The Cellar mirror follows the fuses (R81, R85). -/
def State.mirrorPut (s : State) : State := s.wr CEL_FLAGS_LIFE s.stage.code

/-- Bits between a stage and ERASED of its epoch (R83). -/
def Stage.eraseBits : Stage → Nat
  | .fit => 2 | .sealed => 1 | _ => 0

/-- VCC at or above 2.90 V (R81). -/
def State.fuseVcc (s : State) : Bool := decide (2900 ≤ s.si.vcc)

/-- The ERASED bits blown by RISE, or later in ERASED (R100): with all of them blown erasure is done. -/
def State.eraseBlow (s : State) : State :=
  let old := s.si.life
  let mirror := s.rd CEL_FLAGS_LIFE
  let (bad, s1) := s.fuseBlow (s.nextBits s.stage.eraseBits)
  let s2 := s1.mirrorPut.lifeRec 2 old mirror
  match bad with
  | none => s2.wrs [(SYS_RISE_FUSEPEND, 0), (CEL_FLAGS_ERASEPEND, 0)]
  | some _ => { s2.setb SYS_RISE_FUSEPEND with sys := { s2.sys with fuseGaveUp := true } }

/-- DEFERRED_FUSE_BLOW: the first boundary in ERASED with VCC at 2.90 V for 10 ms. -/
def State.deferredBlow (s : State) : State :=
  if s.sys.mode = .erased ∧ s.isSet SYS_RISE_FUSEPEND ∧ s.fuseVcc ∧ !s.sys.fuseGaveUp then s.eraseBlow else s

/-! ## Supplies (R90, R523 to R529) -/

/-- Everything the Cellar holds is lost (Table 0.3, column three). -/
def State.cellarLost (s : State) : State :=
  let keys := cellarFields.map Field.key
  let s1 := { s with regs := s.regs.filter (fun e => !keys.contains e.1), cel := freshCellar, vlt := {} }
  (s1.setb CEL_FLAGS_TIMEUNK).mirrorPut

/-- POWER_ON: VCC rises through 2.70 V. -/
def State.powerOn (s : State) (vcc : Nat) : State :=
  if s.sys.mode ≠ .cellar ∨ vcc < 2700 then s
  else
    let s1 := { s with si := { s.si with vcc := vcc, cellarOnVcc := true } }
    if s1.cel.valid then s1.enterReset .cold .unlockOrLife 0xFF else s1.cellarLost.enterReset .cellarLoss .unlockOrLife 0xFF

/-- VCC_FALL: VCC falls through 2.70 V. -/
def State.vccFall (s : State) (vcc : Nat) : State :=
  if s.sys.mode = .cellar ∨ 2700 ≤ vcc then s
  else { s with si := { s.si with vcc := vcc }, sys := { s.sys with holdVcc := true } }

/-- The entry in the swing buffer is rewritten, and the pass goes on there (R337). -/
def State.swingBack (s : State) : State :=
  match s.vlt.swing with
  | none => s
  | some (i, e) => { s with vlt := { s.vlt with ent := spPut {} s.vlt.ent i e, swing := none } }

/-- CELLAR_ENTRY: VCC falls below 2.45 V; the main domain is off (R77, R86, R184, R337, R528, R552). -/
def State.cellarEntry (s : State) (vcc : Nat) : State :=
  if s.sys.mode = .cellar ∨ 2450 ≤ vcc then s
  else
    let old := s.sys.mode
    let utc := s.utcS
    let s1 := ((((s.tearUnit 0).tearUnit 1).remaskTear).mainReset).swingBack
    { s1 with
      si := { s1.si with vcc := vcc, pll := false, cellarOnVcc := false }
      sys := { mode := .cellar, prev := old, held := s.sys.held }
      cel := { s1.cel with left := some (old, utc) } }

/-- CELLAR_SUPPLY_SWITCH: below 2.60 V to VBAT, above 2.65 V back to VCC. -/
def State.supplySwitch (s : State) (vcc vbat : Nat) : State :=
  let on := if vcc < 2600 then false else if 2650 < vcc then true else s.si.cellarOnVcc
  { s with si := { s.si with vcc := vcc, vbat := vbat, cellarOnVcc := on } }

/-- CELLAR_FLOOR: the Cellar's supply falls below 1.90 V: planes and swing buffer are zeroized, the contents are invalid. -/
def State.cellarFloor (s : State) (vbat : Nat) : State :=
  if s.si.cellarOnVcc ∨ 1900 ≤ vbat then s
  else { s with
    si := { s.si with vbat := vbat }
    vlt := { s.vlt with ent := [], swing := none, pass := false, dirty := [], wr := Tab.const 4 {}, jobs := [], gen := [],
                        waiting := [] }
    cel := { s.cel with valid := false } }

/-- CELLAR_START: the Cellar starts on VBAT with VCC absent; what it does not validly hold it marks invalid. -/
def State.cellarStart (s : State) (vbat : Nat) : State :=
  if s.sys.mode ≠ .cellar ∨ vbat < 1900 then s
  else { s with si := { s.si with vbat := vbat, cellarOnVcc := false } }

/-! ## RST_N (R95, R104 to R106) -/

/-- RST_N_ASSERT: a pulse as long as `ns` (R95); RST_N reads high without VIO (R529). -/
def State.rstAssert (s : State) (ns : Nat) : State :=
  if s.sys.held ∨ s.si.vio < 1500 ∨ ns < 2000 then s
  else if s.sys.mode = .cellar then { s with sys := { s.sys with held := true } }
  else if 10000 ≤ ns then s.enterReset .warm .rstN 0xFF
  else
    let (i, s1) := s.choose 2
    if i = 0 then s1 else s1.enterReset .warm .rstN 0xFF

/-- RESET_HOLD_DETECT: RST_N has been low for 100 ms (R104). -/
def State.holdDetect (s : State) : State :=
  if !s.sys.held || !s.cel.valid || s.isSet CEL_RSTHOLD_ACTIVE || decide (s.si.vio < 1500) then s
  else s.wrs [(CEL_RSTHOLD_ACTIVE, 1), (CEL_RSTHOLD_STUCK, 0),
    (CEL_RSTSTART_UTC, if s.timeUnk then 0 else (s.cel.rtc - 104858) / 2 ^ 20)]

/-- RESET_STUCK: the hold reaches T_STUCK (R105). -/
def State.resetStuck (s : State) : State :=
  if s.isSet CEL_RSTHOLD_ACTIVE ∧ !s.isSet CEL_RSTHOLD_STUCK ∧ s.sys.held ∧ s.cel.valid then
    (s.setb CEL_RSTHOLD_STUCK).raise 0x18
  else s

/-- The entry that marks the end of a hold (R106): no onset. -/
def State.holdEntry (s : State) : State :=
  let (utc, frac) := s.stamp
  let e : TlogEntry := {
    utc := utc, frac := frac, src := 0x18, det := 8, acted := .log, cfg := 1, unk := s.timeUnk, cellar := true,
    degraded := false, escalated := false, rel := 0x18, rep := 0, seq := s.cel.tseq }
  (s.tlogPush e).tlogLater

/-- RST_N_RELEASE after `ms` (R95, R106): RISE may follow. -/
def State.rstRelease (s : State) (ms : Nat) : State :=
  if !s.sys.held then s
  else
    let s1 := { s with sys := { s.sys with held := false } }
    if ms ≤ 100 ∨ !s.cel.valid then s1
    else (s1.wrs [(CEL_RSTHOLD_ACTIVE, 0), (CEL_RSTDUR_MS, Nat.min 0xFFFFFFFF ms)]).holdEntry

/-- VIO_CHANGE: without VIO the bank M inputs read 0, and RST_N reads high, which ends a hold of open length (R104, R529; log
entry 86). -/
def State.vioChange (s : State) (vio : Nat) : State :=
  let s1 := { s with si := { s.si with vio := vio } }
  if 1500 ≤ vio then s1
  else
    let s2 := (finList 24).foldl (fun s p => if s.padsUp p then s else s.levelsGo p false false 0) s1
    if !s2.sys.held then s2
    else if s2.isSet CEL_RSTHOLD_ACTIVE then
      let (n, s3) := s2.choose (2 ^ 32)
      s3.rstRelease (101 + n)
    else s2.rstRelease 0

/-! ## RISE, steps 1 to 6 -/

/-- The first step whose self test fails is recorded (Table 3.9). -/
def State.riseFail (s : State) (k : Nat) (bad : Bool) : State :=
  if bad ∧ s.rd SYS_RISE_FAIL = 0 then s.wr SYS_RISE_FAIL k else s

/-- The main domain takes the watch again (R489, R551): sources that the Cellar saw tripped, or that a reset recorded, go on. -/
def State.watchBack (s : State) : State :=
  let s1 := { s with watch := { s.watch with src := Tab.ofFn 0x58 (fun i =>
    let n : SrcId := finOf 0x58 i
    let t := srcSampled i && ((cellarLive i && (s.cel.src.at n).trip) || s.cel.tripped.contains i)
    { s.watch.src.at n with trip := t }) } }
  if (s1.watch.src.at 0x16).trip then s1.setb LDR_STAT_HOLDOFF else s1

/-- Steps 1 and 2: the stage is decoded, the mirror is checked (R85). -/
def State.riseStart (s : State) (e : RiseEnv) : State :=
  let s1 := { s with sys := { s.sys with begun := true }, si := { s.si with stuck := e.fuseStuck, pll := false },
                       tbs := { s.tbs with off := s.rtcOff } }
  let mirror := s1.rd CEL_FLAGS_LIFE
  let s2 := if mirror = s1.stage.code then s1 else s1.mirrorPut.lifeRec 5 s1.si.life mirror
  (s2.watchBack).wr SYS_RISE_STEP 2

/-- Step 4: the PLL locks, the tick starts at 1 ms, the count starts at 0, and UTC follows the RTC (R459, R468). -/
def State.risePll (s : State) : State :=
  { s.setb TICK_STAT_RUN with
    si := { s.si with pll := true }
    tbs := { s.tbs with mono := 0, off := s.rtcOff } }

/-- Step 5: SRAM, the Hatch, crate RAM and both shelf banks are cleared (R398). -/
def State.riseClear (s : State) : State :=
  { (s.memClear sramBase (sramBase + 0x40000)).memClear crateBase (crateBase + 0x10000) with hatch := Tab.const 16 {} }.shelvesClear

/-- What step 6 reads of the Larder: the rings and the journal. -/
def State.larderReads (s : State) (o : Nat) : Bool :=
  decide (0x10000 ≤ o ∧ o < 0x11000) ||
    (finList 64).any (fun c => decide (16 * (s.nv.ring.at c).base ≤ o ∧ o < 16 * ((s.nv.ring.at c).base + (s.nv.ring.at c).slots)))

/-- Step 6: rings, journal, counters (R426, R454, R552); ECC_UNCORR for each group read that is uncorrectable. -/
def State.riseLarder (s : State) (e : RiseEnv) : State :=
  let redo := s.journalReads e.ldrBad ≠ []
  let s1 := (s.journalReplay e.ldrBad).riseCounters
  let s2 := if redo then s1.setb SYS_RISE_REPLAY else s1
  (e.ldrBad.filter s.larderReads).foldl (fun t o => if t.sys.mode = .rise ∧ t.sys.begun then t.ldrUncorr o else t) s2

/-! ## RISE, steps 7 to 9 -/

/-- An entry restored from its shadow record where it has BAD set or fails HCHK (R340). -/
def State.vRestore (s : State) (sh : Shadow) (g i : Nat) : State :=
  let e := s.vEnt i
  if e.bad ∨ (e.st ≠ 0 ∧ e.hchk ≠ e.check) then
    match sh.entry g i with
    | some x => s.vWrite i { x with bad := false }
    | none => s
  else s

/-- A PAIR left unset during an EC_PRIV STORE (R340). -/
def State.vPairs (s : State) : State :=
  s.vlt.ent.foldl (fun s x =>
    let p := x.2.pair.toNat
    if vEcPriv x.2.type.toNat ∧ x.2.pair ≠ 0xFF ∧ (s.vEnt p).st ≠ 0 ∧ (s.vEnt p).pair = 0xFF then
      s.vSet p { s.vEnt p with pair := BitVec.ofNat 8 x.1 }
    else s) s

/-- The PUF is enrolled afresh after REFIT (R341): a new key, and a new shadow, whose records are those of EMPTY entries with
their counts of the generation table (R317). -/
def State.pufEnrol (s : State) : State :=
  if s.stage = .fit ∧ s.nv.puf.isNone then
    let g := s.nv.pufGen + 1
    let v := s.ctrVal 2
    let counted := (List.range 240).filter (fun i => decide (lkGet 0 s.vlt.gens i ≠ 0))
    { s with nv := { s.nv with puf := some g, pufGen := g, shadow := some (s.shadowPut { base := v } g counted v) } }
  else s

/-- Step 7 with the Cellar intact (R337, R340). -/
def State.vaultCheck (s : State) (e : RiseEnv) : State :=
  let s1 := s.swingBack.pufEnrol
  let s2 := match s1.nv.shadow, s1.nv.puf with
    | some sh, some g => if e.pufOk then (List.range 240).foldl (fun (t : State) i => t.vRestore sh g i) s1 else s1
    | _, _ => s1
  s2.vPairs

/-- The shadow is accepted (R341): its generation is CTR2's, and every record authenticates. -/
def State.shadowOk (s : State) (e : RiseEnv) (sh : Shadow) (g : Nat) : Bool :=
  e.pufOk && sh.gen == s.ctrVal 2 && sh.recs.all (fun r => (shadowOpen g r.1 r.2).isSome)

/-- Entry and count of the generation table from one record. -/
def State.vReload (s : State) (g : Nat) (r : Nat × ShadowRec) : State :=
  match shadowOpen g r.1 r.2 with
  | none => s
  | some x =>
    let s1 := if x.st = 0 then s else s.vWrite r.1 x
    { s1 with vlt := { s1.vlt with gens := lkPut s1.vlt.gens r.1 x.gen.toNat } }

/-- Step 7 after a Cellar loss: entries and generation table from the shadow; a SEALED unit whose shadow fails is erased
(R317, R341, Table 3.9). -/
def State.vaultReload (s : State) (e : RiseEnv) : State :=
  let s1 := { s with vlt := { s.vlt with ent := [], gens := [], vgen := s.ctrVal 2, dirty := [] } }
  match s1.nv.shadow, s1.nv.puf with
  | some sh, some g =>
    if s1.shadowOk e sh g then sh.recs.foldl (fun (s : State) r => s.vReload g r) s1
    else if s1.stage = .sealed then s1.setb CEL_FLAGS_ERASEPEND else s1.pufEnrol
  | _, _ => if s1.stage = .sealed then s1.setb CEL_FLAGS_ERASEPEND else s1.pufEnrol

/-- A shadow behind the Vault is rewritten, and CTR2 brought level (R340). -/
def State.shadowCatch (s : State) (e : RiseEnv) : State :=
  match s.nv.shadow, s.nv.puf with
  | some sh, some g =>
    let v := s.ctrVal 2
    if s.vlt.vgen ≤ v ∨ !e.pufOk then s
    else
      let s1 := s.internalCommit .vault [(2, s.vlt.vgen - v)]
      { s1.setb SYS_RISE_SHADOWRW with
        nv := { s1.nv with shadow := some (s.shadowPut sh g s.vlt.dirty s.vlt.vgen) }
        vlt := { s1.vlt with dirty := [] } }
  | _, _ => s

/-- Step 8 (R83, R99, R100). -/
def State.riseErase (s : State) (e : RiseEnv) : State :=
  if !s.isSet CEL_FLAGS_ERASEPEND then s.shadowCatch e
  else if s.stage = .foundry then s.wr CEL_FLAGS_ERASEPEND 0
  else
    let s1 := { s with nv := { s.nv with shadow := none, puf := none } }
    if s1.stage.eraseBits = 0 then s1.wr CEL_FLAGS_ERASEPEND 0
    else if s1.fuseVcc then s1.eraseBlow
    else s1.setb SYS_RISE_FUSEPEND

/-- One repair of region K counts, and makes an EVENT record (R366). -/
def State.orphan (s : State) (i : Nat) : State := (s.bump STR_STAT_ORPHANS).attic 2 (5 :: leBytes 2 i)

/-- The ID entries of region K. -/
def State.kIds (s : State) : List (Nat × SEntry) :=
  (s.sList .k).filter (fun x => x.2.valid && !x.2.deny && x.2.key.getLsbD 56)

/-- Region K reconciled with the Vault (R366). -/
def State.kReconcile (s : State) : State :=
  let gone := s.kIds.filter (fun x => (s.vEnt (x.2.result.toNat % 256)).st == 0)
  let s1 := gone.foldl (fun s x => (((s.sClear x.1).strFinish .vault x.1 (some (.invalidate x.1))).orphan x.1)) s
  let have_ := s1.kIds.map (fun x => x.2.result.toNat % 256)
  let want := (s1.vlt.ent.filter (fun x => decide (x.1 < 240) && x.2.st != 0 && x.2.type != 0x7F && !have_.contains x.1))
  want.foldl (fun s x => ((s.kWrite (idEntry x.1 x.2 0)).2).orphan x.1) s1

/-- Step 9: the Store Room; in ERASED and RETIRED, and after an ERASE reset, its image and log go too (R366). -/
def State.riseStore (s : State) : State :=
  if s.sys.kind = .erase ∨ s.stage = .erased ∨ s.stage = .retired ∨ s.isSet CEL_FLAGS_ERASEPEND then s.strDestroy
  else s.strLoad.kReconcile

/-! ## RISE, steps 10 and 11 -/

/-- The active slot of a kind changed. -/
def State.setActive (s : State) (k : ImgKind) (n : Fin 2) : State :=
  { s with nv := { s.nv with active := s.nv.active.put k.idx n } }

/-- An image that RISE makes active for the first time is recorded (Table 18.6). -/
def State.activate (s : State) (k : ImgKind) (n : Fin 2) (ev ver len : Nat) : State :=
  if s.nv.active.at k.idx = n ∧ ev = 3 then s else (s.setActive k n).imageRec ev k n 0 ver len 2

/-- The image of a slot verified; ECC_UNCORR follows a failing Vault entry. -/
def State.riseImg (s : State) (k : ImgKind) (n : Fin 2) : Nat × Nat × State :=
  let (bad, ver, ecc, s1) := s.imgVerify k n (s.nv.img.at (imgIdx k n)).len
  (bad, ver, if ecc then s1.eccUncorr else s1)

/-- RISE goes on to verify images: no reset has begun, and no LOCK has acted (R101). -/
def State.riseGoes (s : State) : Bool := s.sys.mode == .rise && s.sys.begun && !s.sys.riseLock

/-- Step 10 (R103, R389). -/
def State.riseUc (s : State) : State :=
  let n := s.nv.next.at 1
  let len := (s.nv.img.at (imgIdx .uc n)).len
  if len = 0 then s.setb SYS_RISE_NOUC
  else
    let (bad, ver, s1) := s.riseImg .uc n
    if !s1.riseGoes then s1
    else if bad = 0 then (s1.activate .uc n 3 ver len).wr PKE_UC_VER ver else s1.setb SYS_RISE_NOUC

/-- CPUn_BOOT of both cores. -/
def State.bootPut (s : State) (slot fallback ver : Nat) : State :=
  (finList 2).foldl (fun s c => s.wrs [(CPU_BOOT_SLOT c, slot), (CPU_BOOT_FALLBACK c, fallback), (CPU_BOOT_VERSION c, ver)]) s

/-- The firmware of step 11 (R103, R311). -/
def State.riseFw (s : State) : State :=
  let n := s.nv.next.at 0
  let m : Fin 2 := 1 - n
  let len (k : Fin 2) : Nat := (s.nv.img.at (imgIdx .fw k)).len
  let (bad, ver, s1) := s.riseImg .fw n
  if !s1.riseGoes then s1
  else if bad = 0 then (s1.activate .fw n 3 ver (len n)).bootPut n.val 0 ver
  else
    let f := s1.imageFail
    if !f.riseGoes then f else
    let (bad2, ver2, s2) := f.riseImg .fw m
    if !s2.riseGoes then s2
    else if bad2 = 0 then (s2.activate .fw m 4 ver2 (len m)).bootPut m.val 1 ver2
    else s2.setb SYS_RISE_NOFW

/-- The applet image of step 11 (R311); an empty slot raises nothing. -/
def State.riseApp (s : State) : State :=
  let n := s.nv.next.at 2
  let len := (s.nv.img.at (imgIdx .app n)).len
  if len = 0 then s
  else
    let (bad, ver, s1) := s.riseImg .app n
    if !s1.riseGoes then s1
    else if bad = 0 then
      (finList 2).foldl (fun s c => s.setb (CPU_BOOT_APPOK c)) (s1.activate .app n 3 ver len)
    else (s1.imageRec 6 .app n bad ver len 2).imageFail

/-! ## RISE, step 12 -/

/-- A value that a record holds for a field. -/
def ParamRec.val (r : ParamRec) (f : Field) : Option Nat :=
  (r.vals.find? (fun e => decide (e.1 = f.key))).map (fun e => e.2.toNat)

/-- One group loaded (R432): without a record PDEF sets and an EVENT record names the group. A period and its floor wait
under R48 (R98). After a Cellar loss groups 5 and 6 keep their reset values (Tables 16.6, 18.8). -/
def State.groupLoad (s : State) (g : Fin 8) : State :=
  match s.nv.param.at g with
  | none => (s.wr LDR_STAT_PDEF (s.rd LDR_STAT_PDEF ||| 2 ^ g.val)).attic 2 [4, BitVec.ofNat 8 g.val]
  | some r =>
    if g = 0 then
      let p := (r.val TICK_CFG_PER).getD 2
      let b := (r.val TICK_CFG_BGF).getD 6
      if p = s.rd TICK_CFG_PER then s.wr TICK_CFG_BGF b
      else { s.setb TICK_STAT_PERPEND with tick := { s.tick with
          cfg := some (p, some b) } }
    else
      if s.sys.kind = .cellarLoss ∧ (g = 5 ∨ g = 6) then s
      else s.wrs ((groupFields g.val).filterMap (fun f => (r.val f).map (fun v => (f, v))))

/-- Floors after the load (R490), and responses raised to them (R491). -/
def State.floorsJoin (s : State) (before : List (SrcId × Nat)) : State :=
  let low := s.stage == .sealed || s.stage == .erased || s.stage == .retired
  before.foldl (fun s e =>
    let n := e.1
    let f := Nat.max (Nat.max (Resp.ofCode e.2).code (Resp.ofCode (s.rd (WATCH_FLOOR n))).code) (if low then (srcMinFloor n.val).code else 0)
    let r := s.rd (WATCH_RESP n)
    s.wrs [(WATCH_FLOOR n, f), (WATCH_RESP n, if (Resp.ofCode r).code < f then f else r)]) s

/-- The adjustment state of group 5 (R466): a stamp below CTR5 uses up the allowance until the stored window ends, or, where
its end is unknown, for WIN days; a Cellar loss, after which time is unknown, leaves the stamp (DEDUCED, log entry 89). -/
def State.adjLoad (s : State) : State :=
  let (stamp, cal) := match s.nv.param.at 5 with
    | some r => (r.stamp, if s.sys.kind = .cellarLoss then 0 else r.cal)
    | none => (0, 0)
  let s1 := { s with tbs := { s.tbs with calAt := cal, adjNs := 1000000 * s.rd TBS_ADJUSED } }
  if s1.ctrVal 5 ≤ stamp then s1
  else
    let full := s1.adjMaxNs
    let open_ := s1.rd TBS_ADJWSTART = 0 ∨ s1.timeUnk
    { s1.wr TBS_ADJUSED (full / 1000000) with
      tbs := { s1.tbs with
        adjNs := full
        adjEnd := if open_ then some (s1.cel.elapsed + 1000000000 * s1.adjWinS) else none } }

/-- A leap second that the RTC applied while the main domain was off (R464). -/
def State.leapLoad (s : State) : State :=
  let d := s.cel.leapDone.toNat
  let s1 := { s with cel := { s.cel with leapDone := 0 } }
  if d ≠ 0 ∧ s1.rd TBS_LEAPCTL_DIR = d then s1.leapRegs (decide (d = 1)) else s1

/-- CELLAR_LOSS (R490, R499): its entry, the first of the new log, is completed, and its response acts. -/
def State.cellarLoss (s : State) : Resp × State :=
  let n : SrcId := 0x19
  let (cfg, esc, hist) := s.escalate n (s.respOf n)
  let acted := cfg.reduce s.sys.mode false
  let (utc, frac) := s.stamp
  let e : TlogEntry := { lossEntry with utc := utc, frac := frac, acted := acted, cfg := BitVec.ofNat 3 cfg.code, unk := s.timeUnk,
                                        degraded := decide (acted.code < cfg.code), escalated := esc }
  let w := { s.watch.src.at n with hist := hist, entryAt := some s.tick.frame }
  let s1 := (s.bump (WATCH_ST_COUNT n)).wr (WATCH_ST_ACTED n) acted.code
  let s2 := { s1 with
    watch := { s1.watch with src := s1.watch.src.put n w }
    cel := { s1.cel with tlog := s1.cel.tlog.map (fun (x : TlogEntry) => if x.seq = 1 ∧ x.src = 0x19 then e else x) }
    care := { s1.care with period := { s1.care.period with onsets := s1.care.period.onsets + 1 } } }
  (acted, (s2.tlogCopy e).showOnset 0x19 acted)

/-- One entry copied at RISE (R496, R499); a degraded one of CELLAR is reported once CON starts. -/
def State.copyEntry (s : State) (e : TlogEntry) : State :=
  let s1 := s.attic 2 (1 :: e.body) true
  if e.cellar ∧ e.degraded then
    let t := txt "!TAMPER" ++ fld "src" (txt "0x" ++ hexN 2 e.src.toNat) ++ fld "name" (srcName e.src.toNat) ++
      fld "resp" (Resp.ofCode e.cfg.toNat).name
    let s2 := s1.noteBit e.src.toNat
    if s2.con.notes.length < 16 then { s2 with con := { s2.con with notes := s2.con.notes ++ [t] } }
    else { s2 with con := { s2.con with lost := s2.con.lost + 1 } }
  else s1

/-- The entries not yet copied, oldest first; CTR1 takes one increment for all of them. -/
def State.tlogRise (s : State) : State :=
  let n := s.rd CEL_TLCOPY_PEND
  if n = 0 then s
  else
    let l := (s.cel.tlog.take n).reverse
    let s1 := l.foldl State.copyEntry (s.ctrAuto 1 n)
    let last := match s1.cel.tlog with | e :: _ => e.seq | [] => 0
    s1.wrs [(CEL_TLCOPY_PEND, 0), (CEL_TLCOPY_COPIED, last)]

/-- The MODE record of an entry to CELLAR (R77). -/
def State.leftRec (s : State) : State :=
  match s.cel.left with
  | none => s
  | some (m, utc) =>
    let body := ([BitVec.ofNat 8 m.code, 0, 2, 0xFF, 0] ++ List.replicate 22 0 : List Byte).take 22
    let r : AtticRec := { typ := 3, unk := s.timeUnk, leap := false, rise := true, seq := s.atticNext, utc := utc, body := body }
    { s.atticRec r with cel := { s.cel with left := none } }

/-- Step 12. The response to CELLAR_LOSS comes last. -/
def State.riseLoad (s : State) (e : RiseEnv) : State :=
  let floors := srcIds.map (fun n => (n, s.rd (WATCH_FLOOR n)))
  let s1 := ([0, 1, 2, 3, 4, 5, 6] : List (Fin 8)).foldl State.groupLoad s
  let s2 := ((s1.floorsJoin floors).adjLoad.leapLoad).leftRec
  let s3 := { s2.wr TBS_STAT_TDCFAIL e.tdcFail.toNat with tbs := { s2.tbs with startFail := e.tdcFail } }
  let (r, s4) := if s3.sys.kind = .cellarLoss then s3.cellarLoss else (.none, s3)
  (((s4.tlogRise).wr SYS_RISE_STEP 12).portsLoad).respond r 0x19

/-! ## RISE, steps 13 and 14 -/

/-- The seconds after `f` failures (R137). -/
def authWait (f : Nat) : Nat := if f = 0 then 0 else Nat.min (2 ^ (f - 1)) 1024

/-- Step 13: CON starts, with the whole wait for its stored failures, and Hostlink answers. -/
def State.riseCon (s : State) : State :=
  let s1 := { s with
    con := { s.con with started := true, lockEnd := s.cel.elapsed + 1000000000 * authWait (s.rd CON_AUTH_FAILS) }
    hlk := { s.hlk with up := true } }
  s1.flushNotes

/-- The mode at the end of RISE: the first row of Table 3.9 that applies, also where a LOCK has acted (DEDUCED, log entry 88). -/
def State.riseMode (s : State) : Mode :=
  match s.stage with
  | .retired => .retired
  | .erased => .erased
  | .foundry => .foundry
  | st =>
    if s.isSet CEL_FLAGS_ERASEPEND then .erased
    else if s.isSet CEL_FLAGS_LOCKED ∨ s.rd SYS_RISE_FAIL ≠ 0 then .quarantine
    else if st = .sealed ∧ s.sys.kind = .cellarLoss then .quarantine
    else if st = .fit then .fit else .service

/-- LOCKED where the Cellar loss of a SEALED unit sets it (Table 3.9, R500). -/
def State.riseLocks (s : State) : State :=
  if s.riseMode = .quarantine ∧ !s.isSet CEL_FLAGS_LOCKED ∧ s.rd SYS_RISE_FAIL = 0 then
    s.wrs [(CEL_FLAGS_LOCKED, 1), (CEL_LOCKSRC, 0xFE)]
  else s

/-- Both cores are released at the firmware's entry (R314), in a mode that runs them and with a valid image (R103). -/
def State.coresRelease (s : State) : State :=
  if s.sys.mode.coresReset ∨ s.isSet SYS_RISE_NOFW ∨ s.sys.riseLock then s
  else
    let entry := s.getW (arcBase + imgOff .fw (s.nv.active.at 0) + 16)
    { s with cpu := Tab.const 2 { run := true, pc := 0x20000040 + entry } }

/-- Step 14: the boundary at which the mode takes effect, `n` ms after the tick's start. XHF_FREQ that is still tripped takes the
part to the RC oscillator now (R97; DEDUCED, log entry 87). -/
def State.riseEnd (s : State) (e : RiseEnv) : State :=
  let (i, s0) := s.choose (Nat.max 1 (e.dur.toNat / 100))
  let s1 := (s0.riseLocks.advance (10000 * e.dur.toNat - 1000000 * (i + 1)) false).advance (1000000 * i) true
  let pend : PendMode := { dest := s1.riseMode, cause := 4 }
  let s2 := { s1.wrs [(SYS_RISE_STEP, 14), (SYS_RISE_DUR, e.dur.toNat)] with
    sys := { s1.sys with pend := some pend }
    tick := { s1.tick with frame := s1.tick.frame + i } }
  let s3 := s2.boundary e.edge
  let s4 := { s3 with sys := { s3.sys with begun := false } }
  (if (s4.watch.src.at 8).trip then s4.rcFallback else s4).coresRelease

/-- One step of RISE; its place in the order is `State.riseCan`. -/
def State.riseDo (s : State) (e : RiseEnv) (k : Nat) : State :=
  match k with
  | 3 => s.riseFail 3 (!e.romOk)
  | 4 => s.risePll
  | 5 => s.riseClear
  | 6 => s.riseLarder e
  | 7 => if s.sys.kind = .cellarLoss then s.vaultReload e else s.vaultCheck e
  | 8 => s.riseErase e
  | 9 => s.riseStore
  | 10 => s.riseUc
  | 11 => s.riseFw
  | 12 => s.riseLoad e
  | 13 => s.riseCon
  | 14 => s.riseEnd e
  | _ => s

/-- RISE runs a step: the one before is done (10 and 11 are left out after a LOCK, R101); step 4 waits for the PLL, step 6 for
the end of hold-off (R422). -/
def State.riseCan (s : State) (e : RiseEnv) (k : Nat) : Bool :=
  let st := s.rd SYS_RISE_STEP
  s.sys.mode == .rise && s.sys.begun && decide (st < k) && decide (Nat.min (k - 1) 9 ≤ st) &&
    !(decide (k = 4) && !e.pllLocks) && !(decide (k = 6) && s.holdoff) &&
    !((decide (k = 10) || decide (k = 11)) && s.sys.riseLock)

/-- A step, and SYS_RISE.STEP after it; a reset in it leaves the new reset's state. -/
def State.riseStep (e : RiseEnv) (s : State) (k : Nat) : State :=
  if !s.riseCan e k then s
  else
    let s1 := s.riseDo e k
    let s2 := if k = 11 ∧ s1.riseGoes ∧ s1.riseCan e 12 then s1.riseApp else s1
    let s3 := s2.riseFail k (decide (e.failStep.val = k) && decide (5 ≤ k))
    if s3.sys.mode = .rise ∧ s3.sys.begun ∧ s3.rd SYS_RISE_STEP < k then s3.wr SYS_RISE_STEP k else s3

/-- The steps from 3 on that can run. -/
def State.riseRun (s : State) (e : RiseEnv) : State := ((List.range 12).map (· + 3)).foldl (State.riseStep e) s

/-- RISE (R96): from the start, or on from the wait at step 6. -/
def State.rise (s : State) (e : RiseEnv) : State :=
  if s.sys.mode ≠ .rise ∨ s.sys.held then s
  else if !s.sys.begun then (s.riseStart e).riseRun e
  else if s.rd SYS_RISE_STEP = 5 then s.riseRun e
  else s

/-- RISE_PLL_LOCK (R97): on from the wait at step 4. -/
def State.risePllLock (s : State) (e : RiseEnv) : State :=
  if s.sys.mode = .rise ∧ s.sys.begun ∧ s.rd SYS_RISE_STEP = 3 then s.riseRun { e with pllLocks := true } else s

/-! ## Meanings -/

/-- POWER_ON (R96). -/
def execPowerOn (vcc : BitVec 16) (s : State) : Host.Outcome State Fault Refusal := .next (s.powerOn vcc.toNat)
/-- VCC_FALL (R90). -/
def execVccFall (vcc : BitVec 16) (s : State) : Host.Outcome State Fault Refusal := .next (s.vccFall vcc.toNat)
/-- CELLAR_ENTRY (R86). -/
def execCellarEntry (vcc : BitVec 16) (s : State) : Host.Outcome State Fault Refusal := .next (s.cellarEntry vcc.toNat)
/-- CELLAR_SUPPLY_SWITCH (R525). -/
def execCellarSupplySwitch (vcc vbat : BitVec 16) (s : State) : Host.Outcome State Fault Refusal :=
  .next (s.supplySwitch vcc.toNat vbat.toNat)
/-- CELLAR_FLOOR (R526). -/
def execCellarFloor (vbat : BitVec 16) (s : State) : Host.Outcome State Fault Refusal := .next (s.cellarFloor vbat.toNat)
/-- CELLAR_START (R523). -/
def execCellarStart (vbat : BitVec 16) (s : State) : Host.Outcome State Fault Refusal := .next (s.cellarStart vbat.toNat)
/-- VIO_CHANGE (R529). -/
def execVioChange (vio : BitVec 16) (s : State) : Host.Outcome State Fault Refusal := .next (s.vioChange vio.toNat)
/-- RST_N_ASSERT (R95). -/
def execRstNAssert (ns : Nat) (s : State) : Host.Outcome State Fault Refusal := .next (s.rstAssert ns)
/-- RST_N_RELEASE (R106). -/
def execRstNRelease (ms : Nat) (s : State) : Host.Outcome State Fault Refusal := .next (s.rstRelease ms)
/-- RESET_HOLD_DETECT (R104). -/
def execResetHoldDetect (s : State) : Host.Outcome State Fault Refusal := .next s.holdDetect
/-- RESET_STUCK (R105). -/
def execResetStuck (s : State) : Host.Outcome State Fault Refusal := .next s.resetStuck
/-- RISE (R96). -/
def execRise (env : RiseEnv) (s : State) : Host.Outcome State Fault Refusal := .next (s.rise env)
/-- RISE_PLL_LOCK (R97). -/
def execRisePllLock (env : RiseEnv) (s : State) : Host.Outcome State Fault Refusal := .next (s.risePllLock env)
/-- DEFERRED_FUSE_BLOW (R100). -/
def execDeferredFuseBlow (s : State) : Host.Outcome State Fault Refusal := .next s.deferredBlow

end Sys2Proof.Machine
end

