-- ==== Sys2Proof/Machine/Replies.lean ====
section
/-!
DEFINITION. Replies.lean: error replies and the PROBE count (spec/04_miand_language.md, R126 to R131).
-/
namespace Sys2Proof.Machine

/-- The modes in which E20 and E21 replies count toward PROBE (R131). -/
def Mode.probes : Mode → Bool
  | .quarantine | .erased | .retired => true
  | _ => false

/-- An E20 or E21 reply joins the 60 s window; the fifth one raises PROBE and restarts the count (R131). -/
def State.probeNote (s : State) : Bool × State :=
  if !s.sys.mode.probes then (false, s)
  else
    let l := s.con.probe.filter (fun t => decide (s.cel.elapsed < 60000000000 + t)) ++ [s.cel.elapsed]
    if 5 ≤ l.length then (true, { s with con := { s.con with probe := [] } })
    else (false, { s with con := { s.con with probe := l } })

/-- What an error reply counts (R130, Table 18.7). -/
def State.errCount (s : State) (e : Nat) : State :=
  if e = 20 then (s.bump CON_CNT_E20).tele (fun p => { p with conerr := p.conerr + 1 })
  else if e = 21 then (s.bump CON_CNT_E21).tele (fun p => { p with conerr := p.conerr + 1 })
  else s

/-- The detail of an error: an E20 names the mode in force (R130). -/
def State.errDetail (s : State) (e : Nat) (detail : List Byte) : List Byte :=
  if e = 20 then fld "mode" s.sys.mode.name ++ detail else detail

/-- An error reply (R126), with its counts; PROBE comes last. -/
def State.replyErr (s : State) (tag : Option Byte) (e : Nat) (detail : List Byte := []) : State :=
  let d := s.errDetail e detail
  let r := if e = 20 ∨ e = 21 then (s.errCount e).probeNote else (false, s)
  let t := (r.2.conTx (errLine tag e d)).replyEnd
  if r.1 then t.raise 0x26 else t

/-- E12 naming the argument. -/
def argDetail (name : String) : List Byte := fld "arg" (txt name)

/-- A level as replies write it. -/
def levelText (l : Nat) : List Byte := 0x4C :: dec l

/-- A port, queue or counter as replies write it. -/
def portText (p : PortId) : List Byte := 0x50 :: dec p.val
def queueText (q : QueueId) : List Byte := 0x51 :: dec q.val
def ctrText (c : CtrId) : List Byte := txt "CTR" ++ dec c.val

/-- A source ID as replies write it. -/
def srcText8 (n : Nat) : List Byte := txt "0x" ++ hexN 2 n

end Sys2Proof.Machine
end

