-- ==== Sys2Proof/Machine/Forms.lean ====
section
/-!
DEFINITION. Forms.lean: the forms of the hardware verbs: their names and syntax, the modes in which each is legal, its level
and its protection, and the ranges of its arguments (spec/05_miand_verbs.md, Tables 5.1 to 5.16).
-/
namespace Sys2Proof.Machine

/-- The hardware verbs in the order of Table 5.1. -/
def VerbName.all : List VerbName :=
  [.help, .info, .echo, .line, .auth, .logout, .confirm, .stat, .log, .mode, .time, .tick, .port, .queue, .key, .store,
   .count, .watch, .tele, .cal, .image, .life, .unlock, .reset]

/-- The names of the verbs. -/
def VerbName.text : VerbName → List Byte
  | .help => txt "HELP" | .info => txt "INFO" | .echo => txt "ECHO" | .line => txt "LINE" | .auth => txt "AUTH"
  | .logout => txt "LOGOUT" | .confirm => txt "CONFIRM" | .stat => txt "STAT" | .log => txt "LOG" | .mode => txt "MODE"
  | .time => txt "TIME" | .tick => txt "TICK" | .port => txt "PORT" | .queue => txt "QUEUE" | .key => txt "KEY"
  | .store => txt "STORE" | .count => txt "COUNT" | .watch => txt "WATCH" | .tele => txt "TELE" | .cal => txt "CAL"
  | .image => txt "IMAGE" | .life => txt "LIFE" | .unlock => txt "UNLOCK" | .reset => txt "RESET"

/-- A key argument that stands for any in a form without its arguments. -/
def anyKey : KeyArgs := ⟨0, 0, 0, 0, 0, 0⟩

/-- The forms of a verb, each with the name and the syntax that HELP gives it. The arguments stand for any; source 0x05 is
reserved and has no floor. -/
def VerbName.forms : VerbName → List (Verb × String × String)
  | .help => [(.help, "SHOW", "HELP"), (.helpVerb .help, "VERB", "HELP verb")]
  | .info => [(.info, "SHOW", "INFO")]
  | .mode => [(.modeShow, "SHOW", "MODE"), (.modeChange .doze, "DOZE", "MODE DOZE"),
      (.modeChange .service, "SERVICE", "MODE SERVICE"), (.modeChange .inspect, "INSPECT", "MODE INSPECT"),
      (.modeChange .workshop, "WORKSHOP", "MODE WORKSHOP")]
  | .echo => [(.echoShow, "SHOW", "ECHO"), (.echoOn, "ON", "ECHO ON"), (.echoOff, "OFF", "ECHO OFF")]
  | .line => [(.lineShow, "SHOW", "LINE"), (.lineBaud 0, "BAUD", "LINE BAUD=n")]
  | .auth => [(.authLevel 0, "LEVEL", "AUTH Ln"), (.authResp 0, "RESP", "AUTH RESP=h"), (.authCard 0, "CARD", "AUTH CARD=Pn")]
  | .logout => [(.logout, "LOGOUT", "LOGOUT")]
  | .confirm => [(.confirm 0, "CONFIRM", "CONFIRM hhhh")]
  | .stat => [(.stat, "SHOW", "STAT"), (.statReset, "RESET", "STAT RESET"), (.statRise, "RISE", "STAT RISE")]
  | .log => [(.logTamper 16, "TAMPER", "LOG TAMPER [N=n]"), (.logAttic none 16, "ATTIC", "LOG ATTIC [TYPE=t] [N=n]")]
  | .count => [(.count, "SHOW", "COUNT"), (.countCtr 0, "CTR", "COUNT CTRn"), (.countRing 0 0, "RING", "COUNT RING CTRn SLOTS=s")]
  | .tick => [(.tickShow, "SHOW", "TICK"), (.tickJobs, "JOBS", "TICK JOBS"),
      (.tickSet none none, "SET", "TICK SET [PER=p] [BGF=b]")]
  | .time => [(.timeShow, "SHOW", "TIME"), (.timeAdj 0, "ADJ", "TIME ADJ D=s"),
      (.timeSet 0 false, "SET", "TIME SET UTC=YYYY-MM-DDThh:mm:ssZ [SRC=PPS]")]
  | .cal => [(.calShow, "SHOW", "CAL"), (.calK 0 0, "K", "CAL K P=Pn K=k"), (.calRun, "RUN", "CAL RUN"),
      (.calRaw 1, "RAW", "CAL RAW N=n")]
  | .port => [(.portList, "SHOW", "PORT"), (.portShow 0, "PORT", "PORT Pn"),
      (.portFn 0 ⟨0, 0, 0, 0, 0, 0⟩, "FN", "PORT Pn FN=name [args]"), (.portClear 0, "CLEAR", "PORT Pn CLEAR")]
  | .queue => [(.queueList, "SHOW", "QUEUE"), (.queueShow 0, "Q", "QUEUE Qn"), (.queueFlush 0, "FLUSH", "QUEUE Qn FLUSH")]
  | .store => [(.storeShow, "SHOW", "STORE"), (.storeFind .k 0, "FIND", "STORE FIND REGION=r KEY=h"),
      (.storeSize 0 0 0 0 0, "SIZE", "STORE SIZE K=a C=b A0=c A1=d H=e")]
  | .key => [(.keyList, "LIST", "KEY LIST"), (.keyShow 0, "SHOW", "KEY SHOW ID=h"),
      (.keyStage anyKey, "STAGE", "KEY STAGE ID=h ROLE=r TYPE=t USE=u PRIO=p LEN=n"), (.keyData 0 [], "DATA", "KEY DATA OFF=o V=h"),
      (.keyWrite, "WRITE", "KEY WRITE"), (.keyGen anyKey, "GEN", "KEY GEN ID=h ROLE=r TYPE=t USE=u PRIO=p"),
      (.keyRetire 0, "RETIRE", "KEY RETIRE ID=h"), (.keyRevoke 0, "REVOKE", "KEY REVOKE ID=h")]
  | .watch => [(.watchList, "SHOW", "WATCH"), (.watchSrc 0, "SRC", "WATCH SRC=s"),
      (.watchSet 0 none none, "SET", "WATCH SET SRC=s [RESP=r] [FILT=f]"), (.watchFloor 0 .none, "FLOOR", "WATCH FLOOR SRC=s RESP=r"),
      (.watchArm 0, "ARM", "WATCH ARM SRC=s"), (.watchDisarm 5, "DISARM", "WATCH DISARM SRC=s")]
  | .tele => [(.tele, "SHOW", "TELE"), (.teleShow 1, "RECORDS", "TELE SHOW [N=n]"), (.telePer 100, "PER", "TELE PER=t"),
      (.teleStreamOn, "ON", "TELE STREAM ON"), (.teleStreamOff, "OFF", "TELE STREAM OFF")]
  | .image => [(.imageList, "SHOW", "IMAGE"), (.imageBegin .fw 1 none, "BEGIN", "IMAGE BEGIN KIND=k LEN=n [CRC=h]"),
      (.imageData 0 [], "DATA", "IMAGE DATA OFF=o V=h"), (.imageEnd, "END", "IMAGE END"), (.imageAbort, "ABORT", "IMAGE ABORT")]
  | .life => [(.lifeShow, "SHOW", "LIFE"), (.lifeFit, "FIT", "LIFE FIT"), (.lifeSeal, "SEAL", "LIFE SEAL"),
      (.lifeErase, "ERASE", "LIFE ERASE"), (.lifeRetire, "RETIRE", "LIFE RETIRE"), (.lifeRefit, "REFIT", "LIFE REFIT")]
  | .unlock => [(.unlock, "UNLOCK", "UNLOCK")]
  | .reset => [(.reset, "RESET", "RESET")]

/-- A form that reports state and changes nothing. -/
def Verb.isShow : Verb → Bool
  | .help | .helpVerb _ | .helpApplet _ | .info | .modeShow | .echoShow | .lineShow | .stat | .statReset | .statRise
  | .logTamper _ | .logAttic _ _ | .count | .countCtr _ | .tickShow | .tickJobs | .timeShow | .calShow | .portList
  | .portShow _ | .queueList | .queueShow _ | .storeShow | .keyList | .keyShow _ | .watchList | .watchSrc _ | .tele
  | .teleShow _ | .imageList | .lifeShow => true
  | _ => false

/-- The modes in which a level can be obtained (Table 4.7). -/
def Mode.obtains (m : Mode) (l : Nat) : Bool :=
  let low := m.running || m == .hold || m == .quarantine
  match l with
  | 1 => low
  | 2 => low
  | 3 => low || m == .erased
  | 4 => m == .fit
  | 5 => m == .foundry || m == .erased
  | _ => false

/-- Legality by mode (Table 5.1; R152, R158). -/
def Verb.legal (m : Mode) (v : Verb) : Bool :=
  match v.name with
  | .auth => match v with | .authLevel l => l.val == 0 || m.obtains l.val | _ => true
  | .help | .info | .echo | .line | .logout | .confirm | .stat | .log => true
  | .mode => m != .hold
  | .time =>
    v.isShow || m == .fit || m == .workshop ||
      (match v with | .timeAdj _ => m == .service || m == .doze | _ => false)
  | .tick => v.isShow || m == .fit
  | .port =>
    v.isShow || m == .foundry || m == .fit ||
      (match v with | .portClear _ => m == .service || m == .workshop || m == .doze | _ => false)
  | .queue => v.isShow || m == .foundry || m == .fit || m == .workshop
  | .key => m != .hold && m != .erased && m != .retired && (v.isShow || m == .fit)
  | .store =>
    v.isShow || m == .fit || (match v with | .storeFind _ _ => m.running || m == .foundry | _ => false)
  | .count => v.isShow || m == .fit
  | .watch =>
    v.isShow || m == .fit ||
      (match v with | .watchSet _ _ _ | .watchArm _ | .watchDisarm _ => m == .workshop | _ => false)
  | .tele =>
    v.isShow || m == .fit || m == .workshop || (match v with | .teleStreamOn | .teleStreamOff => m.running | _ => false)
  | .cal =>
    v.isShow || (match v with
      | .calRaw _ => m == .foundry
      | .calRun => m == .fit || m == .workshop
      | .calK _ _ => m == .workshop
      | _ => false)
  | .image => v.isShow || m == .foundry || m == .fit || m == .workshop
  | .life =>
    m != .hold && (match v with
      | .lifeShow => true
      | .lifeFit => m == .foundry
      | .lifeSeal => m == .fit
      | .lifeErase => m.running || m == .quarantine
      | .lifeRetire | .lifeRefit => m == .erased
      | _ => false)
  | .unlock => m == .quarantine
  | .reset => m != .erased && m != .retired

/-- A LIFE verb comes from its stage (Table 3.4), which is not the mode's where a fuse has still to blow. -/
def Verb.fromStage (st : Stage) : Verb → Bool
  | .lifeFit => st == .foundry
  | .lifeSeal => st == .fit
  | .lifeErase => st == .fit || st == .sealed
  | .lifeRetire | .lifeRefit => st == .erased
  | _ => true


/-- The authority of a MODE verb's transition (Table 3.5); none where the table lists no such transition (R86). -/
def Mode.goes (frm dest : Mode) : Option Nat :=
  match frm, dest with
  | .service, .doze => some 1
  | .doze, .service => some 1
  | .service, .workshop => some 3
  | .inspect, .workshop => some 3
  | .service, .inspect => some 2
  | .workshop, .inspect => some 2
  | .workshop, .service => some 2
  | .inspect, .service => some 2
  | _, _ => none

/-- A form is legal now (step 5 of Table 4.5): in the mode, from the stage, and a MODE form where Table 3.5 lists its transition
(R86, R156). -/
def State.legal (s : State) (v : Verb) : Bool :=
  v.legal s.sys.mode && v.fromStage s.stage && (match v with | .modeChange dest => (s.sys.mode.goes dest).isSome | _ => true)

/-- A step beyond what is left of the allowance (R164, R165). -/
def State.adjBeyond (s : State) (d : Int) : Bool := !s.adjFits d.natAbs

/-- The minimum level of a form in the present mode (Tables 5.2 to 5.16, 3.4, 3.5). -/
def State.formLevel (s : State) (v : Verb) : Nat :=
  let m := s.sys.mode
  let fit4 := if m = .fit then 4 else 3
  match v with
  | .modeChange dest => (m.goes dest).getD 0
  | .timeAdj d => if s.adjBeyond d then 3 else 1
  | .timeSet _ _ => if m = .workshop then 3 else 4
  | .countRing _ _ | .tickSet _ _ | .storeSize _ _ _ _ _ | .keyStage _ | .keyData _ _ | .keyWrite | .keyGen _
  | .keyRetire _ | .keyRevoke _ | .watchFloor _ _ | .lifeSeal => 4
  | .calK _ _ | .calRun | .portClear _ | .queueFlush _ | .lifeErase | .lifeRetire | .unlock => 3
  | .calRaw _ | .lifeFit | .lifeRefit => 5
  | .portFn _ _ => if m = .foundry then 5 else 4
  | .storeFind _ _ => 2
  | .keyList | .keyShow _ | .teleStreamOn | .teleStreamOff => 1
  | .watchSet _ _ _ | .watchArm _ | .telePer _ => fit4
  | .watchDisarm n => if 4 ≤ s.rd (WATCH_FLOOR n) then 4 else 3
  | .imageBegin _ _ _ | .imageData _ _ | .imageEnd | .imageAbort => if m = .foundry then 5 else fit4
  | .reset => if m = .foundry then 5 else 3
  | _ => 0

/-- A protected form (R139). -/
def State.formProt (s : State) (v : Verb) : Bool :=
  match v with
  | .timeAdj d => s.adjBeyond d
  | .timeSet _ _ | .keyWrite | .keyGen _ | .keyRetire _ | .keyRevoke _ | .watchFloor _ _ | .watchDisarm _ | .lifeFit
  | .lifeSeal | .lifeErase | .lifeRetire | .lifeRefit | .unlock => true
  | _ => false

/-- Zero bytes after a name. -/
def pad16 (l : List Byte) : List Byte := (l ++ List.replicate 16 0).take 16

/-- The key of a name, and the name of a key. -/
def nameKey (l : List Byte) : BitVec 160 := BitVec.ofNat 160 (leNat (pad16 l))
def keyName (k : BitVec 160) : List Byte := (leBytes 16 k.toNat).takeWhile (· != 0)

/-! ## Arguments (step 7 of Table 4.5) -/

/-- The rates of R109, in the order of CON_LINE.BAUD. -/
def bauds : List Nat := [1200, 2400, 4800, 9600, 19200, 38400, 57600, 115200, 230400, 460800, 921600]

/-- E12 where a test fails. -/
def need (ok : Bool) (name : String) (rest : Option String) : Option String := if ok then rest else some name

/-- A number in a closed range. -/
def inRange (lo hi n : Nat) : Bool := decide (lo ≤ n) && decide (n ≤ hi)

/-- The roles that Table 11.4 names. -/
def roleKnown (r : Nat) : Bool := inRange 1 10 r

/-- An argument outside its range, by name. -/
def State.argBad (s : State) (v : Verb) : Option String :=
  match v with
  | .helpApplet n => need ((s.sList .c).any (fun e => e.2.valid && keyName e.2.key == n)) "verb" none
  | .lineBaud n => need (bauds.contains n) "BAUD" none
  | .authLevel l => need (l.val != 0) "LEVEL" none
  | .logTamper n | .logAttic _ n => need (inRange 1 64 n) "N" none
  | .countRing _ n => need (inRange 16 256 n) "SLOTS" none
  | .tickSet per bgf =>
    need (match per with | some p => perUs.contains p | none => true) "PER"
      (need (match bgf with | some b => inRange 2 50 b | none => true) "BGF" none)
  | .timeAdj d => need (decide (d.natAbs ≤ 86400000000000)) "D" none
  | .calK _ k => need (inRange 1600 1048575 k) "K" none
  | .calRaw n => need (inRange 1 64 n) "N" none
  | .portFn _ c => need (decide (c.fn.toNat ≤ 10)) "FN" none
  | .storeSize k c a0 a1 h =>
    need (h == 8 || h == 16 || h == 32 || h == 64) "H"
      (need ([k, c, a0, a1].all (fun n => n % h == 0) && k + c + a0 + a1 == 8192) "K" none)
  | .keyShow id | .keyRetire id | .keyRevoke id => need (id != 0xFFFFFFFF) "ID" none
  | .keyStage a =>
    need (a.id != 0xFFFFFFFF) "ID" (need (roleKnown a.role.toNat) "ROLE" (need (vTypeLen a.type.toNat).isSome "TYPE"
      (need (vTypeLen a.type.toNat == some a.len) "LEN" none)))
  | .keyGen a => need (a.id != 0xFFFFFFFF) "ID" (need (roleKnown a.role.toNat) "ROLE" (need (vTypeLen a.type.toNat).isSome "TYPE" none))
  | .keyData _ d => need (inRange 1 64 d.length) "V" none
  | .watchSrc n => need (srcExists n.val) "SRC" none
  | .watchSet n r f =>
    need (srcExists n.val) "SRC"
      (need (match r with | some x => decide (s.rd (WATCH_FLOOR n) ≤ x.code) | none => true) "RESP"
        (need (match f with | some x => srcSampled n.val && x != 0 | none => true) "FILT" none))
  | .watchFloor n r => need (srcExists n.val) "SRC" (need (decide (s.rd (WATCH_FLOOR n) ≤ r.code)) "RESP" none)
  | .watchArm n =>
    let p : PortId := finOf 24 (n.val - 0x40)
    need (srcPort n.val && (s.pfn p == .dual || s.pfn p == .loop || s.pfn p == .switch)) "SRC" none
  | .watchDisarm n => need (srcPort n.val) "SRC" none
  | .teleShow n => need (inRange 1 32 n) "N" none
  | .telePer n => need (inRange 100 65535 n) "PER" none
  | .imageBegin k n _ => need (inRange 1 k.size n) "LEN" none
  | .imageData _ d => need (inRange 1 64 d.length) "V" none
  | _ => none

/-! ## Applet rules (R145) -/

/-- The rule's fields in its result word. -/
def ruleModes (w : Word) : Nat := w.toNat % 0x1000
def ruleLevel (w : Word) : Nat := bits w.toNat 12 3
def ruleProt (w : Word) : Bool := bitAt w.toNat 15
def ruleCore (w : Word) : CpuId := finOf 2 (bits w.toNat 16 1)
def ruleTmo (w : Word) : Nat := w.toNat / 0x1000000

/-- The rule admits a mode and a level. -/
def ruleAdmits (w : Word) (m : Mode) (level : Nat) : Bool := bitAt (ruleModes w) m.code && decide (ruleLevel w ≤ level)

/-- Lowercase letters folded (R116). -/
def up (b : Byte) : Byte := if 0x61 ≤ b.toNat ∧ b.toNat ≤ 0x7A then b - 0x20 else b

/-- The session level. -/
def State.level (s : State) : Nat := match s.con.session with | some x => x.level | none => 0

/-- The applet rules that HELP may list (R154). -/
def State.rulesSeen (s : State) : List (List Byte × Word) :=
  ((s.sList .c).filter (fun e => e.2.valid && !e.2.deny && ruleAdmits e.2.result s.sys.mode s.level)).map
    (fun e => (keyName e.2.key, e.2.result))

end Sys2Proof.Machine
end

