-- ==== Sys2Proof/Machine/Regs.lean ====
section
/-!
DEFINITION. Regs.lean: what a register reads as: the stored fields of Fields.lean, and the fields that the part computes from
its other state.
-/
namespace Sys2Proof.Machine

/-! ## Stored fields -/

/-- CON's copy of a Vault register that a writer stages its commands in: RWT (R18, chapter 11). -/
def conCopy (f : Field) : Bool :=
  decide (0x8000 ≤ f.off) && decide (f.off < 0x8048) && f.view == Agent.con.view && (f.acc == .rw || f.acc == .wo)

/-- The access code under which a field is written. -/
def writeCode (f : Field) : Access := if conCopy f then .rwt else f.acc

/-- What a field shows: an RWT field its most recently written value, a WO field 0 (Table 0.2). -/
def State.shown (s : State) (f : Field) : Nat :=
  match writeCode f with
  | .wo => 0
  | .rwt => match (s.shadow.filter (fun w => w.fld == f)).getLast? with
    | some w => w.val.toNat % 2 ^ f.width
    | none => s.rd f
  | _ => s.rd f

/-- DROPPED shows in the sender's view only (R29). -/
def fieldSeen (a : Agent) (f : Field) : Bool :=
  !(decide (0x13400 ≤ f.off) && decide (f.off < 0x13440) && f.lo == 24 && hatchSender (finOf 16 ((f.off % 0x400) / 4)) != a)

/-- The stored fields of a register as an agent sees them. -/
def seenFields (a : Agent) (off : Nat) : List Field := (fieldsAt a off).filter (fieldSeen a)

/-! ## Computed fields, block by block -/

/-- SYS_MODE and SYS_LIFE (Table 3.11). -/
def State.sysWord (s : State) (off : Nat) : Nat :=
  match off with
  | 0x000 => s.sys.mode.code + 16 * s.pendCode + 256 * s.sys.prev.code + 4096 * s.holdSrcCode
  | 0x008 => s.stage.code + 16 * s.epoch + 256 * lifeK s.si.life
  | _ => 0

/-- PORTn_STAT (Table 6.8). -/
def State.portWord (s : State) (p : PortId) (r : Nat) : Nat :=
  match r with
  | 0x08 => (s.pfn p).code + 256 * b2n (s.port.at p).lvlA + 512 * b2n (s.port.at p).lvlB + 8192 * b2n (s.paired p)
  | _ => 0

/-- The crates of a queue as STAT shows them. -/
def Queue.cratesShown (x : Queue) : Nat := Nat.min 255 x.held

/-- QFX_Qn_PTR and QFX_Qn_STAT (Table 8.7). -/
def State.queueWord (s : State) (q : QueueId) (r : Nat) : Nat :=
  let x := s.qfx.at q
  match r with
  | 0x14 => x.rd % 65536 + 65536 * (x.rel % 65536)
  | 0x18 => x.pkts + 256 * x.cratesShown + 131072 * b2n x.mark.isSome + 262144 * b2n x.flush.isSome +
      524288 * b2n x.desync + 16777216 * s.room q
  | _ => 0

/-- Bits of the queues whose interrupt a core sees, from `lo` on. -/
def State.pendWord (s : State) (a : Agent) (lo : Nat) : Nat :=
  match a.cpu with
  | some c => ((s.qfxPend c).filter (fun q => decide (lo ≤ q.val) && decide (q.val < lo + 32))).foldl
      (fun n q => n + 2 ^ (q.val - lo)) 0
  | none => 0

/-- QFX_STAT.POOL and QFX_PENDn. -/
def State.qfxWord (s : State) (a : Agent) (off : Nat) : Nat :=
  match off with
  | 0x4800 => s.pool % 512
  | 0x4808 => s.pendWord a 0
  | 0x480C => s.pendWord a 32
  | _ => 0

/-- A pipe of PKE runs an operation. -/
def State.pipeBusy (s : State) (sp : Bool) : Bool := (s.pkeHead sp).isSome

/-- PKE_SHELFCFG.COUNT and PKE_STAT (Table 13.9). -/
def State.pkeWord (s : State) (off : Nat) : Nat :=
  match off with
  | 0x5000 => 65536 * (s.shelfCount % 512)
  | 0x5004 => b2n (s.pipeBusy true) + 2 * b2n (s.pipeBusy false) + 4 * (8 - s.ctxHeld.length) + 256 * b2n s.rngBlocked
  | _ => 0

/-- SYM_STAT (Table 14.6). -/
def State.symWord (s : State) (off : Nat) : Nat :=
  match off with
  | 0x6004 => b2n (s.eng.sym.any (fun o => !o.parked)) + 2 * ((finList 8).filter (fun k => (s.eng.ctx.at k).isNone)).length
  | _ => 0

/-- VLT_GEN and VLT_INFO (Table 11.11). -/
def State.vltWord (s : State) (off : Nat) : Nat :=
  match off with
  | 0x8050 => s.vlt.vgen % 2 ^ 32
  | 0x8054 => s.vActive + 65536 * s.vEmpty
  | _ => 0

/-- STR_MOVE and STR_USED (Table 12.7). -/
def State.strWord (s : State) (off : Nat) : Nat :=
  match off with
  | 0x9010 => match s.str.moves with
    | [] => 0
    | m :: _ => 1 + 2 * m.region.code + 8 * b2n (match m.run with | some r => !r.up | none => false) + 131072 * s.movesWaiting
  | 0x9014 => s.strUsed .k + 65536 * s.strUsed .c
  | 0x9018 => s.strUsed .a0 + 65536 * s.strUsed .a1
  | _ => 0

/-- A bank is busy; its erase is suspended. -/
def BankOp.busy : BankOp → Bool
  | .idle => false
  | _ => true
def BankOp.susp : BankOp → Bool
  | .erase _ x _ => x
  | _ => false

/-- ARC_TXt. -/
def txnWord : Option Txn → Nat
  | none => 0
  | some t => (if t.committing then 2 else 1) + 4 * b2n t.void + 8 * t.owner.val + 16 * t.area.val + 256 * t.n + 65536 * t.used +
      16777216 * t.ctrs.length

/-- ARC_STAT, the selected area's pointers, ARC_JSEQ and the transactions (Table 15.14). -/
def State.arcWord (s : State) (a : Agent) (off : Nat) : Nat :=
  let k : Fin 8 := match a.cpu with | some c => finOf 8 (s.rd (ARC_ASEL c)) | none => 0
  match off with
  | 0xA004 => b2n (s.bank.at 0).busy + 2 * b2n (s.bank.at 1).busy + 4 * b2n (s.bank.at 0).susp + 8 * b2n (s.bank.at 1).susp
  | 0xA044 => (s.nv.area.at k).head
  | 0xA048 => (s.nv.area.at k).commit
  | 0xA04C => (s.nv.area.at k).resv
  | 0xA06C => s.nv.applied % 2 ^ 32
  | _ =>
    if 0xA080 ≤ off ∧ off < 0xA100 then
      let t := s.nv.txn.at (finOf 16 ((off % 0x80) / 8))
      if off % 8 = 0 then txnWord t else match t with | some x => x.next | none => 0
    else 0

/-- A counter's value for a core's LDR_CSEL (Table 15.11). -/
def State.ldrWord (s : State) (a : Agent) (off : Nat) : Nat :=
  match a.cpu with
  | none => 0
  | some c =>
    let k : CtrId := finOf 64 (s.rd (LDR_CSEL c))
    let r := s.nv.ring.at k
    match off with
    | 0xB014 => s.ctrVal k % 2 ^ 32
    | 0xB018 => s.ctrVal k / 2 ^ 32 % 2 ^ 32
    | 0xB01C => r.slots + 512 * b2n (s.ctrBound k) + 1024 * b2n r.suspect + 2048 * b2n r.noValid + 65536 * (r.base % 4096)
    | 0xB020 => (s.ctrSlot k).seq.toNat
    | _ => 0

/-- The sources tripped now. -/
def State.trips (s : State) : List SrcId := (finList 0x58).filter (fun n => (s.watch.src.at n).trip)

/-- WATCH_STAT and WATCH_SRCn ST (Table 17.9). -/
def State.watchWord (s : State) (off : Nat) : Nat :=
  if off = 0xC000 then
    Nat.min 255 s.trips.length + 256 * (s.trips.foldl (fun m n => Nat.max m (Resp.ofCode (s.rd (WATCH_RESP n))).code) 0)
  else if 0xC100 ≤ off ∧ off < 0xC680 ∧ off % 16 = 12 then
    let w := s.watch.src.at (finOf 0x58 ((off % 0x1000 - 0x100) / 16))
    b2n w.trip + 2 * b2n w.deta + 4 * b2n w.detb
  else 0

/-- CEL_TLOG and CEL_TLENTk (Table 17.9). -/
def State.celWord (s : State) (a : Agent) (off : Nat) : Nat :=
  if off = 0xD008 then s.cel.thead.toNat + 256 * s.cel.tlog.length
  else if 0xD014 ≤ off ∧ off < 0xD024 then
    match s.cel.tlog[s.rd (CEL_TLSEL a)]? with
    | some e => (Word.ofBytes (e.bytes.drop (off % 0x1000 - 0x14))).toNat
    | none => 0
  else 0

/-- The view of time that a core's latest load of TBS_TLO latched (R463); another agent sees the present instant. -/
def State.timeView (s : State) (a : Agent) : TimeView :=
  match a.cpu with
  | some c => s.tbs.view.at c
  | none => { hi := BitVec.ofNat 32 (s.tbs.mono / 2 ^ 32), sec := s.utcS, ns := s.utcNs % 1000000000, leap := s.tbs.leapNow,
              unk := s.timeUnk }

/-- TBS_OFFSET to TBS_UTCNS (Table 16.6). -/
def State.tbsWord (s : State) (a : Agent) (off : Nat) : Nat :=
  let v := s.timeView a
  match off with
  | 0xE004 => (s.tbs.off / 1000000000 % 4294967296).toNat
  | 0xE008 => s.tbs.mono % 2 ^ 32
  | 0xE00C => v.hi.toNat
  | 0xE010 => v.sec.toNat
  | 0xE014 => v.ns + 2 ^ 30 * b2n v.leap + 2 ^ 31 * b2n v.unk
  | _ => 0

/-- HLK_STAT (Table 7.6). -/
def State.hlkWord (s : State) (off : Nat) : Nat :=
  match off with
  | 0x10004 => b2n (match s.load with | some l => l.h6 | none => false) + 256 * s.outpend
  | _ => 0

/-- E20 and E21 replies in the present 60 s window (R131). -/
def State.probeCnt (s : State) : Nat := (s.con.probe.filter (fun t => decide (s.cel.elapsed < 60000000000 + t))).length

/-- What remains of the lock-out, in whole seconds rounded up (R137). -/
def State.lockWait (s : State) : Nat := ceilDiv (s.con.lockEnd - s.cel.elapsed) 1000000000

/-- CON waits for an applet. -/
def State.appletWaits (s : State) : Bool := match s.con.busy with | .applet _ _ _ => true | _ => false

/-- CON_STAT and CON_AUTH.WAIT (Table 4.11). -/
def State.conWord (s : State) (off : Nat) : Nat :=
  match off with
  | 0x11008 =>
    (match s.con.session with | some x => x.level + 8 | none => 0) + 16 * b2n s.con.held.isSome + 32 * b2n s.appletWaits +
      256 * Nat.min 7 s.probeCnt
  | 0x11014 => 65536 * s.lockWait
  | _ => 0

/-- HATCH_CTLn and HATCH_BELL (Tables 1.12, 1.13). -/
def State.hatchWord (s : State) (a : Agent) (off : Nat) : Nat :=
  if 0x13400 ≤ off ∧ off < 0x13440 then
    let n : Fin 16 := finOf 16 ((off % 0x400) / 4)
    let x := s.hatch.at n
    16 * x.st.code + 256 * x.dest.code + 4096 * (hatchSender n).code + 65536 * x.seq.toNat
  else if off = 0x13440 then
    (finList 16).foldl (fun m n => if s.belled a n then m + 2 ^ n.val else m) 0
  else 0

/-- The computed bits of a register. -/
def State.madeWord (s : State) (a : Agent) (off : Nat) : Nat :=
  if off < 0x1000 then s.sysWord off
  else if off < 0x2000 then 0
  else if off < 0x3800 then s.portWord (finOf 24 ((off % 0x2000) / 0x100)) (off % 0x100)
  else if off < 0x4000 then 0
  else if off < 0x4800 then s.queueWord (finOf 64 ((off % 0x4000) / 0x20)) (off % 0x20)
  else if off < 0x5000 then s.qfxWord a off
  else if off < 0x6000 then s.pkeWord off
  else if off < 0x7000 then s.symWord off
  else if off < 0x8000 then 0
  else if off < 0x9000 then s.vltWord off
  else if off < 0xA000 then s.strWord off
  else if off < 0xB000 then s.arcWord a off
  else if off < 0xC000 then s.ldrWord a off
  else if off < 0xD000 then s.watchWord off
  else if off < 0xE000 then s.celWord a off
  else if off < 0xF000 then s.tbsWord a off
  else if off < 0x10000 then 0
  else if off < 0x11000 then s.hlkWord off
  else if off < 0x12000 then s.conWord off
  else if off < 0x13000 then 0
  else s.hatchWord a off

/-! ## A register's word -/

/-- A port's registers that its function does not have read 0 (chapter 6): PAR words by Table 6.9, CNT0 and CNT1 by Table 6.10,
the GPIO outputs. -/
def State.portShown (s : State) (f : Field) : Nat :=
  let p : PortId := finOf 24 ((f.off % 0x2000) / 0x100)
  let fn := s.pfn p
  let none0 := fn == .off || fn == .gpio || fn == .spic || fn == .switch
  if 0x10 ≤ f.off % 0x100 ∧ f.off % 0x100 < 0x20 then
    s.shown f &&& parMask (PortFn.ofCode (s.shown (PORT_FUNC_FN p))).code (finOf 4 (f.off % 0x10 / 4))
  else if f == PORT_CNT0 p && none0 then 0
  else if f == PORT_CNT1 p && (none0 || fn == .pulseout) then 0
  else if (f == PORT_GPIO_OUTA p || f == PORT_GPIO_OUTB p) && fn != .gpio then 0
  else s.shown f

/-- FULL reads DROP_NEW where the policy is forced (R253). -/
def State.fieldShown (s : State) (f : Field) : Nat :=
  if 0x2000 ≤ f.off ∧ f.off < 0x3800 then s.portShown f
  else if 0x4000 ≤ f.off ∧ f.off < 0x4800 ∧ f.off % 0x20 = 0 ∧ f.lo = 16 then
    let q : QueueId := finOf 64 ((f.off % 0x4000) / 0x20)
    if s.shown f = 0 then b2n (s.dropNew q) else s.shown f
  else s.shown f

/-- What the register at an offset from 0x4000_0000 reads as for an agent, without the effects of a load. -/
def State.devWord (s : State) (a : Agent) (off : Nat) : Word :=
  let stored := (seenFields a off).foldl (fun n f => n + s.fieldShown f * 2 ^ f.lo) 0
  BitVec.ofNat 32 (stored + s.madeWord a off)

/-! ## A core's load (R4) -/

/-- RC fields clear. -/
def State.rcClear (s : State) (a : Agent) (off : Nat) : State :=
  ((seenFields a off).filter (fun f => f.acc == .rc)).foldl (fun s f => s.wr f 0) s

/-- The TBS interrupt ends with the core's load of TBS_STAT (log entry 38). -/
def State.tbsSeen (s : State) (c : CpuId) (off : Nat) : State :=
  if off = 0xE000 then s.wr (CPU_IPEND c) (s.rd (CPU_IPEND c) &&& 0xDFFF) else s

/-- The next state, where there is one. -/
def afterExec (o : Host.Outcome State Fault Refusal) (s : State) : State :=
  match o with
  | .next t => t
  | _ => s

/-- A core's load of a device register: its word stands in `rdata` afterwards. Loads with an effect of their own act as their
rows give. -/
def State.devLoad (s : State) (c : CpuId) (off : Nat) : State :=
  let a := c.agent
  if off = 0xE008 then afterExec (execTimeLatch c s) s
  else if off = 0x7008 then afterExec (execRngOutRead c s) s
  else if off = 0x8018 then afterExec (execVltWinAccess c none s) s
  else if 0x4000 ≤ off ∧ off < 0x4800 ∧ off % 0x20 = 0x0C then
    afterExec (execQueuePop c (finOf 64 ((off % 0x4000) / 0x20)) s) s
  else if 0x13000 ≤ off ∧ off < 0x13400 then
    afterExec (execHatchBodyAccess a (finOf 16 ((off % 0x400) / 0x40)) (finOf 16 (off % 0x40 / 4)) none s) s
  else ((s.loaded c (s.devWord a off)).rcClear a off).tbsSeen c off

/-- RC_READ (R4): a core's load of a register with an RC field. -/
def execRcRead (c : CpuId) (off : BitVec 20) (s : State) : Host.Outcome State Fault Refusal :=
  .next (s.byCore c (fun s => s.devLoad c (off.toNat - off.toNat % 4)))

end Sys2Proof.Machine
end

