-- ==== Sys2Proof/Machine/Report.lean ====
section
/-!
DEFINITION. Report.lean: what the show forms of the verbs say (spec/05_miand_verbs.md). Names and forms of fields that the
chapter leaves open are the model's (log entry 46).
-/
namespace Sys2Proof.Machine

/-! ## Texts -/

/-- UTC seconds with a Z. -/
def utcZ (sec : Nat) (leap : Bool) : List Byte := isoSec sec leap ++ [0x5A]

/-- The time of an entry, `unknown` where it was (R161). -/
def utcOr (unk leap : Bool) (sec : Nat) : List Byte := if unk then txt "unknown" else utcZ sec leap

/-- Texts joined by commas; "-" for none. -/
def commas : List (List Byte) → List Byte
  | [] => [0x2D]
  | [a] => a
  | a :: t => a ++ 0x2C :: commas t

/-- Trailing zeros of a fraction dropped, one digit kept. -/
def trimFrac (l : List Byte) : List Byte :=
  match (l.reverse.dropWhile (· == 0x30)).reverse with
  | [] => [0x30]
  | r => r

/-- Nanoseconds as decimal seconds. -/
def secText (ns : Nat) : List Byte := dec (ns / 1000000000) ++ 0x2E :: trimFrac (decN 9 (ns % 1000000000))

/-- A k-factor in sixteenths (R167). -/
def kText (k16 : Nat) : List Byte :=
  if k16 % 16 = 0 then dec (k16 / 16) else dec (k16 / 16) ++ 0x2E :: trimFrac (decN 4 (k16 % 16 * 625))

/-- A member of a list of names. -/
def nameOf (l : List String) (i : Nat) : List Byte := txt (l.getD i "-")

/-- Detectors in a DET byte (R161). -/
def detText (d : Nat) : List Byte :=
  commas ((if bitAt d 0 then [txt "A"] else []) ++ (if bitAt d 1 then [txt "B"] else []) ++ (if bitAt d 2 then [txt "STIM"] else []))

/-- The name of a source, or its ID where it has none. -/
def srcOr (n : Nat) : List Byte := if srcName n = [] then srcText8 n else srcName n

/-- Names of roles (Table 11.4) from code 1, and of types (Table 11.3). -/
def roleNames : List String :=
  ["FW_SIGN", "DEVICE_SIGN", "DEVICE_AGREE", "CA_PUBLIC", "RECORD_MAC", "SENSOR_PAIR", "CRED", "SESSION", "APP", "TOLL"]

def curveNames : List String := ["P256", "P384", "P521", "BP256", "BP384", "BP512"]

def typeText (t : Nat) : List Byte :=
  if t = 0x40 then txt "CRED"
  else if t = 0x7F then txt "CONT"
  else if vEcPriv t then txt "EC_PRIV_" ++ nameOf curveNames (t % 16)
  else if vEcPub t then txt "EC_PUB_" ++ nameOf curveNames (t % 16)
  else if vRsa t then txt "RSA_PUB" ++ dec (2048 + 1024 * (t % 16))
  else if t = 4 then txt "HMAC"
  else txt "AES" ++ dec (64 * (t + 1))

def roleText (r : Nat) : List Byte := nameOf roleNames (r - 1)

/-- Names of the port functions (Table 6.1) and of the claims (Table 6.2). -/
def fnNames : List String := ["OFF", "GPIO", "UART", "CARD", "SPIC", "DUAL", "PULSE", "PULSEOUT", "LOOP", "SWITCH", "PPS"]
def claimNames : List String :=
  ["NONE", "TDC", "PRBS", "C7816", "UART", "SPI", "PAIR", "ARMED", "PPS", "VCCEN", "FIXED", "MODE"]

def Region.text : Region → List Byte
  | .k => txt "K" | .c => txt "C" | .a0 => txt "A0" | .a1 => txt "A1"

/-! ## INFO, MODE, LINE, STAT -/

def State.infoText (s : State) : List Byte :=
  fld "part" (txt "VRT2412") ++ fld "uid" (hexN 16 Config.unitId.toNat) ++ fld "stage" s.stage.name ++ fld "epoch" (dec s.epoch) ++
    fld "mode" s.sys.mode.name ++ fld "fw" (dec (if s.isSet SYS_RISE_NOFW then 0 else s.rd (CPU_BOOT_VERSION 0))) ++
    fld "uc" (dec (s.rd PKE_UC_VER)) ++ fld "ctr3" (dec (s.ctrVal 3))

/-- The name of the pending mode. -/
def State.pendName (s : State) : List Byte := match Mode.ofCode s.pendCode with | some m => m.name | none => []

def State.modeText (s : State) : List Byte :=
  fld "mode" s.sys.mode.name ++ fld "pend" s.pendName ++ fld "prev" s.sys.prev.name

def State.echoText (s : State) : List Byte := fld "echo" (if s.echo then txt "ON" else txt "OFF")

def State.baudText (s : State) : List Byte := dec (bauds.getD (s.rd CON_LINE_BAUD) 0)

def State.statText (s : State) : List Byte :=
  fld "mode" s.sys.mode.name ++ fld "stage" s.stage.name ++ fld "time" s.srcText ++ fld "locked" (dec (s.rd CEL_FLAGS_LOCKED)) ++
    fld "holdsrc" (dec s.holdSrcCode) ++ fld "tamper" (dec (s.ctrVal 1)) ++ fld "tripped" (dec s.trips.length) ++
    fld "nofw" (dec (s.rd SYS_RISE_NOFW))

def State.statResetText (s : State) : List Byte :=
  let kind := s.rd SYS_RSTCAUSE_KIND
  let start := s.rd CEL_RSTSTART_UTC
  fld "kind" (nameOf ["COLD", "WARM", "CELLAR-LOSS", "ERASE"] kind) ++
    fld "why" (if kind = 1 then nameOf ["RST_N", "WATCHDOG0", "WATCHDOG1", "RESET", "RESPONSE", "UNLOCK"] (s.rd SYS_RSTCAUSE_WHY)
      else [0x2D]) ++
    fld "src" (hexN 2 (s.rd SYS_RSTCAUSE_SRC)) ++ fld "hold_start" (utcOr (start == 0) false start) ++
    fld "hold_ms" (dec (s.rd CEL_RSTDUR_MS))

def State.statRiseText (s : State) : List Byte :=
  let d := s.rd SYS_RISE_DUR
  fld "step" (dec (s.rd SYS_RISE_STEP)) ++ fld "fail" (dec (s.rd SYS_RISE_FAIL)) ++ fld "nofw" (dec (s.rd SYS_RISE_NOFW)) ++
    fld "nouc" (dec (s.rd SYS_RISE_NOUC)) ++ fld "shadowrw" (dec (s.rd SYS_RISE_SHADOWRW)) ++
    fld "replay" (dec (s.rd SYS_RISE_REPLAY)) ++ fld "dur_ms" (dec (d / 100) ++ 0x2E :: decN 2 (d % 100))

/-! ## LOG -/

def TlogEntry.row (e : TlogEntry) : List Byte :=
  dec e.seq ++ fld "utc" (utcOr e.unk false e.utc.toNat) ++ fld "src" (srcText8 e.src.toNat) ++ fld "name" (srcOr e.src.toNat) ++
    fld "det" (detText e.det.toNat) ++ fld "resp" e.acted.name

def State.tamperRows (s : State) (n : Nat) : List (List Byte) := (s.cel.tlog.take n).map TlogEntry.row

/-- Record types (R161) from 1, and EVENT codes (Table 18.6) from 1. -/
def atticNames : List String := ["TELE", "EVENT", "MODE", "TIME", "KEY", "IMAGE", "LIFE"]
def eventNames : List String :=
  ["WATCH", "CARE_RESTART", "STR_REPAIR", "PARAM_DEFAULT", "STR_ORPHAN", "UNLOCK", "REFRESH", "WEAR", "SECTOR_RETIRED"]

/-- One Attic record: a WATCH event shows its source, another record its kind. -/
def atticRow (l : List Byte) : List Byte :=
  let b (i : Nat) : Nat := (l.getD i 0).toNat
  let typ := b 0 % 16
  let utc := utcOr (bitAt (b 0) 4) (bitAt (b 0) 5) (leNat ((l.drop 4).take 4))
  let name := if typ = 2 then nameOf eventNames (b 8 - 1) else nameOf atticNames (typ - 1)
  let what := if typ = 2 ∧ b 8 = 1 then
      fld "src" (srcText8 (b 15)) ++ fld "name" (srcOr (b 15)) ++ fld "det" (detText (b 16)) ++ fld "resp" (Resp.ofCode (b 17 % 8)).name
    else fld "src" [0x2D] ++ fld "name" name ++ fld "det" [0x2D] ++ fld "resp" [0x2D]
  dec (leNat ((l.drop 2).take 2)) ++ fld "utc" utc ++ what ++ fld "type" (nameOf atticNames (typ - 1)) ++
    (if atticGood l then [] else fld "bad" (dec 1))

/-- The records that LOG ATTIC lists. -/
def State.atticList (s : State) (t : Option (Fin 8)) (n : Nat) : List (List Byte) :=
  ((s.atticOffs.map s.atticAt).filter (fun l =>
    match t with | some x => decide ((l.getD 0 0).toNat % 16 = x.val) | none => true)).take n

/-! ## COUNT, TICK, TIME, CAL -/

def State.ctrRow (s : State) (c : CtrId) : List Byte :=
  fld "ctr" (ctrText c) ++ fld "value" (dec (s.ctrVal c)) ++ fld "seq" (dec (s.ctrSlot c).seq.toNat) ++
    fld "slots" (dec (s.nv.ring.at c).slots)

/-- A row's first space dropped: a data line brings its own. -/
def asRow (l : List Byte) : List Byte := l.drop 1

def State.ctrRows (s : State) : List (List Byte) :=
  ((finList 64).filter (fun c => (s.nv.ring.at c).slots != 0)).map (fun c => asRow (s.ctrRow c))

def State.tickCfgText (s : State) : List Byte :=
  fld "per" (dec (s.period / 1000)) ++ fld "bgf" (dec (bgFloor (s.rd TICK_CFG_BGF)))

def State.tickText (s : State) : List Byte :=
  let n := s.rd TICK_FRAME_COUNT
  s.tickCfgText ++ fld "count" (dec n) ++ fld "gen" (dec (n % 256)) ++ fld "ovr" (dec (s.rd TICK_OVR_COUNT)) ++
    fld "skip" (dec (s.rd TICK_SKIP_COUNT))

def State.jobRows (s : State) : List (List Byte) :=
  ((finList 64).filter (fun j => s.isSet (TICK_JOB_VALID j) && (JobOwner.ofCode (s.rd (TICK_JOB_OWNER j))).isSome)).map (fun j =>
    asRow (fld "job" (dec j.val) ++ fld "owner" (nameOf ["CPU0", "CPU1", "PKE", "SYM", "STR", "ARC"] (s.rd (TICK_JOB_OWNER j))) ++
      fld "budget" (dec (s.rd (TICK_JOB_BUDGET j))) ++ fld "span" (dec (s.rd (TICK_JOB_SPAN j))) ++
      fld "period" (dec (s.rd (TICK_JOB_PERIOD j))) ++ fld "phase" (dec (s.rd (TICK_JOB_PHASE j))) ++
      fld "status" (nameOf ["NEVER", "DONE", "RUNNING", "PARKED", "OVERRUN", "CANCELLED", "SKIPPED"] (s.rd (TICK_JOB_STATUS j)))))

/-- The allowance left (R164). -/
def State.adjText (s : State) : List Byte := fld "adj" (secText (s.adjMaxNs - s.tbs.adjNs))

def State.timeText (s : State) : List Byte := fld "utc" s.utcText ++ fld "src" s.srcText ++ s.adjText

def State.tdcText (s : State) : List Byte := fld "tdc" (if s.rd TBS_STAT_TDCFAIL = 0 then txt "OK" else txt "FAIL")

/-- CAL: the RTC's rate error is a measured value. -/
def State.calText (s : State) : List Byte × State :=
  let (ppm, s1) := s.measure
  (fld "rtc_ppm" (ppmText ppm) ++ fld "age_ppb" (decInt s.age) ++ s.tdcText ++
    fld "last" (utcOr (s.tbs.calAt == 0) false s.tbs.calAt.toNat), s1)

/-! ## PORT, QUEUE, STORE -/

def State.claimText (s : State) (p : PortId) : List Byte :=
  fld "claim" (nameOf claimNames (s.rd (PORT_STAT_CLAIM p))) ++ fld "armed" (dec (s.rd (PORT_STAT_ARMED p)))

def State.fnText (s : State) (p : PortId) : List Byte :=
  fld "port" (portText p) ++ fld "fn" (nameOf fnNames (s.pfn p).code)

def State.portRows (s : State) : List (List Byte) := (finList 24).map (fun p => asRow (s.fnText p ++ s.claimText p))

/-- PORT Pn: the function's status fields follow (R168). -/
def State.portStatText (s : State) (p : PortId) : List Byte :=
  let x := s.port.at p
  s.fnText p ++ fld "stat" (hexN 8 (s.devWord .con (portOff p + 8)).toNat) ++ s.claimText p ++
    (match s.pfn p with
      | .dual => fld "disc" (dec (s.rd (PORT_STAT_DISC p))) ++ fld "val" (dec (s.rd (PORT_HARV_VAL p)))
      | .pulse => fld "pulses" (dec (s.rd (PORT_PCNT_PULSES p))) ++ fld "kmh" (dec (s.rd (PORT_SPEED_KMH p))) ++
          fld "valid" (dec (s.rd (PORT_SPEED_VALID p)))
      | .switch => fld "swa" (dec (s.rd (PORT_STAT_SWA p))) ++ fld "swb" (dec (s.rd (PORT_STAT_SWB p)))
      | .uart => fld "err" (dec (s.rd (PORT_CNT0 p))) ++ fld "ovr" (dec (s.rd (PORT_CNT1 p)))
      | .card => fld "pres" (dec (s.rd (PORT_STAT_PRES p))) ++ fld "active" (dec (s.rd (PORT_STAT_ACTIVE p)))
      | .pulseout => fld "rberr" (dec (s.rd (PORT_STAT_RBERR p)))
      | .loop => fld "cond" (bit01 x.cond) ++ fld "event" (dec (s.rd (PORT_STAT_EVENT p)))
      | .gpio | .pps | .spic => fld "lvla" (bit01 x.lvlA) ++ fld "lvlb" (bit01 x.lvlB)
      | .off => [])

def State.queueText (s : State) (q : QueueId) : List Byte :=
  let x := s.qfx.at q
  fld "q" (Machine.queueText q) ++ fld "pkts" (dec x.pkts) ++ fld "crates" (dec x.cratesShown) ++ fld "res" (dec (s.rd (QFX_RES q))) ++
    fld "quota" (dec (s.rd (QFX_QUOTA q))) ++ fld "owner" (nameOf ["CPU0", "CPU1", "HLK", "PORT", "RLY", "CARE"] (s.rd (QFX_OWNER q))) ++
    fld "full" (if s.dropNew q then txt "DROP_NEW" else txt "BLOCK") ++ fld "drops" (dec (s.rd (QFX_CNT_DROPS q))) ++
    fld "desync" (dec (s.rd (QFX_CNT_DESYNC q)))

def State.queueRows (s : State) : List (List Byte) :=
  ((finList 64).filter (fun q => (s.qfx.at q).held != 0)).map (fun q => asRow (s.queueText q))

def State.regionText (s : State) (name : String) (r : Region) : List Byte :=
  fld name (dec (s.strSize r) ++ 0x2F :: dec (s.strUsed r))

def State.storeText (s : State) : List Byte :=
  s.regionText "k" .k ++ s.regionText "c" .c ++ s.regionText "a0" .a0 ++ s.regionText "a1" .a1 ++ fld "h" (dec s.strH) ++
    fld "tj" (decInt ((s.rd STR_STAT_TJ : Int) - 64)) ++ fld "rate" (nameOf ["FULL", "HALF", "QUARTER", "KC16"] (s.rd STR_STAT_RATE)) ++
    fld "moves" (dec (s.rd STR_CNT_MOVES)) ++ fld "repairs" (dec (s.rd STR_CNT_REPAIRS))

/-- An answer of STORE FIND. -/
def State.findText (s : State) (a : SAns) : List Byte :=
  fld "idx" (dec a.index) ++ fld "res" (hexN 8 a.result.toNat) ++ fld "prio" (dec a.prio.toNat) ++
    fld "gen" (dec (s.rd TICK_FRAME_COUNT % 256)) ++
    fld "flags" (commas ((if a.multi then [txt "MULTI"] else []) ++ (if a.deny then [txt "DENY"] else []) ++
      (if a.none then [txt "NONE"] else [])))

/-! ## KEY -/

def idText (id : Word) : List Byte := hexN 8 id.toNat

def State.keyRow (i : Nat) (e : VEntry) : List Byte :=
  asRow (fld "idx" (dec i) ++ fld "id" (idText e.keyid) ++ fld "role" (roleText e.role.toNat) ++ fld "type" (typeText e.type.toNat) ++
    fld "use" (hexN 4 e.use.toNat) ++ fld "gen" (dec e.gen.toNat) ++
    fld "state" (nameOf ["EMPTY", "ACTIVE", "RETIRED", "REVOKED"] e.st.toNat) ++
    fld "pair" (if e.pair = 0xFF then [0x2D] else dec e.pair.toNat))

def State.keyRows (s : State) : List (List Byte) :=
  (s.vlt.ent.filter (fun e => e.2.st != 0)).map (fun e => State.keyRow e.1 e.2)

/-- Bytes in lines of 32. -/
def lines32 : Nat → List Byte → List (List Byte)
  | 0, _ => []
  | f + 1, l => if l = [] then [] else hexBytes (l.take 32) :: lines32 f (l.drop 32)

/-- The public head entry with a key ID, and whether any head has it. -/
def State.keyPublic (s : State) (id : Word) : Option Nat := (s.keyHeads id).find? (fun i => vPublic (s.vEnt i).type.toNat)

/-! ## WATCH, TELE, IMAGE, LIFE -/

def State.respText (s : State) (n : SrcId) : List Byte := fld "resp" (Resp.ofCode (s.rd (WATCH_RESP n))).name
def State.floorText (s : State) (n : SrcId) : List Byte := fld "floor" (Resp.ofCode (s.rd (WATCH_FLOOR n))).name
def State.filtText (s : State) (n : SrcId) : List Byte :=
  fld "filt" (dec (if srcSampled n.val then s.fieldShown (WATCH_FILT n) else 1))
def srcFld (n : SrcId) : List Byte := fld "src" (srcText8 n.val)

def State.watchRows (s : State) : List (List Byte) :=
  ((finList 0x58).filter (fun n => (s.watch.src.at n).trip || (srcPort n.val && s.isSet (WATCH_ARM n)))).map (fun n =>
    asRow (srcFld n ++ fld "name" (srcName n.val) ++ s.respText n ++ fld "tripped" (bit01 (s.watch.src.at n).trip) ++
      fld "armed" (dec (if srcPort n.val then s.rd (WATCH_ARM n) else 0))))

def State.watchText (s : State) (n : SrcId) : List Byte :=
  let x := s.watch.src.at n
  srcFld n ++ fld "name" (srcName n.val) ++ s.respText n ++ s.floorText n ++ s.filtText n ++ fld "tripped" (bit01 x.trip) ++
    fld "det_a" (bit01 x.deta) ++ fld "det_b" (bit01 x.detb) ++ fld "count" (dec (s.rd (WATCH_ST_COUNT n)))

/-- The fields of Table 18.7 in their order, one byte each, from byte `i` on. -/
def teleFlds (l : List Byte) : Nat → List String → List Byte
  | _, [] => []
  | i, n :: t => fld n (dec (l.getD i 0).toNat) ++ teleFlds l (i + 1) t

/-- The newest TELE record, decoded; a ring without one shows neither. -/
def State.teleText (s : State) : List Byte :=
  match s.teleRecs with
  | [] => fld "seq" [0x2D] ++ fld "utc" [0x2D]
  | l :: _ =>
    let b (i : Nat) : Nat := (l.getD i 0).toNat
    let w (i : Nat) : Nat := leNat ((l.drop i).take 2)
    fld "seq" (dec (w 2)) ++ fld "utc" (utcOr (bitAt (b 0) 4) (bitAt (b 0) 5) (leNat ((l.drop 4).take 4))) ++
      fld "tj" (decInt ((b 8 : Int) - 64)) ++ fld "tjmax" (decInt ((b 9 : Int) - 64)) ++ fld "vccmin" (dec (2000 + 10 * b 10)) ++
      fld "vbat" (dec (if b 11 = 0 then 0 else 2000 + 10 * b 11)) ++
      teleFlds l 12 ["ovr", "skip", "sram", "nv", "str", "qloss", "onsets"] ++ fld "status" (hexN 2 (b 19)) ++
      teleFlds l 20 ["fgload", "bgload"] ++ fld "arc" (dec (w 22)) ++ teleFlds l 24 ["ldr", "remask"] ++
      fld "ppserr" (dec (w 26)) ++ teleFlds l 28 ["conerr", "authf"]

def State.imageRows (s : State) : List (List Byte) :=
  [ImgKind.fw, .uc, .app].flatMap (fun k => (finList 2).map (fun n =>
    let x := s.nv.img.at (imgIdx k n)
    asRow (fld "slot" (slotName k n) ++ fld "kind" k.name ++ fld "ver" (dec x.ver.toNat) ++ fld "len" (dec x.len) ++
      fld "state" (s.slotState k n) ++ fld "max" (dec k.size))))

def State.lifeText (s : State) : List Byte :=
  fld "stage" s.stage.name ++ fld "epoch" (dec s.epoch) ++ fld "k" (dec (lifeK s.si.life)) ++
    fld "retired" (bit01 (s.si.life.getLsbD 12))

/-! ## HELP (R154) -/

/-- A form is permitted now: its mode and its level. -/
def State.formSeen (s : State) (v : Verb) : Bool := s.legal v && decide (s.formLevel v ≤ s.level)

def State.helpRows (s : State) : List (List Byte) :=
  VerbName.all.filterMap (fun n =>
    match n.forms.filter (fun f => s.formSeen f.1) with
    | [] => none
    | l => some (n.text ++ fld "forms" (commas (l.map (fun f => txt f.2.1))))) ++ s.rulesSeen.map Prod.fst

/-- The level, where it is not L0. -/
def helpLevel (l : Nat) : List Byte := if l = 0 then [] else fld "level" (levelText l)

def State.helpVerbRows (s : State) (n : VerbName) : List (List Byte) :=
  (n.forms.filter (fun f => s.formSeen f.1)).map (fun f =>
    txt f.2.2 ++ helpLevel (s.formLevel f.1) ++
      (match f.1 with
        | .timeAdj _ => fld "prot" (txt "beyond-allowance")
        | v => if s.formProt v then fld "prot" (txt "yes") else []))

def State.helpAppletRows (s : State) (name : List Byte) : List (List Byte) :=
  (s.rulesSeen.filter (fun e => e.1 == name)).map (fun e =>
    e.1 ++ helpLevel (ruleLevel e.2) ++ (if ruleProt e.2 then fld "prot" (txt "yes") else []))

end Sys2Proof.Machine
end

