-- ==== Sys2Proof/Machine/Writes.lean ====
section
/-!
DEFINITION. Writes.lean: what a write to a device register does: its access codes (R2, R18), the authority that a block's
own chapter adds, and the operation where the register commands one.
-/
namespace Sys2Proof.Machine

/-! ## Where a field is written -/

/-- The block is of the writer's plane, or a meeting point. -/
def ownBlock (a : Agent) (off : Nat) : Bool := planeOf off == a.plane || planeOf off == .meeting

/-- RWS fields that take effect at a tick boundary even in the writer's own plane: those of TICK (Table 2.7), the Store
Room's sizes (R344) and the area descriptors (R439). -/
def lateField (f : Field) : Bool :=
  (decide (0x1000 ≤ f.off) && decide (f.off < 0x2000)) || f == STR_CFG_H || f.off == 0x9004 || f.off == 0x9008 ||
  (decide (0xA020 ≤ f.off) && decide (f.off < 0xA040))

/-- CEL_TLSEL.IDX selects only what its writer reads (R18). -/
def isSelector (f : Field) : Bool := f.off == 0xD010

/-- R18 admits a write to a field of another plane's block. -/
def admitted (f : Field) : Bool :=
  match writeCode f with
  | .rwt | .rws | .w1c => true
  | .rw => isSelector f
  | _ => false

/-- Registers with fields that the part computes (Regs.lean), none of which a write reaches; POP and RNG's outputs are among
them. -/
def madeReg (off : Nat) : Bool :=
  [0x000, 0x008, 0x4800, 0x4808, 0x480C, 0x5004, 0x6004, 0x7008, 0x7010, 0x8050, 0x8054, 0x9010, 0x9014, 0x9018, 0xA004,
    0xA044, 0xA048, 0xA04C, 0xA06C, 0xB014, 0xB018, 0xB01C, 0xB020, 0xC000, 0xD008, 0xE004, 0xE008, 0xE00C, 0xE010, 0xE014,
    0x10004, 0x11008, 0x11014].contains off ||
  (decide (0x4000 ≤ off) && decide (off < 0x4800) && (off % 0x20 == 0x0C || off % 0x20 == 0x14 || off % 0x20 == 0x18)) ||
  (decide (0xA080 ≤ off) && decide (off < 0xA100)) || (decide (0xD014 ≤ off) && decide (off < 0xD024))

/-- The fields of a register under R18: the writer's view, or, where it has no copy of its own, that of a core. -/
def ruledFields (a : Agent) (off : Nat) : List Field := if fieldsAt a off = [] then fieldsAt .cpu0 off else seenFields a off

/-- A write of the register by an agent is one that R18 ignores with MISUSE. -/
def foreignWrite (a : Agent) (off : Nat) : Bool :=
  !ownBlock a off && (madeReg off || (ruledFields a off).any (fun f => !admitted f))

/-! ## Shadow writes (R2, R5) -/

/-- A write that waits for the boundary; the last one to a field stands, at its own place in the order of arrival. -/
def State.waitPut (s : State) (a : Agent) (f : Field) (v : Nat) : State :=
  { s with shadow := s.shadow.filter (fun w => w.fld != f) ++ [{ agent := a, fld := f, val := BitVec.ofNat 32 v }] }

/-! ## Authority -/

/-- What becomes of a write to one field. -/
inductive Grant where
  | ok
  | ignored
  /-- ignored, with an error field set to a code. -/
  | error (f : Field) (v : Nat)
deriving DecidableEq, Repr

/-- FIT, SERVICE and WORKSHOP. -/
def Mode.setup : Mode → Bool
  | .fit | .service | .workshop => true
  | _ => false

/-- A core's write to a WATCH or CEL field (R484, R491, R493). -/
def State.watchGrant (s : State) (f : Field) (v : Nat) : Grant :=
  let n : SrcId := finOf 0x58 ((f.off % 0x1000 - 0x100) / 16)
  let fit := s.sys.mode == .fit && s.stage == .fit
  let floor := s.rd (WATCH_FLOOR n)
  if f.acc == .w1c || isSelector f then .ok
  else if f.acc == .rws then
    if !fit then .error WATCH_ERR_MODE 1
    else if f == WATCH_FLOOR n && decide ((Resp.ofCode v).code < (Resp.ofCode floor).code) then .error WATCH_ERR_FLOOR 1
    else if f == WATCH_ESCRESP n && decide ((Resp.ofCode v).code < (Resp.ofCode floor).code) then .error WATCH_ERR_FLOOR 1
    else .ok
  else if f == WATCH_ARM n && !srcPort n.val then .ignored
  else if f == WATCH_FILT n && !srcSampled n.val then .ignored
  else if f == WATCH_ARM n && v == 0 then
    if s.shown f = 0 then .ignored else if s.sys.mode = .fit then .ok else .error WATCH_ERR_MODE 1
  else if !s.sys.mode.setup then .error WATCH_ERR_MODE 1
  else if f == WATCH_RESP n && decide ((Resp.ofCode v).code < (Resp.ofCode floor).code) then .error WATCH_ERR_FLOOR 1
  else .ok

/-- A core's write to a port's configuration (R186). -/
def State.portGrantWrite (s : State) (f : Field) : Grant :=
  let p : PortId := finOf 24 ((f.off % 0x2000) / 0x100)
  if s.rwsOpen || !(portCfgFields p).contains f then .ok
  else if s.isSet (PORT_FUNC_FIX p) then .error (PORT_STAT_CLAIM p) 10
  else if f == PORT_PAR p 1 && s.shown (PORT_FUNC_FN p) == 6 && s.sys.mode != .fit && s.sys.mode != .workshop then
    .error (PORT_STAT_CLAIM p) 11
  else .ok

/-- The policy is forced while the queue's port runs PULSE or PPS (R253). -/
def State.fullForced (s : State) (q : QueueId) : Bool :=
  let fn := s.pfn (finOf 24 (q.val / 2))
  decide (q.val < 48) && q.val % 2 == 0 && (fn == .pulse || fn == .pps)

/-- What becomes of a core's write to a field. -/
def State.grant (s : State) (f : Field) (v : Nat) : Grant :=
  if 0xC000 ≤ f.off ∧ f.off < 0xE000 then s.watchGrant f v
  else if 0x2000 ≤ f.off ∧ f.off < 0x3800 then s.portGrantWrite f
  else if 0x4000 ≤ f.off ∧ f.off < 0x4800 then
    let q : QueueId := finOf 64 ((f.off % 0x4000) / 0x20)
    if f == QFX_FULL q && s.fullForced q then .ignored else .ok
  else if f == TBS_LEAP_DAY || f == TBS_LEAPCTL_DIR || f == TBS_LEAPCTL_TAI then
    if s.sys.mode.setup then .ok else .ignored
  else .ok

/-! ## One field -/

/-- Marks that show a waiting change (R48, R373). -/
def State.waitMark (s : State) (f : Field) (v : Nat) : State :=
  if f == TICK_CFG_PER && v != s.rd f then s.setb TICK_STAT_PERPEND
  else if f == PKE_SHELFCFG_LEN && v != s.rd f then s.setb PKE_STAT_SHELFPEND
  else s

/-- A W1C field: each 1 clears its bit; DISC clears under its own condition (R211). -/
def State.w1c (s : State) (f : Field) (v : Nat) : State :=
  let p : PortId := finOf 24 ((f.off % 0x2000) / 0x100)
  if f = PORT_STAT_DISC p then if v = 0 then s else (s.discClear p).2
  else s.wr f ((s.rd f) &&& (2 ^ f.width - 1 - v))

/-- A value reaches a field by its access code. -/
def State.fieldPut (s : State) (a : Agent) (f : Field) (v : Nat) : State :=
  match writeCode f with
  | .rwt => (s.waitPut a f v).waitMark f v
  | .rws =>
    if !s.rwsOpen then s
    else if ownBlock a f.off && !lateField f then s.wr f v
    else (s.waitPut a f v).waitMark f v
  | .w1c => s.w1c f v
  | .rw => if ownBlock a f.off || isSelector f then s.wr f v else s
  | _ => s

/-- One field of a word written by an agent. -/
def State.fieldWrite (s : State) (a : Agent) (f : Field) (word : Word) : State :=
  let v := bits word.toNat f.lo f.width
  match a.cpu with
  | none => s.fieldPut a f v
  | some _ =>
    match s.grant f v with
    | .ok => s.fieldPut a f v
    | .ignored => s
    | .error e x => s.wr e x

/-- A word written to a register that commands nothing. MISUSE comes last. -/
def State.plainWrite (s : State) (a : Agent) (off : Nat) (v : Word) : State :=
  let cx := decide (0x2000 ≤ off) && decide (off < 0x3800) && decide (0x40 ≤ off % 0x100) && decide (off % 0x100 ≤ 0x60) &&
    decide (a ≠ .con)
  let other := match a.cpu with
    | some c => decide (0xF000 ≤ off) && decide (off < 0xF200) && s.rlyOthers c (finOf 8 (off % 0x200 / 0x40))
    | none => false
  if cx || other then s.misuse
  else
    let s1 := (seenFields a off).foldl (fun s f => s.fieldWrite a f v) s
    if foreignWrite a off then s1.misuse else s1

/-! ## Registers that command an operation -/

/-- A Hatch slot command of an agent (Table 1.12). -/
def State.hatchCmd (s : State) (a : Agent) (n : Fin 16) (cmd : Nat) : State :=
  match cmd with
  | 1 => afterExec (execClaim a n s) s
  | 2 => afterExec (execRing a n s) s
  | 3 => afterExec (execAbandon a n s) s
  | 4 => afterExec (execTake a n s) s
  | 5 => afterExec (execDone a n s) s
  | _ => s

/-- VLT_CMD of a core (Table 11.11). -/
def State.vltCmd (s : State) (c : CpuId) (v : Word) : State :=
  let i : Byte := BitVec.ofNat 8 (bits v.toNat 8 8)
  match bits v.toNat 0 4 with
  | 1 => afterExec (execVltStore c s) s
  | 2 => afterExec (execVltRead c i s) s
  | 3 => afterExec (execVltRetire c i s) s
  | 4 => afterExec (execVltRevoke c i s) s
  | 5 => afterExec (execVltZeroize c i s) s
  | 6 => afterExec (execVltLookup c s) s
  | 7 => afterExec (execVltDeny c s) s
  | 8 => afterExec (execVltUndeny c s) s
  | 9 => afterExec (execVltUnany c i s) s
  | 10 => afterExec (execVltClear c s) s
  | 11 => afterExec (execVltGenCmd c s) s
  | _ => s

/-- ARC_TCMD of a core (Table 15.14). -/
def State.arcTcmd (s : State) (c : CpuId) (v : Word) : State :=
  let w := v.toNat
  let t : Fin 16 := finOf 16 (bits w 4 4)
  let k : Fin 8 := finOf 8 (bits w 8 3)
  match bits w 0 3 with
  | 1 => afterExec (execArcOpen c t k (finOf 32 (bits w 16 5)) s) s
  | 2 => afterExec (execArcCtr c t (finOf 64 (bits w 24 6)) s) s
  | 3 => afterExec (execArcCommit c t s) s
  | 4 => afterExec (execArcAbort c t s) s
  | 5 => afterExec (execArcTrim c k s) s
  | _ => s

/-- QFX_Qn_CMD of a core (Table 8.5). -/
def State.queueCmd (s : State) (c : CpuId) (q : QueueId) (cmd : Nat) : State :=
  match cmd with
  | 1 => afterExec (execMark c q s) s
  | 2 => afterExec (execRewind c q s) s
  | 3 => afterExec (execRelease c q s) s
  | 4 => afterExec (execFlush c q s) s
  | _ => s

/-- RLY_Sn_CMD of a core (Table 9.7). -/
def State.relayCmd (s : State) (c : CpuId) (n : Fin 8) (cmd : Nat) : State :=
  match cmd with
  | 1 => afterExec (execRlyOpen c n s) s
  | 2 => afterExec (execRlyAbort c n s) s
  | 3 => afterExec (execRlyDropsrc c n s) s
  | 4 => afterExec (execRlyFree c n s) s
  | _ => s

/-- PORTn_CARDCMD of a core (Table 6.8). -/
def State.cardCmd (s : State) (c : CpuId) (p : PortId) (cmd : Nat) : State :=
  match cmd with
  | 1 => afterExec (execActivate c p s) s
  | 2 => afterExec (execDeactivate c p s) s
  | 3 => afterExec (execCardWarmReset c p s) s
  | _ => s

/-- LDR_RCFG of a core (Table 15.11). -/
def State.ringCmd (s : State) (c : CpuId) (v : Word) : State :=
  let s1 := s.plainWrite c.agent 0xB030 v
  if bitAt v.toNat 31 then
    afterExec (execRingConfig c (finOf 64 (s1.rd (LDR_RCFG_CTR c))) (finOf 512 (s1.rd (LDR_RCFG_SLOTS c))) s1) s1
  else s1

/-- A core's write to a register that commands an operation; none for every other register. -/
def State.coreCommand (s : State) (c : CpuId) (off : Nat) (v : Word) : Option State :=
  let w := v.toNat
  if off = 0x100C then some (afterExec (execTickKick c.agent 0 v s) s)
  else if off = 0x1010 then some (afterExec (execTickKick c.agent 1 v s) s)
  else if off = 0x1014 then some (afterExec (execTickDone c (finOf 64 w) s) s)
  else if 0x2000 ≤ off ∧ off < 0x3800 ∧ off % 0x100 = 0x38 then
    some (s.cardCmd c (finOf 24 ((off % 0x2000) / 0x100)) (w % 4))
  else if 0x4000 ≤ off ∧ off < 0x4800 ∧ off % 0x20 = 0x08 then
    some (s.queueCmd c (finOf 64 ((off % 0x4000) / 0x20)) (w % 8))
  else if 0x4000 ≤ off ∧ off < 0x4800 ∧ off % 0x20 = 0x10 then
    some (afterExec (execQueuePush c (finOf 64 ((off % 0x4000) / 0x20)) v s) s)
  else if off = 0x5030 then
    some (if w % 4 = 1 then s.pkeGo c else if w % 4 = 2 then afterExec (execPkeAbort c s) s else s)
  else if off = 0x6040 then
    some (if w % 4 = 1 then s.symGo c else if w % 4 = 2 then afterExec (execSymAbort c s) s else s)
  else if off = 0x8000 then some (s.vltCmd c v)
  else if off = 0x8018 then some (afterExec (execVltWinAccess c (some v) s) s)
  else if off = 0x9054 then some (if bitAt w 8 then afterExec (execCoreSearch c (Region.ofCode (w % 4)) s) s else s)
  else if off = 0x90B0 then
    some (if w % 4 = 1 then afterExec (execStrWrite c s) s else if w % 4 = 2 then afterExec (execStrInvalidate c s) s else s)
  else if off = 0xA060 then some (s.arcTcmd c v)
  else if off = 0xB028 then some (afterExec (execCounterIncrement c (finOf 64 w) s) s)
  else if off = 0xB030 then some (s.ringCmd c v)
  else if off = 0xB034 then some (afterExec (execParamSave c (finOf 8 w) s) s)
  else if 0xF000 ≤ off ∧ off < 0xF200 ∧ off % 0x40 = 0 then
    some (s.relayCmd c (finOf 8 ((off % 0x1000) / 0x40)) (w % 8))
  else none

/-- A write of the device register at an offset. -/
def State.devStore (s : State) (a : Agent) (off : Nat) (v : Word) : State :=
  if 0x13000 ≤ off ∧ off < 0x13400 then
    afterExec (execHatchBodyAccess a (finOf 16 ((off % 0x400) / 0x40)) (finOf 16 (off % 0x40 / 4)) (some v) s) s
  else if 0x13400 ≤ off ∧ off < 0x13440 then
    (s.plainWrite a off v).hatchCmd a (finOf 16 ((off % 0x400) / 4)) (v.toNat % 8)
  else match a.cpu with
    | some c => (s.coreCommand c off v).getD (s.plainWrite a off v)
    | none =>
      let q : QueueId := finOf 64 ((off % 0x4000) / 0x20)
      if 0x4000 ≤ off ∧ off < 0x4800 ∧ off % 0x20 = 0x08 then s.qCmdBy a q (v.toNat % 8)
      else if 0x4000 ≤ off ∧ off < 0x4800 ∧ off % 0x20 = 0x10 then s.qPush a q v
      else s.plainWrite a off v

end Sys2Proof.Machine
end

