-- ==== Sys2Proof/Machine/Auth.lean ====
section
/-!
DEFINITION. Auth.lean: challenges, answers and sessions (spec/04_miand_language.md, R132 to R138).
-/
namespace Sys2Proof.Machine

/-- An ACTIVE CRED entry with key ID 4 stands (Table 4.7). -/
def State.fitterKey (s : State) : Bool := s.vlt.ent.any (fun e => e.2.st == 1 && e.2.role == 7 && e.2.keyid == 4)

/-- The answer is checked against the unit credential (Table 4.7). -/
def State.unitKey (s : State) (c : Chal) : Bool :=
  c.level == 5 || (c.level == 3 && c.mode == .erased) || (c.level == 4 && !s.fitterKey)

/-- The 22 bytes of Table 4.8. -/
def Chal.message (c : Chal) : List Byte :=
  txt "AUTH" ++ [BitVec.ofNat 8 c.level, BitVec.ofNat 8 c.mode.code] ++ beBytes 8 Config.unitId.toNat ++ beBytes 8 c.bytes.toNat

/-- The answer a key gives (R134). -/
def Chal.answer (c : Chal) (key : List Byte) : BitVec 64 := BitVec.ofNat 64 (beNat ((cmac key c.message).take 8))

/-- A failure is counted (R136, R137): CTR4, FAILS, the lock-out, and the save of group 4. -/
def State.authCount (s : State) : State :=
  let s1 := (s.ctrAuto 4 1).bump CON_AUTH_FAILS
  let s2 := { s1 with con := { s1.con with lockEnd := s1.cel.elapsed + 1000000000 * authWait (s1.rd CON_AUTH_FAILS) } }
  (s2.tele (fun p => { p with authf := p.authf + 1 })).paramAuto 4

/-- A wrong, late or malformed answer (R136). -/
def State.authFail (s : State) (tag : Option Byte) : State := s.authCount.replyErr tag 21

/-- A session opens in place of any earlier one; a WORKSHOP or INSPECT that the earlier one entered depends on the new one. -/
def State.sessionOpen (s : State) (level : Nat) : State :=
  let e := match s.con.session with | some x => x.entered | none => false
  { s with con := { s.con with session := some { level := level, entered := e } } }

/-- A correct answer (R136, R137). -/
def State.authOk (s : State) (tag : Option Byte) (level : Nat) : State :=
  let s1 := if s.rd CON_AUTH_FAILS = 0 then s else (s.wr CON_AUTH_FAILS 0).paramAuto 4
  (s1.sessionOpen level).replyOk tag (fld "level" (levelText level))

/-- An answer judged under a key. -/
def State.authJudge (s : State) (tag : Option Byte) (c : Chal) (h : BitVec 64) (key : List Byte) : State :=
  if c.answer key = h then s.authOk tag c.level else s.authFail tag

/-- CON waits for the boundary with an answer whose key is a CRED entry (R133). -/
def State.authWaits (s : State) (tag : Option Byte) (c : Chal) (h : BitVec 64) : State :=
  let s1 := ((s.waitPut .con (VLT_LK0_ID .con) c.level).waitPut .con (VLT_LK1_ROLE .con) 7).waitPut .con (VLT_LK1_OP .con) 6
  { s1 with con := { s1.con with chal := some c, busy := .commit tag (.authResp h) .waiting } }

/-- An answer: the unit credential decides at once, a CRED entry at the next boundary. -/
def State.authAnswer (s : State) (tag : Option Byte) (c : Chal) (h : BitVec 64) : State :=
  if s.unitKey c then s.authJudge tag c h (beBytes 32 Config.unitCred.toNat) else s.authWaits tag c h

/-- The names of the Vault status codes (Table 11.8). -/
def vltName (code : Nat) : List Byte :=
  nameOf ["OK", "ABSENT", "DENIED", "VANISHED", "CORRUPT", "MODE", "ROLE", "TYPE", "LEN", "FULL", "DUP", "RANGE", "POINT", "BUSY",
    "INDEX", "SHADOW", "LOCKED", "KEYID", "KFULL", "KREFUSED"] code

/-- A failed lookup at the console (R333); it counts as no AUTH failure. -/
def State.lookErr (s : State) (tag : Option Byte) (code : Nat) : State :=
  if code = 16 then s.replyErr tag 60
  else if code = 13 then s.replyErr tag 22
  else s.replyErr tag 40 (0x20 :: vltName code)

/-- CON's Vault command is still under way. -/
def State.vltRuns (s : State) : Bool :=
  s.rd (VLT_STAT_STATE .con) == 1 || s.vlt.jobs.any (fun j => decide (j.req = VReq.agent .con))

/-- Once the lookup has its outcome the answer is judged. -/
def State.authLooked (s : State) : State :=
  match s.con.busy, s.con.chal with
  | .commit tag (.authResp h) .issued, some c =>
    if s.vltRuns then s else
    let s1 := { s with con := { s.con with chal := none } }
    if s1.rd (VLT_STAT_CODE .con) = 0 then s1.authJudge tag c h (s1.vValue (s1.rd (VLT_LKRES_IDX .con)))
    else s1.lookErr tag (s1.rd (VLT_STAT_CODE .con))
  | _, _ => s

/-- CON's lookup starts at a boundary, its registers committed (R133); it takes its turn among the Vault's writers (R322). -/
def State.authBoundary (s : State) : State :=
  match s.con.busy with
  | .commit _ (.authResp _) .waiting => ((s.vQueue [s.vStagedCmd .con 6 0]).commitTo .issued).authLooked
  | .commit _ (.authResp _) .issued => s.authLooked
  | _ => s

/-- What refuses an answer before it is looked at: at step 7 the lack of a challenge (R158) and what `bad` names (R135), in
execution the lock-out and hold-off (R137). -/
def State.authGate (s : State) (tag : Option Byte) (ch : Option Chal) (bad : Chal → Option (List Byte))
    (f : Chal → State → State) : State :=
  match ch with
  | none => s.replyErr tag 12
  | some c => match bad c with
    | some d => s.replyErr tag 12 d
    | none =>
      if s.lockWait ≠ 0 then s.replyErr tag 22 (fld "wait" (dec s.lockWait))
      else if s.holdoff then s.replyErr tag 22 (fld "holdoff" (dec 1))
      else f c s

/-- AUTH Ln (R134); without random numbers E22 (R415). -/
def State.doAuthLevel (s : State) (tag : Option Byte) (level : Nat) : State :=
  if s.lockWait ≠ 0 then s.replyErr tag 22 (fld "wait" (dec s.lockWait))
  else if s.rngBlocked then s.replyErr tag 22
  else
    let (w, s1) := s.drbgWords 2
    let b := BitVec.ofNat 64 (2 ^ 32 * (w.getD 0 0).toNat + (w.getD 1 0).toNat)
    let s2 := { s1 with con := { s1.con with chal := some { level := level, mode := s1.sys.mode, bytes := b } } }
    s2.replyOk tag (fld "CHAL" (hexN 16 b.toNat))

/-- AUTH RESP=h; `none` for a malformed answer. -/
def State.doAuthResp (s : State) (tag : Option Byte) (ch : Option Chal) (h : Option (BitVec 64)) : State :=
  s.authGate tag ch (fun _ => none) (fun c s =>
    match h with
    | none => s.authFail tag
    | some h => if c.late then s.authFail tag else s.authAnswer tag c h)

/-- The command APDU of AUTH CARD (R135). -/
def Chal.apdu (c : Chal) : List Byte := [0x80, 0x5A, 0x00, BitVec.ofNat 8 c.level, 0x16] ++ c.message ++ [0x08]

/-- CON writes the exchange registers of a port (R208). -/
def State.cxPut (s : State) (p : PortId) (l : List Byte) : State :=
  let s1 := (finList 8).foldl (fun s k => s.waitPut .con (PORT_CXCMD p k) (Word.ofBytes (l.drop (4 * k.val))).toNat) s
  (s1.waitPut .con (PORT_CXCTL_LEN p) l.length).waitPut .con (PORT_CXCTL_GO p) 1

/-- AUTH CARD=Pn (R135). -/
def State.doAuthCard (s : State) (tag : Option Byte) (ch : Option Chal) (p : PortId) : State :=
  s.authGate tag ch (fun c =>
    if s.pfn p ≠ .card ∨ !s.isSet (PORT_STAT_PRES p) ∨ s.unitKey c then some (argDetail "CARD") else none) (fun c s =>
    if c.late then s.authFail tag
    else
      let s1 := s.cxPut p c.apdu
      { s1 with con := { s1.con with busy := .card tag p c } })

/-- The response bytes of a console exchange. -/
def State.cxResponse (s : State) (p : PortId) : List Byte :=
  ((finList 4).flatMap (fun k => Word.bytes (BitVec.ofNat 32 (s.rd (PORT_CXRSP p k))))).take (s.rd (PORT_CXSTAT_RLEN p))

/-- AUTH_CARD_RESPONSE (R135): 8 bytes and 90 00 are an answer; anything else, or none within 1 s, is a failure. -/
def State.authCardEnds (s : State) : State :=
  match s.con.busy with
  | .card tag p c =>
    if s.shadow.any (fun w => w.fld == PORT_CXCTL_GO p) then s
    else
      let l := s.cxResponse p
      if s.rd (PORT_CXSTAT_STATE p) = 2 ∧ l.length = 10 ∧ l.drop 8 = [0x90, 0x00] then
        s.authWaits tag c (BitVec.ofNat 64 (beNat (l.take 8)))
      else s.authFail tag
  | _ => s

/-- LOGOUT (R159). -/
def State.doLogout (s : State) (tag : Option Byte) : State :=
  let s1 := s.sessionEnd ""
  { s1 with con := { s1.con with held := none } }.replyOk tag (fld "level" (levelText 0))

end Sys2Proof.Machine
end

