-- ==== Sys2Proof/Machine/Grammar.lean ====
section
/-!
DEFINITION. Grammar.lean: the tokens of a console line and the form it gives with its arguments
(spec/04_miand_language.md, R113 to R125; spec/05_miand_verbs.md, R148, R149).
-/
namespace Sys2Proof.Machine

/-! ## Names -/

/-- Letters, digits and "_". -/
def nameChar (b : Byte) : Bool :=
  inRange 0x41 0x5A b.toNat || inRange 0x30 0x39 b.toNat || b == 0x5F

/-- An applet verb's name: a dot and 1 to 15 characters (Table 4.2), as it stands in uppercase. -/
def appletName (l : List Byte) : Option (List Byte) :=
  match l.map up with
  | 0x2E :: t => if inRange 1 15 t.length && t.all nameChar then some (0x2E :: t) else none
  | _ => none

/-! ## Tokens (Table 4.2) -/

/-- The tokens of a line: what is separated by one or more spaces; `w` is the token in progress. -/
def tokens : List Byte → List Byte → List (List Byte)
  | w, [] => if w = [] then [] else [w]
  | w, b :: t => if b = 0x20 then (if w = [] then tokens [] t else w :: tokens [] t) else tokens (w ++ [b]) t

/-- A hex digit, in either case. -/
def hexVal (b : Byte) : Option Nat :=
  let n := (up b).toNat
  if inRange 0x30 0x39 n then some (n - 0x30) else if inRange 0x41 0x46 n then some (n - 0x37) else none

/-- A decimal digit. -/
def decVal (b : Byte) : Option Nat := if inRange 0x30 0x39 b.toNat then some (b.toNat - 0x30) else none

/-- The number that digits of a base give, most significant first. -/
def digits (base : Nat) (f : Byte → Option Nat) : Nat → List Byte → Option Nat
  | a, [] => some a
  | a, b :: t => match f b with
    | some d => digits base f (base * a + d) t
    | none => none

/-- A hex number of `lo` to `hi` digits. -/
def parseHex (lo hi : Nat) (l : List Byte) : Option Nat := if inRange lo hi l.length then digits 16 hexVal 0 l else none

/-- A decimal number without a sign (R149). -/
def parseDec (l : List Byte) : Option Nat := if l = [] then none else digits 10 decVal 0 l

/-- A well-formed tag, and a well-formed check. -/
def parseTag : List Byte → Option Byte
  | 0x40 :: h => (parseHex 2 2 h).map (BitVec.ofNat 8)
  | _ => none
def parseCheck : List Byte → Option Nat
  | 0x2A :: h => parseHex 4 4 h
  | _ => none

/-- An argument: its name in uppercase, and its value as received (R116). -/
abbrev LineArg := List Byte × List Byte

/-- name=value (Table 4.2). -/
def parseArg (l : List Byte) : Option LineArg :=
  let n := l.takeWhile (· != 0x3D)
  let v := l.drop (n.length + 1)
  if inRange 1 16 n.length && (n.map up).all nameChar && inRange 1 128 v.length && n.length < l.length then some (n.map up, v)
  else none

/-- A noun: neither an argument nor a tag or a check. -/
def isNoun (l : List Byte) : Bool :=
  inRange 1 32 l.length && l.all (· != 0x3D) && l.head? != some 0x40 && l.head? != some 0x2A

/-- A letter. -/
def isLetter (b : Byte) : Bool := inRange 0x41 0x5A (up b).toNat

/-- A line taken apart. -/
structure Raw where
  /-- the verb in uppercase; an applet verb's name with its dot. -/
  verb : List Byte
  /-- the nouns in uppercase; only four forms have a second one. -/
  nouns : List (List Byte)
  args : List LineArg
  tag : Option Byte
  check : Option Nat
deriving DecidableEq, Repr

/-- The check, where the last token is one: the tokens before it and the check; none where it is malformed. -/
def takeCheck (l : List (List Byte)) : Option (List (List Byte) × Option Nat) :=
  match l.getLast? with
  | some t => if t.head? = some 0x2A then (parseCheck t).map (fun c => (l.dropLast, some c)) else some (l, none)
  | none => some (l, none)

/-- The tag, likewise. -/
def takeTag (l : List (List Byte)) : Option (List (List Byte) × Option Byte) :=
  match l.getLast? with
  | some t => if t.head? = some 0x40 then (parseTag t).map (fun c => (l.dropLast, some c)) else some (l, none)
  | none => some (l, none)

/-- The verbs of which a form has a second bare word (R162, R168, R169, R174). -/
def twoNouns (verb : List Byte) : Bool := ["COUNT", "PORT", "QUEUE", "TELE"].any (fun v => txt v == verb)

/-- The tokens after the verb: nouns, then arguments. -/
def parseRest (verb : List Byte) (l : List (List Byte)) : Option (List (List Byte) × List LineArg) :=
  let ns := l.takeWhile isNoun
  let rest := l.drop ns.length
  let args := rest.filterMap parseArg
  if args.length = rest.length ∧ (ns.length ≤ 1 ∨ (ns.length = 2 ∧ twoNouns verb)) then some (ns.map (·.map up), args) else none

/-- A verb: letters only, or an applet verb's name. -/
def parseVerb (l : List Byte) : Option (List Byte) :=
  if l ≠ [] ∧ l.all isLetter then some (l.map up) else appletName l

/-- A line by Table 4.2; none for E10. -/
def parseLine (l : List Byte) : Option Raw :=
  match takeCheck (tokens [] l) with
  | none => none
  | some (l1, c) =>
    match takeTag l1 with
    | none => none
    | some (l2, t) =>
      match l2 with
      | [] => none
      | v :: rest =>
        match parseVerb v with
        | none => none
        | some verb => (parseRest verb rest).map (fun r => ⟨verb, r.1, r.2, t, c⟩)

/-- The tag that an E10 reply carries (R121). -/
def e10Tag (l : List Byte) : Option Byte :=
  match (tokens [] l).reverse with
  | [] => none
  | [a] => parseTag a
  | a :: b :: _ => match parseCheck a with | some _ => parseTag b | none => parseTag a

/-- A list without the spaces at its end, and without those at its beginning. -/
def trimR (l : List Byte) : List Byte := (l.reverse.dropWhile (· == 0x20)).reverse
def trimL (l : List Byte) : List Byte := l.dropWhile (· == 0x20)

/-- The characters that the check covers: all up to the "*" (R122). -/
def checked (l : List Byte) : List Byte := let t := trimR l; t.take (t.length - 5)

/-- What is forwarded of an applet line: the line from its verb on, without its tag, its check and the spaces before them
(R146). -/
def appletText (l : List Byte) (r : Raw) : List Byte :=
  let l1 := trimL (trimR l)
  let l2 := if r.check.isSome then trimR (l1.take (l1.length - 5)) else l1
  if r.tag.isSome then trimR (l2.take (l2.length - 3)) else l2

/-! ## Values (R149) -/

/-- The number at the end of a name such as CTR12, below a limit. -/
def parseIdx (pre : String) (lim : Nat) (l : List Byte) : Option Nat :=
  let p := txt pre
  if l.take p.length = p ∧ (l.drop p.length).length ≤ 2 then
    match parseDec (l.drop p.length) with
    | some n => if n < lim then some n else none
    | none => none
  else none

/-- The place of a name in a list. -/
def parseName (names : List String) (l : List Byte) : Option Nat := names.findIdx? (fun n => txt n == l)

/-- Bytes written as an even number of hex digits. -/
def parseBytes : List Byte → Option (List Byte)
  | [] => some []
  | [_] => none
  | a :: b :: t =>
    match hexVal a, hexVal b, parseBytes t with
    | some x, some y, some r => some (BitVec.ofNat 8 (16 * x + y) :: r)
    | _, _, _ => none

/-- A decimal with a fraction of at most `n` digits, as a number of 10^-n. -/
def parseFrac (n : Nat) (l : List Byte) : Option Nat :=
  let a := l.takeWhile (· != 0x2E)
  let f := l.drop (a.length + 1)
  match parseDec a, digits 10 decVal 0 f with
  | some x, some y =>
    if a.length < l.length ∧ f = [] then none
    else if f.length ≤ n then some (x * 10 ^ n + y * 10 ^ (n - f.length)) else none
  | _, _ => none

/-- A step of time, signed, in ns (R165). -/
def parseStep : List Byte → Option Int
  | 0x2D :: t => (parseFrac 9 t).map (fun n => -(n : Int))
  | 0x2B :: t => (parseFrac 9 t).map (fun n => (n : Int))
  | t => (parseFrac 9 t).map (fun n => (n : Int))

/-- A k-factor in sixteenths: a multiple of 0.0625. -/
def parseK (l : List Byte) : Option Nat :=
  match parseFrac 4 l with
  | some n => if n % 625 = 0 then some (n / 625) else none
  | none => none

/-- The days of a month. -/
def monthDays (y m : Nat) : Nat :=
  if m = 2 then (if y % 4 = 0 ∧ (y % 100 ≠ 0 ∨ y % 400 = 0) then 29 else 28)
  else if m = 4 ∨ m = 6 ∨ m = 9 ∨ m = 11 then 30 else 31

/-- YYYY-MM-DDThh:mm:ssZ as the seconds that TBS_UTC_S holds. -/
def parseUtc (l : List Byte) : Option Word :=
  let num (i n : Nat) : Option Nat := parseDec ((l.drop i).take n)
  if l.length = 20 ∧ [4, 7, 10, 13, 16, 19].map (fun i => l.getD i 0) = [0x2D, 0x2D, 0x54, 0x3A, 0x3A, 0x5A] then
    match num 0 4, num 5 2, num 8 2, num 11 2, num 14 2, num 17 2 with
    | some y, some m, some d, some h, some mi, some sec =>
      if 1970 ≤ y ∧ inRange 1 12 m ∧ inRange 1 (monthDays y m) d ∧ h < 24 ∧ mi < 60 ∧ sec < 60 then
        let t := 86400 * daysOf y m d + 3600 * h + 60 * mi + sec
        if t < 0x100000000 then some (BitVec.ofNat 32 t) else none
      else none
    | _, _, _, _, _, _ => none
  else none

/-- A source by its name, or by its ID as 0x and 2 hex digits. -/
def parseSrc (l : List Byte) : Option SrcId :=
  let id : Option Nat := match l with
    | 0x30 :: 0x78 :: h => parseHex 2 2 h
    | _ => (srcIds.find? (fun n => srcName n.val == l)).map (·.val)
  match id with
  | some n => if h : n < 0x58 then some ⟨n, h⟩ else none
  | none => none

/-- A port as a value, and responses, roles and types by their names. -/
def parsePort (l : List Byte) : Option PortId := (parseIdx "P" 24 l).map (finOf 24)
def parseResp (l : List Byte) : Option Resp :=
  (parseName ["NONE", "LOG", "NOTIFY", "HOLD", "RESET", "LOCK", "ERASE"] l).map Resp.ofCode
def parseRole (l : List Byte) : Option Byte := (parseName roleNames l).map (fun n => BitVec.ofNat 8 (n + 1))
def parseType (l : List Byte) : Option Byte :=
  (((List.range 256).filter (fun t => (vTypeLen t).isSome)).find? (fun t => typeText t == l)).map (BitVec.ofNat 8)
def parseId (l : List Byte) : Option Word := (parseHex 1 8 l).map (BitVec.ofNat 32)
def parseByte (l : List Byte) : Option Byte :=
  match parseDec l with | some n => if n < 256 then some (BitVec.ofNat 8 n) else none | none => none

/-! ## Port function arguments (R168, Tables 6.8, 6.9) -/

/-- The fields of PORTn_CFG. -/
def cfgParams : List FnParam := [("FILT", 4, 0, 12), ("PULLA", 4, 12, 2), ("PULLB", 4, 14, 2), ("AUTOCLR", 4, 16, 1)]

/-- Values that Tables 6.1, 6.8 and 6.9 name. -/
def fnValueName (param : String) (l : List Byte) : Option Nat :=
  if param = "BMODE" then parseName ["NONE", "SECOND", "DIR"] l
  else if param = "EDGE" then parseName ["-", "RISING", "FALLING", "BOTH"] l
  else if param = "PULLA" ∨ param = "PULLB" then parseName ["NONE", "UP", "DOWN"] l
  else if param = "VCCEN" then
    (parsePort l.dropLast).bind (fun p => (parseName ["A", "B"] (l.drop (l.length - 1))).map (fun b => 2 * p.val + b))
  else none

/-- A field of a word replaced. -/
def putBits (w lo width v : Nat) : Nat := w - bits w lo width * 2 ^ lo + v % 2 ^ width * 2 ^ lo

/-- A word of a configuration, and a field of one of its words replaced. -/
def PortCfg.put (c : PortCfg) (word lo width v : Nat) : PortCfg :=
  match word with
  | 0 => { c with par0 := BitVec.ofNat 32 (putBits c.par0.toNat lo width v) }
  | 1 => { c with par1 := BitVec.ofNat 32 (putBits c.par1.toNat lo width v) }
  | 2 => { c with par2 := BitVec.ofNat 32 (putBits c.par2.toNat lo width v) }
  | 3 => { c with par3 := BitVec.ofNat 32 (putBits c.par3.toNat lo width v) }
  | _ => { c with cfg := BitVec.ofNat 17 (putBits c.cfg.toNat lo width v) }

/-- An argument of a function form takes its place; the name of a bad one. -/
def fnArg (ps : List FnParam) (r : PortCfg × Option String) (a : LineArg) : PortCfg × Option String :=
  match r.2, ps.find? (fun p => txt p.1 == a.1) with
  | some _, _ => r
  | none, none => (r.1, some "PARAM")
  | none, some (name, word, lo, width) =>
    match (fnValueName name a.2).or (parseDec a.2) with
    | some v => if v < 2 ^ width then (r.1.put word lo width v, none) else (r.1, some name)
    | none => (r.1, some name)

/-- The words in force of a port. -/
def State.cfgNow (s : State) (p : PortId) : PortCfg :=
  { fn := BitVec.ofNat 4 (s.rd (PORT_FUNC_FN p))
    cfg := BitVec.ofNat 17 (s.rd (PORT_CFG_FILT p) + 2 ^ 12 * s.rd (PORT_CFG_PULLA p) + 2 ^ 14 * s.rd (PORT_CFG_PULLB p) +
      2 ^ 16 * s.rd (PORT_CFG_AUTOCLR p))
    par0 := BitVec.ofNat 32 (s.rd (PORT_PAR p 0)), par1 := BitVec.ofNat 32 (s.rd (PORT_PAR p 1))
    par2 := BitVec.ofNat 32 (s.rd (PORT_PAR p 2)), par3 := BitVec.ofNat 32 (s.rd (PORT_PAR p 3)) }

/-- Where a function form starts from: the words in force, the parameters zero where the function changes. -/
def State.cfgFrom (s : State) (p : PortId) (fn : Nat) : PortCfg :=
  let c := s.cfgNow p
  if c.fn.toNat = fn then c else { c with fn := BitVec.ofNat 4 fn, par0 := 0, par1 := 0, par2 := 0, par3 := 0 }

/-! ## Forms (R148) -/

/-- A form as a line gives it: the form by which mode and level are judged, its arguments where they are sound; and what of
the noun or of the arguments is not. -/
abbrev Form := Verb × Option String

/-- The value of an argument. -/
def Raw.arg (r : Raw) (name : String) : Option (List Byte) := (r.args.find? (fun a => a.1 == txt name)).map (·.2)

/-- The same argument name stands twice (R116). -/
def Raw.dup (r : Raw) : Bool := (r.args.map (·.1)).eraseDups.length != r.args.length

/-- Arguments beyond those a form lists, or twice the same (R116, R149). -/
def Raw.beyond (r : Raw) (names : List String) : Option String :=
  need (r.args.all (fun a => names.any (fun n => txt n == a.1)) && !r.dup) "ARG" none

/-- An argument that a form needs, and one that it may have. -/
def Raw.req {α : Type} (r : Raw) (name : String) (f : List Byte → Option α) (d : α) : α × Option String :=
  match (r.arg name).bind f with
  | some x => (x, none)
  | none => (d, some name)
def Raw.opt {α : Type} (r : Raw) (name : String) (f : List Byte → Option α) : Option α × Option String :=
  match r.arg name with
  | none => (none, none)
  | some t => (f t, need (f t).isSome name none)

/-- The first of several findings. -/
def firstOf (l : List (Option String)) : Option String := l.findSome? id

/-- A form without arguments, and a noun that names no form, judged by another one. -/
def Raw.plain (r : Raw) (v : Verb) : Form := (v, r.beyond [])
def badNoun (v : Verb) : Form := (v, some "NOUN")

/-- A form with one argument. -/
def Raw.one {α : Type} (r : Raw) (name : String) (f : List Byte → Option α) (d : α) (k : α → Verb) : Form :=
  let a := r.req name f d
  (k a.1, firstOf [r.beyond [name], a.2])

/-- N=n with its default. -/
def Raw.oneN (r : Raw) (d : Nat) (k : Nat → Verb) : Form :=
  let a := r.opt "N" parseDec
  (k (a.1.getD d), firstOf [r.beyond ["N"], a.2])

/-- The arguments of KEY STAGE and KEY GEN. -/
def Raw.keyForm (r : Raw) (stage : Bool) : Form :=
  let id := r.req "ID" parseId 0
  let role := r.req "ROLE" parseRole 0
  let type := r.req "TYPE" parseType 0
  let use := r.req "USE" (fun t => (parseHex 4 4 t).map (BitVec.ofNat 16)) 0
  let prio := r.req "PRIO" parseByte 0
  let len := if stage then r.req "LEN" parseDec 0 else (0, none)
  let k : KeyArgs := ⟨id.1, role.1, type.1, use.1, prio.1, len.1⟩
  let names := ["ID", "ROLE", "TYPE", "USE", "PRIO"] ++ if stage then ["LEN"] else []
  (if stage then .keyStage k else .keyGen k, firstOf [r.beyond names, id.2, role.2, type.2, use.2, prio.2, len.2])

/-- OFF=o V=h. -/
def Raw.dataForm (r : Raw) (k : Nat → List Byte → Verb) : Form :=
  let o := r.req "OFF" parseDec 0
  let v := r.req "V" parseBytes []
  (k o.1 v.1, firstOf [r.beyond ["OFF", "V"], o.2, v.2])

/-- PORT Pn FN=name [args]. -/
def State.fnForm (s : State) (r : Raw) (p : PortId) : Form :=
  match (r.arg "FN").bind (parseName fnNames) with
  | none => (.portFn p (s.cfgNow p), some "FN")
  | some fn =>
    let c := (r.args.filter (fun a => a.1 != txt "FN")).foldl (fnArg (fnParams fn ++ cfgParams)) (s.cfgFrom p fn, none)
    (.portFn p c.1, firstOf [need (!r.dup) "ARG" none, c.2])

/-- Forms by a noun, of which the arguments are asked where the noun is met. -/
def byNoun (noun : List Byte) (d : Form) : List (String × Form) → Form
  | [] => d
  | (n, f) :: t => if txt n = noun then f else byNoun noun d t

def portForm (s : State) (r : Raw) : Form :=
  match r.nouns with
  | [] => r.plain .portList
  | n :: rest =>
    match parsePort n, rest with
    | some p, [] => if (r.arg "FN").isSome then s.fnForm r p else r.plain (.portShow p)
    | some p, [c] => if c = txt "CLEAR" then r.plain (.portClear p) else badNoun .portList
    | _, _ => badNoun .portList

def queueForm (r : Raw) : Form :=
  match r.nouns with
  | [] => r.plain .queueList
  | n :: rest =>
    match (parseIdx "Q" 64 n).map (finOf 64), rest with
    | some q, [] => r.plain (.queueShow q)
    | some q, [c] => if c = txt "FLUSH" then r.plain (.queueFlush q) else badNoun .queueList
    | _, _ => badNoun .queueList

def countForm (r : Raw) : Form :=
  match r.nouns with
  | [] => r.plain .count
  | [n] => match parseIdx "CTR" 64 n with | some c => r.plain (.countCtr (finOf 64 c)) | none => badNoun .count
  | [n, c] =>
    match parseIdx "CTR" 64 c with
    | some c => if n = txt "RING" then r.one "SLOTS" parseDec 16 (.countRing (finOf 64 c)) else badNoun .count
    | none => badNoun .count
  | _ => badNoun .count

def teleForm (r : Raw) : Form :=
  match r.nouns with
  | [] => if (r.arg "PER").isSome then r.one "PER" parseDec 100 .telePer else r.plain .tele
  | [n] => if n = txt "SHOW" then r.oneN 1 .teleShow else badNoun .tele
  | n :: m :: _ =>
    if n = txt "STREAM" then
      byNoun m (badNoun .tele) [("ON", r.plain .teleStreamOn), ("OFF", r.plain .teleStreamOff)]
    else badNoun .tele

/-- CONFIRM hhhh; what is no token is a wrong token. -/
def confirmForm (r : Raw) : Form :=
  match r.nouns with
  | n :: _ => r.plain (.confirm (BitVec.ofNat 16 ((parseHex 4 4 n).getD 0)))
  | [] => badNoun (.confirm 0)

def helpForm (r : Raw) : Form :=
  match r.nouns with
  | [] => r.plain .help
  | n :: _ =>
    match VerbName.all.find? (fun v => v.text == n), appletName n with
    | some v, _ => r.plain (.helpVerb v)
    | none, some a => r.plain (.helpApplet a)
    | none, none => (.helpVerb .help, some "NOUN")

def authForm (r : Raw) : Form :=
  match r.nouns with
  | n :: _ => match parseIdx "L" 6 n with | some l => r.plain (.authLevel (finOf 6 l)) | none => badNoun .authBad
  | [] =>
    match r.arg "RESP" with
    | some h =>
      (match parseHex 16 16 h with | some x => .authResp (BitVec.ofNat 64 x) | none => .authBad, r.beyond ["RESP"])
    | none => if (r.arg "CARD").isSome then r.one "CARD" parsePort 0 .authCard else badNoun .authBad

def modeForm (r : Raw) : Form :=
  match r.nouns with
  | [] => r.plain .modeShow
  | n :: _ => match ((List.range 12).filterMap Mode.ofCode).find? (fun m => m.name == n) with
    | some m => r.plain (.modeChange m)
    | none => badNoun .modeShow

/-- The form of a line of a hardware verb whose first noun is `n`, empty where it has none. -/
def State.formAt (s : State) (r : Raw) (n : List Byte) : VerbName → Form
  | .help => helpForm r
  | .info => if n = [] then r.plain .info else badNoun .info
  | .mode => modeForm r
  | .echo => byNoun n (badNoun .echoShow) [("", r.plain .echoShow), ("ON", r.plain .echoOn), ("OFF", r.plain .echoOff)]
  | .line => if n ≠ [] then badNoun .lineShow
    else if (r.arg "BAUD").isSome then r.one "BAUD" parseDec 0 .lineBaud else r.plain .lineShow
  | .auth => authForm r
  | .logout => if n = [] then r.plain .logout else badNoun .logout
  | .confirm => confirmForm r
  | .stat => byNoun n (badNoun .stat) [("", r.plain .stat), ("RESET", r.plain .statReset), ("RISE", r.plain .statRise)]
  | .log => byNoun n (badNoun (.logTamper 16)) [("TAMPER", r.oneN 16 .logTamper), ("ATTIC",
      let t := r.opt "TYPE" (fun t => (parseName atticNames t).map (fun n => finOf 8 (n + 1)))
      let k := r.opt "N" parseDec
      (.logAttic t.1 (k.1.getD 16), firstOf [r.beyond ["TYPE", "N"], t.2, k.2]))]
  | .time => byNoun n (badNoun .timeShow) [("", r.plain .timeShow), ("ADJ", r.one "D" parseStep 0 .timeAdj), ("SET",
      let u := r.req "UTC" parseUtc 0
      let p := r.opt "SRC" (fun t => if t = txt "PPS" then some true else none)
      (.timeSet u.1 p.1.isSome, firstOf [r.beyond ["UTC", "SRC"], u.2, p.2]))]
  | .tick => byNoun n (badNoun .tickShow) [("", r.plain .tickShow), ("JOBS", r.plain .tickJobs), ("SET",
      let p := r.opt "PER" parseDec
      let b := r.opt "BGF" parseDec
      (.tickSet p.1 b.1, firstOf [r.beyond ["PER", "BGF"], p.2, b.2]))]
  | .port => portForm s r
  | .queue => queueForm r
  | .key => byNoun n (badNoun .keyList) [("LIST", r.plain .keyList), ("SHOW", r.one "ID" parseId 0 .keyShow),
      ("STAGE", r.keyForm true), ("DATA", r.dataForm .keyData), ("WRITE", r.plain .keyWrite), ("GEN", r.keyForm false),
      ("RETIRE", r.one "ID" parseId 0 .keyRetire), ("REVOKE", r.one "ID" parseId 0 .keyRevoke)]
  | .store => byNoun n (badNoun .storeShow) [("", r.plain .storeShow), ("FIND",
      let g := r.req "REGION" (fun t => (parseName ["K", "C", "A0", "A1"] t).map Region.ofCode) .k
      let k := r.req "KEY" (fun t => (parseHex 40 40 t).map (BitVec.ofNat 160)) 0
      (.storeFind g.1 k.1, firstOf [r.beyond ["REGION", "KEY"], g.2, k.2])), ("SIZE",
      let f (x : String) : Nat × Option String := r.req x parseDec 0
      (.storeSize (f "K").1 (f "C").1 (f "A0").1 (f "A1").1 (f "H").1,
        firstOf (r.beyond ["K", "C", "A0", "A1", "H"] :: ["K", "C", "A0", "A1", "H"].map (fun x => (f x).2))))]
  | .count => countForm r
  | .watch => byNoun n (badNoun .watchList)
      [("", if (r.arg "SRC").isSome then r.one "SRC" parseSrc 5 .watchSrc else r.plain .watchList), ("SET",
      let x := r.req "SRC" parseSrc 5
      let e := r.opt "RESP" parseResp
      let f := r.opt "FILT" parseByte
      (.watchSet x.1 e.1 f.1, firstOf [r.beyond ["SRC", "RESP", "FILT"], x.2, e.2, f.2])), ("FLOOR",
      let x := r.req "SRC" parseSrc 5
      let e := r.req "RESP" parseResp .none
      (.watchFloor x.1 e.1, firstOf [r.beyond ["SRC", "RESP"], x.2, e.2])),
      ("ARM", r.one "SRC" parseSrc 5 .watchArm), ("DISARM", r.one "SRC" parseSrc 5 .watchDisarm)]
  | .tele => teleForm r
  | .cal => byNoun n (badNoun .calShow) [("", r.plain .calShow), ("K",
      let p := r.req "P" parsePort 0
      let k := r.req "K" parseK 0
      (.calK p.1 k.1, firstOf [r.beyond ["P", "K"], p.2, k.2])), ("RUN", r.plain .calRun), ("RAW", r.one "N" parseDec 1 .calRaw)]
  | .image => byNoun n (badNoun .imageList) [("", r.plain .imageList), ("BEGIN",
      let k := r.req "KIND" (fun t => if t = txt "FW" then some ImgKind.fw else if t = txt "UC" then some .uc
        else if t = txt "APP" then some .app else none) .fw
      let l := r.req "LEN" parseDec 1
      let c := r.opt "CRC" (fun t => (parseHex 8 8 t).map (BitVec.ofNat 32))
      (.imageBegin k.1 l.1 c.1, firstOf [r.beyond ["KIND", "LEN", "CRC"], k.2, l.2, c.2])),
      ("DATA", r.dataForm .imageData), ("END", r.plain .imageEnd), ("ABORT", r.plain .imageAbort)]
  | .life => byNoun n (badNoun .lifeShow) [("", r.plain .lifeShow), ("FIT", r.plain .lifeFit), ("SEAL", r.plain .lifeSeal),
      ("ERASE", r.plain .lifeErase), ("RETIRE", r.plain .lifeRetire), ("REFIT", r.plain .lifeRefit)]
  | .unlock => if n = [] then r.plain .unlock else badNoun .unlock
  | .reset => if n = [] then r.plain .reset else badNoun .reset

/-- The form of a line of a hardware verb. -/
def State.formOf (s : State) (r : Raw) (v : VerbName) : Form := s.formAt r (r.nouns.headD []) v

end Sys2Proof.Machine
end

