-- ==== Sys2Proof/Machine/Applets.lean ====
section
/-!
DEFINITION. Applets.lean: applet verbs and their registration, and the mode requests of the cores
(spec/04_miand_language.md, R143 to R147; spec/01_planes.md, R28 to R30, R35, R36).
-/
namespace Sys2Proof.Machine

/-! ## Forwarding (R146) -/

/-- The characters that a line's check covers: up to the check, or all of it (R124, R125). -/
def lineCover (l : List Byte) (r : Raw) : List Byte := if r.check.isSome then checked l else l

/-- An applet line goes to its core as APPLET_REQ (Table 1.6); the line is compared with its check as it enters the slot (lane 0
of Table 9.2). -/
def State.appletForward (s : State) (tag : Option Byte) (rule : Word) (l : List Byte) (chk : BitVec 16) (r : Raw) : State :=
  let c := ruleCore rule
  let text := appletText l r
  if !(s.cpu.at c).run then s.replyErr tag 70
  else if crc16 (lineCover l r) ≠ chk then (s.laneFail 0).replyErr tag 99
  else
    let seq := s.con.seq
    let s1 := { s with con := { s.con with seq := seq + 1, busy := .applet tag c seq } }
    s1.conSend c.agent 1 seq ([BitVec.ofNat 8 s.level, BitVec.ofNat 8 s.sys.mode.code, tag.getD 0,
      BitVec.ofNat 8 (b2n tag.isSome)] ++ text)

/-- Region C searched with a name. -/
def State.ruleOf (s : State) (name : List Byte) : SAns × State := s.strSearch .c (nameKey name)

/-- What a line becomes that needs CONFIRM: the token, never 0000 (R140; DESIGN CHOICE, log entry 109). -/
def State.holdLine (s : State) (tag : Option Byte) (h : HeldLine) : State :=
  if s.rngBlocked then s.replyErr tag 22
  else
    let (w, s1) := s.drbg
    let t : BitVec 16 := if w.extractLsb' 0 16 = 0 then 1 else w.extractLsb' 0 16
    { s1 with con := { s1.con with held := some (h, t) } }.replyOk tag (txt " HOLDING" ++ fld "tok" (hexN 4 t.toNat))

/-- An applet line decided from step 4 on (R128, R146); `first` where it is not a CONFIRM that decides it again. -/
def State.appletDecide (s : State) (tag : Option Byte) (free first : Bool) (l : List Byte) (chk : BitVec 16) (r : Raw) : State :=
  if !s.sys.mode.running then s.replyErr tag 20
  else
    let (a, s1) := s.ruleOf r.verb
    if a.isBusy then s1.replyErr tag 22
    else if a.none || a.deny then s1.replyErr tag 11
    else if !bitAt (ruleModes a.result) s1.sys.mode.code then s1.replyErr tag 20
    else if s1.level < ruleLevel a.result then s1.replyErr tag 21
    else if r.dup then s1.replyErr tag 12
    else if ruleProt a.result && !free && first then s1.holdLine tag (.applet l chk)
    else s1.appletForward tag a.result l chk r

/-! ## The reply (R147) -/

/-- The error numbers an applet may answer with. -/
def appletErrs : List Nat := [12, 22, 30, 31, 40, 41, 42, 43, 50, 70, 99]

/-- Text of a reply with the space before it. -/
def spaced (l : List Byte) : List Byte := if l = [] then [] else 0x20 :: l

/-- The reply line of an APPLET_REPLY's payload. -/
def State.appletAnswer (s : State) (tag : Option Byte) (p : List Byte) : State :=
  match p with
  | [] => s.replyErr tag 70
  | st :: text =>
    if 223 < text.length ∨ !text.all printable then s.replyErr tag 70
    else if st = 0 then s.replyOk tag (spaced text)
    else if appletErrs.contains st.toNat then s.replyErr tag st.toNat (spaced text)
    else s.replyErr tag 70

/-- A message of a kind whose LAST fragment waits for CON in slot `n`, from a core. -/
def State.conMessage (s : State) (n : Fin 16) (kind : Nat) : Option CpuId :=
  let x := s.hatch.at n
  if s.con.started ∧ x.dest = .con ∧ x.st = .posted ∧ x.last ∧ s.msgKind n = kind then (hatchSender n).cpu else none

/-- A message of a core that CON takes: a malformed one is discarded (R24). -/
def State.conTakes (s : State) (n : Fin 16) (kind : Nat) (f : CpuId → Byte → List Byte → State → State) : State :=
  match s.conMessage n kind with
  | none => s
  | some c =>
    if s.msgBad n then s.msgDiscard n
    else f c (s.hatch.at n).seq (s.msgPayload n) (s.msgDone n)

/-- The trailers of a message's slots still match (lane 1 of Table 9.2). -/
def State.msgSound (s : State) (n : Fin 16) : Bool := ((s.msgSlots n).filterMap id).all (fun m => (s.hatch.at m).ok)

/-- APPLET_REPLY (R147): a reply to no request in wait, or from another core, is discarded (R30); one whose slots fail their
check on the way to the line is answered E70. -/
def State.appletReply (s0 : State) (n : Fin 16) : State :=
  s0.conTakes n 2 (fun c seq p s =>
    match s.con.busy with
    | .applet tag d q =>
      if c = d ∧ seq = q then (if s0.msgSound n then s.appletAnswer tag p else (s.laneFail 1).replyErr tag 70)
      else { s with con := { s.con with dead := s.con.dead.filter (fun x => decide (x ≠ seq)) } }
    | _ => { s with con := { s.con with dead := s.con.dead.filter (fun x => decide (x ≠ seq)) } })

/-- A slot that holds a part of a request of CON's. -/
def State.requestSlot (s : State) (c : CpuId) (seq : Byte) (n : Fin 16) : Bool :=
  let x := s.hatch.at n
  hatchSender n == .con && x.dest == c.agent && (x.st == .posted || x.st == .taken) && x.seq == seq && s.msgKind n == 1

/-- A slot of a request is TAKEN: ABANDON there is a command in the wrong state (R25). -/
def State.requestTaken (s : State) (c : CpuId) (seq : Byte) : Bool :=
  (finList 16).any (fun n => s.requestSlot c seq n && (s.hatch.at n).st == .taken)

/-- CON abandons its request: unread slots and what waits for slots go (R30). -/
def State.requestDrop (s : State) (c : CpuId) (seq : Byte) : State :=
  let s1 := { s with con := { s.con with
    outbox := s.con.outbox.filter (fun m => decide (¬(m.kind = 1 ∧ m.seq = seq))), dead := seq :: s.con.dead } }
  let s2 := (finList 16).foldl (fun s n =>
    if s.requestSlot c seq n ∧ (s.hatch.at n).st = .posted then s.slotFree n else s) s1
  s2.conFlush

/-- The wait for an applet ends with E71: its timeout, or a Ctrl-C (R30, R119). CON's ABANDON of a slot that the core has TAKEN
sets HATCH_ERR.STATE in CON's view and raises MISUSE, which comes last (DEDUCED, log entry 90). -/
def State.appletGiveUp (s : State) : State :=
  match s.con.busy with
  | .applet tag c seq =>
    let s1 := (s.requestDrop c seq).replyErr tag 71
    if s.requestTaken c seq then s1.hatchBad (HATCH_ERR_STATE .con) else s1
  | _ => s

/-! ## VERB_REG (R143 to R145) -/

/-- The status a core's request is answered with. -/
def State.regAck (s : State) (c : CpuId) (seq : Byte) (status : Nat) : State :=
  s.conSend c.agent 4 seq [BitVec.ofNat 8 status, 0, 0]

/-- The rule of a name. -/
def State.ruleEntry (s : State) (name : List Byte) : Option (Nat × SEntry) :=
  (s.sList .c).find? (fun e => e.2.valid && e.2.key == nameKey name && e.2.mask == BitVec.allOnes 160)

/-- A rule as it enters region C (R145). -/
def ruleNew (name : List Byte) (w : Word) : SEntry :=
  { key := nameKey name, mask := BitVec.allOnes 160, prio := 0x80, valid := true, region := .c, result := w }

/-- A request whose content is sound: withdraw, register, or register again. -/
def State.regDo (s : State) (c : CpuId) (seq : Byte) (withdraw : Bool) (name : List Byte) (w : Word) : State :=
  match s.ruleEntry name, withdraw with
  | some (_, e), true =>
    if ruleCore e.result = c then s.strInvalidate (.con c seq) e else s.regAck c seq 30
  | none, true => s.regAck c seq 30
  | some (i, e), false =>
    if ruleCore e.result ≠ c then s.regAck c seq 30
    else if !s.strUpd .c then s.regAck c seq 41
    else ((s.sClear i).raStale .c).strWrite ⟨.con c seq, ruleNew name w, false, false⟩
  | none, false => s.strWrite ⟨.con c seq, ruleNew name w, false, false⟩

/-- VERB_REG: the mode first, then the content (R143, R144). -/
def State.verbReg (s : State) (n : Fin 16) : State :=
  s.conTakes n 3 (fun c seq p s =>
    let b (i : Nat) : Nat := (p.getD i 0).toNat
    let raw := (p.drop 1).take 16
    let nm := raw.takeWhile (· != 0)
    let modes := bits (b 17) 3 5 * 8
    if !s.sys.mode.running then s.regAck c seq 20
    else if p.length ≠ 22 ∨ 1 < b 0 ∨ (raw.drop nm.length).any (· != 0) ∨ modes = 0 ∨ 4 < b 19 then s.regAck c seq 12
    else match appletName nm with
      | none => s.regAck c seq 12
      | some name =>
        s.regDo c seq (b 0 == 1) name
          (BitVec.ofNat 32 (modes + 0x1000 * b 19 + 0x8000 * (b 20 % 2) + 0x10000 * c.val + 0x1000000 * b 21)))

/-! ## MODE_REQ (R35, R36, R79) -/

/-- MODE_REQ: granted as a change that the next boundary makes, or refused at once: with 21 where R79 refuses it, also while a
change is pending (DESIGN CHOICE, log entry 104). -/
def State.modeReq (s : State) (n : Fin 16) : State :=
  s.conTakes n 5 (fun c seq p s =>
    let dest := Mode.ofCode (match p with | b :: _ => b.toNat | [] => 15)
    let ack (status : Nat) : State := s.conSend c.agent 6 seq [BitVec.ofNat 8 status, BitVec.ofNat 8 s.sys.mode.code]
    let may := (s.sys.mode == .service && dest == some .doze) || (s.sys.mode == .doze && dest == some .service)
    if !may then ack 21
    else if s.sys.pend.isSome || s.holdDue then ack 22
    else { s with sys := { s.sys with pend := some { dest := dest.getD .service, cause := 1, core := some c, seq := seq } } })

end Sys2Proof.Machine
end

