-- ==== Sys2Proof/Machine/Perform.lean ====
section
/-!
DEFINITION. Perform.lean: what each form of a hardware verb does once it is decided (spec/05_miand_verbs.md).
-/
namespace Sys2Proof.Machine

/-- A form that waits for its boundary (R150). -/
def State.waitCommit (s : State) (tag : Option Byte) (v : Verb) : State :=
  { s with con := { s.con with busy := .commit tag v .waiting } }

/-- A reply of a line that a reset has not overtaken. -/
def State.ifExec (s : State) (f : State → State) : State := if s.con.busy = Busy.exec then f s else s

/-! ## Lines and modes -/

/-- MODE with a mode (R156): E20 for a transition not in Table 3.5, E22 while another change is pending (R36). -/
def State.doMode (s : State) (tag : Option Byte) (dest : Mode) : State :=
  match s.sys.mode.goes dest with
  | none => s.replyErr tag 20
  | some _ =>
    if s.sys.pend.isSome || s.holdDue then s.replyErr tag 22 (fld "pend" s.pendName)
    else { s with sys := { s.sys with pend := some { dest := dest, cause := 0 } } }.waitCommit tag (.modeChange dest)

/-- ECHO ON and OFF (R157): the reply is sent under the new setting. -/
def State.doEcho (s : State) (tag : Option Byte) (on : Bool) : State :=
  let s1 := s.wr CON_LINE_ECHO (b2n on)
  s1.replyOk tag s1.echoText

/-- LINE BAUD= (R109): the reply goes at the old rate; without a clean line within 30 s the rate returns. -/
def State.doBaud (s : State) (tag : Option Byte) (n : Nat) : State :=
  let old := s.rd CON_LINE_BAUD
  let s1 := s.replyOk tag (fld "baud" (dec n))
  let s2 := s1.wr CON_LINE_BAUD ((bauds.idxOf? n).getD old)
  { s2 with con := { s2.con with revert := some (BitVec.ofNat 4 old) } }

/-! ## Reports that can fail -/

/-- LOG ATTIC: a record that fails its check ends the listing with E42 (R161, log entry 46). -/
def State.doAttic (s : State) (tag : Option Byte) (t : Option (Fin 8)) (n : Nat) : State :=
  let l := s.atticList t n
  if l.all atticGood then s.replyLines tag (l.map atticRow)
  else
    ((l.map atticRow).foldl (fun s r => s.conTx (conBytes ([0x3D] ++ tagBytes tag ++ [0x20] ++ r))) s).replyErr tag 42
      (fld "lines" (dec l.length))

/-- COUNT CTRn (R162). -/
def State.doCounter (s : State) (tag : Option Byte) (c : CtrId) : State :=
  if (s.nv.ring.at c).noValid then s.replyErr tag 43 else s.replyOk tag (s.ctrRow c)

/-- TICK SET (R163). -/
def State.doTickSet (s : State) (tag : Option Byte) (per bgf : Option Nat) : State :=
  let s1 := match per with
    | some p => s.waitPut .con TICK_CFG_PER (perCode p)
    | none => s
  let s2 := match bgf with | some b => s1.waitPut .con TICK_CFG_BGF b | none => s1
  if per.isNone && bgf.isNone then s.replyOk tag s.tickCfgText
  else (if (per.map perCode).getD (s.rd TICK_CFG_PER) ≠ s.rd TICK_CFG_PER then s2.setb TICK_STAT_PERPEND else s2).waitCommit tag (.tickSet per bgf)

/-! ## TIME and CAL -/

/-- TIME ADJ (R165, R467, R468). -/
def State.doAdj (s : State) (tag : Option Byte) (d : Int) : State :=
  if s.timeUnk then s.replyErr tag 12 (argDetail "D")
  else if s.sys.mode ≠ .workshop ∧ s.adjBeyond d then s.replyErr tag 20
  else if !s.ctr5Ok then s.replyErr tag 43
  else
    let s1 := s.timeAdj d
    s1.replyOk tag (fld "utc" s1.utcText ++ s1.adjText)

/-- TIME SET (R166, R467). -/
def State.doTimeSet (s : State) (tag : Option Byte) (utc : Word) (pps : Bool) : State :=
  if !s.ctr5Ok then s.replyErr tag 43
  else if pps then
    if (finList 24).any (fun p => s.pfn p == .pps) then
      { s with tbs := { s.tbs with setAt := some utc }, con := { s.con with busy := .pps tag } }
    else s.replyErr tag 22
  else
    let s1 := s.timeSet (s.stepTo utc)
    s1.replyOk tag (fld "utc" s1.utcText ++ fld "src" s1.srcText)

/-- TIME SET SRC=PPS sees no edge (R166). -/
def State.ppsTimeout (s : State) : State :=
  match s.con.busy with
  | .pps tag => { s with tbs := { s.tbs with setAt := none } }.replyErr tag 22
  | _ => s

/-- CAL K (R167): PAR1.K of a port that runs PULSE. -/
def State.doCalK (s : State) (tag : Option Byte) (p : PortId) (k : Nat) : State :=
  if s.pfn p ≠ .pulse then s.replyErr tag 30 (fld "port" (portText p))
  else if s.isSet (PORT_FUNC_FIX p) && !s.rwsOpen then
    (s.wr (PORT_STAT_CLAIM p) 10).replyErr tag 30 (claimDetail 10 p.val)
  else
    (s.waitPut .con (PORT_PAR p 1) (s.rd (PORT_PAR p 1) - s.kInForce p + k)).waitCommit tag (.calK p k)

/-- Samples as hex digits, the first sample the top bit of the first digit (R167). -/
def rawDigits : List Bool → List Byte
  | a :: b :: c :: d :: t => hexDigit (8 * b2n a + 4 * b2n b + 2 * b2n c + b2n d) :: rawDigits t
  | _ => []

/-- Raw samples of a data line. -/
@[irreducible] def rawPerLine : Nat := 256

/-- Data lines of raw samples; the health tests run on them (R411). -/
def State.rawLines : Nat → State → List (List Byte) × State
  | 0, s => ([], s)
  | n + 1, s =>
    let (l, s1) := s.rawSamples rawPerLine
    let (r, s2) := rawLines n s1
    (rawDigits l :: r, s2)

/-- CAL RAW (R167). -/
def State.doCalRaw (s : State) (tag : Option Byte) (n : Nat) : State :=
  let (l, s1) := s.rawLines n
  if s1.con.started then s1.replyLines tag l else s1

/-- CAL RUN (R167): refused while a calibration runs. -/
def State.doCalRun (s : State) (tag : Option Byte) : State :=
  if s.tbs.calRuns then s.replyErr tag 22
  else { s with con := { s.con with busy := .cal tag }, tbs := { s.tbs with calRuns := true } }

/-! ## Resources -/

/-- The words of a port form wait (R168). -/
def State.doPortFn (s : State) (tag : Option Byte) (p : PortId) (c : PortCfg) : State :=
  let put (l : List (Field × Nat)) : State := l.foldl (fun s e => s.waitPut .con e.1 e.2) s
  (put [(PORT_FUNC_FN p, c.fn.toNat), (PORT_CFG_FILT p, bits c.cfg.toNat 0 12), (PORT_CFG_PULLA p, bits c.cfg.toNat 12 2),
    (PORT_CFG_PULLB p, bits c.cfg.toNat 14 2), (PORT_CFG_AUTOCLR p, bits c.cfg.toNat 16 1), (PORT_PAR p 0, c.par0.toNat),
    (PORT_PAR p 1, c.par1.toNat), (PORT_PAR p 2, c.par2.toNat), (PORT_PAR p 3, c.par3.toNat)]).waitCommit tag (.portFn p c)

/-- PORT Pn CLEAR (R168, R211). -/
def State.doPortClear (s : State) (tag : Option Byte) (p : PortId) : State :=
  let r := s.discClear p
  if r.1 then r.2.replyOk tag (fld "port" (portText p) ++ fld "disc" (dec 0)) else s.replyErr tag 12

/-- QUEUE Qn FLUSH (R169). -/
def State.doFlush (s : State) (tag : Option Byte) (q : QueueId) : State :=
  let waits := (s.qfx.at q).inPacket
  (s.flushQueue q).replyOk tag (fld "q" (Machine.queueText q) ++ fld "flush" (if waits then txt "PENDING" else txt "DONE"))

/-- STORE FIND (R170). -/
def State.doFind (s : State) (tag : Option Byte) (r : Region) (key : BitVec 160) : State :=
  let (a, s1) := s.strSearch r key
  if a.isBusy then s1.replyErr tag 22 else s1.replyOk tag (s1.findText a)

/-- STORE SIZE (R170). -/
def State.doSize (s : State) (tag : Option Byte) (k c a0 a1 h : Nat) : State :=
  let code := if h = 8 then 0 else if h = 16 then 1 else if h = 32 then 2 else 3
  (((((s.waitPut .con STR_SIZE0_K k).waitPut .con STR_SIZE0_C c).waitPut .con STR_SIZE1_A0 a0).waitPut .con STR_SIZE1_A1 a1).waitPut
    .con STR_CFG_H code).waitCommit tag (.storeSize k c a0 a1 h)

/-! ## KEY (R171, R172) -/

/-- KEY SHOW: a secret value is never shown. -/
def State.doKeyShow (s : State) (tag : Option Byte) (id : Word) : State :=
  if s.keyHeads id = [] then s.replyErr tag 40 (0x20 :: vltName 1)
  else match s.keyPublic id with
    | none => s.replyErr tag 40
    | some i => s.replyLines tag (lines32 20 (s.vValue i))

/-- KEY STAGE: a new stage takes the place of the old one. -/
def State.doStage (s : State) (tag : Option Byte) (a : KeyArgs) : State :=
  { s with con := { s.con with stage := some { args := a } } }.replyOk tag (fld "id" (idText a.id) ++ fld "len" (dec a.len))

/-- KEY DATA: at the offset already staged, or the last chunk again at its own. -/
def State.doKeyData (s : State) (tag : Option Byte) (off : Nat) (v : List Byte) : State :=
  match s.con.stage with
  | none => s.replyErr tag 12
  | some k =>
    if (off ≠ k.data.length ∧ off ≠ k.lastOff) ∨ k.args.len < off + v.length then s.replyErr tag 12 (argDetail "OFF")
    else
      let d := k.data.take off ++ v
      { s with con := { s.con with stage := some { k with data := d, lastOff := off } } }.replyOk tag
        (fld "off" (dec off) ++ fld "staged" (dec d.length))

/-- KEY WRITE: E12 for an incomplete staging. -/
def State.doKeyWrite (s : State) (tag : Option Byte) : State :=
  match s.con.stage with
  | none => s.replyErr tag 12
  | some k => if k.data.length = k.args.len then s.waitCommit tag .keyWrite else s.replyErr tag 12

/-- KEY RETIRE and KEY REVOKE. -/
def State.doKeyMove (s : State) (tag : Option Byte) (id : Word) (v : Verb) : State :=
  if s.keyHeads id = [] then s.replyErr tag 40 (0x20 :: vltName 1) else s.waitCommit tag v

/-- The KEY forms; in QUARANTINE the Vault is locked (R153). -/
def State.doKey (s : State) (tag : Option Byte) (v : Verb) : State :=
  if s.sys.mode = .quarantine then s.replyErr tag 60
  else match v with
    | .keyList => s.replyLines tag s.keyRows
    | .keyShow id => s.doKeyShow tag id
    | .keyStage a => s.doStage tag a
    | .keyData off d => s.doKeyData tag off d
    | .keyWrite => s.doKeyWrite tag
    | .keyGen a => s.waitCommit tag (.keyGen a)
    | .keyRetire id => s.doKeyMove tag id (.keyRetire id)
    | .keyRevoke id => s.doKeyMove tag id (.keyRevoke id)
    | _ => s

/-! ## WATCH, TELE, IMAGE -/

/-- WATCH SET (R173). -/
def State.doWatchSet (s : State) (tag : Option Byte) (n : SrcId) (r : Option Resp) (f : Option Byte) : State :=
  let s1 := match r with | some x => s.waitPut .con (WATCH_RESP n) x.code | none => s
  let s2 := match f with | some x => s1.waitPut .con (WATCH_FILT n) x.toNat | none => s1
  s2.waitCommit tag (.watchSet n r f)

/-- TELE STREAM ON and OFF (R174). -/
def State.doStream (s : State) (tag : Option Byte) (on : Bool) : State :=
  if on && s.rd (QFX_RES 63) == 0 then s.replyErr tag 31
  else (s.wr TELE_STAT_STREAM (b2n on)).replyOk tag (fld "stream" (if on then txt "ON" else txt "OFF"))

/-- IMAGE BEGIN (R175). -/
def State.doImgBegin (s : State) (tag : Option Byte) (k : ImgKind) (len : Nat) (crc : Option Word) : State :=
  let n := s.spare k
  let r := s.loadBegin false k len crc
  if r.1 = 0 then r.2.replyOk tag (fld "slot" (slotName k n) ++ fld "len" (dec len)) else s.replyErr tag r.1

/-- IMAGE DATA (R176). -/
def State.doImgData (s : State) (tag : Option Byte) (off : Nat) (v : List Byte) : State :=
  let r := s.loadData false off v
  if r.1 = 0 then r.2.replyOk tag (fld "off" (dec off) ++ fld "rcvd" (dec (off + v.length))) else s.replyErr tag r.1 (argDetail "OFF")

/-- IMAGE END (R177). -/
def State.doImgEnd (s : State) (tag : Option Byte) : State :=
  match s.loadEnd false with
  | (none, _) => s.replyErr tag 12
  | (some (bad, l, ver), s1) =>
    s1.ifExec (fun s =>
      if bad = 0 then
        s.replyOk tag (fld "slot" (slotName l.kind l.slot) ++ fld "ver" (dec ver) ++ fld "state" (txt "NEXT"))
      else s.replyErr tag 42 (0x20 :: checkName bad))

/-- IMAGE ABORT. -/
def State.doImgAbort (s : State) (tag : Option Byte) : State :=
  match s.loadAbort false with
  | (none, _) => s.replyErr tag 12
  | (some l, s1) => s1.replyOk tag (fld "slot" (slotName l.kind l.slot) ++ fld "state" (txt "EMPTY"))

/-! ## LIFE, UNLOCK, RESET -/

/-- A reply sent in full, and the reset that begins after it (R151): no prompt, and queued notices are dropped. -/
def State.replyReset (s : State) (line : List Byte) (k : ResetKind) (w : Why) : State :=
  let s1 := s.conTx line
  { s1 with con := { s1.con with busy := .reset k w } }

/-- The end of a LIFE verb (R81, R82): mirror, LIFE record, reply, reset. -/
def State.lifeEnd (s : State) (tag : Option Byte) (verb : Nat) (old : BitVec 13) (bad : Option Nat) : State :=
  let mirror := s.rd CEL_FLAGS_LIFE
  let s1 := s.mirrorPut.lifeRec verb old mirror
  let k : ResetKind := if verb = 2 then .erase else .warm
  match bad with
  | none =>
    s1.replyReset (conBytes (txt "OK" ++ tagBytes tag ++ fld "stage" s1.stage.name ++ fld "epoch" (dec s1.epoch) ++
      fld "reset" (if verb = 2 then txt "ERASE" else txt "WARM"))) k .unlockOrLife
  | some b => s1.replyReset (errLine tag 99 (fld "fuse" (dec b))) k .unlockOrLife

/-- A LIFE verb blows its bits in one go. -/
def State.lifeBlow (s : State) (tag : Option Byte) (verb : Nat) (l : List Nat) : State :=
  let old := s.si.life
  let r := s.fuseBlow l
  r.2.lifeEnd tag verb old r.1

/-- A fuse is blown only at or above 2.90 V (R81). -/
def State.lifeVcc (s : State) (tag : Option Byte) (f : State → State) : State := if s.fuseVcc then f s else s.replyErr tag 22

/-- An ACTIVE entry of a role stands, with a key ID where one is asked. -/
def State.activeKey (s : State) (role : Byte) (id : Option Word) : Bool :=
  s.vlt.ent.any (fun e => e.2.st == 1 && e.2.role == role && (match id with | some x => e.2.keyid == x | none => true))

/-- What LIFE SEAL asks of the Vault (R180). -/
def State.sealReady (s : State) : Bool :=
  s.activeKey 1 none && s.activeKey 7 (some 1) && s.activeKey 7 (some 2) && s.activeKey 7 (some 3)

/-- LIFE SEAL raises each floor to its minimum and each response to its floor (R476). -/
def State.sealFloors (s : State) : State :=
  srcIds.foldl (fun s n =>
    let f := Nat.max (s.rd (WATCH_FLOOR n)) (srcMinFloor n.val).code
    let s1 := s.wr (WATCH_FLOOR n) f
    if s1.rd (WATCH_RESP n) < f then s1.wr (WATCH_RESP n) f else s1) s

/-- LIFE SEAL (R180). -/
def State.doSeal (s : State) (tag : Option Byte) : State :=
  s.lifeVcc tag (fun s =>
    if s.sealReady then s.sealFloors.lifeBlow tag 1 (s.nextBits 1) else s.replyErr tag 40 (0x20 :: vltName 1))

/-- LIFE ERASE (R81, R83): the Vault is zeroized first. From FIT a dip of VCC may come between the two bits. -/
def State.doErase (s : State) (tag : Option Byte) : State :=
  s.lifeVcc tag (fun s =>
    let l := s.nextBits s.stage.eraseBits
    let old := s.si.life
    let r := s.eraseVault.choose 2
    if l.length = 2 ∧ r.1 = 1 then
      let b := r.2.fuseBlow (l.take 1)
      if b.1.isSome then b.2.lifeEnd tag 2 old b.1 else { b.2 with con := { b.2.con with busy := .fuse tag old } }
    else r.2.lifeBlow tag 2 l)

/-- LIFE_FUSE_RESUME (R81): VCC is back, the outstanding bits are blown. -/
def State.fuseResume (s : State) (vcc : Nat) : State :=
  let s1 := { s with si := { s.si with vcc := vcc } }
  match s.con.busy with
  | .fuse tag old =>
    if s1.fuseVcc then
      let r := s1.fuseBlow (s1.nextBits s1.stage.eraseBits)
      r.2.lifeEnd tag 2 old r.1
    else s1
  | _ => s

/-- LIFE REFIT (Table 3.4): refused in epoch 2. -/
def State.doRefit (s : State) (tag : Option Byte) : State :=
  if s.epoch = 2 then s.replyErr tag 31 else s.lifeVcc tag (fun s => s.lifeBlow tag 4 (s.nextBits 1))

/-- UNLOCK (R181, R500). -/
def State.doUnlock (s : State) (tag : Option Byte) : State :=
  let src := s.rd CEL_LOCKSRC
  let s1 := s.wrs [(CEL_FLAGS_LOCKED, 0), (CEL_LOCKSRC, 0xFF)]
  let s2 := { s1 with cel := { s1.cel with tripped := [] } }.attic 2 [6, BitVec.ofNat 8 src]
  s2.replyReset (conBytes (txt "OK" ++ tagBytes tag ++ fld "reset" (txt "WARM"))) .warm .unlockOrLife

/-- RESET (R182). -/
def State.doReset (s : State) (tag : Option Byte) : State :=
  s.replyReset (conBytes (txt "OK" ++ tagBytes tag ++ fld "reset" (txt "WARM"))) .warm .miandReset

/-- VERB_RESET (R151): the last stop bit of the reply has left. -/
def State.verbReset (s : State) : State :=
  match s.con.busy with
  | .reset k w => s.enterReset k w 0xFF
  | _ => s

/-! ## The reply of a form that waited (R150) -/

/-- What a committed form says. -/
def State.tookText (s : State) (v : Verb) : List Byte :=
  match v with
  | .modeChange _ => fld "mode" s.sys.mode.name
  | .tickSet _ _ => s.tickCfgText
  | .portFn p _ => s.fnText p
  | .storeSize k c a0 a1 h => fld "k" (dec k) ++ fld "c" (dec c) ++ fld "a0" (dec a0) ++ fld "a1" (dec a1) ++ fld "h" (dec h)
  | .watchSet n _ _ => srcFld n ++ s.respText n ++ s.filtText n
  | .watchFloor n _ => srcFld n ++ s.floorText n
  | .watchArm n => srcFld n ++ fld "armed" (dec 1)
  | .watchDisarm n => srcFld n ++ fld "armed" (dec 0)
  | .telePer t => fld "per" (dec t)
  | .calK p k => fld "port" (portText p) ++ fld "k" (kText k)
  | .countRing c n => fld "ctr" (ctrText c) ++ fld "slots" (dec n)
  | _ => []

/-- What a KEY form says once its Vault command is done. -/
def State.keyText (s : State) (v : Verb) : List Byte :=
  let i := s.rd (VLT_STAT_IDX .con)
  let e := s.vEnt i
  match v with
  | .keyWrite => fld "id" (idText e.keyid) ++ fld "idx" (dec i) ++ fld "gen" (dec e.gen.toNat)
  | .keyGen _ => fld "id" (idText e.keyid) ++ fld "idx" (dec i) ++ fld "pair" (dec e.pair.toNat)
  | .keyRetire id => fld "id" (idText id) ++ fld "state" (txt "RETIRED")
  | .keyRevoke id => fld "id" (idText id) ++ fld "state" (txt "REVOKED")
  | _ => []

/-- The error of a Vault status (R172, R333; Table 4.6); a KEYGEN that gives no pair ends with code 5. -/
def vltErr (v : Verb) (code : Nat) : Nat × List Byte :=
  let gen := match v with | .keyGen _ => true | _ => false
  match code with
  | 9 => (31, []) | 18 => (31, []) | 13 => (22, []) | 12 => (50, []) | 8 => (12, argDetail "LEN") | 16 => (60, []) | 19 => (41, [])
  | 5 => if gen then (50, []) else (40, 0x20 :: vltName 5)
  | _ => (40, 0x20 :: vltName code)

/-- VERB_COMMIT_REPLY (R150). -/
def State.commitReply (s : State) : State :=
  match s.con.busy with
  | .commit tag v .took => s.replyOk tag (s.tookText v)
  | .commit tag _ (.refused code d) => s.replyErr tag code d
  | .commit _ (.authResp _) .issued => s.authLooked
  | .commit tag v .issued =>
    if s.vltRuns then s
    else
      let code := s.rd (VLT_STAT_CODE .con)
      if code = 0 then s.replyOk tag (s.keyText v) else s.replyErr tag (vltErr v code).1 (vltErr v code).2
  | _ => s

/-! ## Every form -/

/-- Step 9 of Table 4.5; `ch` is the challenge issued by the line before. -/
def State.perform (s : State) (tag : Option Byte) (ch : Option Chal) (v : Verb) : State :=
  match v with
  | .help => s.replyLines tag s.helpRows
  | .helpVerb n => s.replyLines tag (s.helpVerbRows n)
  | .helpApplet n => s.replyLines tag (s.helpAppletRows n)
  | .info => s.replyOk tag s.infoText
  | .modeShow => s.replyOk tag s.modeText
  | .modeChange dest => s.doMode tag dest
  | .echoOn => s.doEcho tag true
  | .echoOff => s.doEcho tag false
  | .echoShow => s.replyOk tag s.echoText
  | .lineShow => s.replyOk tag (fld "baud" s.baudText ++ s.echoText)
  | .lineBaud n => s.doBaud tag n
  | .authLevel l => s.doAuthLevel tag l.val
  | .authResp h => s.doAuthResp tag ch (some h)
  | .authBad => s.doAuthResp tag ch none
  | .authCard p => s.doAuthCard tag ch p
  | .logout => s.doLogout tag
  | .confirm _ => s.replyErr tag 12
  | .stat => s.replyOk tag s.statText
  | .statReset => s.replyOk tag s.statResetText
  | .statRise => s.replyOk tag s.statRiseText
  | .logTamper n => s.replyLines tag (s.tamperRows n)
  | .logAttic t n => s.doAttic tag t n
  | .count => s.replyLines tag s.ctrRows
  | .countCtr c => s.doCounter tag c
  | .countRing c n => s.waitCommit tag (.countRing c n)
  | .tickShow => s.replyOk tag s.tickText
  | .tickJobs => s.replyLines tag s.jobRows
  | .tickSet per bgf => s.doTickSet tag per bgf
  | .timeShow => s.replyOk tag s.timeText
  | .timeAdj d => s.doAdj tag d
  | .timeSet utc pps => s.doTimeSet tag utc pps
  | .calShow => s.calText.2.replyOk tag s.calText.1
  | .calK p k => s.doCalK tag p k
  | .calRun => s.doCalRun tag
  | .calRaw n => s.doCalRaw tag n
  | .portList => s.replyLines tag s.portRows
  | .portShow p => s.replyOk tag (s.portStatText p)
  | .portFn p c => s.doPortFn tag p c
  | .portClear p => s.doPortClear tag p
  | .queueList => s.replyLines tag s.queueRows
  | .queueShow q => s.replyOk tag (s.queueText q)
  | .queueFlush q => s.doFlush tag q
  | .storeShow => s.replyOk tag s.storeText
  | .storeFind r k => s.doFind tag r k
  | .storeSize k c a0 a1 h => s.doSize tag k c a0 a1 h
  | .keyList | .keyShow _ | .keyStage _ | .keyData _ _ | .keyWrite | .keyGen _ | .keyRetire _ | .keyRevoke _ => s.doKey tag v
  | .watchList => s.replyLines tag s.watchRows
  | .watchSrc n => s.replyOk tag (s.watchText n)
  | .watchSet n r f => s.doWatchSet tag n r f
  | .watchFloor n r => (s.waitPut .con (WATCH_FLOOR n) r.code).waitCommit tag (.watchFloor n r)
  | .watchArm n => (s.waitPut .con (WATCH_ARM n) 1).waitCommit tag (.watchArm n)
  | .watchDisarm n => (s.waitPut .con (WATCH_ARM n) 0).waitCommit tag (.watchDisarm n)
  | .tele => s.replyOk tag s.teleText
  | .teleShow n => s.replyLines tag ((s.teleRecs.take n).map hexBytes)
  | .telePer t => (s.waitPut .con TELE_CFG_PER t).waitCommit tag (.telePer t)
  | .teleStreamOn => s.doStream tag true
  | .teleStreamOff => s.doStream tag false
  | .imageList => s.replyLines tag s.imageRows
  | .imageBegin k n c => s.doImgBegin tag k n c
  | .imageData off d => s.doImgData tag off d
  | .imageEnd => s.doImgEnd tag
  | .imageAbort => s.doImgAbort tag
  | .lifeShow => s.replyOk tag s.lifeText
  | .lifeFit => s.lifeVcc tag (fun s => s.lifeBlow tag 0 (s.nextBits 1))
  | .lifeSeal => s.doSeal tag
  | .lifeErase => s.doErase tag
  | .lifeRetire => s.lifeVcc tag (fun s => s.lifeBlow tag 3 [12])
  | .lifeRefit => s.doRefit tag
  | .unlock => s.doUnlock tag
  | .reset => s.doReset tag

end Sys2Proof.Machine
end

