-- ==== Sys2Proof/Machine/Console.lean ====
section
/-!
DEFINITION. Console.lean: the receiver of the console, the order of decision of a line, and protected lines
(spec/04_miand_language.md, R109 to R142).
-/
namespace Sys2Proof.Machine

/-- CON_RX is listened to: CON has started, the main domain is on, and VIO is present (R112, R529). -/
def State.listening (s : State) : Bool := s.con.started && s.mainUp && decide (1500 ≤ s.si.vio)

/-- No line can be decided now: another one executes, or the mode is RISE (R110, R152). -/
def State.conBlocked (s : State) : Bool := s.con.busy != .idle || !s.con.started || s.sys.mode == .rise

/-! ## The order of decision (R128) -/

/-- Steps 5 to 9 of Table 4.5 for a form; `free` where its line carries a check or was confirmed. -/
def State.decideForm (s : State) (tag : Option Byte) (free : Bool) (ch : Option Chal) (f : Form) : State :=
  let v := f.1
  if !s.legal v then s.replyErr tag 20
  else if s.level < s.formLevel v then s.replyErr tag 21
  else match f.2, s.argBad v with
    | some n, _ => s.replyErr tag 12 (argDetail n)
    | none, some n => s.replyErr tag 12 (argDetail n)
    | none, none => if s.formProt v && !free then s.holdLine tag (.hw v) else s.perform tag ch v

/-- The held line decided again from step 5 (R141). -/
def State.heldAgain (s : State) (tag : Option Byte) (h : HeldLine) : State :=
  match h with
  | .hw v => s.decideForm tag true none (v, none)
  | .applet l chk =>
    match parseLine l with
    | some r => s.appletDecide tag false false l chk r
    | none => s.replyErr tag 12

/-- CONFIRM (R141, R142): a wrong token cancels the held line; a CONFIRM without a noun names no token, and keeps it (DEDUCED,
log entry 12). -/
def State.decideConfirm (s : State) (tag : Option Byte) (f : Form) : State :=
  match f with
  | (.confirm tok, none) =>
    let s1 := { s with con := { s.con with held := none } }
    (match s.con.held with
    | some (h, t) => if t = tok then s1.heldAgain tag h else s1.replyErr tag 12
    | none => s1.replyErr tag 12)
  | _ => s.replyErr tag 12

/-- A form of a line, decided from step 5 on. -/
def State.decideVerb (s : State) (tag : Option Byte) (chk : Bool) (ch : Option Chal) (f : Form) : State :=
  if f.1.name = .confirm then s.decideConfirm tag f else s.decideForm tag chk ch f

/-- A line begins to be decided: it cancels the challenge of an earlier one, whatever it is answered (R134; DEDUCED, log entry
93), and shows that the rate holds (R109). -/
def State.lineStart (s : State) : State := { s with con := { s.con with chal := none, revert := none, busy := .exec } }

/-- A line other than CONFIRM cancels the held one (R142). -/
def State.heldDrop (s : State) : State := { s with con := { s.con with held := none } }

/-- The check is absent while it is mandatory (R120). -/
def State.chkMissing (s : State) (chk : Bool) : Bool := s.isSet CON_CFG_CHKREQ && !chk

/-- A whole line of a hardware verb, its check found correct or absent (a row of the opcode table). -/
def State.lineVerb (s : State) (l : Line) (v : Verb) : State :=
  if !s.listening || s.conBlocked then s
  else
    let ch := s.con.chal
    let s1 := s.lineStart
    let s2 := if v.name = .confirm then s1 else s1.heldDrop
    if s2.chkMissing l.chk then s2.replyErr l.tag 13 else s2.decideVerb l.tag l.chk ch (v, none)

/-- A line taken apart, from step 3 on; `l` is the line as received. -/
def State.decideRaw (s : State) (ch : Option Chal) (l : List Byte) (r : Raw) : State :=
  let sum := crc16 (lineCover l r)
  let chk := r.check.getD sum
  if chk != sum || s.chkMissing r.check.isSome then s.replyErr r.tag 13
  else if r.verb.head? = some 0x2E then s.appletDecide r.tag r.check.isSome true l chk r
  else match VerbName.all.find? (fun v => v.text == r.verb) with
    | none => s.replyErr r.tag 11
    | some v => s.decideVerb r.tag r.check.isSome ch (s.formOf r v)

/-- A whole line of an applet verb (a row of the opcode table): the text from its verb on. -/
def State.lineApplet (s : State) (l : Line) (text : List Byte) : State :=
  if !s.listening || s.conBlocked then s
  else
    let s1 := s.lineStart.heldDrop
    match parseLine text with
    | some r =>
      if r.verb.head? = some 0x2E ∧ r.tag = none ∧ r.check = none ∧ text.length ≤ 240 ∧ text.all printable then
        if s1.chkMissing l.chk then s1.replyErr l.tag 13 else s1.appletDecide l.tag l.chk true text (crc16 text) r
      else s1.replyErr l.tag 10
    | none => s1.replyErr l.tag 10

/-! ## The receiver -/

/-- A line has ended (Table 4.5): `ovf` where bytes of it were dropped; its tag is then not known (log entry 91). A line of spaces
only receives no reply (R115), and cancels a challenge and a held line as any line does (R134, R142). -/
def State.lineEnd (s : State) (ovf : Bool) : State :=
  let l := s.con.line
  let excess := s.con.excess
  let s1 := { s with con := { s.con with line := [], excess := [], revert := none } }
  if (l ++ excess).all (· == 0x20) ∧ excess = [] ∧ !ovf then { s1 with con := { s1.con with chal := none, held := none } }.conPrompt
  else
    let s2 := s1.lineStart
    if ovf then s2.heldDrop.replyErr none 22
    else if excess ≠ [] ∨ !l.all printable then s2.heldDrop.replyErr (e10Tag (l ++ excess)) 10
    else match parseLine l with
      | none => s2.heldDrop.replyErr (e10Tag l) 10
      | some r => (if r.verb = txt "CONFIRM" then s2 else s2.heldDrop).decideRaw s.con.chal l r

/-- The line in reception is discarded (R111, R119). -/
def State.rxDrop (s : State) : State := { s with con := { s.con with line := [], excess := [] } }

/-- Ctrl-C between lines (R119). -/
def State.breakLine (s : State) : State :=
  let s1 := s.rxDrop
  if s1.echo then (s1.conTx (txt "^C" ++ [0x0D, 0x0A])).conPrompt else s1

/-- A terminator: echoed as CR LF in typed mode (R117). -/
def State.endByte (s : State) (cr ovf : Bool) : State :=
  let s1 := { s with con := { s.con with cr := cr } }
  (if s1.echo then s1.conTx [0x0D, 0x0A] else s1).lineEnd ovf

/-- The last of the characters up to the 240th is removed (R117; log entry 91). -/
def State.eraseByte (s : State) : State :=
  match s.con.line.getLast? with
  | none => s
  | some b =>
    let s1 := { s with con := { s.con with line := s.con.line.dropLast } }
    if printable b then s1.conTx [0x08, 0x20, 0x08] else s1

/-- A character of the line (R114, R117): the 241st makes it overlong. -/
def State.charByte (s : State) (b : Byte) : State :=
  if 240 ≤ s.con.line.length then
    let s1 := { s with con := { s.con with excess := s.con.excess ++ [b] } }.wr CON_ERR_LONG 1
    if s1.echo then s1.conTx [0x07] else s1
  else
    let s1 := { s with con := { s.con with line := s.con.line ++ [b] } }
    if s1.echo ∧ printable b then s1.conTx [b] else s1

/-- A byte of a line, where no line executes. -/
def State.byteIn (s : State) (b : Byte) : State :=
  if b = 0x0A ∧ s.con.cr then { s with con := { s.con with cr := false } }
  else
    let s1 := { s with con := { s.con with cr := false } }
    if b = 0x03 then s1.breakLine
    else if b = 0x0D ∨ b = 0x0A then s1.endByte (b == 0x0D) false
    else if s1.echo ∧ (b = 0x08 ∨ b = 0x7F) then s1.eraseByte
    else s1.charByte b

/-- The bytes the FIFO holds (R110); the end of a line of which bytes were dropped takes the place of its terminator. -/
def fifoDepth : Nat := 256

/-- A terminator in the FIFO, and one that an LF right after it belongs to (R113). -/
def RxItem.isEnd (e : RxItem) : Bool := match e with | .cut _ => true | .byte b => b == 0x0D || b == 0x0A
def RxItem.isCr (e : RxItem) : Bool := match e with | .cut cr => cr | .byte b => b == 0x0D

/-- A byte into the FIFO (R110, R113): when it is full, bytes are dropped up to the next terminator. -/
def State.fifoPut (s : State) (b : Byte) : State :=
  let put (e : RxItem) : State := { s with con := { s.con with fifo := s.con.fifo ++ [e], ovf := false } }
  let term := b == 0x0D || b == 0x0A
  if s.con.ovf then (if term then put (.cut (b == 0x0D)) else s)
  else if s.con.fifo.length < fifoDepth then put (.byte b)
  else if b = 0x0A ∧ (s.con.fifo.getLast?.map RxItem.isCr).getD false then s
  else if term then (put (.cut (b == 0x0D))).wr CON_ERR_OVF 1
  else { s.wr CON_ERR_OVF 1 with con := { s.con with ovf := true } }

/-- An entry of the FIFO is taken. -/
def State.fifoTake (s : State) : State :=
  match s.con.fifo with
  | [] => s
  | e :: t =>
    let s1 := { s with con := { s.con with fifo := t } }
    match e with
    | .byte b => s1.byteIn b
    | .cut cr => s1.endByte cr true

/-- The waiting bytes are taken in order, as long as no line executes; `n` bounds their number. -/
def State.drain : Nat → State → State
  | 0, s => s
  | n + 1, s => if s.conBlocked ∨ s.con.fifo = [] then s else State.drain n s.fifoTake

/-- What waits in the FIFO is decided (R110, R152). -/
def State.conDrain (s : State) : State := State.drain s.con.fifo.length s

/-- A byte in its turn: it waits behind those that wait, and while a line executes; the rest of a line of which bytes were dropped
is dropped (R110). -/
def State.rxNext (s : State) (b : Byte) : State :=
  if s.conBlocked ∨ s.con.fifo ≠ [] ∨ s.con.ovf then (s.fifoPut b).conDrain else s.byteIn b

/-- A byte arrives (R110, R119): a Ctrl-C during an applet wait ends the wait at once, and discards the line in reception in its
turn. -/
def State.rxByte (s : State) (b : Byte) : State :=
  if !s.listening then s
  else if b = 0x03 ∧ s.appletWaits then
    let s1 := s.appletGiveUp
    if s1.listening then s1.rxNext b else s1
  else s.rxNext b

/-- The bytes that wait without the line that is still in reception. -/
def fifoWhole (l : List RxItem) : List RxItem := (l.reverse.dropWhile (fun e => !e.isEnd)).reverse

/-- FRAMING_LOSS (R111): the line in reception is discarded; what follows it is a line of its own (DESIGN CHOICE, log
entry 92). -/
def State.framing (s : State) : State :=
  if !s.listening then s
  else
    let s1 := if s.con.fifo.any RxItem.isEnd then s else s.rxDrop
    let s2 := { s1 with con := { s1.con with fifo := fifoWhole s1.con.fifo, ovf := false, cr := false } }
    (s2.wr CON_ERR_FRAME 1).sessionEnd "FRAMING"

/-- BAUD_REVERT (R109). -/
def State.baudBack (s : State) : State :=
  match s.con.revert with
  | some b =>
    if s.con.busy != .idle then s
    else
      let s1 := { s with con := { s.con with revert := none } }.wr CON_LINE_BAUD b.toNat
      s1.notice (txt "!LINE" ++ fld "BAUD" (dec (bauds.getD b.toNat 0)))
  | none => s

/-- HOLD_EXPIRY (R142). -/
def State.holdEnds (s : State) : State :=
  match s.con.held with
  | some (_, t) => s.heldDrop.notice (txt "!HOLD EXPIRED" ++ fld "tok" (hexN 4 t.toNat))
  | none => s

/-- CHALLENGE_EXPIRY (R134): an answer to it is late from now on. -/
def State.challengeEnds (s : State) : State :=
  { s with con := { s.con with chal := s.con.chal.map (fun c => { c with late := true }) } }

end Sys2Proof.Machine
end

