-- ==== Sys2Proof/Machine/ConsoleCmds.lean ====
section
/-!
DEFINITION. ConsoleCmds.lean: the meanings of the console's commands: bytes and timeouts, the ends of what CON waits for, and
one whole line of each form (spec/04_miand_language.md, spec/05_miand_verbs.md). A row of a form stands for its line; its echo
is the effect of its bytes.
-/
namespace Sys2Proof.Machine

/-! ## Bytes and framing -/

/-- CONSOLE_BYTE (R110, R113 to R119). -/
def execConsoleByte (b : Byte) (s : State) : Host.Outcome State Fault Refusal := .next (s.rxByte b)

/-- CTRL_C (R119). -/
def execCtrlC (s : State) : Host.Outcome State Fault Refusal := .next (s.rxByte 0x03)

/-- FRAMING_LOSS (R111). -/
def execFramingLoss (s : State) : Host.Outcome State Fault Refusal := .next s.framing

/-! ## Timeouts -/

/-- BAUD_REVERT (R109). -/
def execBaudRevert (s : State) : Host.Outcome State Fault Refusal := .next s.baudBack

/-- SESSION_IDLE_TIMEOUT (R138). -/
def execSessionIdleTimeout (s : State) : Host.Outcome State Fault Refusal := .next (s.sessionEnd "IDLE")

/-- CHALLENGE_EXPIRY (R134). -/
def execChallengeExpiry (s : State) : Host.Outcome State Fault Refusal := .next s.challengeEnds

/-- HOLD_EXPIRY (R142). -/
def execHoldExpiry (s : State) : Host.Outcome State Fault Refusal := .next s.holdEnds

/-- APPLET_TIMEOUT (R30). -/
def execAppletTimeout (s : State) : Host.Outcome State Fault Refusal := .next s.appletGiveUp.conDrain

/-- TIME_SET_PPS_TIMEOUT (R166). -/
def execTimeSetPpsTimeout (s : State) : Host.Outcome State Fault Refusal := .next s.ppsTimeout.conDrain

/-! ## What CON waits for -/

/-- APPLET_REPLY (R147). -/
def execAppletReply (n : Fin 16) (s : State) : Host.Outcome State Fault Refusal := .next (s.appletReply n).conDrain

/-- VERB_REG (R143 to R145). -/
def execVerbReg (n : Fin 16) (s : State) : Host.Outcome State Fault Refusal := .next (s.verbReg n)

/-- MODE_REQ (R35, R36). -/
def execModeReq (n : Fin 16) (s : State) : Host.Outcome State Fault Refusal := .next (s.modeReq n)

/-- AUTH_CARD_RESPONSE (R135). -/
def execAuthCardResponse (s : State) : Host.Outcome State Fault Refusal := .next s.authCardEnds.conDrain

/-- VERB_COMMIT_REPLY (R150). -/
def execVerbCommitReply (s : State) : Host.Outcome State Fault Refusal := .next s.commitReply.conDrain

/-- VERB_RESET (R151). -/
def execVerbReset (s : State) : Host.Outcome State Fault Refusal := .next s.verbReset

/-- LIFE_FUSE_RESUME (R81). -/
def execLifeFuseResume (vcc : BitVec 16) (s : State) : Host.Outcome State Fault Refusal := .next (s.fuseResume vcc.toNat)

/-- What CON does at a boundary: its lookup, and the lines that waited (R133, R152). -/
def State.conBoundary (s : State) : State := s.authBoundary.conDrain

/-- TICK_BOUNDARY, while the tick runs. -/
def State.tickStep (s : State) (e : TickEnv) : State := if s.isSet TICK_STAT_RUN && s.mainUp then (s.tickEdge e).conBoundary else s

/-- TICK_BOUNDARY (R20, R46 to R54). -/
def execTickBoundary (env : TickEnv) (s : State) : Host.Outcome State Fault Refusal := .next (s.tickStep env)

/-- HOLD_EXIT, likewise. -/
def State.holdStep (s : State) (e : TickEnv) : State := if s.isSet TICK_STAT_RUN && s.mainUp then (s.holdExit e).conBoundary else s.holdExit e

/-- HOLD_EXIT (R91). -/
def execHoldExit (env : TickEnv) (s : State) : Host.Outcome State Fault Refusal := .next (s.holdStep env)

/-! ## Lines -/

/-- APPLET_VERB (R146). -/
def execAppletVerb (l : Line) (text : List Byte) (s : State) : Host.Outcome State Fault Refusal := .next (s.lineApplet l text)

/-- HELP (R154). -/
def execHelp (l : Line) (s : State) : Host.Outcome State Fault Refusal := .next (s.lineVerb l .help)

/-- HELP_VERB (R154). -/
def execHelpVerb (l : Line) (v : VerbName) (s : State) : Host.Outcome State Fault Refusal := .next (s.lineVerb l (.helpVerb v))

/-- INFO (R155). -/
def execInfo (l : Line) (s : State) : Host.Outcome State Fault Refusal := .next (s.lineVerb l .info)

/-- MODE (R156). -/
def execModeShow (l : Line) (s : State) : Host.Outcome State Fault Refusal := .next (s.lineVerb l .modeShow)

/-- MODE with a mode (R77, R86, R156). -/
def execModeChange (l : Line) (m : Mode) (s : State) : Host.Outcome State Fault Refusal := .next (s.lineVerb l (.modeChange m))

/-- ECHO ON (R157). -/
def execEchoOn (l : Line) (s : State) : Host.Outcome State Fault Refusal := .next (s.lineVerb l .echoOn)

/-- ECHO OFF (R157). -/
def execEchoOff (l : Line) (s : State) : Host.Outcome State Fault Refusal := .next (s.lineVerb l .echoOff)

/-- ECHO (R157). -/
def execEchoShow (l : Line) (s : State) : Host.Outcome State Fault Refusal := .next (s.lineVerb l .echoShow)

/-- LINE (R157). -/
def execLineShow (l : Line) (s : State) : Host.Outcome State Fault Refusal := .next (s.lineVerb l .lineShow)

/-- LINE BAUD= (R109, R157). -/
def execLineBaud (l : Line) (baud : Nat) (s : State) : Host.Outcome State Fault Refusal := .next (s.lineVerb l (.lineBaud baud))

/-- AUTH Ln (R134, R158). -/
def execAuthLevel (l : Line) (lv : Fin 6) (s : State) : Host.Outcome State Fault Refusal := .next (s.lineVerb l (.authLevel lv))

/-- AUTH RESP= (R136, R137). -/
def execAuthResp (l : Line) (h : BitVec 64) (s : State) : Host.Outcome State Fault Refusal := .next (s.lineVerb l (.authResp h))

/-- AUTH CARD= (R135). -/
def execAuthCard (l : Line) (p : PortId) (s : State) : Host.Outcome State Fault Refusal := .next (s.lineVerb l (.authCard p))

/-- LOGOUT (R159). -/
def execLogout (l : Line) (s : State) : Host.Outcome State Fault Refusal := .next (s.lineVerb l .logout)

/-- CONFIRM (R141, R142). -/
def execConfirm (l : Line) (tok : BitVec 16) (s : State) : Host.Outcome State Fault Refusal :=
  .next (s.lineVerb l (.confirm tok))

/-- STAT (R160). -/
def execStat (l : Line) (s : State) : Host.Outcome State Fault Refusal := .next (s.lineVerb l .stat)

/-- STAT RESET (R160). -/
def execStatReset (l : Line) (s : State) : Host.Outcome State Fault Refusal := .next (s.lineVerb l .statReset)

/-- STAT RISE (R160). -/
def execStatRise (l : Line) (s : State) : Host.Outcome State Fault Refusal := .next (s.lineVerb l .statRise)

/-- LOG TAMPER (R161). -/
def execLogTamper (l : Line) (n : Nat) (s : State) : Host.Outcome State Fault Refusal := .next (s.lineVerb l (.logTamper n))

/-- LOG ATTIC (R161). -/
def execLogAttic (l : Line) (t : Option (Fin 8)) (n : Nat) (s : State) : Host.Outcome State Fault Refusal :=
  .next (s.lineVerb l (.logAttic t n))

/-- COUNT (R162). -/
def execCount (l : Line) (s : State) : Host.Outcome State Fault Refusal := .next (s.lineVerb l .count)

/-- COUNT CTRn (R162). -/
def execCountCtr (l : Line) (c : CtrId) (s : State) : Host.Outcome State Fault Refusal := .next (s.lineVerb l (.countCtr c))

/-- COUNT RING (R162). -/
def execCountRing (l : Line) (c : CtrId) (slots : Nat) (s : State) : Host.Outcome State Fault Refusal :=
  .next (s.lineVerb l (.countRing c slots))

/-- TICK (R163). -/
def execTickShow (l : Line) (s : State) : Host.Outcome State Fault Refusal := .next (s.lineVerb l .tickShow)

/-- TICK JOBS (R163). -/
def execTickJobs (l : Line) (s : State) : Host.Outcome State Fault Refusal := .next (s.lineVerb l .tickJobs)

/-- TICK SET (R163). -/
def execTickSet (l : Line) (per : Option Nat) (bgf : Option Nat) (s : State) : Host.Outcome State Fault Refusal :=
  .next (s.lineVerb l (.tickSet per bgf))

/-- TIME (R164). -/
def execTimeShow (l : Line) (s : State) : Host.Outcome State Fault Refusal := .next (s.lineVerb l .timeShow)

/-- TIME ADJ (R165). -/
def execTimeAdj (l : Line) (d : Int) (s : State) : Host.Outcome State Fault Refusal := .next (s.lineVerb l (.timeAdj d))

/-- TIME SET (R166). -/
def execTimeSet (l : Line) (utc : Word) (pps : Bool) (s : State) : Host.Outcome State Fault Refusal :=
  .next (s.lineVerb l (.timeSet utc pps))

/-- CAL (R167). -/
def execCalShow (l : Line) (s : State) : Host.Outcome State Fault Refusal := .next (s.lineVerb l .calShow)

/-- CAL K (R167). -/
def execCalK (l : Line) (p : PortId) (k16 : Nat) (s : State) : Host.Outcome State Fault Refusal :=
  .next (s.lineVerb l (.calK p k16))

/-- CAL RUN (R167). -/
def execCalRun (l : Line) (s : State) : Host.Outcome State Fault Refusal := .next (s.lineVerb l .calRun)

/-- CAL RAW (R167). -/
def execCalRaw (l : Line) (n : Nat) (s : State) : Host.Outcome State Fault Refusal := .next (s.lineVerb l (.calRaw n))

/-- PORT (R168). -/
def execPortList (l : Line) (s : State) : Host.Outcome State Fault Refusal := .next (s.lineVerb l .portList)

/-- PORT Pn (R168). -/
def execPortShow (l : Line) (p : PortId) (s : State) : Host.Outcome State Fault Refusal := .next (s.lineVerb l (.portShow p))

/-- PORT Pn FN= (R168). -/
def execPortFn (l : Line) (p : PortId) (c : PortCfg) (s : State) : Host.Outcome State Fault Refusal :=
  .next (s.lineVerb l (.portFn p c))

/-- PORT Pn CLEAR (R168). -/
def execPortClear (l : Line) (p : PortId) (s : State) : Host.Outcome State Fault Refusal := .next (s.lineVerb l (.portClear p))

/-- QUEUE (R169). -/
def execQueueList (l : Line) (s : State) : Host.Outcome State Fault Refusal := .next (s.lineVerb l .queueList)

/-- QUEUE Qn (R169). -/
def execQueueShow (l : Line) (q : QueueId) (s : State) : Host.Outcome State Fault Refusal := .next (s.lineVerb l (.queueShow q))

/-- QUEUE Qn FLUSH (R169). -/
def execQueueFlush (l : Line) (q : QueueId) (s : State) : Host.Outcome State Fault Refusal :=
  .next (s.lineVerb l (.queueFlush q))

/-- STORE (R170). -/
def execStoreShow (l : Line) (s : State) : Host.Outcome State Fault Refusal := .next (s.lineVerb l .storeShow)

/-- STORE FIND (R170). -/
def execStoreFind (l : Line) (r : Region) (key : BitVec 160) (s : State) : Host.Outcome State Fault Refusal :=
  .next (s.lineVerb l (.storeFind r key))

/-- STORE SIZE (R170). -/
def execStoreSize (l : Line) (k c a0 a1 h : Nat) (s : State) : Host.Outcome State Fault Refusal :=
  .next (s.lineVerb l (.storeSize k c a0 a1 h))

/-- KEY LIST (R171). -/
def execKeyList (l : Line) (s : State) : Host.Outcome State Fault Refusal := .next (s.lineVerb l .keyList)

/-- KEY SHOW (R171, R172). -/
def execKeyShow (l : Line) (id : Word) (s : State) : Host.Outcome State Fault Refusal := .next (s.lineVerb l (.keyShow id))

/-- KEY STAGE (R171). -/
def execKeyStage (l : Line) (k : KeyArgs) (s : State) : Host.Outcome State Fault Refusal := .next (s.lineVerb l (.keyStage k))

/-- KEY DATA (R171). -/
def execKeyData (l : Line) (off : Nat) (v : List Byte) (s : State) : Host.Outcome State Fault Refusal :=
  .next (s.lineVerb l (.keyData off v))

/-- KEY WRITE (R172). -/
def execKeyWrite (l : Line) (s : State) : Host.Outcome State Fault Refusal := .next (s.lineVerb l .keyWrite)

/-- KEY GEN (R171, R172). -/
def execKeyGen (l : Line) (k : KeyArgs) (s : State) : Host.Outcome State Fault Refusal := .next (s.lineVerb l (.keyGen k))

/-- KEY RETIRE (R171). -/
def execKeyRetire (l : Line) (id : Word) (s : State) : Host.Outcome State Fault Refusal := .next (s.lineVerb l (.keyRetire id))

/-- KEY REVOKE (R171). -/
def execKeyRevoke (l : Line) (id : Word) (s : State) : Host.Outcome State Fault Refusal := .next (s.lineVerb l (.keyRevoke id))

/-- WATCH (R173). -/
def execWatchList (l : Line) (s : State) : Host.Outcome State Fault Refusal := .next (s.lineVerb l .watchList)

/-- WATCH SRC= (R173). -/
def execWatchSrc (l : Line) (n : SrcId) (s : State) : Host.Outcome State Fault Refusal := .next (s.lineVerb l (.watchSrc n))

/-- WATCH SET (R173). -/
def execWatchSet (l : Line) (n : SrcId) (resp : Option Resp) (filt : Option Byte) (s : State) : Host.Outcome State Fault Refusal :=
  .next (s.lineVerb l (.watchSet n resp filt))

/-- WATCH FLOOR (R173). -/
def execWatchFloor (l : Line) (n : SrcId) (resp : Resp) (s : State) : Host.Outcome State Fault Refusal :=
  .next (s.lineVerb l (.watchFloor n resp))

/-- WATCH ARM (R173). -/
def execWatchArm (l : Line) (n : SrcId) (s : State) : Host.Outcome State Fault Refusal := .next (s.lineVerb l (.watchArm n))

/-- WATCH DISARM (R173). -/
def execWatchDisarm (l : Line) (n : SrcId) (s : State) : Host.Outcome State Fault Refusal :=
  .next (s.lineVerb l (.watchDisarm n))

/-- TELE (R174). -/
def execTele (l : Line) (s : State) : Host.Outcome State Fault Refusal := .next (s.lineVerb l .tele)

/-- TELE SHOW (R174). -/
def execTeleShow (l : Line) (n : Nat) (s : State) : Host.Outcome State Fault Refusal := .next (s.lineVerb l (.teleShow n))

/-- TELE PER= (R174). -/
def execTelePer (l : Line) (t : Nat) (s : State) : Host.Outcome State Fault Refusal := .next (s.lineVerb l (.telePer t))

/-- TELE STREAM ON (R174). -/
def execTeleStreamOn (l : Line) (s : State) : Host.Outcome State Fault Refusal := .next (s.lineVerb l .teleStreamOn)

/-- TELE STREAM OFF (R174). -/
def execTeleStreamOff (l : Line) (s : State) : Host.Outcome State Fault Refusal := .next (s.lineVerb l .teleStreamOff)

/-- IMAGE (R175). -/
def execImageList (l : Line) (s : State) : Host.Outcome State Fault Refusal := .next (s.lineVerb l .imageList)

/-- IMAGE BEGIN (R175). -/
def execImageBegin (l : Line) (k : ImgKind) (len : Nat) (crc : Option Word) (s : State) : Host.Outcome State Fault Refusal :=
  .next (s.lineVerb l (.imageBegin k len crc))

/-- IMAGE DATA (R176). -/
def execImageData (l : Line) (off : Nat) (v : List Byte) (s : State) : Host.Outcome State Fault Refusal :=
  .next (s.lineVerb l (.imageData off v))

/-- IMAGE END (R177). -/
def execImageEnd (l : Line) (s : State) : Host.Outcome State Fault Refusal := .next (s.lineVerb l .imageEnd)

/-- IMAGE ABORT (R175). -/
def execImageAbort (l : Line) (s : State) : Host.Outcome State Fault Refusal := .next (s.lineVerb l .imageAbort)

/-- LIFE (R179). -/
def execLifeShow (l : Line) (s : State) : Host.Outcome State Fault Refusal := .next (s.lineVerb l .lifeShow)

/-- LIFE FIT (R81, R179). -/
def execLifeFit (l : Line) (s : State) : Host.Outcome State Fault Refusal := .next (s.lineVerb l .lifeFit)

/-- LIFE SEAL (R180). -/
def execLifeSeal (l : Line) (s : State) : Host.Outcome State Fault Refusal := .next (s.lineVerb l .lifeSeal)

/-- LIFE ERASE (R81, R83). -/
def execLifeErase (l : Line) (s : State) : Host.Outcome State Fault Refusal := .next (s.lineVerb l .lifeErase)

/-- LIFE RETIRE (R81, R179). -/
def execLifeRetire (l : Line) (s : State) : Host.Outcome State Fault Refusal := .next (s.lineVerb l .lifeRetire)

/-- LIFE REFIT (R81, R179). -/
def execLifeRefit (l : Line) (s : State) : Host.Outcome State Fault Refusal := .next (s.lineVerb l .lifeRefit)

/-- UNLOCK (R181). -/
def execUnlock (l : Line) (s : State) : Host.Outcome State Fault Refusal := .next (s.lineVerb l .unlock)

/-- RESET (R182). -/
def execReset (l : Line) (s : State) : Host.Outcome State Fault Refusal := .next (s.lineVerb l .reset)

end Sys2Proof.Machine
end

