-- ==== Sys2Proof/Machine/Cores.lean ====
section
/-!
DEFINITION. Cores.lean: the accesses of the application cores to memory, their PMP, exceptions and interrupts
(spec/10_cores.md). The instructions between the commands are the cores' own; `CoreAt` says where they led.
-/
namespace Sys2Proof.Machine

/-- A core changed. -/
def State.core (s : State) (c : CpuId) (f : Core → Core) : State := { s with cpu := s.cpu.upd c f }

/-! ## Traps (R300, R303, the RISC-V privileged specification) -/

/-- The handler of a trap: mtvec's base, for an interrupt in vectored mode base + 0x2C (R303). -/
def Core.handler (x : Core) (intr : Bool) : Word :=
  let base := BitVec.ofNat 32 (x.mtvec.toNat / 4 * 4)
  if intr ∧ x.mtvec.toNat % 4 = 1 then base + 0x2C else base

/-- Trap entry into M-mode at the instruction where the core stands. The reservation is lost (R300). -/
def Core.trapped (x : Core) (intr : Bool) (cause : Nat) (tval : Word) : Core :=
  { x with
    mepc := BitVec.ofNat 32 (x.pc.toNat / 2 * 2)
    mcause := BitVec.ofNat 32 (cause + if intr then 2 ^ 31 else 0)
    mtval := tval
    mpie := x.mie
    mie := false
    mppU := x.user
    user := false
    resv := none
    pc := x.handler intr }

/-- A core takes an exception. -/
def State.trap (s : State) (c : CpuId) (cause : Nat) (tval : Word) : State := s.core c (fun x => x.trapped false cause tval)

/-- MRET: the privilege and the enable that the trap saved come back; the reservation is lost (R300). -/
def Core.mret (x : Core) : Core :=
  { x with
    user := x.mppU
    mie := x.mpie
    mpie := true
    mprv := if x.mppU then false else x.mprv
    mppU := true
    resv := none
    pc := x.mepc }

/-- A general register written; x0 stays 0. -/
def Core.setX (x : Core) (r : Fin 32) (v : Word) : Core := if r = 0 then x else { x with x := x.x.put r v }

/-- The core stands at an instruction. The instructions on the way have written their registers; an MRET returns, in U-mode it
is an illegal instruction; an ECALL traps with cause 8 from U-mode and 11 from M-mode (R286, the RISC-V privileged
specification). -/
def Core.arrive (x : Core) (i : CoreAt) : Core :=
  let z := i.wrote.foldl (fun x e => x.setX e.1 e.2) x
  let y := match i.via with
    | .on => z
    | .mret f => if z.user then { z with pc := f }.trapped false 2 0 else z.mret
    | .ecall f => { z with pc := f }.trapped false (if z.user then 8 else 11) 0
  { y with pc := i.pc, minstret := y.minstret + (i.ran.zeroExtend 64), wfi := false }

/-- An instruction of a core that runs. -/
def State.instr (s : State) (c : CpuId) (i : CoreAt) (f : State → State) : State :=
  if s.coreRuns c then f (s.core c (fun x => x.arrive i)) else s

/-- The instruction retires. -/
def State.retire (s : State) (c : CpuId) : State := s.core c (fun x => { x with minstret := x.minstret + 1 })

/-- What an instruction read stands in its destination register. -/
def State.toReg (s : State) (c : CpuId) (rd : Fin 32) : State := s.core c (fun x => x.setX rd x.rdata)

/-- The instruction has read a word into its destination register, and retires. -/
def State.reads (s : State) (c : CpuId) (rd : Fin 32) (w : Word) : State := ((s.loaded c w).toReg c rd).retire c

/-! ## PMP (R290 to R292) -/

/-- Ones at the low end of a number. -/
def lowOnes : Nat → Nat → Nat
  | 0, _ => 0
  | n + 1, v => if v % 2 = 1 then 1 + lowOnes n (v / 2) else 0

/-- The address range of a PMP entry, by its A field: OFF, TOR, NAPOT; granularity 32 bytes. -/
def Core.pmpRange (x : Core) (i : Fin 16) : Option (Nat × Nat) :=
  let v := (x.pmpaddr.at i).toNat
  match bits (x.pmpcfg.at i).toNat 3 2 with
  | 1 =>
    let lo := if i.val = 0 then 0 else (x.pmpaddr.at (finOf 16 (i.val - 1))).toNat
    some (lo / 8 * 32, v / 8 * 32)
  | 3 =>
    let w := v ||| 3
    let t := lowOnes 32 w
    some ((w + 1 - 2 ^ t) * 4, (w + 1 - 2 ^ t) * 4 + 2 ^ (t + 3))
  | _ => none

/-- The lowest entry that a range of bytes touches. -/
def Core.pmpFirst (x : Core) (a n : Nat) : List (Fin 16) → Option (Fin 16 × Nat × Nat)
  | [] => none
  | i :: t => match x.pmpRange i with
    | some (lo, hi) => if lo < a + n ∧ a < hi then some (i, lo, hi) else x.pmpFirst a n t
    | none => x.pmpFirst a n t

/-- The PMP permits an access: `bit` is 0 for a load, 1 for a store. -/
def Core.pmpOk (x : Core) (user : Bool) (bit a n : Nat) : Bool :=
  match x.pmpFirst a n (finList 16) with
  | none => !user
  | some (i, lo, hi) =>
    let g := (x.pmpcfg.at i).toNat
    decide (lo ≤ a) && decide (a + n ≤ hi) && ((!user && !bitAt g 7) || bitAt g bit)

/-- The privilege of loads and stores (R292). -/
def Core.dataUser (x : Core) : Bool := x.user || (x.mprv && x.mppU)

/-! ## Regions (Table 1.8) -/

/-- Regions of the core address map. -/
inductive Area where
  | rom | sram | window | larder | device | crate | shelf
deriving DecidableEq, Repr

/-- The region of an access; none outside Table 1.8. -/
def areaOf (a n : Nat) : Option Area :=
  if within a n 0 0x20000 then some .rom
  else if inSram a n then some .sram
  else if inWindow a n then some .window
  else if within a n ldrBase 0x40000 then some .larder
  else if within a n 0x40000000 0x14000 then some .device
  else if within a n crateBase 0x10000 then some .crate
  else if inShelf a n then some .shelf
  else none

/-- ROM, SRAM and the read window: normal ordering and the line buffer. -/
def Area.normal : Area → Bool
  | .rom | .sram | .window => true
  | _ => false

/-! ## Loads -/

/-- A byte of a normal region. -/
def State.normB (s : State) (a : Nat) : Byte := if a < 0x20000 then Config.romByte a else s.busB a

/-- The 32 bytes of a block. -/
def State.blockBytes (s : State) (blk : Nat) : List Byte := (List.range 32).map (fun k => s.normB (blk + k))

/-- A committed read of a busy Archive bank (R435): a program in progress completes first; an erase is suspended, or
completes first where it cannot be (DEDUCED, log entry 40). -/
def State.bankRead (s : State) (off : Nat) : State :=
  let b := bankOf off
  match s.bank.at b with
  | .program _ => s.progDone b
  | .erase _ false n => if s.isSet ARC_CFG_SUSPEND ∧ n < 256 then s.eraseSuspend off else s.eraseDone b
  | _ => s

/-- The read of a window offset waits for its bank. -/
def State.windowWait (s : State) (w : Nat) : State := match s.winPhys w with | some p => s.bankRead p | none => s

/-- What the line buffer may hold of a block other than what the memory holds: what it held, and what a speculative load since
the last load filled it with (R301). -/
def Core.held (x : Core) (blk : Nat) (fresh : List Byte) : List (List Byte) :=
  ((x.line.toList ++ x.past).filter (fun l => l.1 == blk && l.2 != fresh)).map (fun l => l.2)

/-- The line buffer after a load of a block (R294). Where speculation can have left other bytes there than the memory holds, the
load hits them or fills the buffer anew: a free choice (R301). -/
def State.lineFill (s : State) (c : CpuId) (blk : Nat) : State :=
  let fresh := s.blockBytes blk
  let held := (s.cpu.at c).held blk fresh
  let r : Nat × State := if held = [] then (0, s) else s.choose (held.length + 1)
  r.2.core c (fun x => { x with line := some (blk, held.getD r.1 fresh), past := [] })

/-- Byte `a` as the core's waiting stores leave it (R296). -/
def sbByte (a : Nat) (l : List (Nat × List Byte)) (b : Byte) : Byte :=
  l.foldl (fun b e => if e.1 ≤ a then e.2.getD (a - e.1) b else b) b

/-- A core's view of `n` bytes of the block its line buffer holds. -/
def State.coreView (s : State) (c : CpuId) (a n : Nat) : List Byte :=
  let x := s.cpu.at c
  (List.range n).map (fun k =>
    sbByte (a + k) x.sb (match x.line with | some l => l.2.getD (a + k - l.1) 0 | none => s.normB (a + k)))

/-- The word a load leaves in its register. -/
def loadWord (sgn : Bool) (l : List Byte) : Word :=
  let v := leNat l
  let h := 2 ^ (8 * l.length - 1)
  if sgn ∧ h ≤ v then BitVec.ofInt 32 ((v : Int) - 2 * h) else BitVec.ofNat 32 v

/-- A corrected SRAM read (R295). -/
def State.sramCorr (s : State) (c : CpuId) : State :=
  (s.bump (CPU_ECC_CORR c)).tele (fun p => { p with sram := p.sram + 1 })

/-- A load of a normal region. -/
def State.normLoad (s : State) (c : CpuId) (r : Area) (a n : Nat) : State × List Byte :=
  let s1 := if r = .window then s.windowWait (a % 0x10000000) else s
  let s2 := s1.lineFill c (block32 a)
  (s2, s2.coreView c a n)

/-- What a load with an uncorrectable error in its data does beside its fault (R295, R420, R434). -/
def State.loadUncorr (s : State) (r : Area) (a : Nat) : State :=
  match r with
  | .larder => s.ldrUncorr (a % 0x10000000)
  | .window => match s.winPhys (a % 0x10000000) with | some p => s.arcUncorr p | none => s
  | .sram => s.eccUncorr
  | _ => s

/-- What a corrected error does. -/
def State.loadCorr (s : State) (c : CpuId) (r : Area) (a : Nat) : State :=
  match r with
  | .larder => s.ldrCorr
  | .window => match s.winPhys (a % 0x10000000) with | some p => s.arcCorr p | none => s
  | .sram => s.sramCorr c
  | _ => s

/-- A load of a region other than the normal ones, its earlier stores visible. -/
def State.strongLoad (s : State) (c : CpuId) (rd : Fin 32) (r : Area) (a : Nat) (n : Nat) (sgn : Bool) : State :=
  match r with
  | .device =>
    if n = 4 ∧ deviceListed (a % 0x10000000) then ((s.devLoad c (a % 0x10000000)).toReg c rd).retire c
    else s.trap c 5 (BitVec.ofNat 32 a)
  | .larder => s.reads c rd (if ldrApp (a % 0x10000000) then loadWord sgn (s.getBytes a n) else 0)
  | _ => s.reads c rd (loadWord sgn (s.busBytes a n))

/-- CORE_LOAD. `ecc`: the data is clean, corrected, or not correctable. -/
def State.coreLoad (s : State) (c : CpuId) (rd : Fin 32) (a : Nat) (w : Width) (sgn : Bool) (ecc : Fin 3) : State :=
  let n := w.bytes
  let x := s.cpu.at c
  let v := BitVec.ofNat 32 a
  if a % n ≠ 0 then s.trap c 4 v
  else if !x.pmpOk x.dataUser 0 a n then s.trap c 5 v
  else match areaOf a n with
    | none => s.trap c 5 v
    | some r =>
      let plain := r == .rom || r == .device || r == .crate || r == .shelf || (r == .larder && !ldrApp (a % 0x10000000))
      if !plain ∧ ecc.val = 2 then
        let s1 := if r.normal then s else s.strongIssue c
        (s1.trap c 5 v).loadUncorr r a
      else
        let s1 := if !plain ∧ ecc.val = 1 then s.loadCorr c r a else s
        if r.normal then
          let l := s1.normLoad c r a n
          l.1.reads c rd (loadWord sgn l.2)
        else (s1.strongIssue c).strongLoad c rd r a n sgn

/-! ## Stores -/

/-- A store to a region other than SRAM, its earlier stores visible. -/
def State.strongStore (s : State) (c : CpuId) (r : Area) (a : Nat) (w : Width) (v : Word) : State :=
  let f := BitVec.ofNat 32 a
  match r with
  | .device =>
    if w = .b4 ∧ deviceListed (a % 0x10000000) then (s.retire c).devStore c.agent (a % 0x10000000) v else s.trap c 7 f
  | .larder => (s.retire c).larderStore (a % 0x10000000) w v
  | .crate => (s.retire c).misuse
  | .shelf => if w = .b4 then (s.retire c).shelfStore (finOf 4096 ((a % 0x10000000) / 4)) v else s.trap c 7 f
  | _ => s.trap c 7 f

/-- CORE_STORE: into the store buffer for SRAM, issued at commit for a strong region (R296, R297). -/
def State.coreStore (s : State) (c : CpuId) (a : Nat) (w : Width) (v : Word) : State :=
  let n := w.bytes
  let x := s.cpu.at c
  let f := BitVec.ofNat 32 a
  if a % n ≠ 0 then s.trap c 6 f
  else if !x.pmpOk x.dataUser 1 a n then s.trap c 7 f
  else match areaOf a n with
    | some .sram => (s.core c (fun x => { x with sb := x.sb ++ [(a, v.bytes.take n)] })).retire c
    | some .rom | some .window | none => s.trap c 7 f
    | some r => (s.strongIssue c).strongStore c r a w v

/-- STORE_BUFFER_DRAIN: the oldest waiting store becomes visible. The buffer stands still with the core's clock in HOLD. -/
def State.sbStep (s : State) (c : CpuId) : State :=
  match (s.cpu.at c).sb with
  | e :: t =>
    if s.sys.mode == .hold then s
    else (s.core c (fun x => { x with sb := t })).sramStore c e.1 e.2
  | [] => s

/-! ## Fences (R293, R298) -/

/-- A FENCE: before later loads the store buffer drains where W precedes R, and loads after it are not served from the line
buffer. -/
def State.fence (s : State) (c : CpuId) (w r : Bool) : State :=
  let s1 := if w && r then s.sbDrain c else s
  if r then s1.lineDrop c else s1

/-- FENCE.I: earlier stores of the core are visible, and its instruction cache holds nothing stale. -/
def State.fenceI (s : State) (c : CpuId) : State := (s.sbDrain c).core c (fun x => { x with stale := [] })

/-! ## Atomics (R300) -/

/-- The exception of an atomic access: misaligned, refused by the PMP, outside SRAM; none where it is performed. -/
def State.atomFault (s : State) (c : CpuId) (lr sc : Bool) (a : Nat) : Option Nat :=
  let x := s.cpu.at c
  if a % 4 ≠ 0 then some (if lr then 4 else 6)
  else if (!sc && !x.pmpOk x.dataUser 0 a 4) || (!lr && !x.pmpOk x.dataUser 1 a 4) || !inSram a 4 then
    some (if lr then 5 else 7)
  else none

/-- An atomic access acts as if a FENCE RW,RW stood before it (rl) or after it (aq). -/
def State.ordered (s : State) (c : CpuId) (on : Bool) : State := if on then s.fence c true true else s

/-- LR. -/
def State.lr (s : State) (c : CpuId) (rd : Fin 32) (a : Nat) (aq rl : Bool) (ecc : Fin 3) : State :=
  match s.atomFault c true false a with
  | some e => s.trap c e (BitVec.ofNat 32 a)
  | none =>
    if ecc.val = 2 then (s.trap c 5 (BitVec.ofNat 32 a)).eccUncorr
    else
      let s1 := s.ordered c rl
      let s2 := if ecc.val = 1 then s1.sramCorr c else s1
      let l := s2.normLoad c .sram a 4
      ((l.1.core c (fun x => { x with resv := some (block32 a) })).reads c rd (loadWord false l.2)).ordered c aq

/-- SC: the word is stored, behind the core's earlier stores, only where the reservation covers its block. 0 says success. -/
def State.sc (s : State) (c : CpuId) (rd : Fin 32) (a : Nat) (v : Word) (aq rl : Bool) : State :=
  match s.atomFault c false true a with
  | some e => s.trap c e (BitVec.ofNat 32 a)
  | none =>
    let s1 := s.ordered c rl
    let ok := decide ((s1.cpu.at c).resv = some (block32 a))
    let s2 := if ok then (s1.sbDrain c).sramStore c a v.bytes else s1
    ((s2.core c (fun x => { x with resv := none })).reads c rd (if ok then 0 else 1)).ordered c aq

/-- What an AMO writes. -/
def AmoOp.run (op : AmoOp) (old v : Word) : Word :=
  match op with
  | .swap => v
  | .add => old + v
  | .xor => old ^^^ v
  | .and => old &&& v
  | .or => old ||| v
  | .min => if old.toInt ≤ v.toInt then old else v
  | .max => if old.toInt ≤ v.toInt then v else old
  | .minu => if old.toNat ≤ v.toNat then old else v
  | .maxu => if old.toNat ≤ v.toNat then v else old

/-- AMO: one read-modify-write of the memory, behind the core's earlier stores. -/
def State.amo (s : State) (c : CpuId) (rd : Fin 32) (op : AmoOp) (a : Nat) (v : Word) (aq rl : Bool) (ecc : Fin 3) :
    State :=
  match s.atomFault c false false a with
  | some e => s.trap c e (BitVec.ofNat 32 a)
  | none =>
    if ecc.val = 2 then (s.trap c 7 (BitVec.ofNat 32 a)).eccUncorr
    else
      let s1 := (s.ordered c rl).sbDrain c
      let s2 := if ecc.val = 1 then s1.sramCorr c else s1
      let old := s2.getW a
      ((s2.sramStore c a (op.run old v).bytes).reads c rd old).ordered c aq

/-! ## WFI and interrupts (R305, R306) -/

/-- WFI: the core waits unless an enabled source is pending. -/
def State.wfi (s : State) (c : CpuId) : State := (s.retire c).core c (fun x => { x with wfi := !s.wakes c })

/-- The machine external interrupt is taken: pending, enabled in mie, and mstatus.MIE set or the core in U-mode. -/
def State.intrTaken (s : State) (c : CpuId) : Bool :=
  let x := s.cpu.at c
  s.meip c && x.meie && (x.mie || x.user)

/-- INTERRUPT_TRAP. -/
def State.intrTrap (s : State) (c : CpuId) : State :=
  if s.intrTaken c then s.core c (fun x => x.trapped true 11 0) else s

/-! ## Meanings -/

/-- CORE_LOAD (R288, R289, R294 to R297, R37 to R39). -/
def execCoreLoad (c : CpuId) (i : CoreAt) (a : Word) (w : Width) (sgn : Bool) (ecc : Fin 3) (s : State) :
    Host.Outcome State Fault Refusal := .next (s.instr c i (fun s => s.coreLoad c i.rd a.toNat w sgn ecc))
/-- CORE_STORE (R288, R289, R296, R297, R38). -/
def execCoreStore (c : CpuId) (i : CoreAt) (a : Word) (w : Width) (v : Word) (s : State) :
    Host.Outcome State Fault Refusal := .next (s.instr c i (fun s => s.coreStore c a.toNat w v))
/-- STORE_BUFFER_DRAIN (R296). -/
def execStoreBufferDrain (c : CpuId) (s : State) : Host.Outcome State Fault Refusal := .next (s.sbStep c)
/-- FENCE (R298). -/
def execFence (c : CpuId) (i : CoreAt) (f : FenceArgs) (s : State) : Host.Outcome State Fault Refusal :=
  .next (s.instr c i (fun s => (s.fence c (f.predW || f.full) (f.succR || f.full)).retire c))
/-- FENCE_I (R293). -/
def execFenceI (c : CpuId) (i : CoreAt) (s : State) : Host.Outcome State Fault Refusal :=
  .next (s.instr c i (fun s => (s.fenceI c).retire c))
/-- LR (R300). -/
def execLr (c : CpuId) (i : CoreAt) (a : Word) (aq rl : Bool) (ecc : Fin 3) (s : State) : Host.Outcome State Fault Refusal :=
  .next (s.instr c i (fun s => s.lr c i.rd a.toNat aq rl ecc))
/-- SC (R300). -/
def execSc (c : CpuId) (i : CoreAt) (a : Word) (v : Word) (aq rl : Bool) (s : State) : Host.Outcome State Fault Refusal :=
  .next (s.instr c i (fun s => s.sc c i.rd a.toNat v aq rl))
/-- AMO (R300). -/
def execAmo (c : CpuId) (i : CoreAt) (op : AmoOp) (a : Word) (v : Word) (aq rl : Bool) (ecc : Fin 3) (s : State) :
    Host.Outcome State Fault Refusal := .next (s.instr c i (fun s => s.amo c i.rd op a.toNat v aq rl ecc))
/-- WFI (R306). -/
def execWfi (c : CpuId) (i : CoreAt) (s : State) : Host.Outcome State Fault Refusal :=
  .next (s.instr c i (fun s => s.wfi c))
/-- INTERRUPT_TRAP (R303, R305, R306). -/
def execInterruptTrap (c : CpuId) (i : CoreAt) (s : State) : Host.Outcome State Fault Refusal :=
  .next (s.instr c i (fun s => s.intrTrap c))

end Sys2Proof.Machine
end

