-- ==== Sys2Proof/Machine/Csr.lean ====
section
/-!
DEFINITION. Csr.lean: the CSRs of a core (R286, R287, R290 to R292, Table 10.6), its watchdog (R307, R308), and the writes of
registers that have no row of their own.
-/
namespace Sys2Proof.Machine

/-! ## Reads -/

/-- mstatus: MIE, MPIE, MPP and MPRV. -/
def Core.mstatus (x : Core) : Nat := 8 * b2n x.mie + 128 * b2n x.mpie + (if x.mppU then 0 else 6144) + 131072 * b2n x.mprv

/-- pmpaddr as it reads: below the granularity ones in NAPOT, zeros otherwise. -/
def Core.pmpShown (x : Core) (i : Fin 16) : Nat :=
  let v := (x.pmpaddr.at i).toNat
  if bits (x.pmpcfg.at i).toNat 3 2 = 3 then v ||| 3 else v / 8 * 8

/-- The ILVL register whose levels start at source `lo`. -/
def State.ilvlWord (s : State) (c : CpuId) (lo : Nat) : Nat :=
  (List.range 8).foldl (fun n k => n + s.ilvl c (lo + k) * 2 ^ (4 * k)) 0

/-- What a CSR reads as; none where it does not exist (R287). -/
def State.csrRead (s : State) (c : CpuId) (n : Nat) : Option Word :=
  let x := s.cpu.at c
  let w := fun v : Nat => some (BitVec.ofNat 32 v)
  if n = 0x300 then w x.mstatus
  else if n = 0x301 then w 0x40101105
  else if n = 0x304 then w (2048 * b2n x.meie)
  else if n = 0x305 then some x.mtvec
  else if n = 0x306 ∨ n = 0x310 ∨ n = 0x320 then w 0
  else if n = 0x340 then some x.mscratch
  else if n = 0x341 then some x.mepc
  else if n = 0x342 then some x.mcause
  else if n = 0x343 then some x.mtval
  else if n = 0x344 then w (2048 * b2n (s.meip c))
  else if 0x3A0 ≤ n ∧ n < 0x3A4 then
    w ((List.range 4).foldl (fun v k => v + (x.pmpcfg.at (finOf 16 (4 * (n - 0x3A0) + k))).toNat * 256 ^ k) 0)
  else if 0x3B0 ≤ n ∧ n < 0x3C0 then w (x.pmpShown (finOf 16 (n - 0x3B0)))
  else if n = 0xB00 then w (x.mcycle.toNat % 2 ^ 32)
  else if n = 0xB02 then w (x.minstret.toNat % 2 ^ 32)
  else if n = 0xB80 then w (x.mcycle.toNat / 2 ^ 32)
  else if n = 0xB82 then w (x.minstret.toNat / 2 ^ 32)
  else if (0xB03 ≤ n ∧ n < 0xB20) ∨ (0xB83 ≤ n ∧ n < 0xBA0) ∨ (0x323 ≤ n ∧ n < 0x340) then w 0
  else if n = 0xF11 ∨ n = 0xF12 ∨ n = 0xF15 then w 0
  else if n = 0xF13 then some Config.mimpid
  else if n = 0xF14 then w c.val
  else if n = 0x7C0 then w (s.ilvlWord c 0)
  else if n = 0x7C1 then w (s.ilvlWord c 8)
  else if n = 0x7C2 then w (s.ipendWord c)
  else if n = 0x7C5 then w 0
  else if n = 0xFC0 then w ((s.inext c).1 + 16 * (s.inext c).2)
  else if (0x7C0 ≤ n ∧ n < 0x7C7) ∨ (0xFC1 ≤ n ∧ n < 0xFC4) then
    w ((csrFields c n).foldl (fun v f => v + s.rd f * 2 ^ f.lo) 0)
  else none

/-! ## Writes -/

/-- A pmpcfg byte after a write (R290): a locked entry keeps all, NA4 keeps the field; W without R is dropped (PRESUMED, log
entry 41), reserved bits read 0. -/
def pmpcfgPut (old v : Nat) : Nat :=
  if bitAt old 7 then old
  else
    let a := if bits v 3 2 = 2 then bits old 3 2 else bits v 3 2
    let wr := if bitAt v 0 then bits v 1 1 else 0
    bits v 0 1 + 2 * wr + 4 * bits v 2 1 + 8 * a + 128 * bits v 7 1

/-- The address register of an entry is locked: by its own entry, or by a locked TOR entry above it. -/
def Core.pmpaddrLocked (x : Core) (i : Fin 16) : Bool :=
  let up := (x.pmpcfg.at (finOf 16 (i.val + 1))).toNat
  bitAt (x.pmpcfg.at i).toNat 7 || (decide (i.val < 15) && bitAt up 7 && decide (bits up 3 2 = 1))

/-- A kick: the count starts again, and PER takes effect (R307). -/
def State.wdKick (s : State) (c : CpuId) : State :=
  (s.wr (CPU_WDCNT c) 0).core c (fun x => { x with wdPer := Nat.max 10 (s.rd (CPU_WDOG_PER c)) })

/-- WDKICK written. -/
def State.kickWrite (s : State) (c : CpuId) (v : Word) : State := if v.toNat % 256 = 0x5A then s.wdKick c else s

/-- The events of IPEND are cleared by ones (R304). -/
def State.ipendClear (s : State) (c : CpuId) (v : Nat) : State :=
  let p := s.rd (CPU_IPEND c)
  s.wr (CPU_IPEND c) ((List.range 16).foldl (fun n k =>
    if bitAt p k && !(eventSrc k && bitAt v k) then n + 2 ^ k else n) 0)

/-- Levels written from source `lo` on. -/
def State.ilvlWrite (s : State) (c : CpuId) (lo v : Nat) : State :=
  s.wrs ((List.range 8).map (fun k => (CPU_ILVL c (finOf 16 (lo + k)), bits v (4 * k) 3)))

/-- The writable RISC-V CSRs; a read-only one keeps its value. -/
def Core.csrPut (x : Core) (n : Nat) (v : Word) : Core :=
  let w := v.toNat
  if n = 0x300 then
    let p := bits w 11 2
    { x with mie := bitAt w 3, mpie := bitAt w 7, mprv := bitAt w 17,
             mppU := if p = 3 then false else if p = 0 then true else x.mppU }
  else if n = 0x304 then { x with meie := bitAt w 11 }
  else if n = 0x305 then { x with mtvec := BitVec.ofNat 32 (w / 4 * 4 + w % 2) }
  else if n = 0x340 then { x with mscratch := v }
  else if n = 0x341 then { x with mepc := BitVec.ofNat 32 (w / 2 * 2) }
  else if n = 0x342 then { x with mcause := v }
  else if n = 0x343 then { x with mtval := v }
  else if 0x3A0 ≤ n ∧ n < 0x3A4 then
    { x with pmpcfg := Tab.ofFn 16 (fun i =>
        let old := (x.pmpcfg.at (finOf 16 i)).toNat
        BitVec.ofNat 8 (if i / 4 = n - 0x3A0 then pmpcfgPut old (bits w (8 * (i % 4)) 8) else old)) }
  else if 0x3B0 ≤ n ∧ n < 0x3C0 then
    let i : Fin 16 := finOf 16 (n - 0x3B0)
    if x.pmpaddrLocked i then x else { x with pmpaddr := x.pmpaddr.put i v }
  else if n = 0xB00 then { x with mcycle := BitVec.ofNat 64 (2 ^ 32 * (x.mcycle.toNat / 2 ^ 32) + w) }
  else if n = 0xB80 then { x with mcycle := BitVec.ofNat 64 (x.mcycle.toNat % 2 ^ 32 + 2 ^ 32 * w) }
  else if n = 0xB02 then { x with minstret := BitVec.ofNat 64 (2 ^ 32 * (x.minstret.toNat / 2 ^ 32) + w) }
  else if n = 0xB82 then { x with minstret := BitVec.ofNat 64 (x.minstret.toNat % 2 ^ 32 + 2 ^ 32 * w) }
  else x

/-- A CSR written. -/
def State.csrPut (s : State) (c : CpuId) (n : Nat) (v : Word) : State :=
  let w := v.toNat
  if n = 0x7C0 then s.ilvlWrite c 0 w
  else if n = 0x7C1 then s.ilvlWrite c 8 w
  else if n = 0x7C2 then s.ipendClear c w
  else if n = 0x7C3 then s.wr (CPU_ITHR c) (w % 8)
  else if n = 0x7C4 then s.wr (CPU_WDOG_PER c) (w % 65536)
  else if n = 0x7C5 then s.kickWrite c v
  else if n = 0x7C6 then s.wr (CPU_ECC_CORR c) (w % 65536)
  else s.core c (fun x => x.csrPut n v)

/-- A CSR written by an instruction that also reads it: U-mode, a CSR that does not exist and a read-only number raise an
illegal-instruction exception (R287, the RISC-V privileged specification). What is written to minstret stands in place of the
instruction's own increment. -/
def State.csrWrite (s : State) (c : CpuId) (rd : Fin 32) (n : Nat) (v : Word) : State :=
  if (s.cpu.at c).user then s.trap c 2 0
  else match s.csrRead c n with
    | none => s.trap c 2 0
    | some old =>
      if 0xC00 ≤ n then s.trap c 2 0
      else if n = 0xB02 ∨ n = 0xB82 then ((s.csrPut c n v).loaded c old).toReg c rd
      else (s.csrPut c n v).reads c rd old

/-! ## The watchdog -/

/-- The half period has been reached: the source latches. -/
def State.wdHalf (s : State) (c : CpuId) : State :=
  let x := s.cpu.at c
  if x.run ∧ s.sys.mode ≠ .hold ∧ x.wdPer ≤ 2 * s.rd (CPU_WDCNT c) then s.ipend c 14 else s

/-- The period has been reached: a WARM reset. -/
def State.wdExpire (s : State) (c : CpuId) : State :=
  let x := s.cpu.at c
  if x.run ∧ s.sys.mode ≠ .hold ∧ x.wdPer ≤ s.rd (CPU_WDCNT c) then s.enterReset .warm (.watchdog c) 0xFF else s

/-! ## Meanings -/

/-- REGISTER_WRITE (R2, R18): a device register of a listed block, or a CSR of the writing core. -/
def execRegisterWrite (a : Agent) (r : RegRef) (v : Word) (s : State) : Host.Outcome State Fault Refusal :=
  .next (match r with
    | .dev off =>
      s.byAgent a (fun s => if off.toNat % 4 = 0 ∧ deviceListed off.toNat then s.devStore a off.toNat v else s)
    | .csr n rd => match a.cpu with
      | some c => if s.coreRuns c then (s.coreWake c).csrWrite c rd n.toNat v else s
      | none => s)

/-- WATCHDOG_KICK (R307). -/
def execWatchdogKick (c : CpuId) (v : Word) (s : State) : Host.Outcome State Fault Refusal :=
  .next (if s.coreRuns c then (s.coreWake c).csrWrite c 0 0x7C5 v else s)
/-- WATCHDOG_HALF (R307). -/
def execWatchdogHalf (c : CpuId) (s : State) : Host.Outcome State Fault Refusal := .next (s.wdHalf c)
/-- CORE_WATCHDOG_EXPIRY (R308). -/
def execCoreWatchdogExpiry (c : CpuId) (s : State) : Host.Outcome State Fault Refusal := .next (s.wdExpire c)

end Sys2Proof.Machine
end

