-- ==== Sys2Proof/Machine/Dispatch.lean ====
section
/-!
DEFINITION. Dispatch.lean: the meaning of every command, one arm per constructor of Instr.
-/
namespace Sys2Proof.Machine

def exec (i : Instr) (s : State) : Host.Outcome State Fault Refusal :=
  match i with
  | .registerWrite a r v => Sys2Proof.Machine.execRegisterWrite a r v s
  | .rcRead c off => Sys2Proof.Machine.execRcRead c off s
  | .tickBoundary env => Sys2Proof.Machine.execTickBoundary env s
  | .harvestEnd => Sys2Proof.Machine.execHarvestEnd s
  | .foregroundWindowClose => Sys2Proof.Machine.execForegroundWindowClose s
  | .runAhead => Sys2Proof.Machine.execRunAhead s
  | .slackPhase => Sys2Proof.Machine.execSlackPhase s
  | .tickKick a n v => Sys2Proof.Machine.execTickKick a n v s
  | .tickDone c job => Sys2Proof.Machine.execTickDone c job s
  | .jobBudgetUsed j => Sys2Proof.Machine.execJobBudgetUsed j s
  | .jobOverrun j => Sys2Proof.Machine.execJobOverrun j s
  | .landingPoint e => Sys2Proof.Machine.execLandingPoint e s
  | .engineJobComplete j => Sys2Proof.Machine.execEngineJobComplete j s
  | .pllRelock => Sys2Proof.Machine.execPllRelock s
  | .claim a n => Sys2Proof.Machine.execClaim a n s
  | .ring a n => Sys2Proof.Machine.execRing a n s
  | .abandon a n => Sys2Proof.Machine.execAbandon a n s
  | .take a n => Sys2Proof.Machine.execTake a n s
  | .done a n => Sys2Proof.Machine.execDone a n s
  | .hatchBodyAccess a n k v => Sys2Proof.Machine.execHatchBodyAccess a n k v s
  | .appletReply n => Sys2Proof.Machine.execAppletReply n s
  | .verbReg n => Sys2Proof.Machine.execVerbReg n s
  | .modeReq n => Sys2Proof.Machine.execModeReq n s
  | .appletTimeout => Sys2Proof.Machine.execAppletTimeout s
  | .careWatchdogExpiry => Sys2Proof.Machine.execCareWatchdogExpiry s
  | .powerOn vcc => Sys2Proof.Machine.execPowerOn vcc s
  | .vccFall vcc => Sys2Proof.Machine.execVccFall vcc s
  | .holdExit env => Sys2Proof.Machine.execHoldExit env s
  | .cellarEntry vcc => Sys2Proof.Machine.execCellarEntry vcc s
  | .cellarSupplySwitch vcc vbat => Sys2Proof.Machine.execCellarSupplySwitch vcc vbat s
  | .cellarFloor vbat => Sys2Proof.Machine.execCellarFloor vbat s
  | .vioChange vio => Sys2Proof.Machine.execVioChange vio s
  | .rstNAssert ns => Sys2Proof.Machine.execRstNAssert ns s
  | .rstNRelease ms => Sys2Proof.Machine.execRstNRelease ms s
  | .resetHoldDetect => Sys2Proof.Machine.execResetHoldDetect s
  | .resetStuck => Sys2Proof.Machine.execResetStuck s
  | .rise env => Sys2Proof.Machine.execRise env s
  | .risePllLock env => Sys2Proof.Machine.execRisePllLock env s
  | .deferredFuseBlow => Sys2Proof.Machine.execDeferredFuseBlow s
  | .coreWatchdogExpiry c => Sys2Proof.Machine.execCoreWatchdogExpiry c s
  | .watchdogHalf c => Sys2Proof.Machine.execWatchdogHalf c s
  | .watchdogKick c v => Sys2Proof.Machine.execWatchdogKick c v s
  | .consoleByte b => Sys2Proof.Machine.execConsoleByte b s
  | .ctrlC => Sys2Proof.Machine.execCtrlC s
  | .framingLoss => Sys2Proof.Machine.execFramingLoss s
  | .baudRevert => Sys2Proof.Machine.execBaudRevert s
  | .sessionIdleTimeout => Sys2Proof.Machine.execSessionIdleTimeout s
  | .challengeExpiry => Sys2Proof.Machine.execChallengeExpiry s
  | .holdExpiry => Sys2Proof.Machine.execHoldExpiry s
  | .imageLoadTimeout => Sys2Proof.Machine.execImageLoadTimeout s
  | .timeSetPpsTimeout => Sys2Proof.Machine.execTimeSetPpsTimeout s
  | .verbCommitReply => Sys2Proof.Machine.execVerbCommitReply s
  | .verbReset => Sys2Proof.Machine.execVerbReset s
  | .appletVerb l text => Sys2Proof.Machine.execAppletVerb l text s
  | .help l => Sys2Proof.Machine.execHelp l s
  | .helpVerb l v => Sys2Proof.Machine.execHelpVerb l v s
  | .info l => Sys2Proof.Machine.execInfo l s
  | .modeShow l => Sys2Proof.Machine.execModeShow l s
  | .modeChange l m => Sys2Proof.Machine.execModeChange l m s
  | .echoOn l => Sys2Proof.Machine.execEchoOn l s
  | .echoOff l => Sys2Proof.Machine.execEchoOff l s
  | .echoShow l => Sys2Proof.Machine.execEchoShow l s
  | .lineShow l => Sys2Proof.Machine.execLineShow l s
  | .lineBaud l baud => Sys2Proof.Machine.execLineBaud l baud s
  | .authLevel l lv => Sys2Proof.Machine.execAuthLevel l lv s
  | .authResp l h => Sys2Proof.Machine.execAuthResp l h s
  | .authCard l p => Sys2Proof.Machine.execAuthCard l p s
  | .authCardResponse => Sys2Proof.Machine.execAuthCardResponse s
  | .logout l => Sys2Proof.Machine.execLogout l s
  | .confirm l tok => Sys2Proof.Machine.execConfirm l tok s
  | .stat l => Sys2Proof.Machine.execStat l s
  | .statReset l => Sys2Proof.Machine.execStatReset l s
  | .statRise l => Sys2Proof.Machine.execStatRise l s
  | .logTamper l n => Sys2Proof.Machine.execLogTamper l n s
  | .logAttic l t n => Sys2Proof.Machine.execLogAttic l t n s
  | .count l => Sys2Proof.Machine.execCount l s
  | .countCtr l c => Sys2Proof.Machine.execCountCtr l c s
  | .countRing l c slots => Sys2Proof.Machine.execCountRing l c slots s
  | .tickShow l => Sys2Proof.Machine.execTickShow l s
  | .tickJobs l => Sys2Proof.Machine.execTickJobs l s
  | .tickSet l per bgf => Sys2Proof.Machine.execTickSet l per bgf s
  | .timeShow l => Sys2Proof.Machine.execTimeShow l s
  | .timeAdj l d => Sys2Proof.Machine.execTimeAdj l d s
  | .timeSet l utc pps => Sys2Proof.Machine.execTimeSet l utc pps s
  | .calShow l => Sys2Proof.Machine.execCalShow l s
  | .calK l p k16 => Sys2Proof.Machine.execCalK l p k16 s
  | .calRun l => Sys2Proof.Machine.execCalRun l s
  | .calRaw l n => Sys2Proof.Machine.execCalRaw l n s
  | .portList l => Sys2Proof.Machine.execPortList l s
  | .portShow l p => Sys2Proof.Machine.execPortShow l p s
  | .portFn l p c => Sys2Proof.Machine.execPortFn l p c s
  | .portClear l p => Sys2Proof.Machine.execPortClear l p s
  | .queueList l => Sys2Proof.Machine.execQueueList l s
  | .queueShow l q => Sys2Proof.Machine.execQueueShow l q s
  | .queueFlush l q => Sys2Proof.Machine.execQueueFlush l q s
  | .storeShow l => Sys2Proof.Machine.execStoreShow l s
  | .storeFind l r key => Sys2Proof.Machine.execStoreFind l r key s
  | .storeSize l k c a0 a1 h => Sys2Proof.Machine.execStoreSize l k c a0 a1 h s
  | .keyList l => Sys2Proof.Machine.execKeyList l s
  | .keyShow l id => Sys2Proof.Machine.execKeyShow l id s
  | .keyStage l k => Sys2Proof.Machine.execKeyStage l k s
  | .keyData l off v => Sys2Proof.Machine.execKeyData l off v s
  | .keyWrite l => Sys2Proof.Machine.execKeyWrite l s
  | .keyGen l k => Sys2Proof.Machine.execKeyGen l k s
  | .keyRetire l id => Sys2Proof.Machine.execKeyRetire l id s
  | .keyRevoke l id => Sys2Proof.Machine.execKeyRevoke l id s
  | .watchList l => Sys2Proof.Machine.execWatchList l s
  | .watchSrc l n => Sys2Proof.Machine.execWatchSrc l n s
  | .watchSet l n resp filt => Sys2Proof.Machine.execWatchSet l n resp filt s
  | .watchFloor l n resp => Sys2Proof.Machine.execWatchFloor l n resp s
  | .watchArm l n => Sys2Proof.Machine.execWatchArm l n s
  | .watchDisarm l n => Sys2Proof.Machine.execWatchDisarm l n s
  | .tele l => Sys2Proof.Machine.execTele l s
  | .teleShow l n => Sys2Proof.Machine.execTeleShow l n s
  | .telePer l t => Sys2Proof.Machine.execTelePer l t s
  | .teleStreamOn l => Sys2Proof.Machine.execTeleStreamOn l s
  | .teleStreamOff l => Sys2Proof.Machine.execTeleStreamOff l s
  | .imageList l => Sys2Proof.Machine.execImageList l s
  | .imageBegin l k len crc => Sys2Proof.Machine.execImageBegin l k len crc s
  | .imageData l off v => Sys2Proof.Machine.execImageData l off v s
  | .imageEnd l => Sys2Proof.Machine.execImageEnd l s
  | .imageAbort l => Sys2Proof.Machine.execImageAbort l s
  | .lifeShow l => Sys2Proof.Machine.execLifeShow l s
  | .lifeFit l => Sys2Proof.Machine.execLifeFit l s
  | .lifeSeal l => Sys2Proof.Machine.execLifeSeal l s
  | .lifeErase l => Sys2Proof.Machine.execLifeErase l s
  | .lifeRetire l => Sys2Proof.Machine.execLifeRetire l s
  | .lifeRefit l => Sys2Proof.Machine.execLifeRefit l s
  | .unlock l => Sys2Proof.Machine.execUnlock l s
  | .reset l => Sys2Proof.Machine.execReset l s
  | .gpioEdge p b e => Sys2Proof.Machine.execGpioEdge p b e s
  | .activate c p => Sys2Proof.Machine.execActivate c p s
  | .deactivate c p => Sys2Proof.Machine.execDeactivate c p s
  | .cardWarmReset c p => Sys2Proof.Machine.execCardWarmReset c p s
  | .cardInsertion x => Sys2Proof.Machine.execCardInsertion x s
  | .cardRemoval x => Sys2Proof.Machine.execCardRemoval x s
  | .atrReceived p x => Sys2Proof.Machine.execAtrReceived p x s
  | .atrTimeout p => Sys2Proof.Machine.execAtrTimeout p s
  | .cardTxPacket p => Sys2Proof.Machine.execCardTxPacket p s
  | .cardResponse p l reps => Sys2Proof.Machine.execCardResponse p l reps s
  | .cardCwtExpiry x => Sys2Proof.Machine.execCardCwtExpiry x s
  | .uartTxPacket p => Sys2Proof.Machine.execUartTxPacket p s
  | .uartRxChar p b e => Sys2Proof.Machine.execUartRxChar p b e s
  | .uartIdleClose x => Sys2Proof.Machine.execUartIdleClose x s
  | .spicTransfer p miso => Sys2Proof.Machine.execSpicTransfer p miso s
  | .dualDiscrepancy p a => Sys2Proof.Machine.execDualDiscrepancy p a s
  | .dualAutoclear p a => Sys2Proof.Machine.execDualAutoclear p a s
  | .discClear c p => Sys2Proof.Machine.execDiscClear c p s
  | .pulseEdge p b e t dir => Sys2Proof.Machine.execPulseEdge p b e t dir s
  | .ppsEdge p e => Sys2Proof.Machine.execPpsEdge p e s
  | .pulseoutCycleEnd p => Sys2Proof.Machine.execPulseoutCycleEnd p s
  | .loopReseed p => Sys2Proof.Machine.execLoopReseed p s
  | .writeQ qid len data tr fl => Sys2Proof.Machine.execWriteQ qid len data tr fl s
  | .readQ qid len => Sys2Proof.Machine.execReadQ qid len s
  | .status qid len => Sys2Proof.Machine.execStatus qid len s
  | .ack qid len tr => Sys2Proof.Machine.execAck qid len tr s
  | .hostlinkAbort h => Sys2Proof.Machine.execHostlinkAbort h s
  | .h6Begin => Sys2Proof.Machine.execH6Begin s
  | .h6Data => Sys2Proof.Machine.execH6Data s
  | .h6End => Sys2Proof.Machine.execH6End s
  | .h6Abort => Sys2Proof.Machine.execH6Abort s
  | .queuePush c q w => Sys2Proof.Machine.execQueuePush c q w s
  | .queuePop c q => Sys2Proof.Machine.execQueuePop c q s
  | .mark c q => Sys2Proof.Machine.execMark c q s
  | .rewind c q => Sys2Proof.Machine.execRewind c q s
  | .release c q => Sys2Proof.Machine.execRelease c q s
  | .flush c q => Sys2Proof.Machine.execFlush c q s
  | .flushLimitExpiry q => Sys2Proof.Machine.execFlushLimitExpiry q s
  | .rlyOpen c n => Sys2Proof.Machine.execRlyOpen c n s
  | .rlyAbort c n => Sys2Proof.Machine.execRlyAbort c n s
  | .rlyDropsrc c n => Sys2Proof.Machine.execRlyDropsrc c n s
  | .rlyFree c n => Sys2Proof.Machine.execRlyFree c n s
  | .relaySourceReady n => Sys2Proof.Machine.execRelaySourceReady n s
  | .relaySeal n ecc => Sys2Proof.Machine.execRelaySeal n ecc s
  | .coreLoad c ca a w sgn ecc => Sys2Proof.Machine.execCoreLoad c ca a w sgn ecc s
  | .coreStore c ca a w v => Sys2Proof.Machine.execCoreStore c ca a w v s
  | .storeBufferDrain c => Sys2Proof.Machine.execStoreBufferDrain c s
  | .fence c ca f => Sys2Proof.Machine.execFence c ca f s
  | .fenceI c ca => Sys2Proof.Machine.execFenceI c ca s
  | .lr c ca a aq rl ecc => Sys2Proof.Machine.execLr c ca a aq rl ecc s
  | .sc c ca a v aq rl => Sys2Proof.Machine.execSc c ca a v aq rl s
  | .amo c ca op a v aq rl ecc => Sys2Proof.Machine.execAmo c ca op a v aq rl ecc s
  | .wfi c ca => Sys2Proof.Machine.execWfi c ca s
  | .interruptTrap c ca => Sys2Proof.Machine.execInterruptTrap c ca s
  | .vltStore c => Sys2Proof.Machine.execVltStore c s
  | .vltRead c idx => Sys2Proof.Machine.execVltRead c idx s
  | .vltRetire c idx => Sys2Proof.Machine.execVltRetire c idx s
  | .vltRevoke c idx => Sys2Proof.Machine.execVltRevoke c idx s
  | .vltZeroize c idx => Sys2Proof.Machine.execVltZeroize c idx s
  | .vltLookup c => Sys2Proof.Machine.execVltLookup c s
  | .vltDeny c => Sys2Proof.Machine.execVltDeny c s
  | .vltUndeny c => Sys2Proof.Machine.execVltUndeny c s
  | .vltUnany c idx => Sys2Proof.Machine.execVltUnany c idx s
  | .vltClear c => Sys2Proof.Machine.execVltClear c s
  | .vltGenCmd c => Sys2Proof.Machine.execVltGenCmd c s
  | .vltWinAccess c v => Sys2Proof.Machine.execVltWinAccess c v s
  | .shadowUpdateCommit => Sys2Proof.Machine.execShadowUpdateCommit s
  | .remaskPassStart => Sys2Proof.Machine.execRemaskPassStart s
  | .strWrite c => Sys2Proof.Machine.execStrWrite c s
  | .insertResume => Sys2Proof.Machine.execInsertResume s
  | .strInvalidate c => Sys2Proof.Machine.execStrInvalidate c s
  | .coreSearch c r => Sys2Proof.Machine.execCoreSearch c r s
  | .blockMove n => Sys2Proof.Machine.execBlockMove n s
  | .madd r => Sys2Proof.Machine.execMadd r s
  | .msub r => Sys2Proof.Machine.execMsub r s
  | .mmul r => Sys2Proof.Machine.execMmul r s
  | .mred r => Sys2Proof.Machine.execMred r s
  | .minv r => Sys2Proof.Machine.execMinv r s
  | .mexp r => Sys2Proof.Machine.execMexp r s
  | .cmp r => Sys2Proof.Machine.execCmp r s
  | .copy r => Sys2Proof.Machine.execCopy r s
  | .ecdsaSignChecked r => Sys2Proof.Machine.execEcdsaSignChecked r s
  | .ecdsaVerify r => Sys2Proof.Machine.execEcdsaVerify r s
  | .ecdh r => Sys2Proof.Machine.execEcdh r s
  | .keygen r => Sys2Proof.Machine.execKeygen r s
  | .pointCheck r => Sys2Proof.Machine.execPointCheck r s
  | .rsaVerify r => Sys2Proof.Machine.execRsaVerify r s
  | .pkeAbort c => Sys2Proof.Machine.execPkeAbort c s
  | .pkeOpComplete r fault => Sys2Proof.Machine.execPkeOpComplete r fault s
  | .pkeContextClaim => Sys2Proof.Machine.execPkeContextClaim s
  | .shelfStore c k w => Sys2Proof.Machine.execShelfStore c k w s
  | .shelfLenCommit => Sys2Proof.Machine.execShelfLenCommit s
  | .ecbEnc r => Sys2Proof.Machine.execEcbEnc r s
  | .ecbDec r => Sys2Proof.Machine.execEcbDec r s
  | .cbcEnc r => Sys2Proof.Machine.execCbcEnc r s
  | .cbcDec r => Sys2Proof.Machine.execCbcDec r s
  | .ctr r => Sys2Proof.Machine.execCtr r s
  | .cmacGen r => Sys2Proof.Machine.execCmacGen r s
  | .cmacChk r => Sys2Proof.Machine.execCmacChk r s
  | .gcmEnc r => Sys2Proof.Machine.execGcmEnc r s
  | .gcmDec r => Sys2Proof.Machine.execGcmDec r s
  | .sha256 r => Sys2Proof.Machine.execSha256 r s
  | .sha384 r => Sys2Proof.Machine.execSha384 r s
  | .sha512 r => Sys2Proof.Machine.execSha512 r s
  | .hmac256Gen r => Sys2Proof.Machine.execHmac256Gen r s
  | .hmac384Gen r => Sys2Proof.Machine.execHmac384Gen r s
  | .hmac512Gen r => Sys2Proof.Machine.execHmac512Gen r s
  | .hmac256Chk r => Sys2Proof.Machine.execHmac256Chk r s
  | .hmac384Chk r => Sys2Proof.Machine.execHmac384Chk r s
  | .hmac512Chk r => Sys2Proof.Machine.execHmac512Chk r s
  | .kdf r => Sys2Proof.Machine.execKdf r s
  | .symAbort c => Sys2Proof.Machine.execSymAbort c s
  | .symOpComplete r => Sys2Proof.Machine.execSymOpComplete r s
  | .rngHealthFail apt => Sys2Proof.Machine.execRngHealthFail apt s
  | .rngRestartComplete => Sys2Proof.Machine.execRngRestartComplete s
  | .drbgReseed => Sys2Proof.Machine.execDrbgReseed s
  | .rngOutRead c => Sys2Proof.Machine.execRngOutRead c s
  | .counterIncrement c k => Sys2Proof.Machine.execCounterIncrement c k s
  | .ringConfig c k slots => Sys2Proof.Machine.execRingConfig c k slots s
  | .paramSave c g => Sys2Proof.Machine.execParamSave c g s
  | .larderStore c off w v => Sys2Proof.Machine.execLarderStore c off w v s
  | .holdoffEnd => Sys2Proof.Machine.execHoldoffEnd s
  | .arcOpen c t k n => Sys2Proof.Machine.execArcOpen c t k n s
  | .arcCtr c t k => Sys2Proof.Machine.execArcCtr c t k s
  | .arcCommit c t => Sys2Proof.Machine.execArcCommit c t s
  | .arcAbort c t => Sys2Proof.Machine.execArcAbort c t s
  | .arcTrim c k => Sys2Proof.Machine.execArcTrim c k s
  | .eraseAhead k => Sys2Proof.Machine.execEraseAhead k s
  | .sectorEraseComplete b => Sys2Proof.Machine.execSectorEraseComplete b s
  | .programUnitComplete b => Sys2Proof.Machine.execProgramUnitComplete b s
  | .eraseResume b => Sys2Proof.Machine.execEraseResume b s
  | .rtcTempUpdate t => Sys2Proof.Machine.execRtcTempUpdate t s
  | .ageingUpdate m => Sys2Proof.Machine.execAgeingUpdate m s
  | .ppsLoss => Sys2Proof.Machine.execPpsLoss s
  | .holdoverExpiry => Sys2Proof.Machine.execHoldoverExpiry s
  | .leapSecond => Sys2Proof.Machine.execLeapSecond s
  | .adjWindowEnd => Sys2Proof.Machine.execAdjWindowEnd s
  | .disciplineSave => Sys2Proof.Machine.execDisciplineSave s
  | .timeLatch c => Sys2Proof.Machine.execTimeLatch c s
  | .tdcCalibration fail => Sys2Proof.Machine.execTdcCalibration fail s
  | .watchOnset l => Sys2Proof.Machine.execWatchOnset l s
  | .watchUntrip x => Sys2Proof.Machine.execWatchUntrip x s
  | .disagreeOnset n lagB alike => Sys2Proof.Machine.execDisagreeOnset n lagB alike s
  | .stimulusRound => Sys2Proof.Machine.execStimulusRound s
  | .stimulusStep ok => Sys2Proof.Machine.execStimulusStep ok s
  | .cellarSample x => Sys2Proof.Machine.execCellarSample x s
  | .sramScrubStep bad => Sys2Proof.Machine.execSramScrubStep bad s
  | .larderScrubStep bad => Sys2Proof.Machine.execLarderScrubStep bad s
  | .archivePatrol bad => Sys2Proof.Machine.execArchivePatrol bad s
  | .sectorRefresh => Sys2Proof.Machine.execSectorRefresh s
  | .atticAppend => Sys2Proof.Machine.execAtticAppend s
  | .streamControl => Sys2Proof.Machine.execStreamControl s
  | .loopBitCompare p b => Sys2Proof.Machine.execLoopBitCompare p b s
  | .switchConditionChange p a b => Sys2Proof.Machine.execSwitchConditionChange p a b s
  | .dualNearMiss p len a => Sys2Proof.Machine.execDualNearMiss p len a s
  | .pulseoutReadbackMismatch p => Sys2Proof.Machine.execPulseoutReadbackMismatch p s
  | .cellarStart vbat => Sys2Proof.Machine.execCellarStart vbat s
  | .lifeFuseResume vcc => Sys2Proof.Machine.execLifeFuseResume vcc s

end Sys2Proof.Machine
end

