-- ==== Sys2Proof/Machine/Pins.lean ====
section
/-!
DEFINITION. Pins.lean: what the part does at its balls, read off the state (spec/06_ports.md, Tables 6.1, 6.8, 6.9, R193, R199,
R205, R218, R219; spec/19_edges_electrical.md, Table 19.3, R529, R532). The levels that others drive stand in the ports' own state.
-/
namespace Sys2Proof.Machine

/-- What a pad does: nothing, a level, an open drain let go, or the bits of a function that runs (a clock, a pulse train, a
frame). -/
inductive Drive where
  | hiZ | low | high | runs
deriving DecidableEq, Repr

/-- A pad: its drive, its pull (0 none, 1 up, 2 down), and while a sequence runs what it drives from later moments of it on, in
FSYS cycles since the sequence started. -/
structure Pad where
  drive : Drive := .hiZ
  pull : Nat := 0
  later : List (Nat × Drive) := []
deriving DecidableEq, Repr

/-- A driven level. -/
def Drive.level (b : Bool) : Drive := if b then .high else .low

/-- PULLA and PULLB; 3 acts as 0 (Table 6.8). -/
def State.pullOf (s : State) (p : PortId) (b : Bool) : Nat :=
  let v := s.rd (if b then PORT_CFG_PULLB p else PORT_CFG_PULLA p)
  if v = 3 then 0 else v

/-- The card whose VCCEN is a pin of a GPIO port (R193). -/
def State.vccOf (s : State) (p : PortId) (b : Bool) : Option PortId :=
  (finList 24).find? (fun k => decide ((s.port.at k).vcc = some (p, b)))

/-- A GPIO pin (R199); one that a card's engine holds as VCCEN shows VCCEN, at its active level while the card is activated
(R193). -/
def State.gpioDrive (s : State) (p : PortId) (b : Bool) : Drive :=
  match s.vccOf p b with
  | some k => .level (decide ((s.port.at k).card ≠ .off) == s.parBit k 0 21)
  | none =>
    let out := s.isSet (if b then PORT_GPIO_OUTB p else PORT_GPIO_OUTA p)
    if !s.parBit p 0 (b2n b) then .hiZ
    else if s.parBit p 0 (4 + b2n b) && out then .hiZ
    else .level out

/-- FSYS cycles of TVCC and of TRST (Table 6.4); FSYS is 160 MHz. -/
def State.tvccCycles (s : State) (p : PortId) : Nat := 160000 * s.cardTvcc p
def State.trstCycles (s : State) (p : PortId) : Nat := s.cardClk p * s.cardTrst p

/-- IO of a card, and what it does later in its activation (Tables 6.1, 6.4, 6.11, R205): low while the card is not activated (log
entry 78), and up to TVCC; released to reception otherwise. -/
def State.ioPad (s : State) (p : PortId) : Drive × List (Nat × Drive) :=
  match (s.port.at p).card with
  | .off => (.low, [])
  | .atr false => (.low, [(s.tvccCycles p, .hiZ)])
  | .atr true => (.hiZ, [])
  | .ready => (.hiZ, [])
  | .bytes => (.runs, [])
  | .apdu _ => (.runs, [])

/-- CLK of a card: it starts one clock after TVCC, and keeps running in a warm reset. -/
def State.clkPad (s : State) (p : PortId) : Drive × List (Nat × Drive) :=
  match (s.port.at p).card with
  | .off => (.low, [])
  | .atr false => (.low, [(s.tvccCycles p + s.cardClk p, .runs)])
  | .atr true => (.runs, [])
  | .ready => (.runs, [])
  | .bytes => (.runs, [])
  | .apdu _ => (.runs, [])

/-- RST of a card: high TRST clocks after TVCC, or after a warm reset's start. -/
def State.rstPad (s : State) (p : PortId) : Drive × List (Nat × Drive) :=
  match (s.port.at p).card with
  | .off => (.low, [])
  | .atr false => (.low, [(s.tvccCycles p + s.trstCycles p, .high)])
  | .atr true => (.low, [(s.trstCycles p, .high)])
  | .ready => (.high, [])
  | .bytes => (.high, [])
  | .apdu _ => (.high, [])

/-- What a function in force drives on pin A, or on pin B (Table 6.1). A transfer of UART or SPIC is whole within its command: its
levels stand in the port's wave, and the line idles high; SCK idles high in modes 2 and 3. -/
def State.fnDrive (s : State) (p : PortId) (b : Bool) : Drive × List (Nat × Drive) :=
  let x := s.port.at p
  match x.fn, b with
  | .gpio, _ => (s.gpioDrive p b, [])
  | .uart, false => (.high, [])
  | .card, false => s.ioPad p
  | .card, true => s.clkPad p
  | .spic, false => (.level (s.parBit p 0 17), [])
  | .spic, true => (.level (x.wave.levels.getLastD false), [])
  | .pulseout, false => (if x.period = 0 then .low else .runs, [])
  | .loop, false => (.level (x.sent.headD (s.parBit p 0 1)), [])
  | _, _ => (.hiZ, [])

/-- The pads of a partner port: RST and presence of a card, MISO and CS of SPIC, which is high between transfers (Table 6.1). -/
def State.partnerDrive (s : State) (q : PortId) (b : Bool) : Drive × List (Nat × Drive) :=
  match s.pfn q, b with
  | .card, false => s.rstPad q
  | .spic, true => (.high, [])
  | _, _ => (.hiZ, [])

/-- The pad of a port's pin A, or B. A reset leaves every port OFF until RISE step 12, so its pads are Hi-Z without a pull
(R225). -/
def State.pad (s : State) (p : PortId) (b : Bool) : Pad :=
  if !s.padsUp p then {}
  else match s.pairedBy p with
    | some q => { drive := (s.partnerDrive q b).1, pull := s.pullOf p b, later := (s.partnerDrive q b).2 }
    | none =>
      if s.pfn p = .off ∨ (s.pfn p = .pps ∧ b) then {}
      else { drive := (s.fnDrive p b).1, pull := s.pullOf p b, later := (s.fnDrive p b).2 }

/-- CON_TX is driven from RISE step 13 on (R112, R529). -/
def State.conTxDriven (s : State) : Bool := s.con.started && s.mainUp && decide (1500 ≤ s.si.vio)

/-- HIRQ_N is pulled low (R243), and released without VIO (R529). -/
def State.hirqPad (s : State) : Bool := s.hirqLow && decide (1500 ≤ s.si.vio)

/-- HMISO is driven while HCS_N is low (R230). -/
def State.hmisoDriven (s : State) (hcsLow : Bool) : Bool := hcsLow && s.hlkLive

end Sys2Proof.Machine
end

