-- ==== Sys2Proof/Safety.lean ====
section
/-!
DEFINITION. Safety.lean: what counts as a safe run, and the terms that the statements use. The spec stops the block on no
command, so a run is safe when every step of it answers a next state.
-/
namespace Sys2Proof

open Sys2Proof.Machine

/-- A state reached by `k` steps. -/
inductive Reach (s : State) : Nat → State → Prop where
  | zero : Reach s 0 s
  | succ {k : Nat} {t u : State} : Reach s k t → step t = .next u → Reach s (k + 1) u

/-- From this state on, no step stops. -/
def Safe (s : State) : Prop := ∀ k t, Reach s k t → ∃ u, step t = .next u

/-- The line and the form of a row that stands for a whole line of a hardware verb. -/
def Instr.line? : Instr → Option (Line × Verb)
  | .help l => some (l, .help)
  | .helpVerb l v => some (l, .helpVerb v)
  | .info l => some (l, .info)
  | .modeShow l => some (l, .modeShow)
  | .modeChange l m => some (l, .modeChange m)
  | .echoOn l => some (l, .echoOn)
  | .echoOff l => some (l, .echoOff)
  | .echoShow l => some (l, .echoShow)
  | .lineShow l => some (l, .lineShow)
  | .lineBaud l baud => some (l, .lineBaud baud)
  | .authLevel l lv => some (l, .authLevel lv)
  | .authResp l h => some (l, .authResp h)
  | .authCard l p => some (l, .authCard p)
  | .logout l => some (l, .logout)
  | .confirm l tok => some (l, .confirm tok)
  | .stat l => some (l, .stat)
  | .statReset l => some (l, .statReset)
  | .statRise l => some (l, .statRise)
  | .logTamper l n => some (l, .logTamper n)
  | .logAttic l t n => some (l, .logAttic t n)
  | .count l => some (l, .count)
  | .countCtr l c => some (l, .countCtr c)
  | .countRing l c slots => some (l, .countRing c slots)
  | .tickShow l => some (l, .tickShow)
  | .tickJobs l => some (l, .tickJobs)
  | .tickSet l per bgf => some (l, .tickSet per bgf)
  | .timeShow l => some (l, .timeShow)
  | .timeAdj l d => some (l, .timeAdj d)
  | .timeSet l utc pps => some (l, .timeSet utc pps)
  | .calShow l => some (l, .calShow)
  | .calK l p k16 => some (l, .calK p k16)
  | .calRun l => some (l, .calRun)
  | .calRaw l n => some (l, .calRaw n)
  | .portList l => some (l, .portList)
  | .portShow l p => some (l, .portShow p)
  | .portFn l p c => some (l, .portFn p c)
  | .portClear l p => some (l, .portClear p)
  | .queueList l => some (l, .queueList)
  | .queueShow l q => some (l, .queueShow q)
  | .queueFlush l q => some (l, .queueFlush q)
  | .storeShow l => some (l, .storeShow)
  | .storeFind l r key => some (l, .storeFind r key)
  | .storeSize l k c a0 a1 h => some (l, .storeSize k c a0 a1 h)
  | .keyList l => some (l, .keyList)
  | .keyShow l id => some (l, .keyShow id)
  | .keyStage l k => some (l, .keyStage k)
  | .keyData l off v => some (l, .keyData off v)
  | .keyWrite l => some (l, .keyWrite)
  | .keyGen l k => some (l, .keyGen k)
  | .keyRetire l id => some (l, .keyRetire id)
  | .keyRevoke l id => some (l, .keyRevoke id)
  | .watchList l => some (l, .watchList)
  | .watchSrc l n => some (l, .watchSrc n)
  | .watchSet l n resp filt => some (l, .watchSet n resp filt)
  | .watchFloor l n resp => some (l, .watchFloor n resp)
  | .watchArm l n => some (l, .watchArm n)
  | .watchDisarm l n => some (l, .watchDisarm n)
  | .tele l => some (l, .tele)
  | .teleShow l n => some (l, .teleShow n)
  | .telePer l t => some (l, .telePer t)
  | .teleStreamOn l => some (l, .teleStreamOn)
  | .teleStreamOff l => some (l, .teleStreamOff)
  | .imageList l => some (l, .imageList)
  | .imageBegin l k len crc => some (l, .imageBegin k len crc)
  | .imageData l off v => some (l, .imageData off v)
  | .imageEnd l => some (l, .imageEnd)
  | .imageAbort l => some (l, .imageAbort)
  | .lifeShow l => some (l, .lifeShow)
  | .lifeFit l => some (l, .lifeFit)
  | .lifeSeal l => some (l, .lifeSeal)
  | .lifeErase l => some (l, .lifeErase)
  | .lifeRetire l => some (l, .lifeRetire)
  | .lifeRefit l => some (l, .lifeRefit)
  | .unlock l => some (l, .unlock)
  | .reset l => some (l, .reset)
  | _ => none

namespace Machine

/-- A core's command finds its stores visible and its line buffer empty (R297). -/
def State.asAgent (s : State) (a : Agent) : State :=
  match a.cpu with
  | some c => s.strongIssue c
  | none => s

/-- CON can decide a line now. -/
def State.conReady (s : State) : Bool := s.listening && !s.conBlocked

/-- The state in which a form other than CONFIRM is decided: the challenge and the held line are gone (R134, R142). -/
def State.atLine (s : State) : State := s.lineStart.heldDrop

/-- A form passes steps 3 to 8 of Table 4.5. -/
def State.passes (s : State) (l : Line) (v : Verb) : Bool :=
  !s.atLine.chkMissing l.chk && s.atLine.legal v && decide (s.atLine.formLevel v ≤ s.atLine.level) &&
    (s.atLine.argBad v).isNone && (!s.atLine.formProt v || l.chk)

/-! ## Engine requests -/

/-- What a requester's command block asks of the PKE where its channel or its job can start operation `op`: the state in which it is
judged, the block's address and its fields (R376). -/
def State.pkeAsk (s : State) (r : EngReq) (op : Nat) : Option (State × Nat × PkeArgs) :=
  match r with
  | .direct c =>
    let w := s.pkeWords r 0
    if s.coreRuns c && (s.pkeOf r).isNone && (pkeArgs w).1 == op && pkeReserved w then some (s, 0, (pkeArgs w).2) else none
  | .job j =>
    let w := s.pkeWords r (s.pkeBlk j)
    if s.engJobReady j .pke && (pkeArgs w).1 == op && pkeReserved w then some (s.engJobStart j, s.pkeBlk j, (pkeArgs w).2)
    else none
  | _ => none

/-- The PKE serves operation `op` with these fields: the mode, the shelves, the curve, the program, the random source, and operands
within the bank (R374, R376, R377). -/
def State.pkeServes (s : State) (op : Nat) (a : PkeArgs) : Bool :=
  !s.sys.stopped && s.sys.mode.engines && [a.sa, a.sb, a.sc, a.sd].all (fun x => !x.getLsbD 9) &&
    decide (a.curve.toNat ≤ 5 ∨ 8 ≤ a.curve.toNat ∧ a.curve.toNat ≤ 10) && s.pkeProg op && !(opSpipe op && s.rngBlocked) &&
    (match s.pkeIo op a with | some x => s.pkeIoOk op x | none => false)

/-- The engine, empty before, is to run an operation of this requester: none waits, and the requester gets service now. -/
def State.pkeFree (s : State) (r : EngReq) : Bool := s.eng.pke.isEmpty && !s.reqIdle r

/-- The engine with an operation that has just joined it, empty before. -/
def State.pkeAlone (s : State) (r : EngReq) (op blk : Nat) (a : PkeArgs) : State :=
  { s with eng := { s.eng with pke := [s.pkeNew r op blk a], count := s.eng.count + 1 } }

/-- The engine runs one operation, begun for a requester with its block's fields. -/
def State.pkeRuns (s : State) (r : EngReq) (op blk : Nat) (a : PkeArgs) (o : PkeOp) : Prop :=
  s.eng.pke = [o] ∧ o.req = r ∧ o.op = op ∧ o.blk = blk ∧ o.args = a ∧ o.spipe = opSpipe op ∧ o.started = true ∧ o.parked = false ∧
    o.handed = false ∧ o.ends = none

/-- The same of the SYM engine (R406). -/
def State.symAsk (s : State) (r : EngReq) (op : Nat) : Option (State × Nat × SymArgs × Bool) :=
  match r with
  | .direct c =>
    let w := s.symWords r 0
    if s.coreRuns c && (s.symOf r).isNone && (symArgs w).1 == op then some (s, 0, (symArgs w).2, symReserved w) else none
  | .job j =>
    let w := s.symWords r (s.symBlk j)
    if s.engJobReady j .sym && (symArgs w).1 == op then
      some (s.engJobStart j, s.symBlk j, (symArgs w).2, symReserved w) else none
  | _ => none

/-- The SYM engine serves a command with these fields: the mode, the operation, its lengths and ranges, and its context (R400, R407,
R408). -/
def State.symServes (s : State) (r : EngReq) (op : Nat) (a : SymArgs) (clean : Bool) : Bool :=
  !s.sys.stopped && s.sys.mode.engines && symKnown op && clean && symLenOk op a && symRanges op a &&
    decide ((s.symContext r op a).1.code = 0)

/-- The SYM engine, empty before, is to run a command of this requester. -/
def State.symFreeFor (s : State) (r : EngReq) : Bool := s.eng.sym.isEmpty && !s.reqIdle r

/-- The SYM engine with a command that has just joined it, empty before; a first part has claimed its context (R408). -/
def State.symAlone (s : State) (r : EngReq) (op blk : Nat) (a : SymArgs) : State :=
  let s1 := if symMulti op && a.first then
    s.setCtx (finOf 8 a.ctx.toNat) (some { req := r, op := op, key := none, run := .block [] }) else s
  { s1 with eng := { s1.eng with
      sym := [{ id := s.eng.count, req := r, op := op, args := a, blk := blk, parked := true }], count := s.eng.count + 1 } }

/-! ## Lines as they are typed -/

/-- A line with its tag and its check (R121, R122). -/
def lineOf (tag : Byte) (body : List Byte) : List Byte :=
  let l := body ++ txt " @" ++ hexN 2 tag.toNat ++ txt " "
  l ++ txt "*" ++ hexN 4 (crc16 l)

/-- CON takes a line for a form: the tag and a correct check are found, the verb is known, and its noun and arguments are sound. -/
def State.readsAs (s : State) (tag : Byte) (body : List Byte) (v : Verb) : Prop :=
  ∃ r, parseLine (lineOf tag body) = some r ∧ r.tag = some tag ∧ r.check = some (crc16 (checked (lineOf tag body))) ∧
    VerbName.all.find? (fun n => n.text == r.verb) = some v.name ∧ s.formOf r v.name = (v, none)

end Machine
end Sys2Proof
end

