-- ==== Sys2Proof/WellFormed.lean ====
section
/-!
DEFINITION. WellFormed.lean: which commands a sender can form. Operands whose types already bound them (a port, a queue, a
counter) need no check; numbers of the console verbs and lengths of byte strings are bounded here.
-/
namespace Sys2Proof

open Sys2Proof.Machine

/-- A line's text of an applet verb: at least the leading dot, at most 240 characters, all printable (R114, Table 4.2). -/
def textOk (t : List Byte) : Bool :=
  t.head? == some 0x2E && decide (2 ≤ t.length) && decide (t.length ≤ 240) && t.all (fun b => decide (0x20 ≤ b.toNat) && decide (b.toNat ≤ 0x7E))

/-- The largest image of a kind (Table 15.6). -/
def imgMax : ImgKind → Nat
  | .fw => 0x40000
  | .uc => 0x8000
  | .app => 0x20000

/-- A command a sender can form. -/
def Instr.wf : Instr → Bool
  | .appletVerb _ text => textOk text
  | .lineBaud _ baud => [1200, 2400, 4800, 9600, 19200, 38400, 57600, 115200, 230400, 460800, 921600].contains baud
  | .authLevel _ lv => decide (1 ≤ lv.val)
  | .logTamper _ n => decide (1 ≤ n) && decide (n ≤ 64)
  | .logAttic _ t n => decide (1 ≤ n) && decide (n ≤ 64) && decide (t ≠ some 0)
  | .countRing _ _ slots => decide (16 ≤ slots) && decide (slots ≤ 256)
  | .tickSet _ per bgf =>
      (match per with | some p => [250, 500, 1000, 2000, 5000, 10000].contains p | none => true) &&
      (match bgf with | some b => decide (2 ≤ b) && decide (b ≤ 50) | none => true)
  | .timeAdj _ d => decide (-86400000000000 ≤ d) && decide (d ≤ 86400000000000)
  | .calK _ _ k16 => decide (1600 ≤ k16) && decide (k16 ≤ 1048575)
  | .calRaw _ n => decide (1 ≤ n) && decide (n ≤ 64)
  | .portFn _ _ c => decide (c.fn.toNat ≤ 10)
  | .storeSize _ k c a0 a1 h =>
      [8, 16, 32, 64].contains h && decide (k + c + a0 + a1 = 8192) && [k, c, a0, a1].all (fun x => decide (x % h = 0))
  | .keyShow _ id => decide (id ≠ 0xFFFFFFFF)
  | .keyStage _ k => decide (k.id ≠ 0xFFFFFFFF)
  | .keyData _ _ v => decide (1 ≤ v.length) && decide (v.length ≤ 64)
  | .keyGen _ k => decide (k.id ≠ 0xFFFFFFFF)
  | .keyRetire _ id => decide (id ≠ 0xFFFFFFFF)
  | .keyRevoke _ id => decide (id ≠ 0xFFFFFFFF)
  | .watchArm _ n => decide (0x40 ≤ n.val)
  | .watchDisarm _ n => decide (0x40 ≤ n.val)
  | .teleShow _ n => decide (1 ≤ n) && decide (n ≤ 32)
  | .telePer _ t => decide (100 ≤ t) && decide (t ≤ 65535)
  | .imageBegin _ k n _ => decide (1 ≤ n) && decide (n ≤ imgMax k)
  | .imageData _ _ v => decide (1 ≤ v.length) && decide (v.length ≤ 64)
  | .atrReceived _ x => decide (x.l.length ≤ 4092)
  | .writeQ _ len data _ _ => decide (data.length = len.toNat)
  | _ => true

end Sys2Proof
end

