-- ==== Sys2Proof/Certificates/Slice0/Obligations.lean ====
section
/-!
DEFINITION. Obligations.lean: the statements. Each docstring names the rules of spec/ that it formalises; where a clause rests on
a choice of the model, the log entry stands beside it.
-/
open Sys2Proof Sys2Proof.Machine

/-! ## The queue of commands and the step -/

/-- A step with a command at the front of the queue is that command on the state with the queue's rest. On an empty queue the
block idles (log entry 5). -/
def Obligations.StepRunsFront : Prop :=
  (∀ (s : State) (c : Instr) (rest : List Instr),
    step { s with pending := c :: rest } = exec c { s with pending := rest }) ∧
  (∀ (s : State), step { s with pending := [] } = .next { s with pending := [] })

/-! ## Console: reports (R154 to R164, R167 to R175, R179) -/

/-- The report forms of the session, of the modes and of time: each that passes steps 3 to 8 of Table 4.5 replies with the text of
its form, and changes nothing but CON. The report forms of counters, calibration, ports, queues, the Store Room, the Vault, the
Watch, telemetry, images and the lifecycle. KEY LIST and KEY SHOW are answered outside QUARANTINE (R153); CAL draws its
measurement. -/
def Obligations.ReportsReply : Prop :=
  (∀ (s : State) (l : Line), s.conReady = true →
    (s.passes l .help = true → exec (.help l) s = .next (s.atLine.replyLines l.tag s.atLine.helpRows)) ∧
    (∀ v, s.passes l (.helpVerb v) = true →
      exec (.helpVerb l v) s = .next (s.atLine.replyLines l.tag (s.atLine.helpVerbRows v))) ∧
    (s.passes l .info = true → exec (.info l) s = .next (s.atLine.replyOk l.tag s.atLine.infoText)) ∧
    (s.passes l .modeShow = true → exec (.modeShow l) s = .next (s.atLine.replyOk l.tag s.atLine.modeText)) ∧
    (s.passes l .echoShow = true → exec (.echoShow l) s = .next (s.atLine.replyOk l.tag s.atLine.echoText)) ∧
    (s.passes l .lineShow = true →
      exec (.lineShow l) s = .next (s.atLine.replyOk l.tag (fld "baud" s.atLine.baudText ++ s.atLine.echoText))) ∧
    (s.passes l .stat = true → exec (.stat l) s = .next (s.atLine.replyOk l.tag s.atLine.statText)) ∧
    (s.passes l .statReset = true → exec (.statReset l) s = .next (s.atLine.replyOk l.tag s.atLine.statResetText)) ∧
    (s.passes l .statRise = true → exec (.statRise l) s = .next (s.atLine.replyOk l.tag s.atLine.statRiseText)) ∧
    (∀ n, s.passes l (.logTamper n) = true →
      exec (.logTamper l n) s = .next (s.atLine.replyLines l.tag (s.atLine.tamperRows n))) ∧
    (∀ t n, s.passes l (.logAttic t n) = true → (s.atLine.atticList t n).all atticGood = true →
      exec (.logAttic l t n) s = .next (s.atLine.replyLines l.tag ((s.atLine.atticList t n).map atticRow))) ∧
    (s.passes l .tickShow = true → exec (.tickShow l) s = .next (s.atLine.replyOk l.tag s.atLine.tickText)) ∧
    (s.passes l .tickJobs = true → exec (.tickJobs l) s = .next (s.atLine.replyLines l.tag s.atLine.jobRows)) ∧
    (s.passes l .timeShow = true → exec (.timeShow l) s = .next (s.atLine.replyOk l.tag s.atLine.timeText))) ∧
  (∀ (s : State) (l : Line), s.conReady = true →
    (s.passes l .count = true → exec (.count l) s = .next (s.atLine.replyLines l.tag s.atLine.ctrRows)) ∧
    (∀ c, s.passes l (.countCtr c) = true → (s.atLine.nv.ring.at c).noValid = false →
      exec (.countCtr l c) s = .next (s.atLine.replyOk l.tag (s.atLine.ctrRow c))) ∧
    (s.passes l .calShow = true →
      exec (.calShow l) s = .next (s.atLine.calText.2.replyOk l.tag s.atLine.calText.1)) ∧
    (s.passes l .portList = true → exec (.portList l) s = .next (s.atLine.replyLines l.tag s.atLine.portRows)) ∧
    (∀ p, s.passes l (.portShow p) = true → exec (.portShow l p) s = .next (s.atLine.replyOk l.tag (s.atLine.portStatText p))) ∧
    (s.passes l .queueList = true → exec (.queueList l) s = .next (s.atLine.replyLines l.tag s.atLine.queueRows)) ∧
    (∀ q, s.passes l (.queueShow q) = true → exec (.queueShow l q) s = .next (s.atLine.replyOk l.tag (s.atLine.queueText q))) ∧
    (s.passes l .storeShow = true → exec (.storeShow l) s = .next (s.atLine.replyOk l.tag s.atLine.storeText)) ∧
    (s.passes l .keyList = true → s.atLine.sys.mode ≠ .quarantine →
      exec (.keyList l) s = .next (s.atLine.replyLines l.tag s.atLine.keyRows)) ∧
    (∀ id i, s.passes l (.keyShow id) = true → s.atLine.sys.mode ≠ .quarantine → s.atLine.keyHeads id ≠ [] →
      s.atLine.keyPublic id = some i →
      exec (.keyShow l id) s = .next (s.atLine.replyLines l.tag (lines32 20 (s.atLine.vValue i)))) ∧
    (s.passes l .watchList = true → exec (.watchList l) s = .next (s.atLine.replyLines l.tag s.atLine.watchRows)) ∧
    (∀ n, s.passes l (.watchSrc n) = true → exec (.watchSrc l n) s = .next (s.atLine.replyOk l.tag (s.atLine.watchText n))) ∧
    (s.passes l .tele = true → exec (.tele l) s = .next (s.atLine.replyOk l.tag s.atLine.teleText)) ∧
    (∀ n, s.passes l (.teleShow n) = true →
      exec (.teleShow l n) s = .next (s.atLine.replyLines l.tag ((s.atLine.teleRecs.take n).map hexBytes))) ∧
    (s.passes l .imageList = true → exec (.imageList l) s = .next (s.atLine.replyLines l.tag s.atLine.imageRows)) ∧
    (s.passes l .lifeShow = true → exec (.lifeShow l) s = .next (s.atLine.replyOk l.tag s.atLine.lifeText)))

/-- A report changes nothing but CON (Model of chapter 5): every other part of the state, the registers among them, is as before.
-/
def Obligations.ReportsFrame : Prop :=
  ∀ (s t : State) (i : Instr) (l : Line) (v : Verb), i.line? = some (l, v) → s.conReady = true → s.passes l v = true →
    v.isShow = true → v ≠ .calShow → exec i s = .next t →
    ∃ c, t = { s with con := c }

/-! ## Console: the order of decision (R128, R130) -/

/-- A line of any form but CONFIRM is answered E13 where the check is mandatory and absent, whatever else it asks for. A line of
any form but CONFIRM whose form is not legal now (in the mode, from the stage, or as a transition of Table 3.5) is answered E20
and performs nothing. A legal form asked for below its level is answered E21 and performs nothing. -/
def Obligations.RefusalsInOrder : Prop :=
  (∀ (s : State) (i : Instr) (l : Line) (v : Verb), i.line? = some (l, v) → v.name ≠ .confirm → s.conReady = true →
    s.atLine.chkMissing l.chk = true → exec i s = .next (s.atLine.replyErr l.tag 13)) ∧
  (∀ (s : State) (i : Instr) (l : Line) (v : Verb), i.line? = some (l, v) → v.name ≠ .confirm → s.conReady = true →
    s.atLine.chkMissing l.chk = false → s.atLine.legal v = false → exec i s = .next (s.atLine.replyErr l.tag 20)) ∧
  (∀ (s : State) (i : Instr) (l : Line) (v : Verb), i.line? = some (l, v) → v.name ≠ .confirm → s.conReady = true →
    s.atLine.chkMissing l.chk = false → s.atLine.legal v = true → s.atLine.level < s.atLine.formLevel v →
    exec i s = .next (s.atLine.replyErr l.tag 21))

/-- A protected form without a check that passes steps 1 to 7 is held: the token is never 0000, and the reply names it (R140). -/
def Obligations.ProtectedFormHeld : Prop :=
  ∀ (s : State) (i : Instr) (l : Line) (v : Verb), i.line? = some (l, v) → v.name ≠ .confirm → s.conReady = true →
    s.atLine.chkMissing l.chk = false → s.atLine.legal v = true → s.atLine.formLevel v ≤ s.atLine.level →
    s.atLine.argBad v = none → s.atLine.formProt v = true → l.chk = false → s.atLine.rngBlocked = false →
    ∃ (t : BitVec 16) (u : State), t ≠ 0 ∧ u = { s.atLine with draws := s.draws + 1 } ∧
      exec i s = .next ({ u with con := { u.con with held := some (.hw v, t) } }.replyOk l.tag
        (txt " HOLDING" ++ fld "tok" (hexN 4 t.toNat)))

/-- The error replies E20 and E21 count, and nothing but CON, CON_CNT and the telemetry period changes, in a mode that does not
count toward PROBE (R130). -/
def Obligations.StateErrorCountsOnly : Prop :=
  ∀ (s : State) (tag : Option Byte) (d : List Byte), s.sys.mode.probes = false →
    ∃ c, s.replyErr tag 20 d =
      { s.bump CON_CNT_E20 with con := c, care := ((s.bump CON_CNT_E20).tele (fun p => { p with conerr := p.conerr + 1 })).care }

/-! ## Console: the forms that act (R156 to R182) -/

/-- The forms of the line and of the session. ECHO replies under the new setting (R157); LINE BAUD= replies at the old rate and
remembers it (R109); AUTH Ln issues a challenge of 8 bytes drawn from the DRBG (R134), outside the lock-out; the right answer
opens a session at its level, where the unit credential judges it (R136); another level's answer waits for CON's lookup at the
boundary (R133); LOGOUT ends the session and the held line (R159). AUTH CARD=Pn sends the challenge message to a card that is
present at a CARD port (R135), and the card's 8 bytes and 90 00 are taken as the answer. -/
def Obligations.SessionFormsAct : Prop :=
  (∀ (s : State) (l : Line), s.conReady = true →
    (s.passes l .echoOn = true →
      exec (.echoOn l) s = .next ((s.atLine.wr CON_LINE_ECHO 1).replyOk l.tag (fld "echo" (txt "ON")))) ∧
    (s.passes l .echoOff = true →
      exec (.echoOff l) s = .next ((s.atLine.wr CON_LINE_ECHO 0).replyOk l.tag (fld "echo" (txt "OFF")))) ∧
    (∀ n, s.passes l (.lineBaud n) = true → ∃ t, exec (.lineBaud l n) s = .next t ∧
      t.con.tx = (s.atLine.replyOk l.tag (fld "baud" (dec n))).con.tx ∧
      bauds[t.rd CON_LINE_BAUD]? = some n ∧ t.con.revert = some (BitVec.ofNat 4 (s.rd CON_LINE_BAUD))) ∧
    (∀ lv, s.passes l (.authLevel lv) = true → s.atLine.lockWait = 0 → s.atLine.rngBlocked = false →
      ∃ (b : BitVec 64) (u : State), u = { s.atLine with draws := s.draws + 2 } ∧
        exec (.authLevel l lv) s = .next
          ({ u with con := { u.con with chal := some { level := lv.val, mode := u.sys.mode, bytes := b } } }.replyOk l.tag
            (fld "CHAL" (hexN 16 b.toNat)))) ∧
    (∀ h c, s.passes l (.authResp h) = true → s.atLine.lockWait = 0 → s.atLine.holdoff = false → s.con.chal = some c →
      c.late = false → s.atLine.unitKey c = true → c.answer (beBytes 32 Config.unitCred.toNat) = h →
      exec (.authResp l h) s = .next (s.atLine.authOk l.tag c.level)) ∧
    (∀ h c, s.passes l (.authResp h) = true → s.atLine.lockWait = 0 → s.atLine.holdoff = false → s.con.chal = some c →
      c.late = false → s.atLine.unitKey c = false →
      exec (.authResp l h) s = .next (s.atLine.authWaits l.tag c h)) ∧
    (s.passes l .logout = true → exec (.logout l) s = .next (((s.atLine.sessionEnd "").heldDrop).replyOk l.tag
      (fld "level" (levelText 0))))) ∧
  (∀ (s : State),
    (∀ l p c, s.conReady = true → s.passes l (.authCard p) = true → s.atLine.lockWait = 0 → s.atLine.holdoff = false →
      s.con.chal = some c → c.late = false → s.atLine.pfn p = .card → s.atLine.isSet (PORT_STAT_PRES p) = true →
      s.atLine.unitKey c = false →
      exec (.authCard l p) s = .next { s.atLine.cxPut p c.apdu with
        con := { (s.atLine.cxPut p c.apdu).con with busy := .card l.tag p c } }) ∧
    (∀ tag p c, s.con.busy = .card tag p c → s.shadow.any (fun w => w.fld == PORT_CXCTL_GO p) = false →
      s.rd (PORT_CXSTAT_STATE p) = 2 → (s.cxResponse p).length = 10 → (s.cxResponse p).drop 8 = [0x90, 0x00] →
      exec .authCardResponse s =
        .next (s.authWaits tag c (BitVec.ofNat 64 (beNat ((s.cxResponse p).take 8)))).conDrain))

/-- CONFIRM with the token of the held line decides that line again from step 5, under its own tag (R141). A wrong token, or no
held line, is answered E12, and no line is held afterwards (R141, R142). -/
def Obligations.ConfirmActs : Prop :=
  (∀ (s : State) (l : Line) (v : Verb) (tok : BitVec 16), s.conReady = true → s.lineStart.chkMissing l.chk = false →
    s.con.held = some (.hw v, tok) →
    exec (.confirm l tok) s = .next (s.atLine.decideForm l.tag true none (v, none))) ∧
  (∀ (s : State) (l : Line) (tok : BitVec 16), s.conReady = true → s.lineStart.chkMissing l.chk = false →
    (∀ h t, s.con.held = some (h, t) → t ≠ tok) →
    exec (.confirm l tok) s = .next (s.atLine.replyErr l.tag 12) ∧ (s.atLine.replyErr l.tag 12).con.held = none)

/-- The forms that wait for their boundary (R150): what they ask for stands in the shadow, or as the pending mode, and CON waits.
MODE asks for a transition of Table 3.5 while no other is pending (R36, R77, R86). The reply of a form that waited (R150): what
took effect is reported, and what was discarded is answered with its error. -/
def Obligations.WaitingFormsAct : Prop :=
  (∀ (s : State) (l : Line), s.conReady = true →
    (∀ dest lv, s.passes l (.modeChange dest) = true → s.atLine.sys.mode.goes dest = some lv → s.atLine.sys.pend = none →
      s.atLine.holdDue = false →
      exec (.modeChange l dest) s = .next
        ({ s.atLine with sys := { s.atLine.sys with pend := some { dest := dest, cause := 0 } } }.waitCommit l.tag (.modeChange dest))) ∧
    (∀ c n, s.passes l (.countRing c n) = true →
      exec (.countRing l c n) s = .next (s.atLine.waitCommit l.tag (.countRing c n))) ∧
    (∀ p b, s.passes l (.tickSet (some p) (some b)) = true →
      exec (.tickSet l (some p) (some b)) s = .next
        ((if perCode p ≠ s.rd TICK_CFG_PER then
            ((s.atLine.waitPut .con TICK_CFG_PER (perCode p)).waitPut .con TICK_CFG_BGF b).setb TICK_STAT_PERPEND
          else (s.atLine.waitPut .con TICK_CFG_PER (perCode p)).waitPut .con TICK_CFG_BGF b).waitCommit l.tag
            (.tickSet (some p) (some b)))) ∧
    (∀ b, s.passes l (.tickSet none (some b)) = true →
      exec (.tickSet l none (some b)) s = .next ((s.atLine.waitPut .con TICK_CFG_BGF b).waitCommit l.tag (.tickSet none (some b)))) ∧
    (∀ p k, s.passes l (.calK p k) = true → s.atLine.pfn p = .pulse →
      (s.atLine.isSet (PORT_FUNC_FIX p) && !s.atLine.rwsOpen) = false →
      exec (.calK l p k) s = .next ((s.atLine.waitPut .con (PORT_PAR p 1)
        (s.atLine.rd (PORT_PAR p 1) - s.atLine.kInForce p + k)).waitCommit l.tag (.calK p k))) ∧
    (∀ p c, s.passes l (.portFn p c) = true → ∃ t : State, exec (.portFn l p c) s = .next (t.waitCommit l.tag (.portFn p c)) ∧
      t = { s.atLine with shadow := t.shadow } ∧
      (∀ e ∈ [(PORT_FUNC_FN p, c.fn.toNat), (PORT_CFG_FILT p, c.cfg.toNat % 4096), (PORT_CFG_PULLA p, c.cfg.toNat / 2 ^ 12 % 4),
        (PORT_CFG_PULLB p, c.cfg.toNat / 2 ^ 14 % 4), (PORT_CFG_AUTOCLR p, c.cfg.toNat / 2 ^ 16 % 2), (PORT_PAR p 0, c.par0.toNat),
        (PORT_PAR p 1, c.par1.toNat), (PORT_PAR p 2, c.par2.toNat), (PORT_PAR p 3, c.par3.toNat)],
        t.shadow.filter (fun w => w.fld == e.1) = [⟨.con, e.1, BitVec.ofNat 32 e.2⟩]) ∧
      ∀ w : ShadowWrite, w.fld ∉ PORT_FUNC_FN p :: PORT_CFG_FILT p :: PORT_CFG_PULLA p :: PORT_CFG_PULLB p :: PORT_CFG_AUTOCLR p ::
        (finList 4).map (PORT_PAR p) → (w ∈ t.shadow ↔ w ∈ s.shadow)) ∧
    (∀ k c a0 a1 h, s.passes l (.storeSize k c a0 a1 h) = true →
      exec (.storeSize l k c a0 a1 h) s = .next ((((((s.atLine.waitPut .con STR_SIZE0_K k).waitPut .con STR_SIZE0_C c).waitPut .con
        STR_SIZE1_A0 a0).waitPut .con STR_SIZE1_A1 a1).waitPut .con STR_CFG_H
        (if h = 8 then 0 else if h = 16 then 1 else if h = 32 then 2 else 3)).waitCommit l.tag (.storeSize k c a0 a1 h))) ∧
    (∀ n r f, s.passes l (.watchSet n (some r) (some f)) = true →
      exec (.watchSet l n (some r) (some f)) s = .next (((s.atLine.waitPut .con (WATCH_RESP n) r.code).waitPut .con (WATCH_FILT n)
        f.toNat).waitCommit l.tag (.watchSet n (some r) (some f)))) ∧
    (∀ n r, s.passes l (.watchFloor n r) = true →
      exec (.watchFloor l n r) s = .next ((s.atLine.waitPut .con (WATCH_FLOOR n) r.code).waitCommit l.tag (.watchFloor n r))) ∧
    (∀ n, s.passes l (.watchArm n) = true →
      exec (.watchArm l n) s = .next ((s.atLine.waitPut .con (WATCH_ARM n) 1).waitCommit l.tag (.watchArm n))) ∧
    (∀ n, s.passes l (.watchDisarm n) = true →
      exec (.watchDisarm l n) s = .next ((s.atLine.waitPut .con (WATCH_ARM n) 0).waitCommit l.tag (.watchDisarm n))) ∧
    (∀ t, s.passes l (.telePer t) = true →
      exec (.telePer l t) s = .next ((s.atLine.waitPut .con TELE_CFG_PER t).waitCommit l.tag (.telePer t)))) ∧
  (∀ (s : State) (tag : Option Byte) (v : Verb),
    (s.con.busy = .commit tag v .took → exec .verbCommitReply s = .next (s.replyOk tag (s.tookText v)).conDrain) ∧
    (∀ code d, s.con.busy = .commit tag v (.refused code d) →
      exec .verbCommitReply s = .next (s.replyErr tag code d).conDrain) ∧
    (v.name = .key → s.con.busy = .commit tag v .issued → s.vltRuns = false → s.rd (VLT_STAT_CODE .con) = 0 →
      exec .verbCommitReply s = .next (s.replyOk tag (s.keyText v)).conDrain))

/-- The KEY forms outside QUARANTINE: STAGE takes the place of any staged entry; DATA extends it at its end, or replaces the last
chunk at its own offset; WRITE, GEN, RETIRE and REVOKE wait for their boundary (R171, R172). -/
def Obligations.KeyFormsAct : Prop :=
  ∀ (s : State) (l : Line), s.conReady = true → s.atLine.sys.mode ≠ .quarantine →
    (∀ a, s.passes l (.keyStage a) = true →
      exec (.keyStage l a) s = .next ({ s.atLine with con := { s.atLine.con with stage := some { args := a } } }.replyOk l.tag
        (fld "id" (idText a.id) ++ fld "len" (dec a.len)))) ∧
    (∀ k off v, s.passes l (.keyData off v) = true → s.atLine.con.stage = some k → (off = k.data.length ∨ off = k.lastOff) →
      off + v.length ≤ k.args.len →
      exec (.keyData l off v) s = .next ({ s.atLine with con := { s.atLine.con with
        stage := some { k with data := k.data.take off ++ v, lastOff := off } } }.replyOk l.tag
        (fld "off" (dec off) ++ fld "staged" (dec (k.data.take off ++ v).length)))) ∧
    (∀ k, s.passes l .keyWrite = true → s.atLine.con.stage = some k → k.data.length = k.args.len →
      exec (.keyWrite l) s = .next (s.atLine.waitCommit l.tag .keyWrite)) ∧
    (∀ a, s.passes l (.keyGen a) = true → exec (.keyGen l a) s = .next (s.atLine.waitCommit l.tag (.keyGen a))) ∧
    (∀ id, s.passes l (.keyRetire id) = true → s.atLine.keyHeads id ≠ [] →
      exec (.keyRetire l id) s = .next (s.atLine.waitCommit l.tag (.keyRetire id))) ∧
    (∀ id, s.passes l (.keyRevoke id) = true → s.atLine.keyHeads id ≠ [] →
      exec (.keyRevoke l id) s = .next (s.atLine.waitCommit l.tag (.keyRevoke id)))

/-- In QUARANTINE the show forms of KEY are legal, and they are answered E60: the Vault is locked (R153). -/
def Obligations.KeysLockedInQuarantine : Prop :=
  ∀ (s : State) (l : Line) (id : Word), s.conReady = true → s.sys.mode = .quarantine →
    Verb.keyList.legal s.sys.mode = true ∧ (Verb.keyShow id).legal s.sys.mode = true ∧
    (s.passes l .keyList = true → exec (.keyList l) s = .next (s.atLine.replyErr l.tag 60)) ∧
    (s.passes l (.keyShow id) = true → exec (.keyShow l id) s = .next (s.atLine.replyErr l.tag 60))

/-- The forms that act at once: TIME ADJ within the allowance (R165) and TIME SET (R166) while CTR5 can be incremented, TIME SET
SRC=PPS with a PPS port, CAL RUN, E22 while a calibration runs, and CAL RAW (R167), whose samples the health tests see (R411),
so that a reset in answer to RNG_FAIL takes the place of the reply; PORT CLEAR after enough agreement (R168, R211), QUEUE FLUSH
(R169), STORE FIND (R170), the telemetry stream (R174) and the image loader's forms (R175 to R177). -/
def Obligations.ImmediateFormsAct : Prop :=
  ∀ (s : State) (l : Line), s.conReady = true →
    (∀ d, s.passes l (.timeAdj d) = true → s.atLine.timeUnk = false →
      (s.atLine.sys.mode = .workshop ∨ s.atLine.adjBeyond d = false) → s.atLine.ctr5Ok = true →
      exec (.timeAdj l d) s = .next ((s.atLine.timeAdj d).replyOk l.tag
        (fld "utc" (s.atLine.timeAdj d).utcText ++ (s.atLine.timeAdj d).adjText))) ∧
    (∀ utc, s.passes l (.timeSet utc false) = true → s.atLine.ctr5Ok = true →
      exec (.timeSet l utc false) s = .next ((s.atLine.timeSet (s.atLine.stepTo utc)).replyOk l.tag
        (fld "utc" (s.atLine.timeSet (s.atLine.stepTo utc)).utcText ++
          fld "src" (s.atLine.timeSet (s.atLine.stepTo utc)).srcText))) ∧
    (∀ utc p, s.passes l (.timeSet utc true) = true → s.atLine.ctr5Ok = true → s.atLine.pfn p = .pps →
      exec (.timeSet l utc true) s = .next { s.atLine with
        tbs := { s.atLine.tbs with setAt := some utc }, con := { s.atLine.con with busy := .pps l.tag } }) ∧
    (s.passes l .calRun = true → s.tbs.calRuns = false →
      exec (.calRun l) s = .next { s.atLine with
        con := { s.atLine.con with busy := .cal l.tag }, tbs := { s.tbs with calRuns := true } }) ∧
    (s.passes l .calRun = true → s.tbs.calRuns = true → exec (.calRun l) s = .next (s.atLine.replyErr l.tag 22)) ∧
    (∀ n r t, s.passes l (.calRaw n) = true → s.atLine.rawLines n = (r, t) →
      exec (.calRaw l n) s = .next (if t.con.started then t.replyLines l.tag r else t) ∧ r.length = n ∧
        ∀ x ∈ r, x.length = 64) ∧
    (∀ p, s.passes l (.portClear p) = true → (s.atLine.discClear p).1 = true →
      exec (.portClear l p) s = .next ((s.atLine.discClear p).2.replyOk l.tag (fld "port" (portText p) ++ fld "disc" (dec 0)))) ∧
    (∀ q, s.passes l (.queueFlush q) = true → exec (.queueFlush l q) s = .next ((s.atLine.flushQueue q).replyOk l.tag
      (fld "q" (Machine.queueText q) ++
        fld "flush" (if (s.atLine.qfx.at q).inPacket then txt "PENDING" else txt "DONE")))) ∧
    (∀ r k, s.passes l (.storeFind r k) = true → (s.atLine.strSearch r k).1.isBusy = false →
      exec (.storeFind l r k) s = .next ((s.atLine.strSearch r k).2.replyOk l.tag
        ((s.atLine.strSearch r k).2.findText (s.atLine.strSearch r k).1))) ∧
    (s.passes l .teleStreamOn = true → s.atLine.rd (QFX_RES 63) ≠ 0 →
      exec (.teleStreamOn l) s = .next ((s.atLine.wr TELE_STAT_STREAM 1).replyOk l.tag (fld "stream" (txt "ON")))) ∧
    (s.passes l .teleStreamOff = true →
      exec (.teleStreamOff l) s = .next ((s.atLine.wr TELE_STAT_STREAM 0).replyOk l.tag (fld "stream" (txt "OFF")))) ∧
    (∀ k n c, s.passes l (.imageBegin k n c) = true → (s.atLine.loadBegin false k n c).1 = 0 →
      exec (.imageBegin l k n c) s = .next ((s.atLine.loadBegin false k n c).2.replyOk l.tag
        (fld "slot" (slotName k (s.atLine.spare k)) ++ fld "len" (dec n)))) ∧
    (∀ off v, s.passes l (.imageData off v) = true → (s.atLine.loadData false off v).1 = 0 →
      exec (.imageData l off v) s = .next ((s.atLine.loadData false off v).2.replyOk l.tag
        (fld "off" (dec off) ++ fld "rcvd" (dec (off + v.length))))) ∧
    (∀ x ver t, s.passes l .imageEnd = true → s.atLine.loadEnd false = (some (0, x, ver), t) → t.con.busy = .exec →
      exec (.imageEnd l) s = .next (t.replyOk l.tag
        (fld "slot" (slotName x.kind x.slot) ++ fld "ver" (dec ver) ++ fld "state" (txt "NEXT")))) ∧
    (∀ x t, s.passes l .imageAbort = true → s.atLine.loadAbort false = (some x, t) →
      exec (.imageAbort l) s = .next (t.replyOk l.tag (fld "slot" (slotName x.kind x.slot) ++ fld "state" (txt "EMPTY"))))

/-- The lifecycle forms, UNLOCK and RESET: the reply goes out in full, without a prompt, and the reset waits for its last stop bit
(R81, R151, R180 to R182). LIFE SEAL asks for its keys, the LIFE forms for VCC at or above 2.90 V. The bits blown join LIFE where
none of them is stuck (R82); a LIFE ERASE that a dip of VCC cut short goes on once VCC is back (R81). -/
def Obligations.LifeFormsAct : Prop :=
  ∀ (s : State) (l : Line), s.conReady = true →
    (s.passes l .lifeFit = true → s.atLine.fuseVcc = true →
      exec (.lifeFit l) s = .next (s.atLine.lifeBlow l.tag 0 (s.atLine.nextBits 1))) ∧
    (s.passes l .lifeSeal = true → s.atLine.fuseVcc = true → s.atLine.sealReady = true →
      exec (.lifeSeal l) s = .next (s.atLine.sealFloors.lifeBlow l.tag 1 (s.atLine.nextBits 1))) ∧
    (s.passes l .lifeErase = true → s.atLine.fuseVcc = true → (s.atLine.nextBits s.atLine.stage.eraseBits).length ≠ 2 →
      exec (.lifeErase l) s = .next ((s.atLine.eraseVault.choose 2).2.lifeBlow l.tag 2 (s.atLine.nextBits s.atLine.stage.eraseBits))) ∧
    (s.passes l .lifeRetire = true → s.atLine.fuseVcc = true → exec (.lifeRetire l) s = .next (s.atLine.lifeBlow l.tag 3 [12])) ∧
    (s.passes l .lifeRefit = true → s.atLine.epoch ≠ 2 → s.atLine.fuseVcc = true →
      exec (.lifeRefit l) s = .next (s.atLine.lifeBlow l.tag 4 (s.atLine.nextBits 1))) ∧
    (s.passes l .unlock = true → ∃ t, exec (.unlock l) s = .next t ∧ t.con.busy = .reset .warm .unlockOrLife ∧
      t.rd CEL_FLAGS_LOCKED = 0 ∧ t.con.tx = s.con.tx ++ conBytes (txt "OK" ++ tagBytes l.tag ++ fld "reset" (txt "WARM"))) ∧
    (s.passes l .reset = true → ∃ t, exec (.reset l) s = .next t ∧ t.con.busy = .reset .warm .miandReset ∧
      t.con.tx = s.con.tx ++ conBytes (txt "OK" ++ tagBytes l.tag ++ fld "reset" (txt "WARM"))) ∧
    (∀ k w, s.con.busy = .reset k w → exec .verbReset s = .next (s.enterReset k w 0xFF)) ∧
    (∀ tag old (vcc : BitVec 16), s.con.busy = .fuse tag old → s.si.stuck = 0 →
      { s with si := { s.si with vcc := vcc.toNat } }.fuseVcc = true →
      ∃ t, exec (.lifeFuseResume vcc) s = .next t ∧ t.si.vcc = vcc.toNat ∧ t.con.busy = .reset .erase .unlockOrLife ∧
        t.si.life = (s.nextBits s.stage.eraseBits).foldl (fun x b => x ||| (1 : BitVec 13) <<< b) s.si.life) ∧
    (∀ (u : State) verb bits, u.si.stuck = 0 →
      (u.lifeBlow l.tag verb bits).si.life = bits.foldl (fun x b => x ||| (1 : BitVec 13) <<< b) u.si.life ∧
      (u.lifeBlow l.tag verb bits).con.busy = .reset (if verb = 2 then .erase else .warm) .unlockOrLife)

/-! ## The Hatch (R22 to R30) -/

/-- The slot commands as Table 1.7 gives them: CLAIM makes a FREE slot of the sender WRITING; RING posts it with the receiver, the
number and the fragment its body names, where the trailer matches and the receiver is not in reset; where the trailer does not
match, the ring is refused, the slot stays WRITING, and CRC is set in the sender's view without MISUSE (R26); ABANDON and DONE
return it to FREE; TAKE makes it TAKEN. Nothing else changes, but that CON sends what waited for a slot. -/
def Obligations.HatchCommandsAct : Prop :=
  ∀ (s : State) (a : Agent) (n : Fin 16), s.agentUp a = true →
    (hatchSender n = a → ((s.asAgent a).hatch.at n).st = .free →
      exec (.claim a n) s = .next ((s.asAgent a).slot n (fun x => { x with st := .writing }))) ∧
    (hatchSender n = a → ((s.asAgent a).hatch.at n).st = .writing → ((s.asAgent a).hatch.at n).ok = true →
      (s.asAgent a).inReset (Agent.ofCode (bits ((s.asAgent a).hatch.at n).route 0 2)) = false →
      exec (.ring a n) s = .next ((s.asAgent a).slot n (fun x => { x with
        st := .posted, dest := Agent.ofCode (bits x.route 0 2), seq := x.byte 3, frag := bits x.route 2 3,
        last := bitAt x.route 5 }))) ∧
    (hatchSender n = a → ((s.asAgent a).hatch.at n).st = .writing → ((s.asAgent a).hatch.at n).ok = false →
      exec (.ring a n) s = .next ((s.asAgent a).setb (HATCH_ERR_CRC a))) ∧
    (hatchSender n = a → (((s.asAgent a).hatch.at n).st = .writing ∨ ((s.asAgent a).hatch.at n).st = .posted) →
      exec (.abandon a n) s = .next ((s.asAgent a).slotFree n).conFlush) ∧
    (((s.asAgent a).hatch.at n).dest = a → ((s.asAgent a).hatch.at n).st = .posted → a ≠ .con → a ≠ .care →
      exec (.take a n) s = .next ((s.asAgent a).slot n (fun x => { x with st := .taken }))) ∧
    (((s.asAgent a).hatch.at n).dest = a → ((s.asAgent a).hatch.at n).st = .taken →
      exec (.done a n) s = .next ((s.asAgent a).slotFree n).conFlush)

/-- The body of a slot (R27): its sender writes it while the slot is WRITING, and the named receiver reads it while the slot is
TAKEN. Any other access reads 0, ignores the write, sets HATCH_ERR OWNER in the accessor's view and raises MISUSE. An agent that
is no core has no register for the word it reads. -/
def Obligations.HatchBodyAccess : Prop :=
  ∀ (s t : State) (a : Agent) (n k : Fin 16), s.agentUp a = true → t = s.asAgent a →
    (∀ w : Word, hatchSender n = a ∧ (t.hatch.at n).st = .writing →
      exec (.hatchBodyAccess a n k (some w)) s = .next (t.slot n (fun x => { x with body := x.body.put k w }))) ∧
    (∀ w : Word, ¬(hatchSender n = a ∧ (t.hatch.at n).st = .writing) →
      exec (.hatchBodyAccess a n k (some w)) s = .next ((t.setb (HATCH_ERR_OWNER a)).misuse)) ∧
    (∀ c : CpuId, a = c.agent → (t.hatch.at n).dest = a ∧ (t.hatch.at n).st = .taken →
      exec (.hatchBodyAccess a n k none) s = .next (t.loaded c ((t.hatch.at n).body.at k))) ∧
    (∀ c : CpuId, a = c.agent → ¬((t.hatch.at n).dest = a ∧ (t.hatch.at n).st = .taken) →
      exec (.hatchBodyAccess a n k none) s = .next (((t.loaded c 0).setb (HATCH_ERR_OWNER a)).misuse)) ∧
    (a.cpu = none → (t.hatch.at n).dest = a ∧ (t.hatch.at n).st = .taken → exec (.hatchBodyAccess a n k none) s = .next t) ∧
    (a.cpu = none → ¬((t.hatch.at n).dest = a ∧ (t.hatch.at n).st = .taken) →
      exec (.hatchBodyAccess a n k none) s = .next ((t.setb (HATCH_ERR_OWNER a)).misuse))

/-- CON's messages: a whole APPLET_REPLY of the core that CON waits for becomes the reply line (R147), or E70 where its slots fail
their check on the way (R269, R270); a VERB_REG that registers a new name in a running mode enters region C (R144, R145); a
MODE_REQ for a transition that a core may ask for becomes pending, where none is (R35, R36). An applet line whose rule admits its
mode and level, with no confirmation to ask for, goes to its core as APPLET_REQ with its level, mode, tag and text, and CON waits
for the reply (R146); an applet wait that its timeout ends is answered E71, with HATCH_ERR.STATE and MISUSE where the core has
TAKEN the request (R30; that CON's ABANDON there is a command in the wrong state is the model's reading, log entry 90). -/
def Obligations.AppletMessagesAct : Prop :=
  (∀ (s : State) (n : Fin 16) (c : CpuId),
    (∀ tag, s.conMessage n 2 = some c → s.msgBad n = false → (s.msgDone n).con.busy = .applet tag c (s.hatch.at n).seq →
      (s.msgSound n = true →
        exec (.appletReply n) s = .next ((s.msgDone n).appletAnswer tag (s.msgPayload n)).conDrain) ∧
      (s.msgSound n = false →
        exec (.appletReply n) s = .next (((s.msgDone n).laneFail 1).replyErr tag 70).conDrain)) ∧
    (∀ name w i u, s.conMessage n 3 = some c → s.msgBad n = false → (s.msgDone n).sys.mode.running = true →
      (s.msgDone n).sys.stopped = false → (s.msgDone n).str.wait = [] →
      s.msgPayload n = 0 :: (pad16 name ++ [(0xF8 : Byte), 0, 0, 0, 0]) → appletName name = some name →
      (s.msgDone n).ruleEntry name = none →
      w = BitVec.ofNat 32 (0xF8 + 0x10000 * c.val) →
      (s.msgDone n).strInsert ⟨.con c (s.hatch.at n).seq, ruleNew name w, false, false⟩ false = (.done i, u) →
      exec (.verbReg n) s = .next u) ∧
    (s.conMessage n 5 = some c → s.msgBad n = false → s.msgPayload n = [7] → (s.msgDone n).sys.mode = .service →
      (s.msgDone n).sys.pend = none → (s.msgDone n).holdDue = false →
      exec (.modeReq n) s = .next { s.msgDone n with sys := { (s.msgDone n).sys with
        pend := some { dest := .doze, cause := 1, core := some c, seq := (s.hatch.at n).seq } } })) ∧
  (∀ (s : State) (l : Line),
    (∀ text r a u, s.conReady = true → s.atLine.chkMissing l.chk = false → textOk text = true → parseLine text = some r →
      r.verb.head? = some 0x2E → r.tag = none → r.check = none → r.dup = false → s.atLine.sys.mode.running = true →
      s.atLine.ruleOf r.verb = (a, u) → a.isBusy = false → a.none = false → a.deny = false →
      bitAt (ruleModes a.result) u.sys.mode.code = true → ruleLevel a.result ≤ u.level →
      (ruleProt a.result = false ∨ l.chk = true) → (u.cpu.at (ruleCore a.result)).run = true →
      exec (.appletVerb l text) s = .next ({ u with con := { u.con with
        seq := u.con.seq + 1, busy := .applet l.tag (ruleCore a.result) u.con.seq } }.conSend (ruleCore a.result).agent 1 u.con.seq
          ([BitVec.ofNat 8 u.level, BitVec.ofNat 8 u.sys.mode.code, l.tag.getD 0, BitVec.ofNat 8 (b2n l.tag.isSome)] ++
            appletText text r))) ∧
    (∀ tag c seq, s.con.busy = .applet tag c seq →
      (s.requestTaken c seq = false →
        exec .appletTimeout s = .next (((s.requestDrop c seq).replyErr tag 71).conDrain)) ∧
      (s.requestTaken c seq = true →
        exec .appletTimeout s = .next ((((s.requestDrop c seq).replyErr tag 71).hatchBad (HATCH_ERR_STATE .con)).conDrain))))

/-! ## The tick and its jobs (R45 to R75) -/

/-- A tick edge while the tick runs (R20, R46 to R54): the frame that ends closes, waiting writes commit, a mode change takes
effect, and the new frame begins in harvest with its count; CON then takes its lookup and the lines that waited. A write that
waits alone takes its place and no other register but PKE_STAT.SHELFPEND changes with it. HOLD comes first of the mode changes
(R20, R90), then a change that was asked for, and without either the mode stays. HOLD_EXIT is the edge that follows 10 ms of VCC
at or above 2.75 V (R91): where no other cause remains, the mode that HOLD left comes back. -/
def Obligations.BoundaryActs : Prop :=
  ∀ (s f w m n b h : State) (e : TickEnv), s.isSet TICK_STAT_RUN = true → s.mainUp = true →
    w = (((f.advance f.period true).coreTicks f.period).readEnv e).pulsesEnd → m = w.commitAll.relockStep → n = m.modeStep →
    b = (n.frameStep (f.tick.cancel || decide (n.sys.mode ≠ m.sys.mode))).edgesDown →
    h = ((b.harvest e).flushEdges.hlkPurge).timeStep f.period →
    (b.tick.phase = .harvest ∧ b.tick.closed = false ∧ b.tick.ahead = [] ∧ b.tick.frame = n.tick.frame + 1 ∧
      b.sys.mode = n.sys.mode ∧ (∀ j i, n.tick.inst.at j = some i →
        b.tick.inst.at j = some { i with edges := i.edges - 1, overdue := i.overdue || decide (i.edges ≤ 1) })) ∧
    (∀ x, w.shadow = [x] → waitOf x.fld = .plain → x.fld ≠ VLT_WIN .con → x.fld ≠ VLT_CMD_CMD .con → x.fld.width ≤ 32 →
      x.fld.key ≠ PKE_STAT_SHELFPEND.key → w.con.busy = .idle → w.tick.cfg = none → w.sys.relock = false →
      m.rd x.fld = x.val.toNat % 2 ^ x.fld.width ∧ m.shadow = [] ∧
        ∀ g : Field, g.key ≠ x.fld.key → g.key ≠ PKE_STAT_SHELFPEND.key → m.rd g = w.rd g) ∧
    (m.holdDue = true → n = m.holdEnter.holdEvents ∧ n.sys.mode = .hold ∧ n.sys.prev = m.sys.mode) ∧
    (m.holdDue = false → m.sys.mode ≠ .hold →
      (m.sys.pend = none → n = m) ∧ (∀ p, m.sys.pend = some p → n = (m.pendTake p).holdEvents ∧ n.sys.mode = p.dest)) ∧
    (m.sys.mode = .hold → m.sys.holdVcc = false → m.sys.holdSrc = [] → n.sys.mode = m.sys.prev) ∧
    (f = s.frameClose → exec (.tickBoundary e) s =
      .next ((({ h with str := { h.str with slots := 0 } }.rngRefill).remaskTick.cellarCopy.careFrame).armSettle f.shadow).conBoundary) ∧
    (f = { s with sys := { s.sys with holdVcc := false } }.frameClose → s.sys.mode = .hold → 2750 ≤ e.vcc.toNat →
      exec (.holdExit e) s =
        .next ((({ h with str := { h.str with slots := 0 } }.rngRefill).remaskTick.cellarCopy.careFrame).armSettle f.shadow).conBoundary)

/-- The phases of a frame: at the end of harvest parked jobs resume, due jobs are released, the Store Room and the Archive take
theirs and the cores get theirs (R55, R56); the foreground window closes into the slack phase (R52); at 90 % of the period the
run-ahead searches of the next frame's jobs are issued (R67). Jobs: a kick is remembered for the next frame (R55); TICK_DONE of
the core's delivered job completes it and brings the next one (R57, R58), any other sets DONEERR and raises MISUSE (R58); a job
that has used its budget is marked so, with the budget interrupt of a core's job (R60); a job past its deadline edge is counted,
aborted and raises OVERRUN (R64), and where it owned a run-ahead slot every result of the frame becomes STALE (R69). -/
def Obligations.FramesAndJobsAct : Prop :=
  (∀ (s : State), s.isSet TICK_STAT_RUN = true →
    (s.tick.phase = .harvest →
      exec .harvestEnd s = .next (s.setPhase .foreground false).jobsRelease.jobsTake.deliverAll.pkeStates.symStates) ∧
    (s.tick.phase ≠ .harvest → exec .foregroundWindowClose s = .next (s.setPhase .slack true).pkeStates.symStates) ∧
    (s.isSet TICK_CFG_RAEN = true → s.tick.phase ≠ .harvest →
      exec .runAhead s = .next ((finList 16).foldl State.raIssue
        { s with tick := { s.tick with
          ahead := (finList 64).filter s.jobNext
          raOwners := ((finList 16).filter s.raIssues).map (fun m => finOf 64 (s.rd (TICK_RA_JOB m))) } }))) ∧
  (∀ (s : State),
    (∀ c n v, s.coreRuns c = true →
      exec (.tickKick c.agent n v) s = .next { s.strongIssue c with tick := { (s.strongIssue c).tick with
        kick := (s.strongIssue c).tick.kick ||| ((v.setWidth 64) <<< (32 * n.val)) } }) ∧
    (∀ c j i, s.coreRuns c = true → (s.strongIssue c).delivered c = some j → (s.strongIssue c).tick.inst.at j = some i →
      (i.aborted = false →
        exec (.tickDone c j) s = .next ((((s.strongIssue c).setInst j none).coreIdle c).jobStatus j 1 |>.deliver c)) ∧
      (i.aborted = true → exec (.tickDone c j) s = .next ((((s.strongIssue c).setInst j none).coreIdle c).deliver c))) ∧
    (∀ c j, s.coreRuns c = true → (s.strongIssue c).delivered c ≠ some j →
      exec (.tickDone c j) s = .next ((s.strongIssue c).setb TICK_STAT_DONEERR).misuse) ∧
    (∀ j i, s.tick.inst.at j = some i → i.aborted = false → i.spent = false → s.tick.phase ≠ .harvest →
      (∀ c, i.owner = .cpu c → i.started = true →
        exec (.jobBudgetUsed j) s = .next ((s.setInst j (some { i with spent := true })).ipend c 1)) ∧
      ((∀ c, i.owner ≠ .cpu c) → exec (.jobBudgetUsed j) s = .next (s.setInst j (some { i with spent := true })))) ∧
    (∀ j i s1 s2, s.tick.inst.at j = some i → i.edges = 0 → i.aborted = false → i.owner ≠ .str →
      s1 = (s.bump TICK_OVR_COUNT).wr TICK_OVR_LAST j.val →
      s2 = { s1 with care := { s1.care with period := { s1.care.period with ovr := s1.care.period.ovr + 1 } } }.jobAbort j 4 false →
      exec (.jobOverrun j) s =
        .next ((if s.tick.raOwners.contains j then s2.raCancel (fun _ => true) else s2).jobsTake.raise 0x20)) ∧
    (s.sys.stopped = true → (s.watch.src.at 8).trip = false → s.sys.mode ≠ .rise →
      exec .pllRelock s = .next { s with sys := { s.sys with relock := true } }))

/-- Landing points of each engine (R65): pending ends are carried out, jobs that have to yield park, and the Store Room and the
Archive pass to a job of higher priority; the Vault then goes on with what waits. A job of an engine whose budget is used reads
PARKED from its landing point on (R60), and one of lower priority gives way and reads PARKED too (R65). ENGINE_JOB_COMPLETE (R59):
an operation of PKE or SYM has ended, or a Store Room batch or an Archive command is carried out whole; the instance is gone, its
status reads DONE, and the engine takes its next job. -/
def Obligations.EnginePointsAct : Prop :=
  (∀ (s : State),
    exec (.landingPoint .spipe) s = .next ((s.jobPark (s.inPipe true)).pkeLanding true).vNext ∧
    exec (.landingPoint .ppipe) s = .next ((s.jobPark (s.inPipe false)).pkeLanding false).vNext ∧
    exec (.landingPoint .sym) s = .next (s.jobPark (fun _ o => o == .sym)).symLanding.vNext ∧
    exec (.landingPoint .storeRoom) s = .next ((s.strProgress.jobPark (fun _ o => o == .str)).jobPass .str).vNext ∧
    exec (.landingPoint .archive) s = .next ((s.jobPark (fun _ o => o == .arc)).jobPass .arc).vNext) ∧
  (∀ (s : State) (j : JobId) (i : JobInst), s.vlt.waiting = [] → s.tick.inst.at j = some i → i.owner = .arc → i.started = true →
    i.aborted = false → i.parked = false →
    (i.spent = true → ∃ t, exec (.landingPoint .archive) s = .next t ∧ t.rd (TICK_JOB_STATUS j) = 3 ∧
      t.tick.inst.at j = some { i with parked := true, yielded := false } ∧ t.mem = s.mem ∧ t.sys = s.sys) ∧
    (∀ k x, s.tick.phase = .foreground → (∀ d y, s.tick.inst.at d = some y → y.spent = false) →
      (∀ d y, d ≠ j → s.tick.inst.at d = some y → y.owner = .arc → y.started = true → y.parked = true ∨ y.aborted = true) →
      s.jobOn .arc = some j →
      s.jobWaits .arc = some k → k.val < j.val → s.tick.inst.at k = some x →
      ∃ t, exec (.landingPoint .archive) s = .next t ∧ t.rd (TICK_JOB_STATUS j) = 3 ∧ t.rd (TICK_JOB_STATUS k) = 2 ∧
        t.tick.inst.at j = some { i with parked := true, yielded := true } ∧
        t.tick.inst.at k = some { x with started := true, parked := false, yielded := false })) ∧
  (∀ (s u : State) (j : JobId) (i : JobInst), u = s.jobsTake → u.tick.inst.at j = some i → i.aborted = false → i.parked = false →
    (i.owner = .str → u.jobOn .str = some j → u.sys.stopped = false →
      exec (.engineJobComplete j) s = .next ((((u.strBatch i).setInst j none).jobStatus j 1).jobsTake)) ∧
    (i.owner = .arc → u.jobOn .arc = some j → u.holdoff = false → u.slotBusy = false →
      exec (.engineJobComplete j) s = .next ((((u.arcJob i).setInst j none).jobStatus j 1).jobsTake)) ∧
    (i.owner = .pke ∧ u.pkeOf (.job j) = none ∨ i.owner = .sym ∧ u.symOf (.job j) = none → i.started = true →
      ∃ t, exec (.engineJobComplete j) s = .next t ∧ t.tick.inst.at j = none ∧ t.rd (TICK_JOB_STATUS j) = 1 ∧ t.mem = s.mem ∧
        ∀ d, d ≠ j → t.tick.inst.at d = u.tick.inst.at d))

/-! ## Supplies and resets (R90 to R106, R523 to R529) -/

/-- The supplies: VCC through 2.70 V gives a COLD reset, or a CELLAR-LOSS reset after the Cellar's contents were lost (R96);
below 2.70 V the VCC cause of HOLD stands, whatever the mode (R90, R524); below 2.45 V the part is in CELLAR with the main
domain off, the mode it left remembered (R86); the Cellar moves to VBAT below 2.60 V of VCC and back above 2.65 V (R525); below
1.90 V the Vault is empty and the Cellar invalid (R526); VIO is followed (R529). -/
def Obligations.SuppliesAct : Prop :=
  ∀ (s : State),
    (∀ vcc : BitVec 16, s.sys.mode = .cellar → 2700 ≤ vcc.toNat → s.cel.valid = true →
      exec (.powerOn vcc) s = .next
        ({ s with si := { s.si with vcc := vcc.toNat, cellarOnVcc := true } }.enterReset .cold .unlockOrLife 0xFF)) ∧
    (∀ vcc : BitVec 16, s.sys.mode = .cellar → 2700 ≤ vcc.toNat → s.cel.valid = false →
      exec (.powerOn vcc) s = .next
        ({ s with si := { s.si with vcc := vcc.toNat, cellarOnVcc := true } }.cellarLost.enterReset .cellarLoss .unlockOrLife
          0xFF)) ∧
    (∀ vcc : BitVec 16, s.sys.mode ≠ .cellar → vcc.toNat < 2700 →
      exec (.vccFall vcc) s = .next { s with si := { s.si with vcc := vcc.toNat }, sys := { s.sys with holdVcc := true } }) ∧
    (∀ vcc : BitVec 16, s.sys.mode ≠ .cellar → vcc.toNat < 2450 →
      ∃ t, exec (.cellarEntry vcc) s = .next t ∧ t.sys.mode = .cellar ∧ t.sys.prev = s.sys.mode ∧ t.si.pll = false ∧
        t.si.vcc = vcc.toNat ∧ t.cel.left = some (s.sys.mode, s.utcS) ∧ t.con.started = false ∧
        t.sys.held = s.sys.held ∧ (s.bank.at 0 = .idle → s.bank.at 1 = .idle → t.mem = s.mem)) ∧
    (∀ vcc vbat : BitVec 16, vcc.toNat < 2600 →
      exec (.cellarSupplySwitch vcc vbat) s = .next
        { s with si := { s.si with vcc := vcc.toNat, vbat := vbat.toNat, cellarOnVcc := false } }) ∧
    (∀ vcc vbat : BitVec 16, 2650 < vcc.toNat →
      exec (.cellarSupplySwitch vcc vbat) s = .next
        { s with si := { s.si with vcc := vcc.toNat, vbat := vbat.toNat, cellarOnVcc := true } }) ∧
    (∀ vbat : BitVec 16, s.si.cellarOnVcc = false → vbat.toNat < 1900 →
      ∃ v, exec (.cellarFloor vbat) s = .next
          { s with si := { s.si with vbat := vbat.toNat }, vlt := v, cel := { s.cel with valid := false } } ∧
        v.ent = [] ∧ v.swing = none ∧ v.wr = Tab.const 4 {} ∧ v.jobs = []) ∧
    (∀ vbat : BitVec 16, s.sys.mode = .cellar → 1900 ≤ vbat.toNat →
      exec (.cellarStart vbat) s = .next { s with si := { s.si with vbat := vbat.toNat, cellarOnVcc := false } }) ∧
    (∀ vio : BitVec 16, 1500 ≤ vio.toNat → exec (.vioChange vio) s = .next { s with si := { s.si with vio := vio.toNat } })

/-- RST_N and its holds: a pulse of 10 µs or longer resets the main domain (R95); a release ends the reset, and a hold longer than
100 ms leaves its duration in CEL_RSTDUR and its entry in the tamper log (R106); a hold that reaches 100 ms starts CEL_RSTHOLD
(R104), and T_STUCK raises RESET_STUCK (R105). RISE runs its steps from the start after a reset, or from step 4 on once the PLL
locks (R96, R97). Where the PLL does not lock, it stands after step 3: the mirror of the stage follows the fuses (R85), a ROM that
fails its check is recorded, memory is as before. With the lock in hold-off it stands after step 5: the tick runs from 0, the
Hatch, SRAM and crate RAM are clear, and step 6 waits (R422). In ERASED the outstanding bits are blown once VCC allows it, and
neither pending flag stays (R100). -/
def Obligations.ResetPinAndRiseAct : Prop :=
  (∀ (s : State),
    (∀ ns, s.sys.held = false → 1500 ≤ s.si.vio → s.sys.mode ≠ .cellar → 10000 ≤ ns →
      exec (.rstNAssert ns) s = .next (s.enterReset .warm .rstN 0xFF)) ∧
    (∀ ms, s.sys.held = true → ms ≤ 100 → exec (.rstNRelease ms) s = .next { s with sys := { s.sys with held := false } }) ∧
    (∀ ms, s.sys.held = true → 100 < ms → s.cel.valid = true →
      exec (.rstNRelease ms) s = .next (({ s with sys := { s.sys with held := false } }.wrs
        [(CEL_RSTHOLD_ACTIVE, 0), (CEL_RSTDUR_MS, Nat.min 0xFFFFFFFF ms)]).holdEntry)) ∧
    (s.sys.held = true → s.cel.valid = true → s.isSet CEL_RSTHOLD_ACTIVE = false → 1500 ≤ s.si.vio →
      exec .resetHoldDetect s = .next (s.wrs [(CEL_RSTHOLD_ACTIVE, 1), (CEL_RSTHOLD_STUCK, 0),
        (CEL_RSTSTART_UTC, if s.timeUnk then 0 else (s.cel.rtc - 104858) / 2 ^ 20)])) ∧
    (s.sys.held = true → s.cel.valid = true → s.isSet CEL_RSTHOLD_ACTIVE = true → s.isSet CEL_RSTHOLD_STUCK = false →
      exec .resetStuck s = .next ((s.setb CEL_RSTHOLD_STUCK).raise 0x18))) ∧
  (∀ (s : State) (e : RiseEnv),
    (s.sys.mode = .rise → s.sys.held = false → s.sys.begun = false →
      exec (.rise e) s = .next ((s.riseStart e).riseRun e) ∧
      (e.pllLocks = false → ∃ t, exec (.rise e) s = .next t ∧ t.sys.mode = .rise ∧ t.sys.begun = true ∧ t.rd SYS_RISE_STEP = 3 ∧
        t.rd CEL_FLAGS_LIFE = s.stage.code ∧ t.mem = s.mem ∧ t.si.life = s.si.life ∧ t.tbs.off = s.rtcOff ∧
        t.rd SYS_RISE_FAIL = (if s.rd SYS_RISE_FAIL = 0 ∧ e.romOk = false then 3 else s.rd SYS_RISE_FAIL))) ∧
    (s.sys.mode = .rise → s.sys.begun = true → s.rd SYS_RISE_STEP = 3 →
      exec (.risePllLock e) s = .next (s.riseRun { e with pllLocks := true }) ∧
      (s.holdoff = true → ∃ t, exec (.risePllLock e) s = .next t ∧ t.sys.mode = .rise ∧ t.rd SYS_RISE_STEP = 5 ∧
        t.isSet TICK_STAT_RUN = true ∧ t.si.pll = true ∧ t.tbs.mono = 0 ∧ t.tbs.off = s.rtcOff ∧ t.hatch = Tab.const 16 {} ∧
        ∀ a, inSram a 1 = true ∨ crateBase ≤ a ∧ a < crateBase + 0x10000 → t.getB a = 0)) ∧
    (s.sys.mode = .erased → s.isSet SYS_RISE_FUSEPEND = true → s.fuseVcc = true → s.sys.fuseGaveUp = false →
      exec .deferredFuseBlow s = .next s.eraseBlow ∧
      (s.si.stuck = 0 → ∃ t, exec .deferredFuseBlow s = .next t ∧ t.rd SYS_RISE_FUSEPEND = 0 ∧ t.rd CEL_FLAGS_ERASEPEND = 0 ∧
        t.rd CEL_FLAGS_LIFE = t.stage.code ∧ t.mem = s.mem ∧
        t.si.life = (s.nextBits s.stage.eraseBits).foldl (fun x b => x ||| (1 : BitVec 13) <<< b) s.si.life)))

/-- What a reset of the main domain leaves (R95, Table 0.3): RISE is ahead, CON is off with no session, no line is held, the cores
are in reset; the fuses, the Cellar's log and the queue of commands stay, and the memory where no bank was programming. After any
reset of the main domain, every register that Table 3.7 does not keep stands at its default (R95), and RSTCAUSE tells the kind:
WARM with its cause where RISE was not already ahead (R94). -/
def Obligations.ResetLeaves : Prop :=
  (∀ (s : State) (k : ResetKind) (w : Why) (src : Nat),
    (s.enterReset k w src).sys.mode = .rise ∧ (s.enterReset k w src).sys.begun = false ∧
    (s.enterReset k w src).con.started = false ∧ (s.enterReset k w src).con.session = none ∧
    (s.enterReset k w src).con.held = none ∧ ((s.enterReset k w src).cpu.at 0).run = false ∧
    ((s.enterReset k w src).cpu.at 1).run = false ∧ (s.enterReset k w src).si.life = s.si.life ∧
    (s.enterReset k w src).cel.tlog = s.cel.tlog ∧ (s.enterReset k w src).pending = s.pending ∧
    ((s.bank.at 0 = .idle ∧ s.bank.at 1 = .idle) → (s.enterReset k w src).mem = s.mem)) ∧
  (∀ (s : State) (k : ResetKind) (w : Why) (src : Nat),
    (∀ f : Field, f.dflt < 2 ^ 32 → (∀ g ∈ keepFields, f.key ≠ g.key) →
      f.key ≠ SYS_RSTCAUSE_KIND.key → f.key ≠ SYS_RSTCAUSE_WHY.key → f.key ≠ SYS_RSTCAUSE_SRC.key →
      (s.enterReset k w src).rd f = f.dflt) ∧
    (∀ f ∈ keepFields, (s.enterReset k w src).rd f = s.rd f) ∧
    (s.sys.mode ≠ .rise → (s.enterReset k w src).rd SYS_RSTCAUSE_KIND = k.code ∧
      (s.enterReset k w src).rd SYS_RSTCAUSE_WHY = (if k = .warm then w.code else 0) ∧
      (s.enterReset k w src).rd SYS_RSTCAUSE_SRC = (if k = .warm ∧ w.code = 4 then src % 256 else 0xFF)))

/-! ## The Watch (R475 to R496) -/

/-- Sampled sources: those that complete their trips at one sample are logged together, and the highest response acts (R33,
R483); a source trips at its FILT-th tripped sample, not before, and untrips at its FILT-th clean one, which ends its HOLD cause
(R483); a disagreement raises MONITOR_DISAGREE with the detector that lags, once until the detectors have agreed for FILT
samples (R478). FILT lies between 1 and FMAX (R483, R492). -/
def Obligations.WatchSourcesAct : Prop :=
  ∀ (s : State), s.cellarWatch = false →
    (∀ o : OnsetArg, srcSampled o.src.val = true → (s.watch.src.at o.src).trip = false → (o.det.a || o.det.b) = true →
      s.cel.tripped.contains o.src.val = false →
      (s.filtOf o.src ≤ o.held → exec (.watchOnset [o]) s = .next ((((s.detSee o.src o.det).srcTrip o.src).tripSide o.src).onsets
        [{ src := o.src.val, det := detCode o.det }])) ∧
      (o.held < s.filtOf o.src → ∃ t, exec (.watchOnset [o]) s = .next t ∧ t = s)) ∧
    (∀ n held, srcSampled n.val = true → (s.watch.src.at n).trip = true →
      (s.filtOf n ≤ held → ∃ t, exec (.watchUntrip ⟨n, held⟩) s = .next t ∧ (t.watch.src.at n).trip = false ∧
        (t.watch.src.at n).deta = false ∧ (t.watch.src.at n).detb = false ∧ n.val ∉ t.sys.holdSrc ∧ n.val ∉ t.cel.tripped ∧
        t.cel.tlog = s.cel.tlog ∧ t.regs = s.regs ∧ ∀ m, m ≠ n → t.watch.src.at m = s.watch.src.at m) ∧
      (held < s.filtOf n → exec (.watchUntrip ⟨n, held⟩) s = .next s)) ∧
    (∀ n, 1 ≤ s.filtOf n ∧ (s.rd (WATCH_FMAX n) ≠ 0 → s.filtOf n ≤ s.rd (WATCH_FMAX n))) ∧
    (∀ n lagB alike, srcSampled n.val = true → (s.watch.src.at n).disDone = true → alike < s.filtOf n →
      exec (.disagreeOnset n lagB alike) s = .next s) ∧
    (∀ n lagB alike, srcSampled n.val = true → (s.watch.src.at n).disDone = false ∨ s.filtOf n ≤ alike →
      ∃ t, t = { s with watch := { s.watch with src := s.watch.src.upd n (fun w => { w with disDone := true }) } } ∧
        exec (.disagreeOnset n lagB alike) s = .next ((t.detSee n ⟨lagB, !lagB⟩).onsets
          [{ src := 0x1A, det := if lagB then 2 else 1, rel := n.val }]))

/-- Stimulus rounds in the modes that run them: a round starts with the first detector (R480); a detector that responds leaves
the next one to test, the fourteenth ends the round, and one that does not respond is marked and raises MONITOR_DISAGREE (R481).
A Cellar sample, while the Cellar watches with valid contents: T_CS passes, every CELLAR-live source and every armed bank C port
is read, and their onsets act together (R495); where every source reads clean and none is tripped, it leaves the log as it is.
-/
def Obligations.WatchSamplingActs : Prop :=
  (∀ (s : State), s.stimRuns = true →
    exec .stimulusRound s = .next { s.setb WATCH_STAT_STIMRUN with watch := { s.watch with stim := some 0 } } ∧
    (∀ d : Fin 14, s.watch.stim = some d → d.val ≠ 13 →
      exec (.stimulusStep true) s = .next { s with watch := { s.watch with stim := some (finOf 14 (d.val + 1)) } }) ∧
    (s.watch.stim = some 13 →
      exec (.stimulusStep true) s = .next ({ s with watch := { s.watch with stim := none } }.wr WATCH_STAT_STIMRUN 0)) ∧
    (∀ (d : Fin 14) u v, s.watch.stim = some d → d.val ≠ 13 →
      u = { s with watch := { s.watch with stim := some (finOf 14 (d.val + 1)) } } →
      v = (u.wr WATCH_STIM (s.rd WATCH_STIM ||| 2 ^ d.val)).setb WATCH_ERR_STIM →
      exec (.stimulusStep false) s = .next ({ v with care := { v.care with period := { v.care.period with
        status := v.care.period.status ||| 16 } } }.onsets [{ src := 0x1A, det := 4, rel := stimRel d }]))) ∧
  (∀ (s : State) (l : List OnsetArg) (ports : List CelPins), s.cellarWatch = true → s.cel.valid = true →
    (∃ (os : List Onset) (t : State), exec (.cellarSample ⟨l, ports⟩) s = .next (t.onsets os) ∧
      (os, t) = ((finList 0x58).filter (fun n => cellarLive n.val || s.celPort n.val)).foldl
        (fun (p : List Onset × State) n =>
          let r := if srcPort n.val then s.celPortReading ports n else readingOf l n
          (p.1 ++ (p.2.celSee n r).1, (p.2.celSee n r).2))
        ([], (s.advance (tcsNs (s.rd CEL_CFG_T_CS)) false).celBursts)) ∧
    ((∀ n, (s.cel.src.at n).trip = false) → ∃ t, exec (.cellarSample ⟨[], []⟩) s = .next t ∧ t.cel.tlog = s.cel.tlog ∧
      t.cel.elapsed = s.cel.elapsed + tcsNs (s.rd CEL_CFG_T_CS) ∧ t.regs = s.regs ∧ t.sys = s.sys ∧
      ∀ n, cellarLive n.val = true → (t.cel.src.at n).trip = false ∧ (t.cel.src.at n).cnt = 0))

/-! ## Time (R455 to R469) -/

/-- The timebase's events: a new temperature gives the RTC's correction, from its next whole second on (R456); after 24 h of
lock ageing moves an eighth of the way toward the mean error (R458), where the eighth is exact; LOCKED falls to HOLDOVER and
HOLDOVER to FREE (R460, R461); the adjustment window ends with nothing used (R465); discipline saves group 5 (R466); a load of
TBS_TLO latches one instant, whose seconds and nanoseconds the core's later loads read (R463); a calibration shows the TDCs that
fail (R469). An inserted second: UTC steps back by one second in the frame of the announced midnight, the second counts as
inserted, and TAI − UTC is one more (R464). A deleted one steps UTC on; a day that is past is cleared without effect. While the
main domain is off the RTC applies the announced second itself (R464). -/
def Obligations.TimeEventsAct : Prop :=
  (∀ (s : State),
    (∀ t, exec (.rtcTempUpdate t) s = .next { s with cel := { s.cel with
      rtcT := t.toNat, corrNext := rtcPoly ((t.toNat : Int) - 64) + s.age } }) ∧
    (∀ m : BitVec 16, s.rd TBS_STAT_STATE = 2 → s.timeUnk = false → dayNs ≤ s.tbs.lockNs → (m.toInt - s.age) % 8 = 0 →
      ∃ u : State, u = { s.wr TBS_AGE (ageClamp (s.age + (m.toInt - s.age) / 8) % 65536).toNat with
          tbs := { s.tbs with lockNs := s.tbs.lockNs - dayNs } } ∧
        exec (.ageingUpdate m) s = .next ((u.rtcTemp (BitVec.ofNat 8 s.cel.rtcT)).paramAuto 5)) ∧
    (∀ m : BitVec 16, s.tbs.lockNs < dayNs → exec (.ageingUpdate m) s = .next s) ∧
    (s.rd TBS_STAT_STATE = 2 → exec .ppsLoss s = .next (s.tbsTo 3)) ∧
    (s.rd TBS_STAT_STATE = 3 → exec .holdoverExpiry s = .next (s.tbsTo 0)) ∧
    (s.adjOpen = true → s.tbs.exhausted = false → ∃ t, exec .adjWindowEnd s = .next t ∧ t.rd TBS_ADJUSED = 0 ∧
      t.tbs.adjNs = 0 ∧ t.tbs.adjEnd = none) ∧
    (s.disciplining = true → exec .disciplineSave s = .next { s.paramAuto 5 with
      tbs := { s.tbs with savedAt := s.cel.elapsed } }) ∧
    (∀ c t, s.coreRuns c = true → t = s.strongIssue c → exec (.timeLatch c) s = .next { t with
      tbs := { t.tbs with view := t.tbs.view.put c ⟨BitVec.ofNat 32 (t.tbs.mono / 2 ^ 32), t.utcS, t.utcNs % 1000000000,
        t.tbs.leapNow, t.timeUnk⟩ },
      cpu := t.cpu.upd c (fun x => { x with rdata := BitVec.ofNat 32 t.tbs.mono }) }) ∧
    (∀ f, s.mainUp = true → s.con.busy = .idle → exec (.tdcCalibration f) s = .next { s.wr TBS_STAT_TDCFAIL f.toNat with
        tbs := { s.tbs with calAt := s.utcS, calRuns := false, startFail := s.tbs.startFail &&& f } }) ∧
    (∀ f u tag, s.mainUp = true → s.con.busy = .cal tag → u = { s.wr TBS_STAT_TDCFAIL f.toNat with
        draws := s.draws + 1, tbs := { s.tbs with calAt := s.utcS, calRuns := false, startFail := s.tbs.startFail &&& f } } →
      ∃ ppm, exec (.tdcCalibration f) s = .next (u.replyOk tag (fld "rtc_ppm" (ppmText ppm) ++
        fld "tdc" (if f = 0 then txt "OK" else txt "FAIL"))))) ∧
  (∀ (s : State), s.mainUp = true →
    (s.rd TBS_LEAPCTL_DIR = 1 → s.utcS.toNat ≤ s.rd TBS_LEAP_DAY → s.secondNear (s.rd TBS_LEAP_DAY) = true →
      exec .leapSecond s = .next ({ s.stepUtc (-1000000000) with
        tbs := { (s.stepUtc (-1000000000)).tbs with leapNow := true } }.leapRegs true)) ∧
    (s.rd TBS_LEAPCTL_DIR = 2 → s.utcS.toNat < s.rd TBS_LEAP_DAY → s.secondNear (s.rd TBS_LEAP_DAY - 1) = true →
      exec .leapSecond s = .next ((s.stepUtc 1000000000).leapRegs false)) ∧
    (s.rd TBS_LEAPCTL_DIR = 1 ∨ s.rd TBS_LEAPCTL_DIR = 2 → s.rd TBS_LEAP_DAY < s.utcS.toNat →
      exec .leapSecond s = .next (s.wr TBS_LEAPCTL_DIR 0))) ∧
  (∀ (s : State), s.mainUp = false →
    (s.cel.leapDir = 1 → s.cel.leapDay.toNat ≤ s.cel.rtc / 1048576 + 1 → s.cel.rtc / 1048576 ≤ s.cel.leapDay.toNat →
      exec .leapSecond s = .next { s with cel := { s.cel with rtc := s.cel.rtc - 1048576, leapDir := 0, leapDone := 1 } }) ∧
    (s.cel.leapDir = 2 → s.cel.leapDay.toNat ≤ s.cel.rtc / 1048576 + 2 → s.cel.rtc / 1048576 < s.cel.leapDay.toNat →
      exec .leapSecond s = .next { s with cel := { s.cel with rtc := 1048576 + s.cel.rtc, leapDir := 0, leapDone := 2 } }))

/-! ## The Caretaker (R502 to R518) -/

/-- The Caretaker's steps where the scrubs run: a clean word, group or unit only moves the pointer on (R506 to R508); a queued
sector of the Attic is rewritten, and one of the records is reported to the cores (R508); the oldest buffered record is
programmed into the Attic ring at HEAD, which moves on by 32 bytes, with the record's number in ATTIC_SEQ, where HEAD's sector
is clean, and otherwise the erase of that sector begins (R513; that a begun erase is kept as a mark is the model's reading, log
entry 100); its work of a frame runs in the slack phase (R50); its watchdog restarts it (R44). The stream engine obeys the
packet at the head of Q55 (R518): 1 starts the stream, 2 stops it, where the host may command it. -/
def Obligations.CaretakerActs : Prop :=
  (∀ (s : State),
    (s.scrubs = true → exec (.sramScrubStep 0) s =
      .next { s with care := { s.care with sramPtr := (s.care.sramPtr + 4) % 0x40000 } }) ∧
    (∀ x rest u, s.sys.mode.running = true ∨ s.sys.mode = .foundry → s.care.refresh = x :: rest →
      (refreshRegion x = 0 → s.holdoff = false → u = s.internalCommit .vault [] →
        exec .sectorRefresh s = .next { u with care := { u.care with refresh := rest } }) ∧
      (refreshRegion x = 1 → s.holdoff = false → s.sSources = [] → u = (s.internalCommit .store []).strImage →
        exec .sectorRefresh s = .next { u with care := { u.care with refresh := rest } }) ∧
      (refreshRegion x = 2 → u = s.wearUp x → exec .sectorRefresh s = .next { u with care := { u.care with refresh := rest } }) ∧
      (3 ≤ refreshRegion x → u = (s.event 7 x [BitVec.ofNat 8 (refreshRegion x)]).careInfo
          ([4] ++ leBytes 2 x ++ [BitVec.ofNat 8 (refreshRegion x)]) →
        exec .sectorRefresh s = .next { u with care := { u.care with refresh := rest } })) ∧
    (s.scrubs = true → ∃ p, exec (.larderScrubStep 0) s = .next
      (if s.care.larderPtr + 8 = 0x40000 then { s with care := { s.care with larderPtr := p } }.wr LDR_STAT_SCRUB 0
        else { s with care := { s.care with larderPtr := p } }) ∧ p = (s.care.larderPtr + 8) % 0x40000) ∧
    (∀ u, s.scrubs = true → s.nextUnit 0x40000 s.care.patrolPtr = some u →
      exec (.archivePatrol 0) s = .next { s with care := { s.care with patrolPtr := (u + 16) % 0x400000 } }) ∧
    (∀ r rest h u, s.scrubs = true → s.bank.at 0 = .idle → s.care.buf = r :: rest → h = s.rd ATTIC_HEAD →
      u = (s.arcPut (atticBase + h) r.bytes).wrs [(ATTIC_HEAD, (h + 32) % 0x40000), (ATTIC_SEQ, r.seq.toNat)] →
      (h % 0x1000 ≠ 0 ∨ s.atticClean (h / 0x1000) = true → (h + 32) % 0x1000 ≠ 0 →
        (r.typ ≠ 1 → exec .atticAppend s = .next { u with care := { u.care with buf := rest } }) ∧
        (r.typ = 1 → exec .atticAppend s = .next (wrWords TELE_LAST ((List.range 8).map (fun k => Word.ofBytes (r.bytes.drop (4 * k))))
          { u with care := { u.care with buf := rest } }))) ∧
      (h % 0x1000 = 0 → s.atticClean (h / 0x1000) = false → ∃ t, exec .atticAppend s = .next t ∧
        t.bank.at 0 = .erase (0x100 + h / 0x1000) false 0 ∧ (0x100 + h / 0x1000) ∈ t.nv.incomplete ∧ t.care.buf = s.care.buf ∧
        t.mem = s.mem)) ∧
    (∀ u, s.isSet TICK_STAT_RUN = true → s.scrubs = true → s.tick.phase ≠ .harvest → (s.tick.closed || s.noneOutstanding) = true →
      u = (s.setPhase .slack s.tick.closed).pkeStates.symStates →
      (u.care.owing = false → exec .slackPhase s = .next u) ∧
      (u.care.owing = true → exec .slackPhase s = .next u.careWork) ∧
      (u.care.owing = true → u.strCmpRuns = false → u.sys.mode.careFull = false →
        (u.care.teleDue = false → exec .slackPhase s = .next { u with care := { u.care with owing := false } }) ∧
        (u.care.teleDue = true →
          exec .slackPhase s = .next { u.teleMake with care := { u.teleMake.care with owing := false } }))) ∧
    (s.mainUp = true → exec .careWatchdogExpiry s = .next
      ((((s.hatchDrop .care).event 2 0 []).bump CARE_STAT_RESTARTS).tele (fun p => { p with status := p.status ||| 0x80 })))) ∧
  (∀ (s : State) (b : List Byte), s.mainUp = true → s.hasHead 55 = true → (s.headRelease 55).isSet TELE_CFG_HOSTCTL = true →
    (s.headPacket 55).2 = b →
    (b = [1] → exec .streamControl s = .next ((s.headRelease 55).setb TELE_STAT_STREAM)) ∧
    (b = [2] → exec .streamControl s = .next ((s.headRelease 55).wr TELE_STAT_STREAM 0)) ∧
    (b = [9] → exec .streamControl s = .next ((s.headRelease 55).bump TELE_STAT_REJECT)))

/-! ## The console's bytes and timers (R109 to R142) -/

/-- Bytes while no line executes: a character joins the line, echoed in typed mode (R117), the 241st makes the line overlong
(R114); Ctrl-C discards the line (R119), and ends the wait for an applet first (R30). A receive error discards the line and ends
the session (R111); an unused new baud rate reverts (R109); an idle session ends (R138); a challenge's answer is late from then
on (R134); a held line expires with a notice (R142); TIME SET ends its wait for the edge (R166); an image in loading is
abandoned (R178). -/
def Obligations.ConsoleBytesAct : Prop :=
  ∀ (s : State),
    (∀ b t, s.listening = true → s.conBlocked = false → s.con.fifo = [] → s.con.ovf = false → printable b = true →
      s.con.line.length < 240 →
      t = { s with con := { s.con with cr := false, line := s.con.line ++ [b] } } →
      exec (.consoleByte b) s = .next (if t.echo then t.conTx [b] else t)) ∧
    (∀ b t, s.listening = true → s.conBlocked = false → s.con.fifo = [] → s.con.ovf = false → printable b = true →
      240 ≤ s.con.line.length → t = { s with con := { s.con with cr := false, excess := s.con.excess ++ [b] } }.wr CON_ERR_LONG 1 →
      exec (.consoleByte b) s = .next (if t.echo then t.conTx [0x07] else t)) ∧
    (∀ u t, s.listening = true → (s.appletWaits = false ∧ u = s) ∨ (s.appletWaits = true ∧ u = s.appletGiveUp) → u.conReady = true →
      u.con.fifo = [] → u.con.ovf = false → t = { u with con := { u.con with cr := false, line := [], excess := [] } } →
      exec .ctrlC s = .next (if t.echo then (t.conTx (txt "^C" ++ [0x0D, 0x0A])).conPrompt else t)) ∧
    (s.listening = true → s.con.fifo = [] →
      exec .framingLoss s = .next (({ s with con := { s.con with line := [], excess := [], ovf := false, cr := false } }.wr
        CON_ERR_FRAME 1).sessionEnd "FRAMING")) ∧
    (∀ b, s.con.revert = some b → s.con.busy = .idle →
      exec .baudRevert s = .next (({ s with con := { s.con with revert := none } }.wr CON_LINE_BAUD b.toNat).notice
        (txt "!LINE" ++ fld "BAUD" (dec (bauds.getD b.toNat 0))))) ∧
    (∀ x, s.con.session = some x → ∃ t, exec .sessionIdleTimeout s = .next t ∧ t.con.session = none ∧ t.con.held = none ∧
      t.con.stage = none ∧ (x.entered = true → s.sys.mode = .workshop ∨ s.sys.mode = .inspect →
        t.sys.pend = some { dest := .service, cause := 5 })) ∧
    (∀ c, s.con.chal = some c → exec .challengeExpiry s = .next { s with con := { s.con with chal := some { c with late := true } } }) ∧
    (∀ h t, s.con.held = some (h, t) →
      exec .holdExpiry s = .next (s.heldDrop.notice (txt "!HOLD EXPIRED" ++ fld "tok" (hexN 4 t.toNat)))) ∧
    (∀ tag, s.con.busy = .pps tag →
      exec .timeSetPpsTimeout s = .next ({ s with tbs := { s.tbs with setAt := none } }.replyErr tag 22).conDrain) ∧
    (∀ l, s.load = some l →
      exec .imageLoadTimeout s = .next ({ s with load := none }.imageRec 5 l.kind l.slot 0 0 l.len (b2n l.h6)))

/-! ## Registers (R2, R4, R18) and the watchdogs (R307, R308) -/

/-- A core's write to a register of one field that commands nothing (R2, R18): an RW field takes its bits at once, an RWT
field's write waits for the boundary, a W1C field clears where a 1 is written, in another plane's block too, an RO field ignores
it; a store to a field of another plane that only shows something changes nothing and raises MISUSE. A register of several
fields takes each of them. A CSR takes its value and the old one stands in the destination register; in U-mode, without such a
CSR or with a read-only number it is an illegal instruction (R287). A load of an RC register answers its word and clears its RC
fields, and no other field (R4). The watchdog latches its source at half of its period (R307), resets the part at its end
(R308), and starts again with 0x5A. -/
def Obligations.RegistersAct : Prop :=
  ∀ (s t : State) (c : CpuId), t = s.strongIssue c →
    (∀ (off : BitVec 20) (f : Field) v x, s.coreRuns c = true → seenFields c.agent off.toNat = [f] → f.off = off.toNat →
      off.toNat % 4 = 0 → deviceListed off.toNat = true → ¬ (0x13000 ≤ off.toNat ∧ off.toNat < 0x13440) →
      ¬ (0xF000 ≤ off.toNat ∧ off.toNat < 0xF200) → ¬ (0x2000 ≤ off.toNat ∧ off.toNat < 0x3800) →
      t.coreCommand c off.toNat v = none → x = bits v.toNat f.lo f.width →
      (foreignWrite c.agent off.toNat = false → t.grant f x = .ok →
        (f.acc = .rw → exec (.registerWrite c.agent (.dev off) v) s = .next (t.wr f x)) ∧
        (f.acc = .rwt → f ≠ TICK_CFG_PER → f ≠ PKE_SHELFCFG_LEN →
          exec (.registerWrite c.agent (.dev off) v) s = .next (t.waitPut c.agent f x)) ∧
        (f.acc = .w1c → exec (.registerWrite c.agent (.dev off) v) s = .next (t.wr f (t.rd f &&& (2 ^ f.width - 1 - x)))) ∧
        (f.acc = .ro ∨ f.acc = .rc → exec (.registerWrite c.agent (.dev off) v) s = .next t)) ∧
      (foreignWrite c.agent off.toNat = true → t.grant f x = .ok → f.acc = .ro ∨ f.acc = .rc →
        exec (.registerWrite c.agent (.dev off) v) s = .next t.misuse)) ∧
    (∀ (a : Agent) (off : BitVec 20) v, s.agentUp a = true → off.toNat % 4 = 0 → deviceListed off.toNat = true →
      ¬ (0x13000 ≤ off.toNat ∧ off.toNat < 0x13440) → a.cpu.bind (fun k => (s.asAgent a).coreCommand k off.toNat v) = none →
      a.cpu ≠ none ∨ ¬ (0x4000 ≤ off.toNat ∧ off.toNat < 0x4800) →
      exec (.registerWrite a (.dev off) v) s = .next ((s.asAgent a).plainWrite a off.toNat v)) ∧
    (∀ (n : BitVec 12) rd v u, s.coreRuns c = true → u = s.coreWake c →
      (∀ old, (s.cpu.at c).user = false → u.csrRead c n.toNat = some old → n.toNat < 0xC00 →
        (n ≠ 0xB02 → n ≠ 0xB82 →
          exec (.registerWrite c.agent (.csr n rd) v) s = .next ((u.csrPut c n.toNat v).reads c rd old)) ∧
        (n = 0xB02 ∨ n = 0xB82 →
          exec (.registerWrite c.agent (.csr n rd) v) s = .next (((u.csrPut c n.toNat v).loaded c old).toReg c rd))) ∧
      ((s.cpu.at c).user = true ∨ u.csrRead c n.toNat = none ∨ 0xC00 ≤ n.toNat →
        exec (.registerWrite c.agent (.csr n rd) v) s = .next (u.trap c 2 0))) ∧
    (∀ (off : BitVec 20) o, s.coreRuns c = true → o = off.toNat - off.toNat % 4 → o ≠ 0xE008 → o ≠ 0x7008 → o ≠ 0x8018 →
      ¬ (0x4000 ≤ o ∧ o < 0x4800 ∧ o % 0x20 = 0x0C) → ¬ (0x13000 ≤ o ∧ o < 0x13400) →
      ∃ u, exec (.rcRead c off) s = .next u ∧ u = { t with cpu := u.cpu, regs := u.regs } ∧
        (u.cpu.at c).rdata = t.devWord c.agent o ∧
        (∀ f ∈ seenFields c.agent o, f.acc = .rc → u.rd f = 0) ∧
        (∀ g, (∀ f ∈ seenFields c.agent o, f.acc = .rc → f.key ≠ g.key) → g.key ≠ (CPU_IPEND c).key → u.rd g = t.rd g)) ∧
    ((s.cpu.at c).run = true → s.sys.mode ≠ .hold → (s.cpu.at c).wdPer ≤ 2 * s.rd (CPU_WDCNT c) →
      exec (.watchdogHalf c) s = .next (s.ipend c 14)) ∧
    ((s.cpu.at c).run = true → s.sys.mode ≠ .hold → (s.cpu.at c).wdPer ≤ s.rd (CPU_WDCNT c) →
      exec (.coreWatchdogExpiry c) s = .next (s.enterReset .warm (.watchdog c) 0xFF)) ∧
    (∀ (v : Word) old, s.coreRuns c = true → (s.cpu.at c).user = false → (s.coreWake c).csrRead c 0x7C5 = some old →
      v.toNat % 256 = 0x5A →
      exec (.watchdogKick c v) s = .next (((s.coreWake c).wdKick c).reads c 0 old))

/-! ## Ports (R195 to R226) -/

/-- GPIO, UART and SPIC: a level held for FILT samples becomes the filtered level, and its edge sets the latch that selects it
(R197, R199); a received character joins the packet at its 7 or 8 data bits, a character in error counts and closes it with flag
17, the 252nd closes it, an idle line of IDLE characters closes it (R200, R201); a TX packet is taken whole and sent as frames of
start, data, parity and stop bits; an SPIC transfer shifts its packet out and answers as many bytes as it sent (R202). -/
def Obligations.PortPacketsAct : Prop :=
  ∀ (s : State) (p : PortId),
    (∀ b lvl (held : BitVec 12) t, s.pfn p = .gpio →
      t = s.pset p (fun x => if b then { x with lvlB := lvl } else { x with lvlA := lvl }) →
      (orElse0 (s.rd (PORT_CFG_FILT p)) 1 ≤ held.toNat →
        exec (.gpioEdge p b ⟨lvl, held⟩) s = .next
          (if s.lvl p b ≠ lvl ∧ edgePick (s.par p 0 (if b then 10 else 8) 2) lvl = true then
            t.setb (if b then PORT_GPIO_EDGB p else PORT_GPIO_EDGA p) else t)) ∧
      (held.toNat < orElse0 (s.rd (PORT_CFG_FILT p)) 1 → exec (.gpioEdge p b ⟨lvl, held⟩) s = .next s)) ∧
    (∀ u fl pay, s.pfn p = .uart → s.txTake p = some (fl, pay, u) → exec (.uartTxPacket p) s =
      .next (u.pset p (fun x => { x with wave := { bit := s.uartDiv p, levels := pay.flatMap (s.uartFrame p) } }))) ∧
    (∀ (b c : Byte) par stop t, s.pfn p = .uart → (s.port.at p).rxWait = [] → c = (if s.uartBits p = 7 then b &&& 0x7F else b) →
      t = (if s.uartErr p b par stop then s.bump (PORT_CNT0 p) else s).pset p (fun x => { x with rx := x.rx ++ [capt c.toNat] }) →
      (s.uartErr p b par stop = false → (s.port.at p).rx.length < 251 → exec (.uartRxChar p b ⟨par, stop⟩) s = .next t) ∧
      (s.uartErr p b par stop = false → (s.port.at p).rx.length = 251 →
        exec (.uartRxChar p b ⟨par, stop⟩) s = .next (t.uartClose p false false)) ∧
      (s.uartErr p b par stop = true → exec (.uartRxChar p b ⟨par, stop⟩) s = .next (t.uartClose p true false))) ∧
    (∀ t : Word, s.pfn p = .uart → s.uartGap p ≤ t.toNat →
      exec (.uartIdleClose ⟨p, t⟩) s = .next ((s.portRetry p).uartClose p false false)) ∧
    (∀ u fl pay miso bit w, s.pfn p = .spic → (s.port.at p).rxWait = [] → s.txTake p = some (fl, pay, u) →
      miso.length = pay.length → bit = 32 * s.spicDiv p → w = (⟨bit, pay.flatMap (s.spicOrder p), orElse0 (s.par p 0 24 8) 1 * bit⟩ : Wave) →
      exec (.spicTransfer p miso) s = .next ((u.pset p (fun x => { x with wave := w })).portSend p 0
        (captBytes (miso.map (fun b => s.spicByte p ((List.range 8).map (fun i => b.getLsbD (7 - i))))))))

/-- DUAL, LOOP and SWITCH: the NDISC-th disagreeing sample latches DISCREPANCY, counts it and takes the value to 0 (R210); a
shorter disagreement of at least half of NDISC counts as a near miss; DISCREPANCY clears at the NDISC-th agreeing sample where
AUTOCLR asks for it, or on a command that finds the channels in agreement for NDISC samples (R211); a reseeded LFSR is never zero
(R222); W samples are kept and M of them present the condition (R221); a switch shows what differs from its expected levels
once they stand for FILT samples (R197, R223). -/
def Obligations.PortChecksAct : Prop :=
  ∀ (s : State) (p : PortId) (a : Bool),
    (s.pfn p = .dual → s.isSet (PORT_STAT_DISC p) = false → ∃ t,
      t = s.pset p (fun x => { x with lvlA := a, lvlB := !s.dualMate p a, agree := 0 }) ∧
      exec (.dualDiscrepancy p a) s = .next ((((t.setb (PORT_STAT_DISC p)).bump (PORT_CNT0 p)).pset p
        (fun x => { x with val := false })).portSettle p false)) ∧
    (∀ len : BitVec 16, s.pfn p = .dual → s.isSet (PORT_STAT_DISC p) = false → len.toNat < s.ndisc p → s.ndisc p ≤ 2 * len.toNat →
      exec (.dualNearMiss p len a) s = .next ((s.dualAgree p a 1).bump (PORT_CNT1 p))) ∧
    (s.pfn p = .dual → ∃ t, t = s.dualAgree p a (s.ndisc p) ∧
      exec (.dualAutoclear p a) s = .next
        (if t.isSet (PORT_CFG_AUTOCLR p) ∧ t.isSet (PORT_STAT_DISC p) then t.discDrop p else t)) ∧
    (∀ c t, s.coreRuns c = true → t = s.strongIssue c → t.pfn p = .dual → t.ndisc p ≤ (t.port.at p).agree →
      t.isSet (PORT_STAT_DISC p) = true → exec (.discClear c p) s = .next (t.discDrop p)) ∧
    (s.pfn p = .loop → ∃ t, exec (.loopReseed p) s = .next t ∧ (t.port.at p).lfsr ≠ 0 ∧ t.draws = s.draws + 1) ∧
    (∀ b bit bad x, s.pfn p = .loop → x = s.port.at p → x.sent[s.par p 0 28 3]? = some bit → bad = (bit ^^ b) →
      ∃ win cond u, win = (bad :: x.mism).take (s.loopW p) ∧ cond = decide (s.loopM p ≤ (win.filter (fun m => m)).length) ∧
        u = (if bad then s.bump (PORT_CNT0 p) else s).pset p (fun x => { x with lvlB := b, mism := win, cond := cond }) ∧
        exec (.loopBitCompare p b) s =
          .next (((if cond ∧ x.cond = false then u.bump (PORT_CNT1 p) else u).loopNext p).portSettle p x.cond)) ∧
    (∀ b (held : BitVec 12), s.pfn p = .switch →
      (orElse0 (s.rd (PORT_CFG_FILT p)) 1 ≤ held.toNat →
        exec (.switchConditionChange p a ⟨b, held⟩) s = .next ((s.switchSee p a b).portSettle p (s.portCond p))) ∧
      (held.toNat < orElse0 (s.rd (PORT_CFG_FILT p)) 1 → exec (.switchConditionChange p a ⟨b, held⟩) s = .next s))

/-- PULSE, PPS and PULSEOUT: a selected edge of A whose level stands for FILT samples is recorded with its time in quarter ns of
the monotonic time, without a time within 20 ns of the one before, and counts in the frame's harvest (R212, R213); a level held
for less is no edge (R212); a PPS edge of its polarity is recorded, and one more than 1 ms from 1 s after the previous accepted
edge only counts (R217); the committed period takes effect at the end of a cycle, and a readback mismatch counts and shows
(R218). -/
def Obligations.PortPulsesAct : Prop :=
  ∀ (s : State) (p : PortId),
    (∀ (rise dir : Bool) (t : BitVec 26) (held : BitVec 12) ts d nots l, s.pfn p = .pulse → ts = 4 * s.tbs.mono + t.toNat →
      d = (dir && s.bmode p == 2) → nots = (match (s.port.at p).last with | some l => decide (ts < l + 80) | none => false) →
      l = s.pset p (fun x => { x with lvlA := rise }) →
      (held.toNat < orElse0 (s.rd (PORT_CFG_FILT p)) 1 → exec (.pulseEdge p false ⟨rise, held⟩ t dir) s = .next s) ∧
      (orElse0 (s.rd (PORT_CFG_FILT p)) 1 ≤ held.toNat → edgePick (s.edgeSel p) rise = false →
        exec (.pulseEdge p false ⟨rise, held⟩ t dir) s = .next l) ∧
      (orElse0 (s.rd (PORT_CFG_FILT p)) 1 ≤ held.toNat → edgePick (s.edgeSel p) rise = true → (s.port.at p).recs.length < 63 →
        exec (.pulseEdge p false ⟨rise, held⟩ t dir) s = .next ((l.pset p (fun x => { x with
            base := if x.recs.isEmpty then s.tbs.mono else x.base
            recs := x.recs ++ [capt (edgeRec ts false rise d nots (x.eseq.toNat + 1))]
            eseq := x.eseq + 1
            last := some ts })).pset p (fun x => { x with
          cntA := x.cntA + 1
          rev := x.rev + b2n d
          win := if s.edgeSel p = 3 ∧ rise = false then x.win else x.win ++ [(ts, nots)] })))) ∧
    (∀ (t : BitVec 26) (held : BitVec 12) u nots rise ts, s.pfn p = .pps → orElse0 (s.rd (PORT_CFG_FILT p)) 1 ≤ held.toNat →
      rise = decide (s.par p 0 0 2 ≠ 2) → ts = 4 * s.tbs.mono + t.toNat →
      (nots, u) = (s.pset p (fun x => { x with lvlA := rise })).edgeAdd p ts false rise false →
      exec (.ppsEdge p ⟨!rise, t, held⟩) s = .next (s.pset p (fun x => { x with lvlA := !rise })) ∧
      (∀ l, (s.port.at p).lastOk = some l →
        (l + 4004000000 < ts → ts ≤ 4000000000 * orElse0 (s.rd TBS_PPSCFG_LOSS) 3 + l →
          exec (.ppsEdge p ⟨rise, t, held⟩) s = .next (u.bump (PORT_CNT0 p))) ∧
        (l + 3996000000 ≤ ts → ts ≤ l + 4004000000 → exec (.ppsEdge p ⟨rise, t, held⟩) s =
          .next (((u.pset p (fun x => { x with lastOk := some ts })).ppsSet ts).ppsJudge ts)))) ∧
    (s.pfn p = .pulseout → exec (.pulseoutCycleEnd p) s = .next (s.pset p (fun x => { x with period := s.outPeriod p }))) ∧
    (s.pfn p = .pulseout →
      exec (.pulseoutReadbackMismatch p) s = .next ((s.bump (PORT_CNT0 p)).setb (PORT_STAT_RBERR p)))

/-- Cards: activation of a card that is not activated and the wait for its ATR (R204); deactivation, an exchange in progress
ended with flag 18 (R205); the warm reset, without effect where the card is not activated (R206); presence that stands for PRESF
ms, gained or lost; an ATR that starts 400 to 40000 clocks after RST rises, as one packet with flag 17, and the deactivation and
the empty packet with flags 17 and 18 where none does (R204); the exchange of a TX packet and its answer, and the character
waiting time (R207). -/
def Obligations.CardsAct : Prop :=
  ∀ (s : State) (c : CpuId) (p : PortId),
    (∀ t, s.coreRuns c = true → t = s.strongIssue c → t.pfn p = .card →
      ((t.port.at p).card = .off → exec (.activate c p) s = .next ((t.cardTo p (.atr false)).setb (PORT_STAT_ACTIVE p)) ∧
        exec (.cardWarmReset c p) s = .next t) ∧
      ((t.port.at p).card = .ready →
        exec (.activate c p) s = .next t ∧
        exec (.deactivate c p) s = .next (((t.cardTo p .off).wr (PORT_STAT_ACTIVE p) 0).cxGiveUp p) ∧
        exec (.cardWarmReset c p) s = .next (t.cardTo p (.atr true))) ∧
      ((t.port.at p).card = .bytes ∨ (t.port.at p).card = .apdu false →
        exec (.deactivate c p) s = .next ((((t.cardClose p 4).cardTo p .off).wr (PORT_STAT_ACTIVE p) 0).cxGiveUp p) ∧
        exec (.cardWarmReset c p) s = .next ((t.cardClose p 4).cardTo p (.atr true)))) ∧
    (s.pfn p = .card →
      (∀ lvl (ms : Byte),
        (lvl = s.presLevel p → s.cardPresf p ≤ ms.toNat → exec (.cardInsertion ⟨p, lvl, ms⟩) s =
          .next (if s.parBit p 0 22 then (s.setb (PORT_STAT_PRES p)).cardOn p else s.setb (PORT_STAT_PRES p))) ∧
        (lvl ≠ s.presLevel p → s.cardPresf p ≤ ms.toNat → s.isSet (PORT_STAT_ACTIVE p) = true →
          exec (.cardRemoval ⟨p, lvl, ms⟩) s = .next (((s.wr (PORT_STAT_PRES p) 0).bump (PORT_CNT1 p)).cardOff p)) ∧
        (ms.toNat < s.cardPresf p → exec (.cardInsertion ⟨p, lvl, ms⟩) s = .next s ∧ exec (.cardRemoval ⟨p, lvl, ms⟩) s = .next s)) ∧
      (∀ warm, (s.port.at p).card = .atr warm →
        (∀ (t : BitVec 16) l, 400 ≤ t.toNat → t.toNat ≤ 40000 → exec (.atrReceived p ⟨t, l⟩) s =
          .next (((s.pset p (fun x => { x with t1s := false, t1r := false })).portSend p 2 (captBytes l)).cardReady p)) ∧
        (∀ (t : BitVec 16) l, t.toNat < 400 ∨ 40000 < t.toNat →
          exec (.atrReceived p ⟨t, l⟩) s = .next ((s.cardOff p).portSend p 6 [])) ∧
        exec (.atrTimeout p) s = .next ((s.cardOff p).portSend p 6 [])) ∧
      ((s.port.at p).card = .ready → (s.port.at p).rxWait = [] → ∀ fl pay u, s.txTake p = some (fl, pay, u) →
        exec (.cardTxPacket p) s = .next (u.cardTo p (if bitAt fl 1 then .apdu false else .bytes))) ∧
      ((s.port.at p).card = .apdu false → ∀ l reps heard a u, heard = s.cardHeard p l reps →
        (some a, u) = (s.cardReps p (reps ++ (l.take (heard.length + 1)).map CardChar.bad)).cardRun p heard →
        exec (.cardResponse p l reps) s = .next ((u.portSend p 0 (captBytes a)).cardReady p)) ∧
      ((s.port.at p).card = .bytes → ∀ l reps, s.cardHeard p l reps = l → reps.all (fun r => decide (r.toNat ≤ s.cardRetry p)) = true →
        exec (.cardResponse p l reps) s =
          .next ((s.cardReps p (reps ++ l.map CardChar.bad)).cardChars p (l.map CardChar.b))) ∧
      (∀ t : Word, (s.port.at p).card = .bytes → (s.port.at p).rx ≠ [] → s.cardWait p ≤ t.toNat * s.cardD p →
        exec (.cardCwtExpiry ⟨p, t⟩) s = .next ((s.cardClose p 0).cardReady p)))

/-- The balls. A reset of any kind leaves every port pad without drive and pull, CON_TX undriven and HIRQ_N released (R112,
R225, R243); without its supply a pad does nothing: bank M follows VIO, bank C the Cellar's supply, VIO while present and else
VBAT (R183, R529). An enabled push-pull pin of a GPIO port that no card holds shows its OUT bit (R199); a pin that a card's
engine holds shows VCCEN, whatever the GPIO registers say (R193). The activation of a card holds IO and CLK low for TVCC, then
releases IO and starts CLK, and holds RST low for TRST clocks more; a warm reset holds RST low for TRST clocks (R204, R206). -/
def Obligations.PadsFollow : Prop :=
  (∀ (s : State) k w src,
    (∀ p b, (s.enterReset k w src).pad p b = {}) ∧
    (s.enterReset k w src).conTxDriven = false ∧ (s.enterReset k w src).hirqPad = false) ∧
  (∀ (s : State) (p : PortId) b,
    (s.si.vio < 1500 → p.val < 16 → s.pad p b = {}) ∧
    (s.si.vio < 1500 → s.si.vbat < 1500 → s.pad p b = {})) ∧
  (∀ (s : State) (p : PortId) b, s.padsUp p = true → s.pairedBy p = none → s.pfn p = .gpio →
    (s.vccOf p b = none → s.parBit p 0 (b2n b) = true → s.parBit p 0 (4 + b2n b) = false →
      s.pad p b = { drive := .level (s.isSet (if b then PORT_GPIO_OUTB p else PORT_GPIO_OUTA p)), pull := s.pullOf p b }) ∧
    (∀ k, s.vccOf p b = some k →
      s.pad p b = { drive := .level (decide ((s.port.at k).card ≠ .off) == s.parBit k 0 21), pull := s.pullOf p b })) ∧
  (∀ (s : State) (p q : PortId) v r, s.pfn p = .card → s.padsUp p = true → s.padsUp q = true → s.pairedBy p = none →
    s.pairedBy q = some p → v = 160000 * s.cardTvcc p → r = s.cardClk p * s.cardTrst p →
    ((s.port.at p).card = .atr false →
      s.pad p false = { drive := .low, pull := s.pullOf p false, later := [(v, .hiZ)] } ∧
      s.pad p true = { drive := .low, pull := s.pullOf p true, later := [(v + s.cardClk p, .runs)] } ∧
      s.pad q false = { drive := .low, pull := s.pullOf q false, later := [(v + r, .high)] }) ∧
    ((s.port.at p).card = .atr true →
      s.pad q false = { drive := .low, pull := s.pullOf q false, later := [(r, .high)] }))

/-! ## Hostlink (R230 to R243) -/

/-- A transaction whose header is not in the table, or not of the mode, answers 0x00 and counts (R231, R234); READ_Q of an empty
queue and ACK of a packet that is not eligible answer 0x00 too (R237, R239). -/
def Obligations.HostlinkRefuses : Prop :=
  ∀ (s : State) (h : HlkHdr) (fl : Bool) (tr : Word) (data : List Byte) (c : Instr), s.hlkLive = true →
    c = .writeQ h.qid h.len data tr fl ∧ h.op = 1 ∨ c = .readQ h.qid h.len ∧ h.op = 2 ∨ c = .status h.qid h.len ∧ h.op = 3 ∨
      c = .ack h.qid h.len tr ∧ h.op = 4 →
    (h.ok = false → exec c s = .next (s.hlkPurge.hlkNo (some HLK_ERR_HDR))) ∧
    (h.ok = true → s.hlkPurge.sys.mode.hlkOp h.op.toNat = false → exec c s = .next (s.hlkPurge.hlkNo (some HLK_ERR_MODE))) ∧
    (h.ok = true → s.hlkPurge.sys.mode.hlkOp h.op.toNat = true → h.op = 2 → s.hlkPurge.hasHead (hOut h.k) = false →
      exec c s = .next (s.hlkPurge.hlkNo none)) ∧
    (h.ok = true → s.hlkPurge.sys.mode.hlkOp h.op.toNat = true → h.op = 4 → s.hlkPurge.hlkEligible h.k = false →
      exec c s = .next (s.hlkPurge.hlkNo (some HLK_ERR_ACK)))

/-- WRITE_Q, READ_Q, STATUS and ACK where their mode runs them: HMISO carries 0x00 in every byte that the table does not give it
(R230, R232); a write whose trailer matches is sealed into the inbound queue, one whose trailer does not is withdrawn and
counted on lane 3 (R236); a read answers the packet at the head with a CRC-32C over header and payload, leaves the packet in
place and makes it eligible for ACK when it was whole (R237); one whose check is wrong goes out with its CRC inverted, and
counts on lane 4 (R238); STATUS answers the block, and clears the error bits on request (R240); ACK releases the eligible packet
(R239); an incomplete transaction sets ABORT (R235). -/
def Obligations.HostlinkActs : Prop :=
  ∀ (s t : State) (qid : Byte) (len : BitVec 16), s.hlkLive = true → t = s.hlkPurge →
    (∀ (h : HlkHdr) data tr fl hdr u v, h = ⟨1, qid, len⟩ → h.ok = true → t.sys.mode.hlkOp 1 = true → data.length = len.toNat →
      hdr = pktHeader len.toNat 0 (t.rd (QFX_SRC_ID (hIn h.k))) (t.hlk.seq.at h.k).toNat →
      t.pushHeader 2 (hIn h.k) hdr = (.taken, u) → v = u.hlkYes (List.replicate (data.length + 4) 0) →
      (tr = crc32c (h.bytes ++ data) → exec (.writeQ qid len data tr fl) s = .next (v.hlkSeal h.k hdr data fl)) ∧
      (tr ≠ crc32c (h.bytes ++ data) → fl = false →
        exec (.writeQ qid len data tr fl) s = .next (((((v.qset (hIn h.k) Queue.withdraw).laneFail 3).setb HLK_ERR_CRC).bump
          HLK_CNT_CRCERR).hlkLast h.k 1))) ∧
    (∀ (h : HlkHdr) x words full sent good, h = ⟨2, qid, len⟩ → h.ok = true → t.sys.mode.hlkOp 2 = true →
      t.hasHead (hOut h.k) = true → x = t.qfx.at (hOut h.k) → words = pktWords (t.headPacket (hOut h.k)).2.length →
      good = t.pktGood (hOut h.k) (x.rd + words) →
      full = (List.range (words - 1)).flatMap (fun i => (t.qword (hOut h.k) (x.rd + i)).bytes) →
      sent = (full ++ List.replicate len.toNat 0).take len.toNat →
      ∃ u, exec (.readQ qid len) s = .next u ∧ u.qfx.at (hOut h.k) = { x with mark := some x.rd } ∧
        (good = true ∨ len.toNat < full.length → u.hlk.out = [0, 0, 0, 0, 0xA5] ++ (sent ++ (crc32c (h.bytes ++ sent)).bytes) ∧
          u.hlk.elig.at h.k = (if full.length ≤ len.toNat then some x.rd else none)) ∧
        (good = false → full.length ≤ len.toNat → u.rd HLK_ERR_SRC = 1 ∧ u.rd RLY_ERR_LANE = 1 ∧ u.hlk.elig.at h.k = none ∧
          u.hlk.out = [0, 0, 0, 0, 0xA5] ++ (sent ++ (~~~crc32c (h.bytes ++ sent)).bytes))) ∧
    (∀ (h : HlkHdr) sent u, h = ⟨3, qid, len⟩ → h.ok = true → t.sys.mode.hlkOp 3 = true → sent = t.hlkBlock.take len.toNat →
      u = t.hlkYes (sent ++ (crc32c (h.bytes ++ sent)).bytes) →
      exec (.status qid len) s = .next (if qid = 1 ∧ 5 ≤ len.toNat then u.wrs (hlkErrs.map (fun f => (f, 0))) else u)) ∧
    (∀ (h : HlkHdr) tr u, h = ⟨4, qid, len⟩ → h.ok = true → t.sys.mode.hlkOp 4 = true → t.hlkEligible h.k = true →
      tr = crc32c h.bytes → u = (t.hlkYes [0, 0, 0, 0]).headRelease (hOut h.k) →
      exec (.ack qid len tr) s = .next { u with hlk := { u.hlk with elig := u.hlk.elig.put h.k none } }) ∧
    (exec (.hostlinkAbort none) s = .next { s.setb HLK_ERR_ABORT with hlk := { s.hlk with out := [] } }) ∧
    (∀ (h : HlkHdr), h = ⟨3, qid, len⟩ → h.ok = true → t.sys.mode.hlkOp 3 = true →
      exec (.hostlinkAbort (some h)) s = .next ((t.setb HLK_ERR_ABORT).hlkYes (t.statusStream h)))

/-- The load commands of H6: each takes its packet from the head of inbound H6 and answers one packet, with the load's own
result code, 12 where its bytes are none of the command's, 20 while loading does not proceed, 42 after a bad check, which counts
on lane 5 and leaves the packet in place (R241, R269, R270). -/
def Obligations.HostLoadActs : Prop :=
  ∀ (s u : State) (pay : List Byte) (good : Bool), s.h6Take = some (pay, good, u) →
    (pay.getD 0 0 = 1 →
      (s.h6On = false → exec .h6Begin s = .next (u.h6Say 1 20 u.h6Rcvd 0).h6Skip) ∧
      (s.h6On = true → good = false → exec .h6Begin s = .next ((u.laneFail 5).h6Say 1 42 (u.laneFail 5).h6Rcvd 0).h6Skip) ∧
      (s.h6On = true → good = true → ∀ kind crc, kind = leNat ((pay.drop 1).take 3) → crc = Word.ofBytes (pay.drop 8) →
        (pay.length ≠ 12 ∨ 2 < kind → exec .h6Begin s = .next (u.h6Say 1 12 u.h6Rcvd 0).h6Skip) ∧
        (∀ e w, pay.length = 12 → kind ≤ 2 → u.loadBegin true (if kind = 0 then .fw else if kind = 1 then .uc else .app)
            (leNat ((pay.drop 4).take 4)) (if crc = 0 then none else some crc) = (e, w) →
          exec .h6Begin s = .next (w.h6Say 1 e w.h6Rcvd 0).h6Skip))) ∧
    (pay.getD 0 0 = 2 →
      (s.h6On = false → exec .h6Data s = .next (u.h6Say 2 20 u.h6Rcvd 0).h6Skip) ∧
      (s.h6On = true → good = false → exec .h6Data s = .next ((u.laneFail 5).h6Say 2 42 (u.laneFail 5).h6Rcvd 0).h6Skip) ∧
      (s.h6On = true → good = true →
        (pay.length < 9 ∨ 1024 < pay.length ∨ leNat ((pay.drop 1).take 3) ≠ 0 →
          exec .h6Data s = .next (u.h6Say 2 12 u.h6Rcvd 0).h6Skip) ∧
        (∀ e w, 9 ≤ pay.length → pay.length ≤ 1024 → leNat ((pay.drop 1).take 3) = 0 →
          u.loadData true (leNat ((pay.drop 4).take 4)) (pay.drop 8) = (e, w) →
          exec .h6Data s = .next (w.h6Say 2 e w.h6Rcvd 0).h6Skip))) ∧
    (pay.getD 0 0 = 3 →
      (s.h6On = false → exec .h6End s = .next (u.h6Say 3 20 u.h6Rcvd 0).h6Skip) ∧
      (s.h6On = true → good = false → exec .h6End s = .next ((u.laneFail 5).h6Say 3 42 (u.laneFail 5).h6Rcvd 0).h6Skip) ∧
      (s.h6On = true → good = true →
        (h6Bare pay = false → exec .h6End s = .next (u.h6Say 3 12 u.h6Rcvd 0).h6Skip) ∧
        (∀ bad k n w, h6Bare pay = true → u.loadEnd true = (some (bad, k, n), w) →
          exec .h6End s = .next (w.h6Say 3 (if bad = 0 then 0 else 42) u.h6Rcvd bad).h6Skip))) ∧
    (pay.getD 0 0 = 4 →
      (s.h6On = false → exec .h6Abort s = .next (u.h6Say 4 20 u.h6Rcvd 0).h6Skip) ∧
      (s.h6On = true → good = false → exec .h6Abort s = .next ((u.laneFail 5).h6Say 4 42 (u.laneFail 5).h6Rcvd 0).h6Skip) ∧
      (s.h6On = true → good = true →
        (h6Bare pay = false → exec .h6Abort s = .next (u.h6Say 4 12 u.h6Rcvd 0).h6Skip) ∧
        (∀ k w, h6Bare pay = true → u.loadAbort true = (some k, w) → exec .h6Abort s = .next (w.h6Say 4 0 0 0).h6Skip)))

/-! ## Queues (R244 to R267) -/

/-- A core's accesses to a queue it owns: a word joins the packet in progress, the header is judged at a boundary, the trailer
seals the packet or withdraws it whole (R249); a read answers the word at RD and moves past it, and an empty queue reads 0 with
UNDER (R255); MARK, REWIND and RELEASE (R256); FLUSH (R258); a flush that meets its limit forces the boundary (R259). A pending
flush that met the limit: the boundary is forced, and the loss counts (R259). -/
def Obligations.QueueCommandsAct : Prop :=
  (∀ (s t : State) (c : CpuId) (q : QueueId), s.coreRuns c = true → t = s.strongIssue c →
    (∀ w, t.qProducer c.agent q = true → (t.qfx.at q).drop = 0 →
      (1 < (t.qfx.at q).left → exec (.queuePush c q w) s = .next (t.qappend q w)) ∧
      ((t.qfx.at q).left = 1 → exec (.queuePush c q w) s = .next (t.pushTrailer q w)) ∧
      ((t.qfx.at q).left = 0 → exec (.queuePush c q w) s = .next (t.pushHeader c.agent.qcode q w).2)) ∧
    (t.qConsumer c.agent q = true →
      ((t.qfx.at q).readable = true → ∃ u, exec (.queuePop c q) s = .next u ∧
        (u.cpu.at c).rdata = t.qword q (t.qfx.at q).rd ∧ u.qfx.at q = { t.qfx.at q with rd := (t.qfx.at q).rd + 1 } ∧
        u.mem = t.mem) ∧
      ((t.qfx.at q).readable = false → exec (.queuePop c q) s = .next ((t.qerr QFX_ERR_UNDER q).loaded c 0)) ∧
      ((t.qfx.at q).flush = none →
        (∃ u, exec (.mark c q) s = .next u ∧ u = { t with qfx := u.qfx } ∧
          u.qfx.at q = { t.qfx.at q with mark := some (t.qfx.at q).rd }) ∧
        (∀ m, (t.qfx.at q).mark = some m → exec (.rewind c q) s = .next (t.qset q (fun x => { x with rd := m }))) ∧
        ((t.qfx.at q).mark = none → exec (.rewind c q) s = .next (t.qerr QFX_ERR_NOMARK q)) ∧
        (∀ y, (t.qfx.at q).release = some y → exec (.release c q) s = .next (t.qset q (fun _ => y))) ∧
        ((t.qfx.at q).release = none → exec (.release c q) s = .next ((t.qerr QFX_ERR_DOUBLE q).misuse)))) ∧
    (t.qConsumer c.agent q = true ∨ t.qProducer c.agent q = true →
      exec (.flush c q) s = .next (t.flushQueue q))) ∧
  (∀ (s : State) (q : QueueId) (n : Nat), (s.qfx.at q).flush = some n → s.flushLimit ≤ n →
    exec (.flushLimitExpiry q) s = .next ((s.qset q Queue.force).qlost (QFX_CNT_DESYNC q)) ∧
    ∃ t, exec (.flushLimitExpiry q) s = .next t ∧ (t.qfx.at q).held = 0 ∧ (t.qfx.at q).chain = [] ∧ (t.qfx.at q).desync = true ∧
      (t.qfx.at q).drop = (s.qfx.at q).left)

/-- An access by an agent that the queue's owner fields do not name changes nothing, answers 0 on a read, sets NOTOWNER with QN
naming the queue, and raises MISUSE (R245): PUSH by another than the producer owner, POP, MARK, REWIND and RELEASE by another
than the consumer owner, FLUSH by neither; a write of the command or push register by CON or by the Caretaker as well. -/
def Obligations.ForeignQueueRefused : Prop :=
  (∀ (s t : State) (c : CpuId) (q : QueueId) (w : Word), s.coreRuns c = true → t = s.strongIssue c →
    (t.qProducer c.agent q = false → exec (.queuePush c q w) s = .next ((t.qerr QFX_ERR_NOTOWNER q).misuse)) ∧
    (t.qConsumer c.agent q = false →
      exec (.mark c q) s = .next ((t.qerr QFX_ERR_NOTOWNER q).misuse) ∧
      exec (.rewind c q) s = .next ((t.qerr QFX_ERR_NOTOWNER q).misuse) ∧
      exec (.release c q) s = .next ((t.qerr QFX_ERR_NOTOWNER q).misuse) ∧
      exec (.queuePop c q) s = .next (((t.loaded c 0).qerr QFX_ERR_NOTOWNER q).misuse)) ∧
    (t.qProducer c.agent q = false → t.qConsumer c.agent q = false →
      exec (.flush c q) s = .next ((t.qerr QFX_ERR_NOTOWNER q).misuse))) ∧
  (∀ (s : State) (a : Agent) (off : BitVec 20) (q : QueueId) (v : Word), a = .con ∨ a = .care → s.agentUp a = true →
    (off.toNat = 0x4010 + 0x20 * q.val → s.qProducer a q = false →
      exec (.registerWrite a (.dev off) v) s = .next ((s.qerr QFX_ERR_NOTOWNER q).misuse)) ∧
    (off.toNat = 0x4008 + 0x20 * q.val → v.toNat % 8 = 1 ∨ v.toNat % 8 = 2 ∨ v.toNat % 8 = 3 → s.qConsumer a q = false →
      exec (.registerWrite a (.dev off) v) s = .next ((s.qerr QFX_ERR_NOTOWNER q).misuse)))

/-! ## The check relay (R268 to R286) -/

/-- A relay session from SRAM to SRAM: OPEN in IDLE binds what the session's registers name (R273) and with a valid binding
moves at once (R277, R278), the seal copies the bytes and is good when the CRC-32C of the source matches (R279); an invalid
binding ends with BADBIND; ABORT ends it, a flush of its queue ends it with FLUSHED (R281), FREE returns it to IDLE, DROPSRC
releases the packet that failed at the head of its source queue (R282). Another core's command is ignored with MISUSE (R272). -/
def Obligations.RelayActs : Prop :=
  ∀ (s t : State) (c : CpuId) (n : Fin 8),
    (s.coreRuns c = true → t = s.strongIssue c → t.rlySt n = 0 →
      ∃ o, o = (t.wrs [(RLY_STAT_OWNER n, c.val), (RLY_STAT_STATE n, 1), (RLY_STAT_RESULT n, 0), (RLY_STAT_SEALED n, 0),
          (RLY_STAT_SRCFREE n, 0), (RLY_STAT_DFLUSH n, 0), (RLY_DSTCHK n, 0)]).rlySet n (fun _ => { bound := some (t.rlyRegs n) }) ∧
        (o.bindOk n c = false → exec (.rlyOpen c n) s = .next (o.rlyEnd n 4)) ∧
        (o.bindOk n c = true → (t.rlyRegs n).srcK = 0 → (t.rlyRegs n).dstK = 0 →
          exec (.rlyOpen c n) s = .next (o.wr (RLY_STAT_STATE n) 2))) ∧
    (s.coreRuns c = true → t = s.strongIssue c → t.rlySt n ≠ 0 → t.rd (RLY_STAT_OWNER n) = c.val →
      (t.rlySt n = 1 ∨ t.rlySt n = 2 → exec (.rlyAbort c n) s = .next (t.rlyEnd n 6)) ∧
      (t.rlySt n = 5 → t.rlySrcK n = 1 → (t.rly.at n).failed = some (t.qfx.at (t.rlySrcQ n)).rd → t.hasHead (t.rlySrcQ n) = true →
        t.rd (QFX_OWNER (t.rlySrcQ n)) = 4 → exec (.rlyDropsrc c n) s =
          .next (((t.headRelease (t.rlySrcQ n)).rlySet n (fun x => { x with failed := none })).bump RLY_CNT_DROPSRC)) ∧
      ((t.rly.at n).failed = none → exec (.rlyDropsrc c n) s = .next t) ∧
      (t.rlySt n = 4 ∨ t.rlySt n = 5 → exec (.rlyFree c n) s = .next ((t.wrs [(RLY_STAT_STATE n, 0), (RLY_STAT_RESULT n, 0),
        (RLY_STAT_SEALED n, 0), (RLY_STAT_SRCFREE n, 0), (RLY_STAT_DFLUSH n, 0), (RLY_STAT_OWNER n, 0)]).rlySet n (fun _ => {})))) ∧
    (s.coreRuns c = true → t = s.strongIssue c → t.rlySt n ≠ 0 → t.rd (RLY_STAT_OWNER n) ≠ c.val → (t.rly.at n).orphan = false →
      exec (.rlyOpen c n) s = .next t.misuse ∧ exec (.rlyAbort c n) s = .next t.misuse ∧
      exec (.rlyDropsrc c n) s = .next t.misuse ∧ exec (.rlyFree c n) s = .next t.misuse) ∧
    (s.rlySt n = 1 → s.mainUp = true → s.sys.mode ≠ .hold → s.rlySrcK n = 1 → s.rlyDstK n = 0 → s.hasHead (s.rlySrcQ n) = true →
      s.lenOk n (s.rlyLen n) = true → s.dstOk n (finOf 2 (s.rd (RLY_STAT_OWNER n))) (s.rlyLen n) = true →
      ∃ u, exec (.relaySourceReady n) s = .next u ∧ u.rlySt n = 2 ∧ (u.rly.at n).rd = (s.qfx.at (s.rlySrcQ n)).rd ∧
        u.rd (RLY_HDR n) = (s.headPacket (s.rlySrcQ n)).1.toNat ∧ u.mem = s.mem) ∧
    (∀ l good, s.rlySt n = 2 → s.sys.mode ≠ .hold → s.rlyFlushed n = false → s.rlySource n = (l, good) →
      exec (.relaySeal n false) s =
        .next (if good then (s.rlyPut n l true).rlySealed n else (s.rlyPut n l false).rlyEnd n 2)) ∧
    (s.rlySt n = 2 → s.sys.mode ≠ .hold → s.rlyFlushed n = false →
      exec (.relaySeal n true) s = .next (s.rlyEnd n 7).eccUncorr) ∧
    (∀ ecc, s.rlySt n = 2 → s.sys.mode ≠ .hold → s.rlyFlushed n = true → exec (.relaySeal n ecc) s = .next (s.rlyEnd n 8))

/-! ## The cores (R287 to R308) -/

/-- Loads and stores of a core: a clean load of SRAM answers the bytes as the core sees them and fills its line buffer (R294,
R296), and what it answers stands in its destination register alone, x0 aside (R286); a store to SRAM waits in the store buffer
(R296); a misaligned access traps with cause 4 or 6 (R288), one that the PMP or the map refuses with 5 or 7 (R289, R290), and
nothing else changes. The oldest waiting store becomes visible (R296); a fence drains the buffer where W precedes R (R298);
FENCE.I leaves nothing stale (R293). -/
def Obligations.CoreAccessesAct : Prop :=
  ∀ (s t : State) (c : CpuId) (i : CoreAt) (a : Word) (w : Width), s.coreRuns c = true → t = s.core c (fun x => x.arrive i) →
    (∀ sgn l, a.toNat % w.bytes = 0 → (t.cpu.at c).pmpOk (t.cpu.at c).dataUser 0 a.toNat w.bytes = true →
      inSram a.toNat w.bytes = true → l = t.lineFill c (block32 a.toNat) →
      exec (.coreLoad c i a w sgn 0) s = .next (l.reads c i.rd (loadWord sgn (l.coreView c a.toNat w.bytes)))) ∧
    (∀ v, ((t.reads c i.rd v).cpu.at c).rdata = v ∧ ∀ r, ((t.reads c i.rd v).cpu.at c).x.at r =
      if r = i.rd ∧ r ≠ 0 then v else (t.cpu.at c).x.at r) ∧
    (∀ sgn e, a.toNat % w.bytes ≠ 0 → exec (.coreLoad c i a w sgn e) s = .next (t.trap c 4 a)) ∧
    (∀ sgn e, a.toNat % w.bytes = 0 →
      (t.cpu.at c).pmpOk (t.cpu.at c).dataUser 0 a.toNat w.bytes = false ∨ areaOf a.toNat w.bytes = none →
      exec (.coreLoad c i a w sgn e) s = .next (t.trap c 5 a)) ∧
    (∀ v, a.toNat % w.bytes = 0 → (t.cpu.at c).pmpOk (t.cpu.at c).dataUser 1 a.toNat w.bytes = true →
      inSram a.toNat w.bytes = true → exec (.coreStore c i a w v) s =
        .next ((t.core c (fun x => { x with sb := x.sb ++ [(a.toNat, v.bytes.take w.bytes)] })).retire c)) ∧
    (∀ v, a.toNat % w.bytes ≠ 0 → exec (.coreStore c i a w v) s = .next (t.trap c 6 a)) ∧
    (∀ v, a.toNat % w.bytes = 0 →
      (t.cpu.at c).pmpOk (t.cpu.at c).dataUser 1 a.toNat w.bytes = false ∨ areaOf a.toNat w.bytes = none ∨
        areaOf a.toNat w.bytes = some .rom ∨ areaOf a.toNat w.bytes = some .window →
      exec (.coreStore c i a w v) s = .next (t.trap c 7 a)) ∧
    (∀ e rest, (s.cpu.at c).sb = e :: rest → s.sys.mode ≠ .hold →
      exec (.storeBufferDrain c) s = .next ((s.core c (fun x => { x with sb := rest })).sramStore c e.1 e.2)) ∧
    (∀ f, f.predW = true → f.succR = true → exec (.fence c i f) s = .next (((t.sbDrain c).lineDrop c).retire c)) ∧
    (∀ f, f.full = false → f.succR = false → exec (.fence c i f) s = .next (t.retire c)) ∧
    exec (.fenceI c i) s = .next (((t.sbDrain c).core c (fun x => { x with stale := [] })).retire c)

/-- Atomics on SRAM (R300): LR takes the reservation of its 32-byte block; SC stores and answers 0 where it is held, answers 1 and
changes no memory where it is not, and loses it; an AMO is one read-modify-write behind the core's earlier stores; anywhere else
each traps with no memory changed. WFI waits unless an enabled source is pending (R306); an interrupt enters the handler (R303,
R305). -/
def Obligations.CoreAtomicsAct : Prop :=
  ∀ (s t : State) (c : CpuId) (i : CoreAt) (a v : Word), s.coreRuns c = true → t = s.core c (fun x => x.arrive i) →
    (∀ l, t.atomFault c true false a.toNat = none → l = t.lineFill c (block32 a.toNat) →
      exec (.lr c i a false false 0) s = .next ((l.core c (fun x => { x with resv := some (block32 a.toNat) })).reads c i.rd
        (loadWord false (l.coreView c a.toNat 4)))) ∧
    (t.atomFault c false true a.toNat = none → (t.cpu.at c).resv = some (block32 a.toNat) →
      exec (.sc c i a v false false) s = .next ((((t.sbDrain c).sramStore c a.toNat v.bytes).core c
        (fun x => { x with resv := none })).reads c i.rd 0)) ∧
    (t.atomFault c false true a.toNat = none → (t.cpu.at c).resv ≠ some (block32 a.toNat) →
      exec (.sc c i a v false false) s = .next ((t.core c (fun x => { x with resv := none })).reads c i.rd 1)) ∧
    (∀ op, t.atomFault c false false a.toNat = none → exec (.amo c i op a v false false 0) s =
      .next (((t.sbDrain c).sramStore c a.toNat (op.run ((t.sbDrain c).getW a.toNat) v).bytes).reads c i.rd
        ((t.sbDrain c).getW a.toNat))) ∧
    (a.toNat % 4 = 0 → inSram a.toNat 4 = false → ∀ op aq rl e,
      exec (.lr c i a aq rl e) s = .next (t.trap c 5 a) ∧ exec (.sc c i a v aq rl) s = .next (t.trap c 7 a) ∧
      exec (.amo c i op a v aq rl e) s = .next (t.trap c 7 a) ∧ (t.trap c 7 a).mem = s.mem) ∧
    (t.wakes c = false → ∃ u, exec (.wfi c i) s = .next u ∧ (u.cpu.at c).wfi = true ∧ u.mem = s.mem) ∧
    (t.intrTaken c = true → exec (.interruptTrap c i) s = .next (t.core c (fun x => x.trapped true 11 0)))

/-- What an exception or interrupt of a core saves and where it goes (R287, R303): mepc the instruction's address, mcause the
cause, mstatus.MPIE and MPP the enable and the privilege left, the core in M-mode with interrupts off, the reservation lost
(R300), the pc at the handler; every other CSR and all memory unchanged. -/
def Obligations.TrapEntry : Prop :=
  ∀ (s : State) (c : CpuId) (cause : Nat) (tval : Word), cause < 32 →
    ∃ x, x = s.cpu.at c ∧ (s.trap c cause tval) = { s with cpu := (s.trap c cause tval).cpu } ∧
      (s.trap c cause tval).cpu.at c = { x with
        mepc := x.pc &&& 0xFFFFFFFE, mcause := BitVec.ofNat 32 cause, mtval := tval, mpie := x.mie, mie := false,
        mppU := x.user, user := false, resv := none, pc := x.mtvec &&& 0xFFFFFFFC } ∧
      ∀ d, d ≠ c → (s.trap c cause tval).cpu.at d = s.cpu.at d

/-! ## The Vault (R315 to R342) -/

/-- A core's Vault commands while its previous one has finished and no other is under way: STORE places its entry where no
refusal of R324 holds, and clears the staging buffer at its end (R325); READ shows an entry, its value only where the type is
public (R330); RETIRE and REVOKE and ZEROIZE of an entry that its state and the mode allow (R328); each goes on to its shadow
update (R326). -/
def Obligations.VaultEntriesAct : Prop :=
  ∀ (s t b : State) (c : CpuId) (idx : Byte), s.coreRuns c = true → t = s.strongIssue c → t.rd (VLT_STAT_STATE c.agent) ≠ 1 →
    t.vIdle = true → t.vlt.waiting = [] → b = t.vBusy (.agent c.agent) →
    (∀ n i r ch u, n = t.vStaged c.agent → b.vCheck n = (0, i) → b.vStoreNow n i = (r, ch, u) →
      exec (.vltStore c) s = .next ((u.vJob (.agent c.agent) 1 i (if r then 19 else 0) n.role ch (u.vEnt i)).vClearBuf c.agent)) ∧
    (∀ code i, b.vCheck (t.vStaged c.agent) = (code, i) → code ≠ 0 → code ≠ 4 →
      exec (.vltStore c) s = .next ((b.vEnd (.agent c.agent) code 0).vClearBuf c.agent)) ∧
    (t.sys.mode.vaultUse = true → ∃ u, exec (.vltRead c idx) s = .next u ∧ u.vlt.ent = t.vlt.ent ∧
      u.rd (VLT_STAT_STATE c.agent) = 2 ∧
      (u.vlt.wr.at (finOf 4 c.agent.code)).win =
        if vPublic (t.vEnt idx.toNat).type.toNat = true ∧ (t.vEnt idx.toNat).st ≠ 0 then t.vValue (t.vHead idx.toNat) else []) ∧
    (∀ i e l z, i = t.vHead idx.toNat → e = t.vEnt i → l = t.vSpan i → t.sys.mode.vaultRetire = true →
      (z = (if e.role = roleSession then b.vState l 2 else (b.vState l 2).vCount l) → e.st = 1 →
        exec (.vltRetire c idx) s = .next (z.vJob (.agent c.agent) 3 i 0 e.role l e)) ∧
      (z = (if e.role = roleSession then b.vState l 3 else (b.vState l 3).vCount l) → e.st = 1 ∨ e.st = 2 →
        exec (.vltRevoke c idx) s = .next (z.vJob (.agent c.agent) 4 i 0 e.role l e))) ∧
    (∀ i e l z, i = t.vHead idx.toNat → e = t.vEnt i → l = t.vSpan i → t.sys.mode.vaultUse = true →
      t.sys.mode.vaultStore e.role = true → e.st = 2 ∨ e.st = 3 → t.strUpd .k = true → e.role ≠ roleSession →
      z = { b with vlt := { b.vlt with ent := l.foldl spErase b.vlt.ent } } →
      exec (.vltZeroize c idx) s = .next (((z.vCount l).kRemove i).vJob (.agent c.agent) 5 i 0 e.role l e)) ∧
    (t.sys.mode.vaultUse = true → exec (.vltClear c) s = .next ((b.vClearBuf c.agent).vEnd (.agent c.agent) 0 0)) ∧
    (t.sys.mode.vaultUse = false →
      exec (.vltRead c idx) s = .next (b.vEnd (.agent c.agent) t.sys.mode.vaultNo 0) ∧
      exec (.vltZeroize c idx) s = .next (b.vEnd (.agent c.agent) t.sys.mode.vaultNo 0) ∧
      exec (.vltClear c) s = .next (b.vEnd (.agent c.agent) t.sys.mode.vaultNo 0))

/-- The other commands of a writer: LOOKUP answers the index of the key (R332), DENY adds a deny entry to region K, UNDENY and
UNANY in FIT remove one (R331), the value window stages four bytes and moves on (R323); a command that arrives while another
writer's is under way waits its turn, with the staging registers as they stand (R322); while the writer's own previous command
runs each is refused with BUSY (R322), and STATE goes on reading BUSY (log entry 82); the oldest command that waits for its
shadow update ends with it, or with SHADOW where there is none (R326, R339); a pass of re-masking starts one period after the
latest (R336). -/
def Obligations.VaultLookupsAct : Prop :=
  ∀ (s t : State) (c : CpuId) (idx : Byte), t = s.strongIssue c →
    (∀ b, s.coreRuns c = true → t.rd (VLT_STAT_STATE c.agent) ≠ 1 → t.vIdle = true → t.vlt.waiting = [] →
      b = t.vBusy (.agent c.agent) →
      (∀ l u, b.vLookup .other (BitVec.ofNat 8 (t.rd (VLT_LK1_ROLE c.agent))) (BitVec.ofNat 32 (t.rd (VLT_LK0_ID c.agent)))
          (t.rd (VLT_LK1_OP c.agent)) = (l, u) → l.code = 0 → l.ecc = false →
        exec (.vltLookup c) s = .next ((u.wrs [(VLT_LKRES_IDX c.agent, l.idx), (VLT_LKRES_MULTI c.agent, b2n l.multi)]).vEnd
          (.agent c.agent) 0 l.idx)) ∧
      (∀ d e r u, d = t.vStagedCmd c.agent 7 0 → e = d.pattern → t.sys.mode.vaultUse = true → t.strUpd .k = true →
        (t.sList .k).any (fun x => x.2.valid && x.2.key == e.key && x.2.mask == e.mask && x.2.prio == e.prio) = false →
        t.kRoom 1 = true → b.kWrite e = (r, u) →
        exec (.vltDeny c) s = .next (u.vJob (.agent c.agent) 7 0 (if r then 19 else 0) roleSession []
          { keyid := BitVec.ofNat 32 (t.rd (VLT_DENYID c.agent)), role := BitVec.ofNat 8 (t.rd (VLT_DENY_ROLE c.agent)) })) ∧
      (∀ d e x, d = t.vStagedCmd c.agent 8 0 → e = d.pattern → t.sys.mode = .fit → t.strUpd .k = true →
        (t.sList .k).find? (fun x => x.2.valid && x.2.deny && x.2.key == e.key && x.2.mask == e.mask) = some x →
        exec (.vltUndeny c) s = .next ((b.kErase x).vJob (.agent c.agent) 8 0 0 roleSession []
          { keyid := BitVec.ofNat 32 (t.rd (VLT_DENYID c.agent)), role := BitVec.ofNat 8 (t.rd (VLT_DENY_ROLE c.agent)) })) ∧
      (∀ x i, t.sys.mode = .fit → i = t.vHead idx.toNat → (t.vEnt i).st ≠ 0 → t.strUpd .k = true →
        (t.kOf i).find? (fun x => !x.2.key.getLsbD 56) = some x →
        exec (.vltUnany c idx) s = .next ((b.kErase x).vJob (.agent c.agent) 9 i 0 roleSession [] (t.vEnt i)))) ∧
    (s.coreRuns c = true → t.rd (VLT_STAT_STATE c.agent) ≠ 1 → t.vIdle = false →
      ∀ k ∈ [(Instr.vltStore c, 1, 0), (.vltRead c idx, 2, idx.toNat), (.vltRetire c idx, 3, idx.toNat),
        (.vltRevoke c idx, 4, idx.toNat), (.vltZeroize c idx, 5, idx.toNat), (.vltLookup c, 6, 0), (.vltDeny c, 7, 0),
        (.vltUndeny c, 8, 0), (.vltUnany c idx, 9, idx.toNat), (.vltClear c, 10, 0), (.vltGenCmd c, 11, 0)],
      exec k.1 s = .next ({ t with vlt := { t.vlt with
        waiting := t.vlt.waiting ++ [t.vStagedCmd c.agent k.2.1 k.2.2] } }.vBusy (.agent c.agent))) ∧
    (s.coreRuns c = true → t.rd (VLT_STAT_STATE c.agent) = 1 →
      (∀ k ∈ [Instr.vltRead c idx, .vltRetire c idx, .vltRevoke c idx, .vltZeroize c idx, .vltLookup c, .vltDeny c, .vltUndeny c,
        .vltUnany c idx, .vltClear c, .vltGenCmd c], exec k s = .next (t.wr (VLT_STAT_CODE c.agent) 13)) ∧
      exec (.vltStore c) s = .next ((t.wr (VLT_STAT_CODE c.agent) 13).vClearBuf c.agent)) ∧
    (s.coreRuns c = true → exec (.vltWinAccess c none) s =
      .next ((t.loaded c (t.winWord c.agent)).wr (VLT_WINOFF c.agent) (t.rd (VLT_WINOFF c.agent) + 1))) ∧
    (∀ v : Word, s.coreRuns c = true → ∃ u off, off = 4 * t.rd (VLT_WINOFF c.agent) ∧
      u = t.vWr c.agent (fun w => { w with
        buf := (List.range 4).foldl (fun b k => spPut 0 b (off + k) (v.bytes.getD k 0)) w.buf, len := Nat.max w.len (off + 4) }) ∧
      exec (.vltWinAccess c (some v)) s = .next (u.wr (VLT_WINOFF c.agent) (t.rd (VLT_WINOFF c.agent) + 1))) ∧
    (∀ j u, s.vlt.jobs.find? (fun j => decide (j.changed ≠ [])) = some j → s.kWaits = false → s.holdoff = false →
      s.sys.mode.main = true → u = { s with vlt := { s.vlt with jobs := s.vlt.jobs.erase j } } →
      (∀ w, u.shadowWrite j.changed = some w → exec .shadowUpdateCommit s = .next (w.vJobEnd j j.code).vNext) ∧
      (u.shadowWrite j.changed = none → exec .shadowUpdateCommit s = .next (u.vJobEnd j 15).vNext)) ∧
    (s.isSet RNG_STAT_FAIL = false → s.mainUp = true → s.vlt.pass = false → Nat.max 256 (s.rd VLT_CFG_REMASK_PER) ≤ s.vlt.ticks →
      exec .remaskPassStart s = .next { s with vlt := { s.vlt with pass := true, ticks := 0 } })

/-! ## The Store Room (R343 to R367) -/

/-- A core's WRITE to a region that it writes: placed, refused, or waiting for a move (R356, R357); its INVALIDATE removes the
entry equal in region, key, mask and priority (R360); an update behind one that waits for the same region, or is its own, waits
behind it (R350); its search answers the state, the result and the index (R349), BUSY in region C (the model's reading of R15 and
R367, log entry 76); an update of a region of another writer is refused with NOTOWNER and MISUSE (R344); a waiting insert is tried
again in its turn (R357, R367); slack runs a move's next step (R351, R358). -/
def Obligations.StoreRoomActs : Prop :=
  ∀ (s t : State) (c : CpuId) (e : SEntry) (p : Bool), t = s.strongIssue c → e = t.updEntry c → p = t.isSet (STR_UATTR_PLACE c) →
    (s.coreRuns c = true → t.strWriter e.region (.cpu c) = true → t.strUpd e.region = true →
      t.str.wait.any (fun v => v.ent.region == e.region || v.req == .cpu c) = false →
      (∀ i u, t.strInsert ⟨.cpu c, e, p, false⟩ false = (.done i, u) → exec (.strWrite c) s = .next u) ∧
      (∀ k u, t.strInsert ⟨.cpu c, e, p, false⟩ false = (.refused k, u) →
        exec (.strWrite c) s = .next (u.strReport (.cpu c) 3 k 0)) ∧
      (∀ u, t.strInsert ⟨.cpu c, e, p, false⟩ false = (.waits, u) → exec (.strWrite c) s =
        .next ({ u with str := { u.str with wait := u.str.wait ++ [(⟨.cpu c, e, p, false⟩ : SUpd)] } }.strReport (.cpu c) 1 0 0)) ∧
      (∀ i x, (t.sList e.region).find? (fun x => x.2.valid && x.2.key == e.key && x.2.mask == e.mask && x.2.prio == e.prio) =
          some (i, x) →
        exec (.strInvalidate c) s =
          .next (((t.sClear i).strFinish (.cpu c) i (if x.keep then some (.invalidate (t.logIdx i)) else none)).raStale e.region))) ∧
    (s.coreRuns c = true → t.strWriter e.region (.cpu c) = true → t.strUpd e.region = true →
      t.str.wait.any (fun v => v.ent.region == e.region || v.req == .cpu c) = true →
      exec (.strWrite c) s =
        .next ({ t with str := { t.str with wait := t.str.wait ++ [(⟨.cpu c, e, p, false⟩ : SUpd)] } }.strReport (.cpu c) 1 0 0) ∧
      exec (.strInvalidate c) s =
        .next ({ t with str := { t.str with wait := t.str.wait ++ [(⟨.cpu c, e, false, true⟩ : SUpd)] } }.strReport (.cpu c) 1 0 0)) ∧
    (s.coreRuns c = true → t.strWriter e.region (.cpu c) = false →
      t.str.wait.any (fun v => v.req == .cpu c) = false →
      exec (.strWrite c) s = .next (((t.setb STR_ERR_NOTOWNER).strReport (.cpu c) 3 2 0).misuse) ∧
      exec (.strInvalidate c) s = .next (((t.setb STR_ERR_NOTOWNER).strReport (.cpu c) 3 2 0).misuse)) ∧
    (∀ r key a u, s.coreRuns c = true → key = keyOf ((finList 5).map (fun k => BitVec.ofNat 32 (t.rd (STR_KEY c k)))) →
      (if r = .c then (SAns.busy, t) else t.strSearch r key) = (a, u) →
      exec (.coreSearch c r) s = .next (u.wrs [(STR_SSTAT_STATE c, if a.isBusy then 3 else 2), (STR_SRES c, a.result.toNat),
        (STR_SIDX c, (a.idxWord t.tick.frame).toNat)])) ∧
    (∀ u d i w, s.str.wait = [u] → s.strUpd u.ent.region = true → u.req = .cpu d → u.inval = false →
      s.strInsert u true = (.done i, w) →
      exec .insertResume s = .next ({ w with str := { w.str with wait := w.str.wait.erase u } }.strBusy (.cpu d)).vSettle.vNext) ∧
    (∀ u, s.tick.phase = .slack → s.str.slots < s.moveBudget → s.moveStep = some u →
      exec (.blockMove 1) s = .next { u with str := { u.str with slots := u.str.slots + 1 } })

/-! ## The public-key engine (R368 to R393) -/

/-- Level 1 primitives on operands that R379 admits, in an engine that runs nothing else: the engine runs the block's operation,
its output shelves read 0 (R375), and what it will release at its end is, MADD (A + B) mod M, MSUB (A − B) mod M, MMUL A·B mod
M, MRED A mod M, MEXP A^B mod M, COPY A, CMP the order of A and B, MINV the number whose product with A is 1 mod M, or NOINV
with 0 where A shares a factor with M (R379). -/
def Obligations.PkePrimitives : Prop :=
  ∀ (s u : State) (r : EngReq) (op blk : Nat) (a : PkeArgs) (l A B C M z : Nat),
    s.pkeAsk r op = some (u, blk, a) → u.pkeServes op a = true → u.pkeFree r = true → l = 4 * a.nw.toNat →
    A = a.sa.toNat → B = a.sb.toNat → C = a.sc.toNat → M = a.sd.toNat → z = u.shelfSpan l * u.shelfBytes →
    (∀ x y m, x = u.shelfNat A l → y = u.shelfNat B l → m = u.shelfNat M l → m % 2 = 1 → 1 < m → x < m →
      (∀ i v, (i = Instr.madd r ∧ op = 1 ∧ y < m ∧ v = (x + y) % m) ∨ (i = Instr.msub r ∧ op = 2 ∧ y < m ∧ v = (x + (m - y)) % m) ∨
          (i = Instr.mmul r ∧ op = 3 ∧ y < m ∧ v = x * y % m) ∨ (i = Instr.mexp r ∧ op = 6 ∧ v = x ^ y % m) →
        ∃ t o, exec i s = .next t ∧ t.pkeRuns r op blk a o ∧ o.code = 0 ∧ o.cmp = 0 ∧ o.out = [u.shelfOut C l v] ∧
          t.mem = (u.putBytes (shelfBase + u.shelfOff C) (List.replicate z 0)).mem)) ∧
    (∀ x m, op = 4 → x = u.shelfNat A (2 * l) → m = u.shelfNat M l → m % 2 = 1 → 1 < m →
      ∃ t o, exec (.mred r) s = .next t ∧ t.pkeRuns r 4 blk a o ∧ o.code = 0 ∧ o.out = [u.shelfOut C l (x % m)] ∧
        t.mem = (u.putBytes (shelfBase + u.shelfOff C) (List.replicate z 0)).mem) ∧
    (∀ x m, op = 5 → x = u.shelfNat A l → m = u.shelfNat M l → m % 2 = 1 → 1 < m → x < m →
      ∃ t o, exec (.minv r) s = .next t ∧ t.pkeRuns r 5 blk a o ∧
        t.mem = (u.putBytes (shelfBase + u.shelfOff C) (List.replicate z 0)).mem ∧
        (∀ v, v < m → x * v % m = 1 → o.code = 0 ∧ o.out = [u.shelfOut C l v]) ∧
        (Nat.gcd x m ≠ 1 → o.code = 12 ∧ o.out = [u.shelfOut C l 0])) ∧
    (∀ x y, op = 7 → x = u.shelfNat A l → y = u.shelfNat B l →
      ∃ t o, exec (.cmp r) s = .next t ∧ t.pkeRuns r 7 blk a o ∧ o.code = 0 ∧ o.out = [] ∧ t.mem = u.mem ∧
        o.cmp = if x = y then 0 else if x < y then 1 else 2) ∧
    (∀ x, op = 8 → x = u.shelfNat A l →
      ∃ t o, exec (.copy r) s = .next t ∧ t.pkeRuns r 8 blk a o ∧ o.code = 0 ∧ o.out = [u.shelfOut C l x] ∧
        t.mem = (u.putBytes (shelfBase + u.shelfOff C) (List.replicate z 0)).mem)

/-- Programs, in an engine that runs nothing else. ECDSA_VERIFY (R382), POINT_CHECK (R384) and RSA_VERIFY (R383) come to what
their operands give. ECDSA_SIGN_CHECKED (R381), ECDH (R387) and KEYGEN for a Vault writer (R327, R378) stand in the S-pipe with
a sealed context: the secret under a mask, its multiplier blinded by a fresh 64-bit multiple of the order, a random starting Z
(R369, R370). The GEN command of a core starts KEYGEN where none of R327's refusals holds. -/
def Obligations.PkeProgramsAct : Prop :=
  (∀ (s u w v : State) (r : EngReq) (op blk : Nat) (a : PkeArgs) (c : Curve) (k : PkeRes) (i : Nat),
    s.pkeAsk r op = some (u, blk, a) → u.pkeServes op a = true → u.pkeFree r = true → w = u.pkeAlone r op blk a →
    (∀ e q, op = 0x11 → Curve.ofCode a.curve.toNat = some c → e = c.digest (u.shelfGet a.sa.toNat (4 * a.nw.toNat)) →
      q = u.shelfPoint a.sc.toNat c →
      (∀ p, a.src = true → p = u.shelfPoint a.sb.toNat c → ∃ t o, exec (.ecdsaVerify r) s = .next t ∧ t.pkeRuns r 0x11 blk a o ∧
        t.mem = u.mem ∧ o.code = if c.valid p.1 p.2 = false then 2 else if c.verify (some p) e q.1 q.2 then 0 else 1) ∧
      (a.src = false → w.pkeKey a 1 (0x20 + a.curve.toNat) = (k, some i, v) → k.ecc = false →
        ∃ t o, exec (.ecdsaVerify r) s = .next t ∧ t.pkeRuns r 0x11 blk a o ∧
          o.code = if c.verify (some (v.vPoint i)) e q.1 q.2 then 0 else 1)) ∧
    (∀ p, op = 0x14 → Curve.ofCode a.curve.toNat = some c → p = u.shelfPoint a.sa.toNat c →
      ∃ t o, exec (.pointCheck r) s = .next t ∧ t.pkeRuns r 0x14 blk a o ∧ t.mem = u.mem ∧
        o.code = if c.valid p.1 p.2 then 0 else 2) ∧
    (∀ h l n e, op = 0x15 → rsaHash a.nw.toNat = some h → l = rsaLen a.curve.toNat → a.src = true → n = u.shelfNat a.sb.toNat l →
      e = u.shelfNat a.sd.toNat 4 → e % 2 = 1 → 3 ≤ e → 2 ^ (8 * l - 1) ≤ n →
      ∃ t o, exec (.rsaVerify r) s = .next t ∧ t.pkeRuns r 0x15 blk a o ∧ t.mem = u.mem ∧
        o.code = if rsaVerify a.pss h (u.shelfGet a.sa.toNat h.len) l n e (u.shelfNat a.sc.toNat l) then 0 else 1) ∧
    (∀ d, op = 0x10 → Curve.ofCode a.curve.toNat = some c → w.pkeKey a 0 (0x10 + a.curve.toNat) = (k, some i, v) → k.ecc = false →
      v.pairActive i = true → d = beNat (v.vValue i) → d < 2 ^ 576 →
      ∃ t o, exec (.ecdsaSignChecked r) s = .next t ∧ t.pkeRuns r 0x10 blk a o ∧ o.key = some (i, (v.vEnt i).gen) ∧
        o.ctx = some 0 ∧ o.digest = c.digest (u.shelfGet a.sa.toNat (4 * a.nw.toNat)) ∧ t.zScalar 0 = d ∧ t.zGet 0 2 < 2 ^ 64 ∧
        ∃ n, 0 < n ∧ n < c.n ∧ t.zBlind 0 = n + t.zGet 0 2 * c.n) ∧
    (∀ p d, op = 0x12 → Curve.ofCode a.curve.toNat = some c → w.pkeKey a 2 (0x10 + a.curve.toNat) = (k, some i, v) → k.ecc = false →
      p = u.shelfPoint a.sa.toNat c → d = beNat (v.vValue i) → d < 2 ^ 576 →
      (c.valid p.1 p.2 = true → ∃ t o, exec (.ecdh r) s = .next t ∧ t.pkeRuns r 0x12 blk a o ∧ o.ctx = some 0 ∧
        o.key = some (i, (v.vEnt i).gen) ∧ t.zScalar 0 = d ∧ t.zGet 0 2 < 2 ^ 64 ∧ t.zBlind 0 = d + t.zGet 0 2 * c.n) ∧
      (c.valid p.1 p.2 = false → ∃ t, exec (.ecdh r) s = .next t ∧ t.eng.pke = []))) ∧
  (∀ (s : State),
    (∀ (e : Agent) (n : VNew) (c : Curve) a, s.vlt.gen.find? (fun g => decide (g.1 = e)) = some (e, n) →
      s.pkeFree (.vault e) = true → a = (⟨BitVec.ofNat 4 n.type.toNat, false, false, 0, n.role, n.keyid, 0, 0, 0, 0⟩ : PkeArgs) →
      s.pkeServes 0x13 a = true → Curve.ofCode a.curve.toNat = some c →
      ∃ t o, exec (.keygen (.vault e)) s = .next t ∧ t.pkeRuns (.vault e) 0x13 0 a o ∧ o.ctx = some 0 ∧
        0 < t.zScalar 0 ∧ t.zScalar 0 < c.n ∧ t.zGet 0 2 < 2 ^ 64 ∧ t.zBlind 0 = t.zScalar 0 + t.zGet 0 2 * c.n) ∧
    (∀ (c : CpuId) t n, s.coreRuns c = true → t = s.strongIssue c → n = t.vStaged c.agent → t.rd (VLT_STAT_STATE c.agent) ≠ 1 →
      t.vIdle = true → t.vlt.waiting = [] →
      (t.vGenCheck n ≠ 0 → exec (.vltGenCmd c) s = .next ((t.vBusy (.agent c.agent)).vEnd (.agent c.agent) (t.vGenCheck n) 0)) ∧
      (∀ a, t.vGenCheck n = 0 → t.pkeFree (.vault c.agent) = true →
        a = (⟨BitVec.ofNat 4 n.type.toNat, false, false, 0, n.role, n.keyid, 0, 0, 0, 0⟩ : PkeArgs) → t.pkeServes 0x13 a = true →
        ∃ w o, exec (.vltGenCmd c) s = .next w ∧ w.rd (VLT_STAT_STATE c.agent) = 1 ∧ w.vlt.gen = [(c.agent, n)] ∧
          w.pkeRuns (.vault c.agent) 0x13 0 a o)))

/-- The end of an operation's part in the pipe that serves it (R372, R385, R386): a P-pipe operation's output stands in its
shelves and its status is shown; an S-pipe program's candidate passes the hand-off port with the public point; its check that
fails withholds the result, shows what failed and raises PKE_FAULT; a key that changed meanwhile ends it with KEY; otherwise the
result is released, a new key pair goes to the Vault. ABORT marks the channel's operation (R393); the first program that waits
takes a free context (R370); a core's store to a shelf that no operation uses lands, to a busy one it is ignored with SHELF and
MISUSE (R375); a new shelf length takes effect at the boundary once the engine is empty (R373; log entry 81). -/
def Obligations.PkeEndsAct : Prop :=
  ∀ (s : State) (c : CpuId),
    (∀ (r : EngReq) o fault, s.pkeOf r = some o → (s.pkeHead (o.spipe && !o.handed)).map PkeOp.id = some o.id → o.ends = none →
      (o.spipe = false → o.code ≠ 2 → exec (.pkeOpComplete r fault) s =
        .next ((o.out.foldl (fun s e => s.putBytes (shelfBase + e.1) e.2) s).pkeLeave o o.code 0 o.cmp).vNext) ∧
      (o.spipe = false → o.code = 2 →
        exec (.pkeOpComplete r fault) s = .next ((s.pkeLeave o 2 0 0).bump PKE_CNT_POINTINV).vNext) ∧
      (∀ z cv x v ok w h, o.spipe = true → o.handed = false → o.ctx = some z → Curve.ofCode o.args.curve.toNat = some cv →
        (x, v) = (if o.op = 0x10 then State.zSignRun z cv o.digest 8 s else (s.zMul z cv, s)) →
        (ok, false, w) = (if o.op = 0x10 then v.vUseEntry (match o.key with | some k => (v.vEnt k.1).pair.toNat | none => 0)
          else (true, false, v)) →
        h = (⟨o.id, if fault then none else x,
          if o.op = 0x10 then some (w.vPoint (match o.key with | some k => (v.vEnt k.1).pair.toNat | none => 0)) else none⟩ : HandOff) →
        (ok = true → exec (.pkeOpComplete r fault) s = .next (({ w with eng := { w.eng with work := w.eng.work ++ [h] } }.pkeUpd o.id
          (fun o => { o with handed := true, parked := true })).pkeStates).vNext) ∧
        (ok = false → exec (.pkeOpComplete r fault) s = .next (w.pkeLeave o 4 4 0).vNext)) ∧
      (∀ h cv, o.spipe = true → o.handed = true → s.eng.work.find? (fun h => decide (h.id = o.id)) = some h →
        Curve.ofCode o.args.curve.toNat = some cv →
        (fault = true ∨ h.ok cv o.op o.digest = false → exec (.pkeOpComplete r fault) s = .next (s.pkeFault o).vNext) ∧
        (∀ k, fault = false → h.ok cv o.op o.digest = true → o.key = some k → s.vStill k = false →
          exec (.pkeOpComplete r fault) s = .next (s.pkeLeave o 4 3 0).vNext) ∧
        (∀ x, fault = false → h.ok cv o.op o.digest = true → (∀ k, o.key = some k → s.vStill k = true) → h.cand = some x →
          (∀ a, o.req ≠ .vault a) → exec (.pkeOpComplete r fault) s =
            .next (((s.pkeProgOut o cv x).foldl (fun s e => s.putBytes (shelfBase + e.1) e.2) s).pkeLeave o 0 0 0).vNext) ∧
        (∀ x a z, fault = false → h.ok cv o.op o.digest = true → (∀ k, o.key = some k → s.vStill k = true) → h.cand = some x →
          o.req = .vault a → o.ctx = some z →
          exec (.pkeOpComplete r fault) s = .next ((s.pkeDrop o).pkeStates.vGenDone a (s.zScalar z) x.1 x.2).vNext))) ∧
    (∀ t, s.coreRuns c = true → t = s.strongIssue c → exec (.pkeAbort c) s = .next { t with eng := { t.eng with
      pke := t.eng.pke.map (fun o => if o.req = .direct c then { o with ends := some (o.ends.getD 10) } else o) } }) ∧
    (∀ o k, s.eng.pke.find? (fun o => o.spipe && o.ctx.isNone && o.ends.isNone) = some o → s.ctxFree = some k →
      exec .pkeContextClaim s = .next { s with eng := { s.eng with
        pke := s.eng.pke.map (fun (x : PkeOp) => if x.id = o.id then { x with ctx := some k } else x) } }.pkeStates) ∧
    (∀ (i : Fin 4096) (w : Word) t, s.coreRuns c = true → t = s.strongIssue c → 4 * i.val < t.shelfCount * t.shelfBytes →
      (t.shelfBusy (4 * i.val) = false → exec (.shelfStore c i w) s = .next (t.putW (shelfBase + 4 * i.val) w)) ∧
      (t.shelfBusy (4 * i.val) = true → exec (.shelfStore c i w) s = .next ((t.setb PKE_ERR_SHELF).misuse))) ∧
    (∀ e, s.eng.pke = [] → s.shadow = [e] → e.fld = PKE_SHELFCFG_LEN → s.eng.lenDue = true → s.tick.phase = .harvest →
      s.isSet TICK_STAT_RUN = true → exec .shelfLenCommit s = .next ({ s.wr PKE_SHELFCFG_LEN e.val.toNat with
        shadow := [], eng := { s.eng with lenDue := false } }.wr PKE_STAT_SHELFPEND 0)) ∧
    (s.eng.lenDue = false ∨ s.tick.phase ≠ .harvest → exec .shelfLenCommit s = .next s)

/-! ## The symmetric engine and the random source (R394 to R415) -/

/-- Commands of the symmetric engine that it serves, in an engine that runs nothing else: a first part claims its context
(R408), and the engine holds the command with its result until it is done; a Vault key's schedule stands under a fresh mask
(R404). With a clear key, ECB, CBC, CTR and GCM come to what chapter 14 says, and SHA to the digest (R399 to R402). The end of a
command: its bytes are written, its context follows, its status shows (R406); an ABORT marks the channel's command, or frees the
context its block names (R408). -/
def Obligations.SymCommandsAct : Prop :=
  (∀ (s u w : State) (r : EngReq) (op blk : Nat) (a : SymArgs) (clean : Bool) (i : Instr) (n : Fin 8) (ctx : Option SymCtx),
    s.symAsk r op = some (u, blk, a, clean) → u.symServes r op a clean = true → u.symFreeFor r = true →
    w = u.symAlone r op blk a → n = finOf 8 a.ctx.toNat → ctx = (if symMulti op ∧ a.first = false then u.eng.ctx.at n else none) →
    (i, op) ∈ [(Instr.ecbEnc r, 1), (.ecbDec r, 2), (.cbcEnc r, 3), (.cbcDec r, 4), (.ctr r, 5), (.cmacGen r, 6), (.cmacChk r, 7),
      (.gcmEnc r, 8), (.gcmDec r, 9), (.sha256 r, 0x10), (.sha384 r, 0x11), (.sha512 r, 0x12), (.hmac256Gen r, 0x18),
      (.hmac384Gen r, 0x19), (.hmac512Gen r, 0x1A), (.hmac256Chk r, 0x1C), (.hmac384Chk r, 0x1D), (.hmac512Chk r, 0x1E),
      (.kdf r, 0x20)] →
    (∀ (x : SymRes) (kdf : Option VNew) key v, w.symBegin op a ctx = (x, kdf, key, v) → symRefusal x.code = false → x.ecc = false →
      ∃ (t : State) (o : SymOp), exec i s = .next t ∧ t.eng.sym = [o] ∧ o.req = r ∧ o.op = op ∧ o.args = a ∧ o.started = true ∧
        o.parked = false ∧ o.out = x.out ∧ o.code = x.code ∧ o.kdf = kdf ∧ t.mem = v.mem ∧
        o.ctx = (if !symMulti op then none else if a.last then some none
          else some (x.run.map (fun run => { req := r, op := op, key := x.key, run := run }))) ∧
        (symMulti op = true → a.first = true → symCtxOf (t.eng.ctx.at n) r = true) ∧
        (symSha op = false → a.ksrc = 0 ∨ op = 0x20 →
          ∃ m, o.mask = some m ∧ xorB m.sched (m.key.flatMap Word.bytes) = symSchedule op key)) ∧
    (∀ key msg, a.ksrc = 1 → a.klen ≠ 3 → w.symShelfBusy op a = false → key = u.busBytes a.kadr.toNat (16 + 8 * a.klen.toNat) →
      msg = u.busBytes a.src.toNat a.len.toNat →
      (∀ l, (op = 1 ∧ l = ecbEnc key msg) ∨ (op = 2 ∧ l = ecbDec key msg) ∨
          (op = 3 ∧ a.first = true ∧ l = (cbcEnc key (u.busBytes a.padr.toNat 16) msg).1) ∨
          (op = 4 ∧ a.first = true ∧ l = (cbcDec key (u.busBytes a.padr.toNat 16) msg).1) ∨
          (op = 5 ∧ a.first = true ∧ l = (ctrMode 16 key (u.busBytes a.padr.toNat 16) msg).1) ∨
          (op = 8 ∧ ∃ non aad txt tag, non = u.busBytes a.padr.toNat 12 ∧ aad = u.busBytes a.src.toNat a.aadlen.toNat ∧
            txt = gcmText key non (u.busBytes (a.src.toNat + a.aadlen.toNat) a.len.toNat) ∧ tag = gcmTag key non aad txt ∧
            l = txt ++ tag.take 16) →
        ∃ (t : State) (o : SymOp), exec i s = .next t ∧ t.eng.sym = [o] ∧ o.req = r ∧ o.op = op ∧ o.started = true ∧ o.code = 0 ∧
          o.out = [(a.dst.toNat, l)])) ∧
    (symSha op = true → a.first = true → a.last = true → w.symShelfBusy op a = false →
      ∃ (t : State) (o : SymOp), exec i s = .next t ∧ t.eng.sym = [o] ∧ o.req = r ∧ o.op = op ∧ o.started = true ∧ o.code = 0 ∧
        o.out = [(a.dst.toNat, (symHash op).digest (u.busBytes a.src.toNat a.len.toNat))])) ∧
  (∀ (s : State) (c : CpuId),
    (∀ (r : EngReq) o w, s.symOf r = some o → s.symHead.map SymOp.id = some o.id → o.ends = none → o.op ≠ 0x20 →
      w = o.out.foldl State.symPut s →
      exec (.symOpComplete r) s = .next ((match o.ctx with
        | some k => w.setCtx (finOf 8 o.args.ctx.toNat) k
        | none => w).symLeave o o.code 0)) ∧
    (∀ t, s.coreRuns c = true → t = s.strongIssue c → (t.symOf (.direct c)).isSome = true →
      exec (.symAbort c) s = .next { t with eng := { t.eng with sym := t.eng.sym.map (fun o =>
        if o.req = .direct c then { o with ends := some (o.ends.getD 6) } else o) } }) ∧
    (∀ t n, s.coreRuns c = true → t = s.strongIssue c → t.symOf (.direct c) = none →
      n = finOf 8 (symArgs (t.symWords (.direct c) 0)).2.ctx.toNat → symCtxOf (t.eng.ctx.at n) (.direct c) = true →
      exec (.symAbort c) s = .next (t.setCtx n none)))

/-- The random source: a health test's failure counts, blocks the DRBG and raises RNG_FAIL, the third within 1000 ticks latches
DEAD (R414); a restart ends the failure unless DEAD (R414); a reseed once its time or its requests are reached (R412); a load of
RNG_OUT answers a word of the DRBG while its buffer holds one, and 0 with EMPTY while it holds none, or while RNG_FAIL is active
(R413, R415). The words themselves are free values (log entry 2). -/
def Obligations.RandomSourceActs : Prop :=
  ∀ (s : State),
    (∀ apt fails, s.mainUp = true → fails = s.eng.fails.filter (fun f => decide (s.tick.frame < f + 1000)) ++ [s.tick.frame] →
      ∃ t, t = ((if apt then s.bump RNG_CNT_APT else s.bump RNG_CNT_RCT)).setb RNG_STAT_FAIL ∧
        exec (.rngHealthFail apt) s =
          .next (if 3 ≤ fails.length then ({ t.setb RNG_STAT_DEAD with eng := { t.eng with fails := fails } }).raise 0x23
            else ({ t with eng := { t.eng with fails := fails } }).raise 0x23)) ∧
    (s.mainUp = true → s.isSet RNG_STAT_DEAD = false → s.rngBlocked = true →
      exec .rngRestartComplete s = .next ((s.wr RNG_STAT_FAIL 0).rngSeed)) ∧
    (s.mainUp = true → s.rngBlocked = false → s.eng.seedAt + 1000000 * Nat.max 10 (s.rd RNG_CFG_RESEED_MS) ≤ s.cel.elapsed ∨
        1024 * orElse0 (s.rd RNG_CFG_RESEED_REQ) 64 ≤ s.eng.reqs →
      ∃ t, exec .drbgReseed s = .next t ∧ t.eng = { s.eng with reqs := 0, seedAt := s.cel.elapsed, rngOut := 16 } ∧
        t.rd RNG_STAT_EMPTY = 0) ∧
    (∀ c t, s.coreRuns c = true → t = s.strongIssue c →
      (t.rngBlocked = true → exec (.rngOutRead c) s = .next (t.loaded c 0)) ∧
      (t.rngBlocked = false → t.eng.rngOut = 0 → exec (.rngOutRead c) s = .next ((t.loaded c 0).setb RNG_STAT_EMPTY)) ∧
      (t.rngBlocked = false → t.eng.rngOut ≠ 0 → exec (.rngOutRead c) s = .next ({ t with
        draws := t.draws + 1
        eng := { t.eng with reqs := t.eng.reqs + 1, rngOut := t.eng.rngOut - 1 } }.loaded c (Config.drbg t.draws))))

/-! ## The Larder (R416 to R432) -/

/-- A core's commands to the Larder: an increment writes the next slot of the counter's ring with value and sequence (R425), and
is refused by code otherwise (R427); a ring change (R424); a save writes the group's snapshot (R431), HELD through hold-off
(R422); a store to the application area (R418), outside it MISUSE (R419); the end of hold-off (R422). -/
def Obligations.LarderActs : Prop :=
  ∀ (s t : State) (c : CpuId), t = s.strongIssue c →
    (∀ k a, s.coreRuns c = true → ctrOfCores k = true → t.ctrBound k = false → t.holdoff = false → (t.nv.ring.at k).slots ≠ 0 →
      (t.nv.ring.at k).noValid = false → a = t.rd (LDR_INCAMT c) → a ≠ 0 → (t.ctrSlot k).value + a < 2 ^ 64 →
      exec (.counterIncrement c k) s =
        .next ((t.ctrWrite k ((t.ctrSlot k).value + a) ((t.ctrSlot k).seq + 1)).wr (LDR_INCSTAT c) 0)) ∧
    (∀ k, s.coreRuns c = true →
      (ctrOfCores k = false → exec (.counterIncrement c k) s = .next (t.wr (LDR_INCSTAT c) 2)) ∧
      (ctrOfCores k = true → t.ctrBound k = true → exec (.counterIncrement c k) s = .next (t.wr (LDR_INCSTAT c) 3)) ∧
      (ctrOfCores k = true → t.ctrBound k = false → t.holdoff = true →
        exec (.counterIncrement c k) s = .next (t.wr (LDR_INCSTAT c) 6))) ∧
    (∀ k (n : Fin 512), s.coreRuns c = true → t.rwsOpen = true → exec (.ringConfig c k n) s = .next (t.ringSet k n.val).2) ∧
    (∀ g : Fin 8, s.coreRuns c = true → g ≠ 7 →
      (t.holdoff = false → exec (.paramSave c g) s =
        .next ((t.paramWrite g (t.snapshot g)).wrs [(LDR_PSTAT_STATE c, 2), (LDR_PSTAT_CODE c, 0)])) ∧
      (t.holdoff = true → exec (.paramSave c g) s = .next (t.wrs [(LDR_PSTAT_STATE c, 3), (LDR_PSTAT_CODE c, 6)]))) ∧
    (∀ (off : BitVec 18) w v, s.coreRuns c = true → off.toNat % w.bytes = 0 →
      (ldrApp off.toNat = true → t.holdoff = false →
        exec (.larderStore c off w v) s = .next (t.putBytes (ldrBase + off.toNat) (v.bytes.take w.bytes))) ∧
      (ldrApp off.toNat = true → t.holdoff = true → exec (.larderStore c off w v) s = .next (t.setb LDR_ERR_HELD)) ∧
      (ldrApp off.toNat = false → exec (.larderStore c off w v) s = .next ((t.setb LDR_ERR_MISUSE).misuse))) ∧
    (s.holdoff = true → (s.watch.src.at 0x16).trip = false → ∃ u, u = s.wrs [(LDR_STAT_HOLDOFF, 0), (LDR_STAT_SCRUB, 1)] ∧
      exec .holdoffEnd s = .next ((((({ u with care := { u.care with larderPtr := 0 } }.incsGo).savesGo).laterGo).commitsGo
        ).trimsGo.switchesGo.strHeldFlush))

/-! ## The Archive (R433 to R454) -/

/-- A core's transaction: OPEN with N = 0 at once, with N the block's BEGIN unit where the area has room (R445); CTR stages an
increment (R447); COMMIT writes the journal record, the counters and APPLIED (R448), or waits through hold-off or for its
journal slot (log entry 101); ABORT discards (R450); TRIM moves HEAD (R444). The banks: erase-ahead moves HEAD out of the area's
next sector, marks it INCOMPLETE and erases it (R443); the end of an erase leaves it erased, counts the wear and lets what waits
go on (R433, R436); the end of a program leaves the unit's bytes and what follows it (R433); an erase that a read suspended
resumes (R435). -/
def Obligations.ArchiveActs : Prop :=
  (∀ (s u : State) (c : CpuId) (t : Fin 16), s.coreRuns c = true → u = s.strongIssue c → u.rd (ARC_TSTAT_STATE c) ≠ 1 →
    (∀ k, u.nv.txn.at t = none → u.sys.mode.arcOpen = true →
      exec (.arcOpen c t k 0) s = .next ((u.setTxn t (some { owner := c, area := k, n := 0 })).arcEnd c 0)) ∧
    (∀ k (n : Fin 32) x b, u.nv.txn.at t = none → u.sys.mode.arcOpen = true → n.val ≠ 0 → n.val ≤ 16 →
      u.isSet (ARC_AREA_EN k) = true → u.areaBusy k = false → x = ({ owner := c, area := k, n := n.val } : Txn) →
      u.blockPlace k n.val = some b → exec (.arcOpen c t k n) s = .next ((u.openGo t x b).arcWait c)) ∧
    (∀ x k l, u.txnOf c t = some x → x.committing = false → l = stageAmt x.ctrs k (u.rd (ARC_TARG c)) → l.length ≤ 4 →
      ctrOfCores k = true → u.ctrBound k = false → u.rd (ARC_TARG c) ≠ 0 →
      exec (.arcCtr c t k) s = .next ((u.setTxn t (some { x with ctrs := l })).arcEnd c 0)) ∧
    (∀ x, u.txnOf c t = some x → u.commitCheck t x = 0 → u.holdoff = false → u.slotBusy = false →
      exec (.arcCommit c t) s = .next (u.commitNow c t x)) ∧
    (∀ x, u.txnOf c t = some x → u.commitCheck t x = 0 → u.holdoff = true ∨ u.slotBusy = true →
      exec (.arcCommit c t) s = .next ({ (u.setTxn t (some { x with committing := true })).arcWait c with
        ldr := { u.ldr with commits := u.ldr.commits ++ [(some c, t)] } })) ∧
    (∀ x, u.txnOf c t = some x → x.committing = false → u.bound t (fun st => st == 2 || st == 3) = false →
      exec (.arcAbort c t) s = .next ((u.setTxn t none).arcEnd c 0)) ∧
    (∀ k, u.trimCheck k (u.rd (ARC_TARG c)) = 0 → u.holdoff = false →
      exec (.arcTrim c k) s = .next ((u.headMove k (u.rd (ARC_TARG c))).arcEnd c 0)) ∧
    (u.txnOf c t = none → ∀ k, exec (.arcCtr c t k) s = .next (u.arcEnd c 2) ∧ exec (.arcCommit c t) s = .next (u.arcEnd c 2) ∧
      exec (.arcAbort c t) s = .next (u.arcEnd c 2))) ∧
  (∀ (s : State),
    (∀ k x b, s.mainUp = true → s.isSet (ARC_AREA_EN k) = true → s.holdoff = false → s.eraseNext k = some x →
      b = bankOf (0x1000 * x) → s.bank.at b = .idle →
      ∃ h, h = (if sectorOf (s.nv.area.at k).head = x ∧ (s.nv.area.at k).head ≠ (s.nv.area.at k).resv then
          s.headMove k (s.headBeyond k x) else s) ∧
        exec (.eraseAhead k) s = .next ({ h with
          bank := s.bank.put b (.erase x false 0)
          nv := { h.nv with incomplete := if s.nv.incomplete.contains x then s.nv.incomplete else s.nv.incomplete ++ [x] } }.openRetry)) ∧
    (∀ b x n u, s.bank.at b = .erase x false n → u = s.arcErase x →
      exec (.sectorEraseComplete b) s = .next ((({ u with
        bank := s.bank.put b .idle
        nv := { u.nv with incomplete := u.nv.incomplete.filter (fun y => decide (y ≠ x)) } }.wearUp x).openRetry).bankKick b)) ∧
    (∀ b p rest o, s.bank.at b = .program o → s.progs.at b = p :: rest →
      exec (.programUnitComplete b) s = .next ((((({ s with bank := s.bank.put b .idle, progs := s.progs.put b rest }.arcPut p.off
        p.bytes).progFin p.fin).commitsGo).openRetry).bankKick b)) ∧
    (∀ b x n, s.bank.at b = .erase x true n →
      exec (.eraseResume b) s = .next { s with bank := s.bank.put b (.erase x false n) }))

/-! ## The whole block -/

/-- No command stops the block: the spec gives every command of the table an effect, in every state. -/
def Obligations.EveryCommandCompletes : Prop := ∀ (c : Instr) (s : State), ∃ t, exec c s = .next t

/-- No command changes the queue of the commands that wait (log entry 5): what a command does, it does to the rest of the state.
-/
def Obligations.CommandsKeepTheQueue : Prop := ∀ (c : Instr) (s t : State), exec c s = .next t → t.pending = s.pending

/-- Memory keeps its canonical form, strictly rising addresses with no entry at the value an unlisted address reads as, through
every step from every state that has it. -/
def Obligations.MemoryStaysCanonical : Prop := ∀ (s t : State), Memory.wf s.mem = true → step s = .next t → Memory.wf t.mem = true

/-- A fuse bit of LIFE once blown stays blown, whatever is commanded (R80). -/
def Obligations.FusesStayBlown : Prop := ∀ (s t : State), step s = .next t → s.si.life &&& ~~~ t.si.life = 0

/-- The machine right after its first power-on: RISE ahead, RSTCAUSE CELLAR_LOSS (R94, R523), CON off, no session, both cores in
reset, no command waits, memory canonical with nothing listed, time unknown (R468), and every other register at its default. -/
def Obligations.ResetState : Prop :=
  State.reset.sys.mode = .rise ∧ State.reset.sys.begun = false ∧ State.reset.rd SYS_RSTCAUSE_KIND = 2 ∧
    State.reset.rd CEL_FLAGS_TIMEUNK = 1 ∧ State.reset.con.started = false ∧ State.reset.con.session = none ∧
    (State.reset.cpu.at 0).run = false ∧ (State.reset.cpu.at 1).run = false ∧ State.reset.pending = [] ∧ State.reset.mem = [] ∧
    Memory.wf State.reset.mem = true ∧
    ∀ f : Field, f.dflt < 2 ^ 32 → f.key ≠ SYS_RSTCAUSE_KIND.key → f.key ≠ CEL_FLAGS_TIMEUNK.key → State.reset.rd f = f.dflt

/-! ## The console's language (R113 to R125, R148, R149) -/

/-- Every line that spells a form with its operands, with any tag and its check, is read as that form with those operands (R121,
R122, R148, R149): no digit of an operand is dropped. -/
def Obligations.ConsoleLinesRead : Prop :=
  ∀ (s : State) (tag : Byte),
    (∀ p : PortId, s.readsAs tag (txt "PORT P" ++ dec p.val) (.portShow p)) ∧
    (∀ p : PortId, s.readsAs tag (txt "PORT P" ++ dec p.val ++ txt " CLEAR") (.portClear p)) ∧
    (∀ q : QueueId, s.readsAs tag (txt "QUEUE Q" ++ dec q.val) (.queueShow q)) ∧
    (∀ q : QueueId, s.readsAs tag (txt "QUEUE Q" ++ dec q.val ++ txt " FLUSH") (.queueFlush q)) ∧
    (∀ c : CtrId, s.readsAs tag (txt "COUNT CTR" ++ dec c.val) (.countCtr c)) ∧
    (∀ p b, p < 10 ^ 9 → b < 10 ^ 9 →
      s.readsAs tag (txt "TICK SET PER=" ++ dec p ++ txt " BGF=" ++ dec b) (.tickSet (some p) (some b))) ∧
    (∀ n, n < 10 ^ 9 → s.readsAs tag (txt "LOG TAMPER N=" ++ dec n) (.logTamper n)) ∧
    (∀ id : Word, s.readsAs tag (txt "KEY SHOW ID=" ++ hexN 8 id.toNat) (.keyShow id)) ∧
    (∀ id : Word, s.readsAs tag (txt "KEY RETIRE ID=" ++ hexN 8 id.toNat) (.keyRetire id)) ∧
    (∀ id : Word, s.readsAs tag (txt "KEY REVOKE ID=" ++ hexN 8 id.toNat) (.keyRevoke id)) ∧
    (∀ tok : BitVec 16, s.readsAs tag (txt "CONFIRM " ++ hexN 4 tok.toNat) (.confirm tok)) ∧
    (∀ h : BitVec 64, s.readsAs tag (txt "AUTH RESP=" ++ hexN 16 h.toNat) (.authResp h)) ∧
    (∀ l : Fin 6, s.readsAs tag (txt "AUTH L" ++ dec l.val) (.authLevel l))

/-! ## Messages in parts, and stores that wait -/

/-- A message hashed or authenticated in parts, the first a whole number of blocks, gives what the message gives in one part
(R400, R402); HMAC's inner hash is the hash of the padded key and the message; counter mode applied twice from the same counter
block gives the message back (R400). -/
def Obligations.MessagesInParts : Prop :=
  (∀ (h : Hash) v done m1 m2, m1.length % h.block = 0 →
    h.finish (h.absorb (m1.length / h.block) v m1) (done + m1.length) m2 = h.finish v done (m1 ++ m2)) ∧
  (∀ (h : Hash) key msg, h.finish (h.compress h.init (h.ipad key)) h.block msg = h.digest (h.ipad key ++ msg)) ∧
  (∀ (key x m1 m2 : List Byte) bs cs ds, m1.length % 16 = 0 → bs = blocks16 m1 → cs = blocks16 (bs.getLastD [] ++ m2) →
    ds = blocks16 (m1 ++ m2) →
    cmacLast key (cmacChain key (cmacChain key x bs.dropLast) cs.dropLast) (cs.getLastD []) =
      cmacLast key (cmacChain key x ds.dropLast) (ds.getLastD [])) ∧
  (∀ (n : Nat) (key cb m : List Byte), key.length = 16 ∨ key.length = 24 ∨ key.length = 32 → cb.length = 16 → n ≤ 16 →
    (ctrMode n key cb (ctrMode n key cb m).1).1 = m)

/-- A core's load of bytes that its own store still holds back answers the stored value (R296); after its fence W,R the word
stands in memory, and the other core's load of it, with nothing of its own waiting there, answers it too (R298). Memory is in its
canonical form, which every step keeps (MemoryStaysCanonical). -/
def Obligations.StoresSeen : Prop :=
  ∀ (s : State) (c d : CpuId) (i j : CoreAt) (a v : Word) (w : Width), Memory.wf s.mem = true → j.via = .on →
    s.coreRuns c = true → a.toNat % w.bytes = 0 → inSram a.toNat w.bytes = true →
    ((s.cpu.at c).arrive i).pmpOk ((s.cpu.at c).arrive i).dataUser 1 a.toNat w.bytes = true →
    ((s.cpu.at c).arrive i).pmpOk ((s.cpu.at c).arrive i).dataUser 0 a.toNat w.bytes = true →
    ∃ t, exec (.coreStore c i a w v) s = .next t ∧ t.mem = s.mem ∧
      (∃ u, exec (.coreLoad c j a w false 0) t = .next u ∧ (u.cpu.at c).rdata.toNat = v.toNat % 2 ^ (8 * w.bytes) ∧ u.mem = s.mem) ∧
      (∀ f, f.predW = true → f.succR = true → ∃ e, exec (.fence c j f) t = .next e ∧ (e.cpu.at c).sb = [] ∧
        e.getBytes a.toNat w.bytes = v.bytes.take w.bytes ∧
        (d ≠ c → e.coreRuns d = true → (e.cpu.at d).sb = [] →
          ((e.cpu.at d).arrive j).pmpOk ((e.cpu.at d).arrive j).dataUser 0 a.toNat w.bytes = true →
          ∃ g, exec (.coreLoad d j a w false 0) e = .next g ∧ (g.cpu.at d).rdata.toNat = v.toNat % 2 ^ (8 * w.bytes)))
end

