-- ==== Sys2Proof/Laws/Console.lean ====
section
/-!
SUPPORT. Laws/Console.lean: what becomes of a console line that stands for a form: it is performed where it passes steps 3 to 8 of
Table 4.5, and answered with the first error otherwise (R128).
-/
namespace Sys2Proof.Machine

theorem State.conReady_iff (s : State) : s.conReady = true ↔ s.listening = true ∧ s.conBlocked = false := by
  simp [State.conReady]

/-- CON that cannot decide a line leaves the state. -/
theorem State.lineVerb_stay {s : State} (h : s.conReady = false) (l : Line) (v : Verb) : s.lineVerb l v = s := by
  unfold State.lineVerb
  rw [if_pos]
  revert h
  unfold State.conReady
  cases s.listening <;> cases s.conBlocked <;> simp

/-- A line of a form other than CONFIRM, where CON can decide it: its check is asked for, then the form is decided. -/
theorem State.lineVerb_ready {s : State} {v : Verb} (h : s.conReady = true) (hc : v.name ≠ .confirm) (l : Line) :
    s.lineVerb l v = if s.atLine.chkMissing l.chk then s.atLine.replyErr l.tag 13
      else s.atLine.decideForm l.tag l.chk s.con.chal (v, none) := by
  obtain ⟨h1, h2⟩ := s.conReady_iff.1 h
  unfold State.lineVerb State.decideVerb
  simp only [h1, h2, hc, Bool.not_true, Bool.or_self, Bool.false_eq_true, if_false]
  rfl

/-- A line that passes is performed. -/
theorem State.lineVerb_passes {s : State} {l : Line} {v : Verb} (h : s.conReady = true) (hc : v.name ≠ .confirm)
    (hp : s.passes l v = true) : s.lineVerb l v = s.atLine.perform l.tag s.con.chal v := by
  simp only [State.passes, Bool.and_eq_true, Bool.not_eq_true', decide_eq_true_eq, Bool.or_eq_true, Option.isNone_iff_eq_none] at hp
  obtain ⟨⟨⟨⟨h1, h2⟩, h3⟩, h4⟩, h5⟩ := hp
  rw [State.lineVerb_ready h hc, h1, if_neg Bool.false_ne_true]
  unfold State.decideForm
  simp only [h2, h4, Nat.not_lt.2 h3, Bool.not_true, Bool.false_eq_true, if_false]
  rw [if_neg]
  rcases h5 with h5 | h5 <;> simp [h5]

/-- The check is missing: E13. -/
theorem State.lineVerb_check {s : State} {l : Line} {v : Verb} (h : s.conReady = true) (hc : v.name ≠ .confirm)
    (hm : s.atLine.chkMissing l.chk = true) : s.lineVerb l v = s.atLine.replyErr l.tag 13 := by
  rw [State.lineVerb_ready h hc, if_pos hm]

/-- Not legal in the mode: E20. -/
theorem State.lineVerb_mode {s : State} {l : Line} {v : Verb} (h : s.conReady = true) (hc : v.name ≠ .confirm)
    (hm : s.atLine.chkMissing l.chk = false) (hl : s.atLine.legal v = false) :
    s.lineVerb l v = s.atLine.replyErr l.tag 20 := by
  rw [State.lineVerb_ready h hc, hm, if_neg Bool.false_ne_true]
  unfold State.decideForm
  rw [if_pos (by simp [hl])]

/-- Below the form's level: E21. -/
theorem State.lineVerb_level {s : State} {l : Line} {v : Verb} (h : s.conReady = true) (hc : v.name ≠ .confirm)
    (hm : s.atLine.chkMissing l.chk = false) (hl : s.atLine.legal v = true) (hk : s.atLine.level < s.atLine.formLevel v) :
    s.lineVerb l v = s.atLine.replyErr l.tag 21 := by
  rw [State.lineVerb_ready h hc, hm, if_neg Bool.false_ne_true]
  unfold State.decideForm
  rw [if_neg (by simp [hl]), if_pos hk]

/-- A protected form without a check that passes otherwise is held (R140). -/
theorem State.lineVerb_held {s : State} {l : Line} {v : Verb} (h : s.conReady = true) (hc : v.name ≠ .confirm)
    (hm : s.atLine.chkMissing l.chk = false) (hl : s.atLine.legal v = true) (hk : s.atLine.formLevel v ≤ s.atLine.level)
    (ha : s.atLine.argBad v = none) (hp : s.atLine.formProt v = true) (hn : l.chk = false) :
    s.lineVerb l v = s.atLine.holdLine l.tag (.hw v) := by
  rw [State.lineVerb_ready h hc, hm, if_neg Bool.false_ne_true]
  unfold State.decideForm
  simp [hl, Nat.not_lt.2 hk, ha, hp, hn]

end Sys2Proof.Machine
end

