-- ==== Sys2Proof/Laws/Sparse.lean ====
section
/-!
SUPPORT. Laws/Sparse.lean: read after write and the canonical form of the sparse maps; read after write of the registers' list
and of the tables.
-/
namespace Sys2Proof.Machine

/-! ## Sparse maps -/

theorem spAbove_get {α : Type} (d : α) (m : List (Nat × α)) (a b : Nat) (h : spAbove a m = true) (hb : b ≤ a) :
    spGet d m b = d := by
  induction m with
  | nil => rfl
  | cons e t ih =>
    obtain ⟨k, v⟩ := e
    simp only [spAbove, List.all_cons, Bool.and_eq_true, decide_eq_true_eq] at h
    have hk : k ≠ b := by omega
    simp only [spGet, hk, if_false]
    exact ih (by simpa only [spAbove] using h.2)

theorem spAbove_mono {α : Type} {m : List (Nat × α)} {a b : Nat} (h : spAbove a m = true) (hb : b ≤ a) : spAbove b m = true := by
  simp only [spAbove, List.all_eq_true, decide_eq_true_eq] at *
  intro e he
  have := h e he
  omega

theorem spGet_spInsert {α : Type} (d : α) (m : List (Nat × α)) (a b : Nat) (x : α) :
    spGet d (spInsert m a x) b = if a = b then x else spGet d m b := by
  induction m with
  | nil => simp only [spInsert, spGet]
  | cons e t ih =>
    obtain ⟨k, v⟩ := e
    simp only [spInsert]
    split
    · simp only [spGet]
    · split
      · rename_i h1 h2
        subst h2
        simp only [spGet]
        by_cases h : a = b <;> simp [h]
      · rename_i h1 h2
        simp only [spGet, ih]
        by_cases hk : k = b
        · have : a ≠ b := by omega
          simp [hk, this]
        · simp [hk]

theorem spErase_above {α : Type} {m : List (Nat × α)} {a b : Nat} (h : spAbove a m = true) : spAbove a (spErase m b) = true := by
  induction m with
  | nil => rfl
  | cons e t ih =>
    obtain ⟨k, v⟩ := e
    simp only [spAbove, List.all_cons, Bool.and_eq_true] at h
    simp only [spErase]
    split
    · exact h.2
    · simp only [spAbove, List.all_cons, Bool.and_eq_true]
      exact ⟨h.1, ih h.2⟩

theorem spGet_spErase {α : Type} [DecidableEq α] (d : Nat → α) (m : List (Nat × α)) (a b : Nat) (h : spWf d m = true) (x : α)
    (hx : a = b → x = d b) : spGet (d b) (spErase m a) b = if a = b then x else spGet (d b) m b := by
  induction m with
  | nil =>
    simp only [spErase, spGet]
    split
    · rename_i hab; exact (hx hab).symm
    · rfl
  | cons e t ih =>
    obtain ⟨k, v⟩ := e
    simp only [spWf, Bool.and_eq_true] at h
    simp only [spErase]
    split
    · rename_i hk
      subst hk
      simp only [spGet]
      split
      · rename_i hab
        subst hab
        rw [hx rfl]
        exact spAbove_get _ _ _ _ h.1.1 (Nat.le_refl _)
      · rfl
    · rename_i hk
      simp only [spGet]
      split
      · rename_i hkb
        have : a ≠ b := by omega
        simp [this]
      · exact ih h.2

/-- A read after a write: the value written at its key, the old one elsewhere. -/
theorem spGet_spPut {α : Type} [DecidableEq α] (d : Nat → α) (m : List (Nat × α)) (a b : Nat) (x : α) (h : spWf d m = true) :
    spGet (d b) (spPut (d a) m a x) b = if a = b then x else spGet (d b) m b := by
  simp only [spPut]
  split
  · rename_i hx
    exact spGet_spErase d m a b h x (fun hab => by rw [hx, hab])
  · exact spGet_spInsert _ m a b x

theorem spInsert_above {α : Type} {m : List (Nat × α)} {k a : Nat} {x : α} (h : spAbove k m = true) (ha : k < a) :
    spAbove k (spInsert m a x) = true := by
  induction m with
  | nil => simpa [spInsert, spAbove] using ha
  | cons e t ih =>
    obtain ⟨k', v⟩ := e
    simp only [spAbove, List.all_cons, Bool.and_eq_true, decide_eq_true_eq] at h
    have ht : spAbove k t = true := by simpa only [spAbove] using h.2
    simp only [spInsert]
    split
    · simp only [spAbove, List.all_cons, Bool.and_eq_true, decide_eq_true_eq]
      exact ⟨ha, h.1, h.2⟩
    · split
      · simp only [spAbove, List.all_cons, Bool.and_eq_true, decide_eq_true_eq]
        exact ⟨ha, h.2⟩
      · have := ih ht
        simp only [spAbove, List.all_cons, Bool.and_eq_true, decide_eq_true_eq] at this ⊢
        exact ⟨h.1, this⟩

theorem spInsert_wf {α : Type} [DecidableEq α] {d : Nat → α} {m : List (Nat × α)} {a : Nat} {x : α} (h : spWf d m = true)
    (hx : x ≠ d a) : spWf d (spInsert m a x) = true := by
  induction m with
  | nil => simp [spInsert, spWf, spAbove, hx]
  | cons e t ih =>
    obtain ⟨k, v⟩ := e
    simp only [spWf, Bool.and_eq_true] at h
    simp only [spInsert]
    split
    · rename_i hak
      simp only [spWf, Bool.and_eq_true]
      refine ⟨⟨?_, by simpa using hx⟩, h⟩
      simp only [spAbove, List.all_cons, Bool.and_eq_true, decide_eq_true_eq]
      exact ⟨hak, by simpa only [spAbove] using spAbove_mono h.1.1 (Nat.le_of_lt hak)⟩
    · split
      · rename_i h1 h2
        subst h2
        simp only [spWf, Bool.and_eq_true]
        exact ⟨⟨h.1.1, by simpa using hx⟩, h.2⟩
      · rename_i h1 h2
        simp only [spWf, Bool.and_eq_true]
        exact ⟨⟨spInsert_above h.1.1 (by omega), h.1.2⟩, ih h.2⟩

theorem spErase_wf {α : Type} [DecidableEq α] {d : Nat → α} {m : List (Nat × α)} {a : Nat} (h : spWf d m = true) :
    spWf d (spErase m a) = true := by
  induction m with
  | nil => rfl
  | cons e t ih =>
    obtain ⟨k, v⟩ := e
    simp only [spWf, Bool.and_eq_true] at h
    simp only [spErase]
    split
    · exact h.2
    · simp only [spWf, Bool.and_eq_true]
      exact ⟨⟨spErase_above h.1.1, h.1.2⟩, ih h.2⟩

/-- A write keeps the canonical form. -/
theorem spPut_wf {α : Type} [DecidableEq α] {d : Nat → α} {m : List (Nat × α)} {a : Nat} {x : α} (h : spWf d m = true) :
    spWf d (spPut (d a) m a x) = true := by
  simp only [spPut]
  split
  · exact spErase_wf h
  · rename_i hx
    exact spInsert_wf h hx

/-- Dropping entries keeps the canonical form. -/
theorem spWf_filter {α : Type} [DecidableEq α] {d : Nat → α} {m : List (Nat × α)} (p : Nat × α → Bool) (h : spWf d m = true) :
    spWf d (m.filter p) = true := by
  induction m with
  | nil => rfl
  | cons e t ih =>
    obtain ⟨k, v⟩ := e
    simp only [spWf, Bool.and_eq_true] at h
    simp only [List.filter_cons]
    split
    · simp only [spWf, Bool.and_eq_true]
      refine ⟨⟨?_, h.1.2⟩, ih h.2⟩
      simp only [spAbove, List.all_eq_true, decide_eq_true_eq] at h ⊢
      exact fun e he => h.1.1 e (List.mem_filter.mp he).1
    · exact ih h.2

/-! ## The registers' list -/

/-- A read after an assignment. -/
theorem lkGet_lkPut {α : Type} (d : α) (m : List (Nat × α)) (a b : Nat) (x : α) :
    lkGet d (lkPut m a x) b = if a = b then x else lkGet d m b := by
  induction m with
  | nil => simp only [lkPut, lkGet]
  | cons e t ih =>
    obtain ⟨k, v⟩ := e
    simp only [lkPut]
    split
    · rename_i hk
      subst hk
      simp only [lkGet]
      by_cases h : k = b <;> simp [h]
    · rename_i hk
      simp only [lkGet, ih]
      by_cases hkb : k = b
      · have : a ≠ b := fun hab => hk (by rw [hkb, hab])
        simp [hkb, this]
      · simp [hkb]

/-! ## Tables -/

/-- A read after a write of a table. -/
theorem Tab.at_put {n : Nat} {α : Type} (t : Tab n α) (i j : Fin n) (x : α) :
    (t.put i x).at j = if i = j then x else t.at j := by
  simp only [Tab.put, Tab.at, Vector.getElem_set, Fin.ext_iff]

theorem Tab.at_put_self {n : Nat} {α : Type} (t : Tab n α) (i : Fin n) (x : α) : (t.put i x).at i = x := by
  simp [Tab.at_put]

theorem Tab.at_put_ne {n : Nat} {α : Type} (t : Tab n α) {i j : Fin n} (x : α) (h : i ≠ j) : (t.put i x).at j = t.at j := by
  simp [Tab.at_put, h]

theorem Tab.at_upd {n : Nat} {α : Type} (t : Tab n α) (i j : Fin n) (f : α → α) :
    (t.upd i f).at j = if i = j then f (t.at i) else t.at j := by
  simp only [Tab.upd, Tab.at_put]

end Sys2Proof.Machine
end

