-- ==== Sys2Proof/Laws/Keeps.lean ====
section
/-!
SUPPORT. Keeps.lean: what no operation of the block does. `Keeps s t` says that on the way from `s` to `t` the queue of commands is
untouched, the memory keeps its canonical form and no blown fuse is lost (R80). Every operation keeps it, by one lemma per
operation in the files Laws/Keeps*.lean, each of the form: if `Keeps s₀ s` then `Keeps s₀` of the operation's result.
-/
namespace Sys2Proof.Machine

/-- The queue stays, the memory stays canonical, the fuses stay blown. -/
structure Keeps (s t : State) : Prop where
  pending : t.pending = s.pending
  mem : Memory.wf s.mem = true → Memory.wf t.mem = true
  life : s.si.life &&& ~~~ t.si.life = 0

theorem Keeps.refl (s : State) : Keeps s s := ⟨rfl, id, by ext i; simp⟩

theorem life_trans {a b c : BitVec 13} (h : a &&& ~~~ b = 0) (k : b &&& ~~~ c = 0) : a &&& ~~~ c = 0 := by
  ext i hi
  have h := congrArg (fun x => x[i]) h
  have k := congrArg (fun x => x[i]) k
  simp at h k ⊢
  intro x
  exact k (h x)

theorem Keeps.trans {s t u : State} (h : Keeps s t) (k : Keeps t u) : Keeps s u :=
  ⟨k.pending.trans h.pending, fun w => k.mem (h.mem w), life_trans h.life k.life⟩

/-- An update of anything but the queue, the memory and the silicon. -/
theorem Keeps.mk_iff {s₀ s : State} (a b c d e f g i j k l m n o p q r t u v w x y z) :
    Keeps s₀ ⟨s.pending, a, b, c, s.mem, d, s.si, e, f, g, i, j, k, l, m, n, o, p, q, r, t, u, v, w, x, y, z⟩ ↔
      Keeps s₀ s :=
  ⟨fun h => ⟨h.pending, h.mem, h.life⟩, fun h => ⟨h.pending, h.mem, h.life⟩⟩

/-- An update that leaves the queue, the memory and the fuses. -/
theorem Keeps.mkSi_iff {s₀ s : State} (s1 s2 s3 s4 s5 s6 a b c d e f g i j k l m n o p q r t u v w x y z) :
    Keeps s₀ ⟨s.pending, a, b, c, s.mem, d, ⟨s1, s2, s3, s4, s5, s.si.life, s6⟩, e, f, g, i, j, k, l, m, n, o, p, q, r, t, u, v, w,
      x, y, z⟩ ↔ Keeps s₀ s :=
  ⟨fun h => ⟨h.pending, h.mem, h.life⟩, fun h => ⟨h.pending, h.mem, h.life⟩⟩

section shapes
variable {α β γ : Type} {s₀ : State}

theorem Keeps.ite {c : Prop} [Decidable c] {s t : State} (h : Keeps s₀ s) (k : Keeps s₀ t) : Keeps s₀ (if c then s else t) := by
  split <;> assumption

theorem Keeps.ite_snd {c : Prop} [Decidable c] {s t : α × State} (h : Keeps s₀ s.2) (k : Keeps s₀ t.2) :
    Keeps s₀ (if c then s else t).2 := by split <;> assumption

theorem Keeps.ite_snd3 {c : Prop} [Decidable c] {s t : α × β × State} (h : Keeps s₀ s.2.2) (k : Keeps s₀ t.2.2) :
    Keeps s₀ (if c then s else t).2.2 := by split <;> assumption

theorem Keeps.ite_snd4 {c : Prop} [Decidable c] {s t : α × β × γ × State} (h : Keeps s₀ s.2.2.2) (k : Keeps s₀ t.2.2.2) :
    Keeps s₀ (if c then s else t).2.2.2 := by split <;> assumption

theorem Keeps.ite_fst {c : Prop} [Decidable c] {s t : State × α} (h : Keeps s₀ s.1) (k : Keeps s₀ t.1) :
    Keeps s₀ (if c then s else t).1 := by split <;> assumption

theorem Keeps.foldl {f : State → α → State} {s : State} (l : List α) (h : Keeps s₀ s)
    (hf : ∀ t a, Keeps s₀ t → Keeps s₀ (f t a)) : Keeps s₀ (l.foldl f s) := by
  induction l generalizing s with
  | nil => exact h
  | cons a l ih => exact ih (hf s a h)

theorem Keeps.foldl_snd {f : β × State → α → β × State} {p : β × State} (l : List α) (h : Keeps s₀ p.2)
    (hf : ∀ t a, Keeps s₀ t.2 → Keeps s₀ (f t a).2) : Keeps s₀ (l.foldl f p).2 := by
  induction l generalizing p with
  | nil => exact h
  | cons a l ih => exact ih (hf p a h)

theorem Keeps.foldl_fst {f : State × β → α → State × β} {p : State × β} (l : List α) (h : Keeps s₀ p.1)
    (hf : ∀ t a, Keeps s₀ t.1 → Keeps s₀ (f t a).1) : Keeps s₀ (l.foldl f p).1 := by
  induction l generalizing p with
  | nil => exact h
  | cons a l ih => exact ih (hf p a h)

theorem Keeps.foldl_snd3 {f : β × γ × State → α → β × γ × State} {p : β × γ × State} (l : List α) (h : Keeps s₀ p.2.2)
    (hf : ∀ t a, Keeps s₀ t.2.2 → Keeps s₀ (f t a).2.2) : Keeps s₀ (l.foldl f p).2.2 := by
  induction l generalizing p with
  | nil => exact h
  | cons a l ih => exact ih (hf p a h)

theorem Keeps.of_snd {p : α × State} {a : α} {t : State} (e : p = (a, t)) (k : Keeps s₀ p.2) : Keeps s₀ t := by
  subst e; exact k

theorem Keeps.of_snd3 {p : α × β × State} {a : α} {b : β} {t : State} (e : p = (a, b, t)) (k : Keeps s₀ p.2.2) :
    Keeps s₀ t := by subst e; exact k

theorem Keeps.of_snd4 {p : α × β × γ × State} {a : α} {b : β} {c : γ} {t : State} (e : p = (a, b, c, t))
    (k : Keeps s₀ p.2.2.2) : Keeps s₀ t := by subst e; exact k

theorem Keeps.of_fst {p : State × α} {a : α} {t : State} (e : p = (t, a)) (k : Keeps s₀ p.1) : Keeps s₀ t := by
  subst e; exact k

end shapes

/-! ## Memory -/

theorem State.putB_keeps {s₀ s : State} (h : Keeps s₀ s) (a : Nat) (b : Byte) : Keeps s₀ (s.putB a b) :=
  ⟨h.pending, fun w => spPut_wf (h.mem w), h.life⟩

theorem State.memClear_keeps {s₀ s : State} (h : Keeps s₀ s) (lo hi : Nat) : Keeps s₀ (s.memClear lo hi) :=
  ⟨h.pending, fun w => spWf_filter _ (h.mem w), h.life⟩

end Sys2Proof.Machine
end

