-- ==== Sys2Proof/Laws/Keeps1.lean ====
section
/-!
SUPPORT. Keeps1.lean: the operations of Ops.lean, Queues.lean, Domains.lean, Slots.lean, Watch.lean, Hatch.lean keep the queue
of commands, the canonical form of the memory and the blown fuses (Laws/Keeps.lean). A lemma of a command's meaning speaks of
the state after it.
-/
namespace Sys2Proof.Machine

theorem State.wr_keeps {s₀ s : State} (h : Keeps s₀ s) : ∀ a b, Keeps s₀ (State.wr s a b) := by
  intro a b
  unfold State.wr
  repeat' with_reducible first
    | assumption | simp only [Keeps.mk_iff] | dsimp only

theorem State.setb_keeps {s₀ s : State} (h : Keeps s₀ s) : ∀ a, Keeps s₀ (State.setb s a) := by
  intro a
  unfold State.setb
  repeat' with_reducible first
    | assumption | apply State.wr_keeps | dsimp only

theorem State.addc_keeps {s₀ s : State} (h : Keeps s₀ s) : ∀ a b, Keeps s₀ (State.addc s a b) := by
  intro a b
  unfold State.addc
  repeat' with_reducible first
    | assumption | apply State.wr_keeps | dsimp only

theorem State.bump_keeps {s₀ s : State} (h : Keeps s₀ s) : ∀ a, Keeps s₀ (State.bump s a) := by
  intro a
  unfold State.bump
  repeat' with_reducible first
    | assumption | apply State.addc_keeps | dsimp only

theorem State.wrs_keeps {s₀ s : State} (h : Keeps s₀ s) : ∀ a, Keeps s₀ (State.wrs s a) := by
  intro a
  unfold State.wrs
  repeat' with_reducible first
    | assumption | intro _ | apply State.wr_keeps | apply Keeps.foldl | dsimp only | apply Keeps.foldl_snd
    | apply Keeps.foldl_snd3 | apply Keeps.foldl_fst

theorem wrWords_keeps {s₀ s : State} (h : Keeps s₀ s) {n : Nat} (f : Fin n → Field) (l : List Word) :
    Keeps s₀ (wrWords f l s) := by
  unfold wrWords
  exact Keeps.foldl _ h (fun t a k => State.wr_keeps k _ _)

theorem State.putBytes_keeps {s₀ s : State} (h : Keeps s₀ s) : ∀ a b, Keeps s₀ (State.putBytes s a b) := by
  intro a b
  induction b generalizing s a
  all_goals unfold State.putBytes
  repeat' with_reducible first
    | assumption | apply_assumption | apply State.putB_keeps | dsimp only | split

theorem State.putW_keeps {s₀ s : State} (h : Keeps s₀ s) : ∀ a b, Keeps s₀ (State.putW s a b) := by
  intro a b
  unfold State.putW
  repeat' with_reducible first
    | assumption | apply State.putBytes_keeps | dsimp only

theorem State.linesDrop_keeps {s₀ s : State} (h : Keeps s₀ s) : Keeps s₀ (State.linesDrop s) := by
  unfold State.linesDrop
  repeat' with_reducible first
    | assumption | simp only [Keeps.mk_iff] | dsimp only

theorem State.pastKeep_keeps {s₀ s : State} (h : Keeps s₀ s) : ∀ a b, Keeps s₀ (State.pastKeep s a b) := by
  intro a b
  unfold State.pastKeep
  repeat' with_reducible first
    | assumption | simp only [Keeps.mk_iff] | apply Keeps.ite | apply Keeps.ite_snd | dsimp only | apply Keeps.ite_snd3
    | apply Keeps.ite_fst | apply Keeps.ite_snd4 | refine Keeps.of_snd (by assumption) ?_
    | refine Keeps.of_snd3 (by assumption) ?_ | refine Keeps.of_snd4 (by assumption) ?_
    | refine Keeps.of_fst (by assumption) ?_ | split

theorem State.unitPut_keeps {s₀ s : State} (h : Keeps s₀ s) : ∀ a b, Keeps s₀ (State.unitPut s a b) := by
  intro a b
  unfold State.unitPut
  repeat' with_reducible first
    | assumption | apply Keeps.ite | apply State.pastKeep_keeps | apply State.putBytes_keeps | dsimp only | split

theorem State.arcPut_keeps {s₀ s : State} (h : Keeps s₀ s) : ∀ a b, Keeps s₀ (State.arcPut s a b) := by
  intro a b
  unfold State.arcPut
  repeat' with_reducible first
    | assumption | apply State.linesDrop_keeps | apply State.putBytes_keeps | dsimp only

theorem State.arcErase_keeps {s₀ s : State} (h : Keeps s₀ s) : ∀ a, Keeps s₀ (State.arcErase s a) := by
  intro a
  unfold State.arcErase
  repeat' with_reducible first
    | assumption | apply State.linesDrop_keeps | apply State.memClear_keeps | dsimp only

theorem State.drbg_keeps {s₀ s : State} (h : Keeps s₀ s) : Keeps s₀ (State.drbg s).2 := by
  unfold State.drbg
  repeat' with_reducible first
    | assumption | simp only [Keeps.mk_iff] | dsimp only | refine Keeps.of_snd (by assumption) ?_
    | refine Keeps.of_snd3 (by assumption) ?_ | refine Keeps.of_snd4 (by assumption) ?_
    | refine Keeps.of_fst (by assumption) ?_

theorem State.drbgWords_keeps {s₀ s : State} (h : Keeps s₀ s) : ∀ a, Keeps s₀ (State.drbgWords s a).2 := by
  intro a
  unfold State.drbgWords
  repeat' with_reducible first
    | assumption | simp only [Keeps.mk_iff] | dsimp only | refine Keeps.of_snd (by assumption) ?_
    | refine Keeps.of_snd3 (by assumption) ?_ | refine Keeps.of_snd4 (by assumption) ?_
    | refine Keeps.of_fst (by assumption) ?_

theorem State.choose_keeps {s₀ s : State} (h : Keeps s₀ s) : ∀ a, Keeps s₀ (State.choose s a).2 := by
  intro a
  unfold State.choose
  repeat' with_reducible first
    | assumption | simp only [Keeps.mk_iff] | dsimp only | refine Keeps.of_snd (by assumption) ?_
    | refine Keeps.of_snd3 (by assumption) ?_ | refine Keeps.of_snd4 (by assumption) ?_
    | refine Keeps.of_fst (by assumption) ?_

theorem State.measure_keeps {s₀ s : State} (h : Keeps s₀ s) : Keeps s₀ (State.measure s).2 := by
  unfold State.measure
  repeat' with_reducible first
    | assumption | simp only [Keeps.mk_iff] | dsimp only | refine Keeps.of_snd (by assumption) ?_
    | refine Keeps.of_snd3 (by assumption) ?_ | refine Keeps.of_snd4 (by assumption) ?_
    | refine Keeps.of_fst (by assumption) ?_

theorem State.anyWords_keeps {s₀ s : State} (h : Keeps s₀ s) : ∀ a, Keeps s₀ (State.anyWords s a).2 := by
  intro a
  unfold State.anyWords
  repeat' with_reducible first
    | assumption | simp only [Keeps.mk_iff] | dsimp only | refine Keeps.of_snd (by assumption) ?_
    | refine Keeps.of_snd3 (by assumption) ?_ | refine Keeps.of_snd4 (by assumption) ?_
    | refine Keeps.of_fst (by assumption) ?_

theorem State.rtcGain_keeps {s₀ s : State} (h : Keeps s₀ s) : ∀ a, Keeps s₀ (State.rtcGain s a).2 := by
  intro a
  unfold State.rtcGain
  repeat' with_reducible first
    | assumption | apply Keeps.ite | apply Keeps.ite_snd | apply State.measure_keeps | dsimp only | apply Keeps.ite_snd3
    | apply Keeps.ite_fst | apply Keeps.ite_snd4 | refine Keeps.of_snd (by assumption) ?_
    | refine Keeps.of_snd3 (by assumption) ?_ | refine Keeps.of_snd4 (by assumption) ?_
    | refine Keeps.of_fst (by assumption) ?_ | split

theorem State.advance_keeps {s₀ s : State} (h : Keeps s₀ s) : ∀ a b, Keeps s₀ (State.advance s a b) := by
  intro a b
  unfold State.advance
  repeat' with_reducible first
    | assumption | simp only [Keeps.mk_iff] | apply Keeps.ite | apply Keeps.ite_snd | apply State.rtcGain_keeps | dsimp only
    | apply Keeps.ite_snd3 | apply Keeps.ite_fst | apply Keeps.ite_snd4 | refine Keeps.of_snd (by assumption) ?_
    | refine Keeps.of_snd3 (by assumption) ?_ | refine Keeps.of_snd4 (by assumption) ?_
    | refine Keeps.of_fst (by assumption) ?_ | split

theorem State.atticRec_keeps {s₀ s : State} (h : Keeps s₀ s) : ∀ a, Keeps s₀ (State.atticRec s a) := by
  intro a
  unfold State.atticRec
  repeat' with_reducible first
    | assumption | simp only [Keeps.mk_iff] | apply Keeps.ite | apply State.bump_keeps | dsimp only | split

theorem State.attic_keeps {s₀ s : State} (h : Keeps s₀ s) : ∀ a b c, Keeps s₀ (State.attic s a b c) := by
  intro a b c
  unfold State.attic
  repeat' with_reducible first
    | assumption | apply State.atticRec_keeps | dsimp only

theorem State.modeRec_keeps {s₀ s : State} (h : Keeps s₀ s) : ∀ a b c d e f, Keeps s₀ (State.modeRec s a b c d e f) := by
  intro a b c d e f
  unfold State.modeRec
  repeat' with_reducible first
    | assumption | apply State.attic_keeps | dsimp only

theorem State.lifeRec_keeps {s₀ s : State} (h : Keeps s₀ s) : ∀ a b c, Keeps s₀ (State.lifeRec s a b c) := by
  intro a b c
  unfold State.lifeRec
  repeat' with_reducible first
    | assumption | apply State.attic_keeps | dsimp only

theorem State.ctrWrite_keeps {s₀ s : State} (h : Keeps s₀ s) : ∀ a b c, Keeps s₀ (State.ctrWrite s a b c) := by
  intro a b c
  unfold State.ctrWrite
  repeat' with_reducible first
    | assumption | simp only [Keeps.mk_iff] | apply Keeps.ite | dsimp only | split

theorem State.ctrInc_keeps {s₀ s : State} (h : Keeps s₀ s) : ∀ a b, Keeps s₀ (State.ctrInc s a b).2 := by
  intro a b
  unfold State.ctrInc
  repeat' with_reducible first
    | assumption | apply Keeps.ite | apply Keeps.ite_snd | apply State.ctrWrite_keeps | dsimp only | apply Keeps.ite_snd3
    | apply Keeps.ite_fst | apply Keeps.ite_snd4 | refine Keeps.of_snd (by assumption) ?_
    | refine Keeps.of_snd3 (by assumption) ?_ | refine Keeps.of_snd4 (by assumption) ?_
    | refine Keeps.of_fst (by assumption) ?_ | split

theorem State.ctrAuto_keeps {s₀ s : State} (h : Keeps s₀ s) : ∀ a b, Keeps s₀ (State.ctrAuto s a b) := by
  intro a b
  unfold State.ctrAuto
  repeat' with_reducible first
    | assumption | simp only [Keeps.mk_iff] | apply Keeps.ite | apply Keeps.ite_snd | apply State.ctrInc_keeps | dsimp only
    | apply Keeps.ite_snd3 | apply Keeps.ite_fst | apply Keeps.ite_snd4 | refine Keeps.of_snd (by assumption) ?_
    | refine Keeps.of_snd3 (by assumption) ?_ | refine Keeps.of_snd4 (by assumption) ?_
    | refine Keeps.of_fst (by assumption) ?_ | split

theorem State.conTx_keeps {s₀ s : State} (h : Keeps s₀ s) : ∀ a, Keeps s₀ (State.conTx s a) := by
  intro a
  unfold State.conTx
  repeat' with_reducible first
    | assumption | simp only [Keeps.mk_iff] | dsimp only

theorem State.conPrompt_keeps {s₀ s : State} (h : Keeps s₀ s) : Keeps s₀ (State.conPrompt s) := by
  unfold State.conPrompt
  repeat' with_reducible first
    | assumption | apply Keeps.ite | apply State.conTx_keeps | dsimp only | split

theorem State.sendNote_keeps {s₀ s : State} (h : Keeps s₀ s) : ∀ a, Keeps s₀ (State.sendNote s a) := by
  intro a
  unfold State.sendNote
  repeat' with_reducible first
    | assumption | apply Keeps.ite | apply State.conTx_keeps | dsimp only | split

theorem State.flushNotes_keeps {s₀ s : State} (h : Keeps s₀ s) : Keeps s₀ (State.flushNotes s) := by
  unfold State.flushNotes
  repeat' with_reducible first
    | assumption | intro _ | simp only [Keeps.mk_iff] | apply Keeps.ite | apply State.sendNote_keeps | apply Keeps.foldl
    | dsimp only | apply Keeps.foldl_snd | apply Keeps.foldl_snd3 | apply Keeps.foldl_fst | split

theorem State.notice_keeps {s₀ s : State} (h : Keeps s₀ s) : ∀ a, Keeps s₀ (State.notice s a) := by
  intro a
  unfold State.notice
  repeat' with_reducible first
    | assumption | simp only [Keeps.mk_iff] | apply Keeps.ite | apply State.flushNotes_keeps | dsimp only | split

theorem State.replyEnd_keeps {s₀ s : State} (h : Keeps s₀ s) : Keeps s₀ (State.replyEnd s) := by
  unfold State.replyEnd
  repeat' with_reducible first
    | assumption | simp only [Keeps.mk_iff] | apply State.conPrompt_keeps | apply State.flushNotes_keeps | dsimp only

theorem State.replyOk_keeps {s₀ s : State} (h : Keeps s₀ s) : ∀ a b, Keeps s₀ (State.replyOk s a b) := by
  intro a b
  unfold State.replyOk
  repeat' with_reducible first
    | assumption | apply State.replyEnd_keeps | apply State.conTx_keeps | dsimp only

theorem State.replyLines_keeps {s₀ s : State} (h : Keeps s₀ s) : ∀ a b, Keeps s₀ (State.replyLines s a b) := by
  intro a b
  unfold State.replyLines
  repeat' with_reducible first
    | assumption | intro _ | apply State.replyOk_keeps | apply State.conTx_keeps | apply Keeps.foldl | dsimp only
    | apply Keeps.foldl_snd | apply Keeps.foldl_snd3 | apply Keeps.foldl_fst

theorem State.ipend_keeps {s₀ s : State} (h : Keeps s₀ s) : ∀ a b, Keeps s₀ (State.ipend s a b) := by
  intro a b
  unfold State.ipend
  repeat' with_reducible first
    | assumption | apply State.wr_keeps | dsimp only

theorem State.ipendAll_keeps {s₀ s : State} (h : Keeps s₀ s) : ∀ a, Keeps s₀ (State.ipendAll s a) := by
  intro a
  unfold State.ipendAll
  repeat' with_reducible first
    | assumption | apply State.ipend_keeps | dsimp only

theorem State.qset_keeps {s₀ s : State} (h : Keeps s₀ s) : ∀ a b, Keeps s₀ (State.qset s a b) := by
  intro a b
  unfold State.qset
  repeat' with_reducible first
    | assumption | simp only [Keeps.mk_iff] | dsimp only

theorem State.qerr_keeps {s₀ s : State} (h : Keeps s₀ s) : ∀ a b, Keeps s₀ (State.qerr s a b) := by
  intro a b
  unfold State.qerr
  repeat' with_reducible first
    | assumption | apply State.wr_keeps | apply State.setb_keeps | dsimp only

theorem State.qlost_keeps {s₀ s : State} (h : Keeps s₀ s) : ∀ a, Keeps s₀ (State.qlost s a) := by
  intro a
  unfold State.qlost
  repeat' with_reducible first
    | assumption | simp only [Keeps.mk_iff] | apply State.bump_keeps | dsimp only

theorem State.takeCrates_keeps {s₀ s : State} (h : Keeps s₀ s) : ∀ a b, Keeps s₀ (State.takeCrates s a b) := by
  intro a b
  induction b generalizing s a
  all_goals unfold State.takeCrates
  repeat' with_reducible first
    | assumption | intro _ | simp only [Keeps.mk_iff] | apply_assumption | apply State.qset_keeps | apply State.choose_keeps
    | dsimp only | refine Keeps.of_snd (by assumption) ?_ | refine Keeps.of_snd3 (by assumption) ?_
    | refine Keeps.of_snd4 (by assumption) ?_ | refine Keeps.of_fst (by assumption) ?_ | split

theorem State.qappend_keeps {s₀ s : State} (h : Keeps s₀ s) : ∀ a b, Keeps s₀ (State.qappend s a b) := by
  intro a b
  unfold State.qappend
  repeat' with_reducible first
    | assumption | apply State.qset_keeps | apply State.putW_keeps | dsimp only

theorem State.pushHeader_keeps {s₀ s : State} (h : Keeps s₀ s) : ∀ a b c, Keeps s₀ (State.pushHeader s a b c).2 := by
  intro a b c
  unfold State.pushHeader
  repeat' with_reducible first
    | assumption | apply Keeps.ite | apply Keeps.ite_snd | apply State.takeCrates_keeps | apply State.qerr_keeps
    | apply State.qset_keeps | apply State.qappend_keeps | apply State.setb_keeps | apply State.qlost_keeps | dsimp only
    | apply Keeps.ite_snd3 | apply Keeps.ite_fst | apply Keeps.ite_snd4 | refine Keeps.of_snd (by assumption) ?_
    | refine Keeps.of_snd3 (by assumption) ?_ | refine Keeps.of_snd4 (by assumption) ?_
    | refine Keeps.of_fst (by assumption) ?_ | split

theorem State.pushTrailer_keeps {s₀ s : State} (h : Keeps s₀ s) : ∀ a b, Keeps s₀ (State.pushTrailer s a b) := by
  intro a b
  unfold State.pushTrailer
  repeat' with_reducible first
    | assumption | apply Keeps.ite | apply State.qerr_keeps | apply State.qset_keeps | apply State.qappend_keeps | dsimp only
    | split

theorem State.pushWord_keeps {s₀ s : State} (h : Keeps s₀ s) : ∀ a b c, Keeps s₀ (State.pushWord s a b c).2 := by
  intro a b c
  unfold State.pushWord
  repeat' with_reducible first
    | assumption | apply Keeps.ite | apply Keeps.ite_snd | apply State.pushHeader_keeps | apply State.qset_keeps
    | apply State.qappend_keeps | apply State.pushTrailer_keeps | dsimp only | apply Keeps.ite_snd3 | apply Keeps.ite_fst
    | apply Keeps.ite_snd4 | refine Keeps.of_snd (by assumption) ?_ | refine Keeps.of_snd3 (by assumption) ?_
    | refine Keeps.of_snd4 (by assumption) ?_ | refine Keeps.of_fst (by assumption) ?_ | split

theorem State.pushPacket_keeps {s₀ s : State} (h : Keeps s₀ s) : ∀ a b c d e, Keeps s₀ (State.pushPacket s a b c d e).2 := by
  intro a b c d e
  unfold State.pushPacket
  repeat' with_reducible first
    | assumption | intro _ | apply State.pushHeader_keeps | apply State.pushWord_keeps | apply State.qset_keeps
    | apply Keeps.foldl | dsimp only | apply Keeps.foldl_snd | apply Keeps.foldl_snd3 | apply Keeps.foldl_fst
    | refine Keeps.of_snd (by assumption) ?_ | refine Keeps.of_snd3 (by assumption) ?_
    | refine Keeps.of_snd4 (by assumption) ?_ | refine Keeps.of_fst (by assumption) ?_ | split

theorem State.popWord_keeps {s₀ s : State} (h : Keeps s₀ s) : ∀ a, Keeps s₀ (State.popWord s a).2 := by
  intro a
  unfold State.popWord
  repeat' with_reducible first
    | assumption | apply Keeps.ite | apply Keeps.ite_snd | apply State.wr_keeps | apply State.qerr_keeps
    | apply State.qset_keeps | dsimp only | apply Keeps.ite_snd3 | apply Keeps.ite_fst | apply Keeps.ite_snd4
    | refine Keeps.of_snd (by assumption) ?_ | refine Keeps.of_snd3 (by assumption) ?_
    | refine Keeps.of_snd4 (by assumption) ?_ | refine Keeps.of_fst (by assumption) ?_ | split

theorem State.passHead_keeps {s₀ s : State} (h : Keeps s₀ s) : ∀ a, Keeps s₀ (State.passHead s a) := by
  intro a
  unfold State.passHead
  repeat' with_reducible first
    | assumption | apply State.qset_keeps | dsimp only

theorem State.headRelease_keeps {s₀ s : State} (h : Keeps s₀ s) : ∀ a, Keeps s₀ (State.headRelease s a) := by
  intro a
  unfold State.headRelease
  repeat' with_reducible first
    | assumption | apply State.passHead_keeps | apply State.qset_keeps | dsimp only | split

theorem State.qfxOwners_keeps {s₀ s : State} (h : Keeps s₀ s) : ∀ a b, Keeps s₀ (State.qfxOwners a s b) := by
  intro a b
  unfold State.qfxOwners
  repeat' with_reducible first
    | assumption | apply Keeps.ite | apply State.qset_keeps | apply State.qlost_keeps | dsimp only | split

theorem State.qfxCommit_keeps {s₀ s t : State} (h : Keeps s₀ s) (k : Keeps s₀ t) : Keeps s₀ (State.qfxCommit s t) := by
  unfold State.qfxCommit
  exact Keeps.ite (Keeps.foldl _ k (fun _ _ e => State.qfxOwners_keeps e _ _)) (State.setb_keeps h _)

theorem State.qfxCoreReset_keeps {s₀ s : State} (h : Keeps s₀ s) : ∀ a, Keeps s₀ (State.qfxCoreReset s a) := by
  intro a
  unfold State.qfxCoreReset
  repeat' with_reducible first
    | assumption | intro _ | apply Keeps.ite | apply State.qset_keeps | apply State.qlost_keeps | apply Keeps.foldl
    | dsimp only | apply Keeps.foldl_snd | apply Keeps.foldl_snd3 | apply Keeps.foldl_fst | split

theorem State.sramStore_keeps {s₀ s : State} (h : Keeps s₀ s) : ∀ a b c, Keeps s₀ (State.sramStore s a b c) := by
  intro a b c
  unfold State.sramStore
  repeat' with_reducible first
    | assumption | simp only [Keeps.mk_iff] | apply Keeps.ite | apply Keeps.ite_snd | apply State.putBytes_keeps | dsimp only
    | apply Keeps.ite_snd3 | apply Keeps.ite_fst | apply Keeps.ite_snd4 | refine Keeps.of_snd (by assumption) ?_
    | refine Keeps.of_snd3 (by assumption) ?_ | refine Keeps.of_snd4 (by assumption) ?_
    | refine Keeps.of_fst (by assumption) ?_ | split

theorem State.sbApply_keeps {s₀ s : State} (h : Keeps s₀ s) : ∀ a b, Keeps s₀ (State.sbApply s a b) := by
  intro a b
  unfold State.sbApply
  repeat' with_reducible first
    | assumption | intro _ | apply State.sramStore_keeps | apply Keeps.foldl | dsimp only | apply Keeps.foldl_snd
    | apply Keeps.foldl_snd3 | apply Keeps.foldl_fst

theorem State.sbDrain_keeps {s₀ s : State} (h : Keeps s₀ s) : ∀ a, Keeps s₀ (State.sbDrain s a) := by
  intro a
  unfold State.sbDrain
  repeat' with_reducible first
    | assumption | simp only [Keeps.mk_iff] | apply State.sbApply_keeps | dsimp only

theorem State.coreWake_keeps {s₀ s : State} (h : Keeps s₀ s) : ∀ a, Keeps s₀ (State.coreWake s a) := by
  intro a
  unfold State.coreWake
  repeat' with_reducible first
    | assumption | simp only [Keeps.mk_iff] | dsimp only

theorem State.lineDrop_keeps {s₀ s : State} (h : Keeps s₀ s) : ∀ a, Keeps s₀ (State.lineDrop s a) := by
  intro a
  unfold State.lineDrop
  repeat' with_reducible first
    | assumption | simp only [Keeps.mk_iff] | dsimp only

theorem State.strongIssue_keeps {s₀ s : State} (h : Keeps s₀ s) : ∀ a, Keeps s₀ (State.strongIssue s a) := by
  intro a
  unfold State.strongIssue
  repeat' with_reducible first
    | assumption | apply State.coreWake_keeps | apply State.lineDrop_keeps | apply State.sbDrain_keeps | dsimp only

theorem State.byCore_keeps {s₀ s : State} (h : Keeps s₀ s) :
    ∀ a b, (∀ x0, Keeps s₀ x0 → Keeps s₀ (b x0)) → Keeps s₀ (State.byCore s a b) := by
  intro a b
  intro hf
  unfold State.byCore
  repeat' with_reducible first
    | assumption | intro _ | apply Keeps.ite | apply_assumption | apply State.strongIssue_keeps | dsimp only | split

theorem State.byAgent_keeps {s₀ s : State} (h : Keeps s₀ s) :
    ∀ a b, (∀ x0, Keeps s₀ x0 → Keeps s₀ (b x0)) → Keeps s₀ (State.byAgent s a b) := by
  intro a b
  intro hf
  unfold State.byAgent
  repeat' with_reducible first
    | assumption | intro _ | apply Keeps.ite | apply_assumption | apply State.byCore_keeps | dsimp only | split

theorem State.slot_keeps {s₀ s : State} (h : Keeps s₀ s) : ∀ a b, Keeps s₀ (State.slot s a b) := by
  intro a b
  unfold State.slot
  repeat' with_reducible first
    | assumption | simp only [Keeps.mk_iff] | dsimp only

theorem State.slotFree_keeps {s₀ s : State} (h : Keeps s₀ s) : ∀ a, Keeps s₀ (State.slotFree s a) := by
  intro a
  unfold State.slotFree
  repeat' with_reducible first
    | assumption | apply State.slot_keeps | dsimp only

theorem State.hatchTo_keeps {s₀ s : State} (h : Keeps s₀ s) : ∀ a, Keeps s₀ (State.hatchTo s a) := by
  intro a
  unfold State.hatchTo
  repeat' with_reducible first
    | assumption | intro _ | apply Keeps.ite | apply State.setb_keeps | apply State.slotFree_keeps | apply Keeps.foldl
    | dsimp only | apply Keeps.foldl_snd | apply Keeps.foldl_snd3 | apply Keeps.foldl_fst | split

theorem State.hatchDrop_keeps {s₀ s : State} (h : Keeps s₀ s) : ∀ a, Keeps s₀ (State.hatchDrop s a) := by
  intro a
  unfold State.hatchDrop
  repeat' with_reducible first
    | assumption | intro _ | apply Keeps.ite | apply State.hatchTo_keeps | apply State.slotFree_keeps | apply Keeps.foldl
    | dsimp only | apply Keeps.foldl_snd | apply Keeps.foldl_snd3 | apply Keeps.foldl_fst | split

theorem State.appletDrop_keeps {s₀ s : State} (h : Keeps s₀ s) : ∀ a, Keeps s₀ (State.appletDrop s a) := by
  intro a
  unfold State.appletDrop
  repeat' with_reducible first
    | assumption | simp only [Keeps.mk_iff] | apply Keeps.ite | apply State.replyEnd_keeps | apply State.conTx_keeps
    | dsimp only | split

theorem State.appletLost_keeps {s₀ s : State} (h : Keeps s₀ s) : ∀ a, Keeps s₀ (State.appletLost s a) := by
  intro a
  unfold State.appletLost
  repeat' with_reducible first
    | assumption | simp only [Keeps.mk_iff] | apply Keeps.ite | apply State.appletDrop_keeps | dsimp only | split

theorem State.jobStatus_keeps {s₀ s : State} (h : Keeps s₀ s) : ∀ a b, Keeps s₀ (State.jobStatus s a b) := by
  intro a b
  unfold State.jobStatus
  repeat' with_reducible first
    | assumption | apply State.wr_keeps | dsimp only

theorem State.setInst_keeps {s₀ s : State} (h : Keeps s₀ s) : ∀ a b, Keeps s₀ (State.setInst s a b) := by
  intro a b
  unfold State.setInst
  repeat' with_reducible first
    | assumption | simp only [Keeps.mk_iff] | dsimp only

theorem State.coreIdle_keeps {s₀ s : State} (h : Keeps s₀ s) : ∀ a, Keeps s₀ (State.coreIdle s a) := by
  intro a
  unfold State.coreIdle
  repeat' with_reducible first
    | assumption | apply State.wrs_keeps | dsimp only | refine Keeps.of_snd (by assumption) ?_
    | refine Keeps.of_snd3 (by assumption) ?_ | refine Keeps.of_snd4 (by assumption) ?_
    | refine Keeps.of_fst (by assumption) ?_

theorem State.engineJobEnd_keeps {s₀ s : State} (h : Keeps s₀ s) : ∀ a, Keeps s₀ (State.engineJobEnd s a) := by
  intro a
  unfold State.engineJobEnd
  repeat' with_reducible first
    | assumption | simp only [Keeps.mk_iff] | apply Keeps.ite | dsimp only | split

theorem State.jobAbort_keeps {s₀ s : State} (h : Keeps s₀ s) : ∀ a b c, Keeps s₀ (State.jobAbort s a b c) := by
  intro a b c
  unfold State.jobAbort
  repeat' with_reducible first
    | assumption | apply Keeps.ite | apply State.jobStatus_keeps | apply State.engineJobEnd_keeps | apply State.ipend_keeps
    | apply State.setInst_keeps | apply State.setb_keeps | apply State.coreIdle_keeps | dsimp only | split

theorem State.jobCancelAll_keeps {s₀ s : State} (h : Keeps s₀ s) : ∀ a, Keeps s₀ (State.jobCancelAll s a) := by
  intro a
  unfold State.jobCancelAll
  repeat' with_reducible first
    | assumption | intro _ | apply State.jobAbort_keeps | apply Keeps.foldl | dsimp only | apply Keeps.foldl_snd
    | apply Keeps.foldl_snd3 | apply Keeps.foldl_fst

theorem State.pkeStatus_keeps {s₀ s : State} (h : Keeps s₀ s) : ∀ a b c d, Keeps s₀ (State.pkeStatus s a b c d) := by
  intro a b c d
  unfold State.pkeStatus
  repeat' with_reducible first
    | assumption | simp only [Keeps.mk_iff] | apply Keeps.ite | apply Keeps.ite_snd | apply State.unitPut_keeps
    | apply State.wrs_keeps | dsimp only | apply Keeps.ite_snd3 | apply Keeps.ite_fst | apply Keeps.ite_snd4
    | refine Keeps.of_snd (by assumption) ?_ | refine Keeps.of_snd3 (by assumption) ?_
    | refine Keeps.of_snd4 (by assumption) ?_ | refine Keeps.of_fst (by assumption) ?_ | split

theorem State.symStatus_keeps {s₀ s : State} (h : Keeps s₀ s) : ∀ a b c, Keeps s₀ (State.symStatus s a b c) := by
  intro a b c
  unfold State.symStatus
  repeat' with_reducible first
    | assumption | apply State.unitPut_keeps | apply State.wrs_keeps | dsimp only | refine Keeps.of_snd (by assumption) ?_
    | refine Keeps.of_snd3 (by assumption) ?_ | refine Keeps.of_snd4 (by assumption) ?_
    | refine Keeps.of_fst (by assumption) ?_ | split

theorem State.enginesStop_keeps {s₀ s : State} (h : Keeps s₀ s) : ∀ a b, Keeps s₀ (State.enginesStop s a b) := by
  intro a b
  unfold State.enginesStop
  repeat' with_reducible first
    | assumption | intro _ | simp only [Keeps.mk_iff] | apply State.pkeStatus_keeps | apply State.symStatus_keeps
    | apply Keeps.foldl | dsimp only | apply Keeps.foldl_snd | apply Keeps.foldl_snd3 | apply Keeps.foldl_fst

theorem State.enginesEnd_keeps {s₀ s : State} (h : Keeps s₀ s) : ∀ a b, Keeps s₀ (State.enginesEnd s a b) := by
  intro a b
  unfold State.enginesEnd
  repeat' with_reducible first
    | assumption | simp only [Keeps.mk_iff] | dsimp only

theorem State.shelvesClear_keeps {s₀ s : State} (h : Keeps s₀ s) : Keeps s₀ (State.shelvesClear s) := by
  unfold State.shelvesClear
  repeat' with_reducible first
    | assumption | apply State.memClear_keeps | dsimp only

theorem State.rlySet_keeps {s₀ s : State} (h : Keeps s₀ s) : ∀ a b, Keeps s₀ (State.rlySet s a b) := by
  intro a b
  unfold State.rlySet
  repeat' with_reducible first
    | assumption | simp only [Keeps.mk_iff] | dsimp only

theorem State.rlyUndo_keeps {s₀ s : State} (h : Keeps s₀ s) : ∀ a, Keeps s₀ (State.rlyUndo s a) := by
  intro a
  unfold State.rlyUndo
  repeat' with_reducible first
    | assumption | simp only [Keeps.mk_iff] | apply Keeps.ite | apply State.qset_keeps | dsimp only | split

theorem State.rlyFail_keeps {s₀ s : State} (h : Keeps s₀ s) : ∀ a b, Keeps s₀ (State.rlyFail s a b) := by
  intro a b
  unfold State.rlyFail
  repeat' with_reducible first
    | assumption | apply State.wrs_keeps | dsimp only | refine Keeps.of_snd (by assumption) ?_
    | refine Keeps.of_snd3 (by assumption) ?_ | refine Keeps.of_snd4 (by assumption) ?_
    | refine Keeps.of_fst (by assumption) ?_

theorem State.rlyEnd_keeps {s₀ s : State} (h : Keeps s₀ s) : ∀ a b, Keeps s₀ (State.rlyEnd s a b) := by
  intro a b
  unfold State.rlyEnd
  repeat' with_reducible first
    | assumption | apply Keeps.ite | apply State.rlyUndo_keeps | apply State.rlySet_keeps | apply State.rlyFail_keeps
    | dsimp only | split

theorem State.rlyCoreReset_keeps {s₀ s : State} (h : Keeps s₀ s) : ∀ a, Keeps s₀ (State.rlyCoreReset s a) := by
  intro a
  unfold State.rlyCoreReset
  repeat' with_reducible first
    | assumption | intro _ | apply Keeps.ite | apply State.rlyEnd_keeps | apply State.rlySet_keeps | apply Keeps.foldl
    | dsimp only | apply Keeps.foldl_snd | apply Keeps.foldl_snd3 | apply Keeps.foldl_fst | split

theorem State.flushQueue_keeps {s₀ s : State} (h : Keeps s₀ s) : ∀ a, Keeps s₀ (State.flushQueue s a) := by
  intro a
  unfold State.flushQueue
  repeat' with_reducible first
    | assumption | intro _ | apply Keeps.ite | apply State.rlyEnd_keeps | apply State.qset_keeps | apply State.setb_keeps
    | apply Keeps.foldl | dsimp only | apply Keeps.foldl_snd | apply Keeps.foldl_snd3 | apply Keeps.foldl_fst | split

theorem State.laneFail_keeps {s₀ s : State} (h : Keeps s₀ s) : ∀ a, Keeps s₀ (State.laneFail s a) := by
  intro a
  unfold State.laneFail
  repeat' with_reducible first
    | assumption | apply State.bump_keeps | apply State.setb_keeps | dsimp only

theorem State.csrReset_keeps {s₀ s : State} (h : Keeps s₀ s) : ∀ a, Keeps s₀ (State.csrReset s a) := by
  intro a
  unfold State.csrReset
  repeat' with_reducible first
    | assumption | apply State.wrs_keeps | dsimp only | refine Keeps.of_snd (by assumption) ?_
    | refine Keeps.of_snd3 (by assumption) ?_ | refine Keeps.of_snd4 (by assumption) ?_
    | refine Keeps.of_fst (by assumption) ?_

theorem State.coreReset_keeps {s₀ s : State} (h : Keeps s₀ s) : ∀ a, Keeps s₀ (State.coreReset s a) := by
  intro a
  unfold State.coreReset
  repeat' with_reducible first
    | assumption | simp only [Keeps.mk_iff] | apply Keeps.ite | apply State.qfxCoreReset_keeps | apply State.wr_keeps
    | apply State.appletLost_keeps | apply State.csrReset_keeps | apply State.hatchDrop_keeps | apply State.rlyCoreReset_keeps
    | dsimp only | split

theorem State.coresReset_keeps {s₀ s : State} (h : Keeps s₀ s) : Keeps s₀ (State.coresReset s) := by
  unfold State.coresReset
  repeat' with_reducible first
    | assumption | apply State.coreReset_keeps | apply State.hatchTo_keeps | apply State.appletLost_keeps | dsimp only

theorem State.imageRec_keeps {s₀ s : State} (h : Keeps s₀ s) : ∀ a b c d e f g, Keeps s₀ (State.imageRec s a b c d e f g) := by
  intro a b c d e f g
  unfold State.imageRec
  repeat' with_reducible first
    | assumption | apply State.attic_keeps | dsimp only

theorem State.loadAbandon_keeps {s₀ s : State} (h : Keeps s₀ s) : Keeps s₀ (State.loadAbandon s) := by
  unfold State.loadAbandon
  repeat' with_reducible first
    | assumption | simp only [Keeps.mk_iff] | apply State.imageRec_keeps | dsimp only | split

theorem State.sessionEnd_keeps {s₀ s : State} (h : Keeps s₀ s) : ∀ a, Keeps s₀ (State.sessionEnd s a) := by
  intro a
  unfold State.sessionEnd
  repeat' with_reducible first
    | assumption | simp only [Keeps.mk_iff] | apply Keeps.ite | apply State.loadAbandon_keeps | apply State.notice_keeps
    | dsimp only | split

theorem State.conModeChange_keeps {s₀ s : State} (h : Keeps s₀ s) : ∀ a, Keeps s₀ (State.conModeChange s a) := by
  intro a
  unfold State.conModeChange
  repeat' with_reducible first
    | assumption | simp only [Keeps.mk_iff] | apply Keeps.ite | apply State.loadAbandon_keeps | apply State.sessionEnd_keeps
    | dsimp only | split

theorem State.modeEnter_keeps {s₀ s : State} (h : Keeps s₀ s) : ∀ a b c d, Keeps s₀ (State.modeEnter s a b c d) := by
  intro a b c d
  unfold State.modeEnter
  repeat' with_reducible first
    | assumption | simp only [Keeps.mk_iff] | apply Keeps.ite | apply State.conModeChange_keeps | apply State.ipendAll_keeps
    | apply State.notice_keeps | apply State.modeRec_keeps | dsimp only | split

theorem State.post_keeps {s₀ s : State} (h : Keeps s₀ s) : ∀ a, Keeps s₀ (State.post s a) := by
  intro a
  unfold State.post
  repeat' with_reducible first
    | assumption | apply Keeps.ite | apply State.setb_keeps | apply State.slotFree_keeps | apply State.slot_keeps | dsimp only
    | split

theorem State.sendFrags_keeps {s₀ s : State} (h : Keeps s₀ s) (a b c d) : Keeps s₀ (State.sendFrags s a b c d) := by
  induction c generalizing s b d with
  | nil => exact h
  | cons p ps ih =>
    cases d with
    | nil => exact h
    | cons n ns => exact ih (State.post_keeps (State.slot_keeps h _ _) _) _ _

theorem State.conFlushFuel_keeps {s₀ s : State} (h : Keeps s₀ s) : ∀ a, Keeps s₀ (State.conFlushFuel a s) := by
  intro a
  induction a generalizing s
  all_goals unfold State.conFlushFuel
  repeat' with_reducible first
    | assumption | simp only [Keeps.mk_iff] | apply Keeps.ite | apply_assumption | apply State.sendFrags_keeps | dsimp only
    | split

theorem State.conFlush_keeps {s₀ s : State} (h : Keeps s₀ s) : Keeps s₀ (State.conFlush s) := by
  unfold State.conFlush
  repeat' with_reducible first
    | assumption | apply State.conFlushFuel_keeps | dsimp only

theorem State.conSend_keeps {s₀ s : State} (h : Keeps s₀ s) : ∀ a b c d, Keeps s₀ (State.conSend s a b c d) := by
  intro a b c d
  unfold State.conSend
  repeat' with_reducible first
    | assumption | simp only [Keeps.mk_iff] | apply State.conFlush_keeps | dsimp only

theorem State.careInfo_keeps {s₀ s : State} (h : Keeps s₀ s) : ∀ a, Keeps s₀ (State.careInfo s a) := by
  intro a
  unfold State.careInfo
  repeat' with_reducible first
    | assumption | simp only [Keeps.mk_iff] | apply Keeps.ite | apply State.bump_keeps | apply State.sendFrags_keeps
    | dsimp only | split

theorem State.pendDrop_keeps {s₀ s : State} (h : Keeps s₀ s) : Keeps s₀ (State.pendDrop s) := by
  unfold State.pendDrop
  repeat' with_reducible first
    | assumption | simp only [Keeps.mk_iff] | dsimp only | split

theorem State.modeAck_keeps {s₀ s : State} (h : Keeps s₀ s) : ∀ a b, Keeps s₀ (State.modeAck s a b) := by
  intro a b
  unfold State.modeAck
  repeat' with_reducible first
    | assumption | apply State.conSend_keeps | dsimp only | split

theorem State.pendDiscard_keeps {s₀ s : State} (h : Keeps s₀ s) : Keeps s₀ (State.pendDiscard s) := by
  unfold State.pendDiscard
  repeat' with_reducible first
    | assumption | apply State.modeAck_keeps | apply State.pendDrop_keeps | dsimp only | split

theorem State.tlogPush_keeps {s₀ s : State} (h : Keeps s₀ s) : ∀ a, Keeps s₀ (State.tlogPush s a) := by
  intro a
  unfold State.tlogPush
  repeat' with_reducible first
    | assumption | simp only [Keeps.mk_iff] | apply Keeps.ite | apply State.bump_keeps | dsimp only | split

theorem State.tlogCopy_keeps {s₀ s : State} (h : Keeps s₀ s) : ∀ a, Keeps s₀ (State.tlogCopy s a) := by
  intro a
  unfold State.tlogCopy
  repeat' with_reducible first
    | assumption | apply State.attic_keeps | apply State.wr_keeps | apply State.ctrAuto_keeps | dsimp only

theorem State.tlogLater_keeps {s₀ s : State} (h : Keeps s₀ s) : Keeps s₀ (State.tlogLater s) := by
  unfold State.tlogLater
  repeat' with_reducible first
    | assumption | apply State.bump_keeps | dsimp only

theorem State.noteBit_keeps {s₀ s : State} (h : Keeps s₀ s) : ∀ a, Keeps s₀ (State.noteBit s a) := by
  intro a
  unfold State.noteBit
  repeat' with_reducible first
    | assumption | apply Keeps.ite | apply State.wr_keeps | dsimp only | split

theorem State.tamperNote_keeps {s₀ s : State} (h : Keeps s₀ s) : ∀ a b, Keeps s₀ (State.tamperNote s a b) := by
  intro a b
  unfold State.tamperNote
  repeat' with_reducible first
    | assumption | apply State.notice_keeps | dsimp only

theorem State.showOnset_keeps {s₀ s : State} (h : Keeps s₀ s) : ∀ a b, Keeps s₀ (State.showOnset s a b) := by
  intro a b
  unfold State.showOnset
  repeat' with_reducible first
    | assumption | simp only [Keeps.mk_iff] | apply Keeps.ite | apply State.tamperNote_keeps | apply State.noteBit_keeps
    | dsimp only | split

theorem State.onset1_keeps {s₀ s : State} (h : Keeps s₀ s) : ∀ a, Keeps s₀ (State.onset1 s a).2 := by
  intro a
  unfold State.onset1
  repeat' with_reducible first
    | assumption | simp only [Keeps.mk_iff] | apply Keeps.ite | apply Keeps.ite_snd | apply State.bump_keeps
    | apply State.wr_keeps | apply State.tlogLater_keeps | apply State.tlogCopy_keeps | apply State.tlogPush_keeps
    | apply State.showOnset_keeps | dsimp only | apply Keeps.ite_snd3 | apply Keeps.ite_fst | apply Keeps.ite_snd4
    | refine Keeps.of_snd (by assumption) ?_ | refine Keeps.of_snd3 (by assumption) ?_
    | refine Keeps.of_snd4 (by assumption) ?_ | refine Keeps.of_fst (by assumption) ?_ | split

theorem State.remaskTear_keeps {s₀ s : State} (h : Keeps s₀ s) : Keeps s₀ (State.remaskTear s) := by
  unfold State.remaskTear
  repeat' with_reducible first
    | assumption | simp only [Keeps.mk_iff] | apply Keeps.ite | apply Keeps.ite_snd | apply State.drbgWords_keeps
    | apply State.choose_keeps | dsimp only | apply Keeps.ite_snd3 | apply Keeps.ite_fst | apply Keeps.ite_snd4
    | refine Keeps.of_snd (by assumption) ?_ | refine Keeps.of_snd3 (by assumption) ?_
    | refine Keeps.of_snd4 (by assumption) ?_ | refine Keeps.of_fst (by assumption) ?_ | split

theorem State.eraseVault_keeps {s₀ s : State} (h : Keeps s₀ s) : Keeps s₀ (State.eraseVault s) := by
  unfold State.eraseVault
  repeat' with_reducible first
    | assumption | simp only [Keeps.mk_iff] | apply State.setb_keeps | dsimp only

theorem State.mainReset_keeps {s₀ s : State} (h : Keeps s₀ s) : Keeps s₀ (State.mainReset s) := by
  unfold State.mainReset
  repeat' with_reducible first
    | assumption | simp only [Keeps.mk_iff] | apply Keeps.ite | dsimp only | split

theorem State.tearUnit_keeps {s₀ s : State} (h : Keeps s₀ s) : ∀ a, Keeps s₀ (State.tearUnit s a) := by
  intro a
  unfold State.tearUnit
  repeat' with_reducible first
    | assumption | apply Keeps.ite | apply Keeps.ite_snd | apply State.anyWords_keeps | apply State.choose_keeps
    | apply State.arcPut_keeps | dsimp only | apply Keeps.ite_snd3 | apply Keeps.ite_fst | apply Keeps.ite_snd4
    | refine Keeps.of_snd (by assumption) ?_ | refine Keeps.of_snd3 (by assumption) ?_
    | refine Keeps.of_snd4 (by assumption) ?_ | refine Keeps.of_fst (by assumption) ?_ | split

theorem State.enterReset_keeps {s₀ s : State} (h : Keeps s₀ s) : ∀ a b c, Keeps s₀ (State.enterReset s a b c) := by
  intro a b c
  unfold State.enterReset
  repeat' with_reducible first
    | assumption | simp only [Keeps.mk_iff] | apply Keeps.ite | apply Keeps.ite_snd | apply State.remaskTear_keeps
    | apply State.mainReset_keeps | apply State.tearUnit_keeps | apply State.wrs_keeps | apply State.modeRec_keeps
    | dsimp only | apply Keeps.ite_snd3 | apply Keeps.ite_fst | apply Keeps.ite_snd4 | refine Keeps.of_snd (by assumption) ?_
    | refine Keeps.of_snd3 (by assumption) ?_ | refine Keeps.of_snd4 (by assumption) ?_
    | refine Keeps.of_fst (by assumption) ?_ | split

theorem State.responseReset_keeps {s₀ s : State} (h : Keeps s₀ s) : ∀ a b, Keeps s₀ (State.responseReset s a b) := by
  intro a b
  unfold State.responseReset
  repeat' with_reducible first
    | assumption | simp only [Keeps.mk_iff] | apply State.enterReset_keeps | dsimp only

theorem State.lockNow_keeps {s₀ s : State} (h : Keeps s₀ s) : ∀ a, Keeps s₀ (State.lockNow s a) := by
  intro a
  unfold State.lockNow
  repeat' with_reducible first
    | assumption | simp only [Keeps.mk_iff] | apply Keeps.ite | apply State.pendDiscard_keeps | apply State.wr_keeps
    | apply State.jobCancelAll_keeps | apply State.shelvesClear_keeps | apply State.enginesStop_keeps | apply State.setb_keeps
    | apply State.modeEnter_keeps | apply State.coresReset_keeps | dsimp only | split

theorem State.respond_keeps {s₀ s : State} (h : Keeps s₀ s) : ∀ a b, Keeps s₀ (State.respond s a b) := by
  intro a b
  unfold State.respond
  repeat' with_reducible first
    | assumption | simp only [Keeps.mk_iff] | apply Keeps.ite | apply Keeps.ite_snd | apply State.eraseVault_keeps
    | apply State.responseReset_keeps | apply State.lockNow_keeps | apply State.wrs_keeps | dsimp only | apply Keeps.ite_snd3
    | apply Keeps.ite_fst | apply Keeps.ite_snd4 | refine Keeps.of_snd (by assumption) ?_
    | refine Keeps.of_snd3 (by assumption) ?_ | refine Keeps.of_snd4 (by assumption) ?_
    | refine Keeps.of_fst (by assumption) ?_ | split

theorem State.onsets_keeps {s₀ s : State} (h : Keeps s₀ s) : ∀ a, Keeps s₀ (State.onsets s a) := by
  intro a
  unfold State.onsets
  repeat' with_reducible first
    | assumption | intro _ | apply State.onset1_keeps | apply State.respond_keeps | apply Keeps.foldl | dsimp only
    | apply Keeps.foldl_snd | apply Keeps.foldl_snd3 | apply Keeps.foldl_fst | refine Keeps.of_snd (by assumption) ?_
    | refine Keeps.of_snd3 (by assumption) ?_ | refine Keeps.of_snd4 (by assumption) ?_
    | refine Keeps.of_fst (by assumption) ?_ | split

theorem State.raise_keeps {s₀ s : State} (h : Keeps s₀ s) : ∀ a, Keeps s₀ (State.raise s a) := by
  intro a
  unfold State.raise
  repeat' with_reducible first
    | assumption | apply State.onsets_keeps | dsimp only

theorem State.misuse_keeps {s₀ s : State} (h : Keeps s₀ s) : Keeps s₀ (State.misuse s) := by
  unfold State.misuse
  repeat' with_reducible first
    | assumption | apply State.raise_keeps | dsimp only

theorem State.eccUncorr_keeps {s₀ s : State} (h : Keeps s₀ s) : Keeps s₀ (State.eccUncorr s) := by
  unfold State.eccUncorr
  repeat' with_reducible first
    | assumption | apply State.raise_keeps | dsimp only

theorem State.imageFail_keeps {s₀ s : State} (h : Keeps s₀ s) : Keeps s₀ (State.imageFail s) := by
  unfold State.imageFail
  repeat' with_reducible first
    | assumption | apply State.raise_keeps | dsimp only

theorem State.hatchBad_keeps {s₀ s : State} (h : Keeps s₀ s) : ∀ a, Keeps s₀ (State.hatchBad s a) := by
  intro a
  unfold State.hatchBad
  repeat' with_reducible first
    | assumption | apply State.setb_keeps | apply State.misuse_keeps | dsimp only

theorem State.hatchClaim_keeps {s₀ s : State} (h : Keeps s₀ s) : ∀ a b, Keeps s₀ (State.hatchClaim s a b) := by
  intro a b
  unfold State.hatchClaim
  repeat' with_reducible first
    | assumption | apply Keeps.ite | apply State.hatchBad_keeps | apply State.slot_keeps | dsimp only | split

theorem State.hatchRing_keeps {s₀ s : State} (h : Keeps s₀ s) : ∀ a b, Keeps s₀ (State.hatchRing s a b) := by
  intro a b
  unfold State.hatchRing
  repeat' with_reducible first
    | assumption | apply Keeps.ite | apply State.post_keeps | apply State.setb_keeps | apply State.hatchBad_keeps | dsimp only
    | split

theorem State.hatchAbandon_keeps {s₀ s : State} (h : Keeps s₀ s) : ∀ a b, Keeps s₀ (State.hatchAbandon s a b) := by
  intro a b
  unfold State.hatchAbandon
  repeat' with_reducible first
    | assumption | apply Keeps.ite | apply State.conFlush_keeps | apply State.hatchBad_keeps | apply State.slotFree_keeps
    | dsimp only | split

theorem State.hatchDone_keeps {s₀ s : State} (h : Keeps s₀ s) : ∀ a b, Keeps s₀ (State.hatchDone s a b) := by
  intro a b
  unfold State.hatchDone
  repeat' with_reducible first
    | assumption | apply Keeps.ite | apply State.conFlush_keeps | apply State.hatchBad_keeps | apply State.slotFree_keeps
    | dsimp only | split

theorem State.msgDone_keeps {s₀ s : State} (h : Keeps s₀ s) : ∀ a, Keeps s₀ (State.msgDone s a) := by
  intro a
  unfold State.msgDone
  repeat' with_reducible first
    | assumption | intro _ | apply State.conFlush_keeps | apply State.slotFree_keeps | apply Keeps.foldl | dsimp only
    | apply Keeps.foldl_snd | apply Keeps.foldl_snd3 | apply Keeps.foldl_fst

theorem State.appletBroken_keeps {s₀ s : State} (h : Keeps s₀ s) : ∀ a, Keeps s₀ (State.appletBroken s a) := by
  intro a
  unfold State.appletBroken
  repeat' with_reducible first
    | assumption | apply Keeps.ite | apply State.appletDrop_keeps | dsimp only | split

theorem State.msgDiscard_keeps {s₀ s : State} (h : Keeps s₀ s) : ∀ a, Keeps s₀ (State.msgDiscard s a) := by
  intro a
  unfold State.msgDiscard
  repeat' with_reducible first
    | assumption | apply State.appletBroken_keeps | apply State.msgDone_keeps | apply State.setb_keeps
    | apply State.misuse_keeps | dsimp only

theorem State.hatchTake_keeps {s₀ s : State} (h : Keeps s₀ s) : ∀ a b, Keeps s₀ (State.hatchTake s a b) := by
  intro a b
  unfold State.hatchTake
  repeat' with_reducible first
    | assumption | apply Keeps.ite | apply State.msgDiscard_keeps | apply State.hatchBad_keeps | apply State.slot_keeps
    | dsimp only | split

theorem State.bodyAccess_keeps {s₀ s : State} (h : Keeps s₀ s) : ∀ a b c d, Keeps s₀ (State.bodyAccess s a b c d) := by
  intro a b c d
  unfold State.bodyAccess
  repeat' with_reducible first
    | assumption | apply Keeps.ite | apply State.hatchBad_keeps | apply State.slot_keeps | dsimp only | split

theorem State.loaded_keeps {s₀ s : State} (h : Keeps s₀ s) : ∀ a b, Keeps s₀ (State.loaded s a b) := by
  intro a b
  unfold State.loaded
  repeat' with_reducible first
    | assumption | simp only [Keeps.mk_iff] | dsimp only

theorem execClaim_keeps {s₀ s : State} (h : Keeps s₀ s) : ∀ a b, Keeps s₀ (afterExec (execClaim a b s) s) := by
  intro a b
  unfold execClaim afterExec
  repeat' with_reducible first
    | assumption | intro _ | apply State.byAgent_keeps | apply State.hatchClaim_keeps | dsimp only

theorem execRing_keeps {s₀ s : State} (h : Keeps s₀ s) : ∀ a b, Keeps s₀ (afterExec (execRing a b s) s) := by
  intro a b
  unfold execRing afterExec
  repeat' with_reducible first
    | assumption | intro _ | apply State.byAgent_keeps | apply State.hatchRing_keeps | dsimp only

theorem execAbandon_keeps {s₀ s : State} (h : Keeps s₀ s) : ∀ a b, Keeps s₀ (afterExec (execAbandon a b s) s) := by
  intro a b
  unfold execAbandon afterExec
  repeat' with_reducible first
    | assumption | intro _ | apply State.byAgent_keeps | apply State.hatchAbandon_keeps | dsimp only

theorem execTake_keeps {s₀ s : State} (h : Keeps s₀ s) : ∀ a b, Keeps s₀ (afterExec (execTake a b s) s) := by
  intro a b
  unfold execTake afterExec
  repeat' with_reducible first
    | assumption | intro _ | apply State.byAgent_keeps | apply State.hatchTake_keeps | dsimp only

theorem execDone_keeps {s₀ s : State} (h : Keeps s₀ s) : ∀ a b, Keeps s₀ (afterExec (execDone a b s) s) := by
  intro a b
  unfold execDone afterExec
  repeat' with_reducible first
    | assumption | intro _ | apply State.hatchDone_keeps | apply State.byAgent_keeps | dsimp only

theorem execHatchBodyAccess_keeps {s₀ s : State} (h : Keeps s₀ s) :
    ∀ a b c d, Keeps s₀ (afterExec (execHatchBodyAccess a b c d s) s) := by
  intro a b c d
  unfold execHatchBodyAccess afterExec
  repeat' with_reducible first
    | assumption | intro _ | apply State.byAgent_keeps | apply State.loaded_keeps | apply State.bodyAccess_keeps | dsimp only
    | split

end Sys2Proof.Machine
end

