-- ==== Sys2Proof/Laws/Keeps2.lean ====
section
/-!
SUPPORT. Keeps2.lean: the operations of StoreRoom.lean, Vault.lean, Pke.lean keep the queue of commands, the canonical form of
the memory and the blown fuses (Laws/Keeps.lean). A lemma of a command's meaning speaks of the state after it.
-/
namespace Sys2Proof.Machine

theorem State.sWrite_keeps {s₀ s : State} (h : Keeps s₀ s) : ∀ a b c, Keeps s₀ (State.sWrite s a b c) := by
  intro a b c
  unfold State.sWrite
  repeat' with_reducible first
    | assumption | simp only [Keeps.mk_iff] | dsimp only

theorem State.sCopy_keeps {s₀ s : State} (h : Keeps s₀ s) : ∀ a b, Keeps s₀ (State.sCopy s a b) := by
  intro a b
  unfold State.sCopy
  repeat' with_reducible first
    | assumption | simp only [Keeps.mk_iff] | apply Keeps.ite | apply State.sWrite_keeps | dsimp only | split

theorem State.sClear_keeps {s₀ s : State} (h : Keeps s₀ s) : ∀ a, Keeps s₀ (State.sClear s a) := by
  intro a
  unfold State.sClear
  repeat' with_reducible first
    | assumption | apply State.sWrite_keeps | dsimp only

theorem State.strScan_keeps {s₀ s : State} (h : Keeps s₀ s) : ∀ a b, Keeps s₀ (State.strScan s a b).2 := by
  intro a b
  unfold State.strScan
  repeat' with_reducible first
    | assumption | intro _ | simp only [Keeps.mk_iff] | apply State.wr_keeps | apply State.setb_keeps | apply Keeps.foldl
    | dsimp only | apply Keeps.foldl_snd | apply Keeps.foldl_snd3 | apply Keeps.foldl_fst
    | refine Keeps.of_snd (by assumption) ?_ | refine Keeps.of_snd3 (by assumption) ?_
    | refine Keeps.of_snd4 (by assumption) ?_ | refine Keeps.of_fst (by assumption) ?_ | split

theorem State.strSearch_keeps {s₀ s : State} (h : Keeps s₀ s) : ∀ a b c, Keeps s₀ (State.strSearch s a b c).2 := by
  intro a b c
  unfold State.strSearch
  repeat' with_reducible first
    | assumption | apply Keeps.ite | apply Keeps.ite_snd | apply State.strScan_keeps | dsimp only | apply Keeps.ite_snd3
    | apply Keeps.ite_fst | apply Keeps.ite_snd4 | refine Keeps.of_snd (by assumption) ?_
    | refine Keeps.of_snd3 (by assumption) ?_ | refine Keeps.of_snd4 (by assumption) ?_
    | refine Keeps.of_fst (by assumption) ?_ | split

theorem State.strAsk_keeps {s₀ s : State} (h : Keeps s₀ s) : ∀ a b, Keeps s₀ (State.strAsk s a b).2 := by
  intro a b
  unfold State.strAsk
  repeat' with_reducible first
    | assumption | apply Keeps.ite | apply Keeps.ite_snd | apply State.strSearch_keeps | dsimp only | apply Keeps.ite_snd3
    | apply Keeps.ite_fst | apply Keeps.ite_snd4 | refine Keeps.of_snd (by assumption) ?_
    | refine Keeps.of_snd3 (by assumption) ?_ | refine Keeps.of_snd4 (by assumption) ?_
    | refine Keeps.of_fst (by assumption) ?_ | split

theorem State.coreSearch_keeps {s₀ s : State} (h : Keeps s₀ s) : ∀ a b, Keeps s₀ (State.coreSearch s a b) := by
  intro a b
  unfold State.coreSearch
  repeat' with_reducible first
    | assumption | apply Keeps.ite | apply Keeps.ite_snd | apply State.strAsk_keeps | apply State.wrs_keeps | dsimp only
    | apply Keeps.ite_snd3 | apply Keeps.ite_fst | apply Keeps.ite_snd4 | refine Keeps.of_snd (by assumption) ?_
    | refine Keeps.of_snd3 (by assumption) ?_ | refine Keeps.of_snd4 (by assumption) ?_
    | refine Keeps.of_fst (by assumption) ?_ | split

theorem State.strImage_keeps {s₀ s : State} (h : Keeps s₀ s) : Keeps s₀ (State.strImage s) := by
  unfold State.strImage
  repeat' with_reducible first
    | assumption | simp only [Keeps.mk_iff] | dsimp only

theorem State.strRoom_keeps {s₀ s : State} (h : Keeps s₀ s) : Keeps s₀ (State.strRoom s) := by
  unfold State.strRoom
  repeat' with_reducible first
    | assumption | apply Keeps.ite | apply State.strImage_keeps | dsimp only | split

theorem State.strStamp_keeps {s₀ s : State} (h : Keeps s₀ s) : Keeps s₀ (State.strStamp s) := by
  unfold State.strStamp
  repeat' with_reducible first
    | assumption | simp only [Keeps.mk_iff] | dsimp only

theorem State.strLogAdd_keeps {s₀ s : State} (h : Keeps s₀ s) : ∀ a b, Keeps s₀ (State.strLogAdd s a b) := by
  intro a b
  unfold State.strLogAdd
  repeat' with_reducible first
    | assumption | simp only [Keeps.mk_iff] | apply Keeps.ite | apply Keeps.ite_snd | dsimp only | apply Keeps.ite_snd3
    | apply Keeps.ite_fst | apply Keeps.ite_snd4 | refine Keeps.of_snd (by assumption) ?_
    | refine Keeps.of_snd3 (by assumption) ?_ | refine Keeps.of_snd4 (by assumption) ?_
    | refine Keeps.of_fst (by assumption) ?_ | split

theorem State.strReport_keeps {s₀ s : State} (h : Keeps s₀ s) : ∀ a b c d, Keeps s₀ (State.strReport s a b c d) := by
  intro a b c d
  unfold State.strReport
  repeat' with_reducible first
    | assumption | apply Keeps.ite | apply Keeps.ite_snd | apply State.conSend_keeps | apply State.wrs_keeps | dsimp only
    | apply Keeps.ite_snd3 | apply Keeps.ite_fst | apply Keeps.ite_snd4 | refine Keeps.of_snd (by assumption) ?_
    | refine Keeps.of_snd3 (by assumption) ?_ | refine Keeps.of_snd4 (by assumption) ?_
    | refine Keeps.of_fst (by assumption) ?_ | split

theorem State.raStale_keeps {s₀ s : State} (h : Keeps s₀ s) : ∀ a, Keeps s₀ (State.raStale s a) := by
  intro a
  unfold State.raStale
  repeat' with_reducible first
    | assumption | intro _ | apply Keeps.ite | apply Keeps.ite_snd | apply State.wrs_keeps | apply Keeps.foldl | dsimp only
    | apply Keeps.foldl_snd | apply Keeps.foldl_snd3 | apply Keeps.foldl_fst | apply Keeps.ite_snd3 | apply Keeps.ite_fst
    | apply Keeps.ite_snd4 | refine Keeps.of_snd (by assumption) ?_ | refine Keeps.of_snd3 (by assumption) ?_
    | refine Keeps.of_snd4 (by assumption) ?_ | refine Keeps.of_fst (by assumption) ?_ | split

theorem State.strFinish_keeps {s₀ s : State} (h : Keeps s₀ s) : ∀ a b c, Keeps s₀ (State.strFinish s a b c) := by
  intro a b c
  unfold State.strFinish
  repeat' with_reducible first
    | assumption | simp only [Keeps.mk_iff] | apply Keeps.ite | apply State.strReport_keeps | apply State.strRoom_keeps
    | apply State.strLogAdd_keeps | apply State.strStamp_keeps | dsimp only | split

theorem State.strHeldFlush_keeps {s₀ s : State} (h : Keeps s₀ s) : Keeps s₀ (State.strHeldFlush s) := by
  unfold State.strHeldFlush
  repeat' with_reducible first
    | assumption | intro _ | simp only [Keeps.mk_iff] | apply State.strReport_keeps | apply State.strRoom_keeps
    | apply State.strLogAdd_keeps | apply Keeps.foldl | dsimp only | apply Keeps.foldl_snd | apply Keeps.foldl_snd3
    | apply Keeps.foldl_fst | split

theorem State.shiftUp_keeps {s₀ s : State} (h : Keeps s₀ s) : ∀ a b, Keeps s₀ (State.shiftUp s a b) := by
  intro a b
  induction b generalizing s a
  all_goals unfold State.shiftUp
  repeat' with_reducible first
    | assumption | apply_assumption | apply State.sCopy_keeps | dsimp only | split

theorem State.shiftDown_keeps {s₀ s : State} (h : Keeps s₀ s) : ∀ a b, Keeps s₀ (State.shiftDown s a b) := by
  intro a b
  induction b generalizing s a
  all_goals unfold State.shiftDown
  repeat' with_reducible first
    | assumption | apply_assumption | apply State.sCopy_keeps | dsimp only | split

theorem State.strPlace_keeps {s₀ s : State} (h : Keeps s₀ s) : ∀ a b c, Keeps s₀ (State.strPlace s a b c).2 := by
  intro a b c
  unfold State.strPlace
  repeat' with_reducible first
    | assumption | apply Keeps.ite | apply Keeps.ite_snd | apply State.shiftDown_keeps | apply State.sWrite_keeps
    | apply State.shiftUp_keeps | dsimp only | apply Keeps.ite_snd3 | apply Keeps.ite_fst | apply Keeps.ite_snd4
    | refine Keeps.of_snd (by assumption) ?_ | refine Keeps.of_snd3 (by assumption) ?_
    | refine Keeps.of_snd4 (by assumption) ?_ | refine Keeps.of_fst (by assumption) ?_ | split

theorem State.strInsert_keeps {s₀ s : State} (h : Keeps s₀ s) : ∀ a b, Keeps s₀ (State.strInsert s a b).2 := by
  intro a b
  unfold State.strInsert
  repeat' with_reducible first
    | assumption | simp only [Keeps.mk_iff] | apply Keeps.ite | apply Keeps.ite_snd | apply State.strFinish_keeps
    | apply State.raStale_keeps | apply State.strPlace_keeps | dsimp only | apply Keeps.ite_snd3 | apply Keeps.ite_fst
    | apply Keeps.ite_snd4 | refine Keeps.of_snd (by assumption) ?_ | refine Keeps.of_snd3 (by assumption) ?_
    | refine Keeps.of_snd4 (by assumption) ?_ | refine Keeps.of_fst (by assumption) ?_ | split

theorem State.strRemove_keeps {s₀ s : State} (h : Keeps s₀ s) : ∀ a b, Keeps s₀ (State.strRemove s a b) := by
  intro a b
  unfold State.strRemove
  repeat' with_reducible first
    | assumption | apply Keeps.ite | apply State.strReport_keeps | apply State.sClear_keeps | apply State.strFinish_keeps
    | apply State.raStale_keeps | dsimp only | split

theorem State.strBusy_keeps {s₀ s : State} (h : Keeps s₀ s) : ∀ a, Keeps s₀ (State.strBusy s a) := by
  intro a
  unfold State.strBusy
  repeat' with_reducible first
    | assumption | apply Keeps.ite | apply State.strReport_keeps | dsimp only | split

theorem State.strUpdate_keeps {s₀ s : State} (h : Keeps s₀ s) : ∀ a, Keeps s₀ (State.strUpdate s a) := by
  intro a
  unfold State.strUpdate
  repeat' with_reducible first
    | assumption | simp only [Keeps.mk_iff] | apply Keeps.ite | apply Keeps.ite_snd | apply State.strReport_keeps
    | apply State.strBusy_keeps | apply State.strRemove_keeps | apply State.setb_keeps | apply State.strInsert_keeps
    | dsimp only | apply Keeps.ite_snd3 | apply Keeps.ite_fst | apply Keeps.ite_snd4 | refine Keeps.of_snd (by assumption) ?_
    | refine Keeps.of_snd3 (by assumption) ?_ | refine Keeps.of_snd4 (by assumption) ?_
    | refine Keeps.of_fst (by assumption) ?_ | split

theorem State.strWrite_keeps {s₀ s : State} (h : Keeps s₀ s) : ∀ a, Keeps s₀ (State.strWrite s a) := by
  intro a
  unfold State.strWrite
  repeat' with_reducible first
    | assumption | apply State.strUpdate_keeps | dsimp only

theorem State.updTry_keeps {s₀ s : State} (h : Keeps s₀ s) : ∀ a, Keeps s₀ (State.updTry s a) := by
  intro a
  unfold State.updTry
  repeat' with_reducible first
    | assumption | simp only [Keeps.mk_iff] | apply Keeps.ite | apply Keeps.ite_snd | apply State.strReport_keeps
    | apply State.strBusy_keeps | apply State.strRemove_keeps | apply State.strInsert_keeps | dsimp only
    | apply Keeps.ite_snd3 | apply Keeps.ite_fst | apply Keeps.ite_snd4 | refine Keeps.of_snd (by assumption) ?_
    | refine Keeps.of_snd3 (by assumption) ?_ | refine Keeps.of_snd4 (by assumption) ?_
    | refine Keeps.of_fst (by assumption) ?_ | split

theorem State.insertResume_keeps {s₀ s : State} (h : Keeps s₀ s) : Keeps s₀ (State.insertResume s) := by
  unfold State.insertResume
  repeat' with_reducible first
    | assumption | intro _ | apply Keeps.ite | apply State.updTry_keeps | apply Keeps.foldl | dsimp only
    | apply Keeps.foldl_snd | apply Keeps.foldl_snd3 | apply Keeps.foldl_fst | split

theorem State.strInvalidate_keeps {s₀ s : State} (h : Keeps s₀ s) : ∀ a b, Keeps s₀ (State.strInvalidate s a b) := by
  intro a b
  unfold State.strInvalidate
  repeat' with_reducible first
    | assumption | apply State.strUpdate_keeps | dsimp only

theorem State.coreUpdate_keeps {s₀ s : State} (h : Keeps s₀ s) : ∀ a b, Keeps s₀ (State.coreUpdate s a b) := by
  intro a b
  unfold State.coreUpdate
  repeat' with_reducible first
    | assumption | apply Keeps.ite | apply State.strInvalidate_keeps | apply State.strWrite_keeps | apply State.misuse_keeps
    | dsimp only | split

theorem State.setMoves_keeps {s₀ s : State} (h : Keeps s₀ s) : ∀ a, Keeps s₀ (State.setMoves s a) := by
  intro a
  unfold State.setMoves
  repeat' with_reducible first
    | assumption | simp only [Keeps.mk_iff] | apply State.wr_keeps | dsimp only

theorem State.setMove_keeps {s₀ s : State} (h : Keeps s₀ s) : ∀ a, Keeps s₀ (State.setMove s a) := by
  intro a
  unfold State.setMove
  repeat' with_reducible first
    | assumption | apply State.setMoves_keeps | dsimp only

theorem State.moveFront_keeps {s₀ s : State} (h : Keeps s₀ s) : Keeps s₀ (State.moveFront s) := by
  unfold State.moveFront
  repeat' with_reducible first
    | assumption | simp only [Keeps.mk_iff] | dsimp only | split

theorem State.moveLog_keeps {s₀ s : State} (h : Keeps s₀ s) : ∀ a, Keeps s₀ (State.moveLog s a) := by
  intro a
  unfold State.moveLog
  repeat' with_reducible first
    | assumption | simp only [Keeps.mk_iff] | apply Keeps.ite | apply State.strRoom_keeps | apply State.strLogAdd_keeps
    | apply State.strStamp_keeps | dsimp only | split

theorem State.moveEnd_keeps {s₀ s : State} (h : Keeps s₀ s) : ∀ a b, Keeps s₀ (State.moveEnd s a b) := by
  intro a b
  unfold State.moveEnd
  repeat' with_reducible first
    | assumption | apply Keeps.ite | apply State.moveLog_keeps | apply State.bump_keeps | apply State.sClear_keeps
    | apply State.setMoves_keeps | dsimp only | split

theorem State.moveDrop_keeps {s₀ s : State} (h : Keeps s₀ s) : Keeps s₀ (State.moveDrop s) := by
  unfold State.moveDrop
  repeat' with_reducible first
    | assumption | apply State.setMoves_keeps | dsimp only

theorem State.moveStep_keeps {s₀ s t : State} (h : Keeps s₀ s) (eq : State.moveStep s = some t) : Keeps s₀ t := by
  unfold State.moveStep at eq
  try dsimp only at eq
  repeat' split at eq
  all_goals simp only [Option.some.injEq, reduceCtorEq] at eq
  all_goals try subst eq
  repeat' with_reducible first
    | assumption | apply Keeps.ite | apply State.setMove_keeps | apply State.moveLog_keeps | apply State.moveDrop_keeps
    | apply State.moveEnd_keeps | apply State.sCopy_keeps | apply State.moveFront_keeps | dsimp only | split

theorem State.moveSteps_keeps {s₀ s : State} (h : Keeps s₀ s) : ∀ a, Keeps s₀ (State.moveSteps a s) := by
  intro a
  induction a generalizing s
  all_goals unfold State.moveSteps
  repeat' with_reducible first
    | assumption | simp only [Keeps.mk_iff] | apply Keeps.ite | apply_assumption
    | refine State.moveStep_keeps ?_ (by assumption) | dsimp only | split

theorem State.ledgerOne_keeps {s₀ s : State} (h : Keeps s₀ s) : ∀ a, Keeps s₀ (State.ledgerOne s a).2 := by
  intro a
  unfold State.ledgerOne
  repeat' with_reducible first
    | assumption | simp only [Keeps.mk_iff] | apply Keeps.ite | apply Keeps.ite_snd | apply State.attic_keeps
    | apply State.bump_keeps | apply State.wr_keeps | apply State.setb_keeps | apply State.sWrite_keeps
    | apply State.careInfo_keeps | dsimp only | apply Keeps.ite_snd3 | apply Keeps.ite_fst | apply Keeps.ite_snd4
    | refine Keeps.of_snd (by assumption) ?_ | refine Keeps.of_snd3 (by assumption) ?_
    | refine Keeps.of_snd4 (by assumption) ?_ | refine Keeps.of_fst (by assumption) ?_ | split

theorem State.ledgerLoop_keeps {s₀ s : State} (h : Keeps s₀ s) : ∀ a b, Keeps s₀ (State.ledgerLoop a b s).2 := by
  intro a b
  induction a generalizing b s
  all_goals unfold State.ledgerLoop
  repeat' with_reducible first
    | assumption | simp only [Keeps.mk_iff] | apply_assumption | apply State.ledgerOne_keeps | dsimp only
    | refine Keeps.of_snd (by assumption) ?_ | refine Keeps.of_snd3 (by assumption) ?_
    | refine Keeps.of_snd4 (by assumption) ?_ | refine Keeps.of_fst (by assumption) ?_ | split

theorem State.strDestroy_keeps {s₀ s : State} (h : Keeps s₀ s) : Keeps s₀ (State.strDestroy s) := by
  unfold State.strDestroy
  repeat' with_reducible first
    | assumption | simp only [Keeps.mk_iff] | apply State.wr_keeps | dsimp only

theorem State.strLoad_keeps {s₀ s : State} (h : Keeps s₀ s) : Keeps s₀ (State.strLoad s) := by
  unfold State.strLoad
  repeat' with_reducible first
    | assumption | simp only [Keeps.mk_iff] | apply State.wr_keeps | dsimp only | split

theorem execStrWrite_keeps {s₀ s : State} (h : Keeps s₀ s) : ∀ a, Keeps s₀ (afterExec (execStrWrite a s) s) := by
  intro a
  unfold execStrWrite afterExec
  repeat' with_reducible first
    | assumption | intro _ | apply State.byCore_keeps | apply State.coreUpdate_keeps | dsimp only

theorem execStrInvalidate_keeps {s₀ s : State} (h : Keeps s₀ s) : ∀ a, Keeps s₀ (afterExec (execStrInvalidate a s) s) := by
  intro a
  unfold execStrInvalidate afterExec
  repeat' with_reducible first
    | assumption | intro _ | apply State.byCore_keeps | apply State.coreUpdate_keeps | dsimp only

theorem execCoreSearch_keeps {s₀ s : State} (h : Keeps s₀ s) : ∀ a b, Keeps s₀ (afterExec (execCoreSearch a b s) s) := by
  intro a b
  unfold execCoreSearch afterExec
  repeat' with_reducible first
    | assumption | intro _ | apply State.coreSearch_keeps | apply State.byCore_keeps | dsimp only

theorem execBlockMove_keeps {s₀ s : State} (h : Keeps s₀ s) : ∀ a, Keeps s₀ (afterExec (execBlockMove a s) s) := by
  intro a
  unfold execBlockMove afterExec
  repeat' with_reducible first
    | assumption | apply State.moveSteps_keeps | dsimp only

theorem State.vSet_keeps {s₀ s : State} (h : Keeps s₀ s) : ∀ a b, Keeps s₀ (State.vSet s a b) := by
  intro a b
  unfold State.vSet
  repeat' with_reducible first
    | assumption | simp only [Keeps.mk_iff] | dsimp only

theorem State.vWrite_keeps {s₀ s : State} (h : Keeps s₀ s) : ∀ a b, Keeps s₀ (State.vWrite s a b) := by
  intro a b
  unfold State.vWrite
  repeat' with_reducible first
    | assumption | apply State.drbgWords_keeps | apply State.vSet_keeps | dsimp only | refine Keeps.of_snd (by assumption) ?_
    | refine Keeps.of_snd3 (by assumption) ?_ | refine Keeps.of_snd4 (by assumption) ?_
    | refine Keeps.of_fst (by assumption) ?_ | split

theorem State.kWrite_keeps {s₀ s : State} (h : Keeps s₀ s) : ∀ a, Keeps s₀ (State.kWrite s a).2 := by
  intro a
  unfold State.kWrite
  repeat' with_reducible first
    | assumption | simp only [Keeps.mk_iff] | apply Keeps.ite | apply Keeps.ite_snd | apply State.strInsert_keeps | dsimp only
    | apply Keeps.ite_snd3 | apply Keeps.ite_fst | apply Keeps.ite_snd4 | refine Keeps.of_snd (by assumption) ?_
    | refine Keeps.of_snd3 (by assumption) ?_ | refine Keeps.of_snd4 (by assumption) ?_
    | refine Keeps.of_fst (by assumption) ?_ | split

theorem State.kErase_keeps {s₀ s : State} (h : Keeps s₀ s) : ∀ a, Keeps s₀ (State.kErase s a) := by
  intro a
  unfold State.kErase
  repeat' with_reducible first
    | assumption | apply State.strInvalidate_keeps | dsimp only

theorem State.kRemove_keeps {s₀ s : State} (h : Keeps s₀ s) : ∀ a, Keeps s₀ (State.kRemove s a) := by
  intro a
  unfold State.kRemove
  repeat' with_reducible first
    | assumption | intro _ | simp only [Keeps.mk_iff] | apply State.kErase_keeps | apply Keeps.foldl | dsimp only
    | apply Keeps.foldl_snd | apply Keeps.foldl_snd3 | apply Keeps.foldl_fst

theorem State.vUseEntry_keeps {s₀ s : State} (h : Keeps s₀ s) : ∀ a, Keeps s₀ (State.vUseEntry s a).2.2 := by
  intro a
  unfold State.vUseEntry
  repeat' with_reducible first
    | assumption | simp only [Keeps.mk_iff] | apply Keeps.ite | apply Keeps.ite_snd | dsimp only | apply Keeps.ite_snd3
    | apply Keeps.ite_fst | apply Keeps.ite_snd4 | refine Keeps.of_snd (by assumption) ?_
    | refine Keeps.of_snd3 (by assumption) ?_ | refine Keeps.of_snd4 (by assumption) ?_
    | refine Keeps.of_fst (by assumption) ?_ | split

theorem State.vPieces_keeps {s₀ s : State} (h : Keeps s₀ s) : ∀ a b c d e, Keeps s₀ (State.vPieces s a b c d e) := by
  intro a b c d e
  induction d generalizing s a b c e
  all_goals unfold State.vPieces
  repeat' with_reducible first
    | assumption | simp only [Keeps.mk_iff] | apply Keeps.ite | apply_assumption | apply State.vWrite_keeps | dsimp only
    | split

theorem State.vCount_keeps {s₀ s : State} (h : Keeps s₀ s) : ∀ a, Keeps s₀ (State.vCount s a) := by
  intro a
  unfold State.vCount
  repeat' with_reducible first
    | assumption | simp only [Keeps.mk_iff] | dsimp only

theorem State.vStoreNow_keeps {s₀ s : State} (h : Keeps s₀ s) : ∀ a b, Keeps s₀ (State.vStoreNow s a b).2.2 := by
  intro a b
  unfold State.vStoreNow
  repeat' with_reducible first
    | assumption | apply Keeps.ite | apply Keeps.ite_snd | apply State.vSet_keeps | apply State.kWrite_keeps
    | apply State.vPieces_keeps | apply State.vCount_keeps | dsimp only | apply Keeps.ite_snd3 | apply Keeps.ite_fst
    | apply Keeps.ite_snd4 | refine Keeps.of_snd (by assumption) ?_ | refine Keeps.of_snd3 (by assumption) ?_
    | refine Keeps.of_snd4 (by assumption) ?_ | refine Keeps.of_fst (by assumption) ?_ | split

theorem State.vEnd_keeps {s₀ s : State} (h : Keeps s₀ s) : ∀ a b c, Keeps s₀ (State.vEnd s a b c) := by
  intro a b c
  unfold State.vEnd
  repeat' with_reducible first
    | assumption | apply Keeps.ite | apply Keeps.ite_snd | apply State.wrs_keeps | dsimp only | apply Keeps.ite_snd3
    | apply Keeps.ite_fst | apply Keeps.ite_snd4 | refine Keeps.of_snd (by assumption) ?_
    | refine Keeps.of_snd3 (by assumption) ?_ | refine Keeps.of_snd4 (by assumption) ?_
    | refine Keeps.of_fst (by assumption) ?_ | split

theorem State.vBusy_keeps {s₀ s : State} (h : Keeps s₀ s) : ∀ a, Keeps s₀ (State.vBusy s a) := by
  intro a
  unfold State.vBusy
  repeat' with_reducible first
    | assumption | apply State.wr_keeps | dsimp only | split

theorem State.vJobEnd_keeps {s₀ s : State} (h : Keeps s₀ s) : ∀ a b, Keeps s₀ (State.vJobEnd s a b) := by
  intro a b
  unfold State.vJobEnd
  repeat' with_reducible first
    | assumption | apply State.attic_keeps | apply State.vEnd_keeps | dsimp only | split

theorem State.vSettle_keeps {s₀ s : State} (h : Keeps s₀ s) : Keeps s₀ (State.vSettle s) := by
  unfold State.vSettle
  repeat' with_reducible first
    | assumption | intro _ | simp only [Keeps.mk_iff] | apply Keeps.ite | apply State.vJobEnd_keeps | apply Keeps.foldl
    | dsimp only | apply Keeps.foldl_snd | apply Keeps.foldl_snd3 | apply Keeps.foldl_fst | split

theorem State.vJob_keeps {s₀ s : State} (h : Keeps s₀ s) : ∀ a b c d e f g, Keeps s₀ (State.vJob s a b c d e f g) := by
  intro a b c d e f g
  unfold State.vJob
  repeat' with_reducible first
    | assumption | simp only [Keeps.mk_iff] | apply Keeps.ite | apply State.vBusy_keeps | apply State.vSettle_keeps
    | dsimp only | split

theorem State.vPairUse_keeps {s₀ s : State} (h : Keeps s₀ s) : ∀ a b, Keeps s₀ (State.vPairUse s a b).2 := by
  intro a b
  unfold State.vPairUse
  repeat' with_reducible first
    | assumption | apply Keeps.ite | apply Keeps.ite_snd | apply State.vUseEntry_keeps | dsimp only | apply Keeps.ite_snd3
    | apply Keeps.ite_fst | apply Keeps.ite_snd4 | refine Keeps.of_snd (by assumption) ?_
    | refine Keeps.of_snd3 (by assumption) ?_ | refine Keeps.of_snd4 (by assumption) ?_
    | refine Keeps.of_fst (by assumption) ?_ | split

theorem State.vStore_keeps {s₀ s : State} (h : Keeps s₀ s) : ∀ a b, Keeps s₀ (State.vStore s a b) := by
  intro a b
  unfold State.vStore
  repeat' with_reducible first
    | assumption | apply Keeps.ite | apply Keeps.ite_snd | apply State.vPairUse_keeps | apply State.eccUncorr_keeps
    | apply State.vJob_keeps | apply State.vEnd_keeps | apply State.vStoreNow_keeps | dsimp only | apply Keeps.ite_snd3
    | apply Keeps.ite_fst | apply Keeps.ite_snd4 | refine Keeps.of_snd (by assumption) ?_
    | refine Keeps.of_snd3 (by assumption) ?_ | refine Keeps.of_snd4 (by assumption) ?_
    | refine Keeps.of_fst (by assumption) ?_ | split

theorem State.vResume_keeps {s₀ s : State} (h : Keeps s₀ s) : Keeps s₀ (State.vResume s) := by
  unfold State.vResume
  repeat' with_reducible first
    | assumption | simp only [Keeps.mk_iff] | apply Keeps.ite | apply State.insertResume_keeps | apply State.vSettle_keeps
    | dsimp only | split

theorem State.vState_keeps {s₀ s : State} (h : Keeps s₀ s) : ∀ a b, Keeps s₀ (State.vState s a b) := by
  intro a b
  unfold State.vState
  repeat' with_reducible first
    | assumption | intro _ | apply State.vSet_keeps | apply Keeps.foldl | dsimp only | apply Keeps.foldl_snd
    | apply Keeps.foldl_snd3 | apply Keeps.foldl_fst

theorem State.vRetire_keeps {s₀ s : State} (h : Keeps s₀ s) : ∀ a b c, Keeps s₀ (State.vRetire s a b c) := by
  intro a b c
  unfold State.vRetire
  repeat' with_reducible first
    | assumption | apply Keeps.ite | apply State.vJob_keeps | apply State.vEnd_keeps | apply State.vCount_keeps
    | apply State.vState_keeps | dsimp only | split

theorem State.vZeroize_keeps {s₀ s : State} (h : Keeps s₀ s) : ∀ a b, Keeps s₀ (State.vZeroize s a b) := by
  intro a b
  unfold State.vZeroize
  repeat' with_reducible first
    | assumption | intro _ | simp only [Keeps.mk_iff] | apply Keeps.ite | apply State.kRemove_keeps | apply State.vJob_keeps
    | apply State.vEnd_keeps | apply State.vCount_keeps | apply Keeps.foldl | dsimp only | apply Keeps.foldl_snd
    | apply Keeps.foldl_snd3 | apply Keeps.foldl_fst | split

theorem State.vLookup_keeps {s₀ s : State} (h : Keeps s₀ s) : ∀ a b c d, Keeps s₀ (State.vLookup s a b c d).2 := by
  intro a b c d
  unfold State.vLookup
  repeat' with_reducible first
    | assumption | apply Keeps.ite | apply Keeps.ite_snd | apply State.strSearch_keeps | apply State.vUseEntry_keeps
    | dsimp only | apply Keeps.ite_snd3 | apply Keeps.ite_fst | apply Keeps.ite_snd4 | refine Keeps.of_snd (by assumption) ?_
    | refine Keeps.of_snd3 (by assumption) ?_ | refine Keeps.of_snd4 (by assumption) ?_
    | refine Keeps.of_fst (by assumption) ?_ | split

theorem State.vWr_keeps {s₀ s : State} (h : Keeps s₀ s) : ∀ a b, Keeps s₀ (State.vWr s a b) := by
  intro a b
  unfold State.vWr
  repeat' with_reducible first
    | assumption | simp only [Keeps.mk_iff] | dsimp only

theorem State.vClearBuf_keeps {s₀ s : State} (h : Keeps s₀ s) : ∀ a, Keeps s₀ (State.vClearBuf s a) := by
  intro a
  unfold State.vClearBuf
  repeat' with_reducible first
    | assumption | apply State.vWr_keeps | dsimp only

theorem State.vRead_keeps {s₀ s : State} (h : Keeps s₀ s) : ∀ a b, Keeps s₀ (State.vRead s a b) := by
  intro a b
  unfold State.vRead
  repeat' with_reducible first
    | assumption | apply Keeps.ite | apply wrWords_keeps | apply State.wr_keeps | apply State.vEnd_keeps
    | apply State.vWr_keeps | dsimp only | split

theorem State.vLookCmd_keeps {s₀ s : State} (h : Keeps s₀ s) : ∀ a b c d, Keeps s₀ (State.vLookCmd s a b c d) := by
  intro a b c d
  unfold State.vLookCmd
  repeat' with_reducible first
    | assumption | apply Keeps.ite | apply Keeps.ite_snd | apply State.eccUncorr_keeps | apply State.vEnd_keeps
    | apply State.vLookup_keeps | apply State.wrs_keeps | dsimp only | apply Keeps.ite_snd3 | apply Keeps.ite_fst
    | apply Keeps.ite_snd4 | refine Keeps.of_snd (by assumption) ?_ | refine Keeps.of_snd3 (by assumption) ?_
    | refine Keeps.of_snd4 (by assumption) ?_ | refine Keeps.of_fst (by assumption) ?_ | split

theorem State.vDeny_keeps {s₀ s : State} (h : Keeps s₀ s) : ∀ a, Keeps s₀ (State.vDeny s a) := by
  intro a
  unfold State.vDeny
  repeat' with_reducible first
    | assumption | apply Keeps.ite | apply Keeps.ite_snd | apply State.kWrite_keeps | apply State.vJob_keeps
    | apply State.vEnd_keeps | dsimp only | apply Keeps.ite_snd3 | apply Keeps.ite_fst | apply Keeps.ite_snd4
    | refine Keeps.of_snd (by assumption) ?_ | refine Keeps.of_snd3 (by assumption) ?_
    | refine Keeps.of_snd4 (by assumption) ?_ | refine Keeps.of_fst (by assumption) ?_ | split

theorem State.vUndeny_keeps {s₀ s : State} (h : Keeps s₀ s) : ∀ a, Keeps s₀ (State.vUndeny s a) := by
  intro a
  unfold State.vUndeny
  repeat' with_reducible first
    | assumption | apply Keeps.ite | apply State.vJob_keeps | apply State.vEnd_keeps | apply State.kErase_keeps | dsimp only
    | split

theorem State.vUnany_keeps {s₀ s : State} (h : Keeps s₀ s) : ∀ a b, Keeps s₀ (State.vUnany s a b) := by
  intro a b
  unfold State.vUnany
  repeat' with_reducible first
    | assumption | apply Keeps.ite | apply State.vJob_keeps | apply State.vEnd_keeps | apply State.kErase_keeps | dsimp only
    | split

theorem State.vGenDone_keeps {s₀ s : State} (h : Keeps s₀ s) : ∀ a b c d, Keeps s₀ (State.vGenDone s a b c d) := by
  intro a b c d
  unfold State.vGenDone
  repeat' with_reducible first
    | assumption | simp only [Keeps.mk_iff] | apply Keeps.ite | apply Keeps.ite_snd | apply State.vPairUse_keeps
    | apply State.eccUncorr_keeps | apply State.vJob_keeps | apply State.vEnd_keeps | apply State.vStoreNow_keeps | dsimp only
    | apply Keeps.ite_snd3 | apply Keeps.ite_fst | apply Keeps.ite_snd4 | refine Keeps.of_snd (by assumption) ?_
    | refine Keeps.of_snd3 (by assumption) ?_ | refine Keeps.of_snd4 (by assumption) ?_
    | refine Keeps.of_fst (by assumption) ?_ | split

theorem State.winAccess_keeps {s₀ s : State} (h : Keeps s₀ s) : ∀ a b, Keeps s₀ (State.winAccess s a b) := by
  intro a b
  unfold State.winAccess
  repeat' with_reducible first
    | assumption | intro _ | apply State.wr_keeps | apply State.vWr_keeps | apply Keeps.foldl | dsimp only
    | apply Keeps.foldl_snd | apply Keeps.foldl_snd3 | apply Keeps.foldl_fst | split

theorem State.remaskOne_keeps {s₀ s : State} (h : Keeps s₀ s) : ∀ a, Keeps s₀ (State.remaskOne s a) := by
  intro a
  unfold State.remaskOne
  repeat' with_reducible first
    | assumption | simp only [Keeps.mk_iff] | apply Keeps.ite | apply Keeps.ite_snd | apply State.drbgWords_keeps
    | apply State.wr_keeps | dsimp only | apply Keeps.ite_snd3 | apply Keeps.ite_fst | apply Keeps.ite_snd4
    | refine Keeps.of_snd (by assumption) ?_ | refine Keeps.of_snd3 (by assumption) ?_
    | refine Keeps.of_snd4 (by assumption) ?_ | refine Keeps.of_fst (by assumption) ?_ | split

theorem State.remaskEnd_keeps {s₀ s : State} (h : Keeps s₀ s) : Keeps s₀ (State.remaskEnd s) := by
  unfold State.remaskEnd
  repeat' with_reducible first
    | assumption | simp only [Keeps.mk_iff] | apply State.wr_keeps | dsimp only

theorem State.remaskStep_keeps {s₀ s : State} (h : Keeps s₀ s) : Keeps s₀ (State.remaskStep s) := by
  unfold State.remaskStep
  repeat' with_reducible first
    | assumption | intro _ | apply Keeps.ite | apply State.remaskEnd_keeps | apply State.remaskOne_keeps | apply Keeps.foldl
    | dsimp only | apply Keeps.foldl_snd | apply Keeps.foldl_snd3 | apply Keeps.foldl_fst | split

theorem State.remaskTick_keeps {s₀ s : State} (h : Keeps s₀ s) : Keeps s₀ (State.remaskTick s) := by
  unfold State.remaskTick
  repeat' with_reducible first
    | assumption | simp only [Keeps.mk_iff] | dsimp only

theorem State.remaskStart_keeps {s₀ s : State} (h : Keeps s₀ s) : Keeps s₀ (State.remaskStart s) := by
  unfold State.remaskStart
  repeat' with_reducible first
    | assumption | simp only [Keeps.mk_iff] | apply Keeps.ite | dsimp only | split

theorem execVltWinAccess_keeps {s₀ s : State} (h : Keeps s₀ s) : ∀ a b, Keeps s₀ (afterExec (execVltWinAccess a b s) s) := by
  intro a b
  unfold execVltWinAccess afterExec
  repeat' with_reducible first
    | assumption | intro _ | apply Keeps.ite | apply State.winAccess_keeps | apply State.byCore_keeps
    | apply State.loaded_keeps | dsimp only | split

theorem execRemaskPassStart_keeps {s₀ s : State} (h : Keeps s₀ s) : Keeps s₀ (afterExec (execRemaskPassStart s) s) := by
  unfold execRemaskPassStart afterExec
  repeat' with_reducible first
    | assumption | apply State.remaskStart_keeps | dsimp only

theorem State.pkeKey_keeps {s₀ s : State} (h : Keeps s₀ s) : ∀ a b c, Keeps s₀ (State.pkeKey s a b c).2.2 := by
  intro a b c
  unfold State.pkeKey
  repeat' with_reducible first
    | assumption | apply Keeps.ite | apply Keeps.ite_snd | apply State.vLookup_keeps | dsimp only | apply Keeps.ite_snd3
    | apply Keeps.ite_fst | apply Keeps.ite_snd4 | refine Keeps.of_snd (by assumption) ?_
    | refine Keeps.of_snd3 (by assumption) ?_ | refine Keeps.of_snd4 (by assumption) ?_
    | refine Keeps.of_fst (by assumption) ?_ | split

theorem State.pkeVerify_keeps {s₀ s : State} (h : Keeps s₀ s) : ∀ a b, Keeps s₀ (State.pkeVerify s a b).2 := by
  intro a b
  unfold State.pkeVerify
  repeat' with_reducible first
    | assumption | apply Keeps.ite | apply Keeps.ite_snd | apply State.pkeKey_keeps | dsimp only | apply Keeps.ite_snd3
    | apply Keeps.ite_fst | apply Keeps.ite_snd4 | refine Keeps.of_snd (by assumption) ?_
    | refine Keeps.of_snd3 (by assumption) ?_ | refine Keeps.of_snd4 (by assumption) ?_
    | refine Keeps.of_fst (by assumption) ?_ | split

theorem State.pkeRsa_keeps {s₀ s : State} (h : Keeps s₀ s) : ∀ a, Keeps s₀ (State.pkeRsa s a).2 := by
  intro a
  unfold State.pkeRsa
  repeat' with_reducible first
    | assumption | apply Keeps.ite | apply Keeps.ite_snd | apply State.pkeKey_keeps | dsimp only | apply Keeps.ite_snd3
    | apply Keeps.ite_fst | apply Keeps.ite_snd4 | refine Keeps.of_snd (by assumption) ?_
    | refine Keeps.of_snd3 (by assumption) ?_ | refine Keeps.of_snd4 (by assumption) ?_
    | refine Keeps.of_fst (by assumption) ?_ | split

theorem State.zPut_keeps {s₀ s : State} (h : Keeps s₀ s) : ∀ a b, Keeps s₀ (State.zPut s a b) := by
  intro a b
  unfold State.zPut
  repeat' with_reducible first
    | assumption | intro _ | simp only [Keeps.mk_iff] | apply Keeps.foldl | dsimp only | apply Keeps.foldl_snd
    | apply Keeps.foldl_snd3 | apply Keeps.foldl_fst

theorem State.zClear_keeps {s₀ s : State} (h : Keeps s₀ s) : ∀ a, Keeps s₀ (State.zClear s a) := by
  intro a
  unfold State.zClear
  repeat' with_reducible first
    | assumption | apply State.zPut_keeps | dsimp only | refine Keeps.of_snd (by assumption) ?_
    | refine Keeps.of_snd3 (by assumption) ?_ | refine Keeps.of_snd4 (by assumption) ?_
    | refine Keeps.of_fst (by assumption) ?_

theorem State.drawNat_keeps {s₀ s : State} (h : Keeps s₀ s) : ∀ a, Keeps s₀ (State.drawNat s a).2 := by
  intro a
  unfold State.drawNat
  repeat' with_reducible first
    | assumption | apply State.drbgWords_keeps | dsimp only | refine Keeps.of_snd (by assumption) ?_
    | refine Keeps.of_snd3 (by assumption) ?_ | refine Keeps.of_snd4 (by assumption) ?_
    | refine Keeps.of_fst (by assumption) ?_ | split

theorem State.drawBelow_keeps {s₀ s : State} (h : Keeps s₀ s) : ∀ a b, Keeps s₀ (State.drawBelow a b s).2 := by
  intro a b
  induction b generalizing a s
  all_goals unfold State.drawBelow
  repeat' with_reducible first
    | assumption | apply Keeps.ite | apply Keeps.ite_snd | apply_assumption | apply State.drawNat_keeps | dsimp only
    | apply Keeps.ite_snd3 | apply Keeps.ite_fst | apply Keeps.ite_snd4 | refine Keeps.of_snd (by assumption) ?_
    | refine Keeps.of_snd3 (by assumption) ?_ | refine Keeps.of_snd4 (by assumption) ?_
    | refine Keeps.of_fst (by assumption) ?_ | split

theorem State.zLoad_keeps {s₀ s : State} (h : Keeps s₀ s) : ∀ a b, Keeps s₀ (State.zLoad s a b) := by
  intro a b
  unfold State.zLoad
  repeat' with_reducible first
    | assumption | apply State.drawNat_keeps | apply State.zPut_keeps | dsimp only | refine Keeps.of_snd (by assumption) ?_
    | refine Keeps.of_snd3 (by assumption) ?_ | refine Keeps.of_snd4 (by assumption) ?_
    | refine Keeps.of_fst (by assumption) ?_ | split

theorem State.zMulStart_keeps {s₀ s : State} (h : Keeps s₀ s) : ∀ a b c d, Keeps s₀ (State.zMulStart s a b c d) := by
  intro a b c d
  unfold State.zMulStart
  generalize hx : s.drawNat 2 = x
  obtain ⟨r, s1⟩ := x
  dsimp only
  generalize hy : State.drawBelow b.p drawTries s1 = y
  obtain ⟨z, s2⟩ := y
  exact State.zPut_keeps (Keeps.of_snd hy (State.drawBelow_keeps (Keeps.of_snd hx (State.drawNat_keeps h _)) _ _)) _ _

theorem State.zNonce_keeps {s₀ s : State} (h : Keeps s₀ s) : ∀ a b, Keeps s₀ (State.zNonce s a b) := by
  intro a b
  unfold State.zNonce
  generalize hx : State.drawBelow b.n drawTries s = x
  obtain ⟨k, s1⟩ := x
  exact State.zMulStart_keeps (Keeps.of_snd hx (State.drawBelow_keeps h _ _)) _ _ _ _

theorem State.zSignRun_keeps {s₀ s : State} (h : Keeps s₀ s) (a b c d) : Keeps s₀ (State.zSignRun a b c d s).2 := by
  induction d generalizing s with
  | zero => exact h
  | succ n ih =>
    rw [State.zSignRun]
    generalize s.zSign a b c = o
    cases o with
    | none => exact ih (State.zNonce_keeps h _ _)
    | some x => exact h

theorem State.pkeSign_keeps {s₀ s : State} (h : Keeps s₀ s) : ∀ a b c, Keeps s₀ (State.pkeSign s a b c).2 := by
  intro a b c
  unfold State.pkeSign
  repeat' with_reducible first
    | assumption | apply Keeps.ite | apply Keeps.ite_snd | apply State.zLoad_keeps | apply State.pkeKey_keeps
    | apply State.zNonce_keeps | dsimp only | apply Keeps.ite_snd3 | apply Keeps.ite_fst | apply Keeps.ite_snd4
    | refine Keeps.of_snd (by assumption) ?_ | refine Keeps.of_snd3 (by assumption) ?_
    | refine Keeps.of_snd4 (by assumption) ?_ | refine Keeps.of_fst (by assumption) ?_ | split

theorem State.pkeEcdh_keeps {s₀ s : State} (h : Keeps s₀ s) : ∀ a b c, Keeps s₀ (State.pkeEcdh s a b c).2 := by
  intro a b c
  unfold State.pkeEcdh
  repeat' with_reducible first
    | assumption | apply Keeps.ite | apply Keeps.ite_snd | apply State.zMulStart_keeps | apply State.zLoad_keeps
    | apply State.pkeKey_keeps | dsimp only | apply Keeps.ite_snd3 | apply Keeps.ite_fst | apply Keeps.ite_snd4
    | refine Keeps.of_snd (by assumption) ?_ | refine Keeps.of_snd3 (by assumption) ?_
    | refine Keeps.of_snd4 (by assumption) ?_ | refine Keeps.of_fst (by assumption) ?_ | split

theorem State.pkeKeygen_keeps {s₀ s : State} (h : Keeps s₀ s) : ∀ a b, Keeps s₀ (State.pkeKeygen s a b).2 := by
  intro a b
  unfold State.pkeKeygen
  repeat' with_reducible first
    | assumption | apply State.zMulStart_keeps | apply State.drawBelow_keeps | apply State.zLoad_keeps | dsimp only
    | refine Keeps.of_snd (by assumption) ?_ | refine Keeps.of_snd3 (by assumption) ?_
    | refine Keeps.of_snd4 (by assumption) ?_ | refine Keeps.of_fst (by assumption) ?_ | split

theorem State.pkeBegin_keeps {s₀ s : State} (h : Keeps s₀ s) : ∀ a, Keeps s₀ (State.pkeBegin s a).2 := by
  intro a
  unfold State.pkeBegin
  repeat' with_reducible first
    | assumption | apply Keeps.ite | apply Keeps.ite_snd | apply State.pkeKeygen_keeps | apply State.pkeSign_keeps
    | apply State.pkeRsa_keeps | apply State.pkeVerify_keeps | apply State.pkeEcdh_keeps | dsimp only | apply Keeps.ite_snd3
    | apply Keeps.ite_fst | apply Keeps.ite_snd4 | refine Keeps.of_snd (by assumption) ?_
    | refine Keeps.of_snd3 (by assumption) ?_ | refine Keeps.of_snd4 (by assumption) ?_
    | refine Keeps.of_fst (by assumption) ?_ | split

theorem State.pkeUpd_keeps {s₀ s : State} (h : Keeps s₀ s) : ∀ a b, Keeps s₀ (State.pkeUpd s a b) := by
  intro a b
  unfold State.pkeUpd
  repeat' with_reducible first
    | assumption | simp only [Keeps.mk_iff] | apply Keeps.ite | dsimp only | split

theorem State.pkeDrop_keeps {s₀ s : State} (h : Keeps s₀ s) : ∀ a, Keeps s₀ (State.pkeDrop s a) := by
  intro a
  unfold State.pkeDrop
  repeat' with_reducible first
    | assumption | simp only [Keeps.mk_iff] | apply State.zClear_keeps | dsimp only | split

theorem State.jobYield_keeps {s₀ s : State} (h : Keeps s₀ s) : ∀ a b c, Keeps s₀ (State.jobYield s a b c) := by
  intro a b c
  unfold State.jobYield
  repeat' with_reducible first
    | assumption | simp only [Keeps.mk_iff] | apply Keeps.ite | apply State.jobStatus_keeps | dsimp only | split

theorem State.pkeEnter_keeps {s₀ s : State} (h : Keeps s₀ s) : ∀ a, Keeps s₀ (State.pkeEnter s a) := by
  intro a
  unfold State.pkeEnter
  repeat' with_reducible first
    | assumption | intro _ | apply Keeps.ite | apply Keeps.ite_snd | apply State.bump_keeps | apply State.pkeDrop_keeps
    | apply State.eccUncorr_keeps | apply State.pkeStatus_keeps | apply State.pkeBegin_keeps | apply State.pkeUpd_keeps
    | apply State.putBytes_keeps | apply Keeps.foldl | dsimp only | apply Keeps.foldl_snd | apply Keeps.foldl_snd3
    | apply Keeps.foldl_fst | apply Keeps.ite_snd3 | apply Keeps.ite_fst | apply Keeps.ite_snd4
    | refine Keeps.of_snd (by assumption) ?_ | refine Keeps.of_snd3 (by assumption) ?_
    | refine Keeps.of_snd4 (by assumption) ?_ | refine Keeps.of_fst (by assumption) ?_ | split

theorem State.pkeServe_keeps {s₀ s : State} (h : Keeps s₀ s) : ∀ a, Keeps s₀ (State.pkeServe a s) := by
  intro a
  induction a generalizing s
  all_goals unfold State.pkeServe
  repeat' with_reducible first
    | assumption | apply_assumption | apply State.pkeEnter_keeps | dsimp only | split

theorem State.pkeStates_keeps {s₀ s : State} (h : Keeps s₀ s) : Keeps s₀ (State.pkeStates s) := by
  unfold State.pkeStates
  repeat' with_reducible first
    | assumption | intro _ | simp only [Keeps.mk_iff] | apply Keeps.ite | apply State.pkeServe_keeps
    | apply State.jobYield_keeps | apply State.wr_keeps | apply Keeps.foldl | dsimp only | apply Keeps.foldl_snd
    | apply Keeps.foldl_snd3 | apply Keeps.foldl_fst | split

theorem State.pkeJoin_keeps {s₀ s : State} (h : Keeps s₀ s) : ∀ a b c d, Keeps s₀ (State.pkeJoin s a b c d) := by
  intro a b c d
  unfold State.pkeJoin
  repeat' with_reducible first
    | assumption | simp only [Keeps.mk_iff] | apply Keeps.ite | apply State.pkeStates_keeps | dsimp only | split

theorem State.pkeAccept_keeps {s₀ s : State} (h : Keeps s₀ s) : ∀ a b c d e, Keeps s₀ (State.pkeAccept s a b c d e) := by
  intro a b c d e
  unfold State.pkeAccept
  repeat' with_reducible first
    | assumption | apply Keeps.ite | apply State.pkeStatus_keeps | apply State.setb_keeps | apply State.pkeJoin_keeps
    | dsimp only | split

theorem State.engJobStart_keeps {s₀ s : State} (h : Keeps s₀ s) : ∀ a, Keeps s₀ (State.engJobStart s a) := by
  intro a
  unfold State.engJobStart
  repeat' with_reducible first
    | assumption | apply State.setInst_keeps | dsimp only | split

theorem State.pkeJobStart_keeps {s₀ s : State} (h : Keeps s₀ s) : ∀ a, Keeps s₀ (State.pkeJobStart s a) := by
  intro a
  unfold State.pkeJobStart
  repeat' with_reducible first
    | assumption | apply State.pkeAccept_keeps | apply State.engJobStart_keeps | dsimp only

theorem State.pkeStart_keeps {s₀ s : State} (h : Keeps s₀ s) : ∀ a b, Keeps s₀ (State.pkeStart s a b) := by
  intro a b
  unfold State.pkeStart
  repeat' with_reducible first
    | assumption | apply Keeps.ite | apply Keeps.ite_snd | apply State.pkeAccept_keeps | apply State.setb_keeps
    | apply State.pkeJobStart_keeps | dsimp only | apply Keeps.ite_snd3 | apply Keeps.ite_fst | apply Keeps.ite_snd4
    | refine Keeps.of_snd (by assumption) ?_ | refine Keeps.of_snd3 (by assumption) ?_
    | refine Keeps.of_snd4 (by assumption) ?_ | refine Keeps.of_fst (by assumption) ?_ | split

theorem State.pkeGo_keeps {s₀ s : State} (h : Keeps s₀ s) : ∀ a, Keeps s₀ (State.pkeGo s a) := by
  intro a
  unfold State.pkeGo
  repeat' with_reducible first
    | assumption | apply State.pkeStart_keeps | dsimp only

theorem State.pkeLeave_keeps {s₀ s : State} (h : Keeps s₀ s) : ∀ a b c d, Keeps s₀ (State.pkeLeave s a b c d) := by
  intro a b c d
  unfold State.pkeLeave
  repeat' with_reducible first
    | assumption | apply State.pkeStates_keeps | apply State.pkeDrop_keeps | apply State.pkeStatus_keeps | dsimp only

theorem State.pkeFault_keeps {s₀ s : State} (h : Keeps s₀ s) : ∀ a, Keeps s₀ (State.pkeFault s a) := by
  intro a
  unfold State.pkeFault
  repeat' with_reducible first
    | assumption | apply State.bump_keeps | apply State.pkeLeave_keeps | apply State.raise_keeps | apply State.wrs_keeps
    | dsimp only | refine Keeps.of_snd (by assumption) ?_ | refine Keeps.of_snd3 (by assumption) ?_
    | refine Keeps.of_snd4 (by assumption) ?_ | refine Keeps.of_fst (by assumption) ?_ | split

theorem State.pkeCandidate_keeps {s₀ s : State} (h : Keeps s₀ s) : ∀ a b, Keeps s₀ (State.pkeCandidate s a b).2 := by
  intro a b
  unfold State.pkeCandidate
  repeat' with_reducible first
    | assumption | apply Keeps.ite | apply Keeps.ite_snd | apply State.zSignRun_keeps | dsimp only | apply Keeps.ite_snd3
    | apply Keeps.ite_fst | apply Keeps.ite_snd4 | refine Keeps.of_snd (by assumption) ?_
    | refine Keeps.of_snd3 (by assumption) ?_ | refine Keeps.of_snd4 (by assumption) ?_
    | refine Keeps.of_fst (by assumption) ?_ | split

theorem State.pkeHandOff_keeps {s₀ s : State} (h : Keeps s₀ s) : ∀ a b, Keeps s₀ (State.pkeHandOff s a b) := by
  intro a b
  unfold State.pkeHandOff
  repeat' with_reducible first
    | assumption | simp only [Keeps.mk_iff] | apply Keeps.ite | apply Keeps.ite_snd | apply State.pkeStates_keeps
    | apply State.pkeLeave_keeps | apply State.eccUncorr_keeps | apply State.pkeUpd_keeps | apply State.vUseEntry_keeps
    | apply State.pkeCandidate_keeps | dsimp only | apply Keeps.ite_snd3 | apply Keeps.ite_fst | apply Keeps.ite_snd4
    | refine Keeps.of_snd (by assumption) ?_ | refine Keeps.of_snd3 (by assumption) ?_
    | refine Keeps.of_snd4 (by assumption) ?_ | refine Keeps.of_fst (by assumption) ?_ | split

theorem State.pkeCheck_keeps {s₀ s : State} (h : Keeps s₀ s) : ∀ a b, Keeps s₀ (State.pkeCheck s a b) := by
  intro a b
  unfold State.pkeCheck
  repeat' with_reducible first
    | assumption | intro _ | apply Keeps.ite | apply Keeps.ite_snd | apply State.vGenDone_keeps | apply State.pkeStates_keeps
    | apply State.pkeDrop_keeps | apply State.pkeLeave_keeps | apply State.pkeFault_keeps | apply State.putBytes_keeps
    | apply Keeps.foldl | dsimp only | apply Keeps.foldl_snd | apply Keeps.foldl_snd3 | apply Keeps.foldl_fst
    | apply Keeps.ite_snd3 | apply Keeps.ite_fst | apply Keeps.ite_snd4 | refine Keeps.of_snd (by assumption) ?_
    | refine Keeps.of_snd3 (by assumption) ?_ | refine Keeps.of_snd4 (by assumption) ?_
    | refine Keeps.of_fst (by assumption) ?_ | split

theorem State.pkeRelease_keeps {s₀ s : State} (h : Keeps s₀ s) : ∀ a b, Keeps s₀ (State.pkeRelease s a b) := by
  intro a b
  unfold State.pkeRelease
  repeat' with_reducible first
    | assumption | intro _ | apply Keeps.ite | apply State.bump_keeps | apply State.pkeLeave_keeps
    | apply State.pkeCheck_keeps | apply State.pkeHandOff_keeps | apply State.putBytes_keeps | apply Keeps.foldl | dsimp only
    | apply Keeps.foldl_snd | apply Keeps.foldl_snd3 | apply Keeps.foldl_fst | split

theorem State.pkeComplete_keeps {s₀ s : State} (h : Keeps s₀ s) : ∀ a b, Keeps s₀ (State.pkeComplete s a b) := by
  intro a b
  unfold State.pkeComplete
  repeat' with_reducible first
    | assumption | apply Keeps.ite | apply State.pkeRelease_keeps | dsimp only | split

theorem State.pkeClaim_keeps {s₀ s : State} (h : Keeps s₀ s) : Keeps s₀ (State.pkeClaim s) := by
  unfold State.pkeClaim
  repeat' with_reducible first
    | assumption | apply State.pkeStates_keeps | apply State.pkeUpd_keeps | dsimp only | split

theorem State.pkeLanding_keeps {s₀ s : State} (h : Keeps s₀ s) : ∀ a, Keeps s₀ (State.pkeLanding s a) := by
  intro a
  unfold State.pkeLanding
  repeat' with_reducible first
    | assumption | intro _ | simp only [Keeps.mk_iff] | apply Keeps.ite | apply State.pkeStates_keeps
    | apply State.pkeLeave_keeps | apply Keeps.foldl | dsimp only | apply Keeps.foldl_snd | apply Keeps.foldl_snd3
    | apply Keeps.foldl_fst | split

theorem State.pkeAbort_keeps {s₀ s : State} (h : Keeps s₀ s) : ∀ a, Keeps s₀ (State.pkeAbort s a) := by
  intro a
  unfold State.pkeAbort
  repeat' with_reducible first
    | assumption | simp only [Keeps.mk_iff] | apply Keeps.ite | dsimp only | split

theorem State.shelfStore_keeps {s₀ s : State} (h : Keeps s₀ s) : ∀ a b, Keeps s₀ (State.shelfStore s a b) := by
  intro a b
  unfold State.shelfStore
  repeat' with_reducible first
    | assumption | apply Keeps.ite | apply State.setb_keeps | apply State.putW_keeps | apply State.misuse_keeps | dsimp only
    | split

theorem State.shelfLenCommit_keeps {s₀ s : State} (h : Keeps s₀ s) : Keeps s₀ (State.shelfLenCommit s) := by
  unfold State.shelfLenCommit
  repeat' with_reducible first
    | assumption | intro _ | simp only [Keeps.mk_iff] | apply Keeps.ite | apply State.wr_keeps | apply Keeps.foldl
    | dsimp only | apply Keeps.foldl_snd | apply Keeps.foldl_snd3 | apply Keeps.foldl_fst | split

theorem State.shelfLenEdge_keeps {s₀ s : State} (h : Keeps s₀ s) : Keeps s₀ (State.shelfLenEdge s) := by
  unfold State.shelfLenEdge
  repeat' with_reducible first
    | assumption | apply Keeps.ite | apply State.shelfLenCommit_keeps | dsimp only | split

theorem execMadd_keeps {s₀ s : State} (h : Keeps s₀ s) : ∀ a, Keeps s₀ (afterExec (execMadd a s) s) := by
  intro a
  unfold execMadd afterExec
  repeat' with_reducible first
    | assumption | apply State.pkeStart_keeps | dsimp only

theorem execMsub_keeps {s₀ s : State} (h : Keeps s₀ s) : ∀ a, Keeps s₀ (afterExec (execMsub a s) s) := by
  intro a
  unfold execMsub afterExec
  repeat' with_reducible first
    | assumption | apply State.pkeStart_keeps | dsimp only

theorem execMmul_keeps {s₀ s : State} (h : Keeps s₀ s) : ∀ a, Keeps s₀ (afterExec (execMmul a s) s) := by
  intro a
  unfold execMmul afterExec
  repeat' with_reducible first
    | assumption | apply State.pkeStart_keeps | dsimp only

theorem execMred_keeps {s₀ s : State} (h : Keeps s₀ s) : ∀ a, Keeps s₀ (afterExec (execMred a s) s) := by
  intro a
  unfold execMred afterExec
  repeat' with_reducible first
    | assumption | apply State.pkeStart_keeps | dsimp only

theorem execMinv_keeps {s₀ s : State} (h : Keeps s₀ s) : ∀ a, Keeps s₀ (afterExec (execMinv a s) s) := by
  intro a
  unfold execMinv afterExec
  repeat' with_reducible first
    | assumption | apply State.pkeStart_keeps | dsimp only

theorem execMexp_keeps {s₀ s : State} (h : Keeps s₀ s) : ∀ a, Keeps s₀ (afterExec (execMexp a s) s) := by
  intro a
  unfold execMexp afterExec
  repeat' with_reducible first
    | assumption | apply State.pkeStart_keeps | dsimp only

theorem execCmp_keeps {s₀ s : State} (h : Keeps s₀ s) : ∀ a, Keeps s₀ (afterExec (execCmp a s) s) := by
  intro a
  unfold execCmp afterExec
  repeat' with_reducible first
    | assumption | apply State.pkeStart_keeps | dsimp only

theorem execCopy_keeps {s₀ s : State} (h : Keeps s₀ s) : ∀ a, Keeps s₀ (afterExec (execCopy a s) s) := by
  intro a
  unfold execCopy afterExec
  repeat' with_reducible first
    | assumption | apply State.pkeStart_keeps | dsimp only

theorem execEcdsaSignChecked_keeps {s₀ s : State} (h : Keeps s₀ s) :
    ∀ a, Keeps s₀ (afterExec (execEcdsaSignChecked a s) s) := by
  intro a
  unfold execEcdsaSignChecked afterExec
  repeat' with_reducible first
    | assumption | apply State.pkeStart_keeps | dsimp only

theorem execEcdsaVerify_keeps {s₀ s : State} (h : Keeps s₀ s) : ∀ a, Keeps s₀ (afterExec (execEcdsaVerify a s) s) := by
  intro a
  unfold execEcdsaVerify afterExec
  repeat' with_reducible first
    | assumption | apply State.pkeStart_keeps | dsimp only

theorem execEcdh_keeps {s₀ s : State} (h : Keeps s₀ s) : ∀ a, Keeps s₀ (afterExec (execEcdh a s) s) := by
  intro a
  unfold execEcdh afterExec
  repeat' with_reducible first
    | assumption | apply State.pkeStart_keeps | dsimp only

theorem execKeygen_keeps {s₀ s : State} (h : Keeps s₀ s) : ∀ a, Keeps s₀ (afterExec (execKeygen a s) s) := by
  intro a
  unfold execKeygen afterExec
  repeat' with_reducible first
    | assumption | apply State.pkeStart_keeps | dsimp only

theorem execPointCheck_keeps {s₀ s : State} (h : Keeps s₀ s) : ∀ a, Keeps s₀ (afterExec (execPointCheck a s) s) := by
  intro a
  unfold execPointCheck afterExec
  repeat' with_reducible first
    | assumption | apply State.pkeStart_keeps | dsimp only

theorem execRsaVerify_keeps {s₀ s : State} (h : Keeps s₀ s) : ∀ a, Keeps s₀ (afterExec (execRsaVerify a s) s) := by
  intro a
  unfold execRsaVerify afterExec
  repeat' with_reducible first
    | assumption | apply State.pkeStart_keeps | dsimp only

theorem execPkeAbort_keeps {s₀ s : State} (h : Keeps s₀ s) : ∀ a, Keeps s₀ (afterExec (execPkeAbort a s) s) := by
  intro a
  unfold execPkeAbort afterExec
  repeat' with_reducible first
    | assumption | intro _ | apply State.byCore_keeps | apply State.pkeAbort_keeps | dsimp only

theorem execPkeContextClaim_keeps {s₀ s : State} (h : Keeps s₀ s) : Keeps s₀ (afterExec (execPkeContextClaim s) s) := by
  unfold execPkeContextClaim afterExec
  repeat' with_reducible first
    | assumption | apply State.pkeClaim_keeps | dsimp only

theorem execShelfStore_keeps {s₀ s : State} (h : Keeps s₀ s) : ∀ a b c, Keeps s₀ (afterExec (execShelfStore a b c s) s) := by
  intro a b c
  unfold execShelfStore afterExec
  repeat' with_reducible first
    | assumption | intro _ | apply State.byCore_keeps | apply State.shelfStore_keeps | dsimp only

theorem execShelfLenCommit_keeps {s₀ s : State} (h : Keeps s₀ s) : Keeps s₀ (afterExec (execShelfLenCommit s) s) := by
  unfold execShelfLenCommit afterExec
  repeat' with_reducible first
    | assumption | apply State.shelfLenEdge_keeps | dsimp only

end Sys2Proof.Machine
end

