-- ==== Sys2Proof/Laws/Keeps3.lean ====
section
/-!
SUPPORT. Keeps3.lean: the operations of VaultCmds.lean, Sym.lean, Jobs.lean, Larder.lean keep the queue of commands, the
canonical form of the memory and the blown fuses (Laws/Keeps.lean). A lemma of a command's meaning speaks of the state after
it.
-/
namespace Sys2Proof.Machine

theorem State.vGenStart_keeps {s₀ s : State} (h : Keeps s₀ s) : ∀ a b, Keeps s₀ (State.vGenStart s a b) := by
  intro a b
  unfold State.vGenStart
  repeat' with_reducible first
    | assumption | simp only [Keeps.mk_iff] | apply State.vBusy_keeps | apply State.vEnd_keeps | apply State.pkeStart_keeps
    | dsimp only | refine Keeps.of_snd (by assumption) ?_ | refine Keeps.of_snd3 (by assumption) ?_
    | refine Keeps.of_snd4 (by assumption) ?_ | refine Keeps.of_fst (by assumption) ?_ | split

theorem State.vUse_keeps {s₀ s : State} (h : Keeps s₀ s) :
    ∀ a b, (∀ x0, Keeps s₀ x0 → Keeps s₀ (b x0)) → Keeps s₀ (State.vUse s a b) := by
  intro a b
  intro hf
  unfold State.vUse
  repeat' with_reducible first
    | assumption | intro _ | apply Keeps.ite | apply_assumption | apply State.vEnd_keeps | dsimp only | split

theorem State.vExec_keeps {s₀ s : State} (h : Keeps s₀ s) : ∀ a, Keeps s₀ (State.vExec s a) := by
  intro a
  unfold State.vExec
  repeat' with_reducible first
    | assumption | intro _ | apply State.vDeny_keeps | apply State.vClearBuf_keeps | apply State.vZeroize_keeps
    | apply State.vLookCmd_keeps | apply State.vUndeny_keeps | apply State.vStore_keeps | apply State.vGenStart_keeps
    | apply State.vEnd_keeps | apply State.vRetire_keeps | apply State.vRead_keeps | apply State.vUnany_keeps
    | apply State.vUse_keeps | dsimp only | split

theorem State.vPump_keeps {s₀ s : State} (h : Keeps s₀ s) : ∀ a, Keeps s₀ (State.vPump a s) := by
  intro a
  induction a generalizing s
  all_goals unfold State.vPump
  repeat' with_reducible first
    | assumption | simp only [Keeps.mk_iff] | apply Keeps.ite | apply_assumption | apply State.vExec_keeps | dsimp only
    | split

theorem State.vNext_keeps {s₀ s : State} (h : Keeps s₀ s) : Keeps s₀ (State.vNext s) := by
  unfold State.vNext
  repeat' with_reducible first
    | assumption | apply State.vPump_keeps | dsimp only

theorem State.vQueue_keeps {s₀ s : State} (h : Keeps s₀ s) : ∀ a, Keeps s₀ (State.vQueue s a) := by
  intro a
  unfold State.vQueue
  repeat' with_reducible first
    | assumption | intro _ | simp only [Keeps.mk_iff] | apply State.vNext_keeps | apply State.vBusy_keeps | apply Keeps.foldl
    | dsimp only | apply Keeps.foldl_snd | apply Keeps.foldl_snd3 | apply Keeps.foldl_fst

theorem State.vCmd_keeps {s₀ s : State} (h : Keeps s₀ s) : ∀ a b c, Keeps s₀ (State.vCmd s a b c) := by
  intro a b c
  unfold State.vCmd
  repeat' with_reducible first
    | assumption | apply Keeps.ite | apply State.vClearBuf_keeps | apply State.wr_keeps | apply State.vQueue_keeps
    | dsimp only | split

theorem execVltStore_keeps {s₀ s : State} (h : Keeps s₀ s) : ∀ a, Keeps s₀ (afterExec (execVltStore a s) s) := by
  intro a
  unfold execVltStore afterExec
  repeat' with_reducible first
    | assumption | intro _ | apply State.byCore_keeps | apply State.vCmd_keeps | dsimp only

theorem execVltRead_keeps {s₀ s : State} (h : Keeps s₀ s) : ∀ a b, Keeps s₀ (afterExec (execVltRead a b s) s) := by
  intro a b
  unfold execVltRead afterExec
  repeat' with_reducible first
    | assumption | intro _ | apply State.byCore_keeps | apply State.vCmd_keeps | dsimp only

theorem execVltRetire_keeps {s₀ s : State} (h : Keeps s₀ s) : ∀ a b, Keeps s₀ (afterExec (execVltRetire a b s) s) := by
  intro a b
  unfold execVltRetire afterExec
  repeat' with_reducible first
    | assumption | intro _ | apply State.byCore_keeps | apply State.vCmd_keeps | dsimp only

theorem execVltRevoke_keeps {s₀ s : State} (h : Keeps s₀ s) : ∀ a b, Keeps s₀ (afterExec (execVltRevoke a b s) s) := by
  intro a b
  unfold execVltRevoke afterExec
  repeat' with_reducible first
    | assumption | intro _ | apply State.byCore_keeps | apply State.vCmd_keeps | dsimp only

theorem execVltZeroize_keeps {s₀ s : State} (h : Keeps s₀ s) : ∀ a b, Keeps s₀ (afterExec (execVltZeroize a b s) s) := by
  intro a b
  unfold execVltZeroize afterExec
  repeat' with_reducible first
    | assumption | intro _ | apply State.byCore_keeps | apply State.vCmd_keeps | dsimp only

theorem execVltLookup_keeps {s₀ s : State} (h : Keeps s₀ s) : ∀ a, Keeps s₀ (afterExec (execVltLookup a s) s) := by
  intro a
  unfold execVltLookup afterExec
  repeat' with_reducible first
    | assumption | intro _ | apply State.byCore_keeps | apply State.vCmd_keeps | dsimp only

theorem execVltDeny_keeps {s₀ s : State} (h : Keeps s₀ s) : ∀ a, Keeps s₀ (afterExec (execVltDeny a s) s) := by
  intro a
  unfold execVltDeny afterExec
  repeat' with_reducible first
    | assumption | intro _ | apply State.byCore_keeps | apply State.vCmd_keeps | dsimp only

theorem execVltUndeny_keeps {s₀ s : State} (h : Keeps s₀ s) : ∀ a, Keeps s₀ (afterExec (execVltUndeny a s) s) := by
  intro a
  unfold execVltUndeny afterExec
  repeat' with_reducible first
    | assumption | intro _ | apply State.byCore_keeps | apply State.vCmd_keeps | dsimp only

theorem execVltUnany_keeps {s₀ s : State} (h : Keeps s₀ s) : ∀ a b, Keeps s₀ (afterExec (execVltUnany a b s) s) := by
  intro a b
  unfold execVltUnany afterExec
  repeat' with_reducible first
    | assumption | intro _ | apply State.byCore_keeps | apply State.vCmd_keeps | dsimp only

theorem execVltClear_keeps {s₀ s : State} (h : Keeps s₀ s) : ∀ a, Keeps s₀ (afterExec (execVltClear a s) s) := by
  intro a
  unfold execVltClear afterExec
  repeat' with_reducible first
    | assumption | intro _ | apply State.byCore_keeps | apply State.vCmd_keeps | dsimp only

theorem execVltGenCmd_keeps {s₀ s : State} (h : Keeps s₀ s) : ∀ a, Keeps s₀ (afterExec (execVltGenCmd a s) s) := by
  intro a
  unfold execVltGenCmd afterExec
  repeat' with_reducible first
    | assumption | intro _ | apply State.byCore_keeps | apply State.vCmd_keeps | dsimp only

theorem execInsertResume_keeps {s₀ s : State} (h : Keeps s₀ s) : Keeps s₀ (afterExec (execInsertResume s) s) := by
  unfold execInsertResume afterExec
  repeat' with_reducible first
    | assumption | apply State.vNext_keeps | apply State.vResume_keeps | dsimp only

theorem execPkeOpComplete_keeps {s₀ s : State} (h : Keeps s₀ s) : ∀ a b, Keeps s₀ (afterExec (execPkeOpComplete a b s) s) := by
  intro a b
  unfold execPkeOpComplete afterExec
  repeat' with_reducible first
    | assumption | apply State.vNext_keeps | apply State.pkeComplete_keeps | dsimp only

theorem State.symVaultKey_keeps {s₀ s : State} (h : Keeps s₀ s) : ∀ a b c, Keeps s₀ (State.symVaultKey s a b c).2.2 := by
  intro a b c
  unfold State.symVaultKey
  repeat' with_reducible first
    | assumption | apply Keeps.ite | apply Keeps.ite_snd | apply State.vLookup_keeps | apply State.vUseEntry_keeps
    | dsimp only | apply Keeps.ite_snd3 | apply Keeps.ite_fst | apply Keeps.ite_snd4 | refine Keeps.of_snd (by assumption) ?_
    | refine Keeps.of_snd3 (by assumption) ?_ | refine Keeps.of_snd4 (by assumption) ?_
    | refine Keeps.of_fst (by assumption) ?_ | split

theorem State.symKey_keeps {s₀ s : State} (h : Keeps s₀ s) : ∀ a b c, Keeps s₀ (State.symKey s a b c).2.2 := by
  intro a b c
  unfold State.symKey
  repeat' with_reducible first
    | assumption | apply Keeps.ite | apply Keeps.ite_snd | apply State.symVaultKey_keeps | dsimp only | apply Keeps.ite_snd3
    | apply Keeps.ite_fst | apply Keeps.ite_snd4 | refine Keeps.of_snd (by assumption) ?_
    | refine Keeps.of_snd3 (by assumption) ?_ | refine Keeps.of_snd4 (by assumption) ?_
    | refine Keeps.of_fst (by assumption) ?_ | split

theorem State.symBegin_keeps {s₀ s : State} (h : Keeps s₀ s) : ∀ a b c, Keeps s₀ (State.symBegin s a b c).2.2.2 := by
  intro a b c
  unfold State.symBegin
  repeat' with_reducible first
    | assumption | apply Keeps.ite | apply Keeps.ite_snd | apply State.symKey_keeps | dsimp only | apply Keeps.ite_snd3
    | apply Keeps.ite_fst | apply Keeps.ite_snd4 | refine Keeps.of_snd (by assumption) ?_
    | refine Keeps.of_snd3 (by assumption) ?_ | refine Keeps.of_snd4 (by assumption) ?_
    | refine Keeps.of_fst (by assumption) ?_ | split

theorem State.symMasks_keeps {s₀ s : State} (h : Keeps s₀ s) : ∀ a b c, Keeps s₀ (State.symMasks s a b c).2 := by
  intro a b c
  unfold State.symMasks
  repeat' with_reducible first
    | assumption | apply State.drbgWords_keeps | dsimp only | refine Keeps.of_snd (by assumption) ?_
    | refine Keeps.of_snd3 (by assumption) ?_ | refine Keeps.of_snd4 (by assumption) ?_
    | refine Keeps.of_fst (by assumption) ?_ | split

theorem State.setCtx_keeps {s₀ s : State} (h : Keeps s₀ s) : ∀ a b, Keeps s₀ (State.setCtx s a b) := by
  intro a b
  unfold State.setCtx
  repeat' with_reducible first
    | assumption | simp only [Keeps.mk_iff] | dsimp only

theorem State.symDrop_keeps {s₀ s : State} (h : Keeps s₀ s) : ∀ a, Keeps s₀ (State.symDrop s a) := by
  intro a
  unfold State.symDrop
  repeat' with_reducible first
    | assumption | simp only [Keeps.mk_iff] | dsimp only

theorem State.symFree_keeps {s₀ s : State} (h : Keeps s₀ s) : ∀ a, Keeps s₀ (State.symFree s a) := by
  intro a
  unfold State.symFree
  repeat' with_reducible first
    | assumption | apply Keeps.ite | apply State.setCtx_keeps | dsimp only | split

theorem State.symEnter_keeps {s₀ s : State} (h : Keeps s₀ s) : ∀ a, Keeps s₀ (State.symEnter s a) := by
  intro a
  unfold State.symEnter
  repeat' with_reducible first
    | assumption | simp only [Keeps.mk_iff] | apply Keeps.ite | apply Keeps.ite_snd | apply State.eccUncorr_keeps
    | apply State.symFree_keeps | apply State.symBegin_keeps | apply State.symMasks_keeps | apply State.symStatus_keeps
    | apply State.symDrop_keeps | dsimp only | apply Keeps.ite_snd3 | apply Keeps.ite_fst | apply Keeps.ite_snd4
    | refine Keeps.of_snd (by assumption) ?_ | refine Keeps.of_snd3 (by assumption) ?_
    | refine Keeps.of_snd4 (by assumption) ?_ | refine Keeps.of_fst (by assumption) ?_ | split

theorem State.symServe_keeps {s₀ s : State} (h : Keeps s₀ s) : ∀ a, Keeps s₀ (State.symServe a s) := by
  intro a
  induction a generalizing s
  all_goals unfold State.symServe
  repeat' with_reducible first
    | assumption | apply Keeps.ite | apply_assumption | apply State.symEnter_keeps | dsimp only | split

theorem State.symStates_keeps {s₀ s : State} (h : Keeps s₀ s) : Keeps s₀ (State.symStates s) := by
  unfold State.symStates
  repeat' with_reducible first
    | assumption | intro _ | simp only [Keeps.mk_iff] | apply Keeps.ite | apply State.jobYield_keeps
    | apply State.symServe_keeps | apply State.wr_keeps | apply Keeps.foldl | dsimp only | apply Keeps.foldl_snd
    | apply Keeps.foldl_snd3 | apply Keeps.foldl_fst | split

theorem State.symAccept_keeps {s₀ s : State} (h : Keeps s₀ s) : ∀ a b c d e, Keeps s₀ (State.symAccept s a b c d e) := by
  intro a b c d e
  unfold State.symAccept
  repeat' with_reducible first
    | assumption | simp only [Keeps.mk_iff] | apply Keeps.ite | apply Keeps.ite_snd | apply State.symStates_keeps
    | apply State.setb_keeps | apply State.symStatus_keeps | apply State.misuse_keeps | apply State.setCtx_keeps | dsimp only
    | apply Keeps.ite_snd3 | apply Keeps.ite_fst | apply Keeps.ite_snd4 | refine Keeps.of_snd (by assumption) ?_
    | refine Keeps.of_snd3 (by assumption) ?_ | refine Keeps.of_snd4 (by assumption) ?_
    | refine Keeps.of_fst (by assumption) ?_ | split

theorem State.symJobStart_keeps {s₀ s : State} (h : Keeps s₀ s) : ∀ a, Keeps s₀ (State.symJobStart s a) := by
  intro a
  unfold State.symJobStart
  repeat' with_reducible first
    | assumption | apply State.engJobStart_keeps | apply State.symAccept_keeps | dsimp only

theorem State.symStart_keeps {s₀ s : State} (h : Keeps s₀ s) : ∀ a b, Keeps s₀ (State.symStart s a b) := by
  intro a b
  unfold State.symStart
  repeat' with_reducible first
    | assumption | apply Keeps.ite | apply State.symJobStart_keeps | apply State.setb_keeps | apply State.symAccept_keeps
    | dsimp only | split

theorem State.symGo_keeps {s₀ s : State} (h : Keeps s₀ s) : ∀ a, Keeps s₀ (State.symGo s a) := by
  intro a
  unfold State.symGo
  repeat' with_reducible first
    | assumption | apply State.symStart_keeps | dsimp only

theorem State.symLeave_keeps {s₀ s : State} (h : Keeps s₀ s) : ∀ a b c, Keeps s₀ (State.symLeave s a b c) := by
  intro a b c
  unfold State.symLeave
  repeat' with_reducible first
    | assumption | apply Keeps.ite | apply State.symStates_keeps | apply State.bump_keeps | apply State.symStatus_keeps
    | apply State.symDrop_keeps | dsimp only | split

theorem State.symPut_keeps {s₀ s : State} (h : Keeps s₀ s) : ∀ a, Keeps s₀ (State.symPut s a) := by
  intro a
  unfold State.symPut
  repeat' with_reducible first
    | assumption | apply Keeps.ite | apply State.unitPut_keeps | dsimp only | split

theorem State.symEndEarly_keeps {s₀ s : State} (h : Keeps s₀ s) : ∀ a b, Keeps s₀ (State.symEndEarly s a b) := by
  intro a b
  unfold State.symEndEarly
  repeat' with_reducible first
    | assumption | apply State.symFree_keeps | apply State.symLeave_keeps | dsimp only

theorem State.kdfStore_keeps {s₀ s : State} (h : Keeps s₀ s) : ∀ a, Keeps s₀ (State.kdfStore s a) := by
  intro a
  unfold State.kdfStore
  repeat' with_reducible first
    | assumption | simp only [Keeps.mk_iff] | apply Keeps.ite | apply Keeps.ite_snd | apply State.symLeave_keeps
    | apply State.vStoreNow_keeps | dsimp only | apply Keeps.ite_snd3 | apply Keeps.ite_fst | apply Keeps.ite_snd4
    | refine Keeps.of_snd (by assumption) ?_ | refine Keeps.of_snd3 (by assumption) ?_
    | refine Keeps.of_snd4 (by assumption) ?_ | refine Keeps.of_fst (by assumption) ?_ | split

theorem State.symComplete_keeps {s₀ s : State} (h : Keeps s₀ s) : ∀ a, Keeps s₀ (State.symComplete s a) := by
  intro a
  unfold State.symComplete
  repeat' with_reducible first
    | assumption | intro _ | apply Keeps.ite | apply State.symEndEarly_keeps | apply State.kdfStore_keeps
    | apply State.symPut_keeps | apply State.setCtx_keeps | apply State.symLeave_keeps | apply Keeps.foldl | dsimp only
    | apply Keeps.foldl_snd | apply Keeps.foldl_snd3 | apply Keeps.foldl_fst | split

theorem State.symLanding_keeps {s₀ s : State} (h : Keeps s₀ s) : Keeps s₀ (State.symLanding s) := by
  unfold State.symLanding
  repeat' with_reducible first
    | assumption | intro _ | simp only [Keeps.mk_iff] | apply Keeps.ite | apply State.symStates_keeps
    | apply State.symEndEarly_keeps | apply Keeps.foldl | dsimp only | apply Keeps.foldl_snd | apply Keeps.foldl_snd3
    | apply Keeps.foldl_fst | split

theorem State.symAbort_keeps {s₀ s : State} (h : Keeps s₀ s) : ∀ a, Keeps s₀ (State.symAbort s a) := by
  intro a
  unfold State.symAbort
  repeat' with_reducible first
    | assumption | simp only [Keeps.mk_iff] | apply Keeps.ite | apply State.setCtx_keeps | dsimp only | split

theorem State.rngFail_keeps {s₀ s : State} (h : Keeps s₀ s) : ∀ a, Keeps s₀ (State.rngFail s a) := by
  intro a
  unfold State.rngFail
  repeat' with_reducible first
    | assumption | simp only [Keeps.mk_iff] | apply Keeps.ite | apply State.bump_keeps | apply State.raise_keeps
    | apply State.setb_keeps | dsimp only | split

theorem State.rngSeed_keeps {s₀ s : State} (h : Keeps s₀ s) : Keeps s₀ (State.rngSeed s) := by
  unfold State.rngSeed
  repeat' with_reducible first
    | assumption | simp only [Keeps.mk_iff] | apply State.wr_keeps | dsimp only

theorem State.rngSample_keeps {s₀ s : State} (h : Keeps s₀ s) : ∀ a, Keeps s₀ (State.rngSample s a) := by
  intro a
  unfold State.rngSample
  repeat' with_reducible first
    | assumption | simp only [Keeps.mk_iff] | apply Keeps.ite | apply Keeps.ite_snd | apply State.rngFail_keeps | dsimp only
    | apply Keeps.ite_snd3 | apply Keeps.ite_fst | apply Keeps.ite_snd4 | refine Keeps.of_snd (by assumption) ?_
    | refine Keeps.of_snd3 (by assumption) ?_ | refine Keeps.of_snd4 (by assumption) ?_
    | refine Keeps.of_fst (by assumption) ?_ | split

theorem State.rawSample_keeps {s₀ s : State} (h : Keeps s₀ s) : Keeps s₀ (State.rawSample s).2 := by
  unfold State.rawSample
  repeat' with_reducible first
    | assumption | simp only [Keeps.mk_iff] | apply State.rngSample_keeps | dsimp only
    | refine Keeps.of_snd (by assumption) ?_ | refine Keeps.of_snd3 (by assumption) ?_
    | refine Keeps.of_snd4 (by assumption) ?_ | refine Keeps.of_fst (by assumption) ?_

theorem State.rawSamples_keeps {s₀ s : State} (h : Keeps s₀ s) : ∀ a, Keeps s₀ (State.rawSamples a s).2 := by
  intro a
  induction a generalizing s
  all_goals unfold State.rawSamples
  repeat' with_reducible first
    | assumption | apply_assumption | apply State.rawSample_keeps | dsimp only | refine Keeps.of_snd (by assumption) ?_
    | refine Keeps.of_snd3 (by assumption) ?_ | refine Keeps.of_snd4 (by assumption) ?_
    | refine Keeps.of_fst (by assumption) ?_ | split

theorem State.rngOut_keeps {s₀ s : State} (h : Keeps s₀ s) : ∀ a, Keeps s₀ (State.rngOut s a) := by
  intro a
  unfold State.rngOut
  repeat' with_reducible first
    | assumption | simp only [Keeps.mk_iff] | apply Keeps.ite | apply Keeps.ite_snd | apply State.drbg_keeps
    | apply State.setb_keeps | apply State.loaded_keeps | dsimp only | apply Keeps.ite_snd3 | apply Keeps.ite_fst
    | apply Keeps.ite_snd4 | refine Keeps.of_snd (by assumption) ?_ | refine Keeps.of_snd3 (by assumption) ?_
    | refine Keeps.of_snd4 (by assumption) ?_ | refine Keeps.of_fst (by assumption) ?_ | split

theorem execEcbEnc_keeps {s₀ s : State} (h : Keeps s₀ s) : ∀ a, Keeps s₀ (afterExec (execEcbEnc a s) s) := by
  intro a
  unfold execEcbEnc afterExec
  repeat' with_reducible first
    | assumption | apply State.symStart_keeps | dsimp only

theorem execEcbDec_keeps {s₀ s : State} (h : Keeps s₀ s) : ∀ a, Keeps s₀ (afterExec (execEcbDec a s) s) := by
  intro a
  unfold execEcbDec afterExec
  repeat' with_reducible first
    | assumption | apply State.symStart_keeps | dsimp only

theorem execCbcEnc_keeps {s₀ s : State} (h : Keeps s₀ s) : ∀ a, Keeps s₀ (afterExec (execCbcEnc a s) s) := by
  intro a
  unfold execCbcEnc afterExec
  repeat' with_reducible first
    | assumption | apply State.symStart_keeps | dsimp only

theorem execCbcDec_keeps {s₀ s : State} (h : Keeps s₀ s) : ∀ a, Keeps s₀ (afterExec (execCbcDec a s) s) := by
  intro a
  unfold execCbcDec afterExec
  repeat' with_reducible first
    | assumption | apply State.symStart_keeps | dsimp only

theorem execCtr_keeps {s₀ s : State} (h : Keeps s₀ s) : ∀ a, Keeps s₀ (afterExec (execCtr a s) s) := by
  intro a
  unfold execCtr afterExec
  repeat' with_reducible first
    | assumption | apply State.symStart_keeps | dsimp only

theorem execCmacGen_keeps {s₀ s : State} (h : Keeps s₀ s) : ∀ a, Keeps s₀ (afterExec (execCmacGen a s) s) := by
  intro a
  unfold execCmacGen afterExec
  repeat' with_reducible first
    | assumption | apply State.symStart_keeps | dsimp only

theorem execCmacChk_keeps {s₀ s : State} (h : Keeps s₀ s) : ∀ a, Keeps s₀ (afterExec (execCmacChk a s) s) := by
  intro a
  unfold execCmacChk afterExec
  repeat' with_reducible first
    | assumption | apply State.symStart_keeps | dsimp only

theorem execGcmEnc_keeps {s₀ s : State} (h : Keeps s₀ s) : ∀ a, Keeps s₀ (afterExec (execGcmEnc a s) s) := by
  intro a
  unfold execGcmEnc afterExec
  repeat' with_reducible first
    | assumption | apply State.symStart_keeps | dsimp only

theorem execGcmDec_keeps {s₀ s : State} (h : Keeps s₀ s) : ∀ a, Keeps s₀ (afterExec (execGcmDec a s) s) := by
  intro a
  unfold execGcmDec afterExec
  repeat' with_reducible first
    | assumption | apply State.symStart_keeps | dsimp only

theorem execSha256_keeps {s₀ s : State} (h : Keeps s₀ s) : ∀ a, Keeps s₀ (afterExec (execSha256 a s) s) := by
  intro a
  unfold execSha256 afterExec
  repeat' with_reducible first
    | assumption | apply State.symStart_keeps | dsimp only

theorem execSha384_keeps {s₀ s : State} (h : Keeps s₀ s) : ∀ a, Keeps s₀ (afterExec (execSha384 a s) s) := by
  intro a
  unfold execSha384 afterExec
  repeat' with_reducible first
    | assumption | apply State.symStart_keeps | dsimp only

theorem execSha512_keeps {s₀ s : State} (h : Keeps s₀ s) : ∀ a, Keeps s₀ (afterExec (execSha512 a s) s) := by
  intro a
  unfold execSha512 afterExec
  repeat' with_reducible first
    | assumption | apply State.symStart_keeps | dsimp only

theorem execHmac256Gen_keeps {s₀ s : State} (h : Keeps s₀ s) : ∀ a, Keeps s₀ (afterExec (execHmac256Gen a s) s) := by
  intro a
  unfold execHmac256Gen afterExec
  repeat' with_reducible first
    | assumption | apply State.symStart_keeps | dsimp only

theorem execHmac384Gen_keeps {s₀ s : State} (h : Keeps s₀ s) : ∀ a, Keeps s₀ (afterExec (execHmac384Gen a s) s) := by
  intro a
  unfold execHmac384Gen afterExec
  repeat' with_reducible first
    | assumption | apply State.symStart_keeps | dsimp only

theorem execHmac512Gen_keeps {s₀ s : State} (h : Keeps s₀ s) : ∀ a, Keeps s₀ (afterExec (execHmac512Gen a s) s) := by
  intro a
  unfold execHmac512Gen afterExec
  repeat' with_reducible first
    | assumption | apply State.symStart_keeps | dsimp only

theorem execHmac256Chk_keeps {s₀ s : State} (h : Keeps s₀ s) : ∀ a, Keeps s₀ (afterExec (execHmac256Chk a s) s) := by
  intro a
  unfold execHmac256Chk afterExec
  repeat' with_reducible first
    | assumption | apply State.symStart_keeps | dsimp only

theorem execHmac384Chk_keeps {s₀ s : State} (h : Keeps s₀ s) : ∀ a, Keeps s₀ (afterExec (execHmac384Chk a s) s) := by
  intro a
  unfold execHmac384Chk afterExec
  repeat' with_reducible first
    | assumption | apply State.symStart_keeps | dsimp only

theorem execHmac512Chk_keeps {s₀ s : State} (h : Keeps s₀ s) : ∀ a, Keeps s₀ (afterExec (execHmac512Chk a s) s) := by
  intro a
  unfold execHmac512Chk afterExec
  repeat' with_reducible first
    | assumption | apply State.symStart_keeps | dsimp only

theorem execKdf_keeps {s₀ s : State} (h : Keeps s₀ s) : ∀ a, Keeps s₀ (afterExec (execKdf a s) s) := by
  intro a
  unfold execKdf afterExec
  repeat' with_reducible first
    | assumption | apply State.symStart_keeps | dsimp only

theorem execSymAbort_keeps {s₀ s : State} (h : Keeps s₀ s) : ∀ a, Keeps s₀ (afterExec (execSymAbort a s) s) := by
  intro a
  unfold execSymAbort afterExec
  repeat' with_reducible first
    | assumption | intro _ | apply State.byCore_keeps | apply State.symAbort_keeps | dsimp only

theorem execSymOpComplete_keeps {s₀ s : State} (h : Keeps s₀ s) : ∀ a, Keeps s₀ (afterExec (execSymOpComplete a s) s) := by
  intro a
  unfold execSymOpComplete afterExec
  repeat' with_reducible first
    | assumption | apply State.symComplete_keeps | dsimp only

theorem execRngHealthFail_keeps {s₀ s : State} (h : Keeps s₀ s) : ∀ a, Keeps s₀ (afterExec (execRngHealthFail a s) s) := by
  intro a
  unfold execRngHealthFail afterExec
  repeat' with_reducible first
    | assumption | apply Keeps.ite | apply State.rngFail_keeps | dsimp only | split

theorem execRngRestartComplete_keeps {s₀ s : State} (h : Keeps s₀ s) : Keeps s₀ (afterExec (execRngRestartComplete s) s) := by
  unfold execRngRestartComplete afterExec
  repeat' with_reducible first
    | assumption | apply Keeps.ite | apply State.wr_keeps | apply State.rngSeed_keeps | dsimp only | split

theorem execDrbgReseed_keeps {s₀ s : State} (h : Keeps s₀ s) : Keeps s₀ (afterExec (execDrbgReseed s) s) := by
  unfold execDrbgReseed afterExec
  repeat' with_reducible first
    | assumption | apply Keeps.ite | apply State.rngSeed_keeps | dsimp only | split

theorem execRngOutRead_keeps {s₀ s : State} (h : Keeps s₀ s) : ∀ a, Keeps s₀ (afterExec (execRngOutRead a s) s) := by
  intro a
  unfold execRngOutRead afterExec
  repeat' with_reducible first
    | assumption | intro _ | apply State.byCore_keeps | apply State.rngOut_keeps | dsimp only

theorem State.deliver_keeps {s₀ s : State} (h : Keeps s₀ s) : ∀ a, Keeps s₀ (State.deliver s a) := by
  intro a
  unfold State.deliver
  repeat' with_reducible first
    | assumption | apply Keeps.ite | apply Keeps.ite_snd | apply State.ipend_keeps | apply State.setInst_keeps
    | apply State.wrs_keeps | dsimp only | apply Keeps.ite_snd3 | apply Keeps.ite_fst | apply Keeps.ite_snd4
    | refine Keeps.of_snd (by assumption) ?_ | refine Keeps.of_snd3 (by assumption) ?_
    | refine Keeps.of_snd4 (by assumption) ?_ | refine Keeps.of_fst (by assumption) ?_ | split

theorem State.jobSkip_keeps {s₀ s : State} (h : Keeps s₀ s) : ∀ a, Keeps s₀ (State.jobSkip s a) := by
  intro a
  unfold State.jobSkip
  repeat' with_reducible first
    | assumption | simp only [Keeps.mk_iff] | apply Keeps.ite | apply State.bump_keeps | apply State.jobStatus_keeps
    | dsimp only | split

theorem State.jobRelease_keeps {s₀ s : State} (h : Keeps s₀ s) : ∀ a, Keeps s₀ (State.jobRelease s a) := by
  intro a
  unfold State.jobRelease
  repeat' with_reducible first
    | assumption | apply Keeps.ite | apply State.jobStatus_keeps | apply State.jobSkip_keeps | apply State.setInst_keeps
    | dsimp only | split

theorem State.jobResume_keeps {s₀ s : State} (h : Keeps s₀ s) : ∀ a, Keeps s₀ (State.jobResume s a) := by
  intro a
  unfold State.jobResume
  repeat' with_reducible first
    | assumption | apply Keeps.ite | apply State.jobStatus_keeps | apply State.setInst_keeps | dsimp only | split

theorem State.jobsRelease_keeps {s₀ s : State} (h : Keeps s₀ s) : Keeps s₀ (State.jobsRelease s) := by
  unfold State.jobsRelease
  repeat' with_reducible first
    | assumption | intro _ | simp only [Keeps.mk_iff] | apply Keeps.ite | apply State.jobRelease_keeps
    | apply State.jobResume_keeps | apply Keeps.foldl | dsimp only | apply Keeps.foldl_snd | apply Keeps.foldl_snd3
    | apply Keeps.foldl_fst | split

theorem State.jobTake_keeps {s₀ s : State} (h : Keeps s₀ s) : ∀ a, Keeps s₀ (State.jobTake s a) := by
  intro a
  unfold State.jobTake
  repeat' with_reducible first
    | assumption | apply Keeps.ite | apply State.jobStatus_keeps | apply State.setInst_keeps | dsimp only | split

theorem State.jobPass_keeps {s₀ s : State} (h : Keeps s₀ s) : ∀ a, Keeps s₀ (State.jobPass s a) := by
  intro a
  unfold State.jobPass
  repeat' with_reducible first
    | assumption | apply Keeps.ite | apply State.jobStatus_keeps | apply State.setInst_keeps | apply State.jobTake_keeps
    | dsimp only | split

theorem State.jobsTake_keeps {s₀ s : State} (h : Keeps s₀ s) : Keeps s₀ (State.jobsTake s) := by
  unfold State.jobsTake
  repeat' with_reducible first
    | assumption | apply State.jobTake_keeps | dsimp only

theorem State.sramPut_keeps {s₀ s : State} (h : Keeps s₀ s) : ∀ a b, Keeps s₀ (State.sramPut s a b) := by
  intro a b
  unfold State.sramPut
  repeat' with_reducible first
    | assumption | apply Keeps.ite | apply State.unitPut_keeps | dsimp only | split

theorem State.batchRun_keeps {s₀ s : State} (h : Keeps s₀ s) : ∀ a b c d e, Keeps s₀ (State.batchRun a b c d e s) := by
  intro a b c d e
  induction d generalizing a b c e s
  all_goals unfold State.batchRun
  repeat' with_reducible first
    | assumption | intro _ | simp only [Keeps.mk_iff] | apply_assumption | apply State.sramPut_keeps
    | apply State.strAsk_keeps | dsimp only | refine Keeps.of_snd (by assumption) ?_ | refine Keeps.of_snd3 (by assumption) ?_
    | refine Keeps.of_snd4 (by assumption) ?_ | refine Keeps.of_fst (by assumption) ?_ | split

theorem State.batchMore_keeps {s₀ s : State} (h : Keeps s₀ s) : ∀ a b, Keeps s₀ (State.batchMore s a b) := by
  intro a b
  unfold State.batchMore
  repeat' with_reducible first
    | assumption | apply State.batchRun_keeps | dsimp only

theorem State.strProgress_keeps {s₀ s : State} (h : Keeps s₀ s) : Keeps s₀ (State.strProgress s) := by
  unfold State.strProgress
  repeat' with_reducible first
    | assumption | apply Keeps.ite | apply Keeps.ite_snd | apply State.setInst_keeps | apply State.batchMore_keeps
    | apply State.choose_keeps | dsimp only | apply Keeps.ite_snd3 | apply Keeps.ite_fst | apply Keeps.ite_snd4
    | refine Keeps.of_snd (by assumption) ?_ | refine Keeps.of_snd3 (by assumption) ?_
    | refine Keeps.of_snd4 (by assumption) ?_ | refine Keeps.of_fst (by assumption) ?_ | split

theorem State.deliverAll_keeps {s₀ s : State} (h : Keeps s₀ s) : Keeps s₀ (State.deliverAll s) := by
  unfold State.deliverAll
  repeat' with_reducible first
    | assumption | apply Keeps.ite | apply State.deliver_keeps | dsimp only | split

theorem State.setPhase_keeps {s₀ s : State} (h : Keeps s₀ s) : ∀ a b, Keeps s₀ (State.setPhase s a b) := by
  intro a b
  unfold State.setPhase
  repeat' with_reducible first
    | assumption | simp only [Keeps.mk_iff] | dsimp only

theorem State.harvestEnd_keeps {s₀ s : State} (h : Keeps s₀ s) : Keeps s₀ (State.harvestEnd s) := by
  unfold State.harvestEnd
  repeat' with_reducible first
    | assumption | apply Keeps.ite | apply State.pkeStates_keeps | apply State.symStates_keeps | apply State.jobsRelease_keeps
    | apply State.deliverAll_keeps | apply State.setPhase_keeps | apply State.jobsTake_keeps | dsimp only | split

theorem State.kick_keeps {s₀ s : State} (h : Keeps s₀ s) : ∀ a b, Keeps s₀ (State.kick s a b) := by
  intro a b
  unfold State.kick
  repeat' with_reducible first
    | assumption | simp only [Keeps.mk_iff] | dsimp only

theorem State.tickDone_keeps {s₀ s : State} (h : Keeps s₀ s) : ∀ a b, Keeps s₀ (State.tickDone s a b) := by
  intro a b
  unfold State.tickDone
  repeat' with_reducible first
    | assumption | apply Keeps.ite | apply State.jobStatus_keeps | apply State.setInst_keeps | apply State.setb_keeps
    | apply State.deliver_keeps | apply State.misuse_keeps | apply State.coreIdle_keeps | dsimp only | split

theorem State.budgetUsed_keeps {s₀ s : State} (h : Keeps s₀ s) : ∀ a, Keeps s₀ (State.budgetUsed s a) := by
  intro a
  unfold State.budgetUsed
  repeat' with_reducible first
    | assumption | apply Keeps.ite | apply State.ipend_keeps | apply State.setInst_keeps | dsimp only | split

theorem State.raCancel_keeps {s₀ s : State} (h : Keeps s₀ s) : ∀ a, Keeps s₀ (State.raCancel s a) := by
  intro a
  unfold State.raCancel
  repeat' with_reducible first
    | assumption | intro _ | apply Keeps.ite | apply Keeps.ite_snd | apply State.wrs_keeps | apply Keeps.foldl | dsimp only
    | apply Keeps.foldl_snd | apply Keeps.foldl_snd3 | apply Keeps.foldl_fst | apply Keeps.ite_snd3 | apply Keeps.ite_fst
    | apply Keeps.ite_snd4 | refine Keeps.of_snd (by assumption) ?_ | refine Keeps.of_snd3 (by assumption) ?_
    | refine Keeps.of_snd4 (by assumption) ?_ | refine Keeps.of_fst (by assumption) ?_ | split

theorem State.jobOverrun_keeps {s₀ s : State} (h : Keeps s₀ s) : ∀ a, Keeps s₀ (State.jobOverrun s a) := by
  intro a
  unfold State.jobOverrun
  repeat' with_reducible first
    | assumption | simp only [Keeps.mk_iff] | apply Keeps.ite | apply State.bump_keeps | apply State.raCancel_keeps
    | apply State.wr_keeps | apply State.strProgress_keeps | apply State.raise_keeps | apply State.jobAbort_keeps
    | apply State.jobsTake_keeps | dsimp only | split

theorem State.jobPark_keeps {s₀ s : State} (h : Keeps s₀ s) : ∀ a, Keeps s₀ (State.jobPark s a) := by
  intro a
  unfold State.jobPark
  repeat' with_reducible first
    | assumption | intro _ | apply Keeps.ite | apply State.jobStatus_keeps | apply State.setInst_keeps | apply Keeps.foldl
    | dsimp only | apply Keeps.foldl_snd | apply Keeps.foldl_snd3 | apply Keeps.foldl_fst | split

theorem State.landing_keeps {s₀ s : State} (h : Keeps s₀ s) : ∀ a, Keeps s₀ (State.landing s a) := by
  intro a
  unfold State.landing
  repeat' with_reducible first
    | assumption | apply State.symLanding_keeps | apply State.jobPass_keeps | apply State.jobPark_keeps
    | apply State.strProgress_keeps | apply State.pkeLanding_keeps | dsimp only | split

theorem State.frameClose_keeps {s₀ s : State} (h : Keeps s₀ s) : Keeps s₀ (State.frameClose s) := by
  unfold State.frameClose
  repeat' with_reducible first
    | assumption | apply Keeps.ite | apply State.vNext_keeps | apply State.setPhase_keeps | apply State.landing_keeps
    | dsimp only | split

theorem State.raIssue_keeps {s₀ s : State} (h : Keeps s₀ s) : ∀ a, Keeps s₀ (State.raIssue s a) := by
  intro a
  unfold State.raIssue
  repeat' with_reducible first
    | assumption | apply Keeps.ite | apply Keeps.ite_snd | apply State.choose_keeps | apply State.strSearch_keeps
    | apply State.wrs_keeps | dsimp only | apply Keeps.ite_snd3 | apply Keeps.ite_fst | apply Keeps.ite_snd4
    | refine Keeps.of_snd (by assumption) ?_ | refine Keeps.of_snd3 (by assumption) ?_
    | refine Keeps.of_snd4 (by assumption) ?_ | refine Keeps.of_fst (by assumption) ?_ | split

theorem State.runAhead_keeps {s₀ s : State} (h : Keeps s₀ s) : Keeps s₀ (State.runAhead s) := by
  unfold State.runAhead
  repeat' with_reducible first
    | assumption | intro _ | simp only [Keeps.mk_iff] | apply Keeps.ite | apply State.raIssue_keeps | apply Keeps.foldl
    | dsimp only | apply Keeps.foldl_snd | apply Keeps.foldl_snd3 | apply Keeps.foldl_fst | split

theorem State.windowClose_keeps {s₀ s : State} (h : Keeps s₀ s) : Keeps s₀ (State.windowClose s) := by
  unfold State.windowClose
  repeat' with_reducible first
    | assumption | apply Keeps.ite | apply State.pkeStates_keeps | apply State.symStates_keeps | apply State.setPhase_keeps
    | dsimp only | split

theorem execHarvestEnd_keeps {s₀ s : State} (h : Keeps s₀ s) : Keeps s₀ (afterExec (execHarvestEnd s) s) := by
  unfold execHarvestEnd afterExec
  repeat' with_reducible first
    | assumption | apply State.harvestEnd_keeps | dsimp only

theorem execForegroundWindowClose_keeps {s₀ s : State} (h : Keeps s₀ s) :
    Keeps s₀ (afterExec (execForegroundWindowClose s) s) := by
  unfold execForegroundWindowClose afterExec
  repeat' with_reducible first
    | assumption | apply State.windowClose_keeps | dsimp only

theorem execRunAhead_keeps {s₀ s : State} (h : Keeps s₀ s) : Keeps s₀ (afterExec (execRunAhead s) s) := by
  unfold execRunAhead afterExec
  repeat' with_reducible first
    | assumption | apply State.runAhead_keeps | dsimp only

theorem execTickKick_keeps {s₀ s : State} (h : Keeps s₀ s) : ∀ a b c, Keeps s₀ (afterExec (execTickKick a b c s) s) := by
  intro a b c
  unfold execTickKick afterExec
  repeat' with_reducible first
    | assumption | intro _ | apply State.kick_keeps | apply State.byAgent_keeps | dsimp only

theorem execTickDone_keeps {s₀ s : State} (h : Keeps s₀ s) : ∀ a b, Keeps s₀ (afterExec (execTickDone a b s) s) := by
  intro a b
  unfold execTickDone afterExec
  repeat' with_reducible first
    | assumption | intro _ | apply State.byCore_keeps | apply State.tickDone_keeps | dsimp only

theorem execJobBudgetUsed_keeps {s₀ s : State} (h : Keeps s₀ s) : ∀ a, Keeps s₀ (afterExec (execJobBudgetUsed a s) s) := by
  intro a
  unfold execJobBudgetUsed afterExec
  repeat' with_reducible first
    | assumption | apply State.budgetUsed_keeps | dsimp only

theorem execJobOverrun_keeps {s₀ s : State} (h : Keeps s₀ s) : ∀ a, Keeps s₀ (afterExec (execJobOverrun a s) s) := by
  intro a
  unfold execJobOverrun afterExec
  repeat' with_reducible first
    | assumption | apply State.jobOverrun_keeps | dsimp only

theorem execLandingPoint_keeps {s₀ s : State} (h : Keeps s₀ s) : ∀ a, Keeps s₀ (afterExec (execLandingPoint a s) s) := by
  intro a
  unfold execLandingPoint afterExec
  repeat' with_reducible first
    | assumption | apply State.vNext_keeps | apply State.landing_keeps | dsimp only

theorem execPllRelock_keeps {s₀ s : State} (h : Keeps s₀ s) : Keeps s₀ (afterExec (execPllRelock s) s) := by
  unfold execPllRelock afterExec
  repeat' with_reducible first
    | assumption | simp only [Keeps.mk_iff] | apply Keeps.ite | dsimp only | split

theorem State.paramWrite_keeps {s₀ s : State} (h : Keeps s₀ s) : ∀ a b, Keeps s₀ (State.paramWrite s a b) := by
  intro a b
  unfold State.paramWrite
  repeat' with_reducible first
    | assumption | simp only [Keeps.mk_iff] | dsimp only | split

theorem State.paramAuto_keeps {s₀ s : State} (h : Keeps s₀ s) : ∀ a, Keeps s₀ (State.paramAuto s a) := by
  intro a
  unfold State.paramAuto
  repeat' with_reducible first
    | assumption | simp only [Keeps.mk_iff] | apply Keeps.ite | apply Keeps.ite_snd | apply State.paramWrite_keeps
    | dsimp only | apply Keeps.ite_snd3 | apply Keeps.ite_fst | apply Keeps.ite_snd4 | refine Keeps.of_snd (by assumption) ?_
    | refine Keeps.of_snd3 (by assumption) ?_ | refine Keeps.of_snd4 (by assumption) ?_
    | refine Keeps.of_fst (by assumption) ?_ | split

theorem State.paramSave_keeps {s₀ s : State} (h : Keeps s₀ s) : ∀ a b, Keeps s₀ (State.paramSave s a b) := by
  intro a b
  unfold State.paramSave
  repeat' with_reducible first
    | assumption | apply Keeps.ite | apply Keeps.ite_snd | apply State.paramWrite_keeps | apply State.wrs_keeps | dsimp only
    | apply Keeps.ite_snd3 | apply Keeps.ite_fst | apply Keeps.ite_snd4 | refine Keeps.of_snd (by assumption) ?_
    | refine Keeps.of_snd3 (by assumption) ?_ | refine Keeps.of_snd4 (by assumption) ?_
    | refine Keeps.of_fst (by assumption) ?_ | split

theorem State.ctrCore_keeps {s₀ s : State} (h : Keeps s₀ s) : ∀ a b, Keeps s₀ (State.ctrCore s a b).2 := by
  intro a b
  unfold State.ctrCore
  repeat' with_reducible first
    | assumption | apply Keeps.ite | apply Keeps.ite_snd | apply State.ctrInc_keeps | dsimp only | apply Keeps.ite_snd3
    | apply Keeps.ite_fst | apply Keeps.ite_snd4 | refine Keeps.of_snd (by assumption) ?_
    | refine Keeps.of_snd3 (by assumption) ?_ | refine Keeps.of_snd4 (by assumption) ?_
    | refine Keeps.of_fst (by assumption) ?_ | split

theorem State.counterIncrement_keeps {s₀ s : State} (h : Keeps s₀ s) : ∀ a b, Keeps s₀ (State.counterIncrement s a b) := by
  intro a b
  unfold State.counterIncrement
  repeat' with_reducible first
    | assumption | apply State.wr_keeps | apply State.ctrCore_keeps | dsimp only | refine Keeps.of_snd (by assumption) ?_
    | refine Keeps.of_snd3 (by assumption) ?_ | refine Keeps.of_snd4 (by assumption) ?_
    | refine Keeps.of_fst (by assumption) ?_ | split

theorem State.ringSet_keeps {s₀ s : State} (h : Keeps s₀ s) : ∀ a b, Keeps s₀ (State.ringSet s a b).2 := by
  intro a b
  unfold State.ringSet
  repeat' with_reducible first
    | assumption | simp only [Keeps.mk_iff] | apply Keeps.ite | apply Keeps.ite_snd | apply State.setb_keeps | dsimp only
    | apply Keeps.ite_snd3 | apply Keeps.ite_fst | apply Keeps.ite_snd4 | refine Keeps.of_snd (by assumption) ?_
    | refine Keeps.of_snd3 (by assumption) ?_ | refine Keeps.of_snd4 (by assumption) ?_
    | refine Keeps.of_fst (by assumption) ?_ | split

theorem State.ringConfig_keeps {s₀ s : State} (h : Keeps s₀ s) : ∀ a b, Keeps s₀ (State.ringConfig s a b) := by
  intro a b
  unfold State.ringConfig
  repeat' with_reducible first
    | assumption | apply Keeps.ite | apply Keeps.ite_snd | apply State.ringSet_keeps | dsimp only | apply Keeps.ite_snd3
    | apply Keeps.ite_fst | apply Keeps.ite_snd4 | refine Keeps.of_snd (by assumption) ?_
    | refine Keeps.of_snd3 (by assumption) ?_ | refine Keeps.of_snd4 (by assumption) ?_
    | refine Keeps.of_fst (by assumption) ?_ | split

theorem State.larderStore_keeps {s₀ s : State} (h : Keeps s₀ s) : ∀ a b c, Keeps s₀ (State.larderStore s a b c) := by
  intro a b c
  unfold State.larderStore
  repeat' with_reducible first
    | assumption | apply Keeps.ite | apply State.setb_keeps | apply State.misuse_keeps | apply State.putBytes_keeps
    | dsimp only | split

theorem execCounterIncrement_keeps {s₀ s : State} (h : Keeps s₀ s) :
    ∀ a b, Keeps s₀ (afterExec (execCounterIncrement a b s) s) := by
  intro a b
  unfold execCounterIncrement afterExec
  repeat' with_reducible first
    | assumption | intro _ | apply State.byCore_keeps | apply State.counterIncrement_keeps | dsimp only

theorem execRingConfig_keeps {s₀ s : State} (h : Keeps s₀ s) : ∀ a b c, Keeps s₀ (afterExec (execRingConfig a b c s) s) := by
  intro a b c
  unfold execRingConfig afterExec
  repeat' with_reducible first
    | assumption | intro _ | apply State.byCore_keeps | apply State.ringConfig_keeps | dsimp only

theorem execParamSave_keeps {s₀ s : State} (h : Keeps s₀ s) : ∀ a b, Keeps s₀ (afterExec (execParamSave a b s) s) := by
  intro a b
  unfold execParamSave afterExec
  repeat' with_reducible first
    | assumption | intro _ | apply State.byCore_keeps | apply State.paramSave_keeps | dsimp only

theorem execLarderStore_keeps {s₀ s : State} (h : Keeps s₀ s) :
    ∀ a b c d, Keeps s₀ (afterExec (execLarderStore a b c d s) s) := by
  intro a b c d
  unfold execLarderStore afterExec
  repeat' with_reducible first
    | assumption | intro _ | apply State.byCore_keeps | apply State.larderStore_keeps | dsimp only

end Sys2Proof.Machine
end

