-- ==== Sys2Proof/Laws/Keeps4.lean ====
section
/-!
SUPPORT. Keeps4.lean: the operations of Time.lean, Ports.lean, Cards.lean, Claims.lean keep the queue of commands, the
canonical form of the memory and the blown fuses (Laws/Keeps.lean). A lemma of a command's meaning speaks of the state after
it.
-/
namespace Sys2Proof.Machine

theorem State.tbsTo_keeps {s₀ s : State} (h : Keeps s₀ s) : ∀ a, Keeps s₀ (State.tbsTo s a) := by
  intro a
  unfold State.tbsTo
  repeat' with_reducible first
    | assumption | simp only [Keeps.mk_iff] | apply Keeps.ite | apply State.wr_keeps | apply State.ipendAll_keeps | dsimp only
    | split

theorem State.adjCharge_keeps {s₀ s : State} (h : Keeps s₀ s) : ∀ a, Keeps s₀ (State.adjCharge s a) := by
  intro a
  unfold State.adjCharge
  repeat' with_reducible first
    | assumption | simp only [Keeps.mk_iff] | apply Keeps.ite | apply State.wr_keeps | dsimp only | split

theorem State.stepUtc_keeps {s₀ s : State} (h : Keeps s₀ s) : ∀ a, Keeps s₀ (State.stepUtc s a) := by
  intro a
  unfold State.stepUtc
  repeat' with_reducible first
    | assumption | simp only [Keeps.mk_iff] | dsimp only

theorem State.rtcAgree_keeps {s₀ s : State} (h : Keeps s₀ s) : Keeps s₀ (State.rtcAgree s) := by
  unfold State.rtcAgree
  repeat' with_reducible first
    | assumption | simp only [Keeps.mk_iff] | dsimp only

theorem State.rtcSlave_keeps {s₀ s : State} (h : Keeps s₀ s) : ∀ a, Keeps s₀ (State.rtcSlave s a) := by
  intro a
  unfold State.rtcSlave
  repeat' with_reducible first
    | assumption | apply Keeps.ite | apply State.rtcAgree_keeps | dsimp only | split

theorem State.timeRec_keeps {s₀ s : State} (h : Keeps s₀ s) : ∀ a b, Keeps s₀ (State.timeRec s a b) := by
  intro a b
  unfold State.timeRec
  repeat' with_reducible first
    | assumption | apply State.attic_keeps | dsimp only

theorem State.stepLock_keeps {s₀ s : State} (h : Keeps s₀ s) : ∀ a, Keeps s₀ (State.stepLock s a) := by
  intro a
  unfold State.stepLock
  repeat' with_reducible first
    | assumption | apply Keeps.ite | apply State.tbsTo_keeps | apply State.setb_keeps | dsimp only | split

theorem State.timeAdj_keeps {s₀ s : State} (h : Keeps s₀ s) : ∀ a, Keeps s₀ (State.timeAdj s a) := by
  intro a
  unfold State.timeAdj
  repeat' with_reducible first
    | assumption | apply Keeps.ite | apply State.ctrAuto_keeps | apply State.timeRec_keeps | apply State.adjCharge_keeps
    | apply State.stepUtc_keeps | apply State.paramAuto_keeps | apply State.stepLock_keeps | dsimp only | split

theorem State.rtcAlign_keeps {s₀ s : State} (h : Keeps s₀ s) : Keeps s₀ (State.rtcAlign s) := by
  unfold State.rtcAlign
  repeat' with_reducible first
    | assumption | apply Keeps.ite | apply State.rtcAgree_keeps | dsimp only | split

theorem State.timeSet_keeps {s₀ s : State} (h : Keeps s₀ s) : ∀ a, Keeps s₀ (State.timeSet s a) := by
  intro a
  unfold State.timeSet
  repeat' with_reducible first
    | assumption | apply State.rtcAlign_keeps | apply State.wr_keeps | apply State.ctrAuto_keeps | apply State.timeRec_keeps
    | apply State.stepUtc_keeps | apply State.paramAuto_keeps | apply State.stepLock_keeps | dsimp only

theorem State.ppsNote_keeps {s₀ s : State} (h : Keeps s₀ s) : ∀ a, Keeps s₀ (State.ppsNote s a) := by
  intro a
  unfold State.ppsNote
  repeat' with_reducible first
    | assumption | simp only [Keeps.mk_iff] | apply State.wr_keeps | dsimp only

theorem State.ppsRuns_keeps {s₀ s : State} (h : Keeps s₀ s) : ∀ a, Keeps s₀ (State.ppsRuns s a) := by
  intro a
  unfold State.ppsRuns
  repeat' with_reducible first
    | assumption | simp only [Keeps.mk_iff] | apply Keeps.ite | dsimp only | split

theorem State.ppsUse_keeps {s₀ s : State} (h : Keeps s₀ s) : Keeps s₀ (State.ppsUse s).2 := by
  unfold State.ppsUse
  repeat' with_reducible first
    | assumption | apply State.measure_keeps | dsimp only | refine Keeps.of_snd (by assumption) ?_
    | refine Keeps.of_snd3 (by assumption) ?_ | refine Keeps.of_snd4 (by assumption) ?_
    | refine Keeps.of_fst (by assumption) ?_ | split

theorem State.ppsState_keeps {s₀ s : State} (h : Keeps s₀ s) : Keeps s₀ (State.ppsState s) := by
  unfold State.ppsState
  repeat' with_reducible first
    | assumption | simp only [Keeps.mk_iff] | apply Keeps.ite | apply State.tbsTo_keeps | dsimp only | split

theorem State.ppsFollow_keeps {s₀ s : State} (h : Keeps s₀ s) : ∀ a, Keeps s₀ (State.ppsFollow s a) := by
  intro a
  unfold State.ppsFollow
  repeat' with_reducible first
    | assumption | simp only [Keeps.mk_iff] | apply Keeps.ite | apply Keeps.ite_snd | apply State.tbsTo_keeps
    | apply State.ppsState_keeps | apply State.wr_keeps | apply State.ppsRuns_keeps | apply State.setb_keeps
    | apply State.adjCharge_keeps | apply State.ppsUse_keeps | dsimp only | apply Keeps.ite_snd3 | apply Keeps.ite_fst
    | apply Keeps.ite_snd4 | refine Keeps.of_snd (by assumption) ?_ | refine Keeps.of_snd3 (by assumption) ?_
    | refine Keeps.of_snd4 (by assumption) ?_ | refine Keeps.of_fst (by assumption) ?_ | split

theorem State.ppsJudge_keeps {s₀ s : State} (h : Keeps s₀ s) : ∀ a, Keeps s₀ (State.ppsJudge s a) := by
  intro a
  unfold State.ppsJudge
  repeat' with_reducible first
    | assumption | simp only [Keeps.mk_iff] | apply Keeps.ite | apply State.ppsFollow_keeps | apply State.ppsNote_keeps
    | dsimp only | split

theorem State.ppsSet_keeps {s₀ s : State} (h : Keeps s₀ s) : ∀ a, Keeps s₀ (State.ppsSet s a) := by
  intro a
  unfold State.ppsSet
  repeat' with_reducible first
    | assumption | simp only [Keeps.mk_iff] | apply State.replyOk_keeps | apply State.timeSet_keeps | dsimp only | split

theorem State.ppsLoss_keeps {s₀ s : State} (h : Keeps s₀ s) : Keeps s₀ (State.ppsLoss s) := by
  unfold State.ppsLoss
  repeat' with_reducible first
    | assumption | apply Keeps.ite | apply State.tbsTo_keeps | dsimp only | split

theorem State.holdoverEnd_keeps {s₀ s : State} (h : Keeps s₀ s) : Keeps s₀ (State.holdoverEnd s) := by
  unfold State.holdoverEnd
  repeat' with_reducible first
    | assumption | apply Keeps.ite | apply State.tbsTo_keeps | dsimp only | split

theorem State.adjWindowEnd_keeps {s₀ s : State} (h : Keeps s₀ s) : Keeps s₀ (State.adjWindowEnd s) := by
  unfold State.adjWindowEnd
  repeat' with_reducible first
    | assumption | simp only [Keeps.mk_iff] | apply Keeps.ite | apply Keeps.ite_snd | apply State.wr_keeps
    | apply State.wrs_keeps | dsimp only | apply Keeps.ite_snd3 | apply Keeps.ite_fst | apply Keeps.ite_snd4
    | refine Keeps.of_snd (by assumption) ?_ | refine Keeps.of_snd3 (by assumption) ?_
    | refine Keeps.of_snd4 (by assumption) ?_ | refine Keeps.of_fst (by assumption) ?_ | split

theorem State.disciplineSave_keeps {s₀ s : State} (h : Keeps s₀ s) : Keeps s₀ (State.disciplineSave s) := by
  unfold State.disciplineSave
  repeat' with_reducible first
    | assumption | simp only [Keeps.mk_iff] | apply Keeps.ite | apply State.paramAuto_keeps | dsimp only | split

theorem State.rtcTemp_keeps {s₀ s : State} (h : Keeps s₀ s) : ∀ a, Keeps s₀ (State.rtcTemp s a) := by
  intro a
  unfold State.rtcTemp
  repeat' with_reducible first
    | assumption | simp only [Keeps.mk_iff] | dsimp only

theorem State.ageing_keeps {s₀ s : State} (h : Keeps s₀ s) : ∀ a, Keeps s₀ (State.ageing s a) := by
  intro a
  unfold State.ageing
  repeat' with_reducible first
    | assumption | simp only [Keeps.mk_iff] | apply Keeps.ite | apply Keeps.ite_snd | apply State.rtcTemp_keeps
    | apply State.wr_keeps | apply State.choose_keeps | apply State.paramAuto_keeps | dsimp only | apply Keeps.ite_snd3
    | apply Keeps.ite_fst | apply Keeps.ite_snd4 | refine Keeps.of_snd (by assumption) ?_
    | refine Keeps.of_snd3 (by assumption) ?_ | refine Keeps.of_snd4 (by assumption) ?_
    | refine Keeps.of_fst (by assumption) ?_ | split

theorem State.leapCellar_keeps {s₀ s : State} (h : Keeps s₀ s) : Keeps s₀ (State.leapCellar s) := by
  unfold State.leapCellar
  repeat' with_reducible first
    | assumption | simp only [Keeps.mk_iff] | apply Keeps.ite | dsimp only | split

theorem State.leapRegs_keeps {s₀ s : State} (h : Keeps s₀ s) : ∀ a, Keeps s₀ (State.leapRegs s a) := by
  intro a
  unfold State.leapRegs
  repeat' with_reducible first
    | assumption | apply Keeps.ite | apply Keeps.ite_snd | apply State.timeRec_keeps | apply State.wrs_keeps | dsimp only
    | apply Keeps.ite_snd3 | apply Keeps.ite_fst | apply Keeps.ite_snd4 | refine Keeps.of_snd (by assumption) ?_
    | refine Keeps.of_snd3 (by assumption) ?_ | refine Keeps.of_snd4 (by assumption) ?_
    | refine Keeps.of_fst (by assumption) ?_ | split

theorem State.leap_keeps {s₀ s : State} (h : Keeps s₀ s) : Keeps s₀ (State.leap s) := by
  unfold State.leap
  repeat' with_reducible first
    | assumption | simp only [Keeps.mk_iff] | apply Keeps.ite | apply State.leapRegs_keeps | apply State.wr_keeps
    | apply State.stepUtc_keeps | dsimp only | split

theorem State.timeLatch_keeps {s₀ s : State} (h : Keeps s₀ s) : ∀ a, Keeps s₀ (State.timeLatch s a) := by
  intro a
  unfold State.timeLatch
  repeat' with_reducible first
    | assumption | simp only [Keeps.mk_iff] | dsimp only

theorem State.calReply_keeps {s₀ s : State} (h : Keeps s₀ s) : Keeps s₀ (State.calReply s) := by
  unfold State.calReply
  repeat' with_reducible first
    | assumption | apply Keeps.ite | apply Keeps.ite_snd | apply State.replyOk_keeps | apply State.measure_keeps | dsimp only
    | apply Keeps.ite_snd3 | apply Keeps.ite_fst | apply Keeps.ite_snd4 | refine Keeps.of_snd (by assumption) ?_
    | refine Keeps.of_snd3 (by assumption) ?_ | refine Keeps.of_snd4 (by assumption) ?_
    | refine Keeps.of_fst (by assumption) ?_ | split

theorem State.tdcCal_keeps {s₀ s : State} (h : Keeps s₀ s) : ∀ a, Keeps s₀ (State.tdcCal s a) := by
  intro a
  unfold State.tdcCal
  repeat' with_reducible first
    | assumption | simp only [Keeps.mk_iff] | apply State.wr_keeps | apply State.calReply_keeps | dsimp only

theorem execRtcTempUpdate_keeps {s₀ s : State} (h : Keeps s₀ s) : ∀ a, Keeps s₀ (afterExec (execRtcTempUpdate a s) s) := by
  intro a
  unfold execRtcTempUpdate afterExec
  repeat' with_reducible first
    | assumption | apply State.rtcTemp_keeps | dsimp only

theorem execAgeingUpdate_keeps {s₀ s : State} (h : Keeps s₀ s) : ∀ a, Keeps s₀ (afterExec (execAgeingUpdate a s) s) := by
  intro a
  unfold execAgeingUpdate afterExec
  repeat' with_reducible first
    | assumption | apply State.ageing_keeps | dsimp only

theorem execPpsLoss_keeps {s₀ s : State} (h : Keeps s₀ s) : Keeps s₀ (afterExec (execPpsLoss s) s) := by
  unfold execPpsLoss afterExec
  repeat' with_reducible first
    | assumption | apply State.ppsLoss_keeps | dsimp only

theorem execHoldoverExpiry_keeps {s₀ s : State} (h : Keeps s₀ s) : Keeps s₀ (afterExec (execHoldoverExpiry s) s) := by
  unfold execHoldoverExpiry afterExec
  repeat' with_reducible first
    | assumption | apply State.holdoverEnd_keeps | dsimp only

theorem execLeapSecond_keeps {s₀ s : State} (h : Keeps s₀ s) : Keeps s₀ (afterExec (execLeapSecond s) s) := by
  unfold execLeapSecond afterExec
  repeat' with_reducible first
    | assumption | apply Keeps.ite | apply State.leapCellar_keeps | apply State.leap_keeps | dsimp only | split

theorem execAdjWindowEnd_keeps {s₀ s : State} (h : Keeps s₀ s) : Keeps s₀ (afterExec (execAdjWindowEnd s) s) := by
  unfold execAdjWindowEnd afterExec
  repeat' with_reducible first
    | assumption | apply State.adjWindowEnd_keeps | dsimp only

theorem execDisciplineSave_keeps {s₀ s : State} (h : Keeps s₀ s) : Keeps s₀ (afterExec (execDisciplineSave s) s) := by
  unfold execDisciplineSave afterExec
  repeat' with_reducible first
    | assumption | apply State.disciplineSave_keeps | dsimp only

theorem execTimeLatch_keeps {s₀ s : State} (h : Keeps s₀ s) : ∀ a, Keeps s₀ (afterExec (execTimeLatch a s) s) := by
  intro a
  unfold execTimeLatch afterExec
  repeat' with_reducible first
    | assumption | intro _ | apply State.byCore_keeps | apply State.timeLatch_keeps | dsimp only

theorem execTdcCalibration_keeps {s₀ s : State} (h : Keeps s₀ s) : ∀ a, Keeps s₀ (afterExec (execTdcCalibration a s) s) := by
  intro a
  unfold execTdcCalibration afterExec
  repeat' with_reducible first
    | assumption | apply Keeps.ite | apply State.tdcCal_keeps | dsimp only | split

theorem State.pset_keeps {s₀ s : State} (h : Keeps s₀ s) : ∀ a b, Keeps s₀ (State.pset s a b) := by
  intro a b
  unfold State.pset
  repeat' with_reducible first
    | assumption | simp only [Keeps.mk_iff] | dsimp only

theorem State.ifFn_keeps {s₀ s : State} (h : Keeps s₀ s) :
    ∀ a b c, (∀ x0, Keeps s₀ x0 → Keeps s₀ (c x0)) → Keeps s₀ (State.ifFn s a b c) := by
  intro a b c
  intro hf
  unfold State.ifFn
  repeat' with_reducible first
    | assumption | intro _ | apply Keeps.ite | apply_assumption | dsimp only | split

theorem State.srcTrip_keeps {s₀ s : State} (h : Keeps s₀ s) : ∀ a, Keeps s₀ (State.srcTrip s a) := by
  intro a
  unfold State.srcTrip
  repeat' with_reducible first
    | assumption | simp only [Keeps.mk_iff] | dsimp only

theorem State.srcUntrip_keeps {s₀ s : State} (h : Keeps s₀ s) : ∀ a, Keeps s₀ (State.srcUntrip s a) := by
  intro a
  unfold State.srcUntrip
  repeat' with_reducible first
    | assumption | simp only [Keeps.mk_iff] | dsimp only

theorem State.portSettle_keeps {s₀ s : State} (h : Keeps s₀ s) : ∀ a b, Keeps s₀ (State.portSettle s a b) := by
  intro a b
  unfold State.portSettle
  repeat' with_reducible first
    | assumption | apply Keeps.ite | apply State.srcUntrip_keeps | apply State.srcTrip_keeps | apply State.raise_keeps
    | apply State.setb_keeps | dsimp only | split

theorem State.portOffer_keeps {s₀ s : State} (h : Keeps s₀ s) : ∀ a b c d e f, Keeps s₀ (State.portOffer s a b c d e f).2 := by
  intro a b c d e f
  unfold State.portOffer
  repeat' with_reducible first
    | assumption | apply Keeps.ite | apply Keeps.ite_snd | apply State.pushPacket_keeps | apply State.laneFail_keeps
    | dsimp only | apply Keeps.ite_snd3 | apply Keeps.ite_fst | apply Keeps.ite_snd4 | refine Keeps.of_snd (by assumption) ?_
    | refine Keeps.of_snd3 (by assumption) ?_ | refine Keeps.of_snd4 (by assumption) ?_
    | refine Keeps.of_fst (by assumption) ?_ | split

theorem State.portRetryFuel_keeps {s₀ s : State} (h : Keeps s₀ s) : ∀ a b, Keeps s₀ (State.portRetryFuel s a b) := by
  intro a b
  induction b generalizing s a
  all_goals unfold State.portRetryFuel
  repeat' with_reducible first
    | assumption | apply_assumption | apply State.pset_keeps | apply State.portOffer_keeps | dsimp only
    | refine Keeps.of_snd (by assumption) ?_ | refine Keeps.of_snd3 (by assumption) ?_
    | refine Keeps.of_snd4 (by assumption) ?_ | refine Keeps.of_fst (by assumption) ?_ | split

theorem State.portRetry_keeps {s₀ s : State} (h : Keeps s₀ s) : ∀ a, Keeps s₀ (State.portRetry s a) := by
  intro a
  unfold State.portRetry
  repeat' with_reducible first
    | assumption | apply State.portRetryFuel_keeps | dsimp only

theorem State.portSend_keeps {s₀ s : State} (h : Keeps s₀ s) : ∀ a b c, Keeps s₀ (State.portSend s a b c) := by
  intro a b c
  unfold State.portSend
  repeat' with_reducible first
    | assumption | apply Keeps.ite | apply Keeps.ite_snd | apply State.portRetry_keeps | apply State.pset_keeps | dsimp only
    | apply Keeps.ite_snd3 | apply Keeps.ite_fst | apply Keeps.ite_snd4 | refine Keeps.of_snd (by assumption) ?_
    | refine Keeps.of_snd3 (by assumption) ?_ | refine Keeps.of_snd4 (by assumption) ?_
    | refine Keeps.of_fst (by assumption) ?_ | split

theorem State.txTake_keeps {s₀ s t : State} {a : _} {x0 : _} {x1 : _} (h : Keeps s₀ s) (eq : State.txTake s a = some (x0, x1, t)) :
    Keeps s₀ t := by
  unfold State.txTake at eq
  try dsimp only at eq
  repeat' split at eq
  all_goals simp only [Option.some.injEq, Prod.mk.injEq, reduceCtorEq] at eq
  all_goals try obtain ⟨-, -, rfl⟩ := eq
  all_goals try subst eq
  repeat' with_reducible first
    | assumption | apply Keeps.ite | apply Keeps.ite_snd | apply State.passHead_keeps | apply State.pset_keeps
    | apply State.qset_keeps | dsimp only | apply Keeps.ite_snd3 | apply Keeps.ite_fst | apply Keeps.ite_snd4
    | refine Keeps.of_snd (by assumption) ?_ | refine Keeps.of_snd3 (by assumption) ?_
    | refine Keeps.of_snd4 (by assumption) ?_ | refine Keeps.of_fst (by assumption) ?_ | split

theorem State.gpioLevel_keeps {s₀ s : State} (h : Keeps s₀ s) : ∀ a b c, Keeps s₀ (State.gpioLevel s a b c) := by
  intro a b c
  unfold State.gpioLevel
  repeat' with_reducible first
    | assumption | apply Keeps.ite | apply State.pset_keeps | apply State.setb_keeps | dsimp only | split

theorem State.gpioEdge_keeps {s₀ s : State} (h : Keeps s₀ s) : ∀ a b c d, Keeps s₀ (State.gpioEdge s a b c d) := by
  intro a b c d
  unfold State.gpioEdge
  repeat' with_reducible first
    | assumption | intro _ | apply Keeps.ite | apply State.gpioLevel_keeps | apply State.ifFn_keeps | dsimp only | split

theorem State.uartClose_keeps {s₀ s : State} (h : Keeps s₀ s) : ∀ a b c, Keeps s₀ (State.uartClose s a b c) := by
  intro a b c
  unfold State.uartClose
  repeat' with_reducible first
    | assumption | apply Keeps.ite | apply State.portSend_keeps | apply State.pset_keeps | dsimp only | split

theorem State.uartRx_keeps {s₀ s : State} (h : Keeps s₀ s) : ∀ a b c d, Keeps s₀ (State.uartRx s a b c d) := by
  intro a b c d
  unfold State.uartRx
  repeat' with_reducible first
    | assumption | intro _ | apply Keeps.ite | apply State.bump_keeps | apply State.uartClose_keeps
    | apply State.portRetry_keeps | apply State.pset_keeps | apply State.ifFn_keeps | apply Keeps.foldl | dsimp only
    | apply Keeps.foldl_snd | apply Keeps.foldl_snd3 | apply Keeps.foldl_fst | split

theorem State.uartIdle_keeps {s₀ s : State} (h : Keeps s₀ s) : ∀ a b, Keeps s₀ (State.uartIdle s a b) := by
  intro a b
  unfold State.uartIdle
  repeat' with_reducible first
    | assumption | intro _ | apply Keeps.ite | apply State.uartClose_keeps | apply State.portRetry_keeps
    | apply State.ifFn_keeps | dsimp only | split

theorem State.uartTx_keeps {s₀ s : State} (h : Keeps s₀ s) : ∀ a, Keeps s₀ (State.uartTx s a) := by
  intro a
  unfold State.uartTx
  repeat' with_reducible first
    | assumption | intro _ | refine State.txTake_keeps ?_ (by assumption) | apply State.pset_keeps | apply State.ifFn_keeps
    | dsimp only | refine Keeps.of_snd (by assumption) ?_ | refine Keeps.of_snd3 (by assumption) ?_
    | refine Keeps.of_snd4 (by assumption) ?_ | refine Keeps.of_fst (by assumption) ?_ | split

theorem State.spic_keeps {s₀ s : State} (h : Keeps s₀ s) : ∀ a b, Keeps s₀ (State.spic s a b) := by
  intro a b
  unfold State.spic
  repeat' with_reducible first
    | assumption | intro _ | apply Keeps.ite | refine State.txTake_keeps ?_ (by assumption) | apply State.portSend_keeps
    | apply State.portRetry_keeps | apply State.pset_keeps | apply State.ifFn_keeps | dsimp only | split

theorem State.dualAgree_keeps {s₀ s : State} (h : Keeps s₀ s) : ∀ a b c, Keeps s₀ (State.dualAgree s a b c) := by
  intro a b c
  unfold State.dualAgree
  repeat' with_reducible first
    | assumption | apply State.pset_keeps | dsimp only

theorem State.dualFault_keeps {s₀ s : State} (h : Keeps s₀ s) : ∀ a b, Keeps s₀ (State.dualFault s a b) := by
  intro a b
  unfold State.dualFault
  repeat' with_reducible first
    | assumption | intro _ | apply Keeps.ite | apply State.bump_keeps | apply State.portSettle_keeps | apply State.pset_keeps
    | apply State.setb_keeps | apply State.ifFn_keeps | dsimp only | split

theorem State.dualNear_keeps {s₀ s : State} (h : Keeps s₀ s) : ∀ a b c, Keeps s₀ (State.dualNear s a b c) := by
  intro a b c
  unfold State.dualNear
  repeat' with_reducible first
    | assumption | intro _ | apply Keeps.ite | apply State.bump_keeps | apply State.dualAgree_keeps | apply State.ifFn_keeps
    | dsimp only | split

theorem State.discDrop_keeps {s₀ s : State} (h : Keeps s₀ s) : ∀ a, Keeps s₀ (State.discDrop s a) := by
  intro a
  unfold State.discDrop
  repeat' with_reducible first
    | assumption | apply State.portSettle_keeps | apply State.wr_keeps | apply State.pset_keeps | dsimp only

theorem State.discClear_keeps {s₀ s : State} (h : Keeps s₀ s) : ∀ a, Keeps s₀ (State.discClear s a).2 := by
  intro a
  unfold State.discClear
  repeat' with_reducible first
    | assumption | apply Keeps.ite | apply Keeps.ite_snd | apply State.discDrop_keeps | dsimp only | apply Keeps.ite_snd3
    | apply Keeps.ite_fst | apply Keeps.ite_snd4 | refine Keeps.of_snd (by assumption) ?_
    | refine Keeps.of_snd3 (by assumption) ?_ | refine Keeps.of_snd4 (by assumption) ?_
    | refine Keeps.of_fst (by assumption) ?_ | split

theorem State.dualAuto_keeps {s₀ s : State} (h : Keeps s₀ s) : ∀ a b, Keeps s₀ (State.dualAuto s a b) := by
  intro a b
  unfold State.dualAuto
  repeat' with_reducible first
    | assumption | intro _ | apply Keeps.ite | apply State.discDrop_keeps | apply State.dualAgree_keeps
    | apply State.ifFn_keeps | dsimp only | split

theorem State.edgeClose_keeps {s₀ s : State} (h : Keeps s₀ s) : ∀ a b, Keeps s₀ (State.edgeClose s a b) := by
  intro a b
  unfold State.edgeClose
  repeat' with_reducible first
    | assumption | apply Keeps.ite | apply Keeps.ite_snd | apply State.pset_keeps | apply State.addc_keeps
    | apply State.portOffer_keeps | dsimp only | apply Keeps.ite_snd3 | apply Keeps.ite_fst | apply Keeps.ite_snd4
    | refine Keeps.of_snd (by assumption) ?_ | refine Keeps.of_snd3 (by assumption) ?_
    | refine Keeps.of_snd4 (by assumption) ?_ | refine Keeps.of_fst (by assumption) ?_ | split

theorem State.edgeAdd_keeps {s₀ s : State} (h : Keeps s₀ s) : ∀ a b c d e, Keeps s₀ (State.edgeAdd s a b c d e).2 := by
  intro a b c d e
  unfold State.edgeAdd
  repeat' with_reducible first
    | assumption | apply Keeps.ite | apply Keeps.ite_snd | apply State.edgeClose_keeps | apply State.pset_keeps | dsimp only
    | apply Keeps.ite_snd3 | apply Keeps.ite_fst | apply Keeps.ite_snd4 | refine Keeps.of_snd (by assumption) ?_
    | refine Keeps.of_snd3 (by assumption) ?_ | refine Keeps.of_snd4 (by assumption) ?_
    | refine Keeps.of_fst (by assumption) ?_ | split

theorem State.pulseEdge_keeps {s₀ s : State} (h : Keeps s₀ s) : ∀ a b c d e f, Keeps s₀ (State.pulseEdge s a b c d e f) := by
  intro a b c d e f
  unfold State.pulseEdge
  repeat' with_reducible first
    | assumption | intro _ | apply Keeps.ite | apply Keeps.ite_snd | apply State.pset_keeps | apply State.ifFn_keeps
    | apply State.edgeAdd_keeps | dsimp only | apply Keeps.ite_snd3 | apply Keeps.ite_fst | apply Keeps.ite_snd4
    | refine Keeps.of_snd (by assumption) ?_ | refine Keeps.of_snd3 (by assumption) ?_
    | refine Keeps.of_snd4 (by assumption) ?_ | refine Keeps.of_fst (by assumption) ?_ | split

theorem State.ppsEdge_keeps {s₀ s : State} (h : Keeps s₀ s) : ∀ a b c d, Keeps s₀ (State.ppsEdge s a b c d) := by
  intro a b c d
  unfold State.ppsEdge
  repeat' with_reducible first
    | assumption | intro _ | apply Keeps.ite | apply Keeps.ite_snd | apply State.ppsJudge_keeps | apply State.bump_keeps
    | apply State.ppsSet_keeps | apply State.pset_keeps | apply State.ifFn_keeps | apply State.edgeAdd_keeps | dsimp only
    | apply Keeps.ite_snd3 | apply Keeps.ite_fst | apply Keeps.ite_snd4 | refine Keeps.of_snd (by assumption) ?_
    | refine Keeps.of_snd3 (by assumption) ?_ | refine Keeps.of_snd4 (by assumption) ?_
    | refine Keeps.of_fst (by assumption) ?_ | split

theorem State.pulseoutEnd_keeps {s₀ s : State} (h : Keeps s₀ s) : ∀ a, Keeps s₀ (State.pulseoutEnd s a) := by
  intro a
  unfold State.pulseoutEnd
  repeat' with_reducible first
    | assumption | intro _ | apply State.pset_keeps | apply State.ifFn_keeps | dsimp only

theorem State.pulseoutBad_keeps {s₀ s : State} (h : Keeps s₀ s) : ∀ a, Keeps s₀ (State.pulseoutBad s a) := by
  intro a
  unfold State.pulseoutBad
  repeat' with_reducible first
    | assumption | intro _ | apply State.bump_keeps | apply State.setb_keeps | apply State.ifFn_keeps | dsimp only

theorem State.loopNext_keeps {s₀ s : State} (h : Keeps s₀ s) : ∀ a, Keeps s₀ (State.loopNext s a) := by
  intro a
  unfold State.loopNext
  repeat' with_reducible first
    | assumption | apply Keeps.ite | apply State.pset_keeps | dsimp only | split

theorem State.loopCompare_keeps {s₀ s : State} (h : Keeps s₀ s) : ∀ a b, Keeps s₀ (State.loopCompare s a b) := by
  intro a b
  unfold State.loopCompare
  repeat' with_reducible first
    | assumption | intro _ | apply Keeps.ite | apply State.bump_keeps | apply State.portSettle_keeps
    | apply State.loopNext_keeps | apply State.pset_keeps | apply State.ifFn_keeps | dsimp only | split

theorem State.loopSeed_keeps {s₀ s : State} (h : Keeps s₀ s) : ∀ a, Keeps s₀ (State.loopSeed s a) := by
  intro a
  unfold State.loopSeed
  repeat' with_reducible first
    | assumption | apply Keeps.ite | apply Keeps.ite_snd | apply State.drbg_keeps | apply State.pset_keeps | dsimp only
    | apply Keeps.ite_snd3 | apply Keeps.ite_fst | apply Keeps.ite_snd4 | refine Keeps.of_snd (by assumption) ?_
    | refine Keeps.of_snd3 (by assumption) ?_ | refine Keeps.of_snd4 (by assumption) ?_
    | refine Keeps.of_fst (by assumption) ?_ | split

theorem State.switchSee_keeps {s₀ s : State} (h : Keeps s₀ s) : ∀ a b c, Keeps s₀ (State.switchSee s a b c) := by
  intro a b c
  unfold State.switchSee
  repeat' with_reducible first
    | assumption | apply State.pset_keeps | apply State.wrs_keeps | dsimp only | refine Keeps.of_snd (by assumption) ?_
    | refine Keeps.of_snd3 (by assumption) ?_ | refine Keeps.of_snd4 (by assumption) ?_
    | refine Keeps.of_fst (by assumption) ?_

theorem State.switchLevels_keeps {s₀ s : State} (h : Keeps s₀ s) : ∀ a b c, Keeps s₀ (State.switchLevels s a b c) := by
  intro a b c
  unfold State.switchLevels
  repeat' with_reducible first
    | assumption | apply State.switchSee_keeps | apply State.portSettle_keeps | dsimp only

theorem State.switchChange_keeps {s₀ s : State} (h : Keeps s₀ s) : ∀ a b c d, Keeps s₀ (State.switchChange s a b c d) := by
  intro a b c d
  unfold State.switchChange
  repeat' with_reducible first
    | assumption | intro _ | apply Keeps.ite | apply State.switchLevels_keeps | apply State.ifFn_keeps | dsimp only | split

theorem State.levelsGo_keeps {s₀ s : State} (h : Keeps s₀ s) : ∀ a b c d, Keeps s₀ (State.levelsGo s a b c d) := by
  intro a b c d
  unfold State.levelsGo
  repeat' with_reducible first
    | assumption | apply Keeps.ite | apply State.dualAgree_keeps | apply State.gpioLevel_keeps | apply State.pset_keeps
    | apply State.switchLevels_keeps | dsimp only | split

theorem execGpioEdge_keeps {s₀ s : State} (h : Keeps s₀ s) : ∀ a b c, Keeps s₀ (afterExec (execGpioEdge a b c s) s) := by
  intro a b c
  unfold execGpioEdge afterExec
  repeat' with_reducible first
    | assumption | apply State.gpioEdge_keeps | dsimp only

theorem execUartTxPacket_keeps {s₀ s : State} (h : Keeps s₀ s) : ∀ a, Keeps s₀ (afterExec (execUartTxPacket a s) s) := by
  intro a
  unfold execUartTxPacket afterExec
  repeat' with_reducible first
    | assumption | apply State.uartTx_keeps | dsimp only

theorem execUartRxChar_keeps {s₀ s : State} (h : Keeps s₀ s) :
    ∀ a b c, Keeps s₀ (afterExec (execUartRxChar a b c s) s) := by
  intro a b c
  unfold execUartRxChar afterExec
  repeat' with_reducible first
    | assumption | apply State.uartRx_keeps | dsimp only

theorem execUartIdleClose_keeps {s₀ s : State} (h : Keeps s₀ s) : ∀ a, Keeps s₀ (afterExec (execUartIdleClose a s) s) := by
  intro a
  unfold execUartIdleClose afterExec
  repeat' with_reducible first
    | assumption | apply State.uartIdle_keeps | dsimp only

theorem execSpicTransfer_keeps {s₀ s : State} (h : Keeps s₀ s) : ∀ a b, Keeps s₀ (afterExec (execSpicTransfer a b s) s) := by
  intro a b
  unfold execSpicTransfer afterExec
  repeat' with_reducible first
    | assumption | apply State.spic_keeps | dsimp only

theorem execDualDiscrepancy_keeps {s₀ s : State} (h : Keeps s₀ s) :
    ∀ a b, Keeps s₀ (afterExec (execDualDiscrepancy a b s) s) := by
  intro a b
  unfold execDualDiscrepancy afterExec
  repeat' with_reducible first
    | assumption | apply State.dualFault_keeps | dsimp only

theorem execDualNearMiss_keeps {s₀ s : State} (h : Keeps s₀ s) :
    ∀ a b c, Keeps s₀ (afterExec (execDualNearMiss a b c s) s) := by
  intro a b c
  unfold execDualNearMiss afterExec
  repeat' with_reducible first
    | assumption | apply State.dualNear_keeps | dsimp only

theorem execDualAutoclear_keeps {s₀ s : State} (h : Keeps s₀ s) : ∀ a b, Keeps s₀ (afterExec (execDualAutoclear a b s) s) := by
  intro a b
  unfold execDualAutoclear afterExec
  repeat' with_reducible first
    | assumption | apply State.dualAuto_keeps | dsimp only

theorem execDiscClear_keeps {s₀ s : State} (h : Keeps s₀ s) : ∀ a b, Keeps s₀ (afterExec (execDiscClear a b s) s) := by
  intro a b
  unfold execDiscClear afterExec
  repeat' with_reducible first
    | assumption | intro _ | apply State.byCore_keeps | apply State.discClear_keeps | dsimp only
    | refine Keeps.of_snd (by assumption) ?_ | refine Keeps.of_snd3 (by assumption) ?_
    | refine Keeps.of_snd4 (by assumption) ?_ | refine Keeps.of_fst (by assumption) ?_

theorem execPulseEdge_keeps {s₀ s : State} (h : Keeps s₀ s) :
    ∀ a b c d e, Keeps s₀ (afterExec (execPulseEdge a b c d e s) s) := by
  intro a b c d e
  unfold execPulseEdge afterExec
  repeat' with_reducible first
    | assumption | apply State.pulseEdge_keeps | dsimp only

theorem execPpsEdge_keeps {s₀ s : State} (h : Keeps s₀ s) : ∀ a b, Keeps s₀ (afterExec (execPpsEdge a b s) s) := by
  intro a b
  unfold execPpsEdge afterExec
  repeat' with_reducible first
    | assumption | apply State.ppsEdge_keeps | dsimp only

theorem execPulseoutCycleEnd_keeps {s₀ s : State} (h : Keeps s₀ s) :
    ∀ a, Keeps s₀ (afterExec (execPulseoutCycleEnd a s) s) := by
  intro a
  unfold execPulseoutCycleEnd afterExec
  repeat' with_reducible first
    | assumption | apply State.pulseoutEnd_keeps | dsimp only

theorem execPulseoutReadbackMismatch_keeps {s₀ s : State} (h : Keeps s₀ s) :
    ∀ a, Keeps s₀ (afterExec (execPulseoutReadbackMismatch a s) s) := by
  intro a
  unfold execPulseoutReadbackMismatch afterExec
  repeat' with_reducible first
    | assumption | apply State.pulseoutBad_keeps | dsimp only

theorem execLoopReseed_keeps {s₀ s : State} (h : Keeps s₀ s) : ∀ a, Keeps s₀ (afterExec (execLoopReseed a s) s) := by
  intro a
  unfold execLoopReseed afterExec
  repeat' with_reducible first
    | assumption | intro _ | apply State.loopSeed_keeps | apply State.ifFn_keeps | dsimp only

theorem execLoopBitCompare_keeps {s₀ s : State} (h : Keeps s₀ s) :
    ∀ a b, Keeps s₀ (afterExec (execLoopBitCompare a b s) s) := by
  intro a b
  unfold execLoopBitCompare afterExec
  repeat' with_reducible first
    | assumption | apply State.loopCompare_keeps | dsimp only

theorem execSwitchConditionChange_keeps {s₀ s : State} (h : Keeps s₀ s) :
    ∀ a b c, Keeps s₀ (afterExec (execSwitchConditionChange a b c s) s) := by
  intro a b c
  unfold execSwitchConditionChange afterExec
  repeat' with_reducible first
    | assumption | apply State.switchChange_keeps | dsimp only

theorem State.cardTo_keeps {s₀ s : State} (h : Keeps s₀ s) : ∀ a b, Keeps s₀ (State.cardTo s a b) := by
  intro a b
  unfold State.cardTo
  repeat' with_reducible first
    | assumption | apply State.pset_keeps | dsimp only

theorem State.cxEnd_keeps {s₀ s : State} (h : Keeps s₀ s) : ∀ a b c, Keeps s₀ (State.cxEnd s a b c) := by
  intro a b c
  unfold State.cxEnd
  repeat' with_reducible first
    | assumption | apply State.wrs_keeps | dsimp only | refine Keeps.of_snd (by assumption) ?_
    | refine Keeps.of_snd3 (by assumption) ?_ | refine Keeps.of_snd4 (by assumption) ?_
    | refine Keeps.of_fst (by assumption) ?_

theorem State.cardClose_keeps {s₀ s : State} (h : Keeps s₀ s) : ∀ a b, Keeps s₀ (State.cardClose s a b) := by
  intro a b
  unfold State.cardClose
  repeat' with_reducible first
    | assumption | apply State.portSend_keeps | apply State.pset_keeps | dsimp only

theorem State.cardBreak_keeps {s₀ s : State} (h : Keeps s₀ s) : ∀ a b, Keeps s₀ (State.cardBreak s a b) := by
  intro a b
  unfold State.cardBreak
  repeat' with_reducible first
    | assumption | apply State.cxEnd_keeps | apply State.cardClose_keeps | dsimp only | split

theorem State.cxGiveUp_keeps {s₀ s : State} (h : Keeps s₀ s) : ∀ a, Keeps s₀ (State.cxGiveUp s a) := by
  intro a
  unfold State.cxGiveUp
  repeat' with_reducible first
    | assumption | apply Keeps.ite | apply State.cxEnd_keeps | dsimp only | split

theorem State.cardEnd_keeps {s₀ s : State} (h : Keeps s₀ s) : ∀ a b, Keeps s₀ (State.cardEnd s a b) := by
  intro a b
  unfold State.cardEnd
  repeat' with_reducible first
    | assumption | apply Keeps.ite | apply State.cardTo_keeps | apply State.cardBreak_keeps | apply State.wr_keeps
    | apply State.cxGiveUp_keeps | dsimp only | split

theorem State.cardOff_keeps {s₀ s : State} (h : Keeps s₀ s) : ∀ a, Keeps s₀ (State.cardOff s a) := by
  intro a
  unfold State.cardOff
  repeat' with_reducible first
    | assumption | apply State.cardEnd_keeps | dsimp only

theorem State.cardOn_keeps {s₀ s : State} (h : Keeps s₀ s) : ∀ a, Keeps s₀ (State.cardOn s a) := by
  intro a
  unfold State.cardOn
  repeat' with_reducible first
    | assumption | apply Keeps.ite | apply State.cardTo_keeps | apply State.setb_keeps | dsimp only | split

theorem State.cxTry_keeps {s₀ s : State} (h : Keeps s₀ s) : ∀ a, Keeps s₀ (State.cxTry s a) := by
  intro a
  unfold State.cxTry
  repeat' with_reducible first
    | assumption | apply Keeps.ite | apply State.cardOn_keeps | apply State.cxEnd_keeps | apply State.pset_keeps | dsimp only
    | split

theorem State.cxGo_keeps {s₀ s : State} (h : Keeps s₀ s) : ∀ a, Keeps s₀ (State.cxGo s a) := by
  intro a
  unfold State.cxGo
  repeat' with_reducible first
    | assumption | apply Keeps.ite | apply Keeps.ite_snd | apply State.wr_keeps | apply State.cxEnd_keeps
    | apply State.cxTry_keeps | apply State.wrs_keeps | dsimp only | apply Keeps.ite_snd3 | apply Keeps.ite_fst
    | apply Keeps.ite_snd4 | refine Keeps.of_snd (by assumption) ?_ | refine Keeps.of_snd3 (by assumption) ?_
    | refine Keeps.of_snd4 (by assumption) ?_ | refine Keeps.of_fst (by assumption) ?_ | split

theorem State.cardReady_keeps {s₀ s : State} (h : Keeps s₀ s) : ∀ a, Keeps s₀ (State.cardReady s a) := by
  intro a
  unfold State.cardReady
  repeat' with_reducible first
    | assumption | apply State.cardTo_keeps | apply State.cxTry_keeps | dsimp only

theorem State.cardWarm_keeps {s₀ s : State} (h : Keeps s₀ s) : ∀ a, Keeps s₀ (State.cardWarm s a) := by
  intro a
  unfold State.cardWarm
  repeat' with_reducible first
    | assumption | apply Keeps.ite | apply State.cardTo_keeps | apply State.cardBreak_keeps | dsimp only | split

theorem State.cardIn_keeps {s₀ s : State} (h : Keeps s₀ s) : ∀ a b c, Keeps s₀ (State.cardIn s a b c) := by
  intro a b c
  unfold State.cardIn
  repeat' with_reducible first
    | assumption | apply Keeps.ite | apply State.cardOn_keeps | apply State.setb_keeps | dsimp only | split

theorem State.cardOut_keeps {s₀ s : State} (h : Keeps s₀ s) : ∀ a b c, Keeps s₀ (State.cardOut s a b c) := by
  intro a b c
  unfold State.cardOut
  repeat' with_reducible first
    | assumption | apply Keeps.ite | apply State.bump_keeps | apply State.wr_keeps | apply State.cardOff_keeps | dsimp only
    | split

theorem State.cardNoAtr_keeps {s₀ s : State} (h : Keeps s₀ s) : ∀ a, Keeps s₀ (State.cardNoAtr s a) := by
  intro a
  unfold State.cardNoAtr
  repeat' with_reducible first
    | assumption | apply Keeps.ite | apply State.portSend_keeps | apply State.cardOff_keeps | dsimp only | split

theorem State.cardAtr_keeps {s₀ s : State} (h : Keeps s₀ s) : ∀ a b c, Keeps s₀ (State.cardAtr s a b c) := by
  intro a b c
  unfold State.cardAtr
  repeat' with_reducible first
    | assumption | apply Keeps.ite | apply State.portSend_keeps | apply State.cardReady_keeps | apply State.cardNoAtr_keeps
    | apply State.pset_keeps | dsimp only | split

theorem State.cardTx_keeps {s₀ s : State} (h : Keeps s₀ s) : ∀ a, Keeps s₀ (State.cardTx s a) := by
  intro a
  unfold State.cardTx
  repeat' with_reducible first
    | assumption | apply Keeps.ite | apply Keeps.ite_snd | apply State.cardTo_keeps
    | refine State.txTake_keeps ?_ (by assumption) | apply State.portRetry_keeps | dsimp only | apply Keeps.ite_snd3
    | apply Keeps.ite_fst | apply Keeps.ite_snd4 | refine Keeps.of_snd (by assumption) ?_
    | refine Keeps.of_snd3 (by assumption) ?_ | refine Keeps.of_snd4 (by assumption) ?_
    | refine Keeps.of_fst (by assumption) ?_ | split

theorem State.cardChars_keeps {s₀ s : State} (h : Keeps s₀ s) : ∀ a b, Keeps s₀ (State.cardChars s a b) := by
  intro a b
  unfold State.cardChars
  repeat' with_reducible first
    | assumption | intro _ | apply Keeps.ite | apply State.cardClose_keeps | apply State.pset_keeps | apply Keeps.foldl
    | dsimp only | apply Keeps.foldl_snd | apply Keeps.foldl_snd3 | apply Keeps.foldl_fst | split

theorem State.cardReps_keeps {s₀ s : State} (h : Keeps s₀ s) : ∀ a b, Keeps s₀ (State.cardReps s a b) := by
  intro a b
  unfold State.cardReps
  repeat' with_reducible first
    | assumption | intro _ | apply Keeps.ite | apply State.addc_keeps | apply Keeps.foldl | dsimp only | apply Keeps.foldl_snd
    | apply Keeps.foldl_snd3 | apply Keeps.foldl_fst | split

theorem State.cardRun_keeps {s₀ s : State} (h : Keeps s₀ s) : ∀ a b, Keeps s₀ (State.cardRun s a b).2 := by
  intro a b
  unfold State.cardRun
  repeat' with_reducible first
    | assumption | apply Keeps.ite | apply Keeps.ite_snd | apply State.pset_keeps | dsimp only | apply Keeps.ite_snd3
    | apply Keeps.ite_fst | apply Keeps.ite_snd4 | refine Keeps.of_snd (by assumption) ?_
    | refine Keeps.of_snd3 (by assumption) ?_ | refine Keeps.of_snd4 (by assumption) ?_
    | refine Keeps.of_fst (by assumption) ?_ | split

theorem State.cardAnswer_keeps {s₀ s : State} (h : Keeps s₀ s) : ∀ a b c, Keeps s₀ (State.cardAnswer s a b c) := by
  intro a b c
  unfold State.cardAnswer
  repeat' with_reducible first
    | assumption | apply Keeps.ite | apply Keeps.ite_snd | apply State.cardReps_keeps | apply State.portSend_keeps
    | apply State.cardReady_keeps | apply State.cxEnd_keeps | apply State.cardClose_keeps | apply State.cardRun_keeps
    | apply State.cardChars_keeps | dsimp only | apply Keeps.ite_snd3 | apply Keeps.ite_fst | apply Keeps.ite_snd4
    | refine Keeps.of_snd (by assumption) ?_ | refine Keeps.of_snd3 (by assumption) ?_
    | refine Keeps.of_snd4 (by assumption) ?_ | refine Keeps.of_fst (by assumption) ?_ | split

theorem State.cardCwt_keeps {s₀ s : State} (h : Keeps s₀ s) : ∀ a b, Keeps s₀ (State.cardCwt s a b) := by
  intro a b
  unfold State.cardCwt
  repeat' with_reducible first
    | assumption | apply Keeps.ite | apply State.cardReady_keeps | apply State.cardClose_keeps | dsimp only | split

theorem execActivate_keeps {s₀ s : State} (h : Keeps s₀ s) : ∀ a b, Keeps s₀ (afterExec (execActivate a b s) s) := by
  intro a b
  unfold execActivate afterExec
  repeat' with_reducible first
    | assumption | intro _ | apply State.byCore_keeps | apply State.cardOn_keeps | apply State.ifFn_keeps | dsimp only

theorem execDeactivate_keeps {s₀ s : State} (h : Keeps s₀ s) : ∀ a b, Keeps s₀ (afterExec (execDeactivate a b s) s) := by
  intro a b
  unfold execDeactivate afterExec
  repeat' with_reducible first
    | assumption | intro _ | apply State.byCore_keeps | apply State.ifFn_keeps | apply State.cardOff_keeps | dsimp only

theorem execCardWarmReset_keeps {s₀ s : State} (h : Keeps s₀ s) : ∀ a b, Keeps s₀ (afterExec (execCardWarmReset a b s) s) := by
  intro a b
  unfold execCardWarmReset afterExec
  repeat' with_reducible first
    | assumption | intro _ | apply State.byCore_keeps | apply State.ifFn_keeps | apply State.cardWarm_keeps | dsimp only

theorem execCardInsertion_keeps {s₀ s : State} (h : Keeps s₀ s) :
    ∀ a, Keeps s₀ (afterExec (execCardInsertion a s) s) := by
  intro a
  unfold execCardInsertion afterExec
  repeat' with_reducible first
    | assumption | intro _ | apply State.cardIn_keeps | apply State.ifFn_keeps | dsimp only

theorem execCardRemoval_keeps {s₀ s : State} (h : Keeps s₀ s) : ∀ a, Keeps s₀ (afterExec (execCardRemoval a s) s) := by
  intro a
  unfold execCardRemoval afterExec
  repeat' with_reducible first
    | assumption | intro _ | apply State.cardOut_keeps | apply State.ifFn_keeps | dsimp only

theorem execAtrReceived_keeps {s₀ s : State} (h : Keeps s₀ s) : ∀ a b, Keeps s₀ (afterExec (execAtrReceived a b s) s) := by
  intro a b
  unfold execAtrReceived afterExec
  repeat' with_reducible first
    | assumption | intro _ | apply State.cardAtr_keeps | apply State.ifFn_keeps | dsimp only

theorem execAtrTimeout_keeps {s₀ s : State} (h : Keeps s₀ s) : ∀ a, Keeps s₀ (afterExec (execAtrTimeout a s) s) := by
  intro a
  unfold execAtrTimeout afterExec
  repeat' with_reducible first
    | assumption | intro _ | apply State.cardNoAtr_keeps | apply State.ifFn_keeps | dsimp only

theorem execCardTxPacket_keeps {s₀ s : State} (h : Keeps s₀ s) : ∀ a, Keeps s₀ (afterExec (execCardTxPacket a s) s) := by
  intro a
  unfold execCardTxPacket afterExec
  repeat' with_reducible first
    | assumption | intro _ | apply State.ifFn_keeps | apply State.cardTx_keeps | dsimp only

theorem execCardResponse_keeps {s₀ s : State} (h : Keeps s₀ s) :
    ∀ a b c, Keeps s₀ (afterExec (execCardResponse a b c s) s) := by
  intro a b c
  unfold execCardResponse afterExec
  repeat' with_reducible first
    | assumption | intro _ | apply State.cardAnswer_keeps | apply State.ifFn_keeps | dsimp only

theorem execCardCwtExpiry_keeps {s₀ s : State} (h : Keeps s₀ s) : ∀ a, Keeps s₀ (afterExec (execCardCwtExpiry a s) s) := by
  intro a
  unfold execCardCwtExpiry afterExec
  repeat' with_reducible first
    | assumption | intro _ | apply State.cardCwt_keeps | apply State.ifFn_keeps | dsimp only

theorem State.portEnd_keeps {s₀ s : State} (h : Keeps s₀ s) : ∀ a, Keeps s₀ (State.portEnd s a) := by
  intro a
  unfold State.portEnd
  repeat' with_reducible first
    | assumption | apply State.uartClose_keeps | apply State.edgeClose_keeps | apply State.cardEnd_keeps | dsimp only | split

theorem State.portFresh_keeps {s₀ s : State} (h : Keeps s₀ s) : ∀ a b, Keeps s₀ (State.portFresh s a b) := by
  intro a b
  unfold State.portFresh
  repeat' with_reducible first
    | assumption | apply State.pset_keeps | apply State.wrs_keeps | dsimp only | refine Keeps.of_snd (by assumption) ?_
    | refine Keeps.of_snd3 (by assumption) ?_ | refine Keeps.of_snd4 (by assumption) ?_
    | refine Keeps.of_fst (by assumption) ?_

theorem State.portStart_keeps {s₀ s : State} (h : Keeps s₀ s) : ∀ a, Keeps s₀ (State.portStart s a) := by
  intro a
  unfold State.portStart
  repeat' with_reducible first
    | assumption | apply State.switchSee_keeps | apply State.portSettle_keeps | apply State.pset_keeps
    | apply State.loopSeed_keeps | apply State.pulseoutEnd_keeps | dsimp only | refine Keeps.of_snd (by assumption) ?_
    | refine Keeps.of_snd3 (by assumption) ?_ | refine Keeps.of_snd4 (by assumption) ?_
    | refine Keeps.of_fst (by assumption) ?_ | split

theorem State.tdcTake_keeps {s₀ s : State} (h : Keeps s₀ s) : ∀ a, Keeps s₀ (State.tdcTake s a) := by
  intro a
  unfold State.tdcTake
  repeat' with_reducible first
    | assumption | apply State.pset_keeps | dsimp only

theorem State.parTrim_keeps {s₀ s : State} (h : Keeps s₀ s) : ∀ a, Keeps s₀ (State.parTrim s a) := by
  intro a
  unfold State.parTrim
  repeat' with_reducible first
    | assumption | apply State.wrs_keeps | dsimp only | refine Keeps.of_snd (by assumption) ?_
    | refine Keeps.of_snd3 (by assumption) ?_ | refine Keeps.of_snd4 (by assumption) ?_
    | refine Keeps.of_fst (by assumption) ?_

theorem State.portGrant_keeps {s₀ s : State} (h : Keeps s₀ s) : ∀ a b, Keeps s₀ (State.portGrant s a b) := by
  intro a b
  unfold State.portGrant
  repeat' with_reducible first
    | assumption | apply Keeps.ite | apply Keeps.ite_snd | apply State.wr_keeps | apply State.tdcTake_keeps
    | apply State.parTrim_keeps | apply State.portEnd_keeps | apply State.switchLevels_keeps | apply State.portStart_keeps
    | apply State.wrs_keeps | apply State.pulseoutEnd_keeps | apply State.portFresh_keeps | dsimp only | apply Keeps.ite_snd3
    | apply Keeps.ite_fst | apply Keeps.ite_snd4 | refine Keeps.of_snd (by assumption) ?_
    | refine Keeps.of_snd3 (by assumption) ?_ | refine Keeps.of_snd4 (by assumption) ?_
    | refine Keeps.of_fst (by assumption) ?_ | split

theorem State.portRefuse_keeps {s₀ s : State} (h : Keeps s₀ s) : ∀ a b c, Keeps s₀ (State.portRefuse s a b c) := by
  intro a b c
  unfold State.portRefuse
  repeat' with_reducible first
    | assumption | apply State.wr_keeps | apply State.wrs_keeps | dsimp only | refine Keeps.of_snd (by assumption) ?_
    | refine Keeps.of_snd3 (by assumption) ?_ | refine Keeps.of_snd4 (by assumption) ?_
    | refine Keeps.of_fst (by assumption) ?_

theorem State.portJudge_keeps {s₀ s : State} (h : Keeps s₀ s) : ∀ a b, Keeps s₀ (State.portJudge s a b) := by
  intro a b
  unfold State.portJudge
  repeat' with_reducible first
    | assumption | apply Keeps.ite | apply Keeps.ite_snd | apply State.portRefuse_keeps | apply State.portGrant_keeps
    | dsimp only | apply Keeps.ite_snd3 | apply Keeps.ite_fst | apply Keeps.ite_snd4 | refine Keeps.of_snd (by assumption) ?_
    | refine Keeps.of_snd3 (by assumption) ?_ | refine Keeps.of_snd4 (by assumption) ?_
    | refine Keeps.of_fst (by assumption) ?_ | split

theorem State.pulseAdd_keeps {s₀ s : State} (h : Keeps s₀ s) : ∀ a, Keeps s₀ (State.pulseAdd s a) := by
  intro a
  unfold State.pulseAdd
  repeat' with_reducible first
    | assumption | intro _ | apply Keeps.ite | apply Keeps.ite_snd | apply State.ctrInc_keeps | apply State.pset_keeps
    | apply Keeps.foldl | dsimp only | apply Keeps.foldl_snd | apply Keeps.foldl_snd3 | apply Keeps.foldl_fst
    | apply Keeps.ite_snd3 | apply Keeps.ite_fst | apply Keeps.ite_snd4 | refine Keeps.of_snd (by assumption) ?_
    | refine Keeps.of_snd3 (by assumption) ?_ | refine Keeps.of_snd4 (by assumption) ?_
    | refine Keeps.of_fst (by assumption) ?_ | split

theorem State.pulseLatch_keeps {s₀ s : State} (h : Keeps s₀ s) : ∀ a, Keeps s₀ (State.pulseLatch s a) := by
  intro a
  unfold State.pulseLatch
  repeat' with_reducible first
    | assumption | intro _ | apply Keeps.ite | apply Keeps.ite_snd | apply State.bump_keeps | apply State.pset_keeps
    | apply State.ifFn_keeps | apply State.wrs_keeps | dsimp only | apply Keeps.ite_snd3 | apply Keeps.ite_fst
    | apply Keeps.ite_snd4 | refine Keeps.of_snd (by assumption) ?_ | refine Keeps.of_snd3 (by assumption) ?_
    | refine Keeps.of_snd4 (by assumption) ?_ | refine Keeps.of_fst (by assumption) ?_ | split

theorem State.pulsesEnd_keeps {s₀ s : State} (h : Keeps s₀ s) : Keeps s₀ (State.pulsesEnd s) := by
  unfold State.pulsesEnd
  repeat' with_reducible first
    | assumption | intro _ | apply State.pulseLatch_keeps | apply State.pulseAdd_keeps | apply Keeps.foldl | dsimp only
    | apply Keeps.foldl_snd | apply Keeps.foldl_snd3 | apply Keeps.foldl_fst

theorem State.pulseNone_keeps {s₀ s : State} (h : Keeps s₀ s) : ∀ a, Keeps s₀ (State.pulseNone s a) := by
  intro a
  unfold State.pulseNone
  repeat' with_reducible first
    | assumption | apply State.wrs_keeps | dsimp only | refine Keeps.of_snd (by assumption) ?_
    | refine Keeps.of_snd3 (by assumption) ?_ | refine Keeps.of_snd4 (by assumption) ?_
    | refine Keeps.of_fst (by assumption) ?_

theorem State.portLatch_keeps {s₀ s : State} (h : Keeps s₀ s) : ∀ a, Keeps s₀ (State.portLatch s a) := by
  intro a
  unfold State.portLatch
  repeat' with_reducible first
    | assumption | apply State.portRetry_keeps | apply State.edgeClose_keeps | apply State.wrs_keeps
    | apply State.pulseNone_keeps | dsimp only | refine Keeps.of_snd (by assumption) ?_
    | refine Keeps.of_snd3 (by assumption) ?_ | refine Keeps.of_snd4 (by assumption) ?_
    | refine Keeps.of_fst (by assumption) ?_ | split

theorem State.pinsRead_keeps {s₀ s : State} (h : Keeps s₀ s) : ∀ a, Keeps s₀ (State.pinsRead s a) := by
  intro a
  unfold State.pinsRead
  repeat' with_reducible first
    | assumption | intro _ | apply Keeps.ite | apply State.levelsGo_keeps | apply Keeps.foldl | dsimp only
    | apply Keeps.foldl_snd | apply Keeps.foldl_snd3 | apply Keeps.foldl_fst | split

theorem State.portCommit_keeps {s₀ s : State} (h : Keeps s₀ s) : ∀ a b, Keeps s₀ (State.portCommit s a b) := by
  intro a b
  unfold State.portCommit
  repeat' with_reducible first
    | assumption | apply Keeps.ite | apply Keeps.ite_snd | apply State.portJudge_keeps | apply State.wr_keeps
    | apply State.wrs_keeps | dsimp only | apply Keeps.ite_snd3 | apply Keeps.ite_fst | apply Keeps.ite_snd4
    | refine Keeps.of_snd (by assumption) ?_ | refine Keeps.of_snd3 (by assumption) ?_
    | refine Keeps.of_snd4 (by assumption) ?_ | refine Keeps.of_fst (by assumption) ?_ | split

theorem State.cellarPorts_keeps {s₀ s : State} (h : Keeps s₀ s) : Keeps s₀ (State.cellarPorts s) := by
  unfold State.cellarPorts
  repeat' with_reducible first
    | assumption | simp only [Keeps.mk_iff] | apply Keeps.ite | apply Keeps.ite_snd | dsimp only | apply Keeps.ite_snd3
    | apply Keeps.ite_fst | apply Keeps.ite_snd4 | refine Keeps.of_snd (by assumption) ?_
    | refine Keeps.of_snd3 (by assumption) ?_ | refine Keeps.of_snd4 (by assumption) ?_
    | refine Keeps.of_fst (by assumption) ?_ | split

theorem State.armShow_keeps {s₀ s : State} (h : Keeps s₀ s) : ∀ a, Keeps s₀ (State.armShow s a) := by
  intro a
  unfold State.armShow
  repeat' with_reducible first
    | assumption | apply State.wrs_keeps | dsimp only | refine Keeps.of_snd (by assumption) ?_
    | refine Keeps.of_snd3 (by assumption) ?_ | refine Keeps.of_snd4 (by assumption) ?_
    | refine Keeps.of_fst (by assumption) ?_

theorem State.portsLoad_keeps {s₀ s : State} (h : Keeps s₀ s) : Keeps s₀ (State.portsLoad s) := by
  unfold State.portsLoad
  repeat' with_reducible first
    | assumption | intro _ | simp only [Keeps.mk_iff] | apply Keeps.ite | apply State.portJudge_keeps
    | apply State.armShow_keeps | apply Keeps.foldl | dsimp only | apply Keeps.foldl_snd | apply Keeps.foldl_snd3
    | apply Keeps.foldl_fst | split

end Sys2Proof.Machine
end

