-- ==== Sys2Proof/Laws/Keeps5.lean ====
section
/-!
SUPPORT. Keeps5.lean: the operations of Archive.lean, QueueCmds.lean, Images.lean, Hostlink.lean, Relay.lean keep the queue of
commands, the canonical form of the memory and the blown fuses (Laws/Keeps.lean). A lemma of a command's meaning speaks of the
state after it.
-/
namespace Sys2Proof.Machine

theorem State.setArea_keeps {s₀ s : State} (h : Keeps s₀ s) : ∀ a b, Keeps s₀ (State.setArea s a b) := by
  intro a b
  unfold State.setArea
  repeat' with_reducible first
    | assumption | simp only [Keeps.mk_iff] | dsimp only

theorem State.arcEnd_keeps {s₀ s : State} (h : Keeps s₀ s) : ∀ a b, Keeps s₀ (State.arcEnd s a b) := by
  intro a b
  unfold State.arcEnd
  repeat' with_reducible first
    | assumption | apply Keeps.ite | apply Keeps.ite_snd | apply State.wrs_keeps | dsimp only | apply Keeps.ite_snd3
    | apply Keeps.ite_fst | apply Keeps.ite_snd4 | refine Keeps.of_snd (by assumption) ?_
    | refine Keeps.of_snd3 (by assumption) ?_ | refine Keeps.of_snd4 (by assumption) ?_
    | refine Keeps.of_fst (by assumption) ?_ | split

theorem State.arcWait_keeps {s₀ s : State} (h : Keeps s₀ s) : ∀ a, Keeps s₀ (State.arcWait s a) := by
  intro a
  unfold State.arcWait
  repeat' with_reducible first
    | assumption | apply State.wrs_keeps | dsimp only | refine Keeps.of_snd (by assumption) ?_
    | refine Keeps.of_snd3 (by assumption) ?_ | refine Keeps.of_snd4 (by assumption) ?_
    | refine Keeps.of_fst (by assumption) ?_

theorem State.arcCmd_keeps {s₀ s : State} (h : Keeps s₀ s) :
    ∀ a b, (∀ x0, Keeps s₀ x0 → Keeps s₀ (b x0)) → Keeps s₀ (State.arcCmd s a b) := by
  intro a b
  intro hf
  unfold State.arcCmd
  repeat' with_reducible first
    | assumption | intro _ | apply Keeps.ite | apply_assumption | apply State.byCore_keeps | dsimp only | split

theorem State.setTxn_keeps {s₀ s : State} (h : Keeps s₀ s) : ∀ a b, Keeps s₀ (State.setTxn s a b) := by
  intro a b
  unfold State.setTxn
  repeat' with_reducible first
    | assumption | simp only [Keeps.mk_iff] | dsimp only

theorem State.bankKick_keeps {s₀ s : State} (h : Keeps s₀ s) : ∀ a, Keeps s₀ (State.bankKick s a) := by
  intro a
  unfold State.bankKick
  repeat' with_reducible first
    | assumption | simp only [Keeps.mk_iff] | dsimp only | split

theorem State.progAdd_keeps {s₀ s : State} (h : Keeps s₀ s) : ∀ a, Keeps s₀ (State.progAdd s a) := by
  intro a
  unfold State.progAdd
  repeat' with_reducible first
    | assumption | simp only [Keeps.mk_iff] | apply State.bankKick_keeps | dsimp only

theorem State.openGo_keeps {s₀ s : State} (h : Keeps s₀ s) : ∀ a b c, Keeps s₀ (State.openGo s a b c) := by
  intro a b c
  unfold State.openGo
  repeat' with_reducible first
    | assumption | apply State.setTxn_keeps | apply State.progAdd_keeps | apply State.setArea_keeps | dsimp only

theorem State.openBlock_keeps {s₀ s : State} (h : Keeps s₀ s) : ∀ a b c, Keeps s₀ (State.openBlock s a b c) := by
  intro a b c
  unfold State.openBlock
  repeat' with_reducible first
    | assumption | apply Keeps.ite | apply State.setTxn_keeps | apply State.arcEnd_keeps | apply State.openGo_keeps
    | apply State.arcWait_keeps | dsimp only | split

theorem State.arcOpen_keeps {s₀ s : State} (h : Keeps s₀ s) : ∀ a b c d, Keeps s₀ (State.arcOpen s a b c d) := by
  intro a b c d
  unfold State.arcOpen
  repeat' with_reducible first
    | assumption | apply Keeps.ite | apply State.setTxn_keeps | apply State.arcEnd_keeps | apply State.openBlock_keeps
    | dsimp only | split

theorem State.openRetry_keeps {s₀ s : State} (h : Keeps s₀ s) : Keeps s₀ (State.openRetry s) := by
  unfold State.openRetry
  repeat' with_reducible first
    | assumption | intro _ | apply Keeps.ite | apply State.setTxn_keeps | apply State.arcEnd_keeps | apply State.openGo_keeps
    | apply Keeps.foldl | dsimp only | apply Keeps.foldl_snd | apply Keeps.foldl_snd3 | apply Keeps.foldl_fst | split

theorem State.arcCtr_keeps {s₀ s : State} (h : Keeps s₀ s) : ∀ a b c, Keeps s₀ (State.arcCtr s a b c) := by
  intro a b c
  unfold State.arcCtr
  repeat' with_reducible first
    | assumption | apply Keeps.ite | apply State.setTxn_keeps | apply State.arcEnd_keeps | dsimp only | split

theorem State.arcAbort_keeps {s₀ s : State} (h : Keeps s₀ s) : ∀ a b, Keeps s₀ (State.arcAbort s a b) := by
  intro a b
  unfold State.arcAbort
  repeat' with_reducible first
    | assumption | apply Keeps.ite | apply State.setTxn_keeps | apply State.arcEnd_keeps | dsimp only | split

theorem State.journalPut_keeps {s₀ s : State} (h : Keeps s₀ s) : ∀ a, Keeps s₀ (State.journalPut s a) := by
  intro a
  unfold State.journalPut
  repeat' with_reducible first
    | assumption | simp only [Keeps.mk_iff] | dsimp only

theorem State.ctrApply_keeps {s₀ s : State} (h : Keeps s₀ s) : ∀ a, Keeps s₀ (State.ctrApply s a) := by
  intro a
  unfold State.ctrApply
  repeat' with_reducible first
    | assumption | intro _ | apply Keeps.ite | apply State.ctrWrite_keeps | apply Keeps.foldl | dsimp only
    | apply Keeps.foldl_snd | apply Keeps.foldl_snd3 | apply Keeps.foldl_fst | split

theorem State.ptrApply_keeps {s₀ s : State} (h : Keeps s₀ s) : ∀ a, Keeps s₀ (State.ptrApply s a) := by
  intro a
  unfold State.ptrApply
  repeat' with_reducible first
    | assumption | intro _ | simp only [Keeps.mk_iff] | apply State.setArea_keeps | apply Keeps.foldl | dsimp only
    | apply Keeps.foldl_snd | apply Keeps.foldl_snd3 | apply Keeps.foldl_fst | split

theorem State.internalCommit_keeps {s₀ s : State} (h : Keeps s₀ s) : ∀ a b, Keeps s₀ (State.internalCommit s a b) := by
  intro a b
  unfold State.internalCommit
  repeat' with_reducible first
    | assumption | apply State.ptrApply_keeps | apply State.ctrApply_keeps | apply State.journalPut_keeps | dsimp only

theorem State.headMove_keeps {s₀ s : State} (h : Keeps s₀ s) : ∀ a b, Keeps s₀ (State.headMove s a b) := by
  intro a b
  unfold State.headMove
  repeat' with_reducible first
    | assumption | apply State.ptrApply_keeps | apply State.journalPut_keeps | dsimp only

theorem State.commitDone_keeps {s₀ s : State} (h : Keeps s₀ s) : ∀ a b c, Keeps s₀ (State.commitDone s a b c) := by
  intro a b c
  unfold State.commitDone
  repeat' with_reducible first
    | assumption | apply State.ptrApply_keeps | apply State.setTxn_keeps | apply State.arcEnd_keeps | dsimp only

theorem State.commitNow_keeps {s₀ s : State} (h : Keeps s₀ s) : ∀ a b c, Keeps s₀ (State.commitNow s a b c) := by
  intro a b c
  unfold State.commitNow
  repeat' with_reducible first
    | assumption | apply Keeps.ite | apply State.setTxn_keeps | apply State.progAdd_keeps | apply State.commitDone_keeps
    | apply State.ctrApply_keeps | apply State.arcWait_keeps | apply State.journalPut_keeps | dsimp only | split

theorem State.arcCommit_keeps {s₀ s : State} (h : Keeps s₀ s) : ∀ a b, Keeps s₀ (State.arcCommit s a b) := by
  intro a b
  unfold State.arcCommit
  repeat' with_reducible first
    | assumption | simp only [Keeps.mk_iff] | apply Keeps.ite | apply Keeps.ite_snd | apply State.setTxn_keeps
    | apply State.arcEnd_keeps | apply State.arcWait_keeps | apply State.commitNow_keeps | dsimp only | apply Keeps.ite_snd3
    | apply Keeps.ite_fst | apply Keeps.ite_snd4 | refine Keeps.of_snd (by assumption) ?_
    | refine Keeps.of_snd3 (by assumption) ?_ | refine Keeps.of_snd4 (by assumption) ?_
    | refine Keeps.of_fst (by assumption) ?_ | split

theorem State.arcTrim_keeps {s₀ s : State} (h : Keeps s₀ s) : ∀ a b, Keeps s₀ (State.arcTrim s a b) := by
  intro a b
  unfold State.arcTrim
  repeat' with_reducible first
    | assumption | simp only [Keeps.mk_iff] | apply Keeps.ite | apply Keeps.ite_snd | apply State.headMove_keeps
    | apply State.arcEnd_keeps | apply State.arcWait_keeps | dsimp only | apply Keeps.ite_snd3 | apply Keeps.ite_fst
    | apply Keeps.ite_snd4 | refine Keeps.of_snd (by assumption) ?_ | refine Keeps.of_snd3 (by assumption) ?_
    | refine Keeps.of_snd4 (by assumption) ?_ | refine Keeps.of_fst (by assumption) ?_ | split

theorem State.progFin_keeps {s₀ s : State} (h : Keeps s₀ s) : ∀ a, Keeps s₀ (State.progFin s a) := by
  intro a
  unfold State.progFin
  repeat' with_reducible first
    | assumption | simp only [Keeps.mk_iff] | apply Keeps.ite | apply State.arcEnd_keeps | apply State.commitDone_keeps
    | apply State.setArea_keeps | dsimp only | split

theorem State.commitsGo_keeps {s₀ s : State} (h : Keeps s₀ s) : Keeps s₀ (State.commitsGo s) := by
  unfold State.commitsGo
  repeat' with_reducible first
    | assumption | intro _ | simp only [Keeps.mk_iff] | apply Keeps.ite | apply State.commitNow_keeps | apply Keeps.foldl
    | dsimp only | apply Keeps.foldl_snd | apply Keeps.foldl_snd3 | apply Keeps.foldl_fst | split

theorem State.progDone_keeps {s₀ s : State} (h : Keeps s₀ s) : ∀ a, Keeps s₀ (State.progDone s a) := by
  intro a
  unfold State.progDone
  repeat' with_reducible first
    | assumption | simp only [Keeps.mk_iff] | apply State.bankKick_keeps | apply State.commitsGo_keeps
    | apply State.openRetry_keeps | apply State.arcPut_keeps | apply State.progFin_keeps | dsimp only | split

theorem State.eraseAhead_keeps {s₀ s : State} (h : Keeps s₀ s) : ∀ a, Keeps s₀ (State.eraseAhead s a) := by
  intro a
  unfold State.eraseAhead
  repeat' with_reducible first
    | assumption | simp only [Keeps.mk_iff] | apply Keeps.ite | apply State.headMove_keeps | dsimp only | split

theorem State.wearUp_keeps {s₀ s : State} (h : Keeps s₀ s) : ∀ a, Keeps s₀ (State.wearUp s a) := by
  intro a
  unfold State.wearUp
  repeat' with_reducible first
    | assumption | simp only [Keeps.mk_iff] | apply Keeps.ite | apply State.attic_keeps | apply State.bump_keeps | dsimp only
    | split

theorem State.eraseDone_keeps {s₀ s : State} (h : Keeps s₀ s) : ∀ a, Keeps s₀ (State.eraseDone s a) := by
  intro a
  unfold State.eraseDone
  repeat' with_reducible first
    | assumption | simp only [Keeps.mk_iff] | apply State.bankKick_keeps | apply State.wearUp_keeps
    | apply State.openRetry_keeps | apply State.arcErase_keeps | dsimp only | split

theorem State.eraseResume_keeps {s₀ s : State} (h : Keeps s₀ s) : ∀ a, Keeps s₀ (State.eraseResume s a) := by
  intro a
  unfold State.eraseResume
  repeat' with_reducible first
    | assumption | simp only [Keeps.mk_iff] | dsimp only | split

theorem State.eraseSuspend_keeps {s₀ s : State} (h : Keeps s₀ s) : ∀ a, Keeps s₀ (State.eraseSuspend s a) := by
  intro a
  unfold State.eraseSuspend
  repeat' with_reducible first
    | assumption | simp only [Keeps.mk_iff] | apply Keeps.ite | apply State.bump_keeps | dsimp only | split

theorem State.shadowWrite_keeps {s₀ s t : State} {a : _} (h : Keeps s₀ s) (eq : State.shadowWrite s a = some t) :
    Keeps s₀ t := by
  unfold State.shadowWrite at eq
  try dsimp only at eq
  repeat' split at eq
  all_goals simp only [Option.some.injEq, reduceCtorEq] at eq
  all_goals try subst eq
  repeat' with_reducible first
    | assumption | simp only [Keeps.mk_iff] | apply State.internalCommit_keeps | dsimp only
    | refine Keeps.of_snd (by assumption) ?_ | refine Keeps.of_snd3 (by assumption) ?_
    | refine Keeps.of_snd4 (by assumption) ?_ | refine Keeps.of_fst (by assumption) ?_ | split

theorem State.shadowCommit_keeps {s₀ s : State} (h : Keeps s₀ s) : Keeps s₀ (State.shadowCommit s) := by
  unfold State.shadowCommit
  repeat' with_reducible first
    | assumption | simp only [Keeps.mk_iff] | apply Keeps.ite | refine State.shadowWrite_keeps ?_ (by assumption)
    | apply State.vJobEnd_keeps | dsimp only | split

theorem State.trimsGo_keeps {s₀ s : State} (h : Keeps s₀ s) : Keeps s₀ (State.trimsGo s) := by
  unfold State.trimsGo
  repeat' with_reducible first
    | assumption | intro _ | simp only [Keeps.mk_iff] | apply State.headMove_keeps | apply State.arcEnd_keeps
    | apply Keeps.foldl | dsimp only | apply Keeps.foldl_snd | apply Keeps.foldl_snd3 | apply Keeps.foldl_fst

theorem State.incsGo_keeps {s₀ s : State} (h : Keeps s₀ s) : Keeps s₀ (State.incsGo s) := by
  unfold State.incsGo
  repeat' with_reducible first
    | assumption | intro _ | simp only [Keeps.mk_iff] | apply State.ctrInc_keeps | apply Keeps.foldl | dsimp only
    | apply Keeps.foldl_snd | apply Keeps.foldl_snd3 | apply Keeps.foldl_fst | refine Keeps.of_snd (by assumption) ?_
    | refine Keeps.of_snd3 (by assumption) ?_ | refine Keeps.of_snd4 (by assumption) ?_
    | refine Keeps.of_fst (by assumption) ?_

theorem State.savesGo_keeps {s₀ s : State} (h : Keeps s₀ s) : Keeps s₀ (State.savesGo s) := by
  unfold State.savesGo
  repeat' with_reducible first
    | assumption | intro _ | simp only [Keeps.mk_iff] | apply State.paramWrite_keeps | apply Keeps.foldl | dsimp only
    | apply Keeps.foldl_snd | apply Keeps.foldl_snd3 | apply Keeps.foldl_fst

theorem State.laterGo_keeps {s₀ s : State} (h : Keeps s₀ s) : Keeps s₀ (State.laterGo s) := by
  unfold State.laterGo
  repeat' with_reducible first
    | assumption | intro _ | simp only [Keeps.mk_iff] | apply State.progFin_keeps | apply Keeps.foldl | dsimp only
    | apply Keeps.foldl_snd | apply Keeps.foldl_snd3 | apply Keeps.foldl_fst

theorem State.switchNow_keeps {s₀ s : State} (h : Keeps s₀ s) : ∀ a b, Keeps s₀ (State.switchNow s a b) := by
  intro a b
  unfold State.switchNow
  repeat' with_reducible first
    | assumption | simp only [Keeps.mk_iff] | apply State.internalCommit_keeps | dsimp only

theorem State.switchesGo_keeps {s₀ s : State} (h : Keeps s₀ s) : Keeps s₀ (State.switchesGo s) := by
  unfold State.switchesGo
  repeat' with_reducible first
    | assumption | intro _ | simp only [Keeps.mk_iff] | apply State.switchNow_keeps | apply Keeps.foldl | dsimp only
    | apply Keeps.foldl_snd | apply Keeps.foldl_snd3 | apply Keeps.foldl_fst

theorem State.holdoffEnd_keeps {s₀ s : State} (h : Keeps s₀ s) : Keeps s₀ (State.holdoffEnd s) := by
  unfold State.holdoffEnd
  repeat' with_reducible first
    | assumption | simp only [Keeps.mk_iff] | apply Keeps.ite | apply Keeps.ite_snd | apply State.laterGo_keeps
    | apply State.savesGo_keeps | apply State.strHeldFlush_keeps | apply State.commitsGo_keeps | apply State.switchesGo_keeps
    | apply State.incsGo_keeps | apply State.trimsGo_keeps | apply State.wrs_keeps | dsimp only | apply Keeps.ite_snd3
    | apply Keeps.ite_fst | apply Keeps.ite_snd4 | refine Keeps.of_snd (by assumption) ?_
    | refine Keeps.of_snd3 (by assumption) ?_ | refine Keeps.of_snd4 (by assumption) ?_
    | refine Keeps.of_fst (by assumption) ?_ | split

theorem State.areaJudge_keeps {s₀ s : State} (h : Keeps s₀ s) : ∀ a b, Keeps s₀ (State.areaJudge a s b) := by
  intro a b
  unfold State.areaJudge
  repeat' with_reducible first
    | assumption | apply Keeps.ite | apply Keeps.ite_snd | apply State.setb_keeps | apply State.setArea_keeps
    | apply State.wrs_keeps | dsimp only | apply Keeps.ite_snd3 | apply Keeps.ite_fst | apply Keeps.ite_snd4
    | refine Keeps.of_snd (by assumption) ?_ | refine Keeps.of_snd3 (by assumption) ?_
    | refine Keeps.of_snd4 (by assumption) ?_ | refine Keeps.of_fst (by assumption) ?_ | split

theorem State.replayRec_keeps {s₀ s : State} (h : Keeps s₀ s) : ∀ a, Keeps s₀ (State.replayRec s a) := by
  intro a
  unfold State.replayRec
  repeat' with_reducible first
    | assumption | apply Keeps.ite | apply State.ptrApply_keeps | apply State.ctrApply_keeps | apply State.arcPut_keeps
    | dsimp only | split

theorem State.journalReplay_keeps {s₀ s : State} (h : Keeps s₀ s) : ∀ a, Keeps s₀ (State.journalReplay s a) := by
  intro a
  unfold State.journalReplay
  repeat' with_reducible first
    | assumption | intro _ | simp only [Keeps.mk_iff] | apply Keeps.ite | apply State.replayRec_keeps
    | apply State.setArea_keeps | apply Keeps.foldl | dsimp only | apply Keeps.foldl_snd | apply Keeps.foldl_snd3
    | apply Keeps.foldl_fst | split

theorem State.riseCounters_keeps {s₀ s : State} (h : Keeps s₀ s) : Keeps s₀ (State.riseCounters s) := by
  unfold State.riseCounters
  repeat' with_reducible first
    | assumption | intro _ | simp only [Keeps.mk_iff] | apply Keeps.ite | apply Keeps.ite_snd | apply State.ctrInc_keeps
    | apply Keeps.foldl | dsimp only | apply Keeps.foldl_snd | apply Keeps.foldl_snd3 | apply Keeps.foldl_fst
    | apply Keeps.ite_snd3 | apply Keeps.ite_fst | apply Keeps.ite_snd4 | refine Keeps.of_snd (by assumption) ?_
    | refine Keeps.of_snd3 (by assumption) ?_ | refine Keeps.of_snd4 (by assumption) ?_
    | refine Keeps.of_fst (by assumption) ?_ | split

theorem execArcOpen_keeps {s₀ s : State} (h : Keeps s₀ s) : ∀ a b c d, Keeps s₀ (afterExec (execArcOpen a b c d s) s) := by
  intro a b c d
  unfold execArcOpen afterExec
  repeat' with_reducible first
    | assumption | intro _ | apply State.arcOpen_keeps | apply State.arcCmd_keeps | dsimp only

theorem execArcCtr_keeps {s₀ s : State} (h : Keeps s₀ s) : ∀ a b c, Keeps s₀ (afterExec (execArcCtr a b c s) s) := by
  intro a b c
  unfold execArcCtr afterExec
  repeat' with_reducible first
    | assumption | intro _ | apply State.arcCtr_keeps | apply State.arcCmd_keeps | dsimp only

theorem execArcCommit_keeps {s₀ s : State} (h : Keeps s₀ s) : ∀ a b, Keeps s₀ (afterExec (execArcCommit a b s) s) := by
  intro a b
  unfold execArcCommit afterExec
  repeat' with_reducible first
    | assumption | intro _ | apply State.arcCommit_keeps | apply State.arcCmd_keeps | dsimp only

theorem execArcAbort_keeps {s₀ s : State} (h : Keeps s₀ s) : ∀ a b, Keeps s₀ (afterExec (execArcAbort a b s) s) := by
  intro a b
  unfold execArcAbort afterExec
  repeat' with_reducible first
    | assumption | intro _ | apply State.arcAbort_keeps | apply State.arcCmd_keeps | dsimp only

theorem execArcTrim_keeps {s₀ s : State} (h : Keeps s₀ s) : ∀ a b, Keeps s₀ (afterExec (execArcTrim a b s) s) := by
  intro a b
  unfold execArcTrim afterExec
  repeat' with_reducible first
    | assumption | intro _ | apply State.arcTrim_keeps | apply State.arcCmd_keeps | dsimp only

theorem execEraseAhead_keeps {s₀ s : State} (h : Keeps s₀ s) : ∀ a, Keeps s₀ (afterExec (execEraseAhead a s) s) := by
  intro a
  unfold execEraseAhead afterExec
  repeat' with_reducible first
    | assumption | apply Keeps.ite | apply State.eraseAhead_keeps | apply State.openRetry_keeps | dsimp only | split

theorem execSectorEraseComplete_keeps {s₀ s : State} (h : Keeps s₀ s) :
    ∀ a, Keeps s₀ (afterExec (execSectorEraseComplete a s) s) := by
  intro a
  unfold execSectorEraseComplete afterExec
  repeat' with_reducible first
    | assumption | apply State.eraseDone_keeps | dsimp only

theorem execProgramUnitComplete_keeps {s₀ s : State} (h : Keeps s₀ s) :
    ∀ a, Keeps s₀ (afterExec (execProgramUnitComplete a s) s) := by
  intro a
  unfold execProgramUnitComplete afterExec
  repeat' with_reducible first
    | assumption | apply State.progDone_keeps | dsimp only

theorem execEraseResume_keeps {s₀ s : State} (h : Keeps s₀ s) : ∀ a, Keeps s₀ (afterExec (execEraseResume a s) s) := by
  intro a
  unfold execEraseResume afterExec
  repeat' with_reducible first
    | assumption | apply State.eraseResume_keeps | dsimp only

theorem execShadowUpdateCommit_keeps {s₀ s : State} (h : Keeps s₀ s) : Keeps s₀ (afterExec (execShadowUpdateCommit s) s) := by
  unfold execShadowUpdateCommit afterExec
  repeat' with_reducible first
    | assumption | apply State.vNext_keeps | apply State.shadowCommit_keeps | dsimp only

theorem execHoldoffEnd_keeps {s₀ s : State} (h : Keeps s₀ s) : Keeps s₀ (afterExec (execHoldoffEnd s) s) := by
  unfold execHoldoffEnd afterExec
  repeat' with_reducible first
    | assumption | apply State.holdoffEnd_keeps | dsimp only

theorem State.qForeign_keeps {s₀ s : State} (h : Keeps s₀ s) : ∀ a, Keeps s₀ (State.qForeign s a) := by
  intro a
  unfold State.qForeign
  repeat' with_reducible first
    | assumption | apply State.qerr_keeps | apply State.misuse_keeps | dsimp only

theorem State.qAs_keeps {s₀ s : State} (h : Keeps s₀ s) :
    ∀ a b c, (∀ x0, Keeps s₀ x0 → Keeps s₀ (c x0)) → Keeps s₀ (State.qAs s a b c) := by
  intro a b c
  intro hf
  unfold State.qAs
  repeat' with_reducible first
    | assumption | intro _ | apply Keeps.ite | apply_assumption | apply State.qForeign_keeps | dsimp only | split

theorem State.asConsumer_keeps {s₀ s : State} (h : Keeps s₀ s) :
    ∀ a b c, (∀ x0, Keeps s₀ x0 → Keeps s₀ (c x0)) → Keeps s₀ (State.asConsumer s a b c) := by
  intro a b c
  intro hf
  unfold State.asConsumer
  repeat' with_reducible first
    | assumption | intro _ | apply_assumption | apply State.byCore_keeps | apply State.qAs_keeps | dsimp only

theorem State.qPop_keeps {s₀ s : State} (h : Keeps s₀ s) : ∀ a b, Keeps s₀ (State.qPop s a b) := by
  intro a b
  unfold State.qPop
  repeat' with_reducible first
    | assumption | apply Keeps.ite | apply Keeps.ite_snd | apply State.popWord_keeps | apply State.qForeign_keeps
    | apply State.loaded_keeps | dsimp only | apply Keeps.ite_snd3 | apply Keeps.ite_fst | apply Keeps.ite_snd4
    | refine Keeps.of_snd (by assumption) ?_ | refine Keeps.of_snd3 (by assumption) ?_
    | refine Keeps.of_snd4 (by assumption) ?_ | refine Keeps.of_fst (by assumption) ?_ | split

theorem State.qMark_keeps {s₀ s : State} (h : Keeps s₀ s) : ∀ a, Keeps s₀ (State.qMark s a) := by
  intro a
  unfold State.qMark
  repeat' with_reducible first
    | assumption | apply Keeps.ite | apply State.qset_keeps | dsimp only | split

theorem State.qRewind_keeps {s₀ s : State} (h : Keeps s₀ s) : ∀ a, Keeps s₀ (State.qRewind s a) := by
  intro a
  unfold State.qRewind
  repeat' with_reducible first
    | assumption | apply Keeps.ite | apply State.qerr_keeps | apply State.qset_keeps | dsimp only | split

theorem State.qRelease_keeps {s₀ s : State} (h : Keeps s₀ s) : ∀ a, Keeps s₀ (State.qRelease s a) := by
  intro a
  unfold State.qRelease
  repeat' with_reducible first
    | assumption | apply Keeps.ite | apply State.qerr_keeps | apply State.qset_keeps | apply State.misuse_keeps | dsimp only
    | split

theorem State.qFlush_keeps {s₀ s : State} (h : Keeps s₀ s) : ∀ a b, Keeps s₀ (State.qFlush s a b) := by
  intro a b
  unfold State.qFlush
  repeat' with_reducible first
    | assumption | apply Keeps.ite | apply State.flushQueue_keeps | apply State.qForeign_keeps | dsimp only | split

theorem State.qPush_keeps {s₀ s : State} (h : Keeps s₀ s) : ∀ a b c, Keeps s₀ (State.qPush s a b c) := by
  intro a b c
  unfold State.qPush
  repeat' with_reducible first
    | assumption | apply Keeps.ite | apply Keeps.ite_snd | apply State.qForeign_keeps | apply State.pushWord_keeps
    | dsimp only | apply Keeps.ite_snd3 | apply Keeps.ite_fst | apply Keeps.ite_snd4 | refine Keeps.of_snd (by assumption) ?_
    | refine Keeps.of_snd3 (by assumption) ?_ | refine Keeps.of_snd4 (by assumption) ?_
    | refine Keeps.of_fst (by assumption) ?_ | split

theorem State.qCmdBy_keeps {s₀ s : State} (h : Keeps s₀ s) : ∀ a b c, Keeps s₀ (State.qCmdBy s a b c) := by
  intro a b c
  unfold State.qCmdBy
  repeat' with_reducible first
    | assumption | intro _ | apply State.qRelease_keeps | apply State.qMark_keeps | apply State.qRewind_keeps
    | apply State.qFlush_keeps | apply State.qAs_keeps | dsimp only | split

theorem State.flushForce_keeps {s₀ s : State} (h : Keeps s₀ s) : ∀ a, Keeps s₀ (State.flushForce s a) := by
  intro a
  unfold State.flushForce
  repeat' with_reducible first
    | assumption | apply Keeps.ite | apply State.qset_keeps | apply State.qlost_keeps | dsimp only | split

theorem State.flushEdges_keeps {s₀ s : State} (h : Keeps s₀ s) : Keeps s₀ (State.flushEdges s) := by
  unfold State.flushEdges
  repeat' with_reducible first
    | assumption | simp only [Keeps.mk_iff] | dsimp only

theorem execQueuePush_keeps {s₀ s : State} (h : Keeps s₀ s) : ∀ a b c, Keeps s₀ (afterExec (execQueuePush a b c s) s) := by
  intro a b c
  unfold execQueuePush afterExec
  repeat' with_reducible first
    | assumption | intro _ | apply State.byCore_keeps | apply State.qPush_keeps | dsimp only

theorem execQueuePop_keeps {s₀ s : State} (h : Keeps s₀ s) : ∀ a b, Keeps s₀ (afterExec (execQueuePop a b s) s) := by
  intro a b
  unfold execQueuePop afterExec
  repeat' with_reducible first
    | assumption | intro _ | apply State.byCore_keeps | apply State.qPop_keeps | dsimp only

theorem execMark_keeps {s₀ s : State} (h : Keeps s₀ s) : ∀ a b, Keeps s₀ (afterExec (execMark a b s) s) := by
  intro a b
  unfold execMark afterExec
  repeat' with_reducible first
    | assumption | intro _ | apply State.qMark_keeps | apply State.asConsumer_keeps | dsimp only

theorem execRewind_keeps {s₀ s : State} (h : Keeps s₀ s) : ∀ a b, Keeps s₀ (afterExec (execRewind a b s) s) := by
  intro a b
  unfold execRewind afterExec
  repeat' with_reducible first
    | assumption | intro _ | apply State.qRewind_keeps | apply State.asConsumer_keeps | dsimp only

theorem execRelease_keeps {s₀ s : State} (h : Keeps s₀ s) : ∀ a b, Keeps s₀ (afterExec (execRelease a b s) s) := by
  intro a b
  unfold execRelease afterExec
  repeat' with_reducible first
    | assumption | intro _ | apply State.qRelease_keeps | apply State.asConsumer_keeps | dsimp only

theorem execFlush_keeps {s₀ s : State} (h : Keeps s₀ s) : ∀ a b, Keeps s₀ (afterExec (execFlush a b s) s) := by
  intro a b
  unfold execFlush afterExec
  repeat' with_reducible first
    | assumption | intro _ | apply State.byCore_keeps | apply State.qFlush_keeps | dsimp only

theorem execFlushLimitExpiry_keeps {s₀ s : State} (h : Keeps s₀ s) :
    ∀ a, Keeps s₀ (afterExec (execFlushLimitExpiry a s) s) := by
  intro a
  unfold execFlushLimitExpiry afterExec
  repeat' with_reducible first
    | assumption | apply State.flushForce_keeps | dsimp only

theorem State.setImg_keeps {s₀ s : State} (h : Keeps s₀ s) : ∀ a b c, Keeps s₀ (State.setImg s a b c) := by
  intro a b c
  unfold State.setImg
  repeat' with_reducible first
    | assumption | simp only [Keeps.mk_iff] | dsimp only

theorem State.imgWipe_keeps {s₀ s : State} (h : Keeps s₀ s) : ∀ a b, Keeps s₀ (State.imgWipe s a b) := by
  intro a b
  unfold State.imgWipe
  repeat' with_reducible first
    | assumption | apply State.setImg_keeps | apply State.linesDrop_keeps | apply State.memClear_keeps | dsimp only

theorem State.imgKey_keeps {s₀ s : State} (h : Keeps s₀ s) : ∀ a b c, Keeps s₀ (State.imgKey s a b c).2.2 := by
  intro a b c
  unfold State.imgKey
  repeat' with_reducible first
    | assumption | apply Keeps.ite | apply Keeps.ite_snd | apply State.vLookup_keeps | dsimp only | apply Keeps.ite_snd3
    | apply Keeps.ite_fst | apply Keeps.ite_snd4 | refine Keeps.of_snd (by assumption) ?_
    | refine Keeps.of_snd3 (by assumption) ?_ | refine Keeps.of_snd4 (by assumption) ?_
    | refine Keeps.of_fst (by assumption) ?_ | split

theorem State.imgVerify_keeps {s₀ s : State} (h : Keeps s₀ s) : ∀ a b c, Keeps s₀ (State.imgVerify s a b c).2.2.2 := by
  intro a b c
  unfold State.imgVerify
  repeat' with_reducible first
    | assumption | apply Keeps.ite | apply Keeps.ite_snd | apply State.imgKey_keeps | dsimp only | apply Keeps.ite_snd3
    | apply Keeps.ite_fst | apply Keeps.ite_snd4 | refine Keeps.of_snd (by assumption) ?_
    | refine Keeps.of_snd3 (by assumption) ?_ | refine Keeps.of_snd4 (by assumption) ?_
    | refine Keeps.of_fst (by assumption) ?_ | split

theorem State.loadBegin_keeps {s₀ s : State} (h : Keeps s₀ s) : ∀ a b c d, Keeps s₀ (State.loadBegin s a b c d).2 := by
  intro a b c d
  unfold State.loadBegin
  repeat' with_reducible first
    | assumption | simp only [Keeps.mk_iff] | apply Keeps.ite | apply Keeps.ite_snd | apply State.imgWipe_keeps
    | apply State.imageRec_keeps | dsimp only | apply Keeps.ite_snd3 | apply Keeps.ite_fst | apply Keeps.ite_snd4
    | refine Keeps.of_snd (by assumption) ?_ | refine Keeps.of_snd3 (by assumption) ?_
    | refine Keeps.of_snd4 (by assumption) ?_ | refine Keeps.of_fst (by assumption) ?_ | split

theorem State.loadData_keeps {s₀ s : State} (h : Keeps s₀ s) : ∀ a b c, Keeps s₀ (State.loadData s a b c).2 := by
  intro a b c
  unfold State.loadData
  repeat' with_reducible first
    | assumption | simp only [Keeps.mk_iff] | apply Keeps.ite | apply Keeps.ite_snd | apply State.arcPut_keeps | dsimp only
    | apply Keeps.ite_snd3 | apply Keeps.ite_fst | apply Keeps.ite_snd4 | refine Keeps.of_snd (by assumption) ?_
    | refine Keeps.of_snd3 (by assumption) ?_ | refine Keeps.of_snd4 (by assumption) ?_
    | refine Keeps.of_fst (by assumption) ?_ | split

theorem State.switchTo_keeps {s₀ s : State} (h : Keeps s₀ s) : ∀ a b, Keeps s₀ (State.switchTo s a b) := by
  intro a b
  unfold State.switchTo
  repeat' with_reducible first
    | assumption | simp only [Keeps.mk_iff] | apply Keeps.ite | apply Keeps.ite_snd | apply State.switchNow_keeps | dsimp only
    | apply Keeps.ite_snd3 | apply Keeps.ite_fst | apply Keeps.ite_snd4 | refine Keeps.of_snd (by assumption) ?_
    | refine Keeps.of_snd3 (by assumption) ?_ | refine Keeps.of_snd4 (by assumption) ?_
    | refine Keeps.of_fst (by assumption) ?_ | split

theorem State.loadEnd_keeps {s₀ s : State} (h : Keeps s₀ s) : ∀ a, Keeps s₀ (State.loadEnd s a).2 := by
  intro a
  unfold State.loadEnd
  repeat' with_reducible first
    | assumption | simp only [Keeps.mk_iff] | apply Keeps.ite | apply Keeps.ite_snd | apply State.imgVerify_keeps
    | apply State.eccUncorr_keeps | apply State.setImg_keeps | apply State.imgWipe_keeps | apply State.switchTo_keeps
    | apply State.imageRec_keeps | dsimp only | apply Keeps.ite_snd3 | apply Keeps.ite_fst | apply Keeps.ite_snd4
    | refine Keeps.of_snd (by assumption) ?_ | refine Keeps.of_snd3 (by assumption) ?_
    | refine Keeps.of_snd4 (by assumption) ?_ | refine Keeps.of_fst (by assumption) ?_ | split

theorem State.loadAbort_keeps {s₀ s : State} (h : Keeps s₀ s) : ∀ a, Keeps s₀ (State.loadAbort s a).2 := by
  intro a
  unfold State.loadAbort
  repeat' with_reducible first
    | assumption | apply State.loadAbandon_keeps | dsimp only | refine Keeps.of_snd (by assumption) ?_
    | refine Keeps.of_snd3 (by assumption) ?_ | refine Keeps.of_snd4 (by assumption) ?_
    | refine Keeps.of_fst (by assumption) ?_ | split

theorem execImageLoadTimeout_keeps {s₀ s : State} (h : Keeps s₀ s) : Keeps s₀ (afterExec (execImageLoadTimeout s) s) := by
  unfold execImageLoadTimeout afterExec
  repeat' with_reducible first
    | assumption | apply State.loadAbandon_keeps | dsimp only

theorem State.hlkPurgeFuel_keeps {s₀ s : State} (h : Keeps s₀ s) : ∀ a b, Keeps s₀ (State.hlkPurgeFuel a b s) := by
  intro a b
  induction b generalizing a s
  all_goals unfold State.hlkPurgeFuel
  repeat' with_reducible first
    | assumption | apply Keeps.ite | apply_assumption | apply State.setb_keeps | apply State.headRelease_keeps | dsimp only
    | split

theorem State.hlkPurge_keeps {s₀ s : State} (h : Keeps s₀ s) : Keeps s₀ (State.hlkPurge s) := by
  unfold State.hlkPurge
  repeat' with_reducible first
    | assumption | intro _ | apply State.hlkPurgeFuel_keeps | apply Keeps.foldl | dsimp only | apply Keeps.foldl_snd
    | apply Keeps.foldl_snd3 | apply Keeps.foldl_fst

theorem State.hlkNo_keeps {s₀ s : State} (h : Keeps s₀ s) : ∀ a, Keeps s₀ (State.hlkNo s a) := by
  intro a
  unfold State.hlkNo
  repeat' with_reducible first
    | assumption | simp only [Keeps.mk_iff] | apply State.bump_keeps | apply State.setb_keeps | dsimp only | split

theorem State.hlkYes_keeps {s₀ s : State} (h : Keeps s₀ s) : ∀ a, Keeps s₀ (State.hlkYes s a) := by
  intro a
  unfold State.hlkYes
  repeat' with_reducible first
    | assumption | simp only [Keeps.mk_iff] | dsimp only

theorem State.hlkDo_keeps {s₀ s : State} (h : Keeps s₀ s) :
    ∀ a f, (∀ t, Keeps s₀ t → Keeps s₀ (f t)) → Keeps s₀ (State.hlkDo s a f) := by
  intro a f hf
  unfold State.hlkDo
  have k := State.hlkPurge_keeps h
  exact Keeps.ite ((Keeps.mk_iff ..).2 h) (Keeps.ite (State.hlkNo_keeps k _) (Keeps.ite (State.hlkNo_keeps k _) (hf _ k)))

theorem State.h6Say_keeps {s₀ s : State} (h : Keeps s₀ s) : ∀ a b c d, Keeps s₀ (State.h6Say s a b c d) := by
  intro a b c d
  unfold State.h6Say
  repeat' with_reducible first
    | assumption | simp only [Keeps.mk_iff] | apply State.pushPacket_keeps | dsimp only
    | refine Keeps.of_snd (by assumption) ?_ | refine Keeps.of_snd3 (by assumption) ?_
    | refine Keeps.of_snd4 (by assumption) ?_ | refine Keeps.of_fst (by assumption) ?_

theorem State.h6Take_keeps {s₀ s t : State} {x0 : _} {x1 : _} (h : Keeps s₀ s) (eq : State.h6Take s = some (x0, x1, t)) :
    Keeps s₀ t := by
  unfold State.h6Take at eq
  try dsimp only at eq
  repeat' split at eq
  all_goals simp only [Option.some.injEq, Prod.mk.injEq, reduceCtorEq] at eq
  all_goals try obtain ⟨-, -, rfl⟩ := eq
  all_goals try subst eq
  repeat' with_reducible first
    | assumption | simp only [Keeps.mk_iff] | apply Keeps.ite | apply Keeps.ite_snd | apply State.headRelease_keeps
    | dsimp only | apply Keeps.ite_snd3 | apply Keeps.ite_fst | apply Keeps.ite_snd4 | refine Keeps.of_snd (by assumption) ?_
    | refine Keeps.of_snd3 (by assumption) ?_ | refine Keeps.of_snd4 (by assumption) ?_
    | refine Keeps.of_fst (by assumption) ?_ | split

theorem State.h6SkipFuel_keeps {s₀ s : State} (h : Keeps s₀ s) : ∀ a, Keeps s₀ (State.h6SkipFuel a s) := by
  intro a
  induction a generalizing s
  all_goals unfold State.h6SkipFuel
  repeat' with_reducible first
    | assumption | apply Keeps.ite | apply Keeps.ite_snd | apply_assumption | apply State.h6Say_keeps
    | apply State.laneFail_keeps | refine State.h6Take_keeps ?_ (by assumption) | dsimp only | apply Keeps.ite_snd3
    | apply Keeps.ite_fst | apply Keeps.ite_snd4 | refine Keeps.of_snd (by assumption) ?_
    | refine Keeps.of_snd3 (by assumption) ?_ | refine Keeps.of_snd4 (by assumption) ?_
    | refine Keeps.of_fst (by assumption) ?_ | split

theorem State.h6Skip_keeps {s₀ s : State} (h : Keeps s₀ s) : Keeps s₀ (State.h6Skip s) := by
  unfold State.h6Skip
  repeat' with_reducible first
    | assumption | apply State.h6SkipFuel_keeps | dsimp only

theorem State.h6Run_keeps {s₀ s : State} (h : Keeps s₀ s) :
    ∀ a b, (∀ x0 x1, Keeps s₀ x1 → Keeps s₀ (b x0 x1)) → Keeps s₀ (State.h6Run s a b) := by
  intro a b
  intro hf
  unfold State.h6Run
  repeat' with_reducible first
    | assumption | intro _ | apply Keeps.ite | apply_assumption | apply State.h6Skip_keeps | apply State.h6Say_keeps
    | apply State.laneFail_keeps | refine State.h6Take_keeps ?_ (by assumption) | dsimp only | split

theorem State.h6Begin_keeps {s₀ s : State} (h : Keeps s₀ s) : ∀ a, Keeps s₀ (State.h6Begin s a) := by
  intro a
  unfold State.h6Begin
  repeat' with_reducible first
    | assumption | apply Keeps.ite | apply Keeps.ite_snd | apply State.loadBegin_keeps | apply State.h6Say_keeps | dsimp only
    | apply Keeps.ite_snd3 | apply Keeps.ite_fst | apply Keeps.ite_snd4 | refine Keeps.of_snd (by assumption) ?_
    | refine Keeps.of_snd3 (by assumption) ?_ | refine Keeps.of_snd4 (by assumption) ?_
    | refine Keeps.of_fst (by assumption) ?_ | split

theorem State.h6Data_keeps {s₀ s : State} (h : Keeps s₀ s) : ∀ a, Keeps s₀ (State.h6Data s a) := by
  intro a
  unfold State.h6Data
  repeat' with_reducible first
    | assumption | apply Keeps.ite | apply Keeps.ite_snd | apply State.loadData_keeps | apply State.h6Say_keeps | dsimp only
    | apply Keeps.ite_snd3 | apply Keeps.ite_fst | apply Keeps.ite_snd4 | refine Keeps.of_snd (by assumption) ?_
    | refine Keeps.of_snd3 (by assumption) ?_ | refine Keeps.of_snd4 (by assumption) ?_
    | refine Keeps.of_fst (by assumption) ?_ | split

theorem State.h6End_keeps {s₀ s : State} (h : Keeps s₀ s) : ∀ a, Keeps s₀ (State.h6End s a) := by
  intro a
  unfold State.h6End
  repeat' with_reducible first
    | assumption | apply Keeps.ite | apply Keeps.ite_snd | apply State.loadEnd_keeps | apply State.h6Say_keeps | dsimp only
    | apply Keeps.ite_snd3 | apply Keeps.ite_fst | apply Keeps.ite_snd4 | refine Keeps.of_snd (by assumption) ?_
    | refine Keeps.of_snd3 (by assumption) ?_ | refine Keeps.of_snd4 (by assumption) ?_
    | refine Keeps.of_fst (by assumption) ?_ | split

theorem State.h6Abort_keeps {s₀ s : State} (h : Keeps s₀ s) : ∀ a, Keeps s₀ (State.h6Abort s a) := by
  intro a
  unfold State.h6Abort
  repeat' with_reducible first
    | assumption | apply Keeps.ite | apply Keeps.ite_snd | apply State.loadAbort_keeps | apply State.h6Say_keeps | dsimp only
    | apply Keeps.ite_snd3 | apply Keeps.ite_fst | apply Keeps.ite_snd4 | refine Keeps.of_snd (by assumption) ?_
    | refine Keeps.of_snd3 (by assumption) ?_ | refine Keeps.of_snd4 (by assumption) ?_
    | refine Keeps.of_fst (by assumption) ?_ | split

theorem State.hlkLast_keeps {s₀ s : State} (h : Keeps s₀ s) : ∀ a b, Keeps s₀ (State.hlkLast s a b) := by
  intro a b
  unfold State.hlkLast
  repeat' with_reducible first
    | assumption | apply State.wrs_keeps | dsimp only | refine Keeps.of_snd (by assumption) ?_
    | refine Keeps.of_snd3 (by assumption) ?_ | refine Keeps.of_snd4 (by assumption) ?_
    | refine Keeps.of_fst (by assumption) ?_

theorem State.hlkSeal_keeps {s₀ s : State} (h : Keeps s₀ s) : ∀ a b c d, Keeps s₀ (State.hlkSeal s a b c d) := by
  intro a b c d
  unfold State.hlkSeal
  repeat' with_reducible first
    | assumption | intro _ | simp only [Keeps.mk_iff] | apply Keeps.ite | apply Keeps.ite_snd | apply State.flushQueue_keeps
    | apply State.h6Skip_keeps | apply State.pushWord_keeps | apply State.wr_keeps | apply State.hlkLast_keeps
    | apply Keeps.foldl | dsimp only | apply Keeps.foldl_snd | apply Keeps.foldl_snd3 | apply Keeps.foldl_fst
    | apply Keeps.ite_snd3 | apply Keeps.ite_fst | apply Keeps.ite_snd4 | refine Keeps.of_snd (by assumption) ?_
    | refine Keeps.of_snd3 (by assumption) ?_ | refine Keeps.of_snd4 (by assumption) ?_
    | refine Keeps.of_fst (by assumption) ?_ | split

theorem State.hlkWrite_keeps {s₀ s : State} (h : Keeps s₀ s) : ∀ a b c d, Keeps s₀ (State.hlkWrite s a b c d) := by
  intro a b c d
  unfold State.hlkWrite
  repeat' with_reducible first
    | assumption | apply Keeps.ite | apply Keeps.ite_snd | apply State.bump_keeps | apply State.hlkNo_keeps
    | apply State.flushQueue_keeps | apply State.pushHeader_keeps | apply State.hlkYes_keeps | apply State.qset_keeps
    | apply State.setb_keeps | apply State.hlkSeal_keeps | apply State.hlkLast_keeps | apply State.laneFail_keeps | dsimp only
    | apply Keeps.ite_snd3 | apply Keeps.ite_fst | apply Keeps.ite_snd4 | refine Keeps.of_snd (by assumption) ?_
    | refine Keeps.of_snd3 (by assumption) ?_ | refine Keeps.of_snd4 (by assumption) ?_
    | refine Keeps.of_fst (by assumption) ?_ | split

theorem State.hlkRead_keeps {s₀ s : State} (h : Keeps s₀ s) : ∀ a, Keeps s₀ (State.hlkRead s a) := by
  intro a
  unfold State.hlkRead
  repeat' with_reducible first
    | assumption | simp only [Keeps.mk_iff] | apply Keeps.ite | apply Keeps.ite_snd | apply State.hlkNo_keeps
    | apply State.hlkYes_keeps | apply State.qset_keeps | apply State.setb_keeps | apply State.laneFail_keeps | dsimp only
    | apply Keeps.ite_snd3 | apply Keeps.ite_fst | apply Keeps.ite_snd4 | refine Keeps.of_snd (by assumption) ?_
    | refine Keeps.of_snd3 (by assumption) ?_ | refine Keeps.of_snd4 (by assumption) ?_
    | refine Keeps.of_fst (by assumption) ?_ | split

theorem State.hlkAck_keeps {s₀ s : State} (h : Keeps s₀ s) : ∀ a b, Keeps s₀ (State.hlkAck s a b) := by
  intro a b
  unfold State.hlkAck
  repeat' with_reducible first
    | assumption | simp only [Keeps.mk_iff] | apply Keeps.ite | apply State.bump_keeps | apply State.hlkNo_keeps
    | apply State.hlkYes_keeps | apply State.setb_keeps | apply State.headRelease_keeps | dsimp only | split

theorem State.hlkStatus_keeps {s₀ s : State} (h : Keeps s₀ s) : ∀ a, Keeps s₀ (State.hlkStatus s a) := by
  intro a
  unfold State.hlkStatus
  repeat' with_reducible first
    | assumption | apply Keeps.ite | apply Keeps.ite_snd | apply State.hlkYes_keeps | apply State.wrs_keeps | dsimp only
    | apply Keeps.ite_snd3 | apply Keeps.ite_fst | apply Keeps.ite_snd4 | refine Keeps.of_snd (by assumption) ?_
    | refine Keeps.of_snd3 (by assumption) ?_ | refine Keeps.of_snd4 (by assumption) ?_
    | refine Keeps.of_fst (by assumption) ?_ | split

theorem State.hlkAbort_keeps {s₀ s : State} (h : Keeps s₀ s) : ∀ a, Keeps s₀ (State.hlkAbort s a) := by
  intro a
  unfold State.hlkAbort
  repeat' with_reducible first
    | assumption | intro _ | simp only [Keeps.mk_iff] | apply Keeps.ite | apply Keeps.ite_snd | apply State.hlkNo_keeps
    | apply State.pushHeader_keeps | apply State.hlkYes_keeps | apply State.qset_keeps | apply State.setb_keeps
    | apply State.hlkLast_keeps | apply State.hlkDo_keeps | dsimp only | apply Keeps.ite_snd3 | apply Keeps.ite_fst
    | apply Keeps.ite_snd4 | refine Keeps.of_snd (by assumption) ?_ | refine Keeps.of_snd3 (by assumption) ?_
    | refine Keeps.of_snd4 (by assumption) ?_ | refine Keeps.of_fst (by assumption) ?_ | split

theorem execWriteQ_keeps {s₀ s : State} (h : Keeps s₀ s) : ∀ a b c d e, Keeps s₀ (afterExec (execWriteQ a b c d e s) s) := by
  intro a b c d e
  unfold execWriteQ afterExec
  repeat' with_reducible first
    | assumption | intro _ | apply State.hlkWrite_keeps | apply State.hlkDo_keeps | dsimp only

theorem execReadQ_keeps {s₀ s : State} (h : Keeps s₀ s) : ∀ a b, Keeps s₀ (afterExec (execReadQ a b s) s) := by
  intro a b
  unfold execReadQ afterExec
  repeat' with_reducible first
    | assumption | intro _ | apply State.hlkRead_keeps | apply State.hlkDo_keeps | dsimp only

theorem execStatus_keeps {s₀ s : State} (h : Keeps s₀ s) : ∀ a b, Keeps s₀ (afterExec (execStatus a b s) s) := by
  intro a b
  unfold execStatus afterExec
  repeat' with_reducible first
    | assumption | intro _ | apply State.hlkStatus_keeps | apply State.hlkDo_keeps | dsimp only

theorem execAck_keeps {s₀ s : State} (h : Keeps s₀ s) : ∀ a b c, Keeps s₀ (afterExec (execAck a b c s) s) := by
  intro a b c
  unfold execAck afterExec
  repeat' with_reducible first
    | assumption | intro _ | apply State.hlkAck_keeps | apply State.hlkDo_keeps | dsimp only

theorem execHostlinkAbort_keeps {s₀ s : State} (h : Keeps s₀ s) : ∀ a, Keeps s₀ (afterExec (execHostlinkAbort a s) s) := by
  intro a
  unfold execHostlinkAbort afterExec
  repeat' with_reducible first
    | assumption | apply State.hlkAbort_keeps | dsimp only

theorem execH6Begin_keeps {s₀ s : State} (h : Keeps s₀ s) : Keeps s₀ (afterExec (execH6Begin s) s) := by
  unfold execH6Begin afterExec
  repeat' with_reducible first
    | assumption | intro _ | apply State.h6Begin_keeps | apply State.h6Run_keeps | dsimp only

theorem execH6Data_keeps {s₀ s : State} (h : Keeps s₀ s) : Keeps s₀ (afterExec (execH6Data s) s) := by
  unfold execH6Data afterExec
  repeat' with_reducible first
    | assumption | intro _ | apply State.h6Run_keeps | apply State.h6Data_keeps | dsimp only

theorem execH6End_keeps {s₀ s : State} (h : Keeps s₀ s) : Keeps s₀ (afterExec (execH6End s) s) := by
  unfold execH6End afterExec
  repeat' with_reducible first
    | assumption | intro _ | apply State.h6End_keeps | apply State.h6Run_keeps | dsimp only

theorem execH6Abort_keeps {s₀ s : State} (h : Keeps s₀ s) : Keeps s₀ (afterExec (execH6Abort s) s) := by
  unfold execH6Abort afterExec
  repeat' with_reducible first
    | assumption | intro _ | apply State.h6Abort_keeps | apply State.h6Run_keeps | dsimp only

theorem State.rlyKey_keeps {s₀ s : State} (h : Keeps s₀ s) : ∀ a b, Keeps s₀ (State.rlyKey s a b).2.2 := by
  intro a b
  unfold State.rlyKey
  repeat' with_reducible first
    | assumption | apply Keeps.ite | apply Keeps.ite_snd | apply State.vLookup_keeps | dsimp only | apply Keeps.ite_snd3
    | apply Keeps.ite_fst | apply Keeps.ite_snd4 | refine Keeps.of_snd (by assumption) ?_
    | refine Keeps.of_snd3 (by assumption) ?_ | refine Keeps.of_snd4 (by assumption) ?_
    | refine Keeps.of_fst (by assumption) ?_ | split

theorem State.rlyLoad_keeps {s₀ s : State} (h : Keeps s₀ s) : ∀ a, Keeps s₀ (State.rlyLoad s a).2.2 := by
  intro a
  unfold State.rlyLoad
  repeat' with_reducible first
    | assumption | apply Keeps.ite | apply Keeps.ite_snd | apply State.rlySet_keeps | apply State.rlyKey_keeps | dsimp only
    | apply Keeps.ite_snd3 | apply Keeps.ite_fst | apply Keeps.ite_snd4 | refine Keeps.of_snd (by assumption) ?_
    | refine Keeps.of_snd3 (by assumption) ?_ | refine Keeps.of_snd4 (by assumption) ?_
    | refine Keeps.of_fst (by assumption) ?_ | split

theorem State.rlyHeader_keeps {s₀ s : State} (h : Keeps s₀ s) : ∀ a b, Keeps s₀ (State.rlyHeader s a b) := by
  intro a b
  unfold State.rlyHeader
  repeat' with_reducible first
    | assumption | apply State.rlyEnd_keeps | apply State.pushHeader_keeps | apply State.rlySet_keeps | apply State.qset_keeps
    | dsimp only | refine Keeps.of_snd (by assumption) ?_ | refine Keeps.of_snd3 (by assumption) ?_
    | refine Keeps.of_snd4 (by assumption) ?_ | refine Keeps.of_fst (by assumption) ?_ | split

theorem State.rlyUnits_keeps {s₀ s : State} (h : Keeps s₀ s) : ∀ a b, Keeps s₀ (State.rlyUnits s a b) := by
  intro a b
  unfold State.rlyUnits
  repeat' with_reducible first
    | assumption | apply State.setTxn_keeps | dsimp only

theorem State.rlyMove_keeps {s₀ s : State} (h : Keeps s₀ s) : ∀ a, Keeps s₀ (State.rlyMove s a) := by
  intro a
  unfold State.rlyMove
  repeat' with_reducible first
    | assumption | apply Keeps.ite | apply State.rlyEnd_keeps | apply State.rlyHeader_keeps | apply State.wr_keeps
    | apply State.rlySet_keeps | apply State.rlyUnits_keeps | dsimp only | split

theorem State.rlyOpen_keeps {s₀ s : State} (h : Keeps s₀ s) : ∀ a b, Keeps s₀ (State.rlyOpen s a b) := by
  intro a b
  unfold State.rlyOpen
  repeat' with_reducible first
    | assumption | apply Keeps.ite | apply Keeps.ite_snd | apply State.rlyLoad_keeps | apply State.rlyEnd_keeps
    | apply State.eccUncorr_keeps | apply State.rlySet_keeps | apply State.rlyUnits_keeps | apply State.rlyMove_keeps
    | apply State.wrs_keeps | dsimp only | apply Keeps.ite_snd3 | apply Keeps.ite_fst | apply Keeps.ite_snd4
    | refine Keeps.of_snd (by assumption) ?_ | refine Keeps.of_snd3 (by assumption) ?_
    | refine Keeps.of_snd4 (by assumption) ?_ | refine Keeps.of_fst (by assumption) ?_ | split

theorem State.areaProg_keeps {s₀ s : State} (h : Keeps s₀ s) : ∀ a b c, Keeps s₀ (State.areaProg s a b c) := by
  intro a b c
  unfold State.areaProg
  repeat' with_reducible first
    | assumption | intro _ | apply State.arcPut_keeps | apply Keeps.foldl | dsimp only | apply Keeps.foldl_snd
    | apply Keeps.foldl_snd3 | apply Keeps.foldl_fst

theorem State.rlyPut_keeps {s₀ s : State} (h : Keeps s₀ s) : ∀ a b c, Keeps s₀ (State.rlyPut s a b c) := by
  intro a b c
  unfold State.rlyPut
  repeat' with_reducible first
    | assumption | intro _ | apply Keeps.ite | apply Keeps.ite_snd | apply State.pushWord_keeps | apply State.unitPut_keeps
    | apply State.rlySet_keeps | apply State.areaProg_keeps | apply State.wrs_keeps | apply Keeps.foldl | dsimp only
    | apply Keeps.foldl_snd | apply Keeps.foldl_snd3 | apply Keeps.foldl_fst | apply Keeps.ite_snd3 | apply Keeps.ite_fst
    | apply Keeps.ite_snd4 | refine Keeps.of_snd (by assumption) ?_ | refine Keeps.of_snd3 (by assumption) ?_
    | refine Keeps.of_snd4 (by assumption) ?_ | refine Keeps.of_fst (by assumption) ?_ | split

theorem State.rlySealed_keeps {s₀ s : State} (h : Keeps s₀ s) : ∀ a, Keeps s₀ (State.rlySealed s a) := by
  intro a
  unfold State.rlySealed
  repeat' with_reducible first
    | assumption | apply Keeps.ite | apply Keeps.ite_snd | apply State.wrs_keeps | apply State.headRelease_keeps | dsimp only
    | apply Keeps.ite_snd3 | apply Keeps.ite_fst | apply Keeps.ite_snd4 | refine Keeps.of_snd (by assumption) ?_
    | refine Keeps.of_snd3 (by assumption) ?_ | refine Keeps.of_snd4 (by assumption) ?_
    | refine Keeps.of_fst (by assumption) ?_ | split

theorem State.rlySeal_keeps {s₀ s : State} (h : Keeps s₀ s) : ∀ a b, Keeps s₀ (State.rlySeal s a b) := by
  intro a b
  unfold State.rlySeal
  repeat' with_reducible first
    | assumption | apply Keeps.ite | apply Keeps.ite_snd | apply State.rlyPut_keeps | apply State.rlyEnd_keeps
    | apply State.eccUncorr_keeps | apply State.rlySealed_keeps | dsimp only | apply Keeps.ite_snd3 | apply Keeps.ite_fst
    | apply Keeps.ite_snd4 | refine Keeps.of_snd (by assumption) ?_ | refine Keeps.of_snd3 (by assumption) ?_
    | refine Keeps.of_snd4 (by assumption) ?_ | refine Keeps.of_fst (by assumption) ?_ | split

theorem State.rlyCmd_keeps {s₀ s : State} (h : Keeps s₀ s) :
    ∀ a b c, (∀ x0, Keeps s₀ x0 → Keeps s₀ (c x0)) → Keeps s₀ (State.rlyCmd s a b c) := by
  intro a b c
  intro hf
  unfold State.rlyCmd
  repeat' with_reducible first
    | assumption | intro _ | apply Keeps.ite | apply_assumption | apply State.byCore_keeps | apply State.misuse_keeps
    | dsimp only | split

theorem State.rlyAbort_keeps {s₀ s : State} (h : Keeps s₀ s) : ∀ a, Keeps s₀ (State.rlyAbort s a) := by
  intro a
  unfold State.rlyAbort
  repeat' with_reducible first
    | assumption | apply Keeps.ite | apply State.rlyEnd_keeps | dsimp only | split

theorem State.rlyDrop_keeps {s₀ s : State} (h : Keeps s₀ s) : ∀ a, Keeps s₀ (State.rlyDrop s a) := by
  intro a
  unfold State.rlyDrop
  repeat' with_reducible first
    | assumption | apply Keeps.ite | apply State.bump_keeps | apply State.rlySet_keeps | apply State.headRelease_keeps
    | dsimp only | split

theorem State.rlyFree_keeps {s₀ s : State} (h : Keeps s₀ s) : ∀ a, Keeps s₀ (State.rlyFree s a) := by
  intro a
  unfold State.rlyFree
  repeat' with_reducible first
    | assumption | apply Keeps.ite | apply Keeps.ite_snd | apply State.rlySet_keeps | apply State.wrs_keeps | dsimp only
    | apply Keeps.ite_snd3 | apply Keeps.ite_fst | apply Keeps.ite_snd4 | refine Keeps.of_snd (by assumption) ?_
    | refine Keeps.of_snd3 (by assumption) ?_ | refine Keeps.of_snd4 (by assumption) ?_
    | refine Keeps.of_fst (by assumption) ?_ | split

theorem execRlyOpen_keeps {s₀ s : State} (h : Keeps s₀ s) : ∀ a b, Keeps s₀ (afterExec (execRlyOpen a b s) s) := by
  intro a b
  unfold execRlyOpen afterExec
  repeat' with_reducible first
    | assumption | intro _ | apply Keeps.ite | apply State.rlyOpen_keeps | apply State.rlyCmd_keeps | dsimp only | split

theorem execRlyAbort_keeps {s₀ s : State} (h : Keeps s₀ s) : ∀ a b, Keeps s₀ (afterExec (execRlyAbort a b s) s) := by
  intro a b
  unfold execRlyAbort afterExec
  repeat' with_reducible first
    | assumption | intro _ | apply State.rlyAbort_keeps | apply State.rlyCmd_keeps | dsimp only

theorem execRlyDropsrc_keeps {s₀ s : State} (h : Keeps s₀ s) : ∀ a b, Keeps s₀ (afterExec (execRlyDropsrc a b s) s) := by
  intro a b
  unfold execRlyDropsrc afterExec
  repeat' with_reducible first
    | assumption | intro _ | apply State.rlyCmd_keeps | apply State.rlyDrop_keeps | dsimp only

theorem execRlyFree_keeps {s₀ s : State} (h : Keeps s₀ s) : ∀ a b, Keeps s₀ (afterExec (execRlyFree a b s) s) := by
  intro a b
  unfold execRlyFree afterExec
  repeat' with_reducible first
    | assumption | intro _ | apply State.rlyCmd_keeps | apply State.rlyFree_keeps | dsimp only

theorem execRelaySourceReady_keeps {s₀ s : State} (h : Keeps s₀ s) :
    ∀ a, Keeps s₀ (afterExec (execRelaySourceReady a s) s) := by
  intro a
  unfold execRelaySourceReady afterExec
  repeat' with_reducible first
    | assumption | apply Keeps.ite | apply State.rlyMove_keeps | dsimp only | split

theorem execRelaySeal_keeps {s₀ s : State} (h : Keeps s₀ s) : ∀ a b, Keeps s₀ (afterExec (execRelaySeal a b s) s) := by
  intro a b
  unfold execRelaySeal afterExec
  repeat' with_reducible first
    | assumption | apply State.rlySeal_keeps | dsimp only

end Sys2Proof.Machine
end

