-- ==== Sys2Proof/Laws/Keeps6.lean ====
section
/-!
SUPPORT. Keeps6.lean: the operations of Care.lean, WatchCmds.lean, Regs.lean, Writes.lean, Cores.lean, Csr.lean keep the queue
of commands, the canonical form of the memory and the blown fuses (Laws/Keeps.lean). A lemma of a command's meaning speaks of
the state after it.
-/
namespace Sys2Proof.Machine

theorem State.tele_keeps {s₀ s : State} (h : Keeps s₀ s) : ∀ a, Keeps s₀ (State.tele s a) := by
  intro a
  unfold State.tele
  repeat' with_reducible first
    | assumption | simp only [Keeps.mk_iff] | dsimp only

theorem State.event_keeps {s₀ s : State} (h : Keeps s₀ s) : ∀ a b c, Keeps s₀ (State.event s a b c) := by
  intro a b c
  unfold State.event
  repeat' with_reducible first
    | assumption | apply State.attic_keeps | dsimp only

theorem State.refreshAdd_keeps {s₀ s : State} (h : Keeps s₀ s) : ∀ a, Keeps s₀ (State.refreshAdd s a) := by
  intro a
  unfold State.refreshAdd
  repeat' with_reducible first
    | assumption | simp only [Keeps.mk_iff] | apply Keeps.ite | apply State.bump_keeps | dsimp only | split

theorem State.refreshOne_keeps {s₀ s t : State} {a : _} (h : Keeps s₀ s) (eq : State.refreshOne s a = some t) :
    Keeps s₀ t := by
  unfold State.refreshOne at eq
  try dsimp only at eq
  repeat' split at eq
  all_goals simp only [Option.some.injEq, reduceCtorEq] at eq
  all_goals try subst eq
  repeat' with_reducible first
    | assumption | apply Keeps.ite | apply State.strImage_keeps | apply State.internalCommit_keeps | apply State.wearUp_keeps
    | apply State.careInfo_keeps | apply State.event_keeps | dsimp only | split

theorem State.refreshStep_keeps {s₀ s : State} (h : Keeps s₀ s) : Keeps s₀ (State.refreshStep s) := by
  unfold State.refreshStep
  repeat' with_reducible first
    | assumption | simp only [Keeps.mk_iff] | apply Keeps.ite | refine State.refreshOne_keeps ?_ (by assumption) | dsimp only
    | split

theorem State.arcCorr_keeps {s₀ s : State} (h : Keeps s₀ s) : ∀ a, Keeps s₀ (State.arcCorr s a) := by
  intro a
  unfold State.arcCorr
  repeat' with_reducible first
    | assumption | apply State.tele_keeps | apply State.bump_keeps | apply State.refreshAdd_keeps | dsimp only

theorem State.arcUncorr_keeps {s₀ s : State} (h : Keeps s₀ s) : ∀ a, Keeps s₀ (State.arcUncorr s a) := by
  intro a
  unfold State.arcUncorr
  repeat' with_reducible first
    | assumption | apply State.eccUncorr_keeps | apply State.wr_keeps | apply State.setb_keeps | dsimp only

theorem State.ldrCorr_keeps {s₀ s : State} (h : Keeps s₀ s) : Keeps s₀ (State.ldrCorr s) := by
  unfold State.ldrCorr
  repeat' with_reducible first
    | assumption | apply State.tele_keeps | apply State.bump_keeps | dsimp only

theorem State.ldrUncorr_keeps {s₀ s : State} (h : Keeps s₀ s) : ∀ a, Keeps s₀ (State.ldrUncorr s a) := by
  intro a
  unfold State.ldrUncorr
  repeat' with_reducible first
    | assumption | apply State.bump_keeps | apply State.eccUncorr_keeps | apply State.wr_keeps | apply State.setb_keeps
    | dsimp only

theorem State.sramScrub_keeps {s₀ s : State} (h : Keeps s₀ s) : ∀ a, Keeps s₀ (State.sramScrub s a) := by
  intro a
  unfold State.sramScrub
  repeat' with_reducible first
    | assumption | simp only [Keeps.mk_iff] | apply Keeps.ite | apply State.tele_keeps | apply State.bump_keeps
    | apply State.eccUncorr_keeps | apply State.careInfo_keeps | dsimp only | split

theorem State.larderScrub_keeps {s₀ s : State} (h : Keeps s₀ s) : ∀ a, Keeps s₀ (State.larderScrub s a) := by
  intro a
  unfold State.larderScrub
  repeat' with_reducible first
    | assumption | simp only [Keeps.mk_iff] | apply Keeps.ite | apply State.wr_keeps | apply State.ldrCorr_keeps
    | apply State.careInfo_keeps | apply State.ldrUncorr_keeps | dsimp only | split

theorem State.patrol_keeps {s₀ s : State} (h : Keeps s₀ s) : ∀ a, Keeps s₀ (State.patrol s a) := by
  intro a
  unfold State.patrol
  repeat' with_reducible first
    | assumption | simp only [Keeps.mk_iff] | apply Keeps.ite | apply State.arcCorr_keeps | apply State.arcUncorr_keeps
    | dsimp only | split

theorem State.wearWarn_keeps {s₀ s : State} (h : Keeps s₀ s) : ∀ a b c, Keeps s₀ (State.wearWarn s a b c) := by
  intro a b c
  unfold State.wearWarn
  repeat' with_reducible first
    | assumption | apply State.careInfo_keeps | apply State.event_keeps | dsimp only

theorem State.wearCheck_keeps {s₀ s : State} (h : Keeps s₀ s) : Keeps s₀ (State.wearCheck s) := by
  unfold State.wearCheck
  repeat' with_reducible first
    | assumption | simp only [Keeps.mk_iff] | apply Keeps.ite | apply Keeps.ite_snd | apply State.wearWarn_keeps | dsimp only
    | apply Keeps.ite_snd3 | apply Keeps.ite_fst | apply Keeps.ite_snd4 | refine Keeps.of_snd (by assumption) ?_
    | refine Keeps.of_snd3 (by assumption) ?_ | refine Keeps.of_snd4 (by assumption) ?_
    | refine Keeps.of_fst (by assumption) ?_ | split

theorem State.atticErase_keeps {s₀ s : State} (h : Keeps s₀ s) : ∀ a, Keeps s₀ (State.atticErase s a) := by
  intro a
  unfold State.atticErase
  repeat' with_reducible first
    | assumption | simp only [Keeps.mk_iff] | apply Keeps.ite | apply State.wr_keeps | dsimp only | split

theorem State.atticAppend_keeps {s₀ s : State} (h : Keeps s₀ s) : Keeps s₀ (State.atticAppend s) := by
  unfold State.atticAppend
  repeat' with_reducible first
    | assumption | simp only [Keeps.mk_iff] | apply Keeps.ite | apply Keeps.ite_snd | apply wrWords_keeps
    | apply State.atticErase_keeps | apply State.arcPut_keeps | apply State.wrs_keeps | dsimp only | apply Keeps.ite_snd3
    | apply Keeps.ite_fst | apply Keeps.ite_snd4 | refine Keeps.of_snd (by assumption) ?_
    | refine Keeps.of_snd3 (by assumption) ?_ | refine Keeps.of_snd4 (by assumption) ?_
    | refine Keeps.of_fst (by assumption) ?_ | split

theorem State.streamPut_keeps {s₀ s : State} (h : Keeps s₀ s) : ∀ a, Keeps s₀ (State.streamPut s a) := by
  intro a
  unfold State.streamPut
  repeat' with_reducible first
    | assumption | simp only [Keeps.mk_iff] | apply State.pushPacket_keeps | dsimp only
    | refine Keeps.of_snd (by assumption) ?_ | refine Keeps.of_snd3 (by assumption) ?_
    | refine Keeps.of_snd4 (by assumption) ?_ | refine Keeps.of_fst (by assumption) ?_

theorem State.teleMake_keeps {s₀ s : State} (h : Keeps s₀ s) : Keeps s₀ (State.teleMake s) := by
  unfold State.teleMake
  repeat' with_reducible first
    | assumption | simp only [Keeps.mk_iff] | apply Keeps.ite | apply Keeps.ite_snd | apply State.anyWords_keeps
    | apply State.streamPut_keeps | apply State.careInfo_keeps | apply State.atticRec_keeps | dsimp only
    | apply Keeps.ite_snd3 | apply Keeps.ite_fst | apply Keeps.ite_snd4 | refine Keeps.of_snd (by assumption) ?_
    | refine Keeps.of_snd3 (by assumption) ?_ | refine Keeps.of_snd4 (by assumption) ?_
    | refine Keeps.of_fst (by assumption) ?_ | split

theorem State.streamCtl_keeps {s₀ s : State} (h : Keeps s₀ s) : Keeps s₀ (State.streamCtl s) := by
  unfold State.streamCtl
  repeat' with_reducible first
    | assumption | intro _ | apply Keeps.ite | apply State.bump_keeps | apply State.wr_keeps | apply State.setb_keeps
    | apply State.streamPut_keeps | apply State.headRelease_keeps | apply Keeps.foldl | dsimp only | apply Keeps.foldl_snd
    | apply Keeps.foldl_snd3 | apply Keeps.foldl_fst | split

theorem State.careWork_keeps {s₀ s : State} (h : Keeps s₀ s) : Keeps s₀ (State.careWork s) := by
  unfold State.careWork
  repeat' with_reducible first
    | assumption | simp only [Keeps.mk_iff] | apply Keeps.ite | apply Keeps.ite_snd | apply State.onsets_keeps
    | apply State.teleMake_keeps | apply State.remaskStep_keeps | apply State.ledgerLoop_keeps | apply State.wearCheck_keeps
    | dsimp only | apply Keeps.ite_snd3 | apply Keeps.ite_fst | apply Keeps.ite_snd4 | refine Keeps.of_snd (by assumption) ?_
    | refine Keeps.of_snd3 (by assumption) ?_ | refine Keeps.of_snd4 (by assumption) ?_
    | refine Keeps.of_fst (by assumption) ?_ | split

theorem State.slack_keeps {s₀ s : State} (h : Keeps s₀ s) : Keeps s₀ (State.slack s) := by
  unfold State.slack
  repeat' with_reducible first
    | assumption | apply Keeps.ite | apply State.pkeStates_keeps | apply State.symStates_keeps | apply State.careWork_keeps
    | apply State.setPhase_keeps | dsimp only | split

theorem State.careFrame_keeps {s₀ s : State} (h : Keeps s₀ s) : Keeps s₀ (State.careFrame s) := by
  unfold State.careFrame
  repeat' with_reducible first
    | assumption | simp only [Keeps.mk_iff] | apply Keeps.ite | apply State.bump_keeps | apply State.careInfo_keeps
    | dsimp only | split

theorem State.careRestart_keeps {s₀ s : State} (h : Keeps s₀ s) : Keeps s₀ (State.careRestart s) := by
  unfold State.careRestart
  repeat' with_reducible first
    | assumption | apply Keeps.ite | apply State.tele_keeps | apply State.bump_keeps | apply State.hatchDrop_keeps
    | apply State.event_keeps | dsimp only | split

theorem execSramScrubStep_keeps {s₀ s : State} (h : Keeps s₀ s) : ∀ a, Keeps s₀ (afterExec (execSramScrubStep a s) s) := by
  intro a
  unfold execSramScrubStep afterExec
  repeat' with_reducible first
    | assumption | apply State.sramScrub_keeps | dsimp only

theorem execLarderScrubStep_keeps {s₀ s : State} (h : Keeps s₀ s) : ∀ a, Keeps s₀ (afterExec (execLarderScrubStep a s) s) := by
  intro a
  unfold execLarderScrubStep afterExec
  repeat' with_reducible first
    | assumption | apply State.larderScrub_keeps | dsimp only

theorem execArchivePatrol_keeps {s₀ s : State} (h : Keeps s₀ s) : ∀ a, Keeps s₀ (afterExec (execArchivePatrol a s) s) := by
  intro a
  unfold execArchivePatrol afterExec
  repeat' with_reducible first
    | assumption | apply State.patrol_keeps | dsimp only

theorem execSectorRefresh_keeps {s₀ s : State} (h : Keeps s₀ s) : Keeps s₀ (afterExec (execSectorRefresh s) s) := by
  unfold execSectorRefresh afterExec
  repeat' with_reducible first
    | assumption | apply State.refreshStep_keeps | dsimp only

theorem execAtticAppend_keeps {s₀ s : State} (h : Keeps s₀ s) : Keeps s₀ (afterExec (execAtticAppend s) s) := by
  unfold execAtticAppend afterExec
  repeat' with_reducible first
    | assumption | apply State.atticAppend_keeps | dsimp only

theorem execStreamControl_keeps {s₀ s : State} (h : Keeps s₀ s) : Keeps s₀ (afterExec (execStreamControl s) s) := by
  unfold execStreamControl afterExec
  repeat' with_reducible first
    | assumption | apply State.streamCtl_keeps | dsimp only

theorem execSlackPhase_keeps {s₀ s : State} (h : Keeps s₀ s) : Keeps s₀ (afterExec (execSlackPhase s) s) := by
  unfold execSlackPhase afterExec
  repeat' with_reducible first
    | assumption | apply State.slack_keeps | dsimp only

theorem execCareWatchdogExpiry_keeps {s₀ s : State} (h : Keeps s₀ s) : Keeps s₀ (afterExec (execCareWatchdogExpiry s) s) := by
  unfold execCareWatchdogExpiry afterExec
  repeat' with_reducible first
    | assumption | apply State.careRestart_keeps | dsimp only

theorem State.stoppedJobs_keeps {s₀ s : State} (h : Keeps s₀ s) : Keeps s₀ (State.stoppedJobs s) := by
  unfold State.stoppedJobs
  repeat' with_reducible first
    | assumption | intro _ | apply Keeps.ite | apply State.jobAbort_keeps | apply Keeps.foldl | dsimp only
    | apply Keeps.foldl_snd | apply Keeps.foldl_snd3 | apply Keeps.foldl_fst | split

theorem State.rcFallback_keeps {s₀ s : State} (h : Keeps s₀ s) : Keeps s₀ (State.rcFallback s) := by
  unfold State.rcFallback
  repeat' with_reducible first
    | assumption | simp only [Keeps.mk_iff, Keeps.mkSi_iff] | apply State.tbsTo_keeps | apply State.strProgress_keeps
    | apply State.enginesStop_keeps | apply State.stoppedJobs_keeps | apply State.wrs_keeps | dsimp only
    | refine Keeps.of_snd (by assumption) ?_ | refine Keeps.of_snd3 (by assumption) ?_
    | refine Keeps.of_snd4 (by assumption) ?_ | refine Keeps.of_fst (by assumption) ?_

theorem State.detSee_keeps {s₀ s : State} (h : Keeps s₀ s) : ∀ a b, Keeps s₀ (State.detSee s a b) := by
  intro a b
  unfold State.detSee
  repeat' with_reducible first
    | assumption | simp only [Keeps.mk_iff] | dsimp only

theorem State.tripSide_keeps {s₀ s : State} (h : Keeps s₀ s) : ∀ a, Keeps s₀ (State.tripSide s a) := by
  intro a
  unfold State.tripSide
  repeat' with_reducible first
    | assumption | apply Keeps.ite | apply State.setb_keeps | apply State.rcFallback_keeps | dsimp only | split

theorem State.srcOnset_keeps {s₀ s : State} (h : Keeps s₀ s) : ∀ a, Keeps s₀ (State.srcOnset s a).2 := by
  intro a
  unfold State.srcOnset
  repeat' with_reducible first
    | assumption | apply Keeps.ite | apply Keeps.ite_snd | apply State.tripSide_keeps | apply State.srcTrip_keeps
    | apply State.detSee_keeps | dsimp only | apply Keeps.ite_snd3 | apply Keeps.ite_fst | apply Keeps.ite_snd4
    | refine Keeps.of_snd (by assumption) ?_ | refine Keeps.of_snd3 (by assumption) ?_
    | refine Keeps.of_snd4 (by assumption) ?_ | refine Keeps.of_fst (by assumption) ?_ | split

theorem State.watchOnset_keeps {s₀ s : State} (h : Keeps s₀ s) : ∀ a, Keeps s₀ (State.watchOnset s a) := by
  intro a
  unfold State.watchOnset
  repeat' with_reducible first
    | assumption | intro _ | apply Keeps.ite | apply Keeps.ite_snd | apply State.onsets_keeps | apply State.srcOnset_keeps
    | apply Keeps.foldl | dsimp only | apply Keeps.foldl_snd | apply Keeps.foldl_snd3 | apply Keeps.foldl_fst
    | apply Keeps.ite_snd3 | apply Keeps.ite_fst | apply Keeps.ite_snd4 | refine Keeps.of_snd (by assumption) ?_
    | refine Keeps.of_snd3 (by assumption) ?_ | refine Keeps.of_snd4 (by assumption) ?_
    | refine Keeps.of_fst (by assumption) ?_ | split

theorem State.watchUntrip_keeps {s₀ s : State} (h : Keeps s₀ s) : ∀ a b, Keeps s₀ (State.watchUntrip s a b) := by
  intro a b
  unfold State.watchUntrip
  repeat' with_reducible first
    | assumption | apply Keeps.ite | apply State.srcUntrip_keeps | apply State.detSee_keeps | dsimp only | split

theorem State.disagree_keeps {s₀ s : State} (h : Keeps s₀ s) : ∀ a b c, Keeps s₀ (State.disagree s a b c) := by
  intro a b c
  unfold State.disagree
  repeat' with_reducible first
    | assumption | simp only [Keeps.mk_iff] | apply Keeps.ite | apply State.onsets_keeps | apply State.detSee_keeps
    | dsimp only | split

theorem State.stimRound_keeps {s₀ s : State} (h : Keeps s₀ s) : Keeps s₀ (State.stimRound s) := by
  unfold State.stimRound
  repeat' with_reducible first
    | assumption | simp only [Keeps.mk_iff] | apply Keeps.ite | apply State.setb_keeps | dsimp only | split

theorem State.stimStep_keeps {s₀ s : State} (h : Keeps s₀ s) : ∀ a, Keeps s₀ (State.stimStep s a) := by
  intro a
  unfold State.stimStep
  repeat' with_reducible first
    | assumption | simp only [Keeps.mk_iff] | apply Keeps.ite | apply State.onsets_keeps | apply State.wr_keeps
    | apply State.setb_keeps | dsimp only | split

theorem State.celSee_keeps {s₀ s : State} (h : Keeps s₀ s) : ∀ a b, Keeps s₀ (State.celSee s a b).2 := by
  intro a b
  unfold State.celSee
  repeat' with_reducible first
    | assumption | simp only [Keeps.mk_iff] | apply Keeps.ite | apply Keeps.ite_snd | dsimp only | apply Keeps.ite_snd3
    | apply Keeps.ite_fst | apply Keeps.ite_snd4 | refine Keeps.of_snd (by assumption) ?_
    | refine Keeps.of_snd3 (by assumption) ?_ | refine Keeps.of_snd4 (by assumption) ?_
    | refine Keeps.of_fst (by assumption) ?_ | split

theorem State.celBursts_keeps {s₀ s : State} (h : Keeps s₀ s) : Keeps s₀ (State.celBursts s) := by
  unfold State.celBursts
  repeat' with_reducible first
    | assumption | simp only [Keeps.mk_iff] | apply Keeps.ite | apply Keeps.ite_snd | dsimp only | apply Keeps.ite_snd3
    | apply Keeps.ite_fst | apply Keeps.ite_snd4 | refine Keeps.of_snd (by assumption) ?_
    | refine Keeps.of_snd3 (by assumption) ?_ | refine Keeps.of_snd4 (by assumption) ?_
    | refine Keeps.of_fst (by assumption) ?_ | split

theorem State.cellarSample_keeps {s₀ s : State} (h : Keeps s₀ s) : ∀ a b, Keeps s₀ (State.cellarSample s a b) := by
  intro a b
  unfold State.cellarSample
  repeat' with_reducible first
    | assumption | intro _ | apply Keeps.ite | apply Keeps.ite_snd | apply State.onsets_keeps | apply State.celBursts_keeps
    | apply State.celSee_keeps | apply State.advance_keeps | apply Keeps.foldl | dsimp only | apply Keeps.foldl_snd
    | apply Keeps.foldl_snd3 | apply Keeps.foldl_fst | apply Keeps.ite_snd3 | apply Keeps.ite_fst | apply Keeps.ite_snd4
    | refine Keeps.of_snd (by assumption) ?_ | refine Keeps.of_snd3 (by assumption) ?_
    | refine Keeps.of_snd4 (by assumption) ?_ | refine Keeps.of_fst (by assumption) ?_ | split

theorem execWatchOnset_keeps {s₀ s : State} (h : Keeps s₀ s) : ∀ a, Keeps s₀ (afterExec (execWatchOnset a s) s) := by
  intro a
  unfold execWatchOnset afterExec
  repeat' with_reducible first
    | assumption | apply State.watchOnset_keeps | dsimp only

theorem execWatchUntrip_keeps {s₀ s : State} (h : Keeps s₀ s) : ∀ a, Keeps s₀ (afterExec (execWatchUntrip a s) s) := by
  intro a
  unfold execWatchUntrip afterExec
  repeat' with_reducible first
    | assumption | apply State.watchUntrip_keeps | dsimp only

theorem execDisagreeOnset_keeps {s₀ s : State} (h : Keeps s₀ s) :
    ∀ a b c, Keeps s₀ (afterExec (execDisagreeOnset a b c s) s) := by
  intro a b c
  unfold execDisagreeOnset afterExec
  repeat' with_reducible first
    | assumption | apply State.disagree_keeps | dsimp only

theorem execStimulusRound_keeps {s₀ s : State} (h : Keeps s₀ s) : Keeps s₀ (afterExec (execStimulusRound s) s) := by
  unfold execStimulusRound afterExec
  repeat' with_reducible first
    | assumption | apply State.stimRound_keeps | dsimp only

theorem execStimulusStep_keeps {s₀ s : State} (h : Keeps s₀ s) : ∀ a, Keeps s₀ (afterExec (execStimulusStep a s) s) := by
  intro a
  unfold execStimulusStep afterExec
  repeat' with_reducible first
    | assumption | apply State.stimStep_keeps | dsimp only

theorem execCellarSample_keeps {s₀ s : State} (h : Keeps s₀ s) : ∀ a, Keeps s₀ (afterExec (execCellarSample a s) s) := by
  intro a
  unfold execCellarSample afterExec
  repeat' with_reducible first
    | assumption | apply State.cellarSample_keeps | dsimp only

theorem State.rcClear_keeps {s₀ s : State} (h : Keeps s₀ s) : ∀ a b, Keeps s₀ (State.rcClear s a b) := by
  intro a b
  unfold State.rcClear
  repeat' with_reducible first
    | assumption | intro _ | apply State.wr_keeps | apply Keeps.foldl | dsimp only | apply Keeps.foldl_snd
    | apply Keeps.foldl_snd3 | apply Keeps.foldl_fst

theorem State.tbsSeen_keeps {s₀ s : State} (h : Keeps s₀ s) : ∀ a b, Keeps s₀ (State.tbsSeen s a b) := by
  intro a b
  unfold State.tbsSeen
  repeat' with_reducible first
    | assumption | apply Keeps.ite | apply State.wr_keeps | dsimp only | split

theorem State.devLoad_keeps {s₀ s : State} (h : Keeps s₀ s) : ∀ a b, Keeps s₀ (State.devLoad s a b) := by
  intro a b
  unfold State.devLoad
  repeat' with_reducible first
    | assumption | apply Keeps.ite | apply execQueuePop_keeps | apply execVltWinAccess_keeps | apply State.tbsSeen_keeps
    | apply State.rcClear_keeps | apply execTimeLatch_keeps | apply execHatchBodyAccess_keeps | apply State.loaded_keeps
    | apply execRngOutRead_keeps | dsimp only | split

theorem execRcRead_keeps {s₀ s : State} (h : Keeps s₀ s) : ∀ a b, Keeps s₀ (afterExec (execRcRead a b s) s) := by
  intro a b
  unfold execRcRead afterExec
  repeat' with_reducible first
    | assumption | intro _ | apply State.byCore_keeps | apply State.devLoad_keeps | dsimp only

theorem State.waitPut_keeps {s₀ s : State} (h : Keeps s₀ s) : ∀ a b c, Keeps s₀ (State.waitPut s a b c) := by
  intro a b c
  unfold State.waitPut
  repeat' with_reducible first
    | assumption | simp only [Keeps.mk_iff] | dsimp only

theorem State.waitMark_keeps {s₀ s : State} (h : Keeps s₀ s) : ∀ a b, Keeps s₀ (State.waitMark s a b) := by
  intro a b
  unfold State.waitMark
  repeat' with_reducible first
    | assumption | apply Keeps.ite | apply State.setb_keeps | dsimp only | split

theorem State.w1c_keeps {s₀ s : State} (h : Keeps s₀ s) : ∀ a b, Keeps s₀ (State.w1c s a b) := by
  intro a b
  unfold State.w1c
  repeat' with_reducible first
    | assumption | apply Keeps.ite | apply Keeps.ite_snd | apply State.wr_keeps | apply State.discClear_keeps | dsimp only
    | apply Keeps.ite_snd3 | apply Keeps.ite_fst | apply Keeps.ite_snd4 | refine Keeps.of_snd (by assumption) ?_
    | refine Keeps.of_snd3 (by assumption) ?_ | refine Keeps.of_snd4 (by assumption) ?_
    | refine Keeps.of_fst (by assumption) ?_ | split

theorem State.fieldPut_keeps {s₀ s : State} (h : Keeps s₀ s) : ∀ a b c, Keeps s₀ (State.fieldPut s a b c) := by
  intro a b c
  unfold State.fieldPut
  repeat' with_reducible first
    | assumption | apply Keeps.ite | apply State.w1c_keeps | apply State.waitMark_keeps | apply State.wr_keeps
    | apply State.waitPut_keeps | dsimp only | split

theorem State.fieldWrite_keeps {s₀ s : State} (h : Keeps s₀ s) : ∀ a b c, Keeps s₀ (State.fieldWrite s a b c) := by
  intro a b c
  unfold State.fieldWrite
  repeat' with_reducible first
    | assumption | apply State.wr_keeps | apply State.fieldPut_keeps | dsimp only | split

theorem State.plainWrite_keeps {s₀ s : State} (h : Keeps s₀ s) : ∀ a b c, Keeps s₀ (State.plainWrite s a b c) := by
  intro a b c
  unfold State.plainWrite
  repeat' with_reducible first
    | assumption | intro _ | apply Keeps.ite | apply State.fieldWrite_keeps | apply State.misuse_keeps | apply Keeps.foldl
    | dsimp only | apply Keeps.foldl_snd | apply Keeps.foldl_snd3 | apply Keeps.foldl_fst | split

theorem State.hatchCmd_keeps {s₀ s : State} (h : Keeps s₀ s) : ∀ a b c, Keeps s₀ (State.hatchCmd s a b c) := by
  intro a b c
  unfold State.hatchCmd
  repeat' with_reducible first
    | assumption | apply execClaim_keeps | apply execDone_keeps | apply execAbandon_keeps | apply execTake_keeps
    | apply execRing_keeps | dsimp only | split

theorem State.vltCmd_keeps {s₀ s : State} (h : Keeps s₀ s) : ∀ a b, Keeps s₀ (State.vltCmd s a b) := by
  intro a b
  unfold State.vltCmd
  repeat' with_reducible first
    | assumption | apply execVltLookup_keeps | apply execVltStore_keeps | apply execVltUndeny_keeps | apply execVltDeny_keeps
    | apply execVltClear_keeps | apply execVltZeroize_keeps | apply execVltUnany_keeps | apply execVltRevoke_keeps
    | apply execVltRead_keeps | apply execVltGenCmd_keeps | apply execVltRetire_keeps | dsimp only | split

theorem State.arcTcmd_keeps {s₀ s : State} (h : Keeps s₀ s) : ∀ a b, Keeps s₀ (State.arcTcmd s a b) := by
  intro a b
  unfold State.arcTcmd
  repeat' with_reducible first
    | assumption | apply execArcOpen_keeps | apply execArcTrim_keeps | apply execArcCtr_keeps | apply execArcCommit_keeps
    | apply execArcAbort_keeps | dsimp only | split

theorem State.queueCmd_keeps {s₀ s : State} (h : Keeps s₀ s) : ∀ a b c, Keeps s₀ (State.queueCmd s a b c) := by
  intro a b c
  unfold State.queueCmd
  repeat' with_reducible first
    | assumption | apply execMark_keeps | apply execFlush_keeps | apply execRewind_keeps | apply execRelease_keeps
    | dsimp only | split

theorem State.relayCmd_keeps {s₀ s : State} (h : Keeps s₀ s) : ∀ a b c, Keeps s₀ (State.relayCmd s a b c) := by
  intro a b c
  unfold State.relayCmd
  repeat' with_reducible first
    | assumption | apply execRlyAbort_keeps | apply execRlyOpen_keeps | apply execRlyFree_keeps | apply execRlyDropsrc_keeps
    | dsimp only | split

theorem State.cardCmd_keeps {s₀ s : State} (h : Keeps s₀ s) : ∀ a b c, Keeps s₀ (State.cardCmd s a b c) := by
  intro a b c
  unfold State.cardCmd
  repeat' with_reducible first
    | assumption | apply execDeactivate_keeps | apply execCardWarmReset_keeps | apply execActivate_keeps | dsimp only | split

theorem State.ringCmd_keeps {s₀ s : State} (h : Keeps s₀ s) : ∀ a b, Keeps s₀ (State.ringCmd s a b) := by
  intro a b
  unfold State.ringCmd
  repeat' with_reducible first
    | assumption | apply Keeps.ite | apply execRingConfig_keeps | apply State.plainWrite_keeps | dsimp only | split

theorem Keeps.ite_some {c : Prop} [Decidable c] {s₀ x t : State} {o : Option State} (e : (if c then some x else o) = some t)
    (k : Keeps s₀ x) (r : o = some t → Keeps s₀ t) : Keeps s₀ t := by
  split at e
  · cases e
    exact k
  · exact r e

theorem State.coreCommand_keeps {s₀ s t : State} {a b c} (h : Keeps s₀ s) (eq : State.coreCommand s a b c = some t) :
    Keeps s₀ t := by
  unfold State.coreCommand at eq
  refine Keeps.ite_some eq (execTickKick_keeps h _ _ _) fun eq => ?_
  refine Keeps.ite_some eq (execTickKick_keeps h _ _ _) fun eq => ?_
  refine Keeps.ite_some eq (execTickDone_keeps h _ _) fun eq => ?_
  refine Keeps.ite_some eq (State.cardCmd_keeps h _ _ _) fun eq => ?_
  refine Keeps.ite_some eq (State.queueCmd_keeps h _ _ _) fun eq => ?_
  refine Keeps.ite_some eq (execQueuePush_keeps h _ _ _) fun eq => ?_
  refine Keeps.ite_some eq (Keeps.ite (State.pkeGo_keeps h _) (Keeps.ite (execPkeAbort_keeps h _) h)) fun eq => ?_
  refine Keeps.ite_some eq (Keeps.ite (State.symGo_keeps h _) (Keeps.ite (execSymAbort_keeps h _) h)) fun eq => ?_
  refine Keeps.ite_some eq (State.vltCmd_keeps h _ _) fun eq => ?_
  refine Keeps.ite_some eq (execVltWinAccess_keeps h _ _) fun eq => ?_
  refine Keeps.ite_some eq (Keeps.ite (execCoreSearch_keeps h _ _) h) fun eq => ?_
  refine Keeps.ite_some eq (Keeps.ite (execStrWrite_keeps h _) (Keeps.ite (execStrInvalidate_keeps h _) h)) fun eq => ?_
  refine Keeps.ite_some eq (State.arcTcmd_keeps h _ _) fun eq => ?_
  refine Keeps.ite_some eq (execCounterIncrement_keeps h _ _) fun eq => ?_
  refine Keeps.ite_some eq (State.ringCmd_keeps h _ _) fun eq => ?_
  refine Keeps.ite_some eq (execParamSave_keeps h _ _) fun eq => ?_
  refine Keeps.ite_some eq (State.relayCmd_keeps h _ _ _) fun eq => ?_
  cases eq

theorem State.devStore_keeps {s₀ s : State} (h : Keeps s₀ s) : ∀ a b c, Keeps s₀ (State.devStore s a b c) := by
  intro a b c
  unfold State.devStore
  refine Keeps.ite (execHatchBodyAccess_keeps h _ _ _ _) (Keeps.ite (State.hatchCmd_keeps (State.plainWrite_keeps h _ _ _) _ _ _) ?_)
  split
  · rename_i k _
    rcases f : s.coreCommand k b c with _ | t
    · exact State.plainWrite_keeps h _ _ _
    · exact State.coreCommand_keeps h f
  · exact Keeps.ite (State.qCmdBy_keeps h _ _ _) (Keeps.ite (State.qPush_keeps h _ _ _) (State.plainWrite_keeps h _ _ _))

theorem State.core_keeps {s₀ s : State} (h : Keeps s₀ s) : ∀ a b, Keeps s₀ (State.core s a b) := by
  intro a b
  unfold State.core
  repeat' with_reducible first
    | assumption | simp only [Keeps.mk_iff] | dsimp only

theorem State.trap_keeps {s₀ s : State} (h : Keeps s₀ s) : ∀ a b c, Keeps s₀ (State.trap s a b c) := by
  intro a b c
  unfold State.trap
  repeat' with_reducible first
    | assumption | apply State.core_keeps | dsimp only

theorem State.instr_keeps {s₀ s : State} (h : Keeps s₀ s) :
    ∀ a b c, (∀ x0, Keeps s₀ x0 → Keeps s₀ (c x0)) → Keeps s₀ (State.instr s a b c) := by
  intro a b c
  intro hf
  unfold State.instr
  repeat' with_reducible first
    | assumption | intro _ | apply Keeps.ite | apply_assumption | apply State.core_keeps | dsimp only | split

theorem State.retire_keeps {s₀ s : State} (h : Keeps s₀ s) : ∀ a, Keeps s₀ (State.retire s a) := by
  intro a
  unfold State.retire
  repeat' with_reducible first
    | assumption | apply State.core_keeps | dsimp only

theorem State.toReg_keeps {s₀ s : State} (h : Keeps s₀ s) : ∀ a b, Keeps s₀ (State.toReg s a b) := by
  intro a b
  unfold State.toReg
  repeat' with_reducible first
    | assumption | apply State.core_keeps | dsimp only

theorem State.reads_keeps {s₀ s : State} (h : Keeps s₀ s) : ∀ a b c, Keeps s₀ (State.reads s a b c) := by
  intro a b c
  unfold State.reads
  repeat' with_reducible first
    | assumption | apply State.retire_keeps | apply State.toReg_keeps | apply State.loaded_keeps | dsimp only

theorem State.bankRead_keeps {s₀ s : State} (h : Keeps s₀ s) : ∀ a, Keeps s₀ (State.bankRead s a) := by
  intro a
  unfold State.bankRead
  repeat' with_reducible first
    | assumption | apply Keeps.ite | apply State.eraseSuspend_keeps | apply State.progDone_keeps | apply State.eraseDone_keeps
    | dsimp only | split

theorem State.windowWait_keeps {s₀ s : State} (h : Keeps s₀ s) : ∀ a, Keeps s₀ (State.windowWait s a) := by
  intro a
  unfold State.windowWait
  repeat' with_reducible first
    | assumption | apply State.bankRead_keeps | dsimp only | split

theorem State.lineFill_keeps {s₀ s : State} (h : Keeps s₀ s) : ∀ a b, Keeps s₀ (State.lineFill s a b) := by
  intro a b
  unfold State.lineFill
  repeat' with_reducible first
    | assumption | apply Keeps.ite | apply Keeps.ite_snd | apply State.core_keeps | apply State.choose_keeps | dsimp only
    | apply Keeps.ite_snd3 | apply Keeps.ite_fst | apply Keeps.ite_snd4 | refine Keeps.of_snd (by assumption) ?_
    | refine Keeps.of_snd3 (by assumption) ?_ | refine Keeps.of_snd4 (by assumption) ?_
    | refine Keeps.of_fst (by assumption) ?_ | split

theorem State.sramCorr_keeps {s₀ s : State} (h : Keeps s₀ s) : ∀ a, Keeps s₀ (State.sramCorr s a) := by
  intro a
  unfold State.sramCorr
  repeat' with_reducible first
    | assumption | apply State.tele_keeps | apply State.bump_keeps | dsimp only

theorem State.normLoad_keeps {s₀ s : State} (h : Keeps s₀ s) : ∀ a b c d, Keeps s₀ (State.normLoad s a b c d).1 := by
  intro a b c d
  unfold State.normLoad
  repeat' with_reducible first
    | assumption | apply Keeps.ite | apply Keeps.ite_snd | apply State.lineFill_keeps | apply State.windowWait_keeps
    | dsimp only | apply Keeps.ite_snd3 | apply Keeps.ite_fst | apply Keeps.ite_snd4 | refine Keeps.of_snd (by assumption) ?_
    | refine Keeps.of_snd3 (by assumption) ?_ | refine Keeps.of_snd4 (by assumption) ?_
    | refine Keeps.of_fst (by assumption) ?_ | split

theorem State.loadUncorr_keeps {s₀ s : State} (h : Keeps s₀ s) : ∀ a b, Keeps s₀ (State.loadUncorr s a b) := by
  intro a b
  unfold State.loadUncorr
  repeat' with_reducible first
    | assumption | apply State.eccUncorr_keeps | apply State.arcUncorr_keeps | apply State.ldrUncorr_keeps | dsimp only
    | split

theorem State.loadCorr_keeps {s₀ s : State} (h : Keeps s₀ s) : ∀ a b c, Keeps s₀ (State.loadCorr s a b c) := by
  intro a b c
  unfold State.loadCorr
  repeat' with_reducible first
    | assumption | apply State.sramCorr_keeps | apply State.arcCorr_keeps | apply State.ldrCorr_keeps | dsimp only | split

theorem State.strongLoad_keeps {s₀ s : State} (h : Keeps s₀ s) : ∀ a b c d e f, Keeps s₀ (State.strongLoad s a b c d e f) := by
  intro a b c d e f
  unfold State.strongLoad
  repeat' with_reducible first
    | assumption | apply Keeps.ite | apply State.retire_keeps | apply State.reads_keeps | apply State.toReg_keeps
    | apply State.devLoad_keeps | apply State.trap_keeps | dsimp only | split

theorem State.coreLoad_keeps {s₀ s : State} (h : Keeps s₀ s) : ∀ a b c d e f, Keeps s₀ (State.coreLoad s a b c d e f) := by
  intro a b c d e f
  unfold State.coreLoad
  repeat' with_reducible first
    | assumption | apply Keeps.ite | apply Keeps.ite_snd | apply State.normLoad_keeps | apply State.loadCorr_keeps
    | apply State.reads_keeps | apply State.strongLoad_keeps | apply State.loadUncorr_keeps | apply State.strongIssue_keeps
    | apply State.trap_keeps | dsimp only | apply Keeps.ite_snd3 | apply Keeps.ite_fst | apply Keeps.ite_snd4
    | refine Keeps.of_snd (by assumption) ?_ | refine Keeps.of_snd3 (by assumption) ?_
    | refine Keeps.of_snd4 (by assumption) ?_ | refine Keeps.of_fst (by assumption) ?_ | split

theorem State.strongStore_keeps {s₀ s : State} (h : Keeps s₀ s) : ∀ a b c d e, Keeps s₀ (State.strongStore s a b c d e) := by
  intro a b c d e
  unfold State.strongStore
  repeat' with_reducible first
    | assumption | apply Keeps.ite | apply State.retire_keeps | apply State.devStore_keeps | apply State.shelfStore_keeps
    | apply State.larderStore_keeps | apply State.misuse_keeps | apply State.trap_keeps | dsimp only | split

theorem State.coreStore_keeps {s₀ s : State} (h : Keeps s₀ s) : ∀ a b c d, Keeps s₀ (State.coreStore s a b c d) := by
  intro a b c d
  unfold State.coreStore
  repeat' with_reducible first
    | assumption | apply Keeps.ite | apply Keeps.ite_snd | apply State.retire_keeps | apply State.core_keeps
    | apply State.strongIssue_keeps | apply State.trap_keeps | apply State.strongStore_keeps | dsimp only
    | apply Keeps.ite_snd3 | apply Keeps.ite_fst | apply Keeps.ite_snd4 | refine Keeps.of_snd (by assumption) ?_
    | refine Keeps.of_snd3 (by assumption) ?_ | refine Keeps.of_snd4 (by assumption) ?_
    | refine Keeps.of_fst (by assumption) ?_ | split

theorem State.sbStep_keeps {s₀ s : State} (h : Keeps s₀ s) : ∀ a, Keeps s₀ (State.sbStep s a) := by
  intro a
  unfold State.sbStep
  repeat' with_reducible first
    | assumption | apply Keeps.ite | apply State.core_keeps | apply State.sramStore_keeps | dsimp only | split

theorem State.fence_keeps {s₀ s : State} (h : Keeps s₀ s) : ∀ a b c, Keeps s₀ (State.fence s a b c) := by
  intro a b c
  unfold State.fence
  repeat' with_reducible first
    | assumption | apply Keeps.ite | apply State.lineDrop_keeps | apply State.sbDrain_keeps | dsimp only | split

theorem State.fenceI_keeps {s₀ s : State} (h : Keeps s₀ s) : ∀ a, Keeps s₀ (State.fenceI s a) := by
  intro a
  unfold State.fenceI
  repeat' with_reducible first
    | assumption | apply State.core_keeps | apply State.sbDrain_keeps | dsimp only

theorem State.ordered_keeps {s₀ s : State} (h : Keeps s₀ s) : ∀ a b, Keeps s₀ (State.ordered s a b) := by
  intro a b
  unfold State.ordered
  repeat' with_reducible first
    | assumption | apply Keeps.ite | apply State.fence_keeps | dsimp only | split

theorem State.lr_keeps {s₀ s : State} (h : Keeps s₀ s) : ∀ a b c d e f, Keeps s₀ (State.lr s a b c d e f) := by
  intro a b c d e f
  unfold State.lr
  repeat' with_reducible first
    | assumption | apply Keeps.ite | apply Keeps.ite_snd | apply State.normLoad_keeps | apply State.core_keeps
    | apply State.sramCorr_keeps | apply State.reads_keeps | apply State.eccUncorr_keeps | apply State.ordered_keeps
    | apply State.trap_keeps | dsimp only | apply Keeps.ite_snd3 | apply Keeps.ite_fst | apply Keeps.ite_snd4
    | refine Keeps.of_snd (by assumption) ?_ | refine Keeps.of_snd3 (by assumption) ?_
    | refine Keeps.of_snd4 (by assumption) ?_ | refine Keeps.of_fst (by assumption) ?_ | split

theorem State.sc_keeps {s₀ s : State} (h : Keeps s₀ s) : ∀ a b c d e f, Keeps s₀ (State.sc s a b c d e f) := by
  intro a b c d e f
  unfold State.sc
  repeat' with_reducible first
    | assumption | apply Keeps.ite | apply State.core_keeps | apply State.reads_keeps | apply State.ordered_keeps
    | apply State.sbDrain_keeps | apply State.sramStore_keeps | apply State.trap_keeps | dsimp only | split

theorem State.amo_keeps {s₀ s : State} (h : Keeps s₀ s) : ∀ a b c d e f g i, Keeps s₀ (State.amo s a b c d e f g i) := by
  intro a b c d e f g i
  unfold State.amo
  repeat' with_reducible first
    | assumption | apply Keeps.ite | apply State.sramCorr_keeps | apply State.reads_keeps | apply State.eccUncorr_keeps
    | apply State.ordered_keeps | apply State.sbDrain_keeps | apply State.sramStore_keeps | apply State.trap_keeps
    | dsimp only | split

theorem State.wfi_keeps {s₀ s : State} (h : Keeps s₀ s) : ∀ a, Keeps s₀ (State.wfi s a) := by
  intro a
  unfold State.wfi
  repeat' with_reducible first
    | assumption | apply State.retire_keeps | apply State.core_keeps | dsimp only

theorem State.intrTrap_keeps {s₀ s : State} (h : Keeps s₀ s) : ∀ a, Keeps s₀ (State.intrTrap s a) := by
  intro a
  unfold State.intrTrap
  repeat' with_reducible first
    | assumption | apply Keeps.ite | apply State.core_keeps | dsimp only | split

theorem execCoreLoad_keeps {s₀ s : State} (h : Keeps s₀ s) :
    ∀ a b c d e f, Keeps s₀ (afterExec (execCoreLoad a b c d e f s) s) := by
  intro a b c d e f
  unfold execCoreLoad afterExec
  repeat' with_reducible first
    | assumption | intro _ | apply State.instr_keeps | apply State.coreLoad_keeps | dsimp only

theorem execCoreStore_keeps {s₀ s : State} (h : Keeps s₀ s) :
    ∀ a b c d e, Keeps s₀ (afterExec (execCoreStore a b c d e s) s) := by
  intro a b c d e
  unfold execCoreStore afterExec
  repeat' with_reducible first
    | assumption | intro _ | apply State.coreStore_keeps | apply State.instr_keeps | dsimp only

theorem execStoreBufferDrain_keeps {s₀ s : State} (h : Keeps s₀ s) :
    ∀ a, Keeps s₀ (afterExec (execStoreBufferDrain a s) s) := by
  intro a
  unfold execStoreBufferDrain afterExec
  repeat' with_reducible first
    | assumption | apply State.sbStep_keeps | dsimp only

theorem execFence_keeps {s₀ s : State} (h : Keeps s₀ s) : ∀ a b c, Keeps s₀ (afterExec (execFence a b c s) s) := by
  intro a b c
  unfold execFence afterExec
  repeat' with_reducible first
    | assumption | intro _ | apply State.retire_keeps | apply State.fence_keeps | apply State.instr_keeps | dsimp only

theorem execFenceI_keeps {s₀ s : State} (h : Keeps s₀ s) : ∀ a b, Keeps s₀ (afterExec (execFenceI a b s) s) := by
  intro a b
  unfold execFenceI afterExec
  repeat' with_reducible first
    | assumption | intro _ | apply State.retire_keeps | apply State.fenceI_keeps | apply State.instr_keeps | dsimp only

theorem execLr_keeps {s₀ s : State} (h : Keeps s₀ s) : ∀ a b c d e f, Keeps s₀ (afterExec (execLr a b c d e f s) s) := by
  intro a b c d e f
  unfold execLr afterExec
  repeat' with_reducible first
    | assumption | intro _ | apply State.instr_keeps | apply State.lr_keeps | dsimp only

theorem execSc_keeps {s₀ s : State} (h : Keeps s₀ s) : ∀ a b c d e f, Keeps s₀ (afterExec (execSc a b c d e f s) s) := by
  intro a b c d e f
  unfold execSc afterExec
  repeat' with_reducible first
    | assumption | intro _ | apply State.sc_keeps | apply State.instr_keeps | dsimp only

theorem execAmo_keeps {s₀ s : State} (h : Keeps s₀ s) :
    ∀ a b c d e f g i, Keeps s₀ (afterExec (execAmo a b c d e f g i s) s) := by
  intro a b c d e f g i
  unfold execAmo afterExec
  repeat' with_reducible first
    | assumption | intro _ | apply State.amo_keeps | apply State.instr_keeps | dsimp only

theorem execWfi_keeps {s₀ s : State} (h : Keeps s₀ s) : ∀ a b, Keeps s₀ (afterExec (execWfi a b s) s) := by
  intro a b
  unfold execWfi afterExec
  repeat' with_reducible first
    | assumption | intro _ | apply State.instr_keeps | apply State.wfi_keeps | dsimp only

theorem execInterruptTrap_keeps {s₀ s : State} (h : Keeps s₀ s) : ∀ a b, Keeps s₀ (afterExec (execInterruptTrap a b s) s) := by
  intro a b
  unfold execInterruptTrap afterExec
  repeat' with_reducible first
    | assumption | intro _ | apply State.intrTrap_keeps | apply State.instr_keeps | dsimp only

theorem State.wdKick_keeps {s₀ s : State} (h : Keeps s₀ s) : ∀ a, Keeps s₀ (State.wdKick s a) := by
  intro a
  unfold State.wdKick
  repeat' with_reducible first
    | assumption | apply State.core_keeps | apply State.wr_keeps | dsimp only

theorem State.kickWrite_keeps {s₀ s : State} (h : Keeps s₀ s) : ∀ a b, Keeps s₀ (State.kickWrite s a b) := by
  intro a b
  unfold State.kickWrite
  repeat' with_reducible first
    | assumption | apply Keeps.ite | apply State.wdKick_keeps | dsimp only | split

theorem State.ipendClear_keeps {s₀ s : State} (h : Keeps s₀ s) : ∀ a b, Keeps s₀ (State.ipendClear s a b) := by
  intro a b
  unfold State.ipendClear
  repeat' with_reducible first
    | assumption | intro _ | apply Keeps.ite | apply State.wr_keeps | apply Keeps.foldl | dsimp only | apply Keeps.foldl_snd
    | apply Keeps.foldl_snd3 | apply Keeps.foldl_fst | split

theorem State.ilvlWrite_keeps {s₀ s : State} (h : Keeps s₀ s) : ∀ a b c, Keeps s₀ (State.ilvlWrite s a b c) := by
  intro a b c
  unfold State.ilvlWrite
  repeat' with_reducible first
    | assumption | apply State.wrs_keeps | dsimp only | refine Keeps.of_snd (by assumption) ?_
    | refine Keeps.of_snd3 (by assumption) ?_ | refine Keeps.of_snd4 (by assumption) ?_
    | refine Keeps.of_fst (by assumption) ?_

theorem State.csrPut_keeps {s₀ s : State} (h : Keeps s₀ s) : ∀ a b c, Keeps s₀ (State.csrPut s a b c) := by
  intro a b c
  unfold State.csrPut
  repeat' with_reducible first
    | assumption | apply Keeps.ite | apply State.core_keeps | apply State.ilvlWrite_keeps | apply State.wr_keeps
    | apply State.kickWrite_keeps | apply State.ipendClear_keeps | dsimp only | split

theorem State.csrWrite_keeps {s₀ s : State} (h : Keeps s₀ s) : ∀ a b c d, Keeps s₀ (State.csrWrite s a b c d) := by
  intro a b c d
  unfold State.csrWrite
  repeat' with_reducible first
    | assumption | apply Keeps.ite | apply State.reads_keeps | apply State.toReg_keeps | apply State.loaded_keeps
    | apply State.trap_keeps | apply State.csrPut_keeps | dsimp only | split

theorem State.wdHalf_keeps {s₀ s : State} (h : Keeps s₀ s) : ∀ a, Keeps s₀ (State.wdHalf s a) := by
  intro a
  unfold State.wdHalf
  repeat' with_reducible first
    | assumption | apply Keeps.ite | apply State.ipend_keeps | dsimp only | split

theorem State.wdExpire_keeps {s₀ s : State} (h : Keeps s₀ s) : ∀ a, Keeps s₀ (State.wdExpire s a) := by
  intro a
  unfold State.wdExpire
  repeat' with_reducible first
    | assumption | apply Keeps.ite | apply State.enterReset_keeps | dsimp only | split

theorem execRegisterWrite_keeps {s₀ s : State} (h : Keeps s₀ s) :
    ∀ a b c, Keeps s₀ (afterExec (execRegisterWrite a b c s) s) := by
  intro a b c
  unfold execRegisterWrite afterExec
  repeat' with_reducible first
    | assumption | intro _ | apply Keeps.ite | apply State.devStore_keeps | apply State.csrWrite_keeps
    | apply State.coreWake_keeps | apply State.byAgent_keeps | dsimp only | split

theorem execWatchdogKick_keeps {s₀ s : State} (h : Keeps s₀ s) : ∀ a b, Keeps s₀ (afterExec (execWatchdogKick a b s) s) := by
  intro a b
  unfold execWatchdogKick afterExec
  repeat' with_reducible first
    | assumption | apply Keeps.ite | apply State.csrWrite_keeps | apply State.coreWake_keeps | dsimp only | split

theorem execWatchdogHalf_keeps {s₀ s : State} (h : Keeps s₀ s) : ∀ a, Keeps s₀ (afterExec (execWatchdogHalf a s) s) := by
  intro a
  unfold execWatchdogHalf afterExec
  repeat' with_reducible first
    | assumption | apply State.wdHalf_keeps | dsimp only

theorem execCoreWatchdogExpiry_keeps {s₀ s : State} (h : Keeps s₀ s) :
    ∀ a, Keeps s₀ (afterExec (execCoreWatchdogExpiry a s) s) := by
  intro a
  unfold execCoreWatchdogExpiry afterExec
  repeat' with_reducible first
    | assumption | apply State.wdExpire_keeps | dsimp only

end Sys2Proof.Machine
end

