-- ==== Sys2Proof/Laws/Keeps7.lean ====
section
/-!
SUPPORT. Keeps7.lean: the operations of Tick.lean, Power.lean, Replies.lean, Report.lean, Auth.lean keep the queue of
commands, the canonical form of the memory and the blown fuses (Laws/Keeps.lean). A lemma of a command's meaning speaks of the
state after it.
-/
namespace Sys2Proof.Machine

theorem State.commitTo_keeps {s₀ s : State} (h : Keeps s₀ s) : ∀ a, Keeps s₀ (State.commitTo s a) := by
  intro a
  unfold State.commitTo
  repeat' with_reducible first
    | assumption | simp only [Keeps.mk_iff] | dsimp only | split

theorem State.puts_keeps {s₀ s : State} (h : Keeps s₀ s) : ∀ a, Keeps s₀ (State.puts s a) := by
  intro a
  unfold State.puts
  repeat' with_reducible first
    | assumption | apply State.wrs_keeps | dsimp only | refine Keeps.of_snd (by assumption) ?_
    | refine Keeps.of_snd3 (by assumption) ?_ | refine Keeps.of_snd4 (by assumption) ?_
    | refine Keeps.of_fst (by assumption) ?_

theorem State.commitCfg_keeps {s₀ s : State} (h : Keeps s₀ s) : ∀ a b c, Keeps s₀ (State.commitCfg s a b c) := by
  intro a b c
  unfold State.commitCfg
  repeat' with_reducible first
    | assumption | apply Keeps.ite | apply State.commitTo_keeps | apply State.paramAuto_keeps | dsimp only | split

theorem State.cfgJudge_keeps {s₀ s : State} (h : Keeps s₀ s) : ∀ a b, Keeps s₀ (State.cfgJudge s a b) := by
  intro a b
  unfold State.cfgJudge
  repeat' with_reducible first
    | assumption | apply Keeps.ite | apply Keeps.ite_snd | apply State.commitCfg_keeps | apply State.setb_keeps
    | apply State.wrs_keeps | dsimp only | apply Keeps.ite_snd3 | apply Keeps.ite_fst | apply Keeps.ite_snd4
    | refine Keeps.of_snd (by assumption) ?_ | refine Keeps.of_snd3 (by assumption) ?_
    | refine Keeps.of_snd4 (by assumption) ?_ | refine Keeps.of_fst (by assumption) ?_ | split

theorem State.commitTickCfg_keeps {s₀ s : State} (h : Keeps s₀ s) : ∀ a, Keeps s₀ (State.commitTickCfg s a) := by
  intro a
  unfold State.commitTickCfg
  repeat' with_reducible first
    | assumption | simp only [Keeps.mk_iff] | apply Keeps.ite | apply Keeps.ite_snd | apply State.cfgJudge_keeps
    | apply State.wr_keeps | apply State.setb_keeps | dsimp only | apply Keeps.ite_snd3 | apply Keeps.ite_fst
    | apply Keeps.ite_snd4 | refine Keeps.of_snd (by assumption) ?_ | refine Keeps.of_snd3 (by assumption) ?_
    | refine Keeps.of_snd4 (by assumption) ?_ | refine Keeps.of_fst (by assumption) ?_ | split

theorem State.commitJobs_keeps {s₀ s : State} (h : Keeps s₀ s) : ∀ a, Keeps s₀ (State.commitJobs s a) := by
  intro a
  unfold State.commitJobs
  repeat' with_reducible first
    | assumption | apply Keeps.ite | apply State.puts_keeps | apply State.setb_keeps | dsimp only | split

theorem State.commitQueues_keeps {s₀ s : State} (h : Keeps s₀ s) : ∀ a, Keeps s₀ (State.commitQueues s a) := by
  intro a
  unfold State.commitQueues
  repeat' with_reducible first
    | assumption | apply Keeps.ite | apply State.puts_keeps | apply State.qfxCommit_keeps | dsimp only | split

theorem State.rulesMove_keeps {s₀ s : State} (h : Keeps s₀ s) : ∀ a, Keeps s₀ (State.rulesMove s a) := by
  intro a
  unfold State.rulesMove
  repeat' with_reducible first
    | assumption | simp only [Keeps.mk_iff] | apply State.strImage_keeps | dsimp only | refine Keeps.of_snd (by assumption) ?_
    | refine Keeps.of_snd3 (by assumption) ?_ | refine Keeps.of_snd4 (by assumption) ?_
    | refine Keeps.of_fst (by assumption) ?_

theorem State.commitSizes_keeps {s₀ s : State} (h : Keeps s₀ s) : ∀ a, Keeps s₀ (State.commitSizes s a) := by
  intro a
  unfold State.commitSizes
  repeat' with_reducible first
    | assumption | apply Keeps.ite | apply State.puts_keeps | apply State.setb_keeps | apply State.rulesMove_keeps
    | apply State.commitTo_keeps | dsimp only | split

theorem State.commitAreas_keeps {s₀ s : State} (h : Keeps s₀ s) : ∀ a, Keeps s₀ (State.commitAreas s a) := by
  intro a
  unfold State.commitAreas
  repeat' with_reducible first
    | assumption | intro _ | apply Keeps.ite | apply State.areaJudge_keeps | apply State.puts_keeps | apply Keeps.foldl
    | dsimp only | apply Keeps.foldl_snd | apply Keeps.foldl_snd3 | apply Keeps.foldl_fst | split

theorem State.commitFloors_keeps {s₀ s : State} (h : Keeps s₀ s) : ∀ a, Keeps s₀ (State.commitFloors s a) := by
  intro a
  unfold State.commitFloors
  repeat' with_reducible first
    | assumption | intro _ | apply Keeps.ite | apply State.wr_keeps | apply Keeps.foldl | dsimp only | apply Keeps.foldl_snd
    | apply Keeps.foldl_snd3 | apply Keeps.foldl_fst | split

theorem State.commitPort_keeps {s₀ s : State} (h : Keeps s₀ s) : ∀ a b, Keeps s₀ (State.commitPort a s b) := by
  intro a b
  unfold State.commitPort
  repeat' with_reducible first
    | assumption | apply Keeps.ite | apply State.portCommit_keeps | apply State.commitTo_keeps | apply State.wrs_keeps
    | dsimp only | split

theorem State.commitPorts_keeps {s₀ s : State} (h : Keeps s₀ s) : ∀ a, Keeps s₀ (State.commitPorts s a) := by
  intro a
  unfold State.commitPorts
  repeat' with_reducible first
    | assumption | intro _ | apply Keeps.ite | apply State.commitPort_keeps | apply State.paramAuto_keeps | apply Keeps.foldl
    | dsimp only | apply Keeps.foldl_snd | apply Keeps.foldl_snd3 | apply Keeps.foldl_fst | split

theorem State.commitArm_keeps {s₀ s : State} (h : Keeps s₀ s) : ∀ a, Keeps s₀ (State.commitArm s a) := by
  intro a
  unfold State.commitArm
  repeat' with_reducible first
    | assumption | apply Keeps.ite | apply State.srcUntrip_keeps | apply State.wr_keeps | apply State.armShow_keeps
    | dsimp only | split

theorem State.commitCx_keeps {s₀ s : State} (h : Keeps s₀ s) : ∀ a, Keeps s₀ (State.commitCx s a) := by
  intro a
  unfold State.commitCx
  repeat' with_reducible first
    | assumption | intro _ | apply Keeps.ite | apply State.puts_keeps | apply State.cxGo_keeps | apply Keeps.foldl
    | dsimp only | apply Keeps.foldl_snd | apply Keeps.foldl_snd3 | apply Keeps.foldl_fst | split

theorem State.keyMove_keeps {s₀ s : State} (h : Keeps s₀ s) : ∀ a b, Keeps s₀ (State.keyMove s a b) := by
  intro a b
  unfold State.keyMove
  repeat' with_reducible first
    | assumption | apply Keeps.ite | apply State.vQueue_keeps | dsimp only | split

theorem State.keyIssue_keeps {s₀ s : State} (h : Keeps s₀ s) : ∀ a, Keeps s₀ (State.keyIssue s a) := by
  intro a
  unfold State.keyIssue
  repeat' with_reducible first
    | assumption | simp only [Keeps.mk_iff] | apply Keeps.ite | apply State.keyMove_keeps | apply State.vQueue_keeps
    | apply State.commitTo_keeps | dsimp only | split

theorem State.commitRest_keeps {s₀ s : State} (h : Keeps s₀ s) (a) : Keeps s₀ (State.commitRest a s) := by
  unfold State.commitRest
  generalize s.commitVerb = o
  cases o with
  | none => exact h
  | some v =>
    cases v
    case keyWrite => exact State.keyIssue_keeps h _
    case keyGen => exact State.keyIssue_keeps h _
    case keyRetire => exact State.keyIssue_keeps h _
    case keyRevoke => exact State.keyIssue_keeps h _
    case calK => exact State.commitTo_keeps (State.paramAuto_keeps (State.timeRec_keeps h _ _) _) _
    case watchArm => exact Keeps.ite (State.commitTo_keeps (State.paramAuto_keeps h _) _) (State.commitTo_keeps h _)
    case countRing => exact Keeps.ite (State.commitTo_keeps (State.ringSet_keeps h _ _) _) (State.commitTo_keeps h _)
    all_goals first
      | exact h
      | (refine State.commitTo_keeps ?_ _; first | exact h | exact State.paramAuto_keeps h _)

theorem State.commitVlt_keeps {s₀ s : State} (h : Keeps s₀ s) : ∀ a, Keeps s₀ (State.commitVlt s a) := by
  intro a
  unfold State.commitVlt
  repeat' with_reducible first
    | assumption | intro _ | apply Keeps.ite | apply Keeps.ite_snd | apply State.winAccess_keeps | apply State.vCmd_keeps
    | apply State.wrs_keeps | apply Keeps.foldl | dsimp only | apply Keeps.foldl_snd | apply Keeps.foldl_snd3
    | apply Keeps.foldl_fst | apply Keeps.ite_snd3 | apply Keeps.ite_fst | apply Keeps.ite_snd4
    | refine Keeps.of_snd (by assumption) ?_ | refine Keeps.of_snd3 (by assumption) ?_
    | refine Keeps.of_snd4 (by assumption) ?_ | refine Keeps.of_fst (by assumption) ?_ | split

theorem State.commitAll_keeps {s₀ s : State} (h : Keeps s₀ s) : Keeps s₀ (State.commitAll s) := by
  unfold State.commitAll
  repeat' with_reducible first
    | assumption | intro _ | simp only [Keeps.mk_iff] | apply State.puts_keeps | apply State.commitQueues_keeps
    | apply State.commitPorts_keeps | apply State.commitAreas_keeps | apply State.shelfLenCommit_keeps
    | apply State.commitRest_keeps | apply State.commitCx_keeps | apply State.commitJobs_keeps | apply State.commitArm_keeps
    | apply State.commitFloors_keeps | apply State.commitSizes_keeps | apply State.commitVlt_keeps
    | apply State.commitTickCfg_keeps | apply Keeps.foldl | dsimp only | apply Keeps.foldl_snd | apply Keeps.foldl_snd3
    | apply Keeps.foldl_fst

theorem State.holdEnter_keeps {s₀ s : State} (h : Keeps s₀ s) : Keeps s₀ (State.holdEnter s) := by
  unfold State.holdEnter
  repeat' with_reducible first
    | assumption | apply State.pendDiscard_keeps | apply State.jobCancelAll_keeps | apply State.strProgress_keeps
    | apply State.modeEnter_keeps | apply State.enginesEnd_keeps | dsimp only

theorem State.holdLeave_keeps {s₀ s : State} (h : Keeps s₀ s) : Keeps s₀ (State.holdLeave s) := by
  unfold State.holdLeave
  repeat' with_reducible first
    | assumption | simp only [Keeps.mk_iff] | apply Keeps.ite | apply State.modeEnter_keeps | dsimp only | split

theorem State.sessionEnters_keeps {s₀ s : State} (h : Keeps s₀ s) : ∀ a, Keeps s₀ (State.sessionEnters s a) := by
  intro a
  unfold State.sessionEnters
  repeat' with_reducible first
    | assumption | simp only [Keeps.mk_iff] | apply Keeps.ite | dsimp only | split

theorem State.pendTake_keeps {s₀ s : State} (h : Keeps s₀ s) : ∀ a, Keeps s₀ (State.pendTake s a) := by
  intro a
  unfold State.pendTake
  repeat' with_reducible first
    | assumption | simp only [Keeps.mk_iff] | apply Keeps.ite | apply State.sessionEnters_keeps | apply State.modeAck_keeps
    | apply State.modeEnter_keeps | apply State.commitTo_keeps | dsimp only | split

theorem State.holdEvents_keeps {s₀ s : State} (h : Keeps s₀ s) : Keeps s₀ (State.holdEvents s) := by
  unfold State.holdEvents
  repeat' with_reducible first
    | assumption | simp only [Keeps.mk_iff] | apply Keeps.ite | dsimp only | split

theorem State.modeStep_keeps {s₀ s : State} (h : Keeps s₀ s) : Keeps s₀ (State.modeStep s) := by
  unfold State.modeStep
  repeat' with_reducible first
    | assumption | apply Keeps.ite | apply State.holdEnter_keeps | apply State.holdEvents_keeps | apply State.holdLeave_keeps
    | apply State.pendTake_keeps | dsimp only | split

theorem State.relockStep_keeps {s₀ s : State} (h : Keeps s₀ s) : Keeps s₀ (State.relockStep s) := by
  unfold State.relockStep
  repeat' with_reducible first
    | assumption | simp only [Keeps.mk_iff, Keeps.mkSi_iff] | apply Keeps.ite | apply Keeps.ite_snd | apply State.wrs_keeps
    | dsimp only | apply Keeps.ite_snd3 | apply Keeps.ite_fst | apply Keeps.ite_snd4 | refine Keeps.of_snd (by assumption) ?_
    | refine Keeps.of_snd3 (by assumption) ?_ | refine Keeps.of_snd4 (by assumption) ?_
    | refine Keeps.of_fst (by assumption) ?_ | split

theorem State.edgesDown_keeps {s₀ s : State} (h : Keeps s₀ s) : Keeps s₀ (State.edgesDown s) := by
  unfold State.edgesDown
  repeat' with_reducible first
    | assumption | simp only [Keeps.mk_iff] | dsimp only

theorem State.coreTicks_keeps {s₀ s : State} (h : Keeps s₀ s) : ∀ a, Keeps s₀ (State.coreTicks s a) := by
  intro a
  unfold State.coreTicks
  repeat' with_reducible first
    | assumption | intro _ | simp only [Keeps.mk_iff] | apply Keeps.ite | apply State.bump_keeps | apply Keeps.foldl
    | dsimp only | apply Keeps.foldl_snd | apply Keeps.foldl_snd3 | apply Keeps.foldl_fst | split

theorem State.readEnv_keeps {s₀ s : State} (h : Keeps s₀ s) : ∀ a, Keeps s₀ (State.readEnv s a) := by
  intro a
  unfold State.readEnv
  repeat' with_reducible first
    | assumption | simp only [Keeps.mk_iff, Keeps.mkSi_iff] | apply State.wrs_keeps | dsimp only
    | refine Keeps.of_snd (by assumption) ?_ | refine Keeps.of_snd3 (by assumption) ?_
    | refine Keeps.of_snd4 (by assumption) ?_ | refine Keeps.of_fst (by assumption) ?_

theorem State.cellarCopy_keeps {s₀ s : State} (h : Keeps s₀ s) : Keeps s₀ (State.cellarCopy s) := by
  unfold State.cellarCopy
  repeat' with_reducible first
    | assumption | simp only [Keeps.mk_iff] | apply State.cellarPorts_keeps | dsimp only

theorem State.timeStep_keeps {s₀ s : State} (h : Keeps s₀ s) : ∀ a, Keeps s₀ (State.timeStep s a) := by
  intro a
  unfold State.timeStep
  repeat' with_reducible first
    | assumption | simp only [Keeps.mk_iff] | apply Keeps.ite | apply State.rtcSlave_keeps | dsimp only | split

theorem State.frameStep_keeps {s₀ s : State} (h : Keeps s₀ s) : ∀ a, Keeps s₀ (State.frameStep s a) := by
  intro a
  unfold State.frameStep
  repeat' with_reducible first
    | assumption | simp only [Keeps.mk_iff] | apply Keeps.ite | apply State.raCancel_keeps | apply State.wr_keeps | dsimp only
    | split

theorem State.harvest_keeps {s₀ s : State} (h : Keeps s₀ s) : ∀ a, Keeps s₀ (State.harvest s a) := by
  intro a
  unfold State.harvest
  repeat' with_reducible first
    | assumption | intro _ | apply State.portLatch_keeps | apply State.pinsRead_keeps | apply Keeps.foldl | dsimp only
    | apply Keeps.foldl_snd | apply Keeps.foldl_snd3 | apply Keeps.foldl_fst

theorem State.armSettle_keeps {s₀ s : State} (h : Keeps s₀ s) : ∀ a, Keeps s₀ (State.armSettle s a) := by
  intro a
  unfold State.armSettle
  repeat' with_reducible first
    | assumption | intro _ | apply State.portSettle_keeps | apply Keeps.foldl | dsimp only | apply Keeps.foldl_snd
    | apply Keeps.foldl_snd3 | apply Keeps.foldl_fst

theorem State.rngRefill_keeps {s₀ s : State} (h : Keeps s₀ s) : Keeps s₀ (State.rngRefill s) := by
  unfold State.rngRefill
  repeat' with_reducible first
    | assumption | simp only [Keeps.mk_iff] | apply Keeps.ite | apply State.wr_keeps | dsimp only | split

theorem State.boundary_keeps {s₀ s : State} (h : Keeps s₀ s) : ∀ a, Keeps s₀ (State.boundary s a) := by
  intro a
  unfold State.boundary
  repeat' with_reducible first
    | assumption | simp only [Keeps.mk_iff] | apply State.careFrame_keeps | apply State.timeStep_keeps
    | apply State.modeStep_keeps | apply State.harvest_keeps | apply State.readEnv_keeps | apply State.pulsesEnd_keeps
    | apply State.commitAll_keeps | apply State.frameClose_keeps | apply State.remaskTick_keeps | apply State.cellarCopy_keeps
    | apply State.relockStep_keeps | apply State.flushEdges_keeps | apply State.frameStep_keeps | apply State.rngRefill_keeps
    | apply State.edgesDown_keeps | apply State.armSettle_keeps | apply State.hlkPurge_keeps | apply State.advance_keeps
    | apply State.coreTicks_keeps | dsimp only

theorem State.tickEdge_keeps {s₀ s : State} (h : Keeps s₀ s) : ∀ a, Keeps s₀ (State.tickEdge s a) := by
  intro a
  unfold State.tickEdge
  repeat' with_reducible first
    | assumption | apply Keeps.ite | apply State.boundary_keeps | dsimp only | split

theorem State.holdExit_keeps {s₀ s : State} (h : Keeps s₀ s) : ∀ a, Keeps s₀ (State.holdExit s a) := by
  intro a
  unfold State.holdExit
  repeat' with_reducible first
    | assumption | simp only [Keeps.mk_iff] | apply Keeps.ite | apply State.tickEdge_keeps | dsimp only | split

theorem State.jobComplete_keeps {s₀ s : State} (h : Keeps s₀ s) : ∀ a, Keeps s₀ (State.jobComplete s a) := by
  intro a
  unfold State.jobComplete
  repeat' with_reducible first
    | assumption | apply State.jobStatus_keeps | apply State.setInst_keeps | dsimp only

theorem State.strBatch_keeps {s₀ s : State} (h : Keeps s₀ s) : ∀ a, Keeps s₀ (State.strBatch s a) := by
  intro a
  unfold State.strBatch
  repeat' with_reducible first
    | assumption | apply State.batchMore_keeps | dsimp only

theorem State.jobCommit_keeps {s₀ s : State} (h : Keeps s₀ s) : ∀ a, Keeps s₀ (State.jobCommit s a).2 := by
  intro a
  unfold State.jobCommit
  repeat' with_reducible first
    | assumption | apply Keeps.ite | apply Keeps.ite_snd | apply State.ptrApply_keeps | apply State.setTxn_keeps
    | apply State.ctrApply_keeps | apply State.arcPut_keeps | apply State.journalPut_keeps | dsimp only | apply Keeps.ite_snd3
    | apply Keeps.ite_fst | apply Keeps.ite_snd4 | refine Keeps.of_snd (by assumption) ?_
    | refine Keeps.of_snd3 (by assumption) ?_ | refine Keeps.of_snd4 (by assumption) ?_
    | refine Keeps.of_fst (by assumption) ?_ | split

theorem State.arcJob_keeps {s₀ s : State} (h : Keeps s₀ s) : ∀ a, Keeps s₀ (State.arcJob s a) := by
  intro a
  unfold State.arcJob
  repeat' with_reducible first
    | assumption | apply Keeps.ite | apply Keeps.ite_snd | apply State.sramPut_keeps | apply State.headMove_keeps
    | apply State.jobCommit_keeps | dsimp only | apply Keeps.ite_snd3 | apply Keeps.ite_fst | apply Keeps.ite_snd4
    | refine Keeps.of_snd (by assumption) ?_ | refine Keeps.of_snd3 (by assumption) ?_
    | refine Keeps.of_snd4 (by assumption) ?_ | refine Keeps.of_fst (by assumption) ?_ | split

theorem State.engineJobEnds_keeps {s₀ s : State} (h : Keeps s₀ s) : ∀ a, Keeps s₀ (State.engineJobEnds s a) := by
  intro a
  unfold State.engineJobEnds
  repeat' with_reducible first
    | assumption | apply Keeps.ite | apply State.symJobStart_keeps | apply State.jobComplete_keeps | apply State.arcJob_keeps
    | apply State.strBatch_keeps | apply State.pkeJobStart_keeps | apply State.jobsTake_keeps | dsimp only | split

theorem execEngineJobComplete_keeps {s₀ s : State} (h : Keeps s₀ s) :
    ∀ a, Keeps s₀ (afterExec (execEngineJobComplete a s) s) := by
  intro a
  unfold execEngineJobComplete afterExec
  repeat' with_reducible first
    | assumption | apply State.engineJobEnds_keeps | dsimp only

/-- Blown bits stay. -/
theorem blowBits_keeps (stuck : BitVec 13) (l : List Nat) (a b : BitVec 13) (h : a &&& ~~~ b = 0) :
    a &&& ~~~ (blowBits stuck l b).2 = 0 := by
  induction l generalizing b with
  | nil => exact h
  | cons x t ih =>
    unfold blowBits
    split
    · exact h
    · refine ih _ (life_trans h ?_)
      ext i hi
      simp
      intro y z
      simp [y] at z

theorem State.fuseBlow_keeps {s₀ s : State} (h : Keeps s₀ s) (a) : Keeps s₀ (State.fuseBlow s a).2 :=
  ⟨h.pending, h.mem, blowBits_keeps _ _ _ _ h.life⟩

theorem State.mirrorPut_keeps {s₀ s : State} (h : Keeps s₀ s) : Keeps s₀ (State.mirrorPut s) := by
  unfold State.mirrorPut
  repeat' with_reducible first
    | assumption | apply State.wr_keeps | dsimp only

theorem State.eraseBlow_keeps {s₀ s : State} (h : Keeps s₀ s) : Keeps s₀ (State.eraseBlow s) := by
  unfold State.eraseBlow
  repeat' with_reducible first
    | assumption | simp only [Keeps.mk_iff] | apply State.mirrorPut_keeps | apply State.setb_keeps
    | apply State.fuseBlow_keeps | apply State.lifeRec_keeps | apply State.wrs_keeps | dsimp only
    | refine Keeps.of_snd (by assumption) ?_ | refine Keeps.of_snd3 (by assumption) ?_
    | refine Keeps.of_snd4 (by assumption) ?_ | refine Keeps.of_fst (by assumption) ?_ | split

theorem State.deferredBlow_keeps {s₀ s : State} (h : Keeps s₀ s) : Keeps s₀ (State.deferredBlow s) := by
  unfold State.deferredBlow
  repeat' with_reducible first
    | assumption | apply Keeps.ite | apply State.eraseBlow_keeps | dsimp only | split

theorem State.cellarLost_keeps {s₀ s : State} (h : Keeps s₀ s) : Keeps s₀ (State.cellarLost s) := by
  unfold State.cellarLost
  repeat' with_reducible first
    | assumption | simp only [Keeps.mk_iff] | apply State.mirrorPut_keeps | apply State.setb_keeps | dsimp only

theorem State.powerOn_keeps {s₀ s : State} (h : Keeps s₀ s) : ∀ a, Keeps s₀ (State.powerOn s a) := by
  intro a
  unfold State.powerOn
  repeat' with_reducible first
    | assumption | simp only [Keeps.mk_iff, Keeps.mkSi_iff] | apply Keeps.ite | apply State.enterReset_keeps
    | apply State.cellarLost_keeps | dsimp only | split

theorem State.vccFall_keeps {s₀ s : State} (h : Keeps s₀ s) : ∀ a, Keeps s₀ (State.vccFall s a) := by
  intro a
  unfold State.vccFall
  repeat' with_reducible first
    | assumption | simp only [Keeps.mk_iff, Keeps.mkSi_iff] | apply Keeps.ite | dsimp only | split

theorem State.swingBack_keeps {s₀ s : State} (h : Keeps s₀ s) : Keeps s₀ (State.swingBack s) := by
  unfold State.swingBack
  repeat' with_reducible first
    | assumption | simp only [Keeps.mk_iff] | dsimp only | refine Keeps.of_snd (by assumption) ?_
    | refine Keeps.of_snd3 (by assumption) ?_ | refine Keeps.of_snd4 (by assumption) ?_
    | refine Keeps.of_fst (by assumption) ?_ | split

theorem State.cellarEntry_keeps {s₀ s : State} (h : Keeps s₀ s) : ∀ a, Keeps s₀ (State.cellarEntry s a) := by
  intro a
  unfold State.cellarEntry
  repeat' with_reducible first
    | assumption | simp only [Keeps.mk_iff, Keeps.mkSi_iff] | apply Keeps.ite | apply Keeps.ite_snd
    | apply State.remaskTear_keeps | apply State.swingBack_keeps | apply State.mainReset_keeps | apply State.tearUnit_keeps
    | dsimp only | apply Keeps.ite_snd3 | apply Keeps.ite_fst | apply Keeps.ite_snd4 | refine Keeps.of_snd (by assumption) ?_
    | refine Keeps.of_snd3 (by assumption) ?_ | refine Keeps.of_snd4 (by assumption) ?_
    | refine Keeps.of_fst (by assumption) ?_ | split

theorem State.supplySwitch_keeps {s₀ s : State} (h : Keeps s₀ s) : ∀ a b, Keeps s₀ (State.supplySwitch s a b) := by
  intro a b
  unfold State.supplySwitch
  repeat' with_reducible first
    | assumption | simp only [Keeps.mk_iff, Keeps.mkSi_iff] | apply Keeps.ite | dsimp only | split

theorem State.cellarFloor_keeps {s₀ s : State} (h : Keeps s₀ s) : ∀ a, Keeps s₀ (State.cellarFloor s a) := by
  intro a
  unfold State.cellarFloor
  repeat' with_reducible first
    | assumption | simp only [Keeps.mk_iff, Keeps.mkSi_iff] | apply Keeps.ite | dsimp only | split

theorem State.cellarStart_keeps {s₀ s : State} (h : Keeps s₀ s) : ∀ a, Keeps s₀ (State.cellarStart s a) := by
  intro a
  unfold State.cellarStart
  repeat' with_reducible first
    | assumption | simp only [Keeps.mk_iff, Keeps.mkSi_iff] | apply Keeps.ite | dsimp only | split

theorem State.rstAssert_keeps {s₀ s : State} (h : Keeps s₀ s) : ∀ a, Keeps s₀ (State.rstAssert s a) := by
  intro a
  unfold State.rstAssert
  repeat' with_reducible first
    | assumption | simp only [Keeps.mk_iff] | apply Keeps.ite | apply Keeps.ite_snd | apply State.enterReset_keeps
    | apply State.choose_keeps | dsimp only | apply Keeps.ite_snd3 | apply Keeps.ite_fst | apply Keeps.ite_snd4
    | refine Keeps.of_snd (by assumption) ?_ | refine Keeps.of_snd3 (by assumption) ?_
    | refine Keeps.of_snd4 (by assumption) ?_ | refine Keeps.of_fst (by assumption) ?_ | split

theorem State.holdDetect_keeps {s₀ s : State} (h : Keeps s₀ s) : Keeps s₀ (State.holdDetect s) := by
  unfold State.holdDetect
  repeat' with_reducible first
    | assumption | apply Keeps.ite | apply Keeps.ite_snd | apply State.wrs_keeps | dsimp only | apply Keeps.ite_snd3
    | apply Keeps.ite_fst | apply Keeps.ite_snd4 | refine Keeps.of_snd (by assumption) ?_
    | refine Keeps.of_snd3 (by assumption) ?_ | refine Keeps.of_snd4 (by assumption) ?_
    | refine Keeps.of_fst (by assumption) ?_ | split

theorem State.resetStuck_keeps {s₀ s : State} (h : Keeps s₀ s) : Keeps s₀ (State.resetStuck s) := by
  unfold State.resetStuck
  repeat' with_reducible first
    | assumption | apply Keeps.ite | apply State.raise_keeps | apply State.setb_keeps | dsimp only | split

theorem State.holdEntry_keeps {s₀ s : State} (h : Keeps s₀ s) : Keeps s₀ (State.holdEntry s) := by
  unfold State.holdEntry
  repeat' with_reducible first
    | assumption | apply State.tlogLater_keeps | apply State.tlogPush_keeps | dsimp only
    | refine Keeps.of_snd (by assumption) ?_ | refine Keeps.of_snd3 (by assumption) ?_
    | refine Keeps.of_snd4 (by assumption) ?_ | refine Keeps.of_fst (by assumption) ?_ | split

theorem State.rstRelease_keeps {s₀ s : State} (h : Keeps s₀ s) : ∀ a, Keeps s₀ (State.rstRelease s a) := by
  intro a
  unfold State.rstRelease
  repeat' with_reducible first
    | assumption | simp only [Keeps.mk_iff] | apply Keeps.ite | apply Keeps.ite_snd | apply State.holdEntry_keeps
    | apply State.wrs_keeps | dsimp only | apply Keeps.ite_snd3 | apply Keeps.ite_fst | apply Keeps.ite_snd4
    | refine Keeps.of_snd (by assumption) ?_ | refine Keeps.of_snd3 (by assumption) ?_
    | refine Keeps.of_snd4 (by assumption) ?_ | refine Keeps.of_fst (by assumption) ?_ | split

theorem State.vioChange_keeps {s₀ s : State} (h : Keeps s₀ s) : ∀ a, Keeps s₀ (State.vioChange s a) := by
  intro a
  unfold State.vioChange
  repeat' with_reducible first
    | assumption | intro _ | simp only [Keeps.mk_iff, Keeps.mkSi_iff] | apply Keeps.ite | apply Keeps.ite_snd
    | apply State.levelsGo_keeps | apply State.rstRelease_keeps | apply State.choose_keeps | apply Keeps.foldl | dsimp only
    | apply Keeps.foldl_snd | apply Keeps.foldl_snd3 | apply Keeps.foldl_fst | apply Keeps.ite_snd3 | apply Keeps.ite_fst
    | apply Keeps.ite_snd4 | refine Keeps.of_snd (by assumption) ?_ | refine Keeps.of_snd3 (by assumption) ?_
    | refine Keeps.of_snd4 (by assumption) ?_ | refine Keeps.of_fst (by assumption) ?_ | split

theorem State.riseFail_keeps {s₀ s : State} (h : Keeps s₀ s) : ∀ a b, Keeps s₀ (State.riseFail s a b) := by
  intro a b
  unfold State.riseFail
  repeat' with_reducible first
    | assumption | apply Keeps.ite | apply State.wr_keeps | dsimp only | split

theorem State.watchBack_keeps {s₀ s : State} (h : Keeps s₀ s) : Keeps s₀ (State.watchBack s) := by
  unfold State.watchBack
  repeat' with_reducible first
    | assumption | simp only [Keeps.mk_iff] | apply Keeps.ite | apply State.setb_keeps | dsimp only | split

theorem State.riseStart_keeps {s₀ s : State} (h : Keeps s₀ s) : ∀ a, Keeps s₀ (State.riseStart s a) := by
  intro a
  unfold State.riseStart
  repeat' with_reducible first
    | assumption | simp only [Keeps.mk_iff, Keeps.mkSi_iff] | apply Keeps.ite | apply State.watchBack_keeps
    | apply State.mirrorPut_keeps | apply State.wr_keeps | apply State.lifeRec_keeps | dsimp only | split

theorem State.risePll_keeps {s₀ s : State} (h : Keeps s₀ s) : Keeps s₀ s.risePll :=
  have k := State.setb_keeps h TICK_STAT_RUN
  ⟨k.pending, k.mem, h.life⟩

theorem State.riseClear_keeps {s₀ s : State} (h : Keeps s₀ s) : Keeps s₀ (State.riseClear s) := by
  unfold State.riseClear
  repeat' with_reducible first
    | assumption | simp only [Keeps.mk_iff] | apply State.shelvesClear_keeps | apply State.memClear_keeps | dsimp only

theorem State.riseLarder_keeps {s₀ s : State} (h : Keeps s₀ s) : ∀ a, Keeps s₀ (State.riseLarder s a) := by
  intro a
  unfold State.riseLarder
  repeat' with_reducible first
    | assumption | intro _ | apply Keeps.ite | apply State.journalReplay_keeps | apply State.setb_keeps
    | apply State.riseCounters_keeps | apply State.ldrUncorr_keeps | apply Keeps.foldl | dsimp only | apply Keeps.foldl_snd
    | apply Keeps.foldl_snd3 | apply Keeps.foldl_fst | split

theorem State.vRestore_keeps {s₀ s : State} (h : Keeps s₀ s) : ∀ a b c, Keeps s₀ (State.vRestore s a b c) := by
  intro a b c
  unfold State.vRestore
  repeat' with_reducible first
    | assumption | apply Keeps.ite | apply State.vWrite_keeps | dsimp only | split

theorem State.vPairs_keeps {s₀ s : State} (h : Keeps s₀ s) : Keeps s₀ (State.vPairs s) := by
  unfold State.vPairs
  repeat' with_reducible first
    | assumption | intro _ | apply Keeps.ite | apply State.vSet_keeps | apply Keeps.foldl | dsimp only | apply Keeps.foldl_snd
    | apply Keeps.foldl_snd3 | apply Keeps.foldl_fst | split

theorem State.pufEnrol_keeps {s₀ s : State} (h : Keeps s₀ s) : Keeps s₀ (State.pufEnrol s) := by
  unfold State.pufEnrol
  repeat' with_reducible first
    | assumption | simp only [Keeps.mk_iff] | apply Keeps.ite | dsimp only | split

theorem State.vaultCheck_keeps {s₀ s : State} (h : Keeps s₀ s) : ∀ a, Keeps s₀ (State.vaultCheck s a) := by
  intro a
  unfold State.vaultCheck
  repeat' with_reducible first
    | assumption | intro _ | apply Keeps.ite | apply State.vRestore_keeps | apply State.swingBack_keeps
    | apply State.pufEnrol_keeps | apply State.vPairs_keeps | apply Keeps.foldl | dsimp only | apply Keeps.foldl_snd
    | apply Keeps.foldl_snd3 | apply Keeps.foldl_fst | split

theorem State.vReload_keeps {s₀ s : State} (h : Keeps s₀ s) : ∀ a b, Keeps s₀ (State.vReload s a b) := by
  intro a b
  unfold State.vReload
  repeat' with_reducible first
    | assumption | simp only [Keeps.mk_iff] | apply Keeps.ite | apply State.vWrite_keeps | dsimp only | split

theorem State.vaultReload_keeps {s₀ s : State} (h : Keeps s₀ s) : ∀ a, Keeps s₀ (State.vaultReload s a) := by
  intro a
  unfold State.vaultReload
  repeat' with_reducible first
    | assumption | intro _ | simp only [Keeps.mk_iff] | apply Keeps.ite | apply State.pufEnrol_keeps | apply State.setb_keeps
    | apply State.vReload_keeps | apply Keeps.foldl | dsimp only | apply Keeps.foldl_snd | apply Keeps.foldl_snd3
    | apply Keeps.foldl_fst | split

theorem State.shadowCatch_keeps {s₀ s : State} (h : Keeps s₀ s) : ∀ a, Keeps s₀ (State.shadowCatch s a) := by
  intro a
  unfold State.shadowCatch
  repeat' with_reducible first
    | assumption | simp only [Keeps.mk_iff] | apply Keeps.ite | apply Keeps.ite_snd | apply State.internalCommit_keeps
    | apply State.setb_keeps | dsimp only | apply Keeps.ite_snd3 | apply Keeps.ite_fst | apply Keeps.ite_snd4
    | refine Keeps.of_snd (by assumption) ?_ | refine Keeps.of_snd3 (by assumption) ?_
    | refine Keeps.of_snd4 (by assumption) ?_ | refine Keeps.of_fst (by assumption) ?_ | split

theorem State.riseErase_keeps {s₀ s : State} (h : Keeps s₀ s) : ∀ a, Keeps s₀ (State.riseErase s a) := by
  intro a
  unfold State.riseErase
  repeat' with_reducible first
    | assumption | simp only [Keeps.mk_iff] | apply Keeps.ite | apply State.wr_keeps | apply State.setb_keeps
    | apply State.eraseBlow_keeps | apply State.shadowCatch_keeps | dsimp only | split

theorem State.orphan_keeps {s₀ s : State} (h : Keeps s₀ s) : ∀ a, Keeps s₀ (State.orphan s a) := by
  intro a
  unfold State.orphan
  repeat' with_reducible first
    | assumption | apply State.attic_keeps | apply State.bump_keeps | dsimp only

theorem State.kReconcile_keeps {s₀ s : State} (h : Keeps s₀ s) : Keeps s₀ (State.kReconcile s) := by
  unfold State.kReconcile
  repeat' with_reducible first
    | assumption | intro _ | apply State.orphan_keeps | apply State.kWrite_keeps | apply State.sClear_keeps
    | apply State.strFinish_keeps | apply Keeps.foldl | dsimp only | apply Keeps.foldl_snd | apply Keeps.foldl_snd3
    | apply Keeps.foldl_fst | refine Keeps.of_snd (by assumption) ?_ | refine Keeps.of_snd3 (by assumption) ?_
    | refine Keeps.of_snd4 (by assumption) ?_ | refine Keeps.of_fst (by assumption) ?_

theorem State.riseStore_keeps {s₀ s : State} (h : Keeps s₀ s) : Keeps s₀ (State.riseStore s) := by
  unfold State.riseStore
  repeat' with_reducible first
    | assumption | apply Keeps.ite | apply State.strLoad_keeps | apply State.strDestroy_keeps | apply State.kReconcile_keeps
    | dsimp only | split

theorem State.setActive_keeps {s₀ s : State} (h : Keeps s₀ s) : ∀ a b, Keeps s₀ (State.setActive s a b) := by
  intro a b
  unfold State.setActive
  repeat' with_reducible first
    | assumption | simp only [Keeps.mk_iff] | dsimp only

theorem State.activate_keeps {s₀ s : State} (h : Keeps s₀ s) : ∀ a b c d e, Keeps s₀ (State.activate s a b c d e) := by
  intro a b c d e
  unfold State.activate
  repeat' with_reducible first
    | assumption | apply Keeps.ite | apply State.setActive_keeps | apply State.imageRec_keeps | dsimp only | split

theorem State.riseImg_keeps {s₀ s : State} (h : Keeps s₀ s) : ∀ a b, Keeps s₀ (State.riseImg s a b).2.2 := by
  intro a b
  unfold State.riseImg
  repeat' with_reducible first
    | assumption | apply Keeps.ite | apply Keeps.ite_snd | apply State.imgVerify_keeps | apply State.eccUncorr_keeps
    | dsimp only | apply Keeps.ite_snd3 | apply Keeps.ite_fst | apply Keeps.ite_snd4 | refine Keeps.of_snd (by assumption) ?_
    | refine Keeps.of_snd3 (by assumption) ?_ | refine Keeps.of_snd4 (by assumption) ?_
    | refine Keeps.of_fst (by assumption) ?_ | split

theorem State.riseUc_keeps {s₀ s : State} (h : Keeps s₀ s) : Keeps s₀ (State.riseUc s) := by
  unfold State.riseUc
  repeat' with_reducible first
    | assumption | apply Keeps.ite | apply Keeps.ite_snd | apply State.wr_keeps | apply State.riseImg_keeps
    | apply State.setb_keeps | apply State.activate_keeps | dsimp only | apply Keeps.ite_snd3 | apply Keeps.ite_fst
    | apply Keeps.ite_snd4 | refine Keeps.of_snd (by assumption) ?_ | refine Keeps.of_snd3 (by assumption) ?_
    | refine Keeps.of_snd4 (by assumption) ?_ | refine Keeps.of_fst (by assumption) ?_ | split

theorem State.bootPut_keeps {s₀ s : State} (h : Keeps s₀ s) : ∀ a b c, Keeps s₀ (State.bootPut s a b c) := by
  intro a b c
  unfold State.bootPut
  repeat' with_reducible first
    | assumption | intro _ | apply State.wrs_keeps | apply Keeps.foldl | dsimp only | apply Keeps.foldl_snd
    | apply Keeps.foldl_snd3 | apply Keeps.foldl_fst | refine Keeps.of_snd (by assumption) ?_
    | refine Keeps.of_snd3 (by assumption) ?_ | refine Keeps.of_snd4 (by assumption) ?_
    | refine Keeps.of_fst (by assumption) ?_

theorem State.riseFw_keeps {s₀ s : State} (h : Keeps s₀ s) : Keeps s₀ (State.riseFw s) := by
  unfold State.riseFw
  repeat' with_reducible first
    | assumption | apply Keeps.ite | apply Keeps.ite_snd | apply State.bootPut_keeps | apply State.riseImg_keeps
    | apply State.setb_keeps | apply State.activate_keeps | apply State.imageFail_keeps | dsimp only | apply Keeps.ite_snd3
    | apply Keeps.ite_fst | apply Keeps.ite_snd4 | refine Keeps.of_snd (by assumption) ?_
    | refine Keeps.of_snd3 (by assumption) ?_ | refine Keeps.of_snd4 (by assumption) ?_
    | refine Keeps.of_fst (by assumption) ?_ | split

theorem State.riseApp_keeps {s₀ s : State} (h : Keeps s₀ s) : Keeps s₀ (State.riseApp s) := by
  unfold State.riseApp
  repeat' with_reducible first
    | assumption | intro _ | apply Keeps.ite | apply Keeps.ite_snd | apply State.riseImg_keeps | apply State.setb_keeps
    | apply State.activate_keeps | apply State.imageFail_keeps | apply State.imageRec_keeps | apply Keeps.foldl | dsimp only
    | apply Keeps.foldl_snd | apply Keeps.foldl_snd3 | apply Keeps.foldl_fst | apply Keeps.ite_snd3 | apply Keeps.ite_fst
    | apply Keeps.ite_snd4 | refine Keeps.of_snd (by assumption) ?_ | refine Keeps.of_snd3 (by assumption) ?_
    | refine Keeps.of_snd4 (by assumption) ?_ | refine Keeps.of_fst (by assumption) ?_ | split

theorem State.groupLoad_keeps {s₀ s : State} (h : Keeps s₀ s) : ∀ a, Keeps s₀ (State.groupLoad s a) := by
  intro a
  unfold State.groupLoad
  repeat' with_reducible first
    | assumption | simp only [Keeps.mk_iff] | apply Keeps.ite | apply Keeps.ite_snd | apply State.attic_keeps
    | apply State.wr_keeps | apply State.setb_keeps | apply State.wrs_keeps | dsimp only | apply Keeps.ite_snd3
    | apply Keeps.ite_fst | apply Keeps.ite_snd4 | refine Keeps.of_snd (by assumption) ?_
    | refine Keeps.of_snd3 (by assumption) ?_ | refine Keeps.of_snd4 (by assumption) ?_
    | refine Keeps.of_fst (by assumption) ?_ | split

theorem State.floorsJoin_keeps {s₀ s : State} (h : Keeps s₀ s) : ∀ a, Keeps s₀ (State.floorsJoin s a) := by
  intro a
  unfold State.floorsJoin
  repeat' with_reducible first
    | assumption | intro _ | apply Keeps.ite | apply Keeps.ite_snd | apply State.wrs_keeps | apply Keeps.foldl | dsimp only
    | apply Keeps.foldl_snd | apply Keeps.foldl_snd3 | apply Keeps.foldl_fst | apply Keeps.ite_snd3 | apply Keeps.ite_fst
    | apply Keeps.ite_snd4 | refine Keeps.of_snd (by assumption) ?_ | refine Keeps.of_snd3 (by assumption) ?_
    | refine Keeps.of_snd4 (by assumption) ?_ | refine Keeps.of_fst (by assumption) ?_ | split

theorem State.adjLoad_keeps {s₀ s : State} (h : Keeps s₀ s) : Keeps s₀ (State.adjLoad s) := by
  unfold State.adjLoad
  repeat' with_reducible first
    | assumption | simp only [Keeps.mk_iff] | apply Keeps.ite | apply Keeps.ite_snd | apply State.wr_keeps | dsimp only
    | apply Keeps.ite_snd3 | apply Keeps.ite_fst | apply Keeps.ite_snd4 | refine Keeps.of_snd (by assumption) ?_
    | refine Keeps.of_snd3 (by assumption) ?_ | refine Keeps.of_snd4 (by assumption) ?_
    | refine Keeps.of_fst (by assumption) ?_ | split

theorem State.leapLoad_keeps {s₀ s : State} (h : Keeps s₀ s) : Keeps s₀ (State.leapLoad s) := by
  unfold State.leapLoad
  repeat' with_reducible first
    | assumption | simp only [Keeps.mk_iff] | apply Keeps.ite | apply State.leapRegs_keeps | dsimp only | split

theorem State.cellarLoss_keeps {s₀ s : State} (h : Keeps s₀ s) : Keeps s₀ (State.cellarLoss s).2 := by
  unfold State.cellarLoss
  repeat' with_reducible first
    | assumption | simp only [Keeps.mk_iff] | apply Keeps.ite | apply Keeps.ite_snd | apply State.bump_keeps
    | apply State.wr_keeps | apply State.tlogCopy_keeps | apply State.showOnset_keeps | dsimp only | apply Keeps.ite_snd3
    | apply Keeps.ite_fst | apply Keeps.ite_snd4 | refine Keeps.of_snd (by assumption) ?_
    | refine Keeps.of_snd3 (by assumption) ?_ | refine Keeps.of_snd4 (by assumption) ?_
    | refine Keeps.of_fst (by assumption) ?_ | split

theorem State.copyEntry_keeps {s₀ s : State} (h : Keeps s₀ s) : ∀ a, Keeps s₀ (State.copyEntry s a) := by
  intro a
  unfold State.copyEntry
  repeat' with_reducible first
    | assumption | simp only [Keeps.mk_iff] | apply Keeps.ite | apply State.attic_keeps | apply State.noteBit_keeps
    | dsimp only | split

theorem State.tlogRise_keeps {s₀ s : State} (h : Keeps s₀ s) : Keeps s₀ (State.tlogRise s) := by
  unfold State.tlogRise
  repeat' with_reducible first
    | assumption | intro _ | apply Keeps.ite | apply Keeps.ite_snd | apply State.copyEntry_keeps | apply State.ctrAuto_keeps
    | apply State.wrs_keeps | apply Keeps.foldl | dsimp only | apply Keeps.foldl_snd | apply Keeps.foldl_snd3
    | apply Keeps.foldl_fst | apply Keeps.ite_snd3 | apply Keeps.ite_fst | apply Keeps.ite_snd4
    | refine Keeps.of_snd (by assumption) ?_ | refine Keeps.of_snd3 (by assumption) ?_
    | refine Keeps.of_snd4 (by assumption) ?_ | refine Keeps.of_fst (by assumption) ?_ | split

theorem State.leftRec_keeps {s₀ s : State} (h : Keeps s₀ s) : Keeps s₀ (State.leftRec s) := by
  unfold State.leftRec
  repeat' with_reducible first
    | assumption | simp only [Keeps.mk_iff] | apply State.atticRec_keeps | dsimp only | refine Keeps.of_snd (by assumption) ?_
    | refine Keeps.of_snd3 (by assumption) ?_ | refine Keeps.of_snd4 (by assumption) ?_
    | refine Keeps.of_fst (by assumption) ?_ | split

theorem State.riseLoad_keeps {s₀ s : State} (h : Keeps s₀ s) : ∀ a, Keeps s₀ (State.riseLoad s a) := by
  intro a
  unfold State.riseLoad
  repeat' with_reducible first
    | assumption | intro _ | simp only [Keeps.mk_iff] | apply Keeps.ite | apply Keeps.ite_snd | apply State.leapLoad_keeps
    | apply State.adjLoad_keeps | apply State.leftRec_keeps | apply State.floorsJoin_keeps | apply State.tlogRise_keeps
    | apply State.wr_keeps | apply State.cellarLoss_keeps | apply State.respond_keeps | apply State.groupLoad_keeps
    | apply State.portsLoad_keeps | apply Keeps.foldl | dsimp only | apply Keeps.foldl_snd | apply Keeps.foldl_snd3
    | apply Keeps.foldl_fst | apply Keeps.ite_snd3 | apply Keeps.ite_fst | apply Keeps.ite_snd4
    | refine Keeps.of_snd (by assumption) ?_ | refine Keeps.of_snd3 (by assumption) ?_
    | refine Keeps.of_snd4 (by assumption) ?_ | refine Keeps.of_fst (by assumption) ?_ | split

theorem State.riseCon_keeps {s₀ s : State} (h : Keeps s₀ s) : Keeps s₀ (State.riseCon s) := by
  unfold State.riseCon
  repeat' with_reducible first
    | assumption | simp only [Keeps.mk_iff] | apply State.flushNotes_keeps | dsimp only

theorem State.riseLocks_keeps {s₀ s : State} (h : Keeps s₀ s) : Keeps s₀ (State.riseLocks s) := by
  unfold State.riseLocks
  repeat' with_reducible first
    | assumption | apply Keeps.ite | apply Keeps.ite_snd | apply State.wrs_keeps | dsimp only | apply Keeps.ite_snd3
    | apply Keeps.ite_fst | apply Keeps.ite_snd4 | refine Keeps.of_snd (by assumption) ?_
    | refine Keeps.of_snd3 (by assumption) ?_ | refine Keeps.of_snd4 (by assumption) ?_
    | refine Keeps.of_fst (by assumption) ?_ | split

theorem State.coresRelease_keeps {s₀ s : State} (h : Keeps s₀ s) : Keeps s₀ (State.coresRelease s) := by
  unfold State.coresRelease
  repeat' with_reducible first
    | assumption | simp only [Keeps.mk_iff] | apply Keeps.ite | dsimp only | split

theorem State.riseEnd_keeps {s₀ s : State} (h : Keeps s₀ s) : ∀ a, Keeps s₀ (State.riseEnd s a) := by
  intro a
  unfold State.riseEnd
  repeat' with_reducible first
    | assumption | simp only [Keeps.mk_iff] | apply Keeps.ite | apply Keeps.ite_snd | apply State.boundary_keeps
    | apply State.coresRelease_keeps | apply State.choose_keeps | apply State.riseLocks_keeps | apply State.wrs_keeps
    | apply State.rcFallback_keeps | apply State.advance_keeps | dsimp only | apply Keeps.ite_snd3 | apply Keeps.ite_fst
    | apply Keeps.ite_snd4 | refine Keeps.of_snd (by assumption) ?_ | refine Keeps.of_snd3 (by assumption) ?_
    | refine Keeps.of_snd4 (by assumption) ?_ | refine Keeps.of_fst (by assumption) ?_ | split

theorem State.riseDo_keeps {s₀ s : State} (h : Keeps s₀ s) : ∀ a b, Keeps s₀ (State.riseDo s a b) := by
  intro a b
  unfold State.riseDo
  repeat' with_reducible first
    | assumption | apply Keeps.ite | apply State.vaultCheck_keeps | apply State.risePll_keeps | apply State.riseStore_keeps
    | apply State.riseClear_keeps | apply State.riseEnd_keeps | apply State.riseLoad_keeps | apply State.riseLarder_keeps
    | apply State.vaultReload_keeps | apply State.riseFw_keeps | apply State.riseUc_keeps | apply State.riseFail_keeps
    | apply State.riseErase_keeps | apply State.riseCon_keeps | dsimp only | split

theorem State.riseStep_keeps {s₀ s : State} (h : Keeps s₀ s) : ∀ a b, Keeps s₀ (State.riseStep a s b) := by
  intro a b
  unfold State.riseStep
  repeat' with_reducible first
    | assumption | apply Keeps.ite | apply State.wr_keeps | apply State.riseDo_keeps | apply State.riseApp_keeps
    | apply State.riseFail_keeps | dsimp only | split

theorem State.riseRun_keeps {s₀ s : State} (h : Keeps s₀ s) : ∀ a, Keeps s₀ (State.riseRun s a) := by
  intro a
  unfold State.riseRun
  repeat' with_reducible first
    | assumption | intro _ | apply State.riseStep_keeps | apply Keeps.foldl | dsimp only | apply Keeps.foldl_snd
    | apply Keeps.foldl_snd3 | apply Keeps.foldl_fst

theorem State.rise_keeps {s₀ s : State} (h : Keeps s₀ s) : ∀ a, Keeps s₀ (State.rise s a) := by
  intro a
  unfold State.rise
  repeat' with_reducible first
    | assumption | apply Keeps.ite | apply State.riseStart_keeps | apply State.riseRun_keeps | dsimp only | split

theorem State.risePllLock_keeps {s₀ s : State} (h : Keeps s₀ s) : ∀ a, Keeps s₀ (State.risePllLock s a) := by
  intro a
  unfold State.risePllLock
  repeat' with_reducible first
    | assumption | apply Keeps.ite | apply State.riseRun_keeps | dsimp only | split

theorem execPowerOn_keeps {s₀ s : State} (h : Keeps s₀ s) : ∀ a, Keeps s₀ (afterExec (execPowerOn a s) s) := by
  intro a
  unfold execPowerOn afterExec
  repeat' with_reducible first
    | assumption | apply State.powerOn_keeps | dsimp only

theorem execVccFall_keeps {s₀ s : State} (h : Keeps s₀ s) : ∀ a, Keeps s₀ (afterExec (execVccFall a s) s) := by
  intro a
  unfold execVccFall afterExec
  repeat' with_reducible first
    | assumption | apply State.vccFall_keeps | dsimp only

theorem execCellarEntry_keeps {s₀ s : State} (h : Keeps s₀ s) : ∀ a, Keeps s₀ (afterExec (execCellarEntry a s) s) := by
  intro a
  unfold execCellarEntry afterExec
  repeat' with_reducible first
    | assumption | apply State.cellarEntry_keeps | dsimp only

theorem execCellarSupplySwitch_keeps {s₀ s : State} (h : Keeps s₀ s) :
    ∀ a b, Keeps s₀ (afterExec (execCellarSupplySwitch a b s) s) := by
  intro a b
  unfold execCellarSupplySwitch afterExec
  repeat' with_reducible first
    | assumption | apply State.supplySwitch_keeps | dsimp only

theorem execCellarFloor_keeps {s₀ s : State} (h : Keeps s₀ s) : ∀ a, Keeps s₀ (afterExec (execCellarFloor a s) s) := by
  intro a
  unfold execCellarFloor afterExec
  repeat' with_reducible first
    | assumption | apply State.cellarFloor_keeps | dsimp only

theorem execCellarStart_keeps {s₀ s : State} (h : Keeps s₀ s) : ∀ a, Keeps s₀ (afterExec (execCellarStart a s) s) := by
  intro a
  unfold execCellarStart afterExec
  repeat' with_reducible first
    | assumption | apply State.cellarStart_keeps | dsimp only

theorem execVioChange_keeps {s₀ s : State} (h : Keeps s₀ s) : ∀ a, Keeps s₀ (afterExec (execVioChange a s) s) := by
  intro a
  unfold execVioChange afterExec
  repeat' with_reducible first
    | assumption | apply State.vioChange_keeps | dsimp only

theorem execRstNAssert_keeps {s₀ s : State} (h : Keeps s₀ s) : ∀ a, Keeps s₀ (afterExec (execRstNAssert a s) s) := by
  intro a
  unfold execRstNAssert afterExec
  repeat' with_reducible first
    | assumption | apply State.rstAssert_keeps | dsimp only

theorem execRstNRelease_keeps {s₀ s : State} (h : Keeps s₀ s) : ∀ a, Keeps s₀ (afterExec (execRstNRelease a s) s) := by
  intro a
  unfold execRstNRelease afterExec
  repeat' with_reducible first
    | assumption | apply State.rstRelease_keeps | dsimp only

theorem execResetHoldDetect_keeps {s₀ s : State} (h : Keeps s₀ s) : Keeps s₀ (afterExec (execResetHoldDetect s) s) := by
  unfold execResetHoldDetect afterExec
  repeat' with_reducible first
    | assumption | apply State.holdDetect_keeps | dsimp only

theorem execResetStuck_keeps {s₀ s : State} (h : Keeps s₀ s) : Keeps s₀ (afterExec (execResetStuck s) s) := by
  unfold execResetStuck afterExec
  repeat' with_reducible first
    | assumption | apply State.resetStuck_keeps | dsimp only

theorem execRise_keeps {s₀ s : State} (h : Keeps s₀ s) : ∀ a, Keeps s₀ (afterExec (execRise a s) s) := by
  intro a
  unfold execRise afterExec
  repeat' with_reducible first
    | assumption | apply State.rise_keeps | dsimp only

theorem execRisePllLock_keeps {s₀ s : State} (h : Keeps s₀ s) : ∀ a, Keeps s₀ (afterExec (execRisePllLock a s) s) := by
  intro a
  unfold execRisePllLock afterExec
  repeat' with_reducible first
    | assumption | apply State.risePllLock_keeps | dsimp only

theorem execDeferredFuseBlow_keeps {s₀ s : State} (h : Keeps s₀ s) : Keeps s₀ (afterExec (execDeferredFuseBlow s) s) := by
  unfold execDeferredFuseBlow afterExec
  repeat' with_reducible first
    | assumption | apply State.deferredBlow_keeps | dsimp only

theorem State.probeNote_keeps {s₀ s : State} (h : Keeps s₀ s) : Keeps s₀ (State.probeNote s).2 := by
  unfold State.probeNote
  repeat' with_reducible first
    | assumption | simp only [Keeps.mk_iff] | apply Keeps.ite | apply Keeps.ite_snd | dsimp only | apply Keeps.ite_snd3
    | apply Keeps.ite_fst | apply Keeps.ite_snd4 | refine Keeps.of_snd (by assumption) ?_
    | refine Keeps.of_snd3 (by assumption) ?_ | refine Keeps.of_snd4 (by assumption) ?_
    | refine Keeps.of_fst (by assumption) ?_ | split

theorem State.errCount_keeps {s₀ s : State} (h : Keeps s₀ s) : ∀ a, Keeps s₀ (State.errCount s a) := by
  intro a
  unfold State.errCount
  repeat' with_reducible first
    | assumption | apply Keeps.ite | apply State.tele_keeps | apply State.bump_keeps | dsimp only | split

theorem State.replyErr_keeps {s₀ s : State} (h : Keeps s₀ s) : ∀ a b c, Keeps s₀ (State.replyErr s a b c) := by
  intro a b c
  unfold State.replyErr
  repeat' with_reducible first
    | assumption | apply Keeps.ite | apply Keeps.ite_snd | apply State.replyEnd_keeps | apply State.errCount_keeps
    | apply State.raise_keeps | apply State.conTx_keeps | apply State.probeNote_keeps | dsimp only | apply Keeps.ite_snd3
    | apply Keeps.ite_fst | apply Keeps.ite_snd4 | refine Keeps.of_snd (by assumption) ?_
    | refine Keeps.of_snd3 (by assumption) ?_ | refine Keeps.of_snd4 (by assumption) ?_
    | refine Keeps.of_fst (by assumption) ?_ | split

theorem State.calText_keeps {s₀ s : State} (h : Keeps s₀ s) : Keeps s₀ (State.calText s).2 := by
  unfold State.calText
  repeat' with_reducible first
    | assumption | apply State.measure_keeps | dsimp only | refine Keeps.of_snd (by assumption) ?_
    | refine Keeps.of_snd3 (by assumption) ?_ | refine Keeps.of_snd4 (by assumption) ?_
    | refine Keeps.of_fst (by assumption) ?_ | split

theorem State.authCount_keeps {s₀ s : State} (h : Keeps s₀ s) : Keeps s₀ (State.authCount s) := by
  unfold State.authCount
  repeat' with_reducible first
    | assumption | simp only [Keeps.mk_iff] | apply State.tele_keeps | apply State.bump_keeps | apply State.ctrAuto_keeps
    | apply State.paramAuto_keeps | dsimp only

theorem State.authFail_keeps {s₀ s : State} (h : Keeps s₀ s) : ∀ a, Keeps s₀ (State.authFail s a) := by
  intro a
  unfold State.authFail
  repeat' with_reducible first
    | assumption | apply State.replyErr_keeps | apply State.authCount_keeps | dsimp only

theorem State.sessionOpen_keeps {s₀ s : State} (h : Keeps s₀ s) : ∀ a, Keeps s₀ (State.sessionOpen s a) := by
  intro a
  unfold State.sessionOpen
  repeat' with_reducible first
    | assumption | simp only [Keeps.mk_iff] | dsimp only | split

theorem State.authOk_keeps {s₀ s : State} (h : Keeps s₀ s) : ∀ a b, Keeps s₀ (State.authOk s a b) := by
  intro a b
  unfold State.authOk
  repeat' with_reducible first
    | assumption | apply Keeps.ite | apply State.replyOk_keeps | apply State.wr_keeps | apply State.sessionOpen_keeps
    | apply State.paramAuto_keeps | dsimp only | split

theorem State.authJudge_keeps {s₀ s : State} (h : Keeps s₀ s) : ∀ a b c d, Keeps s₀ (State.authJudge s a b c d) := by
  intro a b c d
  unfold State.authJudge
  repeat' with_reducible first
    | assumption | apply Keeps.ite | apply State.authFail_keeps | apply State.authOk_keeps | dsimp only | split

theorem State.authWaits_keeps {s₀ s : State} (h : Keeps s₀ s) : ∀ a b c, Keeps s₀ (State.authWaits s a b c) := by
  intro a b c
  unfold State.authWaits
  repeat' with_reducible first
    | assumption | simp only [Keeps.mk_iff] | apply State.waitPut_keeps | dsimp only

theorem State.authAnswer_keeps {s₀ s : State} (h : Keeps s₀ s) : ∀ a b c, Keeps s₀ (State.authAnswer s a b c) := by
  intro a b c
  unfold State.authAnswer
  repeat' with_reducible first
    | assumption | apply Keeps.ite | apply State.authWaits_keeps | apply State.authJudge_keeps | dsimp only | split

theorem State.lookErr_keeps {s₀ s : State} (h : Keeps s₀ s) : ∀ a b, Keeps s₀ (State.lookErr s a b) := by
  intro a b
  unfold State.lookErr
  repeat' with_reducible first
    | assumption | apply Keeps.ite | apply State.replyErr_keeps | dsimp only | split

theorem State.authLooked_keeps {s₀ s : State} (h : Keeps s₀ s) : Keeps s₀ (State.authLooked s) := by
  unfold State.authLooked
  repeat' with_reducible first
    | assumption | simp only [Keeps.mk_iff] | apply Keeps.ite | apply State.lookErr_keeps | apply State.authJudge_keeps
    | dsimp only | split

theorem State.authBoundary_keeps {s₀ s : State} (h : Keeps s₀ s) : Keeps s₀ (State.authBoundary s) := by
  unfold State.authBoundary
  repeat' with_reducible first
    | assumption | apply State.authLooked_keeps | apply State.vQueue_keeps | apply State.commitTo_keeps | dsimp only | split

theorem State.authGate_keeps {s₀ s : State} (h : Keeps s₀ s) :
    ∀ a b c d, (∀ x0 x1, Keeps s₀ x1 → Keeps s₀ (d x0 x1)) → Keeps s₀ (State.authGate s a b c d) := by
  intro a b c d
  intro hf
  unfold State.authGate
  repeat' with_reducible first
    | assumption | intro _ | apply Keeps.ite | apply_assumption | apply State.replyErr_keeps | dsimp only | split

theorem State.doAuthLevel_keeps {s₀ s : State} (h : Keeps s₀ s) : ∀ a b, Keeps s₀ (State.doAuthLevel s a b) := by
  intro a b
  unfold State.doAuthLevel
  repeat' with_reducible first
    | assumption | simp only [Keeps.mk_iff] | apply Keeps.ite | apply Keeps.ite_snd | apply State.drbgWords_keeps
    | apply State.replyOk_keeps | apply State.replyErr_keeps | dsimp only | apply Keeps.ite_snd3 | apply Keeps.ite_fst
    | apply Keeps.ite_snd4 | refine Keeps.of_snd (by assumption) ?_ | refine Keeps.of_snd3 (by assumption) ?_
    | refine Keeps.of_snd4 (by assumption) ?_ | refine Keeps.of_fst (by assumption) ?_ | split

theorem State.doAuthResp_keeps {s₀ s : State} (h : Keeps s₀ s) : ∀ a b c, Keeps s₀ (State.doAuthResp s a b c) := by
  intro a b c
  unfold State.doAuthResp
  repeat' with_reducible first
    | assumption | intro _ | apply Keeps.ite | apply State.authFail_keeps | apply State.authGate_keeps
    | apply State.authAnswer_keeps | dsimp only | split

theorem State.cxPut_keeps {s₀ s : State} (h : Keeps s₀ s) : ∀ a b, Keeps s₀ (State.cxPut s a b) := by
  intro a b
  unfold State.cxPut
  repeat' with_reducible first
    | assumption | intro _ | apply State.waitPut_keeps | apply Keeps.foldl | dsimp only | apply Keeps.foldl_snd
    | apply Keeps.foldl_snd3 | apply Keeps.foldl_fst

theorem State.doAuthCard_keeps {s₀ s : State} (h : Keeps s₀ s) : ∀ a b c, Keeps s₀ (State.doAuthCard s a b c) := by
  intro a b c
  unfold State.doAuthCard
  repeat' with_reducible first
    | assumption | intro _ | simp only [Keeps.mk_iff] | apply Keeps.ite | apply State.authFail_keeps | apply State.cxPut_keeps
    | apply State.authGate_keeps | dsimp only | split

theorem State.authCardEnds_keeps {s₀ s : State} (h : Keeps s₀ s) : Keeps s₀ (State.authCardEnds s) := by
  unfold State.authCardEnds
  repeat' with_reducible first
    | assumption | apply Keeps.ite | apply State.authFail_keeps | apply State.authWaits_keeps | dsimp only | split

theorem State.doLogout_keeps {s₀ s : State} (h : Keeps s₀ s) : ∀ a, Keeps s₀ (State.doLogout s a) := by
  intro a
  unfold State.doLogout
  repeat' with_reducible first
    | assumption | simp only [Keeps.mk_iff] | apply State.replyOk_keeps | apply State.sessionEnd_keeps | dsimp only

end Sys2Proof.Machine
end

