-- ==== Sys2Proof/Laws/Keeps8.lean ====
section
/-!
SUPPORT. Keeps8.lean: the operations of Applets.lean, Perform.lean, Console.lean keep the queue of commands, the canonical
form of the memory and the blown fuses (Laws/Keeps.lean). A lemma of a command's meaning speaks of the state after it.
-/
namespace Sys2Proof.Machine

theorem State.appletForward_keeps {s₀ s : State} (h : Keeps s₀ s) :
    ∀ a b c d e, Keeps s₀ (State.appletForward s a b c d e) := by
  intro a b c d e
  unfold State.appletForward
  repeat' with_reducible first
    | assumption | simp only [Keeps.mk_iff] | apply Keeps.ite | apply State.conSend_keeps | apply State.replyErr_keeps
    | apply State.laneFail_keeps | dsimp only | split

theorem State.ruleOf_keeps {s₀ s : State} (h : Keeps s₀ s) : ∀ a, Keeps s₀ (State.ruleOf s a).2 := by
  intro a
  unfold State.ruleOf
  repeat' with_reducible first
    | assumption | apply State.strSearch_keeps | dsimp only | refine Keeps.of_snd (by assumption) ?_
    | refine Keeps.of_snd3 (by assumption) ?_ | refine Keeps.of_snd4 (by assumption) ?_
    | refine Keeps.of_fst (by assumption) ?_

theorem State.holdLine_keeps {s₀ s : State} (h : Keeps s₀ s) : ∀ a b, Keeps s₀ (State.holdLine s a b) := by
  intro a b
  unfold State.holdLine
  repeat' with_reducible first
    | assumption | simp only [Keeps.mk_iff] | apply Keeps.ite | apply Keeps.ite_snd | apply State.drbg_keeps
    | apply State.replyOk_keeps | apply State.replyErr_keeps | dsimp only | apply Keeps.ite_snd3 | apply Keeps.ite_fst
    | apply Keeps.ite_snd4 | refine Keeps.of_snd (by assumption) ?_ | refine Keeps.of_snd3 (by assumption) ?_
    | refine Keeps.of_snd4 (by assumption) ?_ | refine Keeps.of_fst (by assumption) ?_ | split

theorem State.appletDecide_keeps {s₀ s : State} (h : Keeps s₀ s) :
    ∀ a b c d e f, Keeps s₀ (State.appletDecide s a b c d e f) := by
  intro a b c d e f
  unfold State.appletDecide
  repeat' with_reducible first
    | assumption | apply Keeps.ite | apply Keeps.ite_snd | apply State.replyErr_keeps | apply State.appletForward_keeps
    | apply State.ruleOf_keeps | apply State.holdLine_keeps | dsimp only | apply Keeps.ite_snd3 | apply Keeps.ite_fst
    | apply Keeps.ite_snd4 | refine Keeps.of_snd (by assumption) ?_ | refine Keeps.of_snd3 (by assumption) ?_
    | refine Keeps.of_snd4 (by assumption) ?_ | refine Keeps.of_fst (by assumption) ?_ | split

theorem State.appletAnswer_keeps {s₀ s : State} (h : Keeps s₀ s) : ∀ a b, Keeps s₀ (State.appletAnswer s a b) := by
  intro a b
  unfold State.appletAnswer
  repeat' with_reducible first
    | assumption | apply Keeps.ite | apply State.replyOk_keeps | apply State.replyErr_keeps | dsimp only | split

theorem State.conTakes_keeps {s₀ s : State} (h : Keeps s₀ s) :
    ∀ a b c, (∀ x0 x1 x2 x3, Keeps s₀ x3 → Keeps s₀ (c x0 x1 x2 x3)) → Keeps s₀ (State.conTakes s a b c) := by
  intro a b c
  intro hf
  unfold State.conTakes
  repeat' with_reducible first
    | assumption | intro _ | apply Keeps.ite | apply_assumption | apply State.msgDiscard_keeps | apply State.msgDone_keeps
    | dsimp only | split

theorem State.appletReply_keeps {s₀ s : State} (h : Keeps s₀ s) : ∀ a, Keeps s₀ (State.appletReply s a) := by
  intro a
  unfold State.appletReply
  repeat' with_reducible first
    | assumption | intro _ | simp only [Keeps.mk_iff] | apply Keeps.ite | apply State.replyErr_keeps
    | apply State.appletAnswer_keeps | apply State.laneFail_keeps | apply State.conTakes_keeps | dsimp only | split

theorem State.requestDrop_keeps {s₀ s : State} (h : Keeps s₀ s) : ∀ a b, Keeps s₀ (State.requestDrop s a b) := by
  intro a b
  unfold State.requestDrop
  repeat' with_reducible first
    | assumption | intro _ | simp only [Keeps.mk_iff] | apply Keeps.ite | apply State.conFlush_keeps
    | apply State.slotFree_keeps | apply Keeps.foldl | dsimp only | apply Keeps.foldl_snd | apply Keeps.foldl_snd3
    | apply Keeps.foldl_fst | split

theorem State.appletGiveUp_keeps {s₀ s : State} (h : Keeps s₀ s) : Keeps s₀ (State.appletGiveUp s) := by
  unfold State.appletGiveUp
  repeat' with_reducible first
    | assumption | apply Keeps.ite | apply State.requestDrop_keeps | apply State.replyErr_keeps | apply State.hatchBad_keeps
    | dsimp only | split

theorem State.regAck_keeps {s₀ s : State} (h : Keeps s₀ s) : ∀ a b c, Keeps s₀ (State.regAck s a b c) := by
  intro a b c
  unfold State.regAck
  repeat' with_reducible first
    | assumption | apply State.conSend_keeps | dsimp only

theorem State.regDo_keeps {s₀ s : State} (h : Keeps s₀ s) : ∀ a b c d e, Keeps s₀ (State.regDo s a b c d e) := by
  intro a b c d e
  unfold State.regDo
  repeat' with_reducible first
    | assumption | apply Keeps.ite | apply Keeps.ite_snd | apply State.regAck_keeps | apply State.sClear_keeps
    | apply State.strInvalidate_keeps | apply State.raStale_keeps | apply State.strWrite_keeps | dsimp only
    | apply Keeps.ite_snd3 | apply Keeps.ite_fst | apply Keeps.ite_snd4 | refine Keeps.of_snd (by assumption) ?_
    | refine Keeps.of_snd3 (by assumption) ?_ | refine Keeps.of_snd4 (by assumption) ?_
    | refine Keeps.of_fst (by assumption) ?_ | split

theorem State.verbReg_keeps {s₀ s : State} (h : Keeps s₀ s) : ∀ a, Keeps s₀ (State.verbReg s a) := by
  intro a
  unfold State.verbReg
  repeat' with_reducible first
    | assumption | intro _ | apply Keeps.ite | apply State.regAck_keeps | apply State.regDo_keeps | apply State.conTakes_keeps
    | dsimp only | split

theorem State.modeReq_keeps {s₀ s : State} (h : Keeps s₀ s) : ∀ a, Keeps s₀ (State.modeReq s a) := by
  intro a
  unfold State.modeReq
  repeat' with_reducible first
    | assumption | intro _ | simp only [Keeps.mk_iff] | apply Keeps.ite | apply State.conSend_keeps
    | apply State.conTakes_keeps | dsimp only | split

theorem State.waitCommit_keeps {s₀ s : State} (h : Keeps s₀ s) : ∀ a b, Keeps s₀ (State.waitCommit s a b) := by
  intro a b
  unfold State.waitCommit
  repeat' with_reducible first
    | assumption | simp only [Keeps.mk_iff] | dsimp only

theorem State.ifExec_keeps {s₀ s : State} (h : Keeps s₀ s) :
    ∀ a, (∀ x0, Keeps s₀ x0 → Keeps s₀ (a x0)) → Keeps s₀ (State.ifExec s a) := by
  intro a
  intro hf
  unfold State.ifExec
  repeat' with_reducible first
    | assumption | intro _ | apply Keeps.ite | apply_assumption | dsimp only | split

theorem State.doMode_keeps {s₀ s : State} (h : Keeps s₀ s) : ∀ a b, Keeps s₀ (State.doMode s a b) := by
  intro a b
  unfold State.doMode
  repeat' with_reducible first
    | assumption | simp only [Keeps.mk_iff] | apply Keeps.ite | apply State.replyErr_keeps | apply State.waitCommit_keeps
    | dsimp only | split

theorem State.doEcho_keeps {s₀ s : State} (h : Keeps s₀ s) : ∀ a b, Keeps s₀ (State.doEcho s a b) := by
  intro a b
  unfold State.doEcho
  repeat' with_reducible first
    | assumption | apply State.replyOk_keeps | apply State.wr_keeps | dsimp only

theorem State.doBaud_keeps {s₀ s : State} (h : Keeps s₀ s) : ∀ a b, Keeps s₀ (State.doBaud s a b) := by
  intro a b
  unfold State.doBaud
  repeat' with_reducible first
    | assumption | simp only [Keeps.mk_iff] | apply State.replyOk_keeps | apply State.wr_keeps | dsimp only

theorem State.doAttic_keeps {s₀ s : State} (h : Keeps s₀ s) : ∀ a b c, Keeps s₀ (State.doAttic s a b c) := by
  intro a b c
  unfold State.doAttic
  repeat' with_reducible first
    | assumption | intro _ | apply Keeps.ite | apply State.replyErr_keeps | apply State.conTx_keeps
    | apply State.replyLines_keeps | apply Keeps.foldl | dsimp only | apply Keeps.foldl_snd | apply Keeps.foldl_snd3
    | apply Keeps.foldl_fst | split

theorem State.doCounter_keeps {s₀ s : State} (h : Keeps s₀ s) : ∀ a b, Keeps s₀ (State.doCounter s a b) := by
  intro a b
  unfold State.doCounter
  repeat' with_reducible first
    | assumption | apply Keeps.ite | apply State.replyOk_keeps | apply State.replyErr_keeps | dsimp only | split

theorem State.doTickSet_keeps {s₀ s : State} (h : Keeps s₀ s) : ∀ a b c, Keeps s₀ (State.doTickSet s a b c) := by
  intro a b c
  unfold State.doTickSet
  repeat' with_reducible first
    | assumption | apply Keeps.ite | apply State.replyOk_keeps | apply State.setb_keeps | apply State.waitCommit_keeps
    | apply State.waitPut_keeps | dsimp only | split

theorem State.doAdj_keeps {s₀ s : State} (h : Keeps s₀ s) : ∀ a b, Keeps s₀ (State.doAdj s a b) := by
  intro a b
  unfold State.doAdj
  repeat' with_reducible first
    | assumption | apply Keeps.ite | apply State.replyOk_keeps | apply State.replyErr_keeps | apply State.timeAdj_keeps
    | dsimp only | split

theorem State.doTimeSet_keeps {s₀ s : State} (h : Keeps s₀ s) : ∀ a b c, Keeps s₀ (State.doTimeSet s a b c) := by
  intro a b c
  unfold State.doTimeSet
  repeat' with_reducible first
    | assumption | simp only [Keeps.mk_iff] | apply Keeps.ite | apply State.replyOk_keeps | apply State.replyErr_keeps
    | apply State.timeSet_keeps | dsimp only | split

theorem State.ppsTimeout_keeps {s₀ s : State} (h : Keeps s₀ s) : Keeps s₀ (State.ppsTimeout s) := by
  unfold State.ppsTimeout
  repeat' with_reducible first
    | assumption | simp only [Keeps.mk_iff] | apply State.replyErr_keeps | dsimp only | split

theorem State.doCalK_keeps {s₀ s : State} (h : Keeps s₀ s) : ∀ a b c, Keeps s₀ (State.doCalK s a b c) := by
  intro a b c
  unfold State.doCalK
  repeat' with_reducible first
    | assumption | apply Keeps.ite | apply State.wr_keeps | apply State.replyErr_keeps | apply State.waitCommit_keeps
    | apply State.waitPut_keeps | dsimp only | split

theorem State.rawLines_keeps {s₀ s : State} (h : Keeps s₀ s) : ∀ a, Keeps s₀ (State.rawLines a s).2 := by
  intro a
  induction a generalizing s
  all_goals unfold State.rawLines
  repeat' with_reducible first
    | assumption | apply_assumption | apply State.rawSamples_keeps | dsimp only | refine Keeps.of_snd (by assumption) ?_
    | refine Keeps.of_snd3 (by assumption) ?_ | refine Keeps.of_snd4 (by assumption) ?_
    | refine Keeps.of_fst (by assumption) ?_ | split

theorem State.doCalRaw_keeps {s₀ s : State} (h : Keeps s₀ s) : ∀ a b, Keeps s₀ (State.doCalRaw s a b) := by
  intro a b
  unfold State.doCalRaw
  repeat' with_reducible first
    | assumption | apply Keeps.ite | apply Keeps.ite_snd | apply State.rawLines_keeps | apply State.replyLines_keeps
    | dsimp only | apply Keeps.ite_snd3 | apply Keeps.ite_fst | apply Keeps.ite_snd4 | refine Keeps.of_snd (by assumption) ?_
    | refine Keeps.of_snd3 (by assumption) ?_ | refine Keeps.of_snd4 (by assumption) ?_
    | refine Keeps.of_fst (by assumption) ?_ | split

theorem State.doCalRun_keeps {s₀ s : State} (h : Keeps s₀ s) : ∀ a, Keeps s₀ (State.doCalRun s a) := by
  intro a
  unfold State.doCalRun
  repeat' with_reducible first
    | assumption | simp only [Keeps.mk_iff] | apply Keeps.ite | apply State.replyErr_keeps | dsimp only | split

theorem State.doPortFn_keeps {s₀ s : State} (h : Keeps s₀ s) : ∀ a b c, Keeps s₀ (State.doPortFn s a b c) := by
  intro a b c
  unfold State.doPortFn
  repeat' with_reducible first
    | assumption | intro _ | apply State.waitCommit_keeps | apply State.waitPut_keeps | apply Keeps.foldl | dsimp only
    | apply Keeps.foldl_snd | apply Keeps.foldl_snd3 | apply Keeps.foldl_fst | refine Keeps.of_snd (by assumption) ?_
    | refine Keeps.of_snd3 (by assumption) ?_ | refine Keeps.of_snd4 (by assumption) ?_
    | refine Keeps.of_fst (by assumption) ?_

theorem State.doPortClear_keeps {s₀ s : State} (h : Keeps s₀ s) : ∀ a b, Keeps s₀ (State.doPortClear s a b) := by
  intro a b
  unfold State.doPortClear
  repeat' with_reducible first
    | assumption | apply Keeps.ite | apply Keeps.ite_snd | apply State.replyOk_keeps | apply State.discClear_keeps
    | apply State.replyErr_keeps | dsimp only | apply Keeps.ite_snd3 | apply Keeps.ite_fst | apply Keeps.ite_snd4
    | refine Keeps.of_snd (by assumption) ?_ | refine Keeps.of_snd3 (by assumption) ?_
    | refine Keeps.of_snd4 (by assumption) ?_ | refine Keeps.of_fst (by assumption) ?_ | split

theorem State.doFlush_keeps {s₀ s : State} (h : Keeps s₀ s) : ∀ a b, Keeps s₀ (State.doFlush s a b) := by
  intro a b
  unfold State.doFlush
  repeat' with_reducible first
    | assumption | apply Keeps.ite | apply State.flushQueue_keeps | apply State.replyOk_keeps | dsimp only | split

theorem State.doFind_keeps {s₀ s : State} (h : Keeps s₀ s) : ∀ a b c, Keeps s₀ (State.doFind s a b c) := by
  intro a b c
  unfold State.doFind
  repeat' with_reducible first
    | assumption | apply Keeps.ite | apply Keeps.ite_snd | apply State.replyOk_keeps | apply State.replyErr_keeps
    | apply State.strSearch_keeps | dsimp only | apply Keeps.ite_snd3 | apply Keeps.ite_fst | apply Keeps.ite_snd4
    | refine Keeps.of_snd (by assumption) ?_ | refine Keeps.of_snd3 (by assumption) ?_
    | refine Keeps.of_snd4 (by assumption) ?_ | refine Keeps.of_fst (by assumption) ?_ | split

theorem State.doSize_keeps {s₀ s : State} (h : Keeps s₀ s) : ∀ a b c d e f, Keeps s₀ (State.doSize s a b c d e f) := by
  intro a b c d e f
  unfold State.doSize
  repeat' with_reducible first
    | assumption | apply Keeps.ite | apply State.waitCommit_keeps | apply State.waitPut_keeps | dsimp only | split

theorem State.doKeyShow_keeps {s₀ s : State} (h : Keeps s₀ s) : ∀ a b, Keeps s₀ (State.doKeyShow s a b) := by
  intro a b
  unfold State.doKeyShow
  repeat' with_reducible first
    | assumption | apply Keeps.ite | apply State.replyErr_keeps | apply State.replyLines_keeps | dsimp only | split

theorem State.doStage_keeps {s₀ s : State} (h : Keeps s₀ s) : ∀ a b, Keeps s₀ (State.doStage s a b) := by
  intro a b
  unfold State.doStage
  repeat' with_reducible first
    | assumption | simp only [Keeps.mk_iff] | apply State.replyOk_keeps | dsimp only

theorem State.doKeyData_keeps {s₀ s : State} (h : Keeps s₀ s) : ∀ a b c, Keeps s₀ (State.doKeyData s a b c) := by
  intro a b c
  unfold State.doKeyData
  repeat' with_reducible first
    | assumption | simp only [Keeps.mk_iff] | apply Keeps.ite | apply State.replyOk_keeps | apply State.replyErr_keeps
    | dsimp only | split

theorem State.doKeyWrite_keeps {s₀ s : State} (h : Keeps s₀ s) : ∀ a, Keeps s₀ (State.doKeyWrite s a) := by
  intro a
  unfold State.doKeyWrite
  repeat' with_reducible first
    | assumption | apply Keeps.ite | apply State.replyErr_keeps | apply State.waitCommit_keeps | dsimp only | split

theorem State.doKeyMove_keeps {s₀ s : State} (h : Keeps s₀ s) : ∀ a b c, Keeps s₀ (State.doKeyMove s a b c) := by
  intro a b c
  unfold State.doKeyMove
  repeat' with_reducible first
    | assumption | apply Keeps.ite | apply State.replyErr_keeps | apply State.waitCommit_keeps | dsimp only | split

theorem State.doKey_keeps {s₀ s : State} (h : Keeps s₀ s) (a b) : Keeps s₀ (State.doKey s a b) := by
  unfold State.doKey
  refine Keeps.ite (State.replyErr_keeps h _ _ _) ?_
  cases b
  case keyList => exact State.replyLines_keeps h _ _
  case keyShow => exact State.doKeyShow_keeps h _ _
  case keyStage => exact State.doStage_keeps h _ _
  case keyData => exact State.doKeyData_keeps h _ _ _
  case keyWrite => exact State.doKeyWrite_keeps h _
  case keyGen => exact State.waitCommit_keeps h _ _
  case keyRetire => exact State.doKeyMove_keeps h _ _ _
  case keyRevoke => exact State.doKeyMove_keeps h _ _ _
  all_goals exact h

theorem State.doWatchSet_keeps {s₀ s : State} (h : Keeps s₀ s) : ∀ a b c d, Keeps s₀ (State.doWatchSet s a b c d) := by
  intro a b c d
  unfold State.doWatchSet
  repeat' with_reducible first
    | assumption | apply State.waitCommit_keeps | apply State.waitPut_keeps | dsimp only | split

theorem State.doStream_keeps {s₀ s : State} (h : Keeps s₀ s) : ∀ a b, Keeps s₀ (State.doStream s a b) := by
  intro a b
  unfold State.doStream
  repeat' with_reducible first
    | assumption | apply Keeps.ite | apply State.replyOk_keeps | apply State.wr_keeps | apply State.replyErr_keeps
    | dsimp only | split

theorem State.doImgBegin_keeps {s₀ s : State} (h : Keeps s₀ s) : ∀ a b c d, Keeps s₀ (State.doImgBegin s a b c d) := by
  intro a b c d
  unfold State.doImgBegin
  repeat' with_reducible first
    | assumption | apply Keeps.ite | apply Keeps.ite_snd | apply State.loadBegin_keeps | apply State.replyOk_keeps
    | apply State.replyErr_keeps | dsimp only | apply Keeps.ite_snd3 | apply Keeps.ite_fst | apply Keeps.ite_snd4
    | refine Keeps.of_snd (by assumption) ?_ | refine Keeps.of_snd3 (by assumption) ?_
    | refine Keeps.of_snd4 (by assumption) ?_ | refine Keeps.of_fst (by assumption) ?_ | split

theorem State.doImgData_keeps {s₀ s : State} (h : Keeps s₀ s) : ∀ a b c, Keeps s₀ (State.doImgData s a b c) := by
  intro a b c
  unfold State.doImgData
  repeat' with_reducible first
    | assumption | apply Keeps.ite | apply Keeps.ite_snd | apply State.loadData_keeps | apply State.replyOk_keeps
    | apply State.replyErr_keeps | dsimp only | apply Keeps.ite_snd3 | apply Keeps.ite_fst | apply Keeps.ite_snd4
    | refine Keeps.of_snd (by assumption) ?_ | refine Keeps.of_snd3 (by assumption) ?_
    | refine Keeps.of_snd4 (by assumption) ?_ | refine Keeps.of_fst (by assumption) ?_ | split

theorem State.doImgEnd_keeps {s₀ s : State} (h : Keeps s₀ s) : ∀ a, Keeps s₀ (State.doImgEnd s a) := by
  intro a
  unfold State.doImgEnd
  repeat' with_reducible first
    | assumption | intro _ | apply Keeps.ite | apply Keeps.ite_snd | apply State.loadEnd_keeps | apply State.replyOk_keeps
    | apply State.replyErr_keeps | apply State.ifExec_keeps | dsimp only | apply Keeps.ite_snd3 | apply Keeps.ite_fst
    | apply Keeps.ite_snd4 | refine Keeps.of_snd (by assumption) ?_ | refine Keeps.of_snd3 (by assumption) ?_
    | refine Keeps.of_snd4 (by assumption) ?_ | refine Keeps.of_fst (by assumption) ?_ | split

theorem State.doImgAbort_keeps {s₀ s : State} (h : Keeps s₀ s) : ∀ a, Keeps s₀ (State.doImgAbort s a) := by
  intro a
  unfold State.doImgAbort
  repeat' with_reducible first
    | assumption | apply State.replyOk_keeps | apply State.loadAbort_keeps | apply State.replyErr_keeps | dsimp only
    | refine Keeps.of_snd (by assumption) ?_ | refine Keeps.of_snd3 (by assumption) ?_
    | refine Keeps.of_snd4 (by assumption) ?_ | refine Keeps.of_fst (by assumption) ?_ | split

theorem State.replyReset_keeps {s₀ s : State} (h : Keeps s₀ s) : ∀ a b c, Keeps s₀ (State.replyReset s a b c) := by
  intro a b c
  unfold State.replyReset
  repeat' with_reducible first
    | assumption | simp only [Keeps.mk_iff] | apply State.conTx_keeps | dsimp only

theorem State.lifeEnd_keeps {s₀ s : State} (h : Keeps s₀ s) : ∀ a b c d, Keeps s₀ (State.lifeEnd s a b c d) := by
  intro a b c d
  unfold State.lifeEnd
  repeat' with_reducible first
    | assumption | apply Keeps.ite | apply State.mirrorPut_keeps | apply State.replyReset_keeps | apply State.lifeRec_keeps
    | dsimp only | split

theorem State.lifeBlow_keeps {s₀ s : State} (h : Keeps s₀ s) : ∀ a b c, Keeps s₀ (State.lifeBlow s a b c) := by
  intro a b c
  unfold State.lifeBlow
  repeat' with_reducible first
    | assumption | apply State.lifeEnd_keeps | apply State.fuseBlow_keeps | dsimp only
    | refine Keeps.of_snd (by assumption) ?_ | refine Keeps.of_snd3 (by assumption) ?_
    | refine Keeps.of_snd4 (by assumption) ?_ | refine Keeps.of_fst (by assumption) ?_

theorem State.lifeVcc_keeps {s₀ s : State} (h : Keeps s₀ s) :
    ∀ a b, (∀ x0, Keeps s₀ x0 → Keeps s₀ (b x0)) → Keeps s₀ (State.lifeVcc s a b) := by
  intro a b
  intro hf
  unfold State.lifeVcc
  repeat' with_reducible first
    | assumption | intro _ | apply Keeps.ite | apply_assumption | apply State.replyErr_keeps | dsimp only | split

theorem State.sealFloors_keeps {s₀ s : State} (h : Keeps s₀ s) : Keeps s₀ (State.sealFloors s) := by
  unfold State.sealFloors
  repeat' with_reducible first
    | assumption | intro _ | apply Keeps.ite | apply State.wr_keeps | apply Keeps.foldl | dsimp only | apply Keeps.foldl_snd
    | apply Keeps.foldl_snd3 | apply Keeps.foldl_fst | split

theorem State.doSeal_keeps {s₀ s : State} (h : Keeps s₀ s) : ∀ a, Keeps s₀ (State.doSeal s a) := by
  intro a
  unfold State.doSeal
  repeat' with_reducible first
    | assumption | intro _ | apply Keeps.ite | apply State.sealFloors_keeps | apply State.replyErr_keeps
    | apply State.lifeBlow_keeps | apply State.lifeVcc_keeps | dsimp only | split

theorem State.doErase_keeps {s₀ s : State} (h : Keeps s₀ s) : ∀ a, Keeps s₀ (State.doErase s a) := by
  intro a
  unfold State.doErase
  repeat' with_reducible first
    | assumption | intro _ | simp only [Keeps.mk_iff] | apply Keeps.ite | apply Keeps.ite_snd | apply State.eraseVault_keeps
    | apply State.lifeEnd_keeps | apply State.lifeBlow_keeps | apply State.choose_keeps | apply State.fuseBlow_keeps
    | apply State.lifeVcc_keeps | dsimp only | apply Keeps.ite_snd3 | apply Keeps.ite_fst | apply Keeps.ite_snd4
    | refine Keeps.of_snd (by assumption) ?_ | refine Keeps.of_snd3 (by assumption) ?_
    | refine Keeps.of_snd4 (by assumption) ?_ | refine Keeps.of_fst (by assumption) ?_ | split

theorem State.fuseResume_keeps {s₀ s : State} (h : Keeps s₀ s) : ∀ a, Keeps s₀ (State.fuseResume s a) := by
  intro a
  unfold State.fuseResume
  repeat' with_reducible first
    | assumption | simp only [Keeps.mk_iff, Keeps.mkSi_iff] | apply Keeps.ite | apply Keeps.ite_snd
    | apply State.lifeEnd_keeps | apply State.fuseBlow_keeps | dsimp only | apply Keeps.ite_snd3 | apply Keeps.ite_fst
    | apply Keeps.ite_snd4 | refine Keeps.of_snd (by assumption) ?_ | refine Keeps.of_snd3 (by assumption) ?_
    | refine Keeps.of_snd4 (by assumption) ?_ | refine Keeps.of_fst (by assumption) ?_ | split

theorem State.doRefit_keeps {s₀ s : State} (h : Keeps s₀ s) : ∀ a, Keeps s₀ (State.doRefit s a) := by
  intro a
  unfold State.doRefit
  repeat' with_reducible first
    | assumption | intro _ | apply Keeps.ite | apply State.replyErr_keeps | apply State.lifeBlow_keeps
    | apply State.lifeVcc_keeps | dsimp only | split

theorem State.doUnlock_keeps {s₀ s : State} (h : Keeps s₀ s) : ∀ a, Keeps s₀ (State.doUnlock s a) := by
  intro a
  unfold State.doUnlock
  repeat' with_reducible first
    | assumption | simp only [Keeps.mk_iff] | apply State.attic_keeps | apply State.replyReset_keeps | apply State.wrs_keeps
    | dsimp only | refine Keeps.of_snd (by assumption) ?_ | refine Keeps.of_snd3 (by assumption) ?_
    | refine Keeps.of_snd4 (by assumption) ?_ | refine Keeps.of_fst (by assumption) ?_

theorem State.doReset_keeps {s₀ s : State} (h : Keeps s₀ s) : ∀ a, Keeps s₀ (State.doReset s a) := by
  intro a
  unfold State.doReset
  repeat' with_reducible first
    | assumption | apply State.replyReset_keeps | dsimp only

theorem State.verbReset_keeps {s₀ s : State} (h : Keeps s₀ s) : Keeps s₀ (State.verbReset s) := by
  unfold State.verbReset
  repeat' with_reducible first
    | assumption | apply State.enterReset_keeps | dsimp only | split

theorem State.commitReply_keeps {s₀ s : State} (h : Keeps s₀ s) : Keeps s₀ (State.commitReply s) := by
  unfold State.commitReply
  repeat' with_reducible first
    | assumption | apply Keeps.ite | apply State.authLooked_keeps | apply State.replyOk_keeps | apply State.replyErr_keeps
    | dsimp only | split

theorem State.perform_keeps {s₀ s : State} (h : Keeps s₀ s) : ∀ a b c, Keeps s₀ (State.perform s a b c) := by
  intro a b c
  unfold State.perform
  repeat' with_reducible first
    | assumption | intro _ | apply State.doTimeSet_keeps | apply State.calText_keeps | apply State.doBaud_keeps
    | apply State.doWatchSet_keeps | apply State.doCalRun_keeps | apply State.doFlush_keeps | apply State.doKey_keeps
    | apply State.doImgData_keeps | apply State.doAuthCard_keeps | apply State.replyOk_keeps | apply State.doSize_keeps
    | apply State.doAuthResp_keeps | apply State.doAuthLevel_keeps | apply State.doFind_keeps | apply State.doSeal_keeps
    | apply State.doImgBegin_keeps | apply State.doPortClear_keeps | apply State.doEcho_keeps | apply State.doUnlock_keeps
    | apply State.doStream_keeps | apply State.doRefit_keeps | apply State.doAdj_keeps | apply State.doAttic_keeps
    | apply State.replyErr_keeps | apply State.doErase_keeps | apply State.doCalK_keeps | apply State.doCalRaw_keeps
    | apply State.lifeBlow_keeps | apply State.doCounter_keeps | apply State.waitCommit_keeps | apply State.doLogout_keeps
    | apply State.waitPut_keeps | apply State.replyLines_keeps | apply State.doReset_keeps | apply State.doImgAbort_keeps
    | apply State.lifeVcc_keeps | apply State.doTickSet_keeps | apply State.doMode_keeps | apply State.doImgEnd_keeps
    | apply State.doPortFn_keeps | dsimp only | refine Keeps.of_snd (by assumption) ?_
    | refine Keeps.of_snd3 (by assumption) ?_ | refine Keeps.of_snd4 (by assumption) ?_
    | refine Keeps.of_fst (by assumption) ?_ | split

theorem State.decideForm_keeps {s₀ s : State} (h : Keeps s₀ s) : ∀ a b c d, Keeps s₀ (State.decideForm s a b c d) := by
  intro a b c d
  unfold State.decideForm
  repeat' with_reducible first
    | assumption | apply Keeps.ite | apply State.replyErr_keeps | apply State.perform_keeps | apply State.holdLine_keeps
    | dsimp only | split

theorem State.heldAgain_keeps {s₀ s : State} (h : Keeps s₀ s) : ∀ a b, Keeps s₀ (State.heldAgain s a b) := by
  intro a b
  unfold State.heldAgain
  repeat' with_reducible first
    | assumption | apply State.decideForm_keeps | apply State.appletDecide_keeps | apply State.replyErr_keeps | dsimp only
    | refine Keeps.of_snd (by assumption) ?_ | refine Keeps.of_snd3 (by assumption) ?_
    | refine Keeps.of_snd4 (by assumption) ?_ | refine Keeps.of_fst (by assumption) ?_ | split

theorem State.decideConfirm_keeps {s₀ s : State} (h : Keeps s₀ s) : ∀ a b, Keeps s₀ (State.decideConfirm s a b) := by
  intro a b
  unfold State.decideConfirm
  repeat' with_reducible first
    | assumption | simp only [Keeps.mk_iff] | apply Keeps.ite | apply Keeps.ite_snd | apply State.heldAgain_keeps
    | apply State.replyErr_keeps | dsimp only | apply Keeps.ite_snd3 | apply Keeps.ite_fst | apply Keeps.ite_snd4
    | refine Keeps.of_snd (by assumption) ?_ | refine Keeps.of_snd3 (by assumption) ?_
    | refine Keeps.of_snd4 (by assumption) ?_ | refine Keeps.of_fst (by assumption) ?_ | split

theorem State.decideVerb_keeps {s₀ s : State} (h : Keeps s₀ s) : ∀ a b c d, Keeps s₀ (State.decideVerb s a b c d) := by
  intro a b c d
  unfold State.decideVerb
  repeat' with_reducible first
    | assumption | apply Keeps.ite | apply State.decideForm_keeps | apply State.decideConfirm_keeps | dsimp only | split

theorem State.lineStart_keeps {s₀ s : State} (h : Keeps s₀ s) : Keeps s₀ (State.lineStart s) := by
  unfold State.lineStart
  repeat' with_reducible first
    | assumption | simp only [Keeps.mk_iff] | dsimp only

theorem State.heldDrop_keeps {s₀ s : State} (h : Keeps s₀ s) : Keeps s₀ (State.heldDrop s) := by
  unfold State.heldDrop
  repeat' with_reducible first
    | assumption | simp only [Keeps.mk_iff] | dsimp only

theorem State.lineVerb_keeps {s₀ s : State} (h : Keeps s₀ s) : ∀ a b, Keeps s₀ (State.lineVerb s a b) := by
  intro a b
  unfold State.lineVerb
  repeat' with_reducible first
    | assumption | apply Keeps.ite | apply Keeps.ite_snd | apply State.lineStart_keeps | apply State.decideVerb_keeps
    | apply State.replyErr_keeps | apply State.heldDrop_keeps | dsimp only | apply Keeps.ite_snd3 | apply Keeps.ite_fst
    | apply Keeps.ite_snd4 | refine Keeps.of_snd (by assumption) ?_ | refine Keeps.of_snd3 (by assumption) ?_
    | refine Keeps.of_snd4 (by assumption) ?_ | refine Keeps.of_fst (by assumption) ?_ | split

theorem State.decideRaw_keeps {s₀ s : State} (h : Keeps s₀ s) : ∀ a b c, Keeps s₀ (State.decideRaw s a b c) := by
  intro a b c
  unfold State.decideRaw
  repeat' with_reducible first
    | assumption | apply Keeps.ite | apply State.decideVerb_keeps | apply State.appletDecide_keeps
    | apply State.replyErr_keeps | dsimp only | split

theorem State.lineApplet_keeps {s₀ s : State} (h : Keeps s₀ s) : ∀ a b, Keeps s₀ (State.lineApplet s a b) := by
  intro a b
  unfold State.lineApplet
  repeat' with_reducible first
    | assumption | apply Keeps.ite | apply State.lineStart_keeps | apply State.appletDecide_keeps | apply State.replyErr_keeps
    | apply State.heldDrop_keeps | dsimp only | split

theorem State.lineEnd_keeps {s₀ s : State} (h : Keeps s₀ s) : ∀ a, Keeps s₀ (State.lineEnd s a) := by
  intro a
  unfold State.lineEnd
  repeat' with_reducible first
    | assumption | simp only [Keeps.mk_iff] | apply Keeps.ite | apply State.conPrompt_keeps | apply State.lineStart_keeps
    | apply State.decideRaw_keeps | apply State.replyErr_keeps | apply State.heldDrop_keeps | dsimp only | split

theorem State.rxDrop_keeps {s₀ s : State} (h : Keeps s₀ s) : Keeps s₀ (State.rxDrop s) := by
  unfold State.rxDrop
  repeat' with_reducible first
    | assumption | simp only [Keeps.mk_iff] | dsimp only

theorem State.breakLine_keeps {s₀ s : State} (h : Keeps s₀ s) : Keeps s₀ (State.breakLine s) := by
  unfold State.breakLine
  repeat' with_reducible first
    | assumption | apply Keeps.ite | apply State.conPrompt_keeps | apply State.conTx_keeps | apply State.rxDrop_keeps
    | dsimp only | split

theorem State.endByte_keeps {s₀ s : State} (h : Keeps s₀ s) : ∀ a b, Keeps s₀ (State.endByte s a b) := by
  intro a b
  unfold State.endByte
  repeat' with_reducible first
    | assumption | simp only [Keeps.mk_iff] | apply Keeps.ite | apply State.conTx_keeps | apply State.lineEnd_keeps
    | dsimp only | split

theorem State.eraseByte_keeps {s₀ s : State} (h : Keeps s₀ s) : Keeps s₀ (State.eraseByte s) := by
  unfold State.eraseByte
  repeat' with_reducible first
    | assumption | simp only [Keeps.mk_iff] | apply Keeps.ite | apply State.conTx_keeps | dsimp only | split

theorem State.charByte_keeps {s₀ s : State} (h : Keeps s₀ s) : ∀ a, Keeps s₀ (State.charByte s a) := by
  intro a
  unfold State.charByte
  repeat' with_reducible first
    | assumption | simp only [Keeps.mk_iff] | apply Keeps.ite | apply State.wr_keeps | apply State.conTx_keeps | dsimp only
    | split

theorem State.byteIn_keeps {s₀ s : State} (h : Keeps s₀ s) : ∀ a, Keeps s₀ (State.byteIn s a) := by
  intro a
  unfold State.byteIn
  repeat' with_reducible first
    | assumption | simp only [Keeps.mk_iff] | apply Keeps.ite | apply State.breakLine_keeps | apply State.charByte_keeps
    | apply State.endByte_keeps | apply State.eraseByte_keeps | dsimp only | split

theorem State.fifoPut_keeps {s₀ s : State} (h : Keeps s₀ s) : ∀ a, Keeps s₀ (State.fifoPut s a) := by
  intro a
  unfold State.fifoPut
  repeat' with_reducible first
    | assumption | simp only [Keeps.mk_iff] | apply Keeps.ite | apply State.wr_keeps | dsimp only | split

theorem State.fifoTake_keeps {s₀ s : State} (h : Keeps s₀ s) : Keeps s₀ (State.fifoTake s) := by
  unfold State.fifoTake
  repeat' with_reducible first
    | assumption | simp only [Keeps.mk_iff] | apply State.byteIn_keeps | apply State.endByte_keeps | dsimp only | split

theorem State.drain_keeps {s₀ s : State} (h : Keeps s₀ s) : ∀ a, Keeps s₀ (State.drain a s) := by
  intro a
  induction a generalizing s
  all_goals unfold State.drain
  repeat' with_reducible first
    | assumption | apply Keeps.ite | apply_assumption | apply State.fifoTake_keeps | dsimp only | split

theorem State.conDrain_keeps {s₀ s : State} (h : Keeps s₀ s) : Keeps s₀ (State.conDrain s) := by
  unfold State.conDrain
  repeat' with_reducible first
    | assumption | apply State.drain_keeps | dsimp only

theorem State.rxNext_keeps {s₀ s : State} (h : Keeps s₀ s) : ∀ a, Keeps s₀ (State.rxNext s a) := by
  intro a
  unfold State.rxNext
  repeat' with_reducible first
    | assumption | apply Keeps.ite | apply State.byteIn_keeps | apply State.conDrain_keeps | apply State.fifoPut_keeps
    | dsimp only | split

theorem State.rxByte_keeps {s₀ s : State} (h : Keeps s₀ s) : ∀ a, Keeps s₀ (State.rxByte s a) := by
  intro a
  unfold State.rxByte
  repeat' with_reducible first
    | assumption | apply Keeps.ite | apply State.rxNext_keeps | apply State.appletGiveUp_keeps | dsimp only | split

theorem State.framing_keeps {s₀ s : State} (h : Keeps s₀ s) : Keeps s₀ (State.framing s) := by
  unfold State.framing
  repeat' with_reducible first
    | assumption | simp only [Keeps.mk_iff] | apply Keeps.ite | apply State.wr_keeps | apply State.rxDrop_keeps
    | apply State.sessionEnd_keeps | dsimp only | split

theorem State.baudBack_keeps {s₀ s : State} (h : Keeps s₀ s) : Keeps s₀ (State.baudBack s) := by
  unfold State.baudBack
  repeat' with_reducible first
    | assumption | simp only [Keeps.mk_iff] | apply Keeps.ite | apply State.wr_keeps | apply State.notice_keeps | dsimp only
    | split

theorem State.holdEnds_keeps {s₀ s : State} (h : Keeps s₀ s) : Keeps s₀ (State.holdEnds s) := by
  unfold State.holdEnds
  repeat' with_reducible first
    | assumption | apply State.heldDrop_keeps | apply State.notice_keeps | dsimp only | split

theorem State.challengeEnds_keeps {s₀ s : State} (h : Keeps s₀ s) : Keeps s₀ (State.challengeEnds s) := by
  unfold State.challengeEnds
  repeat' with_reducible first
    | assumption | simp only [Keeps.mk_iff] | dsimp only

end Sys2Proof.Machine
end

