-- ==== Sys2Proof/Laws/Keeps9.lean ====
section
/-!
SUPPORT. Keeps9.lean: the operations of ConsoleCmds.lean keep the queue of commands, the canonical form of the memory and the
blown fuses (Laws/Keeps.lean). A lemma of a command's meaning speaks of the state after it.
-/
namespace Sys2Proof.Machine

theorem execConsoleByte_keeps {s₀ s : State} (h : Keeps s₀ s) : ∀ a, Keeps s₀ (afterExec (execConsoleByte a s) s) := by
  intro a
  unfold execConsoleByte afterExec
  repeat' with_reducible first
    | assumption | apply State.rxByte_keeps | dsimp only

theorem execCtrlC_keeps {s₀ s : State} (h : Keeps s₀ s) : Keeps s₀ (afterExec (execCtrlC s) s) := by
  unfold execCtrlC afterExec
  repeat' with_reducible first
    | assumption | apply State.rxByte_keeps | dsimp only

theorem execFramingLoss_keeps {s₀ s : State} (h : Keeps s₀ s) : Keeps s₀ (afterExec (execFramingLoss s) s) := by
  unfold execFramingLoss afterExec
  repeat' with_reducible first
    | assumption | apply State.framing_keeps | dsimp only

theorem execBaudRevert_keeps {s₀ s : State} (h : Keeps s₀ s) : Keeps s₀ (afterExec (execBaudRevert s) s) := by
  unfold execBaudRevert afterExec
  repeat' with_reducible first
    | assumption | apply State.baudBack_keeps | dsimp only

theorem execSessionIdleTimeout_keeps {s₀ s : State} (h : Keeps s₀ s) : Keeps s₀ (afterExec (execSessionIdleTimeout s) s) := by
  unfold execSessionIdleTimeout afterExec
  repeat' with_reducible first
    | assumption | apply State.sessionEnd_keeps | dsimp only

theorem execChallengeExpiry_keeps {s₀ s : State} (h : Keeps s₀ s) : Keeps s₀ (afterExec (execChallengeExpiry s) s) := by
  unfold execChallengeExpiry afterExec
  repeat' with_reducible first
    | assumption | apply State.challengeEnds_keeps | dsimp only

theorem execHoldExpiry_keeps {s₀ s : State} (h : Keeps s₀ s) : Keeps s₀ (afterExec (execHoldExpiry s) s) := by
  unfold execHoldExpiry afterExec
  repeat' with_reducible first
    | assumption | apply State.holdEnds_keeps | dsimp only

theorem execAppletTimeout_keeps {s₀ s : State} (h : Keeps s₀ s) : Keeps s₀ (afterExec (execAppletTimeout s) s) := by
  unfold execAppletTimeout afterExec
  repeat' with_reducible first
    | assumption | apply State.conDrain_keeps | apply State.appletGiveUp_keeps | dsimp only

theorem execTimeSetPpsTimeout_keeps {s₀ s : State} (h : Keeps s₀ s) : Keeps s₀ (afterExec (execTimeSetPpsTimeout s) s) := by
  unfold execTimeSetPpsTimeout afterExec
  repeat' with_reducible first
    | assumption | apply State.ppsTimeout_keeps | apply State.conDrain_keeps | dsimp only

theorem execAppletReply_keeps {s₀ s : State} (h : Keeps s₀ s) : ∀ a, Keeps s₀ (afterExec (execAppletReply a s) s) := by
  intro a
  unfold execAppletReply afterExec
  repeat' with_reducible first
    | assumption | apply State.appletReply_keeps | apply State.conDrain_keeps | dsimp only

theorem execVerbReg_keeps {s₀ s : State} (h : Keeps s₀ s) : ∀ a, Keeps s₀ (afterExec (execVerbReg a s) s) := by
  intro a
  unfold execVerbReg afterExec
  repeat' with_reducible first
    | assumption | apply State.verbReg_keeps | dsimp only

theorem execModeReq_keeps {s₀ s : State} (h : Keeps s₀ s) : ∀ a, Keeps s₀ (afterExec (execModeReq a s) s) := by
  intro a
  unfold execModeReq afterExec
  repeat' with_reducible first
    | assumption | apply State.modeReq_keeps | dsimp only

theorem execAuthCardResponse_keeps {s₀ s : State} (h : Keeps s₀ s) : Keeps s₀ (afterExec (execAuthCardResponse s) s) := by
  unfold execAuthCardResponse afterExec
  repeat' with_reducible first
    | assumption | apply State.authCardEnds_keeps | apply State.conDrain_keeps | dsimp only

theorem execVerbCommitReply_keeps {s₀ s : State} (h : Keeps s₀ s) : Keeps s₀ (afterExec (execVerbCommitReply s) s) := by
  unfold execVerbCommitReply afterExec
  repeat' with_reducible first
    | assumption | apply State.conDrain_keeps | apply State.commitReply_keeps | dsimp only

theorem execVerbReset_keeps {s₀ s : State} (h : Keeps s₀ s) : Keeps s₀ (afterExec (execVerbReset s) s) := by
  unfold execVerbReset afterExec
  repeat' with_reducible first
    | assumption | apply State.verbReset_keeps | dsimp only

theorem execLifeFuseResume_keeps {s₀ s : State} (h : Keeps s₀ s) : ∀ a, Keeps s₀ (afterExec (execLifeFuseResume a s) s) := by
  intro a
  unfold execLifeFuseResume afterExec
  repeat' with_reducible first
    | assumption | apply State.fuseResume_keeps | dsimp only

theorem State.conBoundary_keeps {s₀ s : State} (h : Keeps s₀ s) : Keeps s₀ (State.conBoundary s) := by
  unfold State.conBoundary
  repeat' with_reducible first
    | assumption | apply State.conDrain_keeps | apply State.authBoundary_keeps | dsimp only

theorem State.tickStep_keeps {s₀ s : State} (h : Keeps s₀ s) : ∀ a, Keeps s₀ (State.tickStep s a) := by
  intro a
  unfold State.tickStep
  repeat' with_reducible first
    | assumption | apply Keeps.ite | apply State.conBoundary_keeps | apply State.tickEdge_keeps | dsimp only | split

theorem execTickBoundary_keeps {s₀ s : State} (h : Keeps s₀ s) : ∀ a, Keeps s₀ (afterExec (execTickBoundary a s) s) := by
  intro a
  unfold execTickBoundary afterExec
  repeat' with_reducible first
    | assumption | apply State.tickStep_keeps | dsimp only

theorem State.holdStep_keeps {s₀ s : State} (h : Keeps s₀ s) : ∀ a, Keeps s₀ (State.holdStep s a) := by
  intro a
  unfold State.holdStep
  repeat' with_reducible first
    | assumption | apply Keeps.ite | apply State.conBoundary_keeps | apply State.holdExit_keeps | dsimp only | split

theorem execHoldExit_keeps {s₀ s : State} (h : Keeps s₀ s) : ∀ a, Keeps s₀ (afterExec (execHoldExit a s) s) := by
  intro a
  unfold execHoldExit afterExec
  repeat' with_reducible first
    | assumption | apply State.holdStep_keeps | dsimp only

theorem execAppletVerb_keeps {s₀ s : State} (h : Keeps s₀ s) : ∀ a b, Keeps s₀ (afterExec (execAppletVerb a b s) s) := by
  intro a b
  unfold execAppletVerb afterExec
  repeat' with_reducible first
    | assumption | apply State.lineApplet_keeps | dsimp only

theorem execHelp_keeps {s₀ s : State} (h : Keeps s₀ s) : ∀ a, Keeps s₀ (afterExec (execHelp a s) s) := by
  intro a
  unfold execHelp afterExec
  repeat' with_reducible first
    | assumption | apply State.lineVerb_keeps | dsimp only

theorem execHelpVerb_keeps {s₀ s : State} (h : Keeps s₀ s) : ∀ a b, Keeps s₀ (afterExec (execHelpVerb a b s) s) := by
  intro a b
  unfold execHelpVerb afterExec
  repeat' with_reducible first
    | assumption | apply State.lineVerb_keeps | dsimp only

theorem execInfo_keeps {s₀ s : State} (h : Keeps s₀ s) : ∀ a, Keeps s₀ (afterExec (execInfo a s) s) := by
  intro a
  unfold execInfo afterExec
  repeat' with_reducible first
    | assumption | apply State.lineVerb_keeps | dsimp only

theorem execModeShow_keeps {s₀ s : State} (h : Keeps s₀ s) : ∀ a, Keeps s₀ (afterExec (execModeShow a s) s) := by
  intro a
  unfold execModeShow afterExec
  repeat' with_reducible first
    | assumption | apply State.lineVerb_keeps | dsimp only

theorem execModeChange_keeps {s₀ s : State} (h : Keeps s₀ s) : ∀ a b, Keeps s₀ (afterExec (execModeChange a b s) s) := by
  intro a b
  unfold execModeChange afterExec
  repeat' with_reducible first
    | assumption | apply State.lineVerb_keeps | dsimp only

theorem execEchoOn_keeps {s₀ s : State} (h : Keeps s₀ s) : ∀ a, Keeps s₀ (afterExec (execEchoOn a s) s) := by
  intro a
  unfold execEchoOn afterExec
  repeat' with_reducible first
    | assumption | apply State.lineVerb_keeps | dsimp only

theorem execEchoOff_keeps {s₀ s : State} (h : Keeps s₀ s) : ∀ a, Keeps s₀ (afterExec (execEchoOff a s) s) := by
  intro a
  unfold execEchoOff afterExec
  repeat' with_reducible first
    | assumption | apply State.lineVerb_keeps | dsimp only

theorem execEchoShow_keeps {s₀ s : State} (h : Keeps s₀ s) : ∀ a, Keeps s₀ (afterExec (execEchoShow a s) s) := by
  intro a
  unfold execEchoShow afterExec
  repeat' with_reducible first
    | assumption | apply State.lineVerb_keeps | dsimp only

theorem execLineShow_keeps {s₀ s : State} (h : Keeps s₀ s) : ∀ a, Keeps s₀ (afterExec (execLineShow a s) s) := by
  intro a
  unfold execLineShow afterExec
  repeat' with_reducible first
    | assumption | apply State.lineVerb_keeps | dsimp only

theorem execLineBaud_keeps {s₀ s : State} (h : Keeps s₀ s) : ∀ a b, Keeps s₀ (afterExec (execLineBaud a b s) s) := by
  intro a b
  unfold execLineBaud afterExec
  repeat' with_reducible first
    | assumption | apply State.lineVerb_keeps | dsimp only

theorem execAuthLevel_keeps {s₀ s : State} (h : Keeps s₀ s) : ∀ a b, Keeps s₀ (afterExec (execAuthLevel a b s) s) := by
  intro a b
  unfold execAuthLevel afterExec
  repeat' with_reducible first
    | assumption | apply State.lineVerb_keeps | dsimp only

theorem execAuthResp_keeps {s₀ s : State} (h : Keeps s₀ s) : ∀ a b, Keeps s₀ (afterExec (execAuthResp a b s) s) := by
  intro a b
  unfold execAuthResp afterExec
  repeat' with_reducible first
    | assumption | apply State.lineVerb_keeps | dsimp only

theorem execAuthCard_keeps {s₀ s : State} (h : Keeps s₀ s) : ∀ a b, Keeps s₀ (afterExec (execAuthCard a b s) s) := by
  intro a b
  unfold execAuthCard afterExec
  repeat' with_reducible first
    | assumption | apply State.lineVerb_keeps | dsimp only

theorem execLogout_keeps {s₀ s : State} (h : Keeps s₀ s) : ∀ a, Keeps s₀ (afterExec (execLogout a s) s) := by
  intro a
  unfold execLogout afterExec
  repeat' with_reducible first
    | assumption | apply State.lineVerb_keeps | dsimp only

theorem execConfirm_keeps {s₀ s : State} (h : Keeps s₀ s) : ∀ a b, Keeps s₀ (afterExec (execConfirm a b s) s) := by
  intro a b
  unfold execConfirm afterExec
  repeat' with_reducible first
    | assumption | apply State.lineVerb_keeps | dsimp only

theorem execStat_keeps {s₀ s : State} (h : Keeps s₀ s) : ∀ a, Keeps s₀ (afterExec (execStat a s) s) := by
  intro a
  unfold execStat afterExec
  repeat' with_reducible first
    | assumption | apply State.lineVerb_keeps | dsimp only

theorem execStatReset_keeps {s₀ s : State} (h : Keeps s₀ s) : ∀ a, Keeps s₀ (afterExec (execStatReset a s) s) := by
  intro a
  unfold execStatReset afterExec
  repeat' with_reducible first
    | assumption | apply State.lineVerb_keeps | dsimp only

theorem execStatRise_keeps {s₀ s : State} (h : Keeps s₀ s) : ∀ a, Keeps s₀ (afterExec (execStatRise a s) s) := by
  intro a
  unfold execStatRise afterExec
  repeat' with_reducible first
    | assumption | apply State.lineVerb_keeps | dsimp only

theorem execLogTamper_keeps {s₀ s : State} (h : Keeps s₀ s) : ∀ a b, Keeps s₀ (afterExec (execLogTamper a b s) s) := by
  intro a b
  unfold execLogTamper afterExec
  repeat' with_reducible first
    | assumption | apply State.lineVerb_keeps | dsimp only

theorem execLogAttic_keeps {s₀ s : State} (h : Keeps s₀ s) : ∀ a b c, Keeps s₀ (afterExec (execLogAttic a b c s) s) := by
  intro a b c
  unfold execLogAttic afterExec
  repeat' with_reducible first
    | assumption | apply State.lineVerb_keeps | dsimp only

theorem execCount_keeps {s₀ s : State} (h : Keeps s₀ s) : ∀ a, Keeps s₀ (afterExec (execCount a s) s) := by
  intro a
  unfold execCount afterExec
  repeat' with_reducible first
    | assumption | apply State.lineVerb_keeps | dsimp only

theorem execCountCtr_keeps {s₀ s : State} (h : Keeps s₀ s) : ∀ a b, Keeps s₀ (afterExec (execCountCtr a b s) s) := by
  intro a b
  unfold execCountCtr afterExec
  repeat' with_reducible first
    | assumption | apply State.lineVerb_keeps | dsimp only

theorem execCountRing_keeps {s₀ s : State} (h : Keeps s₀ s) : ∀ a b c, Keeps s₀ (afterExec (execCountRing a b c s) s) := by
  intro a b c
  unfold execCountRing afterExec
  repeat' with_reducible first
    | assumption | apply State.lineVerb_keeps | dsimp only

theorem execTickShow_keeps {s₀ s : State} (h : Keeps s₀ s) : ∀ a, Keeps s₀ (afterExec (execTickShow a s) s) := by
  intro a
  unfold execTickShow afterExec
  repeat' with_reducible first
    | assumption | apply State.lineVerb_keeps | dsimp only

theorem execTickJobs_keeps {s₀ s : State} (h : Keeps s₀ s) : ∀ a, Keeps s₀ (afterExec (execTickJobs a s) s) := by
  intro a
  unfold execTickJobs afterExec
  repeat' with_reducible first
    | assumption | apply State.lineVerb_keeps | dsimp only

theorem execTickSet_keeps {s₀ s : State} (h : Keeps s₀ s) : ∀ a b c, Keeps s₀ (afterExec (execTickSet a b c s) s) := by
  intro a b c
  unfold execTickSet afterExec
  repeat' with_reducible first
    | assumption | apply State.lineVerb_keeps | dsimp only

theorem execTimeShow_keeps {s₀ s : State} (h : Keeps s₀ s) : ∀ a, Keeps s₀ (afterExec (execTimeShow a s) s) := by
  intro a
  unfold execTimeShow afterExec
  repeat' with_reducible first
    | assumption | apply State.lineVerb_keeps | dsimp only

theorem execTimeAdj_keeps {s₀ s : State} (h : Keeps s₀ s) : ∀ a b, Keeps s₀ (afterExec (execTimeAdj a b s) s) := by
  intro a b
  unfold execTimeAdj afterExec
  repeat' with_reducible first
    | assumption | apply State.lineVerb_keeps | dsimp only

theorem execTimeSet_keeps {s₀ s : State} (h : Keeps s₀ s) : ∀ a b c, Keeps s₀ (afterExec (execTimeSet a b c s) s) := by
  intro a b c
  unfold execTimeSet afterExec
  repeat' with_reducible first
    | assumption | apply State.lineVerb_keeps | dsimp only

theorem execCalShow_keeps {s₀ s : State} (h : Keeps s₀ s) : ∀ a, Keeps s₀ (afterExec (execCalShow a s) s) := by
  intro a
  unfold execCalShow afterExec
  repeat' with_reducible first
    | assumption | apply State.lineVerb_keeps | dsimp only

theorem execCalK_keeps {s₀ s : State} (h : Keeps s₀ s) : ∀ a b c, Keeps s₀ (afterExec (execCalK a b c s) s) := by
  intro a b c
  unfold execCalK afterExec
  repeat' with_reducible first
    | assumption | apply State.lineVerb_keeps | dsimp only

theorem execCalRun_keeps {s₀ s : State} (h : Keeps s₀ s) : ∀ a, Keeps s₀ (afterExec (execCalRun a s) s) := by
  intro a
  unfold execCalRun afterExec
  repeat' with_reducible first
    | assumption | apply State.lineVerb_keeps | dsimp only

theorem execCalRaw_keeps {s₀ s : State} (h : Keeps s₀ s) : ∀ a b, Keeps s₀ (afterExec (execCalRaw a b s) s) := by
  intro a b
  unfold execCalRaw afterExec
  repeat' with_reducible first
    | assumption | apply State.lineVerb_keeps | dsimp only

theorem execPortList_keeps {s₀ s : State} (h : Keeps s₀ s) : ∀ a, Keeps s₀ (afterExec (execPortList a s) s) := by
  intro a
  unfold execPortList afterExec
  repeat' with_reducible first
    | assumption | apply State.lineVerb_keeps | dsimp only

theorem execPortShow_keeps {s₀ s : State} (h : Keeps s₀ s) : ∀ a b, Keeps s₀ (afterExec (execPortShow a b s) s) := by
  intro a b
  unfold execPortShow afterExec
  repeat' with_reducible first
    | assumption | apply State.lineVerb_keeps | dsimp only

theorem execPortFn_keeps {s₀ s : State} (h : Keeps s₀ s) : ∀ a b c, Keeps s₀ (afterExec (execPortFn a b c s) s) := by
  intro a b c
  unfold execPortFn afterExec
  repeat' with_reducible first
    | assumption | apply State.lineVerb_keeps | dsimp only

theorem execPortClear_keeps {s₀ s : State} (h : Keeps s₀ s) : ∀ a b, Keeps s₀ (afterExec (execPortClear a b s) s) := by
  intro a b
  unfold execPortClear afterExec
  repeat' with_reducible first
    | assumption | apply State.lineVerb_keeps | dsimp only

theorem execQueueList_keeps {s₀ s : State} (h : Keeps s₀ s) : ∀ a, Keeps s₀ (afterExec (execQueueList a s) s) := by
  intro a
  unfold execQueueList afterExec
  repeat' with_reducible first
    | assumption | apply State.lineVerb_keeps | dsimp only

theorem execQueueShow_keeps {s₀ s : State} (h : Keeps s₀ s) : ∀ a b, Keeps s₀ (afterExec (execQueueShow a b s) s) := by
  intro a b
  unfold execQueueShow afterExec
  repeat' with_reducible first
    | assumption | apply State.lineVerb_keeps | dsimp only

theorem execQueueFlush_keeps {s₀ s : State} (h : Keeps s₀ s) : ∀ a b, Keeps s₀ (afterExec (execQueueFlush a b s) s) := by
  intro a b
  unfold execQueueFlush afterExec
  repeat' with_reducible first
    | assumption | apply State.lineVerb_keeps | dsimp only

theorem execStoreShow_keeps {s₀ s : State} (h : Keeps s₀ s) : ∀ a, Keeps s₀ (afterExec (execStoreShow a s) s) := by
  intro a
  unfold execStoreShow afterExec
  repeat' with_reducible first
    | assumption | apply State.lineVerb_keeps | dsimp only

theorem execStoreFind_keeps {s₀ s : State} (h : Keeps s₀ s) : ∀ a b c, Keeps s₀ (afterExec (execStoreFind a b c s) s) := by
  intro a b c
  unfold execStoreFind afterExec
  repeat' with_reducible first
    | assumption | apply State.lineVerb_keeps | dsimp only

theorem execStoreSize_keeps {s₀ s : State} (h : Keeps s₀ s) :
    ∀ a b c d e f, Keeps s₀ (afterExec (execStoreSize a b c d e f s) s) := by
  intro a b c d e f
  unfold execStoreSize afterExec
  repeat' with_reducible first
    | assumption | apply State.lineVerb_keeps | dsimp only

theorem execKeyList_keeps {s₀ s : State} (h : Keeps s₀ s) : ∀ a, Keeps s₀ (afterExec (execKeyList a s) s) := by
  intro a
  unfold execKeyList afterExec
  repeat' with_reducible first
    | assumption | apply State.lineVerb_keeps | dsimp only

theorem execKeyShow_keeps {s₀ s : State} (h : Keeps s₀ s) : ∀ a b, Keeps s₀ (afterExec (execKeyShow a b s) s) := by
  intro a b
  unfold execKeyShow afterExec
  repeat' with_reducible first
    | assumption | apply State.lineVerb_keeps | dsimp only

theorem execKeyStage_keeps {s₀ s : State} (h : Keeps s₀ s) : ∀ a b, Keeps s₀ (afterExec (execKeyStage a b s) s) := by
  intro a b
  unfold execKeyStage afterExec
  repeat' with_reducible first
    | assumption | apply State.lineVerb_keeps | dsimp only

theorem execKeyData_keeps {s₀ s : State} (h : Keeps s₀ s) : ∀ a b c, Keeps s₀ (afterExec (execKeyData a b c s) s) := by
  intro a b c
  unfold execKeyData afterExec
  repeat' with_reducible first
    | assumption | apply State.lineVerb_keeps | dsimp only

theorem execKeyWrite_keeps {s₀ s : State} (h : Keeps s₀ s) : ∀ a, Keeps s₀ (afterExec (execKeyWrite a s) s) := by
  intro a
  unfold execKeyWrite afterExec
  repeat' with_reducible first
    | assumption | apply State.lineVerb_keeps | dsimp only

theorem execKeyGen_keeps {s₀ s : State} (h : Keeps s₀ s) : ∀ a b, Keeps s₀ (afterExec (execKeyGen a b s) s) := by
  intro a b
  unfold execKeyGen afterExec
  repeat' with_reducible first
    | assumption | apply State.lineVerb_keeps | dsimp only

theorem execKeyRetire_keeps {s₀ s : State} (h : Keeps s₀ s) : ∀ a b, Keeps s₀ (afterExec (execKeyRetire a b s) s) := by
  intro a b
  unfold execKeyRetire afterExec
  repeat' with_reducible first
    | assumption | apply State.lineVerb_keeps | dsimp only

theorem execKeyRevoke_keeps {s₀ s : State} (h : Keeps s₀ s) : ∀ a b, Keeps s₀ (afterExec (execKeyRevoke a b s) s) := by
  intro a b
  unfold execKeyRevoke afterExec
  repeat' with_reducible first
    | assumption | apply State.lineVerb_keeps | dsimp only

theorem execWatchList_keeps {s₀ s : State} (h : Keeps s₀ s) : ∀ a, Keeps s₀ (afterExec (execWatchList a s) s) := by
  intro a
  unfold execWatchList afterExec
  repeat' with_reducible first
    | assumption | apply State.lineVerb_keeps | dsimp only

theorem execWatchSrc_keeps {s₀ s : State} (h : Keeps s₀ s) : ∀ a b, Keeps s₀ (afterExec (execWatchSrc a b s) s) := by
  intro a b
  unfold execWatchSrc afterExec
  repeat' with_reducible first
    | assumption | apply State.lineVerb_keeps | dsimp only

theorem execWatchSet_keeps {s₀ s : State} (h : Keeps s₀ s) : ∀ a b c d, Keeps s₀ (afterExec (execWatchSet a b c d s) s) := by
  intro a b c d
  unfold execWatchSet afterExec
  repeat' with_reducible first
    | assumption | apply State.lineVerb_keeps | dsimp only

theorem execWatchFloor_keeps {s₀ s : State} (h : Keeps s₀ s) : ∀ a b c, Keeps s₀ (afterExec (execWatchFloor a b c s) s) := by
  intro a b c
  unfold execWatchFloor afterExec
  repeat' with_reducible first
    | assumption | apply State.lineVerb_keeps | dsimp only

theorem execWatchArm_keeps {s₀ s : State} (h : Keeps s₀ s) : ∀ a b, Keeps s₀ (afterExec (execWatchArm a b s) s) := by
  intro a b
  unfold execWatchArm afterExec
  repeat' with_reducible first
    | assumption | apply State.lineVerb_keeps | dsimp only

theorem execWatchDisarm_keeps {s₀ s : State} (h : Keeps s₀ s) : ∀ a b, Keeps s₀ (afterExec (execWatchDisarm a b s) s) := by
  intro a b
  unfold execWatchDisarm afterExec
  repeat' with_reducible first
    | assumption | apply State.lineVerb_keeps | dsimp only

theorem execTele_keeps {s₀ s : State} (h : Keeps s₀ s) : ∀ a, Keeps s₀ (afterExec (execTele a s) s) := by
  intro a
  unfold execTele afterExec
  repeat' with_reducible first
    | assumption | apply State.lineVerb_keeps | dsimp only

theorem execTeleShow_keeps {s₀ s : State} (h : Keeps s₀ s) : ∀ a b, Keeps s₀ (afterExec (execTeleShow a b s) s) := by
  intro a b
  unfold execTeleShow afterExec
  repeat' with_reducible first
    | assumption | apply State.lineVerb_keeps | dsimp only

theorem execTelePer_keeps {s₀ s : State} (h : Keeps s₀ s) : ∀ a b, Keeps s₀ (afterExec (execTelePer a b s) s) := by
  intro a b
  unfold execTelePer afterExec
  repeat' with_reducible first
    | assumption | apply State.lineVerb_keeps | dsimp only

theorem execTeleStreamOn_keeps {s₀ s : State} (h : Keeps s₀ s) : ∀ a, Keeps s₀ (afterExec (execTeleStreamOn a s) s) := by
  intro a
  unfold execTeleStreamOn afterExec
  repeat' with_reducible first
    | assumption | apply State.lineVerb_keeps | dsimp only

theorem execTeleStreamOff_keeps {s₀ s : State} (h : Keeps s₀ s) : ∀ a, Keeps s₀ (afterExec (execTeleStreamOff a s) s) := by
  intro a
  unfold execTeleStreamOff afterExec
  repeat' with_reducible first
    | assumption | apply State.lineVerb_keeps | dsimp only

theorem execImageList_keeps {s₀ s : State} (h : Keeps s₀ s) : ∀ a, Keeps s₀ (afterExec (execImageList a s) s) := by
  intro a
  unfold execImageList afterExec
  repeat' with_reducible first
    | assumption | apply State.lineVerb_keeps | dsimp only

theorem execImageBegin_keeps {s₀ s : State} (h : Keeps s₀ s) :
    ∀ a b c d, Keeps s₀ (afterExec (execImageBegin a b c d s) s) := by
  intro a b c d
  unfold execImageBegin afterExec
  repeat' with_reducible first
    | assumption | apply State.lineVerb_keeps | dsimp only

theorem execImageData_keeps {s₀ s : State} (h : Keeps s₀ s) : ∀ a b c, Keeps s₀ (afterExec (execImageData a b c s) s) := by
  intro a b c
  unfold execImageData afterExec
  repeat' with_reducible first
    | assumption | apply State.lineVerb_keeps | dsimp only

theorem execImageEnd_keeps {s₀ s : State} (h : Keeps s₀ s) : ∀ a, Keeps s₀ (afterExec (execImageEnd a s) s) := by
  intro a
  unfold execImageEnd afterExec
  repeat' with_reducible first
    | assumption | apply State.lineVerb_keeps | dsimp only

theorem execImageAbort_keeps {s₀ s : State} (h : Keeps s₀ s) : ∀ a, Keeps s₀ (afterExec (execImageAbort a s) s) := by
  intro a
  unfold execImageAbort afterExec
  repeat' with_reducible first
    | assumption | apply State.lineVerb_keeps | dsimp only

theorem execLifeShow_keeps {s₀ s : State} (h : Keeps s₀ s) : ∀ a, Keeps s₀ (afterExec (execLifeShow a s) s) := by
  intro a
  unfold execLifeShow afterExec
  repeat' with_reducible first
    | assumption | apply State.lineVerb_keeps | dsimp only

theorem execLifeFit_keeps {s₀ s : State} (h : Keeps s₀ s) : ∀ a, Keeps s₀ (afterExec (execLifeFit a s) s) := by
  intro a
  unfold execLifeFit afterExec
  repeat' with_reducible first
    | assumption | apply State.lineVerb_keeps | dsimp only

theorem execLifeSeal_keeps {s₀ s : State} (h : Keeps s₀ s) : ∀ a, Keeps s₀ (afterExec (execLifeSeal a s) s) := by
  intro a
  unfold execLifeSeal afterExec
  repeat' with_reducible first
    | assumption | apply State.lineVerb_keeps | dsimp only

theorem execLifeErase_keeps {s₀ s : State} (h : Keeps s₀ s) : ∀ a, Keeps s₀ (afterExec (execLifeErase a s) s) := by
  intro a
  unfold execLifeErase afterExec
  repeat' with_reducible first
    | assumption | apply State.lineVerb_keeps | dsimp only

theorem execLifeRetire_keeps {s₀ s : State} (h : Keeps s₀ s) : ∀ a, Keeps s₀ (afterExec (execLifeRetire a s) s) := by
  intro a
  unfold execLifeRetire afterExec
  repeat' with_reducible first
    | assumption | apply State.lineVerb_keeps | dsimp only

theorem execLifeRefit_keeps {s₀ s : State} (h : Keeps s₀ s) : ∀ a, Keeps s₀ (afterExec (execLifeRefit a s) s) := by
  intro a
  unfold execLifeRefit afterExec
  repeat' with_reducible first
    | assumption | apply State.lineVerb_keeps | dsimp only

theorem execUnlock_keeps {s₀ s : State} (h : Keeps s₀ s) : ∀ a, Keeps s₀ (afterExec (execUnlock a s) s) := by
  intro a
  unfold execUnlock afterExec
  repeat' with_reducible first
    | assumption | apply State.lineVerb_keeps | dsimp only

theorem execReset_keeps {s₀ s : State} (h : Keeps s₀ s) : ∀ a, Keeps s₀ (afterExec (execReset a s) s) := by
  intro a
  unfold execReset afterExec
  repeat' with_reducible first
    | assumption | apply State.lineVerb_keeps | dsimp only

end Sys2Proof.Machine
end

