-- ==== Sys2Proof/Laws/State.lean ====
section
/-!
SUPPORT. State.lean: what each named update of one part of the state leaves: every other field, by one lemma per field; and what
the updated table holds afterwards.
-/
namespace Sys2Proof.Machine

/-! ## wr: only `regs` changes -/

@[simp] theorem State.wr_pending (s : State) (f : Field) (v : Nat) : (s.wr f v).pending = s.pending := rfl
@[simp] theorem State.wr_draws (s : State) (f : Field) (v : Nat) : (s.wr f v).draws = s.draws := rfl
@[simp] theorem State.wr_shadow (s : State) (f : Field) (v : Nat) : (s.wr f v).shadow = s.shadow := rfl
@[simp] theorem State.wr_mem (s : State) (f : Field) (v : Nat) : (s.wr f v).mem = s.mem := rfl
@[simp] theorem State.wr_sys (s : State) (f : Field) (v : Nat) : (s.wr f v).sys = s.sys := rfl
@[simp] theorem State.wr_si (s : State) (f : Field) (v : Nat) : (s.wr f v).si = s.si := rfl
@[simp] theorem State.wr_cel (s : State) (f : Field) (v : Nat) : (s.wr f v).cel = s.cel := rfl
@[simp] theorem State.wr_nv (s : State) (f : Field) (v : Nat) : (s.wr f v).nv = s.nv := rfl
@[simp] theorem State.wr_tick (s : State) (f : Field) (v : Nat) : (s.wr f v).tick = s.tick := rfl
@[simp] theorem State.wr_hatch (s : State) (f : Field) (v : Nat) : (s.wr f v).hatch = s.hatch := rfl
@[simp] theorem State.wr_watch (s : State) (f : Field) (v : Nat) : (s.wr f v).watch = s.watch := rfl
@[simp] theorem State.wr_care (s : State) (f : Field) (v : Nat) : (s.wr f v).care = s.care := rfl
@[simp] theorem State.wr_ldr (s : State) (f : Field) (v : Nat) : (s.wr f v).ldr = s.ldr := rfl
@[simp] theorem State.wr_bank (s : State) (f : Field) (v : Nat) : (s.wr f v).bank = s.bank := rfl
@[simp] theorem State.wr_progs (s : State) (f : Field) (v : Nat) : (s.wr f v).progs = s.progs := rfl
@[simp] theorem State.wr_tbs (s : State) (f : Field) (v : Nat) : (s.wr f v).tbs = s.tbs := rfl
@[simp] theorem State.wr_con (s : State) (f : Field) (v : Nat) : (s.wr f v).con = s.con := rfl
@[simp] theorem State.wr_load (s : State) (f : Field) (v : Nat) : (s.wr f v).load = s.load := rfl
@[simp] theorem State.wr_qfx (s : State) (f : Field) (v : Nat) : (s.wr f v).qfx = s.qfx := rfl
@[simp] theorem State.wr_port (s : State) (f : Field) (v : Nat) : (s.wr f v).port = s.port := rfl
@[simp] theorem State.wr_hlk (s : State) (f : Field) (v : Nat) : (s.wr f v).hlk = s.hlk := rfl
@[simp] theorem State.wr_rly (s : State) (f : Field) (v : Nat) : (s.wr f v).rly = s.rly := rfl
@[simp] theorem State.wr_cpu (s : State) (f : Field) (v : Nat) : (s.wr f v).cpu = s.cpu := rfl
@[simp] theorem State.wr_vlt (s : State) (f : Field) (v : Nat) : (s.wr f v).vlt = s.vlt := rfl
@[simp] theorem State.wr_str (s : State) (f : Field) (v : Nat) : (s.wr f v).str = s.str := rfl
@[simp] theorem State.wr_eng (s : State) (f : Field) (v : Nat) : (s.wr f v).eng = s.eng := rfl

/-! ## setb: only `regs` changes -/

@[simp] theorem State.setb_pending (s : State) (f : Field) : (s.setb f).pending = s.pending := rfl
@[simp] theorem State.setb_draws (s : State) (f : Field) : (s.setb f).draws = s.draws := rfl
@[simp] theorem State.setb_shadow (s : State) (f : Field) : (s.setb f).shadow = s.shadow := rfl
@[simp] theorem State.setb_mem (s : State) (f : Field) : (s.setb f).mem = s.mem := rfl
@[simp] theorem State.setb_sys (s : State) (f : Field) : (s.setb f).sys = s.sys := rfl
@[simp] theorem State.setb_si (s : State) (f : Field) : (s.setb f).si = s.si := rfl
@[simp] theorem State.setb_cel (s : State) (f : Field) : (s.setb f).cel = s.cel := rfl
@[simp] theorem State.setb_nv (s : State) (f : Field) : (s.setb f).nv = s.nv := rfl
@[simp] theorem State.setb_tick (s : State) (f : Field) : (s.setb f).tick = s.tick := rfl
@[simp] theorem State.setb_hatch (s : State) (f : Field) : (s.setb f).hatch = s.hatch := rfl
@[simp] theorem State.setb_watch (s : State) (f : Field) : (s.setb f).watch = s.watch := rfl
@[simp] theorem State.setb_care (s : State) (f : Field) : (s.setb f).care = s.care := rfl
@[simp] theorem State.setb_ldr (s : State) (f : Field) : (s.setb f).ldr = s.ldr := rfl
@[simp] theorem State.setb_bank (s : State) (f : Field) : (s.setb f).bank = s.bank := rfl
@[simp] theorem State.setb_progs (s : State) (f : Field) : (s.setb f).progs = s.progs := rfl
@[simp] theorem State.setb_tbs (s : State) (f : Field) : (s.setb f).tbs = s.tbs := rfl
@[simp] theorem State.setb_con (s : State) (f : Field) : (s.setb f).con = s.con := rfl
@[simp] theorem State.setb_load (s : State) (f : Field) : (s.setb f).load = s.load := rfl
@[simp] theorem State.setb_qfx (s : State) (f : Field) : (s.setb f).qfx = s.qfx := rfl
@[simp] theorem State.setb_port (s : State) (f : Field) : (s.setb f).port = s.port := rfl
@[simp] theorem State.setb_hlk (s : State) (f : Field) : (s.setb f).hlk = s.hlk := rfl
@[simp] theorem State.setb_rly (s : State) (f : Field) : (s.setb f).rly = s.rly := rfl
@[simp] theorem State.setb_cpu (s : State) (f : Field) : (s.setb f).cpu = s.cpu := rfl
@[simp] theorem State.setb_vlt (s : State) (f : Field) : (s.setb f).vlt = s.vlt := rfl
@[simp] theorem State.setb_str (s : State) (f : Field) : (s.setb f).str = s.str := rfl
@[simp] theorem State.setb_eng (s : State) (f : Field) : (s.setb f).eng = s.eng := rfl

/-! ## addc: only `regs` changes -/

@[simp] theorem State.addc_pending (s : State) (f : Field) (n : Nat) : (s.addc f n).pending = s.pending := rfl
@[simp] theorem State.addc_draws (s : State) (f : Field) (n : Nat) : (s.addc f n).draws = s.draws := rfl
@[simp] theorem State.addc_shadow (s : State) (f : Field) (n : Nat) : (s.addc f n).shadow = s.shadow := rfl
@[simp] theorem State.addc_mem (s : State) (f : Field) (n : Nat) : (s.addc f n).mem = s.mem := rfl
@[simp] theorem State.addc_sys (s : State) (f : Field) (n : Nat) : (s.addc f n).sys = s.sys := rfl
@[simp] theorem State.addc_si (s : State) (f : Field) (n : Nat) : (s.addc f n).si = s.si := rfl
@[simp] theorem State.addc_cel (s : State) (f : Field) (n : Nat) : (s.addc f n).cel = s.cel := rfl
@[simp] theorem State.addc_nv (s : State) (f : Field) (n : Nat) : (s.addc f n).nv = s.nv := rfl
@[simp] theorem State.addc_tick (s : State) (f : Field) (n : Nat) : (s.addc f n).tick = s.tick := rfl
@[simp] theorem State.addc_hatch (s : State) (f : Field) (n : Nat) : (s.addc f n).hatch = s.hatch := rfl
@[simp] theorem State.addc_watch (s : State) (f : Field) (n : Nat) : (s.addc f n).watch = s.watch := rfl
@[simp] theorem State.addc_care (s : State) (f : Field) (n : Nat) : (s.addc f n).care = s.care := rfl
@[simp] theorem State.addc_ldr (s : State) (f : Field) (n : Nat) : (s.addc f n).ldr = s.ldr := rfl
@[simp] theorem State.addc_bank (s : State) (f : Field) (n : Nat) : (s.addc f n).bank = s.bank := rfl
@[simp] theorem State.addc_progs (s : State) (f : Field) (n : Nat) : (s.addc f n).progs = s.progs := rfl
@[simp] theorem State.addc_tbs (s : State) (f : Field) (n : Nat) : (s.addc f n).tbs = s.tbs := rfl
@[simp] theorem State.addc_con (s : State) (f : Field) (n : Nat) : (s.addc f n).con = s.con := rfl
@[simp] theorem State.addc_load (s : State) (f : Field) (n : Nat) : (s.addc f n).load = s.load := rfl
@[simp] theorem State.addc_qfx (s : State) (f : Field) (n : Nat) : (s.addc f n).qfx = s.qfx := rfl
@[simp] theorem State.addc_port (s : State) (f : Field) (n : Nat) : (s.addc f n).port = s.port := rfl
@[simp] theorem State.addc_hlk (s : State) (f : Field) (n : Nat) : (s.addc f n).hlk = s.hlk := rfl
@[simp] theorem State.addc_rly (s : State) (f : Field) (n : Nat) : (s.addc f n).rly = s.rly := rfl
@[simp] theorem State.addc_cpu (s : State) (f : Field) (n : Nat) : (s.addc f n).cpu = s.cpu := rfl
@[simp] theorem State.addc_vlt (s : State) (f : Field) (n : Nat) : (s.addc f n).vlt = s.vlt := rfl
@[simp] theorem State.addc_str (s : State) (f : Field) (n : Nat) : (s.addc f n).str = s.str := rfl
@[simp] theorem State.addc_eng (s : State) (f : Field) (n : Nat) : (s.addc f n).eng = s.eng := rfl

/-! ## bump: only `regs` changes -/

@[simp] theorem State.bump_pending (s : State) (f : Field) : (s.bump f).pending = s.pending := rfl
@[simp] theorem State.bump_draws (s : State) (f : Field) : (s.bump f).draws = s.draws := rfl
@[simp] theorem State.bump_shadow (s : State) (f : Field) : (s.bump f).shadow = s.shadow := rfl
@[simp] theorem State.bump_mem (s : State) (f : Field) : (s.bump f).mem = s.mem := rfl
@[simp] theorem State.bump_sys (s : State) (f : Field) : (s.bump f).sys = s.sys := rfl
@[simp] theorem State.bump_si (s : State) (f : Field) : (s.bump f).si = s.si := rfl
@[simp] theorem State.bump_cel (s : State) (f : Field) : (s.bump f).cel = s.cel := rfl
@[simp] theorem State.bump_nv (s : State) (f : Field) : (s.bump f).nv = s.nv := rfl
@[simp] theorem State.bump_tick (s : State) (f : Field) : (s.bump f).tick = s.tick := rfl
@[simp] theorem State.bump_hatch (s : State) (f : Field) : (s.bump f).hatch = s.hatch := rfl
@[simp] theorem State.bump_watch (s : State) (f : Field) : (s.bump f).watch = s.watch := rfl
@[simp] theorem State.bump_care (s : State) (f : Field) : (s.bump f).care = s.care := rfl
@[simp] theorem State.bump_ldr (s : State) (f : Field) : (s.bump f).ldr = s.ldr := rfl
@[simp] theorem State.bump_bank (s : State) (f : Field) : (s.bump f).bank = s.bank := rfl
@[simp] theorem State.bump_progs (s : State) (f : Field) : (s.bump f).progs = s.progs := rfl
@[simp] theorem State.bump_tbs (s : State) (f : Field) : (s.bump f).tbs = s.tbs := rfl
@[simp] theorem State.bump_con (s : State) (f : Field) : (s.bump f).con = s.con := rfl
@[simp] theorem State.bump_load (s : State) (f : Field) : (s.bump f).load = s.load := rfl
@[simp] theorem State.bump_qfx (s : State) (f : Field) : (s.bump f).qfx = s.qfx := rfl
@[simp] theorem State.bump_port (s : State) (f : Field) : (s.bump f).port = s.port := rfl
@[simp] theorem State.bump_hlk (s : State) (f : Field) : (s.bump f).hlk = s.hlk := rfl
@[simp] theorem State.bump_rly (s : State) (f : Field) : (s.bump f).rly = s.rly := rfl
@[simp] theorem State.bump_cpu (s : State) (f : Field) : (s.bump f).cpu = s.cpu := rfl
@[simp] theorem State.bump_vlt (s : State) (f : Field) : (s.bump f).vlt = s.vlt := rfl
@[simp] theorem State.bump_str (s : State) (f : Field) : (s.bump f).str = s.str := rfl
@[simp] theorem State.bump_eng (s : State) (f : Field) : (s.bump f).eng = s.eng := rfl

/-! ## putB: only `mem` changes -/

@[simp] theorem State.putB_pending (s : State) (a : Nat) (b : Byte) : (s.putB a b).pending = s.pending := rfl
@[simp] theorem State.putB_draws (s : State) (a : Nat) (b : Byte) : (s.putB a b).draws = s.draws := rfl
@[simp] theorem State.putB_regs (s : State) (a : Nat) (b : Byte) : (s.putB a b).regs = s.regs := rfl
@[simp] theorem State.putB_shadow (s : State) (a : Nat) (b : Byte) : (s.putB a b).shadow = s.shadow := rfl
@[simp] theorem State.putB_sys (s : State) (a : Nat) (b : Byte) : (s.putB a b).sys = s.sys := rfl
@[simp] theorem State.putB_si (s : State) (a : Nat) (b : Byte) : (s.putB a b).si = s.si := rfl
@[simp] theorem State.putB_cel (s : State) (a : Nat) (b : Byte) : (s.putB a b).cel = s.cel := rfl
@[simp] theorem State.putB_nv (s : State) (a : Nat) (b : Byte) : (s.putB a b).nv = s.nv := rfl
@[simp] theorem State.putB_tick (s : State) (a : Nat) (b : Byte) : (s.putB a b).tick = s.tick := rfl
@[simp] theorem State.putB_hatch (s : State) (a : Nat) (b : Byte) : (s.putB a b).hatch = s.hatch := rfl
@[simp] theorem State.putB_watch (s : State) (a : Nat) (b : Byte) : (s.putB a b).watch = s.watch := rfl
@[simp] theorem State.putB_care (s : State) (a : Nat) (b : Byte) : (s.putB a b).care = s.care := rfl
@[simp] theorem State.putB_ldr (s : State) (a : Nat) (b : Byte) : (s.putB a b).ldr = s.ldr := rfl
@[simp] theorem State.putB_bank (s : State) (a : Nat) (b : Byte) : (s.putB a b).bank = s.bank := rfl
@[simp] theorem State.putB_progs (s : State) (a : Nat) (b : Byte) : (s.putB a b).progs = s.progs := rfl
@[simp] theorem State.putB_tbs (s : State) (a : Nat) (b : Byte) : (s.putB a b).tbs = s.tbs := rfl
@[simp] theorem State.putB_con (s : State) (a : Nat) (b : Byte) : (s.putB a b).con = s.con := rfl
@[simp] theorem State.putB_load (s : State) (a : Nat) (b : Byte) : (s.putB a b).load = s.load := rfl
@[simp] theorem State.putB_qfx (s : State) (a : Nat) (b : Byte) : (s.putB a b).qfx = s.qfx := rfl
@[simp] theorem State.putB_port (s : State) (a : Nat) (b : Byte) : (s.putB a b).port = s.port := rfl
@[simp] theorem State.putB_hlk (s : State) (a : Nat) (b : Byte) : (s.putB a b).hlk = s.hlk := rfl
@[simp] theorem State.putB_rly (s : State) (a : Nat) (b : Byte) : (s.putB a b).rly = s.rly := rfl
@[simp] theorem State.putB_cpu (s : State) (a : Nat) (b : Byte) : (s.putB a b).cpu = s.cpu := rfl
@[simp] theorem State.putB_vlt (s : State) (a : Nat) (b : Byte) : (s.putB a b).vlt = s.vlt := rfl
@[simp] theorem State.putB_str (s : State) (a : Nat) (b : Byte) : (s.putB a b).str = s.str := rfl
@[simp] theorem State.putB_eng (s : State) (a : Nat) (b : Byte) : (s.putB a b).eng = s.eng := rfl

/-! ## memClear: only `mem` changes -/

@[simp] theorem State.memClear_pending (s : State) (lo hi : Nat) : (s.memClear lo hi).pending = s.pending := rfl
@[simp] theorem State.memClear_draws (s : State) (lo hi : Nat) : (s.memClear lo hi).draws = s.draws := rfl
@[simp] theorem State.memClear_regs (s : State) (lo hi : Nat) : (s.memClear lo hi).regs = s.regs := rfl
@[simp] theorem State.memClear_shadow (s : State) (lo hi : Nat) : (s.memClear lo hi).shadow = s.shadow := rfl
@[simp] theorem State.memClear_sys (s : State) (lo hi : Nat) : (s.memClear lo hi).sys = s.sys := rfl
@[simp] theorem State.memClear_si (s : State) (lo hi : Nat) : (s.memClear lo hi).si = s.si := rfl
@[simp] theorem State.memClear_cel (s : State) (lo hi : Nat) : (s.memClear lo hi).cel = s.cel := rfl
@[simp] theorem State.memClear_nv (s : State) (lo hi : Nat) : (s.memClear lo hi).nv = s.nv := rfl
@[simp] theorem State.memClear_tick (s : State) (lo hi : Nat) : (s.memClear lo hi).tick = s.tick := rfl
@[simp] theorem State.memClear_hatch (s : State) (lo hi : Nat) : (s.memClear lo hi).hatch = s.hatch := rfl
@[simp] theorem State.memClear_watch (s : State) (lo hi : Nat) : (s.memClear lo hi).watch = s.watch := rfl
@[simp] theorem State.memClear_care (s : State) (lo hi : Nat) : (s.memClear lo hi).care = s.care := rfl
@[simp] theorem State.memClear_ldr (s : State) (lo hi : Nat) : (s.memClear lo hi).ldr = s.ldr := rfl
@[simp] theorem State.memClear_bank (s : State) (lo hi : Nat) : (s.memClear lo hi).bank = s.bank := rfl
@[simp] theorem State.memClear_progs (s : State) (lo hi : Nat) : (s.memClear lo hi).progs = s.progs := rfl
@[simp] theorem State.memClear_tbs (s : State) (lo hi : Nat) : (s.memClear lo hi).tbs = s.tbs := rfl
@[simp] theorem State.memClear_con (s : State) (lo hi : Nat) : (s.memClear lo hi).con = s.con := rfl
@[simp] theorem State.memClear_load (s : State) (lo hi : Nat) : (s.memClear lo hi).load = s.load := rfl
@[simp] theorem State.memClear_qfx (s : State) (lo hi : Nat) : (s.memClear lo hi).qfx = s.qfx := rfl
@[simp] theorem State.memClear_port (s : State) (lo hi : Nat) : (s.memClear lo hi).port = s.port := rfl
@[simp] theorem State.memClear_hlk (s : State) (lo hi : Nat) : (s.memClear lo hi).hlk = s.hlk := rfl
@[simp] theorem State.memClear_rly (s : State) (lo hi : Nat) : (s.memClear lo hi).rly = s.rly := rfl
@[simp] theorem State.memClear_cpu (s : State) (lo hi : Nat) : (s.memClear lo hi).cpu = s.cpu := rfl
@[simp] theorem State.memClear_vlt (s : State) (lo hi : Nat) : (s.memClear lo hi).vlt = s.vlt := rfl
@[simp] theorem State.memClear_str (s : State) (lo hi : Nat) : (s.memClear lo hi).str = s.str := rfl
@[simp] theorem State.memClear_eng (s : State) (lo hi : Nat) : (s.memClear lo hi).eng = s.eng := rfl

/-! ## core: only `cpu` changes -/

@[simp] theorem State.core_pending (s : State) (c : CpuId) (f : Core → Core) : (s.core c f).pending = s.pending := rfl
@[simp] theorem State.core_draws (s : State) (c : CpuId) (f : Core → Core) : (s.core c f).draws = s.draws := rfl
@[simp] theorem State.core_regs (s : State) (c : CpuId) (f : Core → Core) : (s.core c f).regs = s.regs := rfl
@[simp] theorem State.core_shadow (s : State) (c : CpuId) (f : Core → Core) : (s.core c f).shadow = s.shadow := rfl
@[simp] theorem State.core_mem (s : State) (c : CpuId) (f : Core → Core) : (s.core c f).mem = s.mem := rfl
@[simp] theorem State.core_sys (s : State) (c : CpuId) (f : Core → Core) : (s.core c f).sys = s.sys := rfl
@[simp] theorem State.core_si (s : State) (c : CpuId) (f : Core → Core) : (s.core c f).si = s.si := rfl
@[simp] theorem State.core_cel (s : State) (c : CpuId) (f : Core → Core) : (s.core c f).cel = s.cel := rfl
@[simp] theorem State.core_nv (s : State) (c : CpuId) (f : Core → Core) : (s.core c f).nv = s.nv := rfl
@[simp] theorem State.core_tick (s : State) (c : CpuId) (f : Core → Core) : (s.core c f).tick = s.tick := rfl
@[simp] theorem State.core_hatch (s : State) (c : CpuId) (f : Core → Core) : (s.core c f).hatch = s.hatch := rfl
@[simp] theorem State.core_watch (s : State) (c : CpuId) (f : Core → Core) : (s.core c f).watch = s.watch := rfl
@[simp] theorem State.core_care (s : State) (c : CpuId) (f : Core → Core) : (s.core c f).care = s.care := rfl
@[simp] theorem State.core_ldr (s : State) (c : CpuId) (f : Core → Core) : (s.core c f).ldr = s.ldr := rfl
@[simp] theorem State.core_bank (s : State) (c : CpuId) (f : Core → Core) : (s.core c f).bank = s.bank := rfl
@[simp] theorem State.core_progs (s : State) (c : CpuId) (f : Core → Core) : (s.core c f).progs = s.progs := rfl
@[simp] theorem State.core_tbs (s : State) (c : CpuId) (f : Core → Core) : (s.core c f).tbs = s.tbs := rfl
@[simp] theorem State.core_con (s : State) (c : CpuId) (f : Core → Core) : (s.core c f).con = s.con := rfl
@[simp] theorem State.core_load (s : State) (c : CpuId) (f : Core → Core) : (s.core c f).load = s.load := rfl
@[simp] theorem State.core_qfx (s : State) (c : CpuId) (f : Core → Core) : (s.core c f).qfx = s.qfx := rfl
@[simp] theorem State.core_port (s : State) (c : CpuId) (f : Core → Core) : (s.core c f).port = s.port := rfl
@[simp] theorem State.core_hlk (s : State) (c : CpuId) (f : Core → Core) : (s.core c f).hlk = s.hlk := rfl
@[simp] theorem State.core_rly (s : State) (c : CpuId) (f : Core → Core) : (s.core c f).rly = s.rly := rfl
@[simp] theorem State.core_vlt (s : State) (c : CpuId) (f : Core → Core) : (s.core c f).vlt = s.vlt := rfl
@[simp] theorem State.core_str (s : State) (c : CpuId) (f : Core → Core) : (s.core c f).str = s.str := rfl
@[simp] theorem State.core_eng (s : State) (c : CpuId) (f : Core → Core) : (s.core c f).eng = s.eng := rfl

/-! ## loaded: only `cpu` changes -/

@[simp] theorem State.loaded_pending (s : State) (c : CpuId) (w : Word) : (s.loaded c w).pending = s.pending := rfl
@[simp] theorem State.loaded_draws (s : State) (c : CpuId) (w : Word) : (s.loaded c w).draws = s.draws := rfl
@[simp] theorem State.loaded_regs (s : State) (c : CpuId) (w : Word) : (s.loaded c w).regs = s.regs := rfl
@[simp] theorem State.loaded_shadow (s : State) (c : CpuId) (w : Word) : (s.loaded c w).shadow = s.shadow := rfl
@[simp] theorem State.loaded_mem (s : State) (c : CpuId) (w : Word) : (s.loaded c w).mem = s.mem := rfl
@[simp] theorem State.loaded_sys (s : State) (c : CpuId) (w : Word) : (s.loaded c w).sys = s.sys := rfl
@[simp] theorem State.loaded_si (s : State) (c : CpuId) (w : Word) : (s.loaded c w).si = s.si := rfl
@[simp] theorem State.loaded_cel (s : State) (c : CpuId) (w : Word) : (s.loaded c w).cel = s.cel := rfl
@[simp] theorem State.loaded_nv (s : State) (c : CpuId) (w : Word) : (s.loaded c w).nv = s.nv := rfl
@[simp] theorem State.loaded_tick (s : State) (c : CpuId) (w : Word) : (s.loaded c w).tick = s.tick := rfl
@[simp] theorem State.loaded_hatch (s : State) (c : CpuId) (w : Word) : (s.loaded c w).hatch = s.hatch := rfl
@[simp] theorem State.loaded_watch (s : State) (c : CpuId) (w : Word) : (s.loaded c w).watch = s.watch := rfl
@[simp] theorem State.loaded_care (s : State) (c : CpuId) (w : Word) : (s.loaded c w).care = s.care := rfl
@[simp] theorem State.loaded_ldr (s : State) (c : CpuId) (w : Word) : (s.loaded c w).ldr = s.ldr := rfl
@[simp] theorem State.loaded_bank (s : State) (c : CpuId) (w : Word) : (s.loaded c w).bank = s.bank := rfl
@[simp] theorem State.loaded_progs (s : State) (c : CpuId) (w : Word) : (s.loaded c w).progs = s.progs := rfl
@[simp] theorem State.loaded_tbs (s : State) (c : CpuId) (w : Word) : (s.loaded c w).tbs = s.tbs := rfl
@[simp] theorem State.loaded_con (s : State) (c : CpuId) (w : Word) : (s.loaded c w).con = s.con := rfl
@[simp] theorem State.loaded_load (s : State) (c : CpuId) (w : Word) : (s.loaded c w).load = s.load := rfl
@[simp] theorem State.loaded_qfx (s : State) (c : CpuId) (w : Word) : (s.loaded c w).qfx = s.qfx := rfl
@[simp] theorem State.loaded_port (s : State) (c : CpuId) (w : Word) : (s.loaded c w).port = s.port := rfl
@[simp] theorem State.loaded_hlk (s : State) (c : CpuId) (w : Word) : (s.loaded c w).hlk = s.hlk := rfl
@[simp] theorem State.loaded_rly (s : State) (c : CpuId) (w : Word) : (s.loaded c w).rly = s.rly := rfl
@[simp] theorem State.loaded_vlt (s : State) (c : CpuId) (w : Word) : (s.loaded c w).vlt = s.vlt := rfl
@[simp] theorem State.loaded_str (s : State) (c : CpuId) (w : Word) : (s.loaded c w).str = s.str := rfl
@[simp] theorem State.loaded_eng (s : State) (c : CpuId) (w : Word) : (s.loaded c w).eng = s.eng := rfl

/-! ## retire: only `cpu` changes -/

@[simp] theorem State.retire_pending (s : State) (c : CpuId) : (s.retire c).pending = s.pending := rfl
@[simp] theorem State.retire_draws (s : State) (c : CpuId) : (s.retire c).draws = s.draws := rfl
@[simp] theorem State.retire_regs (s : State) (c : CpuId) : (s.retire c).regs = s.regs := rfl
@[simp] theorem State.retire_shadow (s : State) (c : CpuId) : (s.retire c).shadow = s.shadow := rfl
@[simp] theorem State.retire_mem (s : State) (c : CpuId) : (s.retire c).mem = s.mem := rfl
@[simp] theorem State.retire_sys (s : State) (c : CpuId) : (s.retire c).sys = s.sys := rfl
@[simp] theorem State.retire_si (s : State) (c : CpuId) : (s.retire c).si = s.si := rfl
@[simp] theorem State.retire_cel (s : State) (c : CpuId) : (s.retire c).cel = s.cel := rfl
@[simp] theorem State.retire_nv (s : State) (c : CpuId) : (s.retire c).nv = s.nv := rfl
@[simp] theorem State.retire_tick (s : State) (c : CpuId) : (s.retire c).tick = s.tick := rfl
@[simp] theorem State.retire_hatch (s : State) (c : CpuId) : (s.retire c).hatch = s.hatch := rfl
@[simp] theorem State.retire_watch (s : State) (c : CpuId) : (s.retire c).watch = s.watch := rfl
@[simp] theorem State.retire_care (s : State) (c : CpuId) : (s.retire c).care = s.care := rfl
@[simp] theorem State.retire_ldr (s : State) (c : CpuId) : (s.retire c).ldr = s.ldr := rfl
@[simp] theorem State.retire_bank (s : State) (c : CpuId) : (s.retire c).bank = s.bank := rfl
@[simp] theorem State.retire_progs (s : State) (c : CpuId) : (s.retire c).progs = s.progs := rfl
@[simp] theorem State.retire_tbs (s : State) (c : CpuId) : (s.retire c).tbs = s.tbs := rfl
@[simp] theorem State.retire_con (s : State) (c : CpuId) : (s.retire c).con = s.con := rfl
@[simp] theorem State.retire_load (s : State) (c : CpuId) : (s.retire c).load = s.load := rfl
@[simp] theorem State.retire_qfx (s : State) (c : CpuId) : (s.retire c).qfx = s.qfx := rfl
@[simp] theorem State.retire_port (s : State) (c : CpuId) : (s.retire c).port = s.port := rfl
@[simp] theorem State.retire_hlk (s : State) (c : CpuId) : (s.retire c).hlk = s.hlk := rfl
@[simp] theorem State.retire_rly (s : State) (c : CpuId) : (s.retire c).rly = s.rly := rfl
@[simp] theorem State.retire_vlt (s : State) (c : CpuId) : (s.retire c).vlt = s.vlt := rfl
@[simp] theorem State.retire_str (s : State) (c : CpuId) : (s.retire c).str = s.str := rfl
@[simp] theorem State.retire_eng (s : State) (c : CpuId) : (s.retire c).eng = s.eng := rfl

/-! ## coreWake: only `cpu` changes -/

@[simp] theorem State.coreWake_pending (s : State) (c : CpuId) : (s.coreWake c).pending = s.pending := rfl
@[simp] theorem State.coreWake_draws (s : State) (c : CpuId) : (s.coreWake c).draws = s.draws := rfl
@[simp] theorem State.coreWake_regs (s : State) (c : CpuId) : (s.coreWake c).regs = s.regs := rfl
@[simp] theorem State.coreWake_shadow (s : State) (c : CpuId) : (s.coreWake c).shadow = s.shadow := rfl
@[simp] theorem State.coreWake_mem (s : State) (c : CpuId) : (s.coreWake c).mem = s.mem := rfl
@[simp] theorem State.coreWake_sys (s : State) (c : CpuId) : (s.coreWake c).sys = s.sys := rfl
@[simp] theorem State.coreWake_si (s : State) (c : CpuId) : (s.coreWake c).si = s.si := rfl
@[simp] theorem State.coreWake_cel (s : State) (c : CpuId) : (s.coreWake c).cel = s.cel := rfl
@[simp] theorem State.coreWake_nv (s : State) (c : CpuId) : (s.coreWake c).nv = s.nv := rfl
@[simp] theorem State.coreWake_tick (s : State) (c : CpuId) : (s.coreWake c).tick = s.tick := rfl
@[simp] theorem State.coreWake_hatch (s : State) (c : CpuId) : (s.coreWake c).hatch = s.hatch := rfl
@[simp] theorem State.coreWake_watch (s : State) (c : CpuId) : (s.coreWake c).watch = s.watch := rfl
@[simp] theorem State.coreWake_care (s : State) (c : CpuId) : (s.coreWake c).care = s.care := rfl
@[simp] theorem State.coreWake_ldr (s : State) (c : CpuId) : (s.coreWake c).ldr = s.ldr := rfl
@[simp] theorem State.coreWake_bank (s : State) (c : CpuId) : (s.coreWake c).bank = s.bank := rfl
@[simp] theorem State.coreWake_progs (s : State) (c : CpuId) : (s.coreWake c).progs = s.progs := rfl
@[simp] theorem State.coreWake_tbs (s : State) (c : CpuId) : (s.coreWake c).tbs = s.tbs := rfl
@[simp] theorem State.coreWake_con (s : State) (c : CpuId) : (s.coreWake c).con = s.con := rfl
@[simp] theorem State.coreWake_load (s : State) (c : CpuId) : (s.coreWake c).load = s.load := rfl
@[simp] theorem State.coreWake_qfx (s : State) (c : CpuId) : (s.coreWake c).qfx = s.qfx := rfl
@[simp] theorem State.coreWake_port (s : State) (c : CpuId) : (s.coreWake c).port = s.port := rfl
@[simp] theorem State.coreWake_hlk (s : State) (c : CpuId) : (s.coreWake c).hlk = s.hlk := rfl
@[simp] theorem State.coreWake_rly (s : State) (c : CpuId) : (s.coreWake c).rly = s.rly := rfl
@[simp] theorem State.coreWake_vlt (s : State) (c : CpuId) : (s.coreWake c).vlt = s.vlt := rfl
@[simp] theorem State.coreWake_str (s : State) (c : CpuId) : (s.coreWake c).str = s.str := rfl
@[simp] theorem State.coreWake_eng (s : State) (c : CpuId) : (s.coreWake c).eng = s.eng := rfl

/-! ## lineDrop: only `cpu` changes -/

@[simp] theorem State.lineDrop_pending (s : State) (c : CpuId) : (s.lineDrop c).pending = s.pending := rfl
@[simp] theorem State.lineDrop_draws (s : State) (c : CpuId) : (s.lineDrop c).draws = s.draws := rfl
@[simp] theorem State.lineDrop_regs (s : State) (c : CpuId) : (s.lineDrop c).regs = s.regs := rfl
@[simp] theorem State.lineDrop_shadow (s : State) (c : CpuId) : (s.lineDrop c).shadow = s.shadow := rfl
@[simp] theorem State.lineDrop_mem (s : State) (c : CpuId) : (s.lineDrop c).mem = s.mem := rfl
@[simp] theorem State.lineDrop_sys (s : State) (c : CpuId) : (s.lineDrop c).sys = s.sys := rfl
@[simp] theorem State.lineDrop_si (s : State) (c : CpuId) : (s.lineDrop c).si = s.si := rfl
@[simp] theorem State.lineDrop_cel (s : State) (c : CpuId) : (s.lineDrop c).cel = s.cel := rfl
@[simp] theorem State.lineDrop_nv (s : State) (c : CpuId) : (s.lineDrop c).nv = s.nv := rfl
@[simp] theorem State.lineDrop_tick (s : State) (c : CpuId) : (s.lineDrop c).tick = s.tick := rfl
@[simp] theorem State.lineDrop_hatch (s : State) (c : CpuId) : (s.lineDrop c).hatch = s.hatch := rfl
@[simp] theorem State.lineDrop_watch (s : State) (c : CpuId) : (s.lineDrop c).watch = s.watch := rfl
@[simp] theorem State.lineDrop_care (s : State) (c : CpuId) : (s.lineDrop c).care = s.care := rfl
@[simp] theorem State.lineDrop_ldr (s : State) (c : CpuId) : (s.lineDrop c).ldr = s.ldr := rfl
@[simp] theorem State.lineDrop_bank (s : State) (c : CpuId) : (s.lineDrop c).bank = s.bank := rfl
@[simp] theorem State.lineDrop_progs (s : State) (c : CpuId) : (s.lineDrop c).progs = s.progs := rfl
@[simp] theorem State.lineDrop_tbs (s : State) (c : CpuId) : (s.lineDrop c).tbs = s.tbs := rfl
@[simp] theorem State.lineDrop_con (s : State) (c : CpuId) : (s.lineDrop c).con = s.con := rfl
@[simp] theorem State.lineDrop_load (s : State) (c : CpuId) : (s.lineDrop c).load = s.load := rfl
@[simp] theorem State.lineDrop_qfx (s : State) (c : CpuId) : (s.lineDrop c).qfx = s.qfx := rfl
@[simp] theorem State.lineDrop_port (s : State) (c : CpuId) : (s.lineDrop c).port = s.port := rfl
@[simp] theorem State.lineDrop_hlk (s : State) (c : CpuId) : (s.lineDrop c).hlk = s.hlk := rfl
@[simp] theorem State.lineDrop_rly (s : State) (c : CpuId) : (s.lineDrop c).rly = s.rly := rfl
@[simp] theorem State.lineDrop_vlt (s : State) (c : CpuId) : (s.lineDrop c).vlt = s.vlt := rfl
@[simp] theorem State.lineDrop_str (s : State) (c : CpuId) : (s.lineDrop c).str = s.str := rfl
@[simp] theorem State.lineDrop_eng (s : State) (c : CpuId) : (s.lineDrop c).eng = s.eng := rfl

/-! ## linesDrop: only `cpu` changes -/

@[simp] theorem State.linesDrop_pending (s : State) : s.linesDrop.pending = s.pending := rfl
@[simp] theorem State.linesDrop_draws (s : State) : s.linesDrop.draws = s.draws := rfl
@[simp] theorem State.linesDrop_regs (s : State) : s.linesDrop.regs = s.regs := rfl
@[simp] theorem State.linesDrop_shadow (s : State) : s.linesDrop.shadow = s.shadow := rfl
@[simp] theorem State.linesDrop_mem (s : State) : s.linesDrop.mem = s.mem := rfl
@[simp] theorem State.linesDrop_sys (s : State) : s.linesDrop.sys = s.sys := rfl
@[simp] theorem State.linesDrop_si (s : State) : s.linesDrop.si = s.si := rfl
@[simp] theorem State.linesDrop_cel (s : State) : s.linesDrop.cel = s.cel := rfl
@[simp] theorem State.linesDrop_nv (s : State) : s.linesDrop.nv = s.nv := rfl
@[simp] theorem State.linesDrop_tick (s : State) : s.linesDrop.tick = s.tick := rfl
@[simp] theorem State.linesDrop_hatch (s : State) : s.linesDrop.hatch = s.hatch := rfl
@[simp] theorem State.linesDrop_watch (s : State) : s.linesDrop.watch = s.watch := rfl
@[simp] theorem State.linesDrop_care (s : State) : s.linesDrop.care = s.care := rfl
@[simp] theorem State.linesDrop_ldr (s : State) : s.linesDrop.ldr = s.ldr := rfl
@[simp] theorem State.linesDrop_bank (s : State) : s.linesDrop.bank = s.bank := rfl
@[simp] theorem State.linesDrop_progs (s : State) : s.linesDrop.progs = s.progs := rfl
@[simp] theorem State.linesDrop_tbs (s : State) : s.linesDrop.tbs = s.tbs := rfl
@[simp] theorem State.linesDrop_con (s : State) : s.linesDrop.con = s.con := rfl
@[simp] theorem State.linesDrop_load (s : State) : s.linesDrop.load = s.load := rfl
@[simp] theorem State.linesDrop_qfx (s : State) : s.linesDrop.qfx = s.qfx := rfl
@[simp] theorem State.linesDrop_port (s : State) : s.linesDrop.port = s.port := rfl
@[simp] theorem State.linesDrop_hlk (s : State) : s.linesDrop.hlk = s.hlk := rfl
@[simp] theorem State.linesDrop_rly (s : State) : s.linesDrop.rly = s.rly := rfl
@[simp] theorem State.linesDrop_vlt (s : State) : s.linesDrop.vlt = s.vlt := rfl
@[simp] theorem State.linesDrop_str (s : State) : s.linesDrop.str = s.str := rfl
@[simp] theorem State.linesDrop_eng (s : State) : s.linesDrop.eng = s.eng := rfl

/-! ## pset: only `port` changes -/

@[simp] theorem State.pset_pending (s : State) (p : PortId) (f : Port → Port) : (s.pset p f).pending = s.pending := rfl
@[simp] theorem State.pset_draws (s : State) (p : PortId) (f : Port → Port) : (s.pset p f).draws = s.draws := rfl
@[simp] theorem State.pset_regs (s : State) (p : PortId) (f : Port → Port) : (s.pset p f).regs = s.regs := rfl
@[simp] theorem State.pset_shadow (s : State) (p : PortId) (f : Port → Port) : (s.pset p f).shadow = s.shadow := rfl
@[simp] theorem State.pset_mem (s : State) (p : PortId) (f : Port → Port) : (s.pset p f).mem = s.mem := rfl
@[simp] theorem State.pset_sys (s : State) (p : PortId) (f : Port → Port) : (s.pset p f).sys = s.sys := rfl
@[simp] theorem State.pset_si (s : State) (p : PortId) (f : Port → Port) : (s.pset p f).si = s.si := rfl
@[simp] theorem State.pset_cel (s : State) (p : PortId) (f : Port → Port) : (s.pset p f).cel = s.cel := rfl
@[simp] theorem State.pset_nv (s : State) (p : PortId) (f : Port → Port) : (s.pset p f).nv = s.nv := rfl
@[simp] theorem State.pset_tick (s : State) (p : PortId) (f : Port → Port) : (s.pset p f).tick = s.tick := rfl
@[simp] theorem State.pset_hatch (s : State) (p : PortId) (f : Port → Port) : (s.pset p f).hatch = s.hatch := rfl
@[simp] theorem State.pset_watch (s : State) (p : PortId) (f : Port → Port) : (s.pset p f).watch = s.watch := rfl
@[simp] theorem State.pset_care (s : State) (p : PortId) (f : Port → Port) : (s.pset p f).care = s.care := rfl
@[simp] theorem State.pset_ldr (s : State) (p : PortId) (f : Port → Port) : (s.pset p f).ldr = s.ldr := rfl
@[simp] theorem State.pset_bank (s : State) (p : PortId) (f : Port → Port) : (s.pset p f).bank = s.bank := rfl
@[simp] theorem State.pset_progs (s : State) (p : PortId) (f : Port → Port) : (s.pset p f).progs = s.progs := rfl
@[simp] theorem State.pset_tbs (s : State) (p : PortId) (f : Port → Port) : (s.pset p f).tbs = s.tbs := rfl
@[simp] theorem State.pset_con (s : State) (p : PortId) (f : Port → Port) : (s.pset p f).con = s.con := rfl
@[simp] theorem State.pset_load (s : State) (p : PortId) (f : Port → Port) : (s.pset p f).load = s.load := rfl
@[simp] theorem State.pset_qfx (s : State) (p : PortId) (f : Port → Port) : (s.pset p f).qfx = s.qfx := rfl
@[simp] theorem State.pset_hlk (s : State) (p : PortId) (f : Port → Port) : (s.pset p f).hlk = s.hlk := rfl
@[simp] theorem State.pset_rly (s : State) (p : PortId) (f : Port → Port) : (s.pset p f).rly = s.rly := rfl
@[simp] theorem State.pset_cpu (s : State) (p : PortId) (f : Port → Port) : (s.pset p f).cpu = s.cpu := rfl
@[simp] theorem State.pset_vlt (s : State) (p : PortId) (f : Port → Port) : (s.pset p f).vlt = s.vlt := rfl
@[simp] theorem State.pset_str (s : State) (p : PortId) (f : Port → Port) : (s.pset p f).str = s.str := rfl
@[simp] theorem State.pset_eng (s : State) (p : PortId) (f : Port → Port) : (s.pset p f).eng = s.eng := rfl

/-! ## qset: only `qfx` changes -/

@[simp] theorem State.qset_pending (s : State) (q : QueueId) (f : Queue → Queue) : (s.qset q f).pending = s.pending := rfl
@[simp] theorem State.qset_draws (s : State) (q : QueueId) (f : Queue → Queue) : (s.qset q f).draws = s.draws := rfl
@[simp] theorem State.qset_regs (s : State) (q : QueueId) (f : Queue → Queue) : (s.qset q f).regs = s.regs := rfl
@[simp] theorem State.qset_shadow (s : State) (q : QueueId) (f : Queue → Queue) : (s.qset q f).shadow = s.shadow := rfl
@[simp] theorem State.qset_mem (s : State) (q : QueueId) (f : Queue → Queue) : (s.qset q f).mem = s.mem := rfl
@[simp] theorem State.qset_sys (s : State) (q : QueueId) (f : Queue → Queue) : (s.qset q f).sys = s.sys := rfl
@[simp] theorem State.qset_si (s : State) (q : QueueId) (f : Queue → Queue) : (s.qset q f).si = s.si := rfl
@[simp] theorem State.qset_cel (s : State) (q : QueueId) (f : Queue → Queue) : (s.qset q f).cel = s.cel := rfl
@[simp] theorem State.qset_nv (s : State) (q : QueueId) (f : Queue → Queue) : (s.qset q f).nv = s.nv := rfl
@[simp] theorem State.qset_tick (s : State) (q : QueueId) (f : Queue → Queue) : (s.qset q f).tick = s.tick := rfl
@[simp] theorem State.qset_hatch (s : State) (q : QueueId) (f : Queue → Queue) : (s.qset q f).hatch = s.hatch := rfl
@[simp] theorem State.qset_watch (s : State) (q : QueueId) (f : Queue → Queue) : (s.qset q f).watch = s.watch := rfl
@[simp] theorem State.qset_care (s : State) (q : QueueId) (f : Queue → Queue) : (s.qset q f).care = s.care := rfl
@[simp] theorem State.qset_ldr (s : State) (q : QueueId) (f : Queue → Queue) : (s.qset q f).ldr = s.ldr := rfl
@[simp] theorem State.qset_bank (s : State) (q : QueueId) (f : Queue → Queue) : (s.qset q f).bank = s.bank := rfl
@[simp] theorem State.qset_progs (s : State) (q : QueueId) (f : Queue → Queue) : (s.qset q f).progs = s.progs := rfl
@[simp] theorem State.qset_tbs (s : State) (q : QueueId) (f : Queue → Queue) : (s.qset q f).tbs = s.tbs := rfl
@[simp] theorem State.qset_con (s : State) (q : QueueId) (f : Queue → Queue) : (s.qset q f).con = s.con := rfl
@[simp] theorem State.qset_load (s : State) (q : QueueId) (f : Queue → Queue) : (s.qset q f).load = s.load := rfl
@[simp] theorem State.qset_port (s : State) (q : QueueId) (f : Queue → Queue) : (s.qset q f).port = s.port := rfl
@[simp] theorem State.qset_hlk (s : State) (q : QueueId) (f : Queue → Queue) : (s.qset q f).hlk = s.hlk := rfl
@[simp] theorem State.qset_rly (s : State) (q : QueueId) (f : Queue → Queue) : (s.qset q f).rly = s.rly := rfl
@[simp] theorem State.qset_cpu (s : State) (q : QueueId) (f : Queue → Queue) : (s.qset q f).cpu = s.cpu := rfl
@[simp] theorem State.qset_vlt (s : State) (q : QueueId) (f : Queue → Queue) : (s.qset q f).vlt = s.vlt := rfl
@[simp] theorem State.qset_str (s : State) (q : QueueId) (f : Queue → Queue) : (s.qset q f).str = s.str := rfl
@[simp] theorem State.qset_eng (s : State) (q : QueueId) (f : Queue → Queue) : (s.qset q f).eng = s.eng := rfl

/-! ## rlySet: only `rly` changes -/

@[simp] theorem State.rlySet_pending (s : State) (n : Fin 8) (f : RlySess → RlySess) : (s.rlySet n f).pending = s.pending := rfl
@[simp] theorem State.rlySet_draws (s : State) (n : Fin 8) (f : RlySess → RlySess) : (s.rlySet n f).draws = s.draws := rfl
@[simp] theorem State.rlySet_regs (s : State) (n : Fin 8) (f : RlySess → RlySess) : (s.rlySet n f).regs = s.regs := rfl
@[simp] theorem State.rlySet_shadow (s : State) (n : Fin 8) (f : RlySess → RlySess) : (s.rlySet n f).shadow = s.shadow := rfl
@[simp] theorem State.rlySet_mem (s : State) (n : Fin 8) (f : RlySess → RlySess) : (s.rlySet n f).mem = s.mem := rfl
@[simp] theorem State.rlySet_sys (s : State) (n : Fin 8) (f : RlySess → RlySess) : (s.rlySet n f).sys = s.sys := rfl
@[simp] theorem State.rlySet_si (s : State) (n : Fin 8) (f : RlySess → RlySess) : (s.rlySet n f).si = s.si := rfl
@[simp] theorem State.rlySet_cel (s : State) (n : Fin 8) (f : RlySess → RlySess) : (s.rlySet n f).cel = s.cel := rfl
@[simp] theorem State.rlySet_nv (s : State) (n : Fin 8) (f : RlySess → RlySess) : (s.rlySet n f).nv = s.nv := rfl
@[simp] theorem State.rlySet_tick (s : State) (n : Fin 8) (f : RlySess → RlySess) : (s.rlySet n f).tick = s.tick := rfl
@[simp] theorem State.rlySet_hatch (s : State) (n : Fin 8) (f : RlySess → RlySess) : (s.rlySet n f).hatch = s.hatch := rfl
@[simp] theorem State.rlySet_watch (s : State) (n : Fin 8) (f : RlySess → RlySess) : (s.rlySet n f).watch = s.watch := rfl
@[simp] theorem State.rlySet_care (s : State) (n : Fin 8) (f : RlySess → RlySess) : (s.rlySet n f).care = s.care := rfl
@[simp] theorem State.rlySet_ldr (s : State) (n : Fin 8) (f : RlySess → RlySess) : (s.rlySet n f).ldr = s.ldr := rfl
@[simp] theorem State.rlySet_bank (s : State) (n : Fin 8) (f : RlySess → RlySess) : (s.rlySet n f).bank = s.bank := rfl
@[simp] theorem State.rlySet_progs (s : State) (n : Fin 8) (f : RlySess → RlySess) : (s.rlySet n f).progs = s.progs := rfl
@[simp] theorem State.rlySet_tbs (s : State) (n : Fin 8) (f : RlySess → RlySess) : (s.rlySet n f).tbs = s.tbs := rfl
@[simp] theorem State.rlySet_con (s : State) (n : Fin 8) (f : RlySess → RlySess) : (s.rlySet n f).con = s.con := rfl
@[simp] theorem State.rlySet_load (s : State) (n : Fin 8) (f : RlySess → RlySess) : (s.rlySet n f).load = s.load := rfl
@[simp] theorem State.rlySet_qfx (s : State) (n : Fin 8) (f : RlySess → RlySess) : (s.rlySet n f).qfx = s.qfx := rfl
@[simp] theorem State.rlySet_port (s : State) (n : Fin 8) (f : RlySess → RlySess) : (s.rlySet n f).port = s.port := rfl
@[simp] theorem State.rlySet_hlk (s : State) (n : Fin 8) (f : RlySess → RlySess) : (s.rlySet n f).hlk = s.hlk := rfl
@[simp] theorem State.rlySet_cpu (s : State) (n : Fin 8) (f : RlySess → RlySess) : (s.rlySet n f).cpu = s.cpu := rfl
@[simp] theorem State.rlySet_vlt (s : State) (n : Fin 8) (f : RlySess → RlySess) : (s.rlySet n f).vlt = s.vlt := rfl
@[simp] theorem State.rlySet_str (s : State) (n : Fin 8) (f : RlySess → RlySess) : (s.rlySet n f).str = s.str := rfl
@[simp] theorem State.rlySet_eng (s : State) (n : Fin 8) (f : RlySess → RlySess) : (s.rlySet n f).eng = s.eng := rfl

/-! ## slot: only `hatch` changes -/

@[simp] theorem State.slot_pending (s : State) (n : Fin 16) (f : HatchSlot → HatchSlot) : (s.slot n f).pending = s.pending := rfl
@[simp] theorem State.slot_draws (s : State) (n : Fin 16) (f : HatchSlot → HatchSlot) : (s.slot n f).draws = s.draws := rfl
@[simp] theorem State.slot_regs (s : State) (n : Fin 16) (f : HatchSlot → HatchSlot) : (s.slot n f).regs = s.regs := rfl
@[simp] theorem State.slot_shadow (s : State) (n : Fin 16) (f : HatchSlot → HatchSlot) : (s.slot n f).shadow = s.shadow := rfl
@[simp] theorem State.slot_mem (s : State) (n : Fin 16) (f : HatchSlot → HatchSlot) : (s.slot n f).mem = s.mem := rfl
@[simp] theorem State.slot_sys (s : State) (n : Fin 16) (f : HatchSlot → HatchSlot) : (s.slot n f).sys = s.sys := rfl
@[simp] theorem State.slot_si (s : State) (n : Fin 16) (f : HatchSlot → HatchSlot) : (s.slot n f).si = s.si := rfl
@[simp] theorem State.slot_cel (s : State) (n : Fin 16) (f : HatchSlot → HatchSlot) : (s.slot n f).cel = s.cel := rfl
@[simp] theorem State.slot_nv (s : State) (n : Fin 16) (f : HatchSlot → HatchSlot) : (s.slot n f).nv = s.nv := rfl
@[simp] theorem State.slot_tick (s : State) (n : Fin 16) (f : HatchSlot → HatchSlot) : (s.slot n f).tick = s.tick := rfl
@[simp] theorem State.slot_watch (s : State) (n : Fin 16) (f : HatchSlot → HatchSlot) : (s.slot n f).watch = s.watch := rfl
@[simp] theorem State.slot_care (s : State) (n : Fin 16) (f : HatchSlot → HatchSlot) : (s.slot n f).care = s.care := rfl
@[simp] theorem State.slot_ldr (s : State) (n : Fin 16) (f : HatchSlot → HatchSlot) : (s.slot n f).ldr = s.ldr := rfl
@[simp] theorem State.slot_bank (s : State) (n : Fin 16) (f : HatchSlot → HatchSlot) : (s.slot n f).bank = s.bank := rfl
@[simp] theorem State.slot_progs (s : State) (n : Fin 16) (f : HatchSlot → HatchSlot) : (s.slot n f).progs = s.progs := rfl
@[simp] theorem State.slot_tbs (s : State) (n : Fin 16) (f : HatchSlot → HatchSlot) : (s.slot n f).tbs = s.tbs := rfl
@[simp] theorem State.slot_con (s : State) (n : Fin 16) (f : HatchSlot → HatchSlot) : (s.slot n f).con = s.con := rfl
@[simp] theorem State.slot_load (s : State) (n : Fin 16) (f : HatchSlot → HatchSlot) : (s.slot n f).load = s.load := rfl
@[simp] theorem State.slot_qfx (s : State) (n : Fin 16) (f : HatchSlot → HatchSlot) : (s.slot n f).qfx = s.qfx := rfl
@[simp] theorem State.slot_port (s : State) (n : Fin 16) (f : HatchSlot → HatchSlot) : (s.slot n f).port = s.port := rfl
@[simp] theorem State.slot_hlk (s : State) (n : Fin 16) (f : HatchSlot → HatchSlot) : (s.slot n f).hlk = s.hlk := rfl
@[simp] theorem State.slot_rly (s : State) (n : Fin 16) (f : HatchSlot → HatchSlot) : (s.slot n f).rly = s.rly := rfl
@[simp] theorem State.slot_cpu (s : State) (n : Fin 16) (f : HatchSlot → HatchSlot) : (s.slot n f).cpu = s.cpu := rfl
@[simp] theorem State.slot_vlt (s : State) (n : Fin 16) (f : HatchSlot → HatchSlot) : (s.slot n f).vlt = s.vlt := rfl
@[simp] theorem State.slot_str (s : State) (n : Fin 16) (f : HatchSlot → HatchSlot) : (s.slot n f).str = s.str := rfl
@[simp] theorem State.slot_eng (s : State) (n : Fin 16) (f : HatchSlot → HatchSlot) : (s.slot n f).eng = s.eng := rfl

/-! ## setInst: only `tick` changes -/

@[simp] theorem State.setInst_pending (s : State) (j : JobId) (i : Option JobInst) : (s.setInst j i).pending = s.pending := rfl
@[simp] theorem State.setInst_draws (s : State) (j : JobId) (i : Option JobInst) : (s.setInst j i).draws = s.draws := rfl
@[simp] theorem State.setInst_regs (s : State) (j : JobId) (i : Option JobInst) : (s.setInst j i).regs = s.regs := rfl
@[simp] theorem State.setInst_shadow (s : State) (j : JobId) (i : Option JobInst) : (s.setInst j i).shadow = s.shadow := rfl
@[simp] theorem State.setInst_mem (s : State) (j : JobId) (i : Option JobInst) : (s.setInst j i).mem = s.mem := rfl
@[simp] theorem State.setInst_sys (s : State) (j : JobId) (i : Option JobInst) : (s.setInst j i).sys = s.sys := rfl
@[simp] theorem State.setInst_si (s : State) (j : JobId) (i : Option JobInst) : (s.setInst j i).si = s.si := rfl
@[simp] theorem State.setInst_cel (s : State) (j : JobId) (i : Option JobInst) : (s.setInst j i).cel = s.cel := rfl
@[simp] theorem State.setInst_nv (s : State) (j : JobId) (i : Option JobInst) : (s.setInst j i).nv = s.nv := rfl
@[simp] theorem State.setInst_hatch (s : State) (j : JobId) (i : Option JobInst) : (s.setInst j i).hatch = s.hatch := rfl
@[simp] theorem State.setInst_watch (s : State) (j : JobId) (i : Option JobInst) : (s.setInst j i).watch = s.watch := rfl
@[simp] theorem State.setInst_care (s : State) (j : JobId) (i : Option JobInst) : (s.setInst j i).care = s.care := rfl
@[simp] theorem State.setInst_ldr (s : State) (j : JobId) (i : Option JobInst) : (s.setInst j i).ldr = s.ldr := rfl
@[simp] theorem State.setInst_bank (s : State) (j : JobId) (i : Option JobInst) : (s.setInst j i).bank = s.bank := rfl
@[simp] theorem State.setInst_progs (s : State) (j : JobId) (i : Option JobInst) : (s.setInst j i).progs = s.progs := rfl
@[simp] theorem State.setInst_tbs (s : State) (j : JobId) (i : Option JobInst) : (s.setInst j i).tbs = s.tbs := rfl
@[simp] theorem State.setInst_con (s : State) (j : JobId) (i : Option JobInst) : (s.setInst j i).con = s.con := rfl
@[simp] theorem State.setInst_load (s : State) (j : JobId) (i : Option JobInst) : (s.setInst j i).load = s.load := rfl
@[simp] theorem State.setInst_qfx (s : State) (j : JobId) (i : Option JobInst) : (s.setInst j i).qfx = s.qfx := rfl
@[simp] theorem State.setInst_port (s : State) (j : JobId) (i : Option JobInst) : (s.setInst j i).port = s.port := rfl
@[simp] theorem State.setInst_hlk (s : State) (j : JobId) (i : Option JobInst) : (s.setInst j i).hlk = s.hlk := rfl
@[simp] theorem State.setInst_rly (s : State) (j : JobId) (i : Option JobInst) : (s.setInst j i).rly = s.rly := rfl
@[simp] theorem State.setInst_cpu (s : State) (j : JobId) (i : Option JobInst) : (s.setInst j i).cpu = s.cpu := rfl
@[simp] theorem State.setInst_vlt (s : State) (j : JobId) (i : Option JobInst) : (s.setInst j i).vlt = s.vlt := rfl
@[simp] theorem State.setInst_str (s : State) (j : JobId) (i : Option JobInst) : (s.setInst j i).str = s.str := rfl
@[simp] theorem State.setInst_eng (s : State) (j : JobId) (i : Option JobInst) : (s.setInst j i).eng = s.eng := rfl

/-! ## conTx: only `con` changes -/

@[simp] theorem State.conTx_pending (s : State) (l : List Byte) : (s.conTx l).pending = s.pending := rfl
@[simp] theorem State.conTx_draws (s : State) (l : List Byte) : (s.conTx l).draws = s.draws := rfl
@[simp] theorem State.conTx_regs (s : State) (l : List Byte) : (s.conTx l).regs = s.regs := rfl
@[simp] theorem State.conTx_shadow (s : State) (l : List Byte) : (s.conTx l).shadow = s.shadow := rfl
@[simp] theorem State.conTx_mem (s : State) (l : List Byte) : (s.conTx l).mem = s.mem := rfl
@[simp] theorem State.conTx_sys (s : State) (l : List Byte) : (s.conTx l).sys = s.sys := rfl
@[simp] theorem State.conTx_si (s : State) (l : List Byte) : (s.conTx l).si = s.si := rfl
@[simp] theorem State.conTx_cel (s : State) (l : List Byte) : (s.conTx l).cel = s.cel := rfl
@[simp] theorem State.conTx_nv (s : State) (l : List Byte) : (s.conTx l).nv = s.nv := rfl
@[simp] theorem State.conTx_tick (s : State) (l : List Byte) : (s.conTx l).tick = s.tick := rfl
@[simp] theorem State.conTx_hatch (s : State) (l : List Byte) : (s.conTx l).hatch = s.hatch := rfl
@[simp] theorem State.conTx_watch (s : State) (l : List Byte) : (s.conTx l).watch = s.watch := rfl
@[simp] theorem State.conTx_care (s : State) (l : List Byte) : (s.conTx l).care = s.care := rfl
@[simp] theorem State.conTx_ldr (s : State) (l : List Byte) : (s.conTx l).ldr = s.ldr := rfl
@[simp] theorem State.conTx_bank (s : State) (l : List Byte) : (s.conTx l).bank = s.bank := rfl
@[simp] theorem State.conTx_progs (s : State) (l : List Byte) : (s.conTx l).progs = s.progs := rfl
@[simp] theorem State.conTx_tbs (s : State) (l : List Byte) : (s.conTx l).tbs = s.tbs := rfl
@[simp] theorem State.conTx_load (s : State) (l : List Byte) : (s.conTx l).load = s.load := rfl
@[simp] theorem State.conTx_qfx (s : State) (l : List Byte) : (s.conTx l).qfx = s.qfx := rfl
@[simp] theorem State.conTx_port (s : State) (l : List Byte) : (s.conTx l).port = s.port := rfl
@[simp] theorem State.conTx_hlk (s : State) (l : List Byte) : (s.conTx l).hlk = s.hlk := rfl
@[simp] theorem State.conTx_rly (s : State) (l : List Byte) : (s.conTx l).rly = s.rly := rfl
@[simp] theorem State.conTx_cpu (s : State) (l : List Byte) : (s.conTx l).cpu = s.cpu := rfl
@[simp] theorem State.conTx_vlt (s : State) (l : List Byte) : (s.conTx l).vlt = s.vlt := rfl
@[simp] theorem State.conTx_str (s : State) (l : List Byte) : (s.conTx l).str = s.str := rfl
@[simp] theorem State.conTx_eng (s : State) (l : List Byte) : (s.conTx l).eng = s.eng := rfl

/-! ## setTxn: only `nv` changes -/

@[simp] theorem State.setTxn_pending (s : State) (t : Fin 16) (x : Option Txn) : (s.setTxn t x).pending = s.pending := rfl
@[simp] theorem State.setTxn_draws (s : State) (t : Fin 16) (x : Option Txn) : (s.setTxn t x).draws = s.draws := rfl
@[simp] theorem State.setTxn_regs (s : State) (t : Fin 16) (x : Option Txn) : (s.setTxn t x).regs = s.regs := rfl
@[simp] theorem State.setTxn_shadow (s : State) (t : Fin 16) (x : Option Txn) : (s.setTxn t x).shadow = s.shadow := rfl
@[simp] theorem State.setTxn_mem (s : State) (t : Fin 16) (x : Option Txn) : (s.setTxn t x).mem = s.mem := rfl
@[simp] theorem State.setTxn_sys (s : State) (t : Fin 16) (x : Option Txn) : (s.setTxn t x).sys = s.sys := rfl
@[simp] theorem State.setTxn_si (s : State) (t : Fin 16) (x : Option Txn) : (s.setTxn t x).si = s.si := rfl
@[simp] theorem State.setTxn_cel (s : State) (t : Fin 16) (x : Option Txn) : (s.setTxn t x).cel = s.cel := rfl
@[simp] theorem State.setTxn_tick (s : State) (t : Fin 16) (x : Option Txn) : (s.setTxn t x).tick = s.tick := rfl
@[simp] theorem State.setTxn_hatch (s : State) (t : Fin 16) (x : Option Txn) : (s.setTxn t x).hatch = s.hatch := rfl
@[simp] theorem State.setTxn_watch (s : State) (t : Fin 16) (x : Option Txn) : (s.setTxn t x).watch = s.watch := rfl
@[simp] theorem State.setTxn_care (s : State) (t : Fin 16) (x : Option Txn) : (s.setTxn t x).care = s.care := rfl
@[simp] theorem State.setTxn_ldr (s : State) (t : Fin 16) (x : Option Txn) : (s.setTxn t x).ldr = s.ldr := rfl
@[simp] theorem State.setTxn_bank (s : State) (t : Fin 16) (x : Option Txn) : (s.setTxn t x).bank = s.bank := rfl
@[simp] theorem State.setTxn_progs (s : State) (t : Fin 16) (x : Option Txn) : (s.setTxn t x).progs = s.progs := rfl
@[simp] theorem State.setTxn_tbs (s : State) (t : Fin 16) (x : Option Txn) : (s.setTxn t x).tbs = s.tbs := rfl
@[simp] theorem State.setTxn_con (s : State) (t : Fin 16) (x : Option Txn) : (s.setTxn t x).con = s.con := rfl
@[simp] theorem State.setTxn_load (s : State) (t : Fin 16) (x : Option Txn) : (s.setTxn t x).load = s.load := rfl
@[simp] theorem State.setTxn_qfx (s : State) (t : Fin 16) (x : Option Txn) : (s.setTxn t x).qfx = s.qfx := rfl
@[simp] theorem State.setTxn_port (s : State) (t : Fin 16) (x : Option Txn) : (s.setTxn t x).port = s.port := rfl
@[simp] theorem State.setTxn_hlk (s : State) (t : Fin 16) (x : Option Txn) : (s.setTxn t x).hlk = s.hlk := rfl
@[simp] theorem State.setTxn_rly (s : State) (t : Fin 16) (x : Option Txn) : (s.setTxn t x).rly = s.rly := rfl
@[simp] theorem State.setTxn_cpu (s : State) (t : Fin 16) (x : Option Txn) : (s.setTxn t x).cpu = s.cpu := rfl
@[simp] theorem State.setTxn_vlt (s : State) (t : Fin 16) (x : Option Txn) : (s.setTxn t x).vlt = s.vlt := rfl
@[simp] theorem State.setTxn_str (s : State) (t : Fin 16) (x : Option Txn) : (s.setTxn t x).str = s.str := rfl
@[simp] theorem State.setTxn_eng (s : State) (t : Fin 16) (x : Option Txn) : (s.setTxn t x).eng = s.eng := rfl

/-! ## setArea: only `nv` changes -/

@[simp] theorem State.setArea_pending (s : State) (k : Fin 8) (f : AreaPtr → AreaPtr) : (s.setArea k f).pending = s.pending := rfl
@[simp] theorem State.setArea_draws (s : State) (k : Fin 8) (f : AreaPtr → AreaPtr) : (s.setArea k f).draws = s.draws := rfl
@[simp] theorem State.setArea_regs (s : State) (k : Fin 8) (f : AreaPtr → AreaPtr) : (s.setArea k f).regs = s.regs := rfl
@[simp] theorem State.setArea_shadow (s : State) (k : Fin 8) (f : AreaPtr → AreaPtr) : (s.setArea k f).shadow = s.shadow := rfl
@[simp] theorem State.setArea_mem (s : State) (k : Fin 8) (f : AreaPtr → AreaPtr) : (s.setArea k f).mem = s.mem := rfl
@[simp] theorem State.setArea_sys (s : State) (k : Fin 8) (f : AreaPtr → AreaPtr) : (s.setArea k f).sys = s.sys := rfl
@[simp] theorem State.setArea_si (s : State) (k : Fin 8) (f : AreaPtr → AreaPtr) : (s.setArea k f).si = s.si := rfl
@[simp] theorem State.setArea_cel (s : State) (k : Fin 8) (f : AreaPtr → AreaPtr) : (s.setArea k f).cel = s.cel := rfl
@[simp] theorem State.setArea_tick (s : State) (k : Fin 8) (f : AreaPtr → AreaPtr) : (s.setArea k f).tick = s.tick := rfl
@[simp] theorem State.setArea_hatch (s : State) (k : Fin 8) (f : AreaPtr → AreaPtr) : (s.setArea k f).hatch = s.hatch := rfl
@[simp] theorem State.setArea_watch (s : State) (k : Fin 8) (f : AreaPtr → AreaPtr) : (s.setArea k f).watch = s.watch := rfl
@[simp] theorem State.setArea_care (s : State) (k : Fin 8) (f : AreaPtr → AreaPtr) : (s.setArea k f).care = s.care := rfl
@[simp] theorem State.setArea_ldr (s : State) (k : Fin 8) (f : AreaPtr → AreaPtr) : (s.setArea k f).ldr = s.ldr := rfl
@[simp] theorem State.setArea_bank (s : State) (k : Fin 8) (f : AreaPtr → AreaPtr) : (s.setArea k f).bank = s.bank := rfl
@[simp] theorem State.setArea_progs (s : State) (k : Fin 8) (f : AreaPtr → AreaPtr) : (s.setArea k f).progs = s.progs := rfl
@[simp] theorem State.setArea_tbs (s : State) (k : Fin 8) (f : AreaPtr → AreaPtr) : (s.setArea k f).tbs = s.tbs := rfl
@[simp] theorem State.setArea_con (s : State) (k : Fin 8) (f : AreaPtr → AreaPtr) : (s.setArea k f).con = s.con := rfl
@[simp] theorem State.setArea_load (s : State) (k : Fin 8) (f : AreaPtr → AreaPtr) : (s.setArea k f).load = s.load := rfl
@[simp] theorem State.setArea_qfx (s : State) (k : Fin 8) (f : AreaPtr → AreaPtr) : (s.setArea k f).qfx = s.qfx := rfl
@[simp] theorem State.setArea_port (s : State) (k : Fin 8) (f : AreaPtr → AreaPtr) : (s.setArea k f).port = s.port := rfl
@[simp] theorem State.setArea_hlk (s : State) (k : Fin 8) (f : AreaPtr → AreaPtr) : (s.setArea k f).hlk = s.hlk := rfl
@[simp] theorem State.setArea_rly (s : State) (k : Fin 8) (f : AreaPtr → AreaPtr) : (s.setArea k f).rly = s.rly := rfl
@[simp] theorem State.setArea_cpu (s : State) (k : Fin 8) (f : AreaPtr → AreaPtr) : (s.setArea k f).cpu = s.cpu := rfl
@[simp] theorem State.setArea_vlt (s : State) (k : Fin 8) (f : AreaPtr → AreaPtr) : (s.setArea k f).vlt = s.vlt := rfl
@[simp] theorem State.setArea_str (s : State) (k : Fin 8) (f : AreaPtr → AreaPtr) : (s.setArea k f).str = s.str := rfl
@[simp] theorem State.setArea_eng (s : State) (k : Fin 8) (f : AreaPtr → AreaPtr) : (s.setArea k f).eng = s.eng := rfl

/-! ## setImg: only `nv` changes -/

@[simp] theorem State.setImg_pending (s : State) (k : ImgKind) (n : Fin 2) (x : ImgSlot) : (s.setImg k n x).pending = s.pending := rfl
@[simp] theorem State.setImg_draws (s : State) (k : ImgKind) (n : Fin 2) (x : ImgSlot) : (s.setImg k n x).draws = s.draws := rfl
@[simp] theorem State.setImg_regs (s : State) (k : ImgKind) (n : Fin 2) (x : ImgSlot) : (s.setImg k n x).regs = s.regs := rfl
@[simp] theorem State.setImg_shadow (s : State) (k : ImgKind) (n : Fin 2) (x : ImgSlot) : (s.setImg k n x).shadow = s.shadow := rfl
@[simp] theorem State.setImg_mem (s : State) (k : ImgKind) (n : Fin 2) (x : ImgSlot) : (s.setImg k n x).mem = s.mem := rfl
@[simp] theorem State.setImg_sys (s : State) (k : ImgKind) (n : Fin 2) (x : ImgSlot) : (s.setImg k n x).sys = s.sys := rfl
@[simp] theorem State.setImg_si (s : State) (k : ImgKind) (n : Fin 2) (x : ImgSlot) : (s.setImg k n x).si = s.si := rfl
@[simp] theorem State.setImg_cel (s : State) (k : ImgKind) (n : Fin 2) (x : ImgSlot) : (s.setImg k n x).cel = s.cel := rfl
@[simp] theorem State.setImg_tick (s : State) (k : ImgKind) (n : Fin 2) (x : ImgSlot) : (s.setImg k n x).tick = s.tick := rfl
@[simp] theorem State.setImg_hatch (s : State) (k : ImgKind) (n : Fin 2) (x : ImgSlot) : (s.setImg k n x).hatch = s.hatch := rfl
@[simp] theorem State.setImg_watch (s : State) (k : ImgKind) (n : Fin 2) (x : ImgSlot) : (s.setImg k n x).watch = s.watch := rfl
@[simp] theorem State.setImg_care (s : State) (k : ImgKind) (n : Fin 2) (x : ImgSlot) : (s.setImg k n x).care = s.care := rfl
@[simp] theorem State.setImg_ldr (s : State) (k : ImgKind) (n : Fin 2) (x : ImgSlot) : (s.setImg k n x).ldr = s.ldr := rfl
@[simp] theorem State.setImg_bank (s : State) (k : ImgKind) (n : Fin 2) (x : ImgSlot) : (s.setImg k n x).bank = s.bank := rfl
@[simp] theorem State.setImg_progs (s : State) (k : ImgKind) (n : Fin 2) (x : ImgSlot) : (s.setImg k n x).progs = s.progs := rfl
@[simp] theorem State.setImg_tbs (s : State) (k : ImgKind) (n : Fin 2) (x : ImgSlot) : (s.setImg k n x).tbs = s.tbs := rfl
@[simp] theorem State.setImg_con (s : State) (k : ImgKind) (n : Fin 2) (x : ImgSlot) : (s.setImg k n x).con = s.con := rfl
@[simp] theorem State.setImg_load (s : State) (k : ImgKind) (n : Fin 2) (x : ImgSlot) : (s.setImg k n x).load = s.load := rfl
@[simp] theorem State.setImg_qfx (s : State) (k : ImgKind) (n : Fin 2) (x : ImgSlot) : (s.setImg k n x).qfx = s.qfx := rfl
@[simp] theorem State.setImg_port (s : State) (k : ImgKind) (n : Fin 2) (x : ImgSlot) : (s.setImg k n x).port = s.port := rfl
@[simp] theorem State.setImg_hlk (s : State) (k : ImgKind) (n : Fin 2) (x : ImgSlot) : (s.setImg k n x).hlk = s.hlk := rfl
@[simp] theorem State.setImg_rly (s : State) (k : ImgKind) (n : Fin 2) (x : ImgSlot) : (s.setImg k n x).rly = s.rly := rfl
@[simp] theorem State.setImg_cpu (s : State) (k : ImgKind) (n : Fin 2) (x : ImgSlot) : (s.setImg k n x).cpu = s.cpu := rfl
@[simp] theorem State.setImg_vlt (s : State) (k : ImgKind) (n : Fin 2) (x : ImgSlot) : (s.setImg k n x).vlt = s.vlt := rfl
@[simp] theorem State.setImg_str (s : State) (k : ImgKind) (n : Fin 2) (x : ImgSlot) : (s.setImg k n x).str = s.str := rfl
@[simp] theorem State.setImg_eng (s : State) (k : ImgKind) (n : Fin 2) (x : ImgSlot) : (s.setImg k n x).eng = s.eng := rfl

/-! ## vSet: only `vlt` changes -/

@[simp] theorem State.vSet_pending (s : State) (i : Nat) (e : VEntry) : (s.vSet i e).pending = s.pending := rfl
@[simp] theorem State.vSet_draws (s : State) (i : Nat) (e : VEntry) : (s.vSet i e).draws = s.draws := rfl
@[simp] theorem State.vSet_regs (s : State) (i : Nat) (e : VEntry) : (s.vSet i e).regs = s.regs := rfl
@[simp] theorem State.vSet_shadow (s : State) (i : Nat) (e : VEntry) : (s.vSet i e).shadow = s.shadow := rfl
@[simp] theorem State.vSet_mem (s : State) (i : Nat) (e : VEntry) : (s.vSet i e).mem = s.mem := rfl
@[simp] theorem State.vSet_sys (s : State) (i : Nat) (e : VEntry) : (s.vSet i e).sys = s.sys := rfl
@[simp] theorem State.vSet_si (s : State) (i : Nat) (e : VEntry) : (s.vSet i e).si = s.si := rfl
@[simp] theorem State.vSet_cel (s : State) (i : Nat) (e : VEntry) : (s.vSet i e).cel = s.cel := rfl
@[simp] theorem State.vSet_nv (s : State) (i : Nat) (e : VEntry) : (s.vSet i e).nv = s.nv := rfl
@[simp] theorem State.vSet_tick (s : State) (i : Nat) (e : VEntry) : (s.vSet i e).tick = s.tick := rfl
@[simp] theorem State.vSet_hatch (s : State) (i : Nat) (e : VEntry) : (s.vSet i e).hatch = s.hatch := rfl
@[simp] theorem State.vSet_watch (s : State) (i : Nat) (e : VEntry) : (s.vSet i e).watch = s.watch := rfl
@[simp] theorem State.vSet_care (s : State) (i : Nat) (e : VEntry) : (s.vSet i e).care = s.care := rfl
@[simp] theorem State.vSet_ldr (s : State) (i : Nat) (e : VEntry) : (s.vSet i e).ldr = s.ldr := rfl
@[simp] theorem State.vSet_bank (s : State) (i : Nat) (e : VEntry) : (s.vSet i e).bank = s.bank := rfl
@[simp] theorem State.vSet_progs (s : State) (i : Nat) (e : VEntry) : (s.vSet i e).progs = s.progs := rfl
@[simp] theorem State.vSet_tbs (s : State) (i : Nat) (e : VEntry) : (s.vSet i e).tbs = s.tbs := rfl
@[simp] theorem State.vSet_con (s : State) (i : Nat) (e : VEntry) : (s.vSet i e).con = s.con := rfl
@[simp] theorem State.vSet_load (s : State) (i : Nat) (e : VEntry) : (s.vSet i e).load = s.load := rfl
@[simp] theorem State.vSet_qfx (s : State) (i : Nat) (e : VEntry) : (s.vSet i e).qfx = s.qfx := rfl
@[simp] theorem State.vSet_port (s : State) (i : Nat) (e : VEntry) : (s.vSet i e).port = s.port := rfl
@[simp] theorem State.vSet_hlk (s : State) (i : Nat) (e : VEntry) : (s.vSet i e).hlk = s.hlk := rfl
@[simp] theorem State.vSet_rly (s : State) (i : Nat) (e : VEntry) : (s.vSet i e).rly = s.rly := rfl
@[simp] theorem State.vSet_cpu (s : State) (i : Nat) (e : VEntry) : (s.vSet i e).cpu = s.cpu := rfl
@[simp] theorem State.vSet_str (s : State) (i : Nat) (e : VEntry) : (s.vSet i e).str = s.str := rfl
@[simp] theorem State.vSet_eng (s : State) (i : Nat) (e : VEntry) : (s.vSet i e).eng = s.eng := rfl

/-! ## vWr: only `vlt` changes -/

@[simp] theorem State.vWr_pending (s : State) (a : Agent) (f : VWriter → VWriter) : (s.vWr a f).pending = s.pending := rfl
@[simp] theorem State.vWr_draws (s : State) (a : Agent) (f : VWriter → VWriter) : (s.vWr a f).draws = s.draws := rfl
@[simp] theorem State.vWr_regs (s : State) (a : Agent) (f : VWriter → VWriter) : (s.vWr a f).regs = s.regs := rfl
@[simp] theorem State.vWr_shadow (s : State) (a : Agent) (f : VWriter → VWriter) : (s.vWr a f).shadow = s.shadow := rfl
@[simp] theorem State.vWr_mem (s : State) (a : Agent) (f : VWriter → VWriter) : (s.vWr a f).mem = s.mem := rfl
@[simp] theorem State.vWr_sys (s : State) (a : Agent) (f : VWriter → VWriter) : (s.vWr a f).sys = s.sys := rfl
@[simp] theorem State.vWr_si (s : State) (a : Agent) (f : VWriter → VWriter) : (s.vWr a f).si = s.si := rfl
@[simp] theorem State.vWr_cel (s : State) (a : Agent) (f : VWriter → VWriter) : (s.vWr a f).cel = s.cel := rfl
@[simp] theorem State.vWr_nv (s : State) (a : Agent) (f : VWriter → VWriter) : (s.vWr a f).nv = s.nv := rfl
@[simp] theorem State.vWr_tick (s : State) (a : Agent) (f : VWriter → VWriter) : (s.vWr a f).tick = s.tick := rfl
@[simp] theorem State.vWr_hatch (s : State) (a : Agent) (f : VWriter → VWriter) : (s.vWr a f).hatch = s.hatch := rfl
@[simp] theorem State.vWr_watch (s : State) (a : Agent) (f : VWriter → VWriter) : (s.vWr a f).watch = s.watch := rfl
@[simp] theorem State.vWr_care (s : State) (a : Agent) (f : VWriter → VWriter) : (s.vWr a f).care = s.care := rfl
@[simp] theorem State.vWr_ldr (s : State) (a : Agent) (f : VWriter → VWriter) : (s.vWr a f).ldr = s.ldr := rfl
@[simp] theorem State.vWr_bank (s : State) (a : Agent) (f : VWriter → VWriter) : (s.vWr a f).bank = s.bank := rfl
@[simp] theorem State.vWr_progs (s : State) (a : Agent) (f : VWriter → VWriter) : (s.vWr a f).progs = s.progs := rfl
@[simp] theorem State.vWr_tbs (s : State) (a : Agent) (f : VWriter → VWriter) : (s.vWr a f).tbs = s.tbs := rfl
@[simp] theorem State.vWr_con (s : State) (a : Agent) (f : VWriter → VWriter) : (s.vWr a f).con = s.con := rfl
@[simp] theorem State.vWr_load (s : State) (a : Agent) (f : VWriter → VWriter) : (s.vWr a f).load = s.load := rfl
@[simp] theorem State.vWr_qfx (s : State) (a : Agent) (f : VWriter → VWriter) : (s.vWr a f).qfx = s.qfx := rfl
@[simp] theorem State.vWr_port (s : State) (a : Agent) (f : VWriter → VWriter) : (s.vWr a f).port = s.port := rfl
@[simp] theorem State.vWr_hlk (s : State) (a : Agent) (f : VWriter → VWriter) : (s.vWr a f).hlk = s.hlk := rfl
@[simp] theorem State.vWr_rly (s : State) (a : Agent) (f : VWriter → VWriter) : (s.vWr a f).rly = s.rly := rfl
@[simp] theorem State.vWr_cpu (s : State) (a : Agent) (f : VWriter → VWriter) : (s.vWr a f).cpu = s.cpu := rfl
@[simp] theorem State.vWr_str (s : State) (a : Agent) (f : VWriter → VWriter) : (s.vWr a f).str = s.str := rfl
@[simp] theorem State.vWr_eng (s : State) (a : Agent) (f : VWriter → VWriter) : (s.vWr a f).eng = s.eng := rfl

/-! ## setCtx: only `eng` changes -/

@[simp] theorem State.setCtx_pending (s : State) (n : Fin 8) (c : Option SymCtx) : (s.setCtx n c).pending = s.pending := rfl
@[simp] theorem State.setCtx_draws (s : State) (n : Fin 8) (c : Option SymCtx) : (s.setCtx n c).draws = s.draws := rfl
@[simp] theorem State.setCtx_regs (s : State) (n : Fin 8) (c : Option SymCtx) : (s.setCtx n c).regs = s.regs := rfl
@[simp] theorem State.setCtx_shadow (s : State) (n : Fin 8) (c : Option SymCtx) : (s.setCtx n c).shadow = s.shadow := rfl
@[simp] theorem State.setCtx_mem (s : State) (n : Fin 8) (c : Option SymCtx) : (s.setCtx n c).mem = s.mem := rfl
@[simp] theorem State.setCtx_sys (s : State) (n : Fin 8) (c : Option SymCtx) : (s.setCtx n c).sys = s.sys := rfl
@[simp] theorem State.setCtx_si (s : State) (n : Fin 8) (c : Option SymCtx) : (s.setCtx n c).si = s.si := rfl
@[simp] theorem State.setCtx_cel (s : State) (n : Fin 8) (c : Option SymCtx) : (s.setCtx n c).cel = s.cel := rfl
@[simp] theorem State.setCtx_nv (s : State) (n : Fin 8) (c : Option SymCtx) : (s.setCtx n c).nv = s.nv := rfl
@[simp] theorem State.setCtx_tick (s : State) (n : Fin 8) (c : Option SymCtx) : (s.setCtx n c).tick = s.tick := rfl
@[simp] theorem State.setCtx_hatch (s : State) (n : Fin 8) (c : Option SymCtx) : (s.setCtx n c).hatch = s.hatch := rfl
@[simp] theorem State.setCtx_watch (s : State) (n : Fin 8) (c : Option SymCtx) : (s.setCtx n c).watch = s.watch := rfl
@[simp] theorem State.setCtx_care (s : State) (n : Fin 8) (c : Option SymCtx) : (s.setCtx n c).care = s.care := rfl
@[simp] theorem State.setCtx_ldr (s : State) (n : Fin 8) (c : Option SymCtx) : (s.setCtx n c).ldr = s.ldr := rfl
@[simp] theorem State.setCtx_bank (s : State) (n : Fin 8) (c : Option SymCtx) : (s.setCtx n c).bank = s.bank := rfl
@[simp] theorem State.setCtx_progs (s : State) (n : Fin 8) (c : Option SymCtx) : (s.setCtx n c).progs = s.progs := rfl
@[simp] theorem State.setCtx_tbs (s : State) (n : Fin 8) (c : Option SymCtx) : (s.setCtx n c).tbs = s.tbs := rfl
@[simp] theorem State.setCtx_con (s : State) (n : Fin 8) (c : Option SymCtx) : (s.setCtx n c).con = s.con := rfl
@[simp] theorem State.setCtx_load (s : State) (n : Fin 8) (c : Option SymCtx) : (s.setCtx n c).load = s.load := rfl
@[simp] theorem State.setCtx_qfx (s : State) (n : Fin 8) (c : Option SymCtx) : (s.setCtx n c).qfx = s.qfx := rfl
@[simp] theorem State.setCtx_port (s : State) (n : Fin 8) (c : Option SymCtx) : (s.setCtx n c).port = s.port := rfl
@[simp] theorem State.setCtx_hlk (s : State) (n : Fin 8) (c : Option SymCtx) : (s.setCtx n c).hlk = s.hlk := rfl
@[simp] theorem State.setCtx_rly (s : State) (n : Fin 8) (c : Option SymCtx) : (s.setCtx n c).rly = s.rly := rfl
@[simp] theorem State.setCtx_cpu (s : State) (n : Fin 8) (c : Option SymCtx) : (s.setCtx n c).cpu = s.cpu := rfl
@[simp] theorem State.setCtx_vlt (s : State) (n : Fin 8) (c : Option SymCtx) : (s.setCtx n c).vlt = s.vlt := rfl
@[simp] theorem State.setCtx_str (s : State) (n : Fin 8) (c : Option SymCtx) : (s.setCtx n c).str = s.str := rfl

/-! ## hlkYes: only `hlk` changes -/

@[simp] theorem State.hlkYes_pending (s : State) (l : List Byte) : (s.hlkYes l).pending = s.pending := rfl
@[simp] theorem State.hlkYes_draws (s : State) (l : List Byte) : (s.hlkYes l).draws = s.draws := rfl
@[simp] theorem State.hlkYes_regs (s : State) (l : List Byte) : (s.hlkYes l).regs = s.regs := rfl
@[simp] theorem State.hlkYes_shadow (s : State) (l : List Byte) : (s.hlkYes l).shadow = s.shadow := rfl
@[simp] theorem State.hlkYes_mem (s : State) (l : List Byte) : (s.hlkYes l).mem = s.mem := rfl
@[simp] theorem State.hlkYes_sys (s : State) (l : List Byte) : (s.hlkYes l).sys = s.sys := rfl
@[simp] theorem State.hlkYes_si (s : State) (l : List Byte) : (s.hlkYes l).si = s.si := rfl
@[simp] theorem State.hlkYes_cel (s : State) (l : List Byte) : (s.hlkYes l).cel = s.cel := rfl
@[simp] theorem State.hlkYes_nv (s : State) (l : List Byte) : (s.hlkYes l).nv = s.nv := rfl
@[simp] theorem State.hlkYes_tick (s : State) (l : List Byte) : (s.hlkYes l).tick = s.tick := rfl
@[simp] theorem State.hlkYes_hatch (s : State) (l : List Byte) : (s.hlkYes l).hatch = s.hatch := rfl
@[simp] theorem State.hlkYes_watch (s : State) (l : List Byte) : (s.hlkYes l).watch = s.watch := rfl
@[simp] theorem State.hlkYes_care (s : State) (l : List Byte) : (s.hlkYes l).care = s.care := rfl
@[simp] theorem State.hlkYes_ldr (s : State) (l : List Byte) : (s.hlkYes l).ldr = s.ldr := rfl
@[simp] theorem State.hlkYes_bank (s : State) (l : List Byte) : (s.hlkYes l).bank = s.bank := rfl
@[simp] theorem State.hlkYes_progs (s : State) (l : List Byte) : (s.hlkYes l).progs = s.progs := rfl
@[simp] theorem State.hlkYes_tbs (s : State) (l : List Byte) : (s.hlkYes l).tbs = s.tbs := rfl
@[simp] theorem State.hlkYes_con (s : State) (l : List Byte) : (s.hlkYes l).con = s.con := rfl
@[simp] theorem State.hlkYes_load (s : State) (l : List Byte) : (s.hlkYes l).load = s.load := rfl
@[simp] theorem State.hlkYes_qfx (s : State) (l : List Byte) : (s.hlkYes l).qfx = s.qfx := rfl
@[simp] theorem State.hlkYes_port (s : State) (l : List Byte) : (s.hlkYes l).port = s.port := rfl
@[simp] theorem State.hlkYes_rly (s : State) (l : List Byte) : (s.hlkYes l).rly = s.rly := rfl
@[simp] theorem State.hlkYes_cpu (s : State) (l : List Byte) : (s.hlkYes l).cpu = s.cpu := rfl
@[simp] theorem State.hlkYes_vlt (s : State) (l : List Byte) : (s.hlkYes l).vlt = s.vlt := rfl
@[simp] theorem State.hlkYes_str (s : State) (l : List Byte) : (s.hlkYes l).str = s.str := rfl
@[simp] theorem State.hlkYes_eng (s : State) (l : List Byte) : (s.hlkYes l).eng = s.eng := rfl

/-! ## The updated tables -/

theorem State.core_at (s : State) (c d : CpuId) (f : Core → Core) : (s.core c f).cpu.at d = if c = d then f (s.cpu.at c) else s.cpu.at d :=
  Tab.at_upd _ _ _ _

@[simp] theorem State.core_at_self (s : State) (c : CpuId) (f : Core → Core) : (s.core c f).cpu.at c = f (s.cpu.at c) := by
  rw [State.core_at, if_pos rfl]

theorem State.pset_at (s : State) (c d : PortId) (f : Port → Port) : (s.pset c f).port.at d = if c = d then f (s.port.at c) else s.port.at d :=
  Tab.at_upd _ _ _ _

@[simp] theorem State.pset_at_self (s : State) (c : PortId) (f : Port → Port) : (s.pset c f).port.at c = f (s.port.at c) := by
  rw [State.pset_at, if_pos rfl]

theorem State.qset_at (s : State) (c d : QueueId) (f : Queue → Queue) : (s.qset c f).qfx.at d = if c = d then f (s.qfx.at c) else s.qfx.at d :=
  Tab.at_upd _ _ _ _

@[simp] theorem State.qset_at_self (s : State) (c : QueueId) (f : Queue → Queue) : (s.qset c f).qfx.at c = f (s.qfx.at c) := by
  rw [State.qset_at, if_pos rfl]

theorem State.rlySet_at (s : State) (c d : Fin 8) (f : RlySess → RlySess) : (s.rlySet c f).rly.at d = if c = d then f (s.rly.at c) else s.rly.at d :=
  Tab.at_upd _ _ _ _

@[simp] theorem State.rlySet_at_self (s : State) (c : Fin 8) (f : RlySess → RlySess) : (s.rlySet c f).rly.at c = f (s.rly.at c) := by
  rw [State.rlySet_at, if_pos rfl]

theorem State.slot_at (s : State) (c d : Fin 16) (f : HatchSlot → HatchSlot) : (s.slot c f).hatch.at d = if c = d then f (s.hatch.at c) else s.hatch.at d :=
  Tab.at_upd _ _ _ _

@[simp] theorem State.slot_at_self (s : State) (c : Fin 16) (f : HatchSlot → HatchSlot) : (s.slot c f).hatch.at c = f (s.hatch.at c) := by
  rw [State.slot_at, if_pos rfl]

end Sys2Proof.Machine
end

