-- ==== Sys2Proof/Laws/Ops.lean ====
section
/-!
SUPPORT. Laws/Ops.lean: read after write of registers and memory, the canonical form under every operation of memory, and what the
gates of the commands do: a gate that is open runs what it guards, a closed one leaves the state or refuses.
-/
namespace Sys2Proof.Machine

/-! ## Register fields -/

/-- A field reads as it was written, modulo its width. -/
theorem State.rd_wr_self (s : State) (f : Field) (v : Nat) (h : f.width ≤ 32) : (s.wr f v).rd f = v % 2 ^ f.width := by
  unfold State.rd State.wr
  rw [lkGet_lkPut, if_pos rfl, BitVec.toNat_ofNat]
  exact Nat.mod_eq_of_lt (Nat.lt_of_lt_of_le (Nat.mod_lt _ (Nat.two_pow_pos _)) (Nat.pow_le_pow_right (by decide) h))

/-- A write leaves every other field. -/
theorem State.rd_wr_ne (s : State) (f g : Field) (v : Nat) (h : f.key ≠ g.key) : (s.wr f v).rd g = s.rd g := by
  unfold State.rd State.wr
  rw [lkGet_lkPut, if_neg h]

theorem State.rd_setb_self (s : State) (f : Field) (h : f.width ≤ 32) : (s.setb f).rd f = 1 := by
  unfold State.setb
  rw [State.rd_wr_self s f 1 h]
  have : 0 < f.width := by unfold Field.width; omega
  exact Nat.mod_eq_of_lt (Nat.one_lt_two_pow (by omega))

theorem State.isSet_setb_self (s : State) (f : Field) (h : f.width ≤ 32) : (s.setb f).isSet f = true := by
  simp [State.isSet, State.rd_setb_self s f h]

/-- A field depends on the registers' list alone. -/
theorem State.rd_congr {s t : State} (h : t.regs = s.regs) (f : Field) : t.rd f = s.rd f := by
  unfold State.rd
  rw [h]

theorem State.isSet_congr {s t : State} (h : t.regs = s.regs) (f : Field) : t.isSet f = s.isSet f := by
  unfold State.isSet
  rw [State.rd_congr h]

@[simp] theorem State.wrs_nil (s : State) : s.wrs [] = s := rfl

@[simp] theorem State.wrs_cons (s : State) (e : Field × Nat) (l : List (Field × Nat)) : s.wrs (e :: l) = (s.wr e.1 e.2).wrs l := rfl

/-- Writes of other fields leave a field. -/
theorem State.rd_wrs_ne (s : State) (l : List (Field × Nat)) (g : Field) (h : ∀ e ∈ l, e.1.key ≠ g.key) :
    (s.wrs l).rd g = s.rd g := by
  induction l generalizing s with
  | nil => rfl
  | cons e l ih =>
    rw [State.wrs_cons, ih _ (fun x hx => h x (List.mem_cons_of_mem _ hx)), State.rd_wr_ne _ _ _ _ (h e List.mem_cons_self)]

/-- Several fields written: only the registers change. -/
theorem State.wrs_eq (s : State) (l : List (Field × Nat)) : s.wrs l = { s with regs := (s.wrs l).regs } := by
  induction l generalizing s with
  | nil => rfl
  | cons e l ih =>
    rw [State.wrs_cons, ih]
    rfl

/-! ## Memory -/

/-- Read after write, for a memory in its canonical form. -/
theorem State.getB_putB (s : State) (a b : Nat) (x : Byte) (h : Memory.wf s.mem = true) :
    (s.putB a x).getB b = if a = b then x else s.getB b :=
  spGet_spPut memDflt s.mem a b x h

theorem State.putB_wf (s : State) (a : Nat) (x : Byte) (h : Memory.wf s.mem = true) : Memory.wf (s.putB a x).mem = true :=
  spPut_wf h

theorem State.putBytes_wf (s : State) (a : Nat) (l : List Byte) (h : Memory.wf s.mem = true) :
    Memory.wf (s.putBytes a l).mem = true := by
  induction l generalizing s a with
  | nil => exact h
  | cons b t ih => exact ih _ _ (s.putB_wf a b h)

theorem State.putW_wf (s : State) (a : Nat) (w : Word) (h : Memory.wf s.mem = true) : Memory.wf (s.putW a w).mem = true :=
  s.putBytes_wf a _ h

theorem State.memClear_wf (s : State) (lo hi : Nat) (h : Memory.wf s.mem = true) : Memory.wf (s.memClear lo hi).mem = true :=
  spWf_filter _ h

theorem State.arcPut_wf (s : State) (off : Nat) (l : List Byte) (h : Memory.wf s.mem = true) :
    Memory.wf (s.arcPut off l).mem = true :=
  s.putBytes_wf _ l h

theorem State.arcErase_wf (s : State) (x : Nat) (h : Memory.wf s.mem = true) : Memory.wf (s.arcErase x).mem = true :=
  s.memClear_wf _ _ h

/-- The memory at reset lists nothing. -/
theorem State.reset_mem : State.reset.mem = [] := by
  simp [State.reset]

theorem State.reset_mem_wf : Memory.wf State.reset.mem = true := by
  rw [State.reset_mem]
  rfl

/-- Only the memory changes where bytes are written. -/
theorem State.putBytes_eq (s : State) (a : Nat) (l : List Byte) : s.putBytes a l = { s with mem := (s.putBytes a l).mem } := by
  induction l generalizing s a with
  | nil => rfl
  | cons b t ih =>
    unfold State.putBytes
    rw [ih]
    rfl

/-- Bytes written from an address on, and every other byte as before. -/
theorem State.getB_putBytes (s : State) (a b : Nat) (l : List Byte) (h : Memory.wf s.mem = true) :
    (s.putBytes a l).getB b = if a ≤ b ∧ b < a + l.length then l.getD (b - a) 0 else s.getB b := by
  induction l generalizing s a with
  | nil =>
    rw [if_neg (by simp only [List.length_nil]; omega)]
    rfl
  | cons x t ih =>
    unfold State.putBytes
    rw [ih _ _ (s.putB_wf a x h), State.getB_putB s a b x h]
    by_cases e : a = b
    · subst e
      rw [if_neg (by omega), if_pos rfl, if_pos (by simp only [List.length_cons]; omega)]
      simp
    · rw [if_neg e]
      by_cases g : a + 1 ≤ b ∧ b < a + 1 + t.length
      · rw [if_pos g, if_pos (by simp only [List.length_cons]; omega)]
        have : b - a = (b - (a + 1)) + 1 := by omega
        rw [this, List.getD_cons_succ]
      · rw [if_neg g, if_neg (by simp only [List.length_cons]; omega)]

/-- Bytes written are read back. -/
theorem State.getBytes_putBytes_self (s : State) (a : Nat) (l : List Byte) (h : Memory.wf s.mem = true) :
    (s.putBytes a l).getBytes a l.length = l := by
  apply List.ext_getElem
  · simp [State.getBytes]
  · intro i h1 h2
    simp only [State.getBytes, List.getElem_map, List.getElem_range]
    rw [State.getB_putBytes s a (a + i) l h, if_pos (by omega)]
    simp [h2]

/-- Bytes outside those written are as before. -/
theorem State.getBytes_putBytes_out (s : State) (a b n : Nat) (l : List Byte) (h : Memory.wf s.mem = true)
    (d : b + n ≤ a ∨ a + l.length ≤ b) : (s.putBytes a l).getBytes b n = s.getBytes b n := by
  apply List.map_congr_left
  intro i hi
  rw [List.mem_range] at hi
  rw [State.getB_putBytes s a (b + i) l h, if_neg (by omega)]

/-! ## Gates -/

/-- A core that runs commands: its stores are visible and its line buffer is empty first (R297). -/
theorem State.byCore_run {s : State} {c : CpuId} (h : s.coreRuns c = true) (f : State → State) :
    s.byCore c f = f (s.strongIssue c) := by
  simp [State.byCore, h]

theorem State.byCore_stay {s : State} {c : CpuId} (h : s.coreRuns c = false) (f : State → State) : s.byCore c f = s := by
  simp [State.byCore, h]

theorem State.byAgent_run {s : State} {a : Agent} (h : s.agentUp a = true) (f : State → State) :
    s.byAgent a f = f (s.asAgent a) := by
  cases a <;> simp_all [State.byAgent, State.agentUp, State.asAgent, Agent.cpu, State.byCore]

theorem State.instr_run {s : State} {c : CpuId} (h : s.coreRuns c = true) (i : CoreAt) (f : State → State) :
    s.instr c i f = f (s.core c (fun x => x.arrive i)) := by
  simp [State.instr, h]

theorem State.ifFn_run {s : State} {p : PortId} {fn : PortFn} (h : s.pfn p = fn) (f : State → State) : s.ifFn p fn f = f s := by
  simp [State.ifFn, h]

theorem State.arcCmd_run {s : State} {c : CpuId} (h : s.coreRuns c = true) (f : State → State)
    (k : (s.strongIssue c).rd (ARC_TSTAT_STATE c) ≠ 1) : s.arcCmd c f = f (s.strongIssue c) := by
  simp [State.arcCmd, State.byCore, h, k]

theorem State.rlyCmd_run {s : State} {c : CpuId} {n : Fin 8} (h : s.coreRuns c = true) (f : State → State)
    (k : (s.strongIssue c).rlyOthers c n = false) : s.rlyCmd c n f = f (s.strongIssue c) := by
  simp [State.rlyCmd, State.byCore, h, k]

theorem State.rlyCmd_foreign {s : State} {c : CpuId} {n : Fin 8} (h : s.coreRuns c = true) (f : State → State)
    (k : (s.strongIssue c).rlyOthers c n = true) : s.rlyCmd c n f = (s.strongIssue c).misuse := by
  simp [State.rlyCmd, State.byCore, h, k]

theorem State.qAs_run {s : State} {a : Agent} {q : QueueId} (k : s.qConsumer a q = true) (f : State → State) :
    s.qAs a q f = f s := by
  simp [State.qAs, k]

theorem State.qAs_foreign {s : State} {a : Agent} {q : QueueId} (k : s.qConsumer a q = false) (f : State → State) :
    s.qAs a q f = s.qForeign q := by
  simp [State.qAs, k]

theorem State.asConsumer_run {s : State} {c : CpuId} {q : QueueId} (h : s.coreRuns c = true) (f : State → State)
    (k : (s.strongIssue c).qConsumer c.agent q = true) : s.asConsumer c q f = f (s.strongIssue c) := by
  simp [State.asConsumer, State.byCore, State.qAs, h, k]

theorem State.asConsumer_foreign {s : State} {c : CpuId} {q : QueueId} (h : s.coreRuns c = true) (f : State → State)
    (k : (s.strongIssue c).qConsumer c.agent q = false) : s.asConsumer c q f = (s.strongIssue c).qForeign q := by
  simp [State.asConsumer, State.byCore, State.qAs, h, k]

theorem State.vUse_run {s : State} {a : Agent} (k : s.sys.mode.vaultUse = true) (f : State → State) : s.vUse a f = f s := by
  simp [State.vUse, k]

theorem State.vUse_mode {s : State} {a : Agent} (k : s.sys.mode.vaultUse = false) (f : State → State) :
    s.vUse a f = s.vEnd (.agent a) s.sys.mode.vaultNo 0 := by
  simp [State.vUse, k]

/-- A Vault command of a writer whose previous one has ended joins the commands (R322). -/
theorem State.vCmd_joins {s : State} {a : Agent} (h : s.rd (VLT_STAT_STATE a) ≠ 1) (cmd idx : Nat) :
    s.vCmd a cmd idx = s.vQueue [s.vStagedCmd a cmd idx] := by
  simp [State.vCmd, h]

/-- One given before it has ended is refused with BUSY (R322). -/
theorem State.vCmd_busy {s : State} {a : Agent} (h : s.rd (VLT_STAT_STATE a) = 1) (cmd idx : Nat) (k : cmd ≠ 1) :
    s.vCmd a cmd idx = s.wr (VLT_STAT_CODE a) 13 := by
  simp [State.vCmd, h, k]

/-- A Hostlink transaction that its header and the mode admit (R231, R234). -/
theorem State.hlkDo_run {s : State} {h : HlkHdr} (live : s.hlkLive = true) (ok : h.ok = true)
    (mode : s.hlkPurge.sys.mode.hlkOp h.op.toNat = true) (f : State → State) : s.hlkDo h f = f s.hlkPurge := by
  simp [State.hlkDo, live, ok, mode]

theorem State.hlkDo_header {s : State} {h : HlkHdr} (live : s.hlkLive = true) (ok : h.ok = false) (f : State → State) :
    s.hlkDo h f = s.hlkPurge.hlkNo (some HLK_ERR_HDR) := by
  simp [State.hlkDo, live, ok]

theorem State.hlkDo_mode {s : State} {h : HlkHdr} (live : s.hlkLive = true) (ok : h.ok = true)
    (mode : s.hlkPurge.sys.mode.hlkOp h.op.toNat = false) (f : State → State) :
    s.hlkDo h f = s.hlkPurge.hlkNo (some HLK_ERR_MODE) := by
  simp [State.hlkDo, live, ok, mode]

end Sys2Proof.Machine
end

