-- ==== Sys2Proof/Tests/Slice0.lean ====
section
/-!
SUPPORT. Slice0.lean: tests. Ill-formed commands that the checks refuse; worked examples of the spec and published vectors of the
algorithms that it names; and for each statement states and operands that meet its hypotheses, clause by clause.
-/
namespace Sys2Proof.Tests

open Sys2Proof.Machine

-- One theorem at a time: together their checks take too much memory.
set_option Elab.async false

/-! ## States to test on -/

/-- A block that runs in a mode: a level 5 session, both cores running, time known. -/
def runs (m : Mode) : State := { (State.reset.wrs [(TICK_STAT_RUN, 1), (CEL_FLAGS_TIMEUNK, 0)]) with
  sys := { mode := m, prev := m, begun := true }
  si := { pll := true, life := if m = .fit then 1 else if m = .foundry then 0 else if m = .erased then 7 else 3 }
  con := { started := true, session := some { level := 5 } }
  cpu := Tab.const 2 { run := true }
  tick := { phase := .foreground } }

/-- A line with a tag and a check, and one without either. -/
def ln : Line := { tag := some 7, chk := true }
def bare : Line := { tag := none, chk := false }

/-! ## Ill-formed commands -/

theorem test_wf_accepts : ([.help ln, .appletVerb ln (txt ".GO"), .lineBaud ln 921600, .authLevel ln 5, .logTamper ln 64,
    .logAttic ln (some 15) 1, .countRing ln 8 256, .tickSet ln (some 250) (some 50), .timeAdj ln 86400000000000,
    .calK ln 0 1048575, .calRaw ln 64, .portFn ln 0 ⟨10, 0, 0, 0, 0, 0⟩, .storeSize ln 1024 1024 3072 3072 8, .keyShow ln 1,
    .keyStage ln ⟨1, 1, 1, 1, 0, 16⟩, .keyData ln 0 [1], .keyGen ln ⟨1, 1, 1, 1, 0, 16⟩, .keyRetire ln 1, .keyRevoke ln 1,
    .watchArm ln 0x40, .watchDisarm ln 0x57, .teleShow ln 32, .telePer ln 100, .imageBegin ln .uc 0x8000 none,
    .imageData ln 0 [1], .atrReceived 0 ⟨400, [0x3B]⟩, .writeQ 0x10 1 [7] 0 false] : List Instr).all Instr.wf = true := by decide +kernel

theorem test_wf_refuses : ([.appletVerb ln (txt "GO"), .appletVerb ln [0x2E, 0x07], .lineBaud ln 300, .authLevel ln 0,
    .logTamper ln 0, .logTamper ln 65, .logAttic ln (some 0) 1, .logAttic ln none 65, .countRing ln 8 15, .countRing ln 8 257,
    .tickSet ln (some 300) none, .tickSet ln none (some 51), .timeAdj ln 86400000000001, .timeAdj ln (-86400000000001),
    .calK ln 0 1599, .calK ln 0 1048576, .calRaw ln 65, .portFn ln 0 ⟨11, 0, 0, 0, 0, 0⟩, .storeSize ln 1024 1024 3072 3072 24,
    .storeSize ln 1024 1024 3072 3080 8, .storeSize ln 1028 1020 3072 3072 8, .keyShow ln 0xFFFFFFFF,
    .keyStage ln ⟨0xFFFFFFFF, 1, 1, 1, 0, 16⟩, .keyData ln 0 [], .keyGen ln ⟨0xFFFFFFFF, 1, 1, 1, 0, 16⟩,
    .keyRetire ln 0xFFFFFFFF, .keyRevoke ln 0xFFFFFFFF, .watchArm ln 0x3F, .watchDisarm ln 0, .teleShow ln 33, .telePer ln 99,
    .imageBegin ln .uc 0x8001 none, .imageData ln 0 [], .atrReceived 0 ⟨400, List.replicate 4093 0⟩,
    .writeQ 0x10 2 [7] 0 false] : List Instr).any Instr.wf = false := by decide +kernel

/-! ## Worked examples of the spec -/

/-- Table 4.3: the CRC after each byte of "INFO ". -/
theorem test_crc16 : ["I", "IN", "INF", "INFO", "INFO "].map (fun x => crc16 (txt x)) = [0x381D, 0x0351, 0x4961, 0x01C6, 0xF243] :=
  by decide +kernel

/-- The bare acknowledgement (chapter 4, worked example). -/
theorem test_crc16_ok : crc16 (txt "OK ") = 0x0854 := by decide +kernel

/-- INFO with its check is INFO; in lowercase the check does not hold. -/
theorem test_line_check : ((parseLine (txt "INFO *F243")).map (fun r => (r.verb == txt "INFO", r.check == some 0xF243)),
    (parseLine (txt "info *F243")).map (fun r => r.check == some (crc16 (checked (txt "info *F243"))))) =
    (some (true, true), some false) := by decide +kernel


/-- FIPS 197, appendix C: AES-128. -/
theorem test_aes : (aesEnc ((List.range 16).map (BitVec.ofNat 8)) ((List.range 16).map (fun i => BitVec.ofNat 8 (0x11 * i))) =
      beBytes 16 0x69C4E0D86A7B0430D8CDB78070B4C55A) ∧
    (aesDec ((List.range 16).map (BitVec.ofNat 8)) (beBytes 16 0x69C4E0D86A7B0430D8CDB78070B4C55A) =
      (List.range 16).map (fun i => BitVec.ofNat 8 (0x11 * i))) := by decide +kernel

/-- RFC 4493, the empty message. -/
theorem test_cmac : cmac (beBytes 16 0x2B7E151628AED2A6ABF7158809CF4F3C) [] = beBytes 16 0xBB1D6929E95937287FA37D129B756746 := by
  decide +kernel

/-- GCM test case 2 of its specification: the text and the tag. -/
theorem test_gcm : gcmText (List.replicate 16 0) (List.replicate 12 0) (List.replicate 16 0) =
      beBytes 16 0x0388DACE60B6A392F328C2B971B2FE78 ∧
    gcmTag (List.replicate 16 0) (List.replicate 12 0) [] (beBytes 16 0x0388DACE60B6A392F328C2B971B2FE78) =
      beBytes 16 0xAB6E47D42CEC13BDF53A67B21257BDDF := by decide +kernel

/-- FIPS 180: the hashes of "abc". -/
theorem test_sha256 : Hash.digest .sha256 (txt "abc") =
    beBytes 32 0xBA7816BF8F01CFEA414140DE5DAE2223B00361A396177A9CB410FF61F20015AD := by decide +kernel

theorem test_sha512 : Hash.digest .sha512 (txt "abc") =
    beBytes 64 (0xDDAF35A193617ABACC417349AE20413112E6FA4E89A97EA20A9EEEE64B55D39A * 2 ^ 256 +
      0x2192992A274FC1A836BA3C23A3FEEBBD454D4423643CE80E2A9AC94FA54CA49F) := by decide +kernel

theorem test_sha384 : Hash.digest .sha384 (txt "abc") =
    beBytes 48 (0xCB00753F45A35E8BB5A03D699AC65007272C32AB0EDED163 * 2 ^ 192 +
      0x1A8B605A43FF5BED8086072BA1E7CC2358BAECA134C825A7) := by decide +kernel

/-- The base points of all curves lie on them. -/
theorem test_curves : [p256, p384, p521, bp256, bp384, bp512].all (fun c => c.valid c.gx c.gy) = true := by decide +kernel

/-! ## The statements' hypotheses are met: the console

Each theorem names the statement whose hypotheses it meets. -/

/-- A state with an ACTIVE public key with ID 1 in entry 3. -/
def keyed (m : Mode) : State :=
  { runs m with vlt := { (runs m).vlt with ent := [(3, { keyid := 1, role := 3, type := 0x20, st := 1 })] } }

theorem witness_ReportsReply : (runs .fit).conReady = true ∧
    [Verb.help, .helpVerb .stat, .info, .modeShow, .echoShow, .lineShow, .stat, .statReset, .statRise, .logTamper 64, .logAttic none 1,
      .tickShow, .tickJobs, .timeShow, .count, .countCtr 0, .calShow, .portList, .portShow 23, .queueList, .queueShow 63, .storeShow,
      .keyList, .keyShow 1, .watchList, .watchSrc 0, .tele, .teleShow 32, .imageList, .lifeShow].all ((runs .fit).passes ln) = true ∧
    ((runs .fit).atLine.atticList none 1).all atticGood = true ∧ ((runs .fit).atLine.nv.ring.at 0).noValid = false ∧
    (keyed .fit).conReady = true ∧ (keyed .fit).passes ln (.keyShow 1) = true ∧ (keyed .fit).atLine.sys.mode ≠ .quarantine ∧
    (keyed .fit).atLine.keyHeads 1 ≠ [] ∧ (keyed .fit).atLine.keyPublic 1 = some 3 := by decide +kernel

theorem witness_ReportsFrame : (Instr.info ln).line? = some (ln, .info) ∧ (runs .service).conReady = true ∧
    (runs .service).passes ln .info = true ∧ Verb.info.isShow = true ∧ Verb.info ≠ .calShow := by decide +kernel

theorem witness_ReportsFrame_next : ∃ t, exec (.info ln) (runs .service) = .next t := ⟨_, rfl⟩

/-- No session. -/
def out (s : State) : State := { s with con := { s.con with session := none } }

theorem witness_RefusalsInOrder : ((runs .fit).setb CON_CFG_CHKREQ).conReady = true ∧
    ((runs .fit).setb CON_CFG_CHKREQ).atLine.chkMissing bare.chk = true ∧ (runs .service).atLine.chkMissing ln.chk = false ∧
    (runs .service).atLine.legal .unlock = false ∧ (runs .service).atLine.legal (.modeChange .service) = false ∧
    (out (runs .service)).atLine.legal .lifeErase = true ∧
    (out (runs .service)).atLine.level < (out (runs .service)).atLine.formLevel .lifeErase ∧
    (out (runs .service)).conReady = true := by decide +kernel

theorem witness_ProtectedFormHeld : (Instr.lifeErase bare).line? = some (bare, .lifeErase) ∧ Verb.lifeErase.name ≠ .confirm ∧
    (runs .service).conReady = true ∧ (runs .service).atLine.chkMissing bare.chk = false ∧
    (runs .service).atLine.legal .lifeErase = true ∧
    (runs .service).atLine.formLevel .lifeErase ≤ (runs .service).atLine.level ∧ (runs .service).atLine.argBad .lifeErase = none ∧
    (runs .service).atLine.formProt .lifeErase = true ∧ bare.chk = false ∧ (runs .service).atLine.rngBlocked = false := by
  decide +kernel

theorem witness_StateErrorCountsOnly : (runs .service).sys.mode.probes = false := by decide +kernel

/-- A challenge that waits for its answer. -/
def asked (s : State) (lv : Nat) : State := { s with con := { s.con with chal := some { level := lv, mode := s.sys.mode, bytes := 1 } } }

/-- A card present at a CARD port P0, and its answer of 10 bytes in the exchange registers. -/
def carded (s : State) : State :=
  (s.pset 0 (fun x => { x with fn := .card })).wrs [(PORT_STAT_PRES 0, 1), (PORT_CXSTAT_STATE 0, 2), (PORT_CXSTAT_RLEN 0, 10),
    (PORT_CXRSP 0 2, 0x90 * 1)]

def answering (s : State) : State :=
  { s with con := { s.con with busy := .card none 0 { level := 1, mode := s.sys.mode, bytes := 1 } } }

theorem witness_SessionFormsAct : [Verb.echoOn, .echoOff, .lineBaud 921600, .logout].all ((runs .fit).passes ln) = true ∧
    (runs .foundry).conReady = true ∧ (runs .foundry).passes ln (.authLevel 5) = true ∧ (runs .foundry).atLine.lockWait = 0 ∧
    (runs .foundry).atLine.rngBlocked = false ∧ (runs .foundry).atLine.holdoff = false ∧
    (asked (runs .foundry) 5).conReady = true ∧ (asked (runs .foundry) 5).passes ln (.authResp 0) = true ∧
    (asked (runs .foundry) 5).atLine.unitKey { level := 5, mode := .foundry, bytes := 1 } = true ∧
    (asked (runs .service) 1).passes ln (.authResp 0) = true ∧
    (asked (runs .service) 1).atLine.unitKey { level := 1, mode := .service, bytes := 1 } = false ∧
    (carded (asked (runs .service) 1)).conReady = true ∧ (carded (asked (runs .service) 1)).passes ln (.authCard 0) = true ∧
    (carded (asked (runs .service) 1)).atLine.pfn 0 = .card ∧ (carded (asked (runs .service) 1)).atLine.isSet (PORT_STAT_PRES 0) = true ∧
    (carded (runs .service)).shadow.any (fun w => w.fld == PORT_CXCTL_GO 0) = false ∧
    (carded (runs .service)).rd (PORT_CXSTAT_STATE 0) = 2 ∧ ((carded (runs .service)).cxResponse 0).length = 10 ∧
    ((carded (runs .service)).cxResponse 0).drop 8 = [0x90, 0x00] ∧
    (answering (carded (runs .service))).con.busy = .card none 0 { level := 1, mode := .service, bytes := 1 } := by decide +kernel

theorem witness_SessionFormsAct_answer : ∃ h, ({ level := 5, mode := .foundry, bytes := 1 } : Chal).answer
    (beBytes 32 Config.unitCred.toNat) = h ∧ (asked (runs .foundry) 5).passes ln (.authResp h) = true := ⟨_, rfl, by decide +kernel⟩

/-- A held line with its token. -/
def holding (s : State) (v : Verb) (t : BitVec 16) : State := { s with con := { s.con with held := some (.hw v, t) } }

theorem witness_ConfirmActs : (holding (runs .service) .lifeErase 0xFFFF).conReady = true ∧
    (holding (runs .service) .lifeErase 0xFFFF).lineStart.chkMissing ln.chk = false ∧
    (holding (runs .service) .lifeErase 0xFFFF).con.held = some (.hw .lifeErase, 0xFFFF) ∧ (0xFFFF : BitVec 16) ≠ 1 ∧
    (runs .service).con.held = none := by decide +kernel

/-- A CON that waits for its boundary. -/
def waiting (v : Verb) (st : CommitState) : State :=
  { runs .fit with con := { (runs .fit).con with busy := .commit (some 7) v st } }

/-- A port with a function. -/
def ported (s : State) (p : PortId) (fn : PortFn) : State := s.pset p (fun x => { x with fn := fn })

theorem witness_WaitingFormsAct : (runs .service).passes ln (.modeChange .doze) = true ∧
    (runs .service).atLine.sys.mode.goes .doze = some 1 ∧ (runs .service).atLine.sys.pend = none ∧
    (runs .service).atLine.holdDue = false ∧
    [Verb.countRing 8 16, .countRing 8 256, .tickSet (some 250) (some 2), .tickSet (some 10000) (some 50), .tickSet none (some 50),
      .portFn 0 ⟨1, 0, 0, 0, 0, 0⟩, .storeSize 1024 1024 3072 3072 8, .watchFloor 0 .log, .watchDisarm 0x57, .telePer 100,
      .telePer 65535].all ((runs .fit).passes ln) = true ∧
    (ported (runs .workshop) 0 .pulse).passes ln (.calK 0 1600) = true ∧ (ported (runs .workshop) 0 .pulse).atLine.pfn 0 = .pulse ∧
    ((ported (runs .workshop) 0 .pulse).atLine.isSet (PORT_FUNC_FIX 0) && !(ported (runs .workshop) 0 .pulse).atLine.rwsOpen) =
      false ∧
    (runs .workshop).passes ln (.watchSet 0x16 (some .lock) (some 1)) = true ∧
    (ported (runs .workshop) 0 .loop).passes ln (.watchArm 0x40) = true ∧
    (waiting (.telePer 100) .took).con.busy = .commit (some 7) (.telePer 100) .took ∧
    (waiting (.telePer 100) (.refused 12 [])).con.busy = .commit (some 7) (.telePer 100) (.refused 12 []) ∧
    (waiting .keyWrite .issued).vltRuns = false ∧ (waiting .keyWrite .issued).rd (VLT_STAT_CODE .con) = 0 := by decide +kernel

/-- A state with a staged entry of 16 bytes, `n` of them given. -/
def staged (s : State) (n : Nat) : State :=
  { s with con := { s.con with stage := some { args := ⟨1, 1, 1, 1, 0, 16⟩, data := List.replicate n 0x5A, lastOff := 0 } } }

theorem witness_KeyFormsAct : (keyed .fit).conReady = true ∧ (keyed .fit).atLine.sys.mode ≠ .quarantine ∧
    [Verb.keyStage ⟨1, 1, 1, 1, 0, 16⟩, .keyGen ⟨1, 1, 1, 1, 0, 16⟩, .keyRetire 1, .keyRevoke 1].all ((keyed .fit).passes ln) = true ∧
    (keyed .fit).atLine.keyHeads 1 ≠ [] ∧
    (staged (runs .fit) 15).passes ln (.keyData 15 [1]) = true ∧ (staged (runs .fit) 15).passes ln (.keyData 0 [1]) = true ∧
    (staged (runs .fit) 15).atLine.con.stage = (staged (runs .fit) 15).con.stage ∧ 15 + [(1 : Byte)].length ≤ 16 ∧
    (staged (runs .fit) 16).passes ln .keyWrite = true ∧ ((staged (runs .fit) 16).atLine.con.stage.map (fun k =>
      (k.data.length, k.args.len))) = some (16, 16) := by decide +kernel

theorem witness_KeysLockedInQuarantine : (runs .quarantine).conReady = true ∧ (runs .quarantine).sys.mode = .quarantine ∧
    [Verb.keyList, .keyShow 1].all ((runs .quarantine).passes ln) = true := by decide +kernel

/-- An image in loading: the size that IMAGE DATA completes. -/
def loading (s : State) : State := (s.loadBegin false .uc 1 none).2

theorem witness_ImmediateFormsAct : (runs .workshop).conReady = true ∧ (runs .workshop).atLine.timeUnk = false ∧
    (runs .workshop).atLine.ctr5Ok = true ∧ (runs .fit).atLine.ctr5Ok = true ∧
    [Verb.timeAdj (-5), .timeAdj 86400000000000, .timeSet 0 false, .timeSet 0 true, .calRun, .queueFlush 0, .imageBegin .uc 1 none,
      .imageAbort, .teleStreamOn, .teleStreamOff].all ((runs .workshop).passes ln) = true ∧
    (runs .service).passes ln (.timeAdj 5) = true ∧ (runs .service).atLine.adjBeyond 5 = false ∧
    (ported (runs .workshop) 0 .pps).conReady = true ∧ (ported (runs .workshop) 0 .pps).passes ln (.timeSet 0 true) = true ∧
    (ported (runs .workshop) 0 .pps).atLine.pfn 0 = .pps ∧
    (runs .workshop).tbs.calRuns = false ∧ (runs .foundry).passes ln (.calRaw 64) = true ∧
    ((ported (runs .fit) 0 .dual).pset 0 (fun x => { x with agree := 60000 })).passes ln (.portClear 0) = true ∧
    (((ported (runs .fit) 0 .dual).pset 0 (fun x => { x with agree := 60000 })).atLine.discClear 0).1 = true ∧
    (runs .fit).passes ln (.storeFind .c 0) = true ∧ ((runs .fit).atLine.strSearch .c 0).1.isBusy = false ∧
    ((runs .workshop).wr (QFX_RES 63) 1).passes ln .teleStreamOn = true ∧
    ((runs .workshop).wr (QFX_RES 63) 1).atLine.rd (QFX_RES 63) ≠ 0 ∧
    ((runs .workshop).atLine.loadBegin false .uc 1 none).1 = 0 ∧ (loading (runs .workshop)).conReady = true ∧ (loading (runs .workshop)).passes ln (.imageData 0 [1]) = true ∧
    ((loading (runs .workshop)).atLine.loadData false 0 [1]).1 = 0 ∧
    (loading (runs .workshop)).passes ln .imageAbort = true ∧
    ((loading (runs .workshop)).atLine.loadAbort false).1.isSome = true := by decide +kernel

/-- A point of P-256 as FW_SIGN key 1, which checks, in entry 3. -/
def trusting (s : State) : State :=
  let v := beBytes 32 0x6F372CA02D5BE9E0FE1FFF557DB07332904C211F732CD13B52AA7F851EF14DE ++
    beBytes 32 0xFFEFA9178FF48E2F53CF5F7E748A64C14F0D4915E49CA12152BFEC01E2BBAE96
  (s.vStoreNow { keyid := 1, role := 1, type := 0x20, use := 2, prio := 1, value := v, len := 64 } 3).2.2

/-- An APP image of version 1 without payload, with its signature under that key (worked out outside the model; s = r, so that its check is short). -/
def image : List Byte :=
  txt "WAIV" ++ [1, 2, 0, 0, 1, 0, 0, 0] ++ List.replicate 10 0 ++ [64, 0, 1, 0, 0, 0] ++ List.replicate 36 0 ++
    beBytes 32 p256.gx ++ beBytes 32 p256.gx

/-- That image loaded into the spare APP slot. -/
def loaded128 (s : State) : State :=
  ((((trusting s).loadBegin false .app 128 none).2.loadData false 0 (image.take 64)).2.loadData false 64 (image.drop 64)).2

theorem witness_ImageEnd : (loaded128 (runs .workshop)).conReady = true ∧ (loaded128 (runs .workshop)).passes ln .imageEnd = true :=
  by decide +kernel

theorem witness_ImageEnd_good : (fun r : Option (Nat × ImgLoad × Nat) × State => (r.1.map (fun x => (x.1, x.2.1.kind, x.2.2)),
    r.2.con.busy)) ((loaded128 (runs .workshop)).atLine.loadEnd false) = (some (0, .app, 1), .exec) := by decide +kernel

/-- FIT with the keys that LIFE SEAL asks for (R180), in HOLD no longer. -/
def ready (s : State) : State :=
  let l : List (Nat × VEntry) := [(0, { keyid := 9, role := 1, type := 0x20, st := 1 }), (1, { keyid := 1, role := 7, st := 1 }),
    (2, { keyid := 2, role := 7, st := 1 }), (3, { keyid := 3, role := 7, st := 1 })]
  { s with vlt := { s.vlt with ent := l } }

theorem witness_LifeFormsAct : (runs .foundry).conReady = true ∧ (runs .foundry).passes ln .lifeFit = true ∧
    (runs .foundry).atLine.fuseVcc = true ∧ (ready (runs .fit)).passes ln .lifeSeal = true ∧
    (ready (runs .fit)).atLine.fuseVcc = true ∧ (ready (runs .fit)).atLine.sealReady = true ∧
    (runs .service).passes ln .lifeErase = true ∧ (runs .service).atLine.fuseVcc = true ∧
    ((runs .service).atLine.nextBits (runs .service).atLine.stage.eraseBits).length ≠ 2 ∧
    [Verb.lifeRetire, .lifeRefit].all ((runs .erased).passes ln) = true ∧ (runs .erased).atLine.epoch ≠ 2 ∧
    (runs .quarantine).passes ln .unlock = true ∧ (runs .service).passes ln .reset = true ∧
    ({ State.reset with con := { State.reset.con with busy := .reset .warm .miandReset } } : State).con.busy =
      .reset .warm .miandReset ∧
    ({ State.reset with con := { State.reset.con with busy := .fuse none 3 }, si := { State.reset.si with vcc := 2900 } } :
      State).fuseVcc = true ∧ State.reset.si.stuck = 0 := by decide +kernel

/-! ## The statements' hypotheses are met: the Hatch, the tick, supplies and resets -/

/-- Slot `n` holds a message that its sender has written. -/
def mailed (s : State) (n : Fin 16) (st : SlotState) (kind : Byte) (dest : Agent) (pay : List Byte) : State :=
  s.slot n (fun x => { x with st := st, dest := dest, seq := 9, last := true, body := bodyOf kind dest 0 true 9 pay })

theorem witness_HatchCommandsAct : (runs .fit).agentUp .cpu0 = true ∧ hatchSender 8 = .cpu0 ∧
    (((runs .fit).asAgent .cpu0).hatch.at 8).st = .free ∧ (mailed (runs .fit) 8 .writing 2 .con [1]).agentUp .cpu0 = true ∧
    (((mailed (runs .fit) 8 .writing 2 .con [1]).asAgent .cpu0).hatch.at 8).st = .writing ∧
    (((mailed (runs .fit) 8 .writing 2 .con [1]).asAgent .cpu0).hatch.at 8).ok = true ∧
    (((runs .fit).slot 8 (fun x => { x with st := .writing })).asAgent .cpu0 |>.hatch.at 8).ok = false ∧
    ((mailed (runs .fit) 8 .writing 2 .con [1]).asAgent .cpu0).inReset
      (Agent.ofCode (bits (((mailed (runs .fit) 8 .writing 2 .con [1]).asAgent .cpu0).hatch.at 8).route 0 2)) = false ∧
    (((mailed (runs .fit) 0 .posted 1 .cpu0 [1]).asAgent .cpu0).hatch.at 0).dest = .cpu0 ∧
    (((mailed (runs .fit) 0 .posted 1 .cpu0 [1]).asAgent .cpu0).hatch.at 0).st = .posted ∧
    (((mailed (runs .fit) 15 .taken 1 .cpu0 [1]).asAgent .cpu0).hatch.at 15).dest = .cpu0 ∧
    (((mailed (runs .fit) 15 .taken 1 .cpu0 [1]).asAgent .cpu0).hatch.at 15).st = .taken := by decide +kernel

theorem witness_HatchBodyAccess : (runs .fit).agentUp .cpu0 = true ∧ hatchSender 11 = CpuId.agent 0 ∧ Agent.cpu0 = CpuId.agent 0 ∧
    (((mailed (runs .fit) 11 .writing 2 .con [1]).asAgent .cpu0).hatch.at 11).st = .writing ∧
    (((mailed (runs .fit) 11 .posted 2 .con [1]).asAgent .cpu0).hatch.at 11).st ≠ .writing ∧
    (((mailed (runs .fit) 0 .taken 1 .cpu0 [1]).asAgent .cpu0).hatch.at 0).dest = CpuId.agent 0 ∧
    (((mailed (runs .fit) 0 .taken 1 .cpu0 [1]).asAgent .cpu0).hatch.at 0).st = .taken ∧
    ¬((((runs .fit).asAgent .cpu0).hatch.at 15).dest = CpuId.agent 0 ∧ (((runs .fit).asAgent .cpu0).hatch.at 15).st = .taken) ∧
    (runs .fit).agentUp .con = true ∧ Agent.con.cpu = none ∧
    (((mailed (runs .fit) 8 .taken 2 .con [1]).asAgent .con).hatch.at 8).dest = .con ∧
    (((mailed (runs .fit) 8 .taken 2 .con [1]).asAgent .con).hatch.at 8).st = .taken ∧
    (((runs .fit).asAgent .con).hatch.at 8).st ≠ .taken := by decide +kernel

/-- CON waits for the reply of CPU0. -/
def awaiting (s : State) : State := { s with con := { s.con with busy := .applet (some 7) 0 9 } }

/-- A slot whose body no longer matches its trailer. -/
def spoiled (s : State) (n : Fin 16) : State := s.slot n (fun x => { x with body := x.body.put 14 (x.body.at 14 + 1) })

/-- A rule for the name ".GO" in region C: every mode, level 0, CPU0. -/
def ruled (s : State) : State := (s.strInsert ⟨.con 0 1, ruleNew (txt ".GO") 0x05000FFF, false, false⟩ false).2

/-- A VERB_REG of CPU0 for that name. -/
def registering (s : State) : State := mailed s 12 .posted 3 .con (0 :: (pad16 (txt ".GO") ++ [(0xF8 : Byte), 0, 0, 0, 0]))

theorem witness_AppletMessagesAct : (mailed (awaiting (runs .fit)) 8 .posted 2 .con [0]).conMessage 8 2 = some 0 ∧
    (mailed (awaiting (runs .fit)) 8 .posted 2 .con [0]).msgBad 8 = false ∧
    ((mailed (awaiting (runs .fit)) 8 .posted 2 .con [0]).msgDone 8).con.busy = .applet (some 7) 0 9 ∧
    ((mailed (awaiting (runs .fit)) 8 .posted 2 .con [0]).hatch.at 8).seq = 9 ∧
    (mailed (awaiting (runs .fit)) 8 .posted 2 .con [0]).msgSound 8 = true ∧
    (spoiled (mailed (awaiting (runs .fit)) 8 .posted 2 .con [0]) 8).conMessage 8 2 = some 0 ∧
    (spoiled (mailed (awaiting (runs .fit)) 8 .posted 2 .con [0]) 8).msgBad 8 = false ∧
    ((spoiled (mailed (awaiting (runs .fit)) 8 .posted 2 .con [0]) 8).msgDone 8).con.busy = .applet (some 7) 0 9 ∧
    (spoiled (mailed (awaiting (runs .fit)) 8 .posted 2 .con [0]) 8).msgSound 8 = false ∧
    (mailed (runs .service) 8 .posted 5 .con [7]).conMessage 8 5 = some 0 ∧
    (mailed (runs .service) 8 .posted 5 .con [7]).msgBad 8 = false ∧
    (mailed (runs .service) 8 .posted 5 .con [7]).msgPayload 8 = [7] ∧
    ((mailed (runs .service) 8 .posted 5 .con [7]).msgDone 8).sys.mode = .service ∧
    ((mailed (runs .service) 8 .posted 5 .con [7]).msgDone 8).sys.pend = none ∧
    ((mailed (runs .service) 8 .posted 5 .con [7]).msgDone 8).holdDue = false := by decide +kernel

theorem witness_AppletMessagesAct_reg : (registering (runs .fit)).conMessage 12 3 = some 1 ∧
    (registering (runs .fit)).msgBad 12 = false ∧ ((registering (runs .fit)).msgDone 12).sys.mode.running = true ∧
    ((registering (runs .fit)).msgDone 12).sys.stopped = false ∧ ((registering (runs .fit)).msgDone 12).str.wait = [] ∧
    (registering (runs .fit)).msgPayload 12 = 0 :: (pad16 (txt ".GO") ++ [(0xF8 : Byte), 0, 0, 0, 0]) ∧
    appletName (txt ".GO") = some (txt ".GO") ∧ ((registering (runs .fit)).msgDone 12).ruleEntry (txt ".GO") = none ∧
    (match (((registering (runs .fit)).msgDone 12).strInsert ⟨.con 1 9, ruleNew (txt ".GO") (BitVec.ofNat 32 (0xF8 + 0x10000)),
      false, false⟩ false).1 with | .done _ => true | _ => false) = true := by decide +kernel

theorem witness_AppletMessagesAct_line : (ruled (runs .fit)).conReady = true ∧ textOk (txt ".GO") = true ∧
    (ruled (runs .fit)).atLine.chkMissing bare.chk = false ∧ (ruled (runs .fit)).atLine.sys.mode.running = true ∧
    (parseLine (txt ".GO")).map (fun r => (r.verb, r.tag, r.check.isNone, r.dup)) = some (txt ".GO", none, true, false) ∧
    ((ruled (runs .fit)).atLine.ruleOf (txt ".GO")).1.isBusy = false ∧ ((ruled (runs .fit)).atLine.ruleOf (txt ".GO")).1.none = false ∧
    ((ruled (runs .fit)).atLine.ruleOf (txt ".GO")).1.deny = false ∧
    ((ruled (runs .fit)).atLine.ruleOf (txt ".GO")).1.result = 0x05000FFF ∧
    bitAt (ruleModes 0x05000FFF) Mode.fit.code = true ∧ ruleLevel 0x05000FFF = 0 ∧ ruleProt 0x05000FFF = false ∧
    ((ruled (runs .fit)).cpu.at (ruleCore 0x05000FFF)).run = true ∧ (awaiting (runs .fit)).con.busy = .applet (some 7) 0 9 ∧
    (awaiting (runs .fit)).requestTaken 0 9 = false ∧
    (mailed (awaiting (runs .fit)) 0 .taken 1 .cpu0 [1]).requestTaken 0 9 = true := by decide +kernel

/-- A quiet tick edge with VCC at a level. -/
def quiet (vcc : BitVec 16) : TickEnv := { tj := 89, vcc := vcc, vbat := 3000, pins := [] }

/-- The states of a boundary that BoundaryActs names: before the commits, after them, after the mode step. -/
def edge (s : State) (e : TickEnv) : State × State × State :=
  let f := s.frameClose
  let w := (((f.advance f.period true).coreTicks f.period).readEnv e).pulsesEnd
  let m := w.commitAll.relockStep
  (w, m, m.modeStep)

/-- HOLD entered from SERVICE, its cause gone. -/
def inHold : State := { runs .hold with sys := { (runs .hold).sys with prev := .service } }

theorem witness_BoundaryActs : (runs .fit).isSet TICK_STAT_RUN = true ∧ (runs .fit).mainUp = true ∧
    (edge (runs .fit) (quiet 2699)).2.1.holdDue = true ∧ (edge (runs .fit) (quiet 2700)).2.1.holdDue = false ∧
    (edge (runs .fit) (quiet 2700)).2.1.sys.mode ≠ .hold ∧ (edge (runs .fit) (quiet 2700)).2.1.sys.pend = none ∧
    (edge { runs .service with sys := { (runs .service).sys with pend := some { dest := .doze, cause := 0 } } } (quiet 2700)).2.1.sys.pend =
      some { dest := .doze, cause := 0 } ∧
    inHold.isSet TICK_STAT_RUN = true ∧ inHold.mainUp = true ∧ (edge inHold (quiet 2750)).2.1.sys.mode = .hold ∧
    (edge inHold (quiet 2750)).2.1.sys.holdVcc = false ∧ (edge inHold (quiet 2750)).2.1.sys.holdSrc = [] ∧
    inHold.sys.mode = .hold ∧ 2750 ≤ (quiet 2750).vcc.toNat := by decide +kernel

theorem witness_BoundaryActs_write : (fun w : State => (w.shadow, w.con.busy, w.tick.cfg, w.sys.relock))
      (edge ((runs .fit).waitPut .con TELE_CFG_PER 65535) (quiet 3300)).1 = ([⟨.con, TELE_CFG_PER, 65535⟩], .idle, none, false) ∧
    waitOf TELE_CFG_PER = .plain ∧ TELE_CFG_PER ≠ VLT_WIN .con ∧ TELE_CFG_PER ≠ VLT_CMD_CMD .con ∧ TELE_CFG_PER.width ≤ 32 ∧
    TELE_CFG_PER.key ≠ PKE_STAT_SHELFPEND.key := by decide +kernel

/-- A job's instance. -/
def withJob (s : State) (j : JobId) (i : JobInst) : State := s.setInst j (some i)

/-- An instance that its owner works on. -/
def going (o : JobOwner) (n : Nat) : JobInst := { owner := o, arg := 1, edges := n, started := true }

theorem witness_FramesAndJobsAct : ({ runs .fit with tick := { (runs .fit).tick with phase := .harvest } } : State).isSet TICK_STAT_RUN =
      true ∧ (runs .fit).tick.phase ≠ .harvest ∧ ((runs .fit).wr TICK_CFG_RAEN 1).isSet TICK_CFG_RAEN = true ∧
    (runs .fit).coreRuns 1 = true ∧
    ((withJob (runs .fit) 63 (going (.cpu 0) 2)).strongIssue 0).delivered 0 = some 63 ∧
    (((withJob (runs .fit) 63 (going (.cpu 0) 2)).strongIssue 0).tick.inst.at 63) = some (going (.cpu 0) 2) ∧
    ((withJob (runs .fit) 63 { going (.cpu 0) 2 with aborted := true }).strongIssue 0).delivered 0 = some 63 ∧
    ((runs .fit).strongIssue 0).delivered 0 ≠ some 63 ∧
    (withJob (runs .fit) 0 (going (.cpu 1) 1)).tick.phase ≠ .harvest ∧
    (withJob (runs .fit) 0 (going (.cpu 1) 1)).tick.inst.at 0 = some (going (.cpu 1) 1) ∧
    (withJob (runs .fit) 0 (going .arc 1)).tick.inst.at 0 = some (going .arc 1) ∧
    (withJob (runs .fit) 0 (going .arc 0)).tick.inst.at 0 = some (going .arc 0) ∧ JobOwner.arc ≠ .str ∧
    ({ runs .fit with tick := { (runs .fit).tick with raOwners := [0] } } : State).tick.raOwners.contains 0 = true ∧
    ({ runs .fit with sys := { (runs .fit).sys with stopped := true } } : State).sys.stopped = true ∧
    ((runs .fit).watch.src.at 8).trip = false ∧ (runs .fit).sys.mode ≠ .rise := by decide +kernel

/-- Two jobs of the Archive: 6 works, 5 waits. -/
def twoJobs : State := withJob (withJob (runs .fit) 6 (going .arc 2)) 5 { going .arc 2 with started := false }

theorem witness_EnginePointsAct : (withJob (runs .fit) 6 { going .arc 2 with spent := true }).vlt.waiting = [] ∧
    (withJob (runs .fit) 6 { going .arc 2 with spent := true }).tick.inst.at 6 = some { going .arc 2 with spent := true } ∧
    twoJobs.tick.phase = .foreground ∧ twoJobs.jobOn .arc = some 6 ∧ twoJobs.jobWaits .arc = some 5 ∧
    twoJobs.tick.inst.at 6 = some (going .arc 2) ∧ twoJobs.tick.inst.at 5 = some { going .arc 2 with started := false } ∧
    ((finList 64).all (fun d => match twoJobs.tick.inst.at d with
      | some y => !y.spent && (d == 6 || y.owner != .arc || !y.started || y.parked || y.aborted) | none => true)) = true ∧
    (withJob (runs .fit) 5 (going .str 2)).jobsTake.jobOn .str = some 5 ∧
    (withJob (runs .fit) 5 (going .str 2)).jobsTake.tick.inst.at 5 = some (going .str 2) ∧
    (withJob (runs .fit) 5 (going .str 2)).jobsTake.sys.stopped = false ∧
    (withJob (runs .fit) 6 (going .arc 2)).jobsTake.jobOn .arc = some 6 ∧
    (withJob (runs .fit) 6 (going .arc 2)).jobsTake.holdoff = false ∧
    (withJob (runs .fit) 6 (going .arc 2)).jobsTake.slotBusy = false ∧
    (withJob (runs .fit) 7 (going .pke 2)).jobsTake.pkeOf (.job 7) = none ∧
    (withJob (runs .fit) 7 (going .sym 2)).jobsTake.symOf (.job 7) = none ∧
    (withJob (runs .fit) 7 (going .sym 2)).jobsTake.tick.inst.at 7 = some (going .sym 2) := by decide +kernel

theorem witness_SuppliesAct : (runs .cellar).sys.mode = .cellar ∧ (runs .cellar).cel.valid = true ∧
    ({ runs .cellar with cel := { (runs .cellar).cel with valid := false } } : State).cel.valid = false ∧
    (2700 : BitVec 16).toNat = 2700 ∧ (runs .fit).sys.mode ≠ .cellar ∧ (2699 : BitVec 16).toNat < 2700 ∧
    (2449 : BitVec 16).toNat < 2450 ∧ (runs .fit).bank.at 0 = .idle ∧ (runs .fit).bank.at 1 = .idle ∧
    (2599 : BitVec 16).toNat < 2600 ∧ 2650 < (2651 : BitVec 16).toNat ∧ (1899 : BitVec 16).toNat < 1900 ∧
    1900 ≤ (1900 : BitVec 16).toNat ∧ 1500 ≤ (1500 : BitVec 16).toNat ∧
    ({ runs .cellar with si := { (runs .cellar).si with cellarOnVcc := false } } : State).si.cellarOnVcc = false := by decide +kernel

/-- RST_N held low. -/
def heldLow (s : State) : State := { s with sys := { s.sys with held := true } }

/-- RISE before its step 4. -/
def atStep3 : State := (runs .rise).wr SYS_RISE_STEP 3

theorem witness_ResetPinAndRiseAct : (runs .fit).sys.held = false ∧ 1500 ≤ (runs .fit).si.vio ∧ (runs .fit).sys.mode ≠ .cellar ∧
    (heldLow (runs .fit)).sys.held = true ∧ 1500 ≤ (heldLow (runs .fit)).si.vio ∧
    (heldLow (runs .fit)).cel.valid = true ∧ (heldLow (runs .fit)).isSet CEL_RSTHOLD_ACTIVE = false ∧
    ((heldLow (runs .fit)).wr CEL_RSTHOLD_ACTIVE 1).isSet CEL_RSTHOLD_ACTIVE = true ∧
    ((heldLow (runs .fit)).wr CEL_RSTHOLD_ACTIVE 1).isSet CEL_RSTHOLD_STUCK = false ∧ State.reset.sys.mode = .rise ∧
    State.reset.sys.held = false ∧ State.reset.sys.begun = false ∧ atStep3.sys.mode = .rise ∧ atStep3.sys.begun = true ∧
    atStep3.rd SYS_RISE_STEP = 3 ∧ (atStep3.wr LDR_STAT_HOLDOFF 1).rd SYS_RISE_STEP = 3 ∧
    (atStep3.wr LDR_STAT_HOLDOFF 1).holdoff = true ∧
    ((runs .erased).wr SYS_RISE_FUSEPEND 1).isSet SYS_RISE_FUSEPEND = true ∧ ((runs .erased).wr SYS_RISE_FUSEPEND 1).fuseVcc = true ∧
    ((runs .erased).wr SYS_RISE_FUSEPEND 1).si.stuck = 0 ∧
    ((runs .erased).wr SYS_RISE_FUSEPEND 1).sys.fuseGaveUp = false := by decide +kernel

theorem witness_ResetLeaves : (runs .fit).bank.at 0 = .idle ∧ (runs .fit).bank.at 1 = .idle ∧ (runs .fit).sys.mode ≠ .rise ∧
    TICK_CFG_BGF.dflt < 2 ^ 32 ∧ (∀ g ∈ keepFields, TICK_CFG_BGF.key ≠ g.key) ∧ TICK_CFG_BGF.key ≠ SYS_RSTCAUSE_KIND.key ∧
    TICK_CFG_BGF.key ≠ SYS_RSTCAUSE_WHY.key ∧ TICK_CFG_BGF.key ≠ SYS_RSTCAUSE_SRC.key ∧ CEL_FLAGS_LOCKED ∈ keepFields := by
  decide +kernel

/-- A source that is tripped, or whose disagreement is reported. -/
def srcWith (s : State) (n : SrcId) (trip dis : Bool) : State :=
  { s with watch := { s.watch with src := s.watch.src.upd n (fun w => { w with trip := trip, disDone := dis }) } }

theorem witness_WatchSourcesAct : (runs .fit).cellarWatch = false ∧ srcSampled 0x16 = true ∧
    ((runs .fit).watch.src.at 0x16).trip = false ∧ (runs .fit).cel.tripped.contains 0x16 = false ∧
    (runs .fit).filtOf 0x16 ≤ (runs .fit).filtOf 0x16 ∧ 0 < (runs .fit).filtOf 0x16 ∧
    (srcWith (runs .fit) 0x16 true false).cellarWatch = false ∧ ((srcWith (runs .fit) 0x16 true false).watch.src.at 0x16).trip = true ∧
    ((srcWith (runs .fit) 0x16 false true).watch.src.at 0x16).disDone = true ∧ 0 < (srcWith (runs .fit) 0x16 false true).filtOf 0x16 ∧
    ((runs .fit).watch.src.at 0x16).disDone = false := by decide +kernel

theorem witness_WatchSamplingActs : (runs .service).stimRuns = true ∧
    ({ runs .service with watch := { (runs .service).watch with stim := some 13 } } : State).stimRuns = true ∧
    ({ runs .service with watch := { (runs .service).watch with stim := some 12 } } : State).stimRuns = true ∧
    (runs .cellar).cellarWatch = true ∧ (runs .cellar).cel.valid = true ∧
    ((finList 0x58).all (fun n => !((runs .cellar).cel.src.at n).trip)) = true := by decide +kernel

/-- A state in LOCKED, HOLDOVER ... of the timebase. -/
def tbsAt (s : State) (n : Nat) : State := s.wr TBS_STAT_STATE n

/-- UTC seconds and a leap announced for a day. -/
def announced (s : State) (dir day : Nat) : State := s.wrs [(TBS_LEAPCTL_DIR, dir), (TBS_LEAP_DAY, day)]

theorem witness_TimeEventsAct : (tbsAt (runs .fit) 2).rd TBS_STAT_STATE = 2 ∧ (tbsAt (runs .fit) 2).timeUnk = false ∧
    dayNs ≤ ({ tbsAt (runs .fit) 2 with tbs := { (runs .fit).tbs with lockNs := dayNs } } : State).tbs.lockNs ∧
    (runs .fit).tbs.lockNs < dayNs ∧
    ((8 : BitVec 16).toInt - (tbsAt (runs .fit) 2).age) % 8 = 0 ∧ (tbsAt (runs .fit) 3).rd TBS_STAT_STATE = 3 ∧
    ({ runs .fit with tbs := { (runs .fit).tbs with adjEnd := some 1 } } : State).adjOpen = true ∧
    ({ runs .fit with tbs := { (runs .fit).tbs with adjEnd := some 1 } } : State).tbs.exhausted = false ∧
    (tbsAt (runs .fit) 2).disciplining = true ∧ (runs .fit).coreRuns 0 = true ∧ (runs .fit).mainUp = true ∧
    (runs .fit).con.busy = .idle ∧
    ({ runs .fit with con := { (runs .fit).con with busy := .cal none } } : State).con.busy = .cal none := by decide +kernel

theorem witness_TimeEventsAct_leap : (announced (runs .fit) 1 (runs .fit).utcS.toNat).rd TBS_LEAPCTL_DIR = 1 ∧
    (announced (runs .fit) 1 (runs .fit).utcS.toNat).mainUp = true ∧
    (runs .fit).utcS.toNat ≤ (announced (runs .fit) 1 (runs .fit).utcS.toNat).rd TBS_LEAP_DAY ∧
    (announced (runs .fit) 1 (runs .fit).utcS.toNat).secondNear
      ((announced (runs .fit) 1 (runs .fit).utcS.toNat).rd TBS_LEAP_DAY) = true ∧
    (announced (runs .fit) 2 ((runs .fit).utcS.toNat + 1)).rd TBS_LEAPCTL_DIR = 2 ∧
    (runs .fit).utcS.toNat < (announced (runs .fit) 2 ((runs .fit).utcS.toNat + 1)).rd TBS_LEAP_DAY ∧
    (announced (runs .fit) 2 ((runs .fit).utcS.toNat + 1)).secondNear
      ((announced (runs .fit) 2 ((runs .fit).utcS.toNat + 1)).rd TBS_LEAP_DAY - 1) = true ∧
    ({ announced (runs .fit) 1 0 with tbs := { (runs .fit).tbs with off := 1000000000 } } : State).rd TBS_LEAP_DAY <
      ({ announced (runs .fit) 1 0 with tbs := { (runs .fit).tbs with off := 1000000000 } } : State).utcS.toNat ∧
    (runs .cellar).mainUp = false := by decide +kernel

/-- The RTC at a whole second, and a leap that the Cellar holds. -/
def rtcLeap (sec dir : Nat) (day : Word) : State :=
  { runs .cellar with cel := { (runs .cellar).cel with rtc := 1048576 * sec, leapDir := BitVec.ofNat 2 dir, leapDay := day } }

theorem witness_TimeEventsAct_rtc : (rtcLeap 9 1 10).cel.leapDir = 1 ∧
    (rtcLeap 9 1 10).cel.leapDay.toNat ≤ (rtcLeap 9 1 10).cel.rtc / 1048576 + 1 ∧
    (rtcLeap 9 1 10).cel.rtc / 1048576 ≤ (rtcLeap 9 1 10).cel.leapDay.toNat ∧ (rtcLeap 8 2 10).cel.leapDir = 2 ∧
    (rtcLeap 8 2 10).cel.leapDay.toNat ≤ (rtcLeap 8 2 10).cel.rtc / 1048576 + 2 ∧
    (rtcLeap 8 2 10).cel.rtc / 1048576 < (rtcLeap 8 2 10).cel.leapDay.toNat := by decide +kernel

/-- A sector waits for its refresh, or a record for the Attic. -/
def caring (s : State) (x : Nat) : State :=
  { s with care := { s.care with refresh := [x], buf := [⟨2, false, false, false, 5, 0, []⟩] } }

theorem witness_CaretakerActs : (runs .fit).scrubs = true ∧ (runs .fit).sys.mode.running = true ∧
    refreshRegion 0x0D4 = 0 ∧ refreshRegion 0x200 = 1 ∧ refreshRegion 0x0D2 = 2 ∧ 3 ≤ refreshRegion 0x0CF ∧
    (caring (runs .fit) 0x0D4).care.refresh = [0x0D4] ∧ (runs .fit).holdoff = false ∧ (runs .fit).sSources = [] ∧
    (((runs .fit).arcPut 0x30 [1]).nextUnit 0x40000 0x20).isSome = true ∧ (((runs .fit).arcPut 0x30 [1]).scrubs) = true ∧
    (runs .fit).bank.at 0 = .idle ∧ (runs .fit).atticClean 0 = true ∧
    ((caring (runs .fit) 0).care.buf.map (fun r => decide (r.typ ≠ 1))) = [true] ∧
    ((runs .fit).arcPut (atticBase + 32) [1]).atticClean 0 = false ∧
    ((runs .fit).rd ATTIC_HEAD) % 0x1000 = 0 ∧ ((runs .fit).rd ATTIC_HEAD + 32) % 0x1000 ≠ 0 ∧
    (runs .fit).isSet TICK_STAT_RUN = true ∧ (runs .fit).tick.phase ≠ .harvest ∧ (runs .fit).mainUp = true := by decide +kernel

/-- The frame's work of the Caretaker is owed, in a mode. -/
def owing (m : Mode) (due : Bool) : State :=
  { runs m with care := { (runs m).care with owing := true, teleDue := due }, tick := { (runs m).tick with closed := true } }

theorem witness_CaretakerActs_slack : [(Mode.fit, false), (.hold, true), (.hold, false)].all (fun m =>
      let s := owing m.1 m.2
      let u := (s.setPhase .slack s.tick.closed).pkeStates.symStates
      (s.tick.closed || s.noneOutstanding) && s.isSet TICK_STAT_RUN && s.scrubs && u.care.owing && u.care.teleDue == m.2) = true ∧
    ((runs .fit).setPhase .slack true).pkeStates.symStates.care.owing = false ∧
    (fun s : State => (s.scrubs, ((s.setPhase .slack s.tick.closed).pkeStates.symStates).strCmpRuns, s.sys.mode.careFull))
      { owing .erased false with sys := { (owing .erased false).sys with stopped := true } } = (true, false, false) := by
  decide +kernel

theorem witness_ConsoleBytesAct : (runs .fit).listening = true ∧ (runs .fit).conBlocked = false ∧ (runs .fit).con.fifo = [] ∧
    (runs .fit).con.ovf = false ∧ printable 0x7E = true ∧ (runs .fit).con.line.length < 240 ∧
    240 ≤ ({ runs .fit with con := { (runs .fit).con with line := List.replicate 240 0x41 } } : State).con.line.length ∧
    (runs .fit).appletWaits = false ∧ (runs .fit).conReady = true ∧ (awaiting (runs .fit)).appletWaits = true ∧
    (awaiting (runs .fit)).appletGiveUp.conReady = true ∧ (awaiting (runs .fit)).appletGiveUp.con.fifo = [] ∧
    (awaiting (runs .fit)).appletGiveUp.con.ovf = false ∧ (runs .fit).con.busy = .idle ∧
    (runs .fit).con.session = some { level := 5 } ∧ ((asked (runs .fit) 1).con.chal).isSome = true ∧
    (holding (runs .fit) .lifeErase 1).con.held = some (.hw .lifeErase, 1) ∧ ((loading (runs .workshop)).load).isSome = true ∧
    ({ runs .fit with con := { (runs .fit).con with revert := some 7 } } : State).con.revert = some 7 ∧
    ({ runs .fit with con := { (runs .fit).con with busy := .pps none } } : State).con.busy = .pps none := by decide +kernel

/-! ## The statements' hypotheses are met: registers, ports, Hostlink, queues, the relay and the cores -/

/-- A whole packet of a payload in queue `q`, alone, in crate 5. -/
def queued (s : State) (q : QueueId) (pay : List Byte) : State :=
  let l := pktOf (pktHeader pay.length 0 (s.rd (QFX_SRC_ID q)) 0) pay
  let t := s.qset q (fun x => { x with chain := [5], wr := l.length, pw := l.length, ends := [l.length] })
  l.zipIdx.foldl (fun u p => u.putW ((t.qfx.at q).wordAddr p.2) p.1) t

/-- A register of one field that commands nothing, as RegistersAct takes it. -/
def plainAt (off : Nat) (acc : Access) (foreign : Bool) : Bool :=
  match seenFields .cpu0 off with
  | [f] => f.acc == acc && f.off == off && off % 4 == 0 && deviceListed off && (((runs .fit).strongIssue 0).coreCommand 0 off 1).isNone &&
    foreignWrite .cpu0 off == foreign && decide (((runs .fit).strongIssue 0).grant f (bits 1 f.lo f.width) = .ok) &&
    f != TICK_CFG_PER && f != PKE_SHELFCFG_LEN
  | _ => false

theorem witness_RegistersAct_fields : plainAt 0x5008 .rw false = true ∧ plainAt 0xD010 .rw false = true ∧
    plainAt 0x1108 .rwt false = true ∧ plainAt 0x4800 .w1c false = true ∧ plainAt 0xC008 .w1c false = true ∧
    plainAt 0x1008 .ro false = true ∧ plainAt 0x1024 .rc false = true ∧ plainAt 0xD024 .ro true = true ∧
    plainAt 0x1220C .rc true = true := by decide +kernel

theorem witness_RegistersAct : (runs .fit).agentUp .cpu0 = true ∧ deviceListed 0x1000 = true ∧
    (Agent.cpu0.cpu.bind (fun k => ((runs .fit).asAgent .cpu0).coreCommand k 0x1000 0)).isNone = true ∧ (runs .fit).coreRuns 0 = true ∧
    ((runs .fit).cpu.at 0).user = false ∧ (((runs .fit).coreWake 0).csrRead 0 0x340).isSome = true ∧
    (((runs .fit).coreWake 0).csrRead 0 0xB02).isSome = true ∧ (((runs .fit).coreWake 0).csrRead 0 0xB82).isSome = true ∧
    ((runs .fit).coreWake 0).csrRead 0 0x180 = none ∧ 0xC00 ≤ (0xC00 : BitVec 12).toNat ∧
    ((runs .fit).cpu.at 0).run = true ∧ (runs .fit).sys.mode ≠ .hold ∧
    (((runs .fit).wr (CPU_WDCNT 0) 0xFFFF).cpu.at 0).wdPer ≤ ((runs .fit).wr (CPU_WDCNT 0) 0xFFFF).rd (CPU_WDCNT 0) ∧
    (((runs .fit).coreWake 0).csrRead 0 0x7C5).isSome = true ∧ (0x5A : Word).toNat % 256 = 0x5A := by decide +kernel

theorem witness_CaretakerActs_stream : (queued (runs .fit) 55 [1]).mainUp = true ∧ (queued (runs .fit) 55 [1]).hasHead 55 = true ∧
    (((queued (runs .fit) 55 [1]).wr TELE_CFG_HOSTCTL 1).headRelease 55).isSet TELE_CFG_HOSTCTL = true ∧
    ((queued (runs .fit) 55 [1]).headPacket 55).2 = [1] ∧ ((queued (runs .fit) 55 [2]).headPacket 55).2 = [2] ∧
    ((queued (runs .fit) 55 [9]).headPacket 55).2 = [9] := by decide +kernel

theorem witness_PortPacketsAct : (ported (runs .fit) 23 .gpio).pfn 23 = .gpio ∧ (ported (runs .fit) 23 .uart).pfn 23 = .uart ∧
    orElse0 ((ported (runs .fit) 23 .gpio).rd (PORT_CFG_FILT 23)) 1 = 1 ∧
    orElse0 (((ported (runs .fit) 23 .gpio).wr (PORT_CFG_FILT 23) 4095).rd (PORT_CFG_FILT 23)) 1 = 4095 ∧
    ((queued (ported (runs .fit) 23 .uart) 47 [1]).txTake 23).isSome = true ∧ ((ported (runs .fit) 23 .uart).port.at 23).rxWait = [] ∧
    (ported (runs .fit) 23 .uart).uartErr 23 0x41 false 3 = false ∧ (ported (runs .fit) 23 .uart).uartErr 23 0x41 false 0 = true ∧
    ((ported (runs .fit) 23 .uart).pset 23 (fun x => { x with rx := List.replicate 250 (capt 0) }) |>.port.at 23).rx.length < 251 ∧
    ((ported (runs .fit) 23 .uart).pset 23 (fun x => { x with rx := List.replicate 251 (capt 0) }) |>.port.at 23).rx.length = 251 ∧
    (ported (runs .fit) 23 .uart).uartGap 23 ≤ (0xFFFF : BitVec 16).toNat ∧
    (queued (ported (runs .fit) 23 .spic) 47 [1]).pfn 23 = .spic ∧
    ((queued (ported (runs .fit) 23 .spic) 47 [1]).port.at 23).rxWait = [] ∧
    ((queued (ported (runs .fit) 23 .spic) 47 [1]).txTake 23).map (fun r => r.2.1.length) = some [(7 : Byte)].length := by decide +kernel

theorem witness_PortChecksAct : (ported (runs .fit) 0 .dual).pfn 0 = .dual ∧ (ported (runs .fit) 0 .dual).isSet (PORT_STAT_DISC 0) = false ∧
    ((ported (runs .fit) 0 .dual).wr (PORT_PAR 0 0) 4).ndisc 0 = 4 ∧ (2 : BitVec 16).toNat = 2 ∧
    (((ported (runs .fit) 0 .dual).wr (PORT_STAT_DISC 0) 1).strongIssue 0).isSet (PORT_STAT_DISC 0) = true ∧
    ((((ported (runs .fit) 0 .dual).wr (PORT_STAT_DISC 0) 1).pset 0 (fun x => { x with agree := 1 })).strongIssue 0).ndisc 0 ≤
      (((((ported (runs .fit) 0 .dual).wr (PORT_STAT_DISC 0) 1).pset 0 (fun x => { x with agree := 1 })).strongIssue 0).port.at 0).agree ∧
    (ported (runs .fit) 0 .loop).pfn 0 = .loop ∧
    ((ported (runs .fit) 0 .loop).pset 0 (fun x => { x with sent := [true] }) |>.port.at 0).sent[(ported (runs .fit) 0 .loop).par 0 0 28 3]? =
      some true ∧ (ported (runs .fit) 0 .switch).pfn 0 = .switch ∧
    orElse0 (((ported (runs .fit) 0 .switch).wr (PORT_CFG_FILT 0) 4095).rd (PORT_CFG_FILT 0)) 1 = 4095 := by decide +kernel

/-- The accepted edge before: 1 s and 1 ms ago, the limit, or one quarter ns earlier still. -/
def paced (s : State) (ago : Nat) : State :=
  { (ported s 0 .pps).pset 0 (fun x => { x with lastOk := some 0 }) with tbs := { s.tbs with mono := ago } }

theorem witness_PortPulsesAct : (ported (runs .fit) 0 .pulse).pfn 0 = .pulse ∧
    edgePick ((ported (runs .fit) 0 .pulse).edgeSel 0) true = true ∧ edgePick ((ported (runs .fit) 0 .pulse).edgeSel 0) false = false ∧
    ((ported (runs .fit) 0 .pulse).port.at 0).recs.length < 63 ∧ orElse0 ((ported (runs .fit) 0 .pulse).rd (PORT_CFG_FILT 0)) 1 = 1 ∧
    (paced (runs .fit) 1001000000).pfn 0 = .pps ∧ ((paced (runs .fit) 1001000000).port.at 0).lastOk = some 0 ∧
    0 + 4004000000 < 4 * (paced (runs .fit) 1001000000).tbs.mono + (1 : BitVec 26).toNat ∧
    4 * (paced (runs .fit) 1001000000).tbs.mono + (1 : BitVec 26).toNat ≤
      4000000000 * orElse0 ((paced (runs .fit) 1001000000).rd TBS_PPSCFG_LOSS) 3 + 0 ∧
    4 * (paced (runs .fit) 1001000000).tbs.mono + (0 : BitVec 26).toNat ≤ 0 + 4004000000 ∧
    0 + 3996000000 ≤ 4 * (paced (runs .fit) 999000000).tbs.mono + (0 : BitVec 26).toNat ∧
    (ported (runs .fit) 0 .pulseout).pfn 0 = .pulseout := by decide +kernel

/-- A card at port 0, and where its exchange stands. -/
def cardAt (s : State) (ph : CardPhase) : State :=
  ((s.pset 0 (fun x => { x with fn := .card, card := ph, rx := [capt 1] })).wrs [(PORT_STAT_ACTIVE 0, 1)])

theorem witness_CardsAct : (runs .fit).coreRuns 0 = true ∧ ((cardAt (runs .fit) .off).strongIssue 0).pfn 0 = .card ∧
    (((cardAt (runs .fit) .off).strongIssue 0).port.at 0).card = .off ∧
    (((cardAt (runs .fit) .ready).strongIssue 0).port.at 0).card = .ready ∧
    (((cardAt (runs .fit) .bytes).strongIssue 0).port.at 0).card = .bytes ∧
    (((cardAt (runs .fit) (.apdu false)).strongIssue 0).port.at 0).card = .apdu false ∧
    (cardAt (runs .fit) .off).cardPresf 0 ≤ (255 : Byte).toNat ∧ (0 : Byte).toNat < (cardAt (runs .fit) .off).cardPresf 0 ∧
    (cardAt (runs .fit) .ready).isSet (PORT_STAT_ACTIVE 0) = true ∧ ((cardAt (runs .fit) (.atr true)).port.at 0).card = .atr true ∧
    400 ≤ (400 : BitVec 16).toNat ∧ (40000 : BitVec 16).toNat ≤ 40000 ∧ 40000 < (40001 : BitVec 16).toNat ∧
    ((cardAt (runs .fit) .ready).port.at 0).rxWait = [] ∧ ((queued (cardAt (runs .fit) .ready) 1 [0]).txTake 0).isSome = true ∧
    (cardAt (runs .fit) .bytes).cardHeard 0 [⟨0x90, 0⟩, ⟨0, 0⟩] [] = [⟨0x90, 0⟩, ⟨0, 0⟩] ∧
    ((cardAt (runs .fit) .bytes).port.at 0).rx ≠ [] ∧ (cardAt (runs .fit) .bytes).cardWait 0 ≤
      (0xFFFFFFFF : Word).toNat * (cardAt (runs .fit) .bytes).cardD 0 := by decide +kernel

/-- A SELECT's bytes sent, and the card answers 90 00. -/
def inApdu : State :=
  (cardAt (runs .fit) (.apdu false)).pset 0 (fun x => { x with tx := [0x00, 0xA4, 0x04, 0x00], rx := [] })

theorem witness_CardsAct_apdu : (inApdu.cardReps 0 ((inApdu.cardHeard 0 [⟨0x90, 0⟩, ⟨0, 0⟩] []).map CardChar.bad)).cardRun 0
      (inApdu.cardHeard 0 [⟨0x90, 0⟩, ⟨0, 0⟩] []) |>.1.map (fun a => a) = some [0x90, 0x00] := by decide +kernel

/-- Port 23 as a GPIO port with pin A enabled, beside a card whose VCCEN names that pin or none. -/
def gpioCard (vcc : Nat) : State :=
  (ported (cardAt (runs .fit) .ready) 23 .gpio).wrs [(PORT_PAR 23 0, 1), (PORT_PAR 0 0, 2 ^ 24 * vcc + 2 ^ 21), (PORT_GPIO_OUTA 23, 0)]

theorem witness_PadsFollow : (gpioCard 0).padsUp 23 = true ∧ (gpioCard 0).pairedBy 23 = none ∧ (gpioCard 0).pfn 23 = .gpio ∧
    (gpioCard 0).vccOf 23 false = none ∧ (gpioCard 0).parBit 23 0 (b2n false) = true ∧ (gpioCard 0).parBit 23 0 (4 + b2n false) = false ∧
    (gpioCard 0).pad 23 false = { drive := .low, pull := 0 } ∧
    ({ gpioCard 0 with si := { vio := 1499 } } : State).pad 15 true = {} ∧ (cardAt (runs .fit) (.atr false)).pfn 0 = .card ∧
    ((cardAt (runs .fit) (.atr false)).port.at 0).card = .atr false ∧ ((cardAt (runs .fit) (.atr true)).port.at 0).card = .atr true ∧
    (cardAt (runs .fit) (.atr false)).padsUp 0 = true ∧ (cardAt (runs .fit) (.atr false)).padsUp 1 = true ∧
    (cardAt (runs .fit) (.atr false)).pairedBy 0 = none ∧ (cardAt (runs .fit) (.atr false)).pairedBy 1 = some 0 := by decide +kernel

/-- The card of port 0 holds pin P23A as its VCCEN. -/
def vccHeld23 : State := (gpioCard 0).pset 0 (fun x => { x with vcc := some (23, false) })

theorem witness_PadsFollow_vccen : vccHeld23.vccOf 23 false = some 0 ∧ vccHeld23.pfn 23 = .gpio ∧ vccHeld23.padsUp 23 = true ∧
    vccHeld23.pairedBy 23 = none ∧ vccHeld23.pad 23 false = { drive := .high, pull := 0 } := by decide +kernel

/-- Hostlink answers. -/
def linked (s : State) : State := { s with hlk := { s.hlk with up := true } }

theorem witness_HostlinkRefuses : (linked (runs .fit)).hlkLive = true ∧ HlkHdr.ok ⟨2, 7, 3⟩ = false ∧ HlkHdr.ok ⟨2, 7, 4⟩ = true ∧
    HlkHdr.ok ⟨1, 7, 1024⟩ = true ∧ HlkHdr.ok ⟨4, 0, 0⟩ = true ∧ (linked (runs .hold)).hlkLive = true ∧
    (linked (runs .hold)).hlkPurge.sys.mode.hlkOp 1 = false ∧ (linked (runs .fit)).hlkPurge.sys.mode.hlkOp 2 = true ∧
    (linked (runs .fit)).hlkPurge.hasHead (hOut 7) = false ∧ (linked (runs .fit)).hlkPurge.hlkEligible 0 = false := by decide +kernel

theorem witness_HostlinkActs : (linked (runs .fit)).hlkLive = true ∧ (linked (runs .fit)).hlkPurge.sys.mode.hlkOp 1 = true ∧
    ((linked (runs .fit)).hlkPurge.pushHeader 2 (hIn 7) (pktHeader 0 0 ((linked (runs .fit)).hlkPurge.rd (QFX_SRC_ID (hIn 7)))
      ((linked (runs .fit)).hlkPurge.hlk.seq.at 7).toNat)).1 = .taken ∧ HlkHdr.ok ⟨1, 7, 0⟩ = true ∧
    HlkHdr.ok ⟨3, 1, 32⟩ = true ∧ HlkHdr.ok ⟨4, 7, 0⟩ = true ∧
    (linked (queued (runs .fit) 63 [1, 2, 3])).hlkPurge.hasHead (hOut 7) = true ∧
    ((linked (queued (runs .fit) 63 [1, 2, 3])).hlkPurge.headPacket (hOut 7)).2 = [1, 2, 3] ∧
    (linked (queued (runs .fit) 63 [1, 2, 3])).hlkPurge.pktGood (hOut 7) 3 = true ∧
    ({ linked (queued (runs .fit) 63 [1]) with hlk := { up := true, elig := (Tab.const 8 none).put 7 (some 0) } } :
      State).hlkPurge.hlkEligible 7 = true ∧
    ((linked (queued (runs .fit) 63 [1, 2, 3])).putW (crateBase + 256 * 5 + 8) 0).hlkPurge.pktGood (hOut 7) 3 = false ∧
    ((linked (queued (runs .fit) 63 [1, 2, 3])).putW (crateBase + 256 * 5 + 8) 0).hlkPurge.hasHead (hOut 7) = true := by decide +kernel

/-- Loading by H6 is on, and a packet of the host waits. -/
def hosted (pay : List Byte) : State := queued ((runs .workshop).wr HLK_CFG_H6EN 1) 54 pay

/-- A payload of a length, beginning with a command. -/
def h6Pay (c : Byte) (n : Nat) : List Byte := c :: List.replicate (n - 1) 0

theorem witness_HostLoadActs : [h6Pay 1 12, h6Pay 1 11, h6Pay 2 9, h6Pay 2 8, h6Pay 3 4, h6Pay 3 5, h6Pay 4 4,
      h6Pay 4 5].all (fun p => (hosted p).h6On && ((hosted p).h6Take.map (fun r => (r.1, r.2.1))) == some (p, true)) = true ∧
    [h6Pay 1 12, h6Pay 2 9, h6Pay 3 4, h6Pay 4 4].all (fun p =>
      (((hosted p).putW (crateBase + 256 * 5 + 8) 0xFF).h6Take.map (fun r => r.2.1)) == some false) = true ∧
    [h6Pay 1 12, h6Pay 2 9, h6Pay 3 4, h6Pay 4 4].all (fun p =>
      !((hosted p).wr HLK_CFG_H6EN 0).h6On && ((hosted p).wr HLK_CFG_H6EN 0).h6Take.isSome) = true := by decide +kernel

/-- An image of one byte in loading by the host, all of it there. -/
def h6Loading (pay : List Byte) : State := (((hosted pay).loadBegin true .uc 1 none).2.loadData true 0 [1]).2

theorem witness_HostLoadActs_image : h6Bare (h6Pay 3 4) = true ∧ h6Bare (h6Pay 3 5) = false ∧
    ((h6Loading (h6Pay 4 4)).h6Take.map (fun r => (r.2.2.loadAbort true).1.isSome)) = some true ∧
    ((h6Loading (h6Pay 3 4)).h6Take.map (fun r => (r.2.2.loadEnd true).1.isSome)) = some true := by decide +kernel

/-- Queue 24 with CPU0 as its producer and consumer. -/
def owned (s : State) : State := s.wrs [(QFX_OWNER 24, 0), (QFX_PROD 24, 0)]

theorem witness_QueueCommandsAct : (owned (runs .fit)).coreRuns 0 = true ∧ ((owned (runs .fit)).strongIssue 0).qProducer .cpu0 24 = true ∧
    (((owned (runs .fit)).strongIssue 0).qfx.at 24).drop = 0 ∧ (((owned (runs .fit)).strongIssue 0).qfx.at 24).left = 0 ∧
    (((owned (runs .fit)).qset 24 (fun x => { x with left := 1, chain := [5], pw := 2 })).strongIssue 0 |>.qfx.at 24).left = 1 ∧
    ((owned (runs .fit)).strongIssue 0).qConsumer .cpu0 24 = true ∧
    (((queued (owned (runs .fit)) 24 [1]).strongIssue 0).qfx.at 24).readable = true ∧
    (((owned (runs .fit)).strongIssue 0).qfx.at 24).readable = false ∧ (((owned (runs .fit)).strongIssue 0).qfx.at 24).flush = none ∧
    ((((queued (owned (runs .fit)) 24 [1]).qset 24 (fun x => { x with rd := 3, mark := some 0 })).strongIssue 0).qfx.at 24).mark =
      some 0 ∧
    ((((queued (owned (runs .fit)) 24 [1]).qset 24 (fun x => { x with rd := 3 })).strongIssue 0).qfx.at 24).release.isSome = true ∧
    (((owned (runs .fit)).strongIssue 0).qfx.at 24).release = none ∧
    ((((owned (runs .fit)).wr QFX_FLUSHLIM 15).qset 24 (fun x => { x with flush := some 15, left := 2 })).qfx.at 24).flush =
      some 15 ∧ ((owned (runs .fit)).wr QFX_FLUSHLIM 15).flushLimit ≤ 15 := by decide +kernel

theorem witness_ForeignQueueRefused : (runs .fit).coreRuns 1 = true ∧ ((runs .fit).strongIssue 1).qProducer .cpu1 0 = false ∧
    ((runs .fit).strongIssue 1).qConsumer .cpu1 0 = false ∧ (runs .fit).agentUp .con = true ∧ (runs .fit).agentUp .care = true ∧
    (runs .fit).qProducer .con 63 = false ∧ (runs .fit).qProducer .care 0 = false ∧ (runs .fit).qConsumer .con 63 = false ∧
    (0x4010 + 0x20 * 63 : BitVec 20).toNat = 0x4010 + 0x20 * 63 ∧ (0x4008 + 0x20 * 63 : BitVec 20).toNat = 0x4008 + 0x20 * 63 ∧
    [1, 2, 3].all (fun v : Nat => (BitVec.ofNat 32 v).toNat % 8 == v) = true := by decide +kernel

/-- The registers of session 7, from SRAM to SRAM, in a state of its own. -/
def bound7 (s : State) (st : Nat) : State :=
  let t := s.wrs [(RLY_SADR 7, sramBase), (RLY_DADR 7, sramBase + 0x100), (RLY_LEN 7, 4), (RLY_SRCCHK 7, (crc32c [0, 0, 0, 0]).toNat),
    (RLY_STAT_STATE 7, st)]
  t.rlySet 7 (fun _ => { bound := some (t.rlyRegs 7) })

/-- Session 7 bound from queue 30, owned by the relay, to SRAM. -/
def boundQ (s : State) (st : Nat) : State :=
  let t := queued ((bound7 s st).wrs [(RLY_SRC_KIND 7, 1), (RLY_SRC_Q 7, 30), (QFX_OWNER 30, 4)]) 30 [1]
  t.rlySet 7 (fun _ => { bound := some (t.rlyRegs 7), failed := if st = 5 then some 0 else none })

/-- OPEN of session 7 by CPU0, bound. -/
def opens7 (s : State) : State :=
  let t := s.strongIssue 0
  (t.wrs [(RLY_STAT_OWNER 7, 0), (RLY_STAT_STATE 7, 1), (RLY_STAT_RESULT 7, 0), (RLY_STAT_SEALED 7, 0),
    (RLY_STAT_SRCFREE 7, 0), (RLY_STAT_DFLUSH 7, 0), (RLY_DSTCHK 7, 0)]).rlySet 7 (fun _ => { bound := some (t.rlyRegs 7) })

theorem witness_RelayActs : (runs .fit).coreRuns 0 = true ∧ ((bound7 (runs .fit) 0).strongIssue 0).rlySt 7 = 0 ∧
    (opens7 (bound7 (runs .fit) 0)).bindOk 7 0 = true ∧ (opens7 ((bound7 (runs .fit) 0).wr (RLY_LEN 7) 0)).bindOk 7 0 = false ∧
    (((bound7 (runs .fit) 0).strongIssue 0).rlyRegs 7).srcK = 0 ∧ (((bound7 (runs .fit) 0).strongIssue 0).rlyRegs 7).dstK = 0 ∧
    ((bound7 (runs .fit) 2).strongIssue 0).rlySt 7 = 2 ∧ ((bound7 (runs .fit) 2).strongIssue 0).rd (RLY_STAT_OWNER 7) = 0 ∧
    ((boundQ (runs .fit) 5).strongIssue 0).rlySt 7 = 5 ∧ ((boundQ (runs .fit) 5).strongIssue 0).rlySrcK 7 = 1 ∧
    (((boundQ (runs .fit) 5).strongIssue 0).rly.at 7).failed = some (((boundQ (runs .fit) 5).strongIssue 0).qfx.at 30).rd ∧
    ((boundQ (runs .fit) 5).strongIssue 0).hasHead (((boundQ (runs .fit) 5).strongIssue 0).rlySrcQ 7) = true ∧
    ((boundQ (runs .fit) 5).strongIssue 0).rd (QFX_OWNER (((boundQ (runs .fit) 5).strongIssue 0).rlySrcQ 7)) = 4 ∧
    (((bound7 (runs .fit) 5).strongIssue 0).rly.at 7).failed = none ∧
    ((bound7 (runs .fit) 2).strongIssue 1).rd (RLY_STAT_OWNER 7) ≠ 1 ∧ (((bound7 (runs .fit) 2).strongIssue 1).rly.at 7).orphan = false :=
  by decide +kernel

theorem witness_RelayActs_moves : (boundQ (runs .fit) 1).rlySt 7 = 1 ∧ (boundQ (runs .fit) 1).mainUp = true ∧
    (boundQ (runs .fit) 1).sys.mode ≠ .hold ∧ (boundQ (runs .fit) 1).rlySrcK 7 = 1 ∧ (boundQ (runs .fit) 1).rlyDstK 7 = 0 ∧
    (boundQ (runs .fit) 1).hasHead ((boundQ (runs .fit) 1).rlySrcQ 7) = true ∧
    (boundQ (runs .fit) 1).lenOk 7 ((boundQ (runs .fit) 1).rlyLen 7) = true ∧
    (boundQ (runs .fit) 1).dstOk 7 (finOf 2 ((boundQ (runs .fit) 1).rd (RLY_STAT_OWNER 7))) ((boundQ (runs .fit) 1).rlyLen 7) = true ∧
    (bound7 (runs .fit) 2).rlySt 7 = 2 ∧ (bound7 (runs .fit) 2).rlyFlushed 7 = false ∧
    (bound7 (runs .fit) 2).rlySource 7 = ([0, 0, 0, 0], true) ∧
    ((boundQ (runs .fit) 2).qset 30 (fun x => { x with rd := 3 })).rlyFlushed 7 = true := by decide +kernel

/-- An address where SRAM ends, and one past it. -/
def sramLast : Word := BitVec.ofNat 32 (sramBase + 0x3FFFC)

theorem witness_CoreAccessesAct : (runs .fit).coreRuns 0 = true ∧ sramLast.toNat % 4 = 0 ∧ inSram sramLast.toNat 4 = true ∧
    (((runs .fit).core 0 (fun x => x.arrive ⟨.on, 0x20000040, 1, [], 0⟩)).cpu.at 0).pmpOk
      (((runs .fit).core 0 (fun x => x.arrive ⟨.on, 0x20000040, 1, [], 0⟩)).cpu.at 0).dataUser 0 sramLast.toNat 4 = true ∧
    (((runs .fit).core 0 (fun x => x.arrive ⟨.on, 0x20000040, 1, [], 0⟩)).cpu.at 0).pmpOk
      (((runs .fit).core 0 (fun x => x.arrive ⟨.on, 0x20000040, 1, [], 0⟩)).cpu.at 0).dataUser 1 sramLast.toNat 4 = true ∧
    areaOf 0xF0000000 4 = none ∧ (1 : Word).toNat % 4 ≠ 0 ∧ areaOf 0 4 = some .rom ∧
    (((runs .fit).core 0 (fun x => { x with sb := [(sramBase, [1])] })).cpu.at 0).sb = [(sramBase, [1])] ∧
    (runs .fit).sys.mode ≠ .hold := by decide +kernel

theorem witness_TrapEntry : 11 < 32 := by decide

theorem witness_CoreAtomicsAct : ((runs .fit).core 0 (fun x => x.arrive ⟨.on, 0x20000040, 1, [], 0⟩)).atomFault 0 true false sramLast.toNat = none ∧
    ((runs .fit).core 0 (fun x => x.arrive ⟨.on, 0x20000040, 1, [], 0⟩)).atomFault 0 false true sramLast.toNat = none ∧
    ((runs .fit).core 0 (fun x => x.arrive ⟨.on, 0x20000040, 1, [], 0⟩)).atomFault 0 false false sramLast.toNat = none ∧
    ((runs .fit).cpu.at 0).resv ≠ some (block32 sramLast.toNat) ∧
    (((((runs .fit).core 0 (fun x => { x with resv := some (block32 sramLast.toNat) })).core 0
      (fun x => x.arrive ⟨.on, 0x20000040, 1, [], 0⟩)).cpu.at 0).resv) = some (block32 sramLast.toNat) ∧ inSram 0x20000000 4 = false ∧
    ((runs .fit).core 0 (fun x => x.arrive ⟨.on, 0x20000040, 1, [], 0⟩)).wakes 0 = false ∧
    ((((runs .fit).wr (CPU_ILVL 0 2) 1).ipend 0 2).core 0 (fun x => { x with mie := true, meie := true })).intrTaken 0 = true := by
  decide +kernel

/-! ## The statements' hypotheses are met: the Vault, the Store Room, the engines, the Larder and the Archive -/

/-- CPU0 has staged a key of role 5 and 128 bits with usage 3. -/
def staging (s : State) : State :=
  (s.wrs [(VLT_STG_ID .cpu0, 0x21), (VLT_STG_ROLE .cpu0, 5), (VLT_STG_TYPE .cpu0, 1), (VLT_STG_USE .cpu0, 3),
    (VLT_STG_AUTOIDX .cpu0, 1)]).vWr .cpu0 (fun w => { w with len := 16 })

/-- One entry of a role and a state at index 5. -/
def entry5 (s : State) (role : Byte) (st : BitVec 2) : State :=
  { s with vlt := { s.vlt with ent := [(5, { keyid := 5, role := role, type := 1, st := st })] } }

theorem witness_VaultEntriesAct : (runs .fit).coreRuns 0 = true ∧ ((runs .fit).strongIssue 0).rd (VLT_STAT_STATE .cpu0) ≠ 1 ∧
    ((runs .fit).strongIssue 0).vIdle = true ∧ ((runs .fit).strongIssue 0).vlt.waiting = [] ∧
    ((((staging (runs .fit)).strongIssue 0).vBusy (.agent .cpu0)).vCheck (((staging (runs .fit)).strongIssue 0).vStaged .cpu0)).1 = 0 ∧
    (fun code : Nat => decide (code ≠ 0 ∧ code ≠ 4)) ((((staging (runs .service)).strongIssue 0).vBusy (.agent .cpu0)).vCheck
      (((staging (runs .service)).strongIssue 0).vStaged .cpu0)).1 = true ∧
    ((runs .fit).strongIssue 0).sys.mode.vaultUse = true ∧ ((runs .fit).strongIssue 0).sys.mode.vaultRetire = true ∧
    (((entry5 (runs .fit) 4 1).strongIssue 0).vEnt (((entry5 (runs .fit) 4 1).strongIssue 0).vHead 5)).st = 1 ∧
    (((entry5 (runs .fit) 4 3).strongIssue 0).vEnt (((entry5 (runs .fit) 4 3).strongIssue 0).vHead 5)).st = 3 ∧
    ((runs .fit).strongIssue 0).sys.mode.vaultStore 4 = true ∧ ((runs .fit).strongIssue 0).strUpd .k = true ∧ (4 : Byte) ≠ roleSession ∧
    ((runs .foundry).strongIssue 0).sys.mode.vaultUse = false := by decide +kernel

/-- The Vault command of CPU0 waits for its shadow update. -/
def shadowing (s : State) : State := { s with vlt := { s.vlt with jobs := [⟨.agent .cpu0, 1, 5, [5], 0, []⟩] } }

/-- A deny entry that CPU0's registers ask for, and the state with it. -/
def denied : State :=
  (((runs .fit).strongIssue 0).kWrite (((runs .fit).strongIssue 0).vStagedCmd .cpu0 7 0).pattern).2

theorem witness_VaultLookupsAct :
    ((((trusting (runs .fit)).wrs [(VLT_LK1_ROLE .cpu0, 1), (VLT_LK0_ID .cpu0, 1), (VLT_LK1_OP .cpu0, 1)]).strongIssue 0).vBusy
      (.agent .cpu0) |>.vLookup .other 1 1 1).1.code = 0 ∧
    (((trusting (runs .fit)).strongIssue 0).vBusy (.agent .cpu0) |>.vLookup .other 1 1 1).1.ecc = false ∧
    ((runs .fit).strongIssue 0).sys.mode.vaultUse = true ∧ ((runs .fit).strongIssue 0).strUpd .k = true ∧
    ((runs .fit).strongIssue 0).sList .k = [] ∧ ((runs .fit).strongIssue 0).kRoom 1 = true ∧
    ((denied.strongIssue 0).sList .k).any (fun x => x.2.valid && x.2.deny &&
      x.2.key == ((denied.strongIssue 0).vStagedCmd .cpu0 8 0).pattern.key &&
      x.2.mask == ((denied.strongIssue 0).vStagedCmd .cpu0 8 0).pattern.mask) = true ∧
    (denied.strongIssue 0).sys.mode = .fit ∧
    (((trusting (runs .fit)).strongIssue 0).vEnt (((trusting (runs .fit)).strongIssue 0).vHead 3)).st ≠ 0 ∧
    (((((trusting (runs .fit)).strongIssue 0).kWrite (roleEntry 3 (((trusting (runs .fit)).strongIssue 0).vEnt 3) 1)).2.kOf 3).any
      (fun x => !x.2.key.getLsbD 56)) = true ∧
    ((shadowing (runs .fit)).strongIssue 0).vIdle = false ∧ ((shadowing (runs .fit)).strongIssue 0).rd (VLT_STAT_STATE .cpu0) ≠ 1 ∧
    (((runs .fit).wr (VLT_STAT_STATE .cpu0) 1).strongIssue 0).rd (VLT_STAT_STATE .cpu0) = 1 := by decide +kernel

theorem witness_VaultLookupsAct_shadow :
    (shadowing (runs .fit)).kWaits = false ∧ (shadowing (runs .fit)).holdoff = false ∧ (shadowing (runs .fit)).sys.mode.main = true ∧
    ((shadowing (runs .fit)).vlt.jobs.find? (fun j => decide (j.changed ≠ []))).isSome = true ∧
    (runs .fit).isSet RNG_STAT_FAIL = false ∧ (runs .fit).mainUp = true ∧ (runs .fit).vlt.pass = false ∧
    Nat.max 256 ((runs .fit).rd VLT_CFG_REMASK_PER) ≤
      ({ runs .fit with vlt := { (runs .fit).vlt with ticks := 65535 } } : State).vlt.ticks := by decide +kernel

/-- CPU0 owns region A0, and its update names that region. -/
def writer (s : State) : State := s.wrs [(STR_CFG_A0OWN, 0), (STR_UATTR_REGION 0, Region.code .a0)]

/-- The update that CPU0's registers ask for. -/
def asked0 (s : State) : SUpd := ⟨.cpu 0, (s.strongIssue 0).updEntry 0, (s.strongIssue 0).isSet (STR_UATTR_PLACE 0), false⟩

/-- An update of region A0 waits. -/
def strWaits (s : State) : State := { s with str := { s.str with wait := [⟨.cpu 0, { region := .a0 }, false, false⟩] } }

theorem witness_StoreRoomActs :
    ((writer (runs .fit)).strongIssue 0).strWriter (((writer (runs .fit)).strongIssue 0).updEntry 0).region (.cpu 0) = true ∧
    ((writer (runs .fit)).strongIssue 0).strUpd (((writer (runs .fit)).strongIssue 0).updEntry 0).region = true ∧
    ((writer (runs .fit)).strongIssue 0).str.wait = [] ∧
    (match (((writer (runs .fit)).strongIssue 0).strInsert (asked0 (writer (runs .fit))) false).1 with
      | .done _ => true | _ => false) = true ∧
    ((((writer (runs .fit)).strongIssue 0).strInsert (asked0 (writer (runs .fit))) false).2.sList .a0).any (fun x => x.2.valid &&
      x.2.key == (asked0 (writer (runs .fit))).ent.key && x.2.mask == (asked0 (writer (runs .fit))).ent.mask &&
      x.2.prio == (asked0 (writer (runs .fit))).ent.prio) = true ∧
    ((strWaits (writer (runs .fit))).strongIssue 0).str.wait.any (fun v => v.ent.region == .a0 || v.req == .cpu 0) = true ∧
    (((writer (runs .fit)).wr STR_CFG_A0OWN 1).strongIssue 0).strWriter .a0 (.cpu 0) = false ∧
    (strWaits (runs .fit)).strUpd .a0 = true ∧
    (match ((strWaits (runs .fit)).strInsert ⟨.cpu 0, { region := .a0 }, false, false⟩ true).1 with
      | .done _ => true | _ => false) = true := by decide +kernel

/-- Slack, and a move that runs. -/
def moving : State :=
  { runs .fit with
    tick := { (runs .fit).tick with phase := .slack }
    str := { (runs .fit).str with moves := [⟨.a0, 0, some ⟨1, 0, false, some 0⟩⟩] } }

theorem witness_StoreRoomActs_move : moving.moveStep.isSome = true ∧ moving.tick.phase = .slack ∧
    moving.str.slots < moving.moveBudget := by decide +kernel

/-- The words of a block in CPU0's PKE channel. -/
def pkeBlock (s : State) (op nw : Nat) : State :=
  s.wrs [(PKE_DW 0 0, op + 2 ^ 16 * nw), (PKE_DW 0 2, 0x10000), (PKE_DW 0 3, 0x30002)]

/-- x in shelf 0, y in shelf 1, m in shelf 3, of one word each. -/
def operands (s : State) (x y m : Byte) : State :=
  ((s.putB (shelfBase + 3) x).putB (shelfBase + s.shelfOff 1 + 3) y).putB (shelfBase + s.shelfOff 3 + 3) m

theorem witness_PkePrimitives : [1, 2, 3, 4, 5, 6, 7, 8].all (fun op =>
      match (operands (pkeBlock (runs .fit) op 1) 2 4 5).pkeAsk (.direct 0) op with
      | some (u, _, a) => u.pkeServes op a && u.pkeFree (.direct 0) && a.nw == 1 && a.sa == 0 && a.sb == 1 && a.sc == 2 && a.sd == 3 &&
        u.shelfNat 0 4 == 2 && u.shelfNat 1 4 == 4 && u.shelfNat 3 4 == 5
      | none => false) = true ∧
    (match (pkeBlock (runs .fit) 1 128).pkeAsk (.direct 0) 1 with
      | some (u, _, a) => a.nw == 128 && u.pkeFree (.direct 0) | none => false) = true ∧
    2 * 3 % 5 = 1 ∧ Nat.gcd 3 9 ≠ 1 ∧
    (match (operands (pkeBlock (runs .fit) 5 1) 3 0 9).pkeAsk (.direct 0) 5 with
      | some (u, _, a) => u.pkeServes 5 a && u.shelfNat 0 4 == 3 && u.shelfNat 3 4 == 9 | none => false) = true := by decide +kernel

/-- The programs that need an image find one. -/
def programmed (s : State) : State := s.wr PKE_UC_VER 1

/-- A verification under the base point in shelves 1 and 2, with the digest in shelf 0 and the signature 0, 0 in shelves 4 and 5. -/
def verifying (s : State) : State :=
  ((s.wrs [(PKE_DW 0 0, 0x11 + 2 ^ 12 + 2 ^ 16 * 8), (PKE_DW 0 2, 0x10000), (PKE_DW 0 3, 4)]).putBytes (shelfBase + s.shelfOff 1)
    (beBytes 32 p256.gx)).putBytes (shelfBase + s.shelfOff 2) (beBytes 32 p256.gy)

/-- The scalar 1 as a private key in entry 5 with its public point in entry 3, ID 1, usable for operation `use`. -/
def keyPair (s : State) (usage : BitVec 16) : State :=
  let pub : VNew := ⟨1, 3, 0x20, usage, 1, false, true, 0, 0xFF, beBytes 32 p256.gx ++ beBytes 32 p256.gy, 64⟩
  let priv : VNew := ⟨1, 2, 0x10, usage, 1, false, true, 0, 3, beBytes 32 1, 32⟩
  ((s.vStoreNow pub 3).2.2.vStoreNow priv 5).2.2

/-- A block that names that key. -/
def keyBlock (s : State) (op : Nat) : State :=
  ((s.wrs [(PKE_DW 0 0, op + (if op = 0x12 then 0 else 2 ^ 16 * 8) + 2 ^ 24 * (if op = 0x11 then 3 else 2)), (PKE_DW 0 1, 1), (PKE_DW 0 2, 0), (PKE_DW 0 3, 4)]).putBytes (shelfBase)
    (beBytes 32 p256.gx)).putBytes (shelfBase + s.shelfOff 1) (beBytes 32 p256.gy)

theorem witness_PkeProgramsAct :
    (match (verifying (programmed (runs .fit))).pkeAsk (.direct 0) 0x11 with
      | some (u, _, a) => u.pkeServes 0x11 a && u.pkeFree (.direct 0) && a.src && (Curve.ofCode a.curve.toNat).isSome
      | none => false) = true ∧
    (match (programmed (pkeBlock (runs .fit) 0x14 0)).pkeAsk (.direct 0) 0x14 with
      | some (u, _, a) => u.pkeServes 0x14 a && u.pkeFree (.direct 0) && (Curve.ofCode a.curve.toNat).isSome
      | none => false) = true ∧
    (programmed (runs .fit)).pkeFree (.vault .cpu0) = true ∧
    (programmed (runs .fit)).pkeServes 0x13 ⟨0, false, false, 0, 2, 1, 0, 0, 0, 0⟩ = true ∧
    ((programmed (runs .fit)).strongIssue 0).vGenCheck { keyid := 1, role := 2, type := 0x10, use := 1, prio := 1 } = 0 ∧
    ((programmed (runs .foundry)).strongIssue 0).vGenCheck { keyid := 1, role := 2, type := 0x10, use := 1, prio := 1 } ≠ 0 ∧
    ((programmed (runs .fit)).strongIssue 0).vIdle = true := by decide +kernel

theorem witness_PkeProgramsAct_keys : [(0x10, 0), (0x12, 2)].all (fun e : Nat × Nat =>
      match (keyBlock (keyPair (programmed (runs .fit)) 0xFFFF) e.1).pkeAsk (.direct 0) e.1 with
      | some (u, b, a) =>
        let k := (u.pkeAlone (.direct 0) e.1 b a).pkeKey a e.2 (0x10 + a.curve.toNat)
        u.pkeServes e.1 a && u.pkeFree (.direct 0) && k.2.1 == some 5 && !k.1.ecc && k.2.2.pairActive 5 &&
          p256.valid (u.shelfPoint a.sa.toNat p256).1 (u.shelfPoint a.sa.toNat p256).2 && decide (beNat (k.2.2.vValue 5) < 2 ^ 576)
      | none => false) = true ∧
    (match (keyBlock (keyPair (programmed (runs .fit)) 0xFFFF) 0x11).pkeAsk (.direct 0) 0x11 with
      | some (u, b, a) =>
        let k := (u.pkeAlone (.direct 0) 0x11 b a).pkeKey a 1 (0x20 + a.curve.toNat)
        u.pkeServes 0x11 a && !a.src && k.2.1.isSome && !k.1.ecc
      | none => false) = true := by decide +kernel

/-- An RSA modulus of 2048 bits, 2 ^ 2047, with e = 65537, and nothing for a signature. -/
def rsaBlock (s : State) : State :=
  ((s.wrs [(PKE_DW 0 0, 0x15 + 2 ^ 8 * 8 + 2 ^ 12 + 2 ^ 16 * 8), (PKE_DW 0 2, 0x10000), (PKE_DW 0 3, 0x200008)]).putB
    (shelfBase + s.shelfOff 1) 0x80).putBytes (shelfBase + s.shelfOff 32) (beBytes 4 65537)

theorem witness_PkeProgramsAct_rsa :
    (match (rsaBlock (programmed (runs .fit))).pkeAsk (.direct 0) 0x15 with
      | some (u, _, a) => u.pkeServes 0x15 a && u.pkeFree (.direct 0) && (rsaHash a.nw.toNat).isSome && a.src &&
        u.shelfNat a.sd.toNat 4 == 65537 && rsaLen a.curve.toNat == 256
      | none => false) = true := by decide +kernel

theorem witness_PkeProgramsAct_rsa_size :
    (match (rsaBlock (programmed (runs .fit))).pkeAsk (.direct 0) 0x15 with
      | some (u, _, a) => decide (2 ^ 2047 ≤ u.shelfNat a.sb.toNat 256)
      | none => false) = true := by decide +kernel

/-- One operation alone in the engine. -/
def inPke (s : State) (o : PkeOp) : State := { s with eng := { s.eng with pke := [o] } }

/-- A program of the S-pipe or a primitive, begun; what has passed the hand-off port. -/
def anOp (sp : Bool) (code : Nat) (hand : Bool) : PkeOp :=
  { id := 7, req := .direct 0, op := if sp then 0x12 else 1, args := ⟨0, false, false, 1, 0, 0, 0, 1, 2, 3⟩, spipe := sp, code := code,
    ctx := if sp then some 0 else none, key := if sp then some (5, 0) else none, started := true, handed := hand }

/-- A shared point that has passed the hand-off port. -/
def handed (s : State) : State :=
  { inPke s (anOp true 0 true) with eng := { (inPke s (anOp true 0 true)).eng with work := [⟨7, some (p256.gx, p256.gy), none⟩] } }

/-- A GEN of CPU0 at the end of its check. -/
def genEnds (s : State) : State :=
  { handed s with eng := { (handed s).eng with pke := [{ anOp true 0 true with req := .vault .cpu0, op := 0x13, key := none }] } }

theorem witness_PkeEndsAct : [anOp true 0 false, anOp true 0 true, anOp false 0 false, anOp false 2 false].all (fun o =>
      (inPke (runs .fit) o).pkeOf (.direct 0) == some o &&
      ((inPke (runs .fit) o).pkeHead (o.spipe && !o.handed)).map PkeOp.id == some o.id) = true ∧
    (Curve.ofCode (anOp true 0 false).args.curve.toNat).isSome = true ∧
    ((handed (runs .fit)).eng.work.find? (fun h => decide (h.id = 7))).map (fun h => h.ok p256 0x12 0) = some true ∧
    (HandOff.mk 7 (some (1, 1)) none).ok p256 0x12 0 = false ∧
    (entry5 (runs .fit) 2 1).vStill (5, 0) = true ∧ (entry5 (runs .fit) 2 2).vStill (5, 0) = false ∧
    ((genEnds (runs .fit)).pkeOf (.vault .cpu0)).map PkeOp.ctx = some (some 0) ∧
    (HandOff.mk 7 (some (p256.gx, p256.gy)) none).ok p256 0x13 0 = true := by decide +kernel

theorem witness_PkeEndsAct_shelves : (inPke (runs .fit) { anOp true 0 false with ctx := none, started := false }).ctxFree = some 0 ∧
    (runs .fit).coreRuns 0 = true ∧ 4 * 4085 < ((runs .fit).strongIssue 0).shelfCount * ((runs .fit).strongIssue 0).shelfBytes ∧
    ((runs .fit).strongIssue 0).shelfBusy (4 * 4085) = false ∧
    ((inPke (runs .fit) { anOp false 0 false with busy := [(0, 64)] }).strongIssue 0).shelfBusy 0 = true ∧
    ((runs .fit).waitPut .con PKE_SHELFCFG_LEN 8).shadow.map ShadowWrite.fld = [PKE_SHELFCFG_LEN] ∧
    (runs .fit).isSet TICK_STAT_RUN = true ∧ (runs .fit).eng.lenDue = false := by decide +kernel

/-- The words of a block in CPU0's SYM channel: a plain key in SRAM, both parts in one. -/
def symBlock (s : State) (op len : Nat) : State :=
  s.wrs [(SYM_DW 0 0, op + 0x3100), (SYM_DW 0 2, sramBase), (SYM_DW 0 3, sramBase + 0x100), (SYM_DW 0 4, len),
    (SYM_DW 0 5, sramBase + 0x200), (SYM_DW 0 6, sramBase + 0x300)]

/-- The words of a block with a key of the Vault, which serves every use, and a tag of 16 bytes. -/
def symKeyed (s : State) (op len : Nat) : State :=
  let v : List Byte := List.replicate (if op = 0x20 then 16 else 64) 7
  let t : Byte := if op = 0x20 then 1 else 4
  let w0 := op + 0x0A003000
  ((s.vStoreNow { keyid := 1, role := 10, type := t, use := 0xFFFF, prio := 1, value := v, len := v.length } 6).2.2).wrs
    [(SYM_DW 0 0, w0), (SYM_DW 0 1, 1), (SYM_DW 0 2, sramBase), (SYM_DW 0 3, sramBase + 0x100), (SYM_DW 0 4, len),
      (SYM_DW 0 5, sramBase + 0x200), (SYM_DW 0 6, 16)]

/-- A command of CPU0's channel is served, and its beginning refuses nothing. -/
def symServed (s : State) (op : Nat) : Bool :=
  match s.symAsk (.direct 0) op with
  | some (u, b, a, clean) =>
    let r := (u.symAlone (.direct 0) op b a).symBegin op a none
    u.symServes (.direct 0) op a clean && u.symFreeFor (.direct 0) && !symRefusal r.1.code && !r.1.ecc
  | none => false

theorem witness_SymCommandsAct : [(1, 16), (2, 16), (3, 16), (4, 16), (5, 15), (6, 0), (7, 16), (8, 16), (9, 16), (0x10, 3), (0x11, 3),
    (0x12, 3)].all (fun e => symServed (symBlock (runs .fit) e.1 e.2) e.1) = true := by decide +kernel

theorem witness_SymCommandsAct_clear : [1, 2, 3, 4, 5, 8].all (fun op => match (symBlock (runs .fit) op 16).symAsk (.direct 0) op with
      | some (u, b, a, _) => a.ksrc == 1 && a.klen != 3 && a.first && a.last && !(u.symAlone (.direct 0) op b a).symShelfBusy op a
      | none => false) = true := by decide +kernel

theorem witness_SymCommandsAct_keys : [0x18, 0x1D].all (fun op => symServed (symKeyed (runs .fit) op 3) op) =
    true := by decide +kernel

theorem witness_SymCommandsAct_kdf : symServed ((symKeyed (runs .fit) 0x20 0).putB (sramBase + 0x204) 1) 0x20 = true := by
  decide +kernel

/-- A command of the symmetric engine, alone in it. -/
def inSym (s : State) : State :=
  let a : SymArgs := ⟨1, 0, true, true, false, 0, 0, 0, 0, 0, 0, 0, 0, 0, 0⟩
  { s with eng := { s.eng with sym := [{ id := 7, req := .direct 0, op := 1, args := a, started := true }] } }

theorem witness_SymCommandsAct_end : ((inSym (runs .fit)).symOf (.direct 0)).isSome = true ∧
    (inSym (runs .fit)).symHead.map SymOp.id = some 7 ∧ ((inSym (runs .fit)).strongIssue 0).symOf (.direct 0) ≠ none ∧
    ((runs .fit).strongIssue 0).symOf (.direct 0) = none ∧
    symCtxOf (((((runs .fit).setCtx 0 (some { req := .direct 0, op := 1, key := none, run := .block [] })).strongIssue 0).eng.ctx).at 0)
      (.direct 0) = true := by decide +kernel

theorem witness_RandomSourceActs : (runs .fit).mainUp = true ∧ (runs .fit).isSet RNG_STAT_DEAD = false ∧
    ((runs .fit).wr RNG_STAT_FAIL 1).rngBlocked = true ∧ (runs .fit).rngBlocked = false ∧ (runs .fit).coreRuns 0 = true ∧
    ({ runs .fit with eng := { (runs .fit).eng with rngOut := 1 } } : State).eng.rngOut ≠ 0 ∧
    ({ runs .fit with eng := { (runs .fit).eng with rngOut := 0 } } : State).eng.rngOut = 0 ∧
    1024 * orElse0 ((runs .fit).rd RNG_CFG_RESEED_REQ) 64 ≤
      ({ runs .fit with eng := { (runs .fit).eng with reqs := 1024 * 255 } } : State).eng.reqs := by decide +kernel

/-- Counter 8 with a ring of 16 slots. -/
def counting (s : State) : State := (s.ringSet 8 16).2

theorem witness_LarderActs : (counting (runs .fit)).coreRuns 0 = true ∧ ctrOfCores 8 = true ∧ ctrOfCores 0 = false ∧
    ((counting (runs .fit)).strongIssue 0).ctrBound 8 = false ∧ ((counting (runs .fit)).strongIssue 0).holdoff = false ∧
    (((counting (runs .fit)).strongIssue 0).nv.ring.at 8).slots ≠ 0 ∧ (((counting (runs .fit)).strongIssue 0).nv.ring.at 8).noValid = false ∧
    (((counting (runs .fit)).wr (LDR_INCAMT 0) 1).strongIssue 0).rd (LDR_INCAMT 0) = 1 ∧
    (((counting (runs .fit)).strongIssue 0).ctrSlot 8).value + 1 < 2 ^ 64 ∧
    (((runs .fit).wr LDR_STAT_HOLDOFF 1).strongIssue 0).holdoff = true ∧ ((runs .fit).strongIssue 0).rwsOpen = true ∧
    ldrApp 0x3FFFC = true ∧ ldrApp 0 = false ∧ (0x3FFFC : BitVec 18).toNat % 4 = 0 ∧ ((runs .fit).watch.src.at 0x16).trip = false := by
  decide +kernel

/-- Transaction 0 of CPU0. -/
def opened (s : State) : State := s.setTxn 0 (some { owner := 0, area := 0, n := 0 })

theorem witness_ArchiveActs : ((runs .fit).strongIssue 0).rd (ARC_TSTAT_STATE 0) ≠ 1 ∧ ((runs .fit).strongIssue 0).nv.txn.at 0 = none ∧
    ((runs .fit).strongIssue 0).sys.mode.arcOpen = true ∧ ((runs .fit).strongIssue 0).isSet (ARC_AREA_EN 0) = true ∧
    ((runs .fit).strongIssue 0).areaBusy 0 = false ∧ (((runs .fit).strongIssue 0).blockPlace 0 16).isSome = true ∧
    (((opened (runs .fit)).strongIssue 0).txnOf 0 0).isSome = true ∧
    (stageAmt [] 8 ((((opened (runs .fit)).wr (ARC_TARG 0) 1).strongIssue 0).rd (ARC_TARG 0))).length ≤ 4 ∧
    (((opened (runs .fit)).wr (ARC_TARG 0) 1).strongIssue 0).rd (ARC_TARG 0) ≠ 0 ∧
    ((opened (runs .fit)).strongIssue 0).commitCheck 0 { owner := 0, area := 0, n := 0 } = 0 ∧
    ((opened (runs .fit)).strongIssue 0).bound 0 (fun st => st == 2 || st == 3) = false ∧
    ((runs .fit).strongIssue 0).trimCheck 0 (((runs .fit).nv.area.at 0).head) = 0 ∧ ((runs .fit).strongIssue 0).txnOf 0 0 = none := by
  decide +kernel

/-- The newest sixteen records of the journal, none applied, and one more transaction. -/
def journalFull (s : State) : State :=
  { opened s with
    ldr := { (opened s).ldr with later := [.close 0 1 { kind := .firmware, txn := 1, area := none, n := 0, used := 0, begin := 0, commit := 0,
                                                        head := 0, ctrs := [], jseq := 1 }] }
    nv := { (opened s).nv with jseq := 16 } }

theorem witness_ArchiveActs_commit : ((opened (runs .fit)).strongIssue 0).slotBusy = false ∧
    ((journalFull (runs .fit)).strongIssue 0).slotBusy = true ∧
    (((opened (runs .fit)).wr LDR_STAT_HOLDOFF 1).strongIssue 0).holdoff = true ∧
    ((journalFull (runs .fit)).strongIssue 0).commitCheck 0 { owner := 0, area := 0, n := 0 } = 0 := by decide +kernel

/-- Area 0 about to fill sector 321, which is not erased. -/
def filling (s : State) : State := (s.arcPut 0x141000 [0]).setArea 0 (fun a => { a with resv := 0x141000 })

theorem witness_ArchiveActs_banks : (filling (runs .fit)).mainUp = true ∧ (filling (runs .fit)).isSet (ARC_AREA_EN 0) = true ∧
    (filling (runs .fit)).holdoff = false ∧ (filling (runs .fit)).eraseNext 0 = some 321 ∧
    (filling (runs .fit)).bank.at (bankOf (0x1000 * 321)) = .idle ∧ 
    ({ runs .fit with bank := (runs .fit).bank.put 1 (.erase 1023 true 0) } : State).bank.at 1 = .erase 1023 true 0 := by decide +kernel

/-! ## The statements' hypotheses are met: the whole block -/

theorem witness_MemoryStaysCanonical : Memory.wf (((runs .fit).putB sramBase 1).mem) = true := by decide +kernel

theorem witness_CommandsKeepTheQueue : ∃ t, exec (.claim .cpu0 8) (runs .fit) = .next t := ⟨_, rfl⟩

theorem witness_FusesStayBlown : ∃ t, step { runs .fit with pending := [.claim .cpu0 8] } = .next t := ⟨_, rfl⟩

theorem witness_ConsoleLinesRead : parseLine (lineOf 7 (txt "PORT P" ++ dec 23)) ≠ none ∧ 999999999 < 10 ^ 9 := by decide +kernel

theorem witness_MessagesInParts : (List.replicate 64 (1 : Byte)).length % (Hash.block .sha256) = 0 ∧
    (List.replicate 128 (1 : Byte)).length % (Hash.block .sha512) = 0 ∧ (List.replicate 24 (0 : Byte)).length = 24 := by decide +kernel

theorem witness_StoresSeen : Memory.wf (runs .fit).mem = true ∧ (runs .fit).coreRuns 0 = true ∧
    (runs .fit).coreRuns 1 = true ∧ ((runs .fit).cpu.at 1).sb = [] ∧
    (((runs .fit).cpu.at 1).arrive ⟨.on, 0x20000040, 1, [], 0⟩).pmpOk (((runs .fit).cpu.at 1).arrive ⟨.on, 0x20000040, 1, [], 0⟩).dataUser 0
      sramLast.toNat 4 = true := by decide +kernel

end Sys2Proof.Tests
end

namespace Sys2Proof.Machine

/-! ## Agents and cores -/

@[simp] theorem CpuId.cpu_agent (c : CpuId) : c.agent.cpu = some c := by
  revert c
  decide

/-- A core can act as an agent when it runs. -/
theorem State.agentUp_agent (s : State) (c : CpuId) : s.agentUp c.agent = s.coreRuns c := by
  match c with
  | 0 => rfl
  | 1 => rfl

theorem State.asAgent_agent (s : State) (c : CpuId) : s.asAgent c.agent = s.strongIssue c := by
  simp [State.asAgent]

@[simp] theorem State.coreWake_user (s : State) (c : CpuId) : ((s.coreWake c).cpu.at c).user = (s.cpu.at c).user := by
  simp [State.coreWake, Tab.at_upd]

/-! ## The fields of a register -/

/-- The fields listed at an offset stand there: each block's branch is a filter by the offset. -/
theorem off_of_mem_fieldsAt {a : Agent} {off : Nat} : ∀ f ∈ fieldsAt a off, f.off = off := by
  unfold fieldsAt
  repeat' refine iteInduction (motive := fun l : List Field => ∀ f ∈ l, f.off = off) (fun _ => ?_) (fun _ => ?_)
  all_goals simp only [List.mem_filter, decide_eq_true_eq, and_imp, imp_self, implies_true, List.not_mem_nil, false_imp_iff]

/-- The Vault registers of CON's copy hold no field of a core's view. -/
theorem conCopy_staging_registers : ∀ (c : CpuId) (k : Fin 0x48),
    (fieldsAt c.agent (0x8000 + k.val)).all (fun f => !conCopy f) = true := by
  decide +kernel

/-- A core sees no field of CON's copy. -/
theorem conCopy_of_mem_fieldsAt {c : CpuId} {off : Nat} {f : Field} (h : f ∈ fieldsAt c.agent off) : conCopy f = false := by
  by_cases hr : 0x8000 ≤ off ∧ off < 0x8048
  · have hall := conCopy_staging_registers c ⟨off - 0x8000, by omega⟩
    have hoff : 0x8000 + (off - 0x8000) = off := by omega
    rw [hoff, List.all_eq_true] at hall
    simpa using hall f h
  · have hf := off_of_mem_fieldsAt f h
    have hrange : (decide (0x8000 ≤ off) && decide (off < 0x8048)) = false := by
      rw [← Bool.decide_and, decide_eq_false hr]
    rw [conCopy, hf, hrange, Bool.false_and, Bool.false_and]

theorem mem_fieldsAt_of_mem_seenFields {a : Agent} {off : Nat} {f : Field} (h : f ∈ seenFields a off) : f ∈ fieldsAt a off :=
  (List.mem_filter.mp h).1

/-- A core writes a field that it sees by the field's own access code. -/
theorem writeCode_of_mem_seenFields {c : CpuId} {off : Nat} {f : Field} (h : f ∈ seenFields c.agent off) :
    writeCode f = f.acc := by
  simp [writeCode, conCopy_of_mem_fieldsAt (mem_fieldsAt_of_mem_seenFields h)]

theorem ruledFields_of_seenFields_singleton {a : Agent} {off : Nat} {f : Field} (h : seenFields a off = [f]) :
    ruledFields a off = [f] := by
  have hne : fieldsAt a off ≠ [] := List.ne_nil_of_mem (mem_fieldsAt_of_mem_seenFields (by rw [h]; exact List.mem_singleton_self f))
  simp [ruledFields, hne, h]

/-- R18 lets a plane write an RW field of its own blocks only, and the selector. -/
theorem own_or_selector_of_not_foreignWrite {a : Agent} {off : Nat} {f : Field} (hf : seenFields a off = [f])
    (hcode : writeCode f = .rw) (h : foreignWrite a off = false) : ownBlock a off = true ∨ isSelector f = true := by
  have hruled : ownBlock a off = false → madeReg off = false ∧ isSelector f = true := by
    simpa [foreignWrite, ruledFields_of_seenFields_singleton hf, admitted, hcode] using h
  cases hown : ownBlock a off with
  | true => exact .inl rfl
  | false => exact .inr (hruled hown).2

/-! ## A value reaches a field (R2, R18, Table 0.2) -/

theorem State.fieldPut_rw {s : State} {a : Agent} {f : Field} (hcode : writeCode f = .rw)
    (h : ownBlock a f.off = true ∨ isSelector f = true) (v : Nat) : s.fieldPut a f v = s.wr f v := by
  simp [State.fieldPut, hcode, h]

theorem State.fieldPut_rwt {s : State} {a : Agent} {f : Field} (hcode : writeCode f = .rwt) (hper : f ≠ TICK_CFG_PER)
    (hlen : f ≠ PKE_SHELFCFG_LEN) (v : Nat) : s.fieldPut a f v = s.waitPut a f v := by
  simp [State.fieldPut, hcode, State.waitMark, hper, hlen]

theorem State.fieldPut_w1c {s : State} {a : Agent} {f : Field} (hcode : writeCode f = .w1c)
    (hport : ∀ p, f ≠ PORT_STAT_DISC p) (v : Nat) : s.fieldPut a f v = s.wr f (s.rd f &&& (2 ^ f.width - 1 - v)) := by
  simp [State.fieldPut, hcode, State.w1c, hport]

theorem State.fieldPut_readOnly {s : State} {a : Agent} {f : Field} (hcode : writeCode f = .ro ∨ writeCode f = .rc) (v : Nat) :
    s.fieldPut a f v = s := by
  rcases hcode with hcode | hcode <;> simp [State.fieldPut, hcode]

/-- DISC stands in a port's block. -/
theorem PORT_STAT_DISC_off (p : PortId) : 0x2000 ≤ (PORT_STAT_DISC p).off ∧ (PORT_STAT_DISC p).off < 0x3800 := by
  revert p
  decide

/-- A core's write to a field that its chapter grants. -/
theorem State.fieldWrite_granted {s : State} {c : CpuId} {f : Field} {v : Word}
    (h : s.grant f (bits v.toNat f.lo f.width) = .ok) :
    s.fieldWrite c.agent f v = s.fieldPut c.agent f (bits v.toNat f.lo f.width) := by
  simp [State.fieldWrite, h]

/-! ## A word reaches a register -/

/-- A core's word to a register of one field, outside the ports and the Relay's sessions, where the field's chapter grants the
write: the field takes its bits, and MISUSE comes after it where R18 ignores the write. -/
theorem State.plainWrite_granted {s : State} {c : CpuId} {off : Nat} {f : Field} {v : Word} (hf : seenFields c.agent off = [f])
    (hport : ¬ (0x2000 ≤ off ∧ off < 0x3800)) (hrly : ¬ (0xF000 ≤ off ∧ off < 0xF200))
    (hgrant : s.grant f (bits v.toNat f.lo f.width) = .ok) :
    s.plainWrite c.agent off v =
      if foreignWrite c.agent off then (s.fieldPut c.agent f (bits v.toNat f.lo f.width)).misuse
      else s.fieldPut c.agent f (bits v.toNat f.lo f.width) := by
  have hcx : (decide (0x2000 ≤ off) && decide (off < 0x3800)) = false := by simpa using hport
  have hses : (decide (0xF000 ≤ off) && decide (off < 0xF200)) = false := by simpa using hrly
  rw [← State.fieldWrite_granted hgrant, State.plainWrite, hcx, hses, hf, CpuId.cpu_agent]
  rfl

/-- A register that is no Hatch slot and commands nothing takes the word. -/
theorem State.devStore_plain {s : State} {a : Agent} {off : Nat} {v : Word} (hhatch : ¬ (0x13000 ≤ off ∧ off < 0x13440))
    (hcmd : a.cpu.bind (fun k => s.coreCommand k off v) = none) (hq : a.cpu ≠ none ∨ ¬ (0x4000 ≤ off ∧ off < 0x4800)) :
    s.devStore a off v = s.plainWrite a off v := by
  unfold State.devStore
  rw [if_neg (by omega), if_neg (by omega)]
  cases hcpu : a.cpu with
  | some c =>
    rw [hcpu, Option.bind_some] at hcmd
    simp [hcmd]
  | none =>
    have hnq : ¬ (0x4000 ≤ off ∧ off < 0x4800) := hq.resolve_left (fun h => h hcpu)
    simp only
    rw [if_neg (by omega), if_neg (by omega)]

/-- REGISTER_WRITE of an aligned word to a listed block. -/
theorem exec_registerWrite_dev {s : State} {a : Agent} {off : BitVec 20} (hup : s.agentUp a = true) (halign : off.toNat % 4 = 0)
    (hlist : deviceListed off.toNat = true) (v : Word) :
    exec (.registerWrite a (.dev off) v) s = .next ((s.asAgent a).devStore a off.toNat v) := by
  change execRegisterWrite a (.dev off) v s = _
  simp [execRegisterWrite, State.byAgent_run hup, halign, hlist]

/-- REGISTER_WRITE to a register that commands nothing. -/
theorem exec_registerWrite_plain {s : State} {a : Agent} {off : BitVec 20} {v : Word} (hup : s.agentUp a = true)
    (halign : off.toNat % 4 = 0) (hlist : deviceListed off.toNat = true)
    (hhatch : ¬ (0x13000 ≤ off.toNat ∧ off.toNat < 0x13440))
    (hcmd : a.cpu.bind (fun k => (s.asAgent a).coreCommand k off.toNat v) = none)
    (hq : a.cpu ≠ none ∨ ¬ (0x4000 ≤ off.toNat ∧ off.toNat < 0x4800)) :
    exec (.registerWrite a (.dev off) v) s = .next ((s.asAgent a).plainWrite a off.toNat v) := by
  rw [exec_registerWrite_dev hup halign hlist, State.devStore_plain hhatch hcmd hq]

/-! ## CSRs (R286, R287) -/

/-- REGISTER_WRITE to a CSR of a running core. -/
theorem exec_registerWrite_csr {s : State} {c : CpuId} (hrun : s.coreRuns c = true) (n : BitVec 12) (rd : Fin 32) (v : Word) :
    exec (.registerWrite c.agent (.csr n rd) v) s = .next ((s.coreWake c).csrWrite c rd n.toNat v) := by
  change execRegisterWrite c.agent (.csr n rd) v s = _
  simp [execRegisterWrite, hrun]

/-- A CSR that M-mode may write takes the value, and the instruction retires; what is written to minstret stands. -/
theorem State.csrWrite_writable {s : State} {c : CpuId} {n : Nat} {old : Word} (hm : (s.cpu.at c).user = false)
    (hold : s.csrRead c n = some old) (hn : n < 0xC00) (rd : Fin 32) (v : Word) :
    s.csrWrite c rd n v = if n = 0xB02 ∨ n = 0xB82 then ((s.csrPut c n v).loaded c old).toReg c rd
      else (s.csrPut c n v).reads c rd old := by
  have hmode : ¬ ((s.cpu.at c).user = true) := by rw [hm]; exact Bool.false_ne_true
  rw [State.csrWrite, if_neg hmode, hold]
  exact if_neg (Nat.not_le.mpr hn)

/-- U-mode, an absent CSR and a read-only number are an illegal instruction (R287; PRESUMED, log entry 61). -/
theorem State.csrWrite_illegal {s : State} {c : CpuId} {n : Nat}
    (h : (s.cpu.at c).user = true ∨ s.csrRead c n = none ∨ 0xC00 ≤ n) (rd : Fin 32) (v : Word) :
    s.csrWrite c rd n v = s.trap c 2 0 := by
  unfold State.csrWrite
  split
  · rfl
  next hm =>
    cases hold : s.csrRead c n with
    | none => rfl
    | some old =>
      have hn : 0xC00 ≤ n := (h.resolve_left hm).resolve_left (by simp [hold])
      simp [hn]

/-- The numbers of the two halves of minstret, as a CSR operand names them. -/
theorem minstret_iff (n : BitVec 12) : (n.toNat = 0xB02 ∨ n.toNat = 0xB82) ↔ (n = 0xB02 ∨ n = 0xB82) := by
  simp only [← BitVec.toNat_inj]
  rfl

/-! ## A core's load of an RC register (R4) -/

/-- A field written with 0 reads 0, whatever its width. -/
theorem State.rd_wr_zero (s : State) (f : Field) : (s.wr f 0).rd f = 0 := by
  simp [State.rd, State.wr, lkGet_lkPut]

/-- Fields cleared together read 0. -/
theorem State.rd_wrs_zero {s : State} {l : List Field} {f : Field} (h : f ∈ l ∨ s.rd f = 0) :
    (s.wrs (l.map (fun g => (g, 0)))).rd f = 0 := by
  induction l generalizing s with
  | nil => simpa using h
  | cons g l ih =>
    rw [List.map_cons, State.wrs_cons]
    refine ih ?_
    by_cases hl : f ∈ l
    · exact .inl hl
    by_cases hg : f = g
    · exact .inr (hg ▸ s.rd_wr_zero g)
    have hz : s.rd f = 0 := h.resolve_left (by simp [hg, hl])
    by_cases hk : g.key = f.key
    · exact .inr (by simp [State.rd, State.wr, lkGet_lkPut, hk])
    · exact .inr ((s.rd_wr_ne g f 0 hk).trans hz)

/-- The fields that a load of the register clears. -/
def rcFields (a : Agent) (off : Nat) : List Field := (seenFields a off).filter (fun f => f.acc == .rc)

theorem mem_rcFields {a : Agent} {off : Nat} {f : Field} : f ∈ rcFields a off ↔ f ∈ seenFields a off ∧ f.acc = .rc := by
  simp [rcFields]

theorem State.rcClear_eq_wrs (s : State) (a : Agent) (off : Nat) :
    s.rcClear a off = s.wrs ((rcFields a off).map (fun f => (f, 0))) := by
  simp [State.rcClear, State.wrs, rcFields, List.foldl_map]

theorem State.rd_rcClear_rc {s : State} {a : Agent} {off : Nat} {f : Field} (hf : f ∈ rcFields a off) :
    (s.rcClear a off).rd f = 0 := by
  rw [State.rcClear_eq_wrs, State.rd_wrs_zero (.inl hf)]

theorem State.rd_rcClear_ne {s : State} {a : Agent} {off : Nat} {g : Field} (h : ∀ f ∈ rcFields a off, f.key ≠ g.key) :
    (s.rcClear a off).rd g = s.rd g := by
  rw [State.rcClear_eq_wrs]
  refine State.rd_wrs_ne _ _ _ fun e he => ?_
  obtain ⟨f, hf, rfl⟩ := List.mem_map.mp he
  exact h f hf

theorem State.rcClear_eq (s : State) (a : Agent) (off : Nat) : s.rcClear a off = { s with regs := (s.rcClear a off).regs } := by
  rw [State.rcClear_eq_wrs]
  exact State.wrs_eq _ _

/-- The register that ends the TBS interrupt has no RC field. -/
theorem rcFields_TBS_STAT : ∀ c : CpuId, rcFields c.agent 0xE000 = [] := by
  decide +kernel

theorem State.tbsSeen_eq (s : State) (c : CpuId) (off : Nat) : s.tbsSeen c off = { s with regs := (s.tbsSeen c off).regs } := by
  unfold State.tbsSeen
  split <;> rfl

theorem State.rd_tbsSeen_ne {s : State} {c : CpuId} {off : Nat} {g : Field} (h : g.key ≠ (CPU_IPEND c).key) :
    (s.tbsSeen c off).rd g = s.rd g := by
  unfold State.tbsSeen
  split
  · exact s.rd_wr_ne _ _ _ h.symm
  · rfl

/-- The end of the TBS interrupt touches no field that the load clears. -/
theorem State.rd_tbsSeen_rc {s : State} {c : CpuId} {off : Nat} {f : Field} (hf : f ∈ rcFields c.agent off) :
    (s.tbsSeen c off).rd f = s.rd f := by
  have hoff : off ≠ 0xE000 := by
    rintro rfl
    simp [rcFields_TBS_STAT] at hf
  rw [State.tbsSeen, if_neg hoff]

@[simp] theorem State.loaded_rdata (s : State) (c : CpuId) (w : Word) : ((s.loaded c w).cpu.at c).rdata = w := by
  simp [State.loaded, Tab.at_upd]

/-- The word stands in `rdata`, and the register's RC fields are clear; the TBS interrupt may have ended. -/
def State.rcLoaded (s : State) (c : CpuId) (off : Nat) : State :=
  ((s.loaded c (s.devWord c.agent off)).rcClear c.agent off).tbsSeen c off

/-- A load without an effect of its own. -/
theorem State.devLoad_eq_rcLoaded {s : State} {c : CpuId} {o : Nat} (htlo : o ≠ 0xE008) (hrng : o ≠ 0x7008) (hwin : o ≠ 0x8018)
    (hpop : ¬ (0x4000 ≤ o ∧ o < 0x4800 ∧ o % 0x20 = 0x0C)) (hbody : ¬ (0x13000 ≤ o ∧ o < 0x13400)) :
    s.devLoad c o = s.rcLoaded c o := by
  simp only [State.devLoad, if_neg htlo, if_neg hrng, if_neg hwin, if_neg hpop, if_neg hbody, State.rcLoaded]

theorem State.rcLoaded_eq (s : State) (c : CpuId) (off : Nat) :
    s.rcLoaded c off = { s with cpu := (s.rcLoaded c off).cpu, regs := (s.rcLoaded c off).regs } := by
  unfold State.rcLoaded
  rw [State.tbsSeen_eq, State.rcClear_eq]
  rfl

theorem State.rcLoaded_rdata (s : State) (c : CpuId) (off : Nat) :
    ((s.rcLoaded c off).cpu.at c).rdata = s.devWord c.agent off := by
  unfold State.rcLoaded
  rw [State.tbsSeen_eq, State.rcClear_eq]
  exact State.loaded_rdata _ _ _

theorem State.rd_rcLoaded_rc {s : State} {c : CpuId} {off : Nat} {f : Field} (hf : f ∈ rcFields c.agent off) :
    (s.rcLoaded c off).rd f = 0 := by
  rw [State.rcLoaded, State.rd_tbsSeen_rc hf, State.rd_rcClear_rc hf]

theorem State.rd_rcLoaded_ne {s : State} {c : CpuId} {off : Nat} {g : Field} (h : ∀ f ∈ rcFields c.agent off, f.key ≠ g.key)
    (hipend : g.key ≠ (CPU_IPEND c).key) : (s.rcLoaded c off).rd g = s.rd g := by
  rw [State.rcLoaded, State.rd_tbsSeen_ne hipend, State.rd_rcClear_ne h]
  rfl

theorem exec_rcRead {s : State} {c : CpuId} (hrun : s.coreRuns c = true) (off : BitVec 20) :
    exec (.rcRead c off) s = .next ((s.strongIssue c).devLoad c (off.toNat - off.toNat % 4)) := by
  change execRcRead c off s = _
  rw [execRcRead, State.byCore_run hrun]

/-! ## The watchdogs (R307, R308) -/

theorem exec_watchdogHalf {s : State} {c : CpuId} (hrun : (s.cpu.at c).run = true) (hmode : s.sys.mode ≠ .hold)
    (hcnt : (s.cpu.at c).wdPer ≤ 2 * s.rd (CPU_WDCNT c)) : exec (.watchdogHalf c) s = .next (s.ipend c 14) := by
  change execWatchdogHalf c s = _
  simp [execWatchdogHalf, State.wdHalf, hrun, hmode, hcnt]

theorem exec_coreWatchdogExpiry {s : State} {c : CpuId} (hrun : (s.cpu.at c).run = true) (hmode : s.sys.mode ≠ .hold)
    (hcnt : (s.cpu.at c).wdPer ≤ s.rd (CPU_WDCNT c)) :
    exec (.coreWatchdogExpiry c) s = .next (s.enterReset .warm (.watchdog c) 0xFF) := by
  change execCoreWatchdogExpiry c s = _
  simp [execCoreWatchdogExpiry, State.wdExpire, hrun, hmode, hcnt]

/-- 0x5A written to WDKICK is a kick. -/
theorem State.csrPut_wdkick {s : State} {c : CpuId} {v : Word} (hv : v.toNat % 256 = 0x5A) :
    s.csrPut c 0x7C5 v = s.wdKick c := by
  simp [State.csrPut, State.kickWrite, hv]

theorem exec_watchdogKick {s : State} {c : CpuId} {v old : Word} (hrun : s.coreRuns c = true) (hm : (s.cpu.at c).user = false)
    (hold : (s.coreWake c).csrRead c 0x7C5 = some old) (hv : v.toNat % 256 = 0x5A) :
    exec (.watchdogKick c v) s = .next (((s.coreWake c).wdKick c).reads c 0 old) := by
  change execWatchdogKick c v s = _
  rw [execWatchdogKick, if_pos hrun, State.csrWrite_writable ((s.coreWake_user c).trans hm) hold (by decide),
    if_neg (by decide), State.csrPut_wdkick hv]

/-! ## The statement -/

/-- Settles O28: a write goes through the access code of its field, a CSR through its number and the privilege, a load through the
register's RC fields, and the watchdogs through their counts. -/
theorem registersAct : Obligations.RegistersAct := by
  unfold Obligations.RegistersAct
  rintro s t c rfl
  refine ⟨?oneField, ?everyField, ?csr, ?load, exec_watchdogHalf, exec_coreWatchdogExpiry, fun v old => exec_watchdogKick⟩
  case oneField =>
    intro off f v x hrun hf hoff halign hlist hhatch hrly hport hcmd rfl
    have hcode : writeCode f = f.acc := writeCode_of_mem_seenFields (by rw [hf]; exact List.mem_singleton_self f)
    have hplain := exec_registerWrite_plain (a := c.agent) (v := v) ((s.agentUp_agent c).trans hrun) halign hlist hhatch
      (by simpa [State.asAgent_agent] using hcmd) (.inl (by simp))
    rw [State.asAgent_agent] at hplain
    simp only [hplain]
    constructor
    · intro hown hgrant
      rw [State.plainWrite_granted hf hport hrly hgrant, if_neg (by simp [hown])]
      refine ⟨fun hacc => ?_, fun hacc hper hlen => ?_, fun hacc => ?_, fun hacc => ?_⟩
      · have hsel := own_or_selector_of_not_foreignWrite hf (hcode.trans hacc) hown
        rw [State.fieldPut_rw (hcode.trans hacc) (hoff.symm ▸ hsel)]
      · rw [State.fieldPut_rwt (hcode.trans hacc) hper hlen]
      · have hdisc : ∀ p, f ≠ PORT_STAT_DISC p := fun p hp => hport (hoff ▸ hp ▸ PORT_STAT_DISC_off p)
        rw [State.fieldPut_w1c (hcode.trans hacc) hdisc]
      · rw [State.fieldPut_readOnly (hcode.symm ▸ hacc)]
    · intro hforeign hgrant hacc
      rw [State.plainWrite_granted hf hport hrly hgrant, if_pos hforeign, State.fieldPut_readOnly (hcode.symm ▸ hacc)]
  case everyField =>
    intro a off v hup halign hlist hhatch hcmd hq
    exact exec_registerWrite_plain hup halign hlist hhatch hcmd hq
  case csr =>
    rintro n rd v u hrun rfl
    rw [exec_registerWrite_csr hrun]
    refine ⟨fun old hm hold hn => ?_, fun h => ?_⟩
    · rw [State.csrWrite_writable ((s.coreWake_user c).trans hm) hold hn]
      refine ⟨fun hlo hhi => ?_, fun hinst => ?_⟩
      · rw [if_neg (fun h => ((minstret_iff n).mp h).elim hlo hhi)]
      · rw [if_pos ((minstret_iff n).mpr hinst)]
    · rw [State.csrWrite_illegal (by rwa [State.coreWake_user])]
  case load =>
    rintro off o hrun rfl htlo hrng hwin hpop hbody
    refine ⟨_, exec_rcRead hrun off, ?_⟩
    rw [State.devLoad_eq_rcLoaded htlo hrng hwin hpop hbody]
    refine ⟨State.rcLoaded_eq _ _ _, State.rcLoaded_rdata _ _ _, fun f hf hacc => ?_, fun g hg hipend => ?_⟩
    · exact State.rd_rcLoaded_rc (mem_rcFields.mpr ⟨hf, hacc⟩)
    · refine State.rd_rcLoaded_ne (fun f hf => ?_) hipend
      obtain ⟨hseen, hacc⟩ := mem_rcFields.mp hf
      exact hg f hseen hacc

end Sys2Proof.Machine
namespace Sys2Proof.Machine

/-! ## The Hatch's slot commands (R25 to R27) -/

/-- A slot's change reads the slot as it stands. -/
theorem State.slot_congr {s : State} {n : Fin 16} {f g : HatchSlot → HatchSlot} (h : f (s.hatch.at n) = g (s.hatch.at n)) :
    s.slot n f = s.slot n g := by
  simp only [State.slot, Tab.upd, h]

/-- An agent that can act commands a slot on the state in which its earlier stores are visible (R297). -/
theorem exec_claim {s : State} {a : Agent} (hup : s.agentUp a = true) (n : Fin 16) :
    exec (.claim a n) s = .next ((s.asAgent a).hatchClaim a n) := by
  change execClaim a n s = _
  rw [execClaim, State.byAgent_run hup]

theorem exec_ring {s : State} {a : Agent} (hup : s.agentUp a = true) (n : Fin 16) :
    exec (.ring a n) s = .next ((s.asAgent a).hatchRing a n) := by
  change execRing a n s = _
  rw [execRing, State.byAgent_run hup]

theorem exec_abandon {s : State} {a : Agent} (hup : s.agentUp a = true) (n : Fin 16) :
    exec (.abandon a n) s = .next ((s.asAgent a).hatchAbandon a n) := by
  change execAbandon a n s = _
  rw [execAbandon, State.byAgent_run hup]

theorem exec_take {s : State} {a : Agent} (hup : s.agentUp a = true) (n : Fin 16) :
    exec (.take a n) s = .next ((s.asAgent a).hatchTake a n) := by
  change execTake a n s = _
  rw [execTake, State.byAgent_run hup]

theorem exec_done {s : State} {a : Agent} (hup : s.agentUp a = true) (n : Fin 16) :
    exec (.done a n) s = .next ((s.asAgent a).hatchDone a n) := by
  change execDone a n s = _
  rw [execDone, State.byAgent_run hup]

theorem State.hatchClaim_free {s : State} {a : Agent} {n : Fin 16} (howner : hatchSender n = a)
    (hst : (s.hatch.at n).st = .free) : s.hatchClaim a n = s.slot n (fun x => { x with st := .writing }) := by
  simp [State.hatchClaim, howner, hst]

/-- A slot rung to an agent that is not in reset is POSTED with what its body names. -/
theorem State.post_up {s : State} {n : Fin 16} (h : s.inReset (Agent.ofCode (bits (s.hatch.at n).route 0 2)) = false) :
    s.post n = s.slot n (fun x => { x with
      st := .posted, dest := Agent.ofCode (bits x.route 0 2), seq := x.byte 3, frag := bits x.route 2 3,
      last := bitAt x.route 5 }) := by
  simp only [State.post, h, Bool.false_eq_true, if_false]
  exact State.slot_congr rfl

theorem State.hatchRing_ok {s : State} {a : Agent} {n : Fin 16} (howner : hatchSender n = a)
    (hst : (s.hatch.at n).st = .writing) (hok : (s.hatch.at n).ok = true) : s.hatchRing a n = s.post n := by
  simp [State.hatchRing, howner, hst, hok]

theorem State.hatchRing_bad {s : State} {a : Agent} {n : Fin 16} (howner : hatchSender n = a)
    (hst : (s.hatch.at n).st = .writing) (hok : (s.hatch.at n).ok = false) : s.hatchRing a n = s.setb (HATCH_ERR_CRC a) := by
  simp [State.hatchRing, howner, hst, hok]

theorem State.hatchAbandon_sent {s : State} {a : Agent} {n : Fin 16} (howner : hatchSender n = a)
    (hst : (s.hatch.at n).st = .writing ∨ (s.hatch.at n).st = .posted) : s.hatchAbandon a n = (s.slotFree n).conFlush := by
  rcases hst with hst | hst <;> simp [State.hatchAbandon, howner, hst]

/-- A core's TAKE: only CON and the Caretaker look at the message. -/
theorem State.hatchTake_core {s : State} {a : Agent} {n : Fin 16} (hdest : (s.hatch.at n).dest = a)
    (hst : (s.hatch.at n).st = .posted) (hcon : a ≠ .con) (hcare : a ≠ .care) :
    s.hatchTake a n = s.slot n (fun x => { x with st := .taken }) := by
  simp [State.hatchTake, hdest, hst, hcon, hcare]

theorem State.hatchDone_taken {s : State} {a : Agent} {n : Fin 16} (hdest : (s.hatch.at n).dest = a)
    (hst : (s.hatch.at n).st = .taken) : s.hatchDone a n = (s.slotFree n).conFlush := by
  simp [State.hatchDone, hdest, hst]

/-- Settles O14: each command reaches its branch of Table 1.7 on the state as the agent finds it. -/
theorem hatchCommandsAct : Obligations.HatchCommandsAct := by
  unfold Obligations.HatchCommandsAct
  intro s a n hup
  rw [exec_claim hup, exec_ring hup, exec_abandon hup, exec_take hup, exec_done hup]
  refine ⟨fun howner hst => ?claim, fun howner hst hok hrst => ?ring, fun howner hst hok => ?refused, fun howner hst => ?abandon,
    fun hdest hst hcon hcare => ?take, fun hdest hst => ?done⟩
  case claim => rw [State.hatchClaim_free howner hst]
  case ring => rw [State.hatchRing_ok howner hst hok, State.post_up hrst]
  case refused => rw [State.hatchRing_bad howner hst hok]
  case abandon => rw [State.hatchAbandon_sent howner hst]
  case take => rw [State.hatchTake_core hdest hst hcon hcare]
  case done => rw [State.hatchDone_taken hdest hst]

/-! ## Slot bodies (R27) -/

/-- A write of a body word by an agent that can act. -/
theorem exec_hatchBodyAccess_write {s : State} {a : Agent} (hup : s.agentUp a = true) (n k : Fin 16) (w : Word) :
    exec (.hatchBodyAccess a n k (some w)) s = .next ((s.asAgent a).bodyAccess a n k (some w)) := by
  change execHatchBodyAccess a n k (some w) s = _
  rw [execHatchBodyAccess, State.byAgent_run hup]
  cases a.cpu <;> rfl

/-- A core's read of a body word: the word, or 0, stands in its register. -/
theorem exec_hatchBodyAccess_coreRead {s : State} {c : CpuId} (hup : s.agentUp c.agent = true) (n k : Fin 16) :
    exec (.hatchBodyAccess c.agent n k none) s =
      .next (((s.asAgent c.agent).loaded c ((s.asAgent c.agent).bodyRead c.agent n k)).bodyAccess c.agent n k none) := by
  change execHatchBodyAccess c.agent n k none s = _
  rw [execHatchBodyAccess, State.byAgent_run hup, CpuId.cpu_agent]

/-- A read of a body word by an agent that is no core. -/
theorem exec_hatchBodyAccess_planeRead {s : State} {a : Agent} (hup : s.agentUp a = true) (hcpu : a.cpu = none) (n k : Fin 16) :
    exec (.hatchBodyAccess a n k none) s = .next ((s.asAgent a).bodyAccess a n k none) := by
  change execHatchBodyAccess a n k none s = _
  rw [execHatchBodyAccess, State.byAgent_run hup, hcpu]

theorem State.bodyAccess_write (s : State) (a : Agent) (n k : Fin 16) (w : Word) :
    s.bodyAccess a n k (some w) = if hatchSender n = a ∧ (s.hatch.at n).st = .writing
      then s.slot n (fun x => { x with body := x.body.put k w }) else (s.setb (HATCH_ERR_OWNER a)).misuse := by
  simp only [State.bodyAccess, State.hatchBad, and_comm]

theorem State.bodyAccess_read (s : State) (a : Agent) (n k : Fin 16) :
    s.bodyAccess a n k none = if (s.hatch.at n).dest = a ∧ (s.hatch.at n).st = .taken
      then s else (s.setb (HATCH_ERR_OWNER a)).misuse := by
  simp only [State.bodyAccess, State.hatchBad, and_comm]

theorem State.bodyRead_eq (s : State) (a : Agent) (n k : Fin 16) :
    s.bodyRead a n k = if (s.hatch.at n).dest = a ∧ (s.hatch.at n).st = .taken then (s.hatch.at n).body.at k else 0 := by
  simp only [State.bodyRead, and_comm]

/-- Settles O15: the owner's and the receiver's accesses pass, every other one is a misuse. -/
theorem hatchBodyAccess : Obligations.HatchBodyAccess := by
  unfold Obligations.HatchBodyAccess
  rintro s t a n k hup rfl
  refine ⟨fun w h => ?write, fun w h => ?noWrite, ?read, ?noRead, fun hcpu h => ?planeRead, fun hcpu h => ?planeNoRead⟩
  case write => rw [exec_hatchBodyAccess_write hup, State.bodyAccess_write, if_pos h]
  case noWrite => rw [exec_hatchBodyAccess_write hup, State.bodyAccess_write, if_neg h]
  case read =>
    rintro c rfl h
    rw [exec_hatchBodyAccess_coreRead hup, State.bodyAccess_read, State.bodyRead_eq, if_pos h, State.loaded_hatch, if_pos h]
  case noRead =>
    rintro c rfl h
    rw [exec_hatchBodyAccess_coreRead hup, State.bodyAccess_read, State.bodyRead_eq, if_neg h, State.loaded_hatch, if_neg h]
  case planeRead => rw [exec_hatchBodyAccess_planeRead hup hcpu, State.bodyAccess_read, if_pos h]
  case planeNoRead => rw [exec_hatchBodyAccess_planeRead hup hcpu, State.bodyAccess_read, if_neg h]

end Sys2Proof.Machine
namespace Sys2Proof.Machine

/-! ## Sampled sources (R33, R477, R483) -/

/-- A sample of one source: its trip, if it makes one, is the sample's only onset. -/
theorem State.watchOnset_single {s : State} (hwatch : s.cellarWatch = false) (o : OnsetArg) :
    s.watchOnset [o] = (s.srcOnset o).2.onsets (s.srcOnset o).1.toList := by
  simp [State.watchOnset, hwatch]

/-- The sample that completes a new trip. -/
theorem State.srcOnset_trips {s : State} {o : OnsetArg} (hsampled : srcSampled o.src.val = true)
    (htrip : (s.watch.src.at o.src).trip = false) (hdet : (o.det.a || o.det.b) = true)
    (hrec : s.cel.tripped.contains o.src.val = false) (hfilt : s.filtOf o.src ≤ o.held) :
    s.srcOnset o = (some { src := o.src.val, det := detCode o.det }, ((s.detSee o.src o.det).srcTrip o.src).tripSide o.src) := by
  simp only [State.srcOnset, hsampled, htrip, hdet, hrec, Nat.not_lt.mpr hfilt]
  rfl

/-- A sample before the FILT-th leaves the source. -/
theorem State.srcOnset_early {s : State} {o : OnsetArg} (hfilt : o.held < s.filtOf o.src) : s.srcOnset o = (none, s) := by
  simp [State.srcOnset, hfilt]

/-- No onset, no response. -/
@[simp] theorem State.onsets_nil (s : State) : s.onsets [] = s := rfl

theorem State.filtOf_pos (s : State) (n : SrcId) : 1 ≤ s.filtOf n := Nat.le_max_left _ _

theorem State.filtOf_le_fmax {s : State} {n : SrcId} (h : s.rd (WATCH_FMAX n) ≠ 0) : s.filtOf n ≤ s.rd (WATCH_FMAX n) :=
  Nat.max_le.mpr ⟨Nat.one_le_iff_ne_zero.mpr h, Nat.min_le_right _ _⟩

/-! ## Clean samples (R483) -/

theorem State.watchUntrip_clean {s : State} {n : SrcId} {held : Nat} (hwatch : s.cellarWatch = false)
    (hsampled : srcSampled n.val = true) (htrip : (s.watch.src.at n).trip = true) (hfilt : s.filtOf n ≤ held) :
    s.watchUntrip n held = (s.detSee n ⟨false, false⟩).srcUntrip n := by
  simp [State.watchUntrip, hwatch, hsampled, htrip, Nat.not_lt.mpr hfilt]

theorem State.watchUntrip_early {s : State} {n : SrcId} {held : Nat} (hfilt : held < s.filtOf n) : s.watchUntrip n held = s := by
  simp [State.watchUntrip, hfilt]

theorem State.detSee_src (s : State) (n m : SrcId) (r : DetReading) :
    (s.detSee n r).watch.src.at m =
      if n = m then { s.watch.src.at n with deta := r.a, detb := r.b } else s.watch.src.at m :=
  Tab.at_upd _ _ _ _

theorem State.srcUntrip_src (s : State) (n m : SrcId) :
    (s.srcUntrip n).watch.src.at m = if n = m then { s.watch.src.at n with trip := false } else s.watch.src.at m :=
  Tab.at_upd _ _ _ _

/-- An untrip ends the source's HOLD cause and the record of its trip. -/
theorem State.srcUntrip_ends (s : State) (n : SrcId) :
    n.val ∉ (s.srcUntrip n).sys.holdSrc ∧ n.val ∉ (s.srcUntrip n).cel.tripped := by
  simp [State.srcUntrip]

/-! ## Disagreement (R478) -/

/-- A further sample of a disagreement that has had its onset. -/
theorem State.disagree_repeated {s : State} {n : SrcId} {alike : Nat} (hdone : (s.watch.src.at n).disDone = true)
    (halike : alike < s.filtOf n) (lagB : Bool) : s.disagree n lagB alike = s := by
  simp [State.disagree, hdone, halike]

theorem State.disagree_new {s : State} {n : SrcId} {alike : Nat} (hwatch : s.cellarWatch = false)
    (hsampled : srcSampled n.val = true) (hnew : (s.watch.src.at n).disDone = false ∨ s.filtOf n ≤ alike) (lagB : Bool) :
    s.disagree n lagB alike =
      (({ s with watch := { s.watch with src := s.watch.src.upd n (fun w => { w with disDone := true }) } } : State).detSee n
        ⟨lagB, !lagB⟩).onsets [{ src := 0x1A, det := if lagB then 2 else 1, rel := n.val }] := by
  rw [State.disagree, if_neg]
  rcases hnew with hdone | halike
  · simp [hwatch, hsampled, hdone]
  · simp [hwatch, hsampled, Nat.not_lt.mpr halike]

/-- Settles O23: a trip, an untrip and a disagreement each have one sample that completes them, and none before it acts. -/
theorem watchSourcesAct : Obligations.WatchSourcesAct := by
  unfold Obligations.WatchSourcesAct
  intro s hwatch
  refine ⟨fun o hsampled htrip hdet hrec => ⟨fun hfilt => ?trips, fun hfilt => ?early⟩,
    fun n held hsampled htrip => ⟨fun hfilt => ?untrips, fun hfilt => ?stillTripped⟩,
    fun n => ⟨s.filtOf_pos n, State.filtOf_le_fmax⟩, fun n lagB alike hsampled hdone halike => ?repeated,
    fun n lagB alike hsampled hnew => ⟨_, rfl, ?disagrees⟩⟩
  case trips =>
    change Host.Outcome.next (s.watchOnset [o]) = _
    rw [State.watchOnset_single hwatch, State.srcOnset_trips hsampled htrip hdet hrec hfilt]
    rfl
  case early =>
    refine ⟨_, rfl, ?_⟩
    rw [State.watchOnset_single hwatch, State.srcOnset_early hfilt]
    exact s.onsets_nil
  case untrips =>
    refine ⟨_, congrArg Host.Outcome.next (State.watchUntrip_clean hwatch hsampled htrip hfilt), ?_⟩
    obtain ⟨hhold, hrec⟩ := (s.detSee n ⟨false, false⟩).srcUntrip_ends n
    refine ⟨?_, ?_, ?_, hhold, hrec, rfl, rfl, fun m hm => ?_⟩
    · rw [State.srcUntrip_src, if_pos rfl]
    · rw [State.srcUntrip_src, if_pos rfl, State.detSee_src, if_pos rfl]
    · rw [State.srcUntrip_src, if_pos rfl, State.detSee_src, if_pos rfl]
    · rw [State.srcUntrip_src, if_neg hm.symm, State.detSee_src, if_neg hm.symm]
  case stillTripped => exact congrArg Host.Outcome.next (State.watchUntrip_early hfilt)
  case repeated => exact congrArg Host.Outcome.next (State.disagree_repeated hdone halike lagB)
  case disagrees => exact congrArg Host.Outcome.next (State.disagree_new hwatch hsampled hnew lagB)

end Sys2Proof.Machine
namespace Sys2Proof.Machine

/-! ## What CON sends leaves everything else (R124, R127) -/

/-- From `s` to `t` CON only sent, queued or lost lines. -/
def State.Sends (s t : State) : Prop :=
  ∃ tx notes lost, t = { s with con := { s.con with tx := tx, notes := notes, lost := lost } }

namespace State.Sends

theorem refl (s : State) : s.Sends s := ⟨_, _, _, rfl⟩

theorem trans {s t u : State} (h : s.Sends t) (k : t.Sends u) : s.Sends u := by
  obtain ⟨tx, notes, lost, rfl⟩ := h
  obtain ⟨tx', notes', lost', rfl⟩ := k
  exact ⟨_, _, _, rfl⟩

theorem foldl {α : Type} {f : State → α → State} (hf : ∀ (s : State) a, s.Sends (f s a)) (l : List α) (s : State) :
    s.Sends (l.foldl f s) := by
  induction l generalizing s with
  | nil => exact refl s
  | cons a l ih => exact (hf s a).trans (ih _)

theorem sys {s t : State} (h : s.Sends t) : t.sys = s.sys := by
  obtain ⟨tx, notes, lost, rfl⟩ := h
  rfl

theorem session {s t : State} (h : s.Sends t) : t.con.session = s.con.session := by
  obtain ⟨tx, notes, lost, rfl⟩ := h
  rfl

theorem held {s t : State} (h : s.Sends t) : t.con.held = s.con.held := by
  obtain ⟨tx, notes, lost, rfl⟩ := h
  rfl

theorem stage {s t : State} (h : s.Sends t) : t.con.stage = s.con.stage := by
  obtain ⟨tx, notes, lost, rfl⟩ := h
  rfl

end State.Sends

theorem State.sends_conTx (s : State) (l : List Byte) : s.Sends (s.conTx l) := ⟨_, _, _, rfl⟩

theorem State.sends_sendNote (s : State) (t : List Byte) : s.Sends (s.sendNote t) := by
  unfold State.sendNote
  split
  · exact ((s.sends_conTx _).trans (State.sends_conTx _ _)).trans (State.sends_conTx _ _)
  · exact s.sends_conTx _

theorem State.sends_flushNotes (s : State) : s.Sends s.flushNotes := by
  have hnotes : s.Sends (s.con.notes.foldl State.sendNote s) := State.Sends.foldl State.sends_sendNote _ s
  unfold State.flushNotes
  refine State.Sends.trans ?_ ⟨_, _, _, rfl⟩
  split
  · exact hnotes
  · exact hnotes.trans (State.sends_sendNote _ _)

/-- Where no reply is due, what is queued goes out at once. -/
theorem State.Sends.flushed {s t : State} (h : s.Sends t) : s.Sends (if t.con.busy == .idle then t.flushNotes else t) := by
  split
  · exact h.trans t.sends_flushNotes
  · exact h

theorem State.sends_notice (s : State) (t : List Byte) : s.Sends (s.notice t) := by
  unfold State.notice
  split
  · exact State.Sends.refl s
  · refine State.Sends.flushed ?_
    split <;> exact ⟨_, _, _, rfl⟩

/-! ## The Attic leaves the console and the modes -/

@[simp] theorem State.attic_con (s : State) (typ : Nat) (body : List Byte) (rise : Bool) : (s.attic typ body rise).con = s.con := by
  unfold State.attic State.atticRec
  repeat' split
  all_goals rfl

@[simp] theorem State.attic_sys (s : State) (typ : Nat) (body : List Byte) (rise : Bool) : (s.attic typ body rise).sys = s.sys := by
  unfold State.attic State.atticRec
  repeat' split
  all_goals rfl

@[simp] theorem State.loadAbandon_con (s : State) : s.loadAbandon.con = s.con := by
  unfold State.loadAbandon
  split
  · rfl
  · exact State.attic_con _ _ _ _

@[simp] theorem State.loadAbandon_sys (s : State) : s.loadAbandon.sys = s.sys := by
  unfold State.loadAbandon
  split
  · rfl
  · exact State.attic_sys _ _ _ _

/-! ## Bytes of a line (R113 to R119) -/

/-- A printable character is none of the bytes that end a line, break it or take a character back. -/
theorem printable_ne {b : Byte} (h : printable b = true) :
    b ≠ 0x03 ∧ b ≠ 0x0A ∧ b ≠ 0x0D ∧ b ≠ 0x08 ∧ b ≠ 0x7F := by
  simp only [printable, Bool.and_eq_true, decide_eq_true_eq] at h
  refine ⟨?_, ?_, ?_, ?_, ?_⟩ <;> rintro rfl <;> revert h <;> decide

/-- A byte finds CON free, with nothing ahead of it. -/
theorem State.rxNext_free {s : State} (hblk : s.conBlocked = false) (hfifo : s.con.fifo = []) (hovf : s.con.ovf = false)
    (b : Byte) : s.rxNext b = s.byteIn b := by
  simp [State.rxNext, hblk, hfifo, hovf]

theorem State.rxByte_char {s : State} {b : Byte} (hlis : s.listening = true) (hb : b ≠ 0x03) : s.rxByte b = s.rxNext b := by
  rw [State.rxByte, hlis, if_neg (by decide), if_neg (fun h => hb h.1)]

/-- A character joins the line. -/
theorem State.byteIn_printable {s : State} {b : Byte} (hb : printable b = true) :
    s.byteIn b = ({ s with con := { s.con with cr := false } } : State).charByte b := by
  obtain ⟨hetx, hlf, hcr, hbs, hdel⟩ := printable_ne hb
  simp only [State.byteIn, hetx, hlf, hcr, hbs, hdel, false_and, or_self, and_false, if_false]

theorem State.charByte_short {s : State} {b : Byte} (hlen : s.con.line.length < 240) (hb : printable b = true) :
    s.charByte b = if s.echo then ({ s with con := { s.con with line := s.con.line ++ [b] } } : State).conTx [b]
      else { s with con := { s.con with line := s.con.line ++ [b] } } := by
  rw [State.charByte, if_neg (Nat.not_le.mpr hlen)]
  simp only [hb, and_true]
  rfl

theorem State.charByte_long {s : State} {b : Byte} (hlen : 240 ≤ s.con.line.length) :
    s.charByte b =
      if (({ s with con := { s.con with excess := s.con.excess ++ [b] } } : State).wr CON_ERR_LONG 1).echo then
        (({ s with con := { s.con with excess := s.con.excess ++ [b] } } : State).wr CON_ERR_LONG 1).conTx [0x07]
      else ({ s with con := { s.con with excess := s.con.excess ++ [b] } } : State).wr CON_ERR_LONG 1 := by
  rw [State.charByte, if_pos hlen]

/-- A Ctrl-C ends the wait for an applet, and goes on as any byte does. -/
theorem State.rxByte_ctrlC {s u : State} (hlis : s.listening = true)
    (hwait : (s.appletWaits = false ∧ u = s) ∨ (s.appletWaits = true ∧ u = s.appletGiveUp)) (hu : u.listening = true) :
    s.rxByte 0x03 = u.rxNext 0x03 := by
  obtain ⟨hidle, rfl⟩ | ⟨hwaits, rfl⟩ := hwait
  · simp [State.rxByte, hlis, hidle]
  · simp [State.rxByte, hlis, hwaits, hu]

theorem State.byteIn_ctrlC (s : State) : s.byteIn 0x03 = ({ s with con := { s.con with cr := false } } : State).breakLine := by
  simp [State.byteIn]

/-- A receive error with nothing in the FIFO. -/
theorem State.framing_idle {s : State} (hlis : s.listening = true) (hfifo : s.con.fifo = []) :
    s.framing = (({ s with con := { s.con with line := [], excess := [], ovf := false, cr := false } } : State).wr
      CON_ERR_FRAME 1).sessionEnd "FRAMING" := by
  simp [State.framing, hlis, hfifo, State.rxDrop, fifoWhole]

/-! ## The end of a session (R78, R138, R142, R171, R178) -/

/-- No session, no held line, no staged key. -/
def State.sessionGone (s : State) : State := { s with con := { s.con with session := none, held := none, stage := none } }

/-- An image load of the console is abandoned; Hostlink's stays. -/
def State.consoleLoadEnd (s : State) : State :=
  match s.load with
  | some l => if l.h6 then s else s.loadAbandon
  | none => s

theorem State.consoleLoadEnd_cases (s : State) : s.consoleLoadEnd = s ∨ s.consoleLoadEnd = s.loadAbandon := by
  unfold State.consoleLoadEnd
  repeat' split
  · exact .inl rfl
  · exact .inr rfl
  · exact .inl rfl

@[simp] theorem State.consoleLoadEnd_con (s : State) : s.consoleLoadEnd.con = s.con := by
  rcases s.consoleLoadEnd_cases with h | h <;> simp [h]

@[simp] theorem State.consoleLoadEnd_sys (s : State) : s.consoleLoadEnd.sys = s.sys := by
  rcases s.consoleLoadEnd_cases with h | h <;> simp [h]

/-- The part goes back to SERVICE where the session had taken it to WORKSHOP or INSPECT; a MODE change that waits is refused. -/
def State.sessionBack (s : State) (x : Session) : State :=
  if x.entered && (s.sys.mode == .workshop || s.sys.mode == .inspect) then
    { s with
      sys := { s.sys with pend := some { dest := .service, cause := 5 } }
      con := { s.con with busy := match s.con.busy with
        | .commit tag (.modeChange m) .waiting => .commit tag (.modeChange m) (.refused 20 [])
        | b => b } }
  else s

theorem State.sessionEnd_some {s : State} {x : Session} (h : s.con.session = some x) {reason : String} (hr : reason ≠ "") :
    s.sessionEnd reason = (s.sessionGone.consoleLoadEnd.sessionBack x).notice (txt "!SESSION END" ++ fld "reason" (txt reason)) := by
  unfold State.sessionEnd
  rw [h]
  dsimp only
  rw [if_neg hr]
  rfl

/-- The way back leaves what the session's end has cleared. -/
theorem State.sessionBack_con (s : State) (x : Session) : ((s.sessionBack x).con.session = s.con.session ∧
    (s.sessionBack x).con.held = s.con.held ∧ (s.sessionBack x).con.stage = s.con.stage) := by
  unfold State.sessionBack
  split <;> exact ⟨rfl, rfl, rfl⟩

theorem State.sessionBack_pend {s : State} {x : Session} (hx : x.entered = true)
    (hmode : s.sys.mode = .workshop ∨ s.sys.mode = .inspect) :
    (s.sessionBack x).sys.pend = some { dest := .service, cause := 5 } := by
  rw [State.sessionBack, if_pos]
  rcases hmode with hmode | hmode <;> simp [hx, hmode]

theorem State.sessionEnd_effect {s : State} {x : Session} (h : s.con.session = some x) {reason : String} (hr : reason ≠ "") :
    (s.sessionEnd reason).con.session = none ∧ (s.sessionEnd reason).con.held = none ∧
      (s.sessionEnd reason).con.stage = none ∧ (x.entered = true → s.sys.mode = .workshop ∨ s.sys.mode = .inspect →
        (s.sessionEnd reason).sys.pend = some { dest := .service, cause := 5 }) := by
  rw [State.sessionEnd_some h hr]
  have hsends := State.sends_notice (s.sessionGone.consoleLoadEnd.sessionBack x) (txt "!SESSION END" ++ fld "reason" (txt reason))
  obtain ⟨hsession, hheld, hstage⟩ := s.sessionGone.consoleLoadEnd.sessionBack_con x
  rw [hsends.session, hsends.held, hsends.stage, hsends.sys, hsession, hheld, hstage, State.consoleLoadEnd_con]
  refine ⟨rfl, rfl, rfl, fun hx hmode => State.sessionBack_pend hx ?_⟩
  rwa [State.consoleLoadEnd_sys]

/-- Settles O27: each byte and each timer reaches its branch of the receiver. -/
theorem consoleBytesAct : Obligations.ConsoleBytesAct := by
  unfold Obligations.ConsoleBytesAct
  intro s
  refine ⟨?char, ?overlong, ?ctrlC, fun hlis hfifo => ?framing, fun b hrev hidle => ?baud, fun x hx => ?idle, fun c hc => ?chal,
    fun h t hheld => ?held, fun tag hpps => ?pps, fun l hl => ?image⟩
  case char =>
    rintro b t hlis hblk hfifo hovf hb hlen rfl
    change Host.Outcome.next (s.rxByte b) = _
    rw [State.rxByte_char hlis (printable_ne hb).1, State.rxNext_free hblk hfifo hovf, State.byteIn_printable hb]
    exact congrArg Host.Outcome.next (State.charByte_short (by exact hlen) hb)
  case overlong =>
    rintro b t hlis hblk hfifo hovf hb hlen rfl
    change Host.Outcome.next (s.rxByte b) = _
    rw [State.rxByte_char hlis (printable_ne hb).1, State.rxNext_free hblk hfifo hovf, State.byteIn_printable hb]
    exact congrArg Host.Outcome.next (State.charByte_long (by exact hlen))
  case ctrlC =>
    rintro u t hlis hwait hready hfifo hovf rfl
    obtain ⟨hu, hblk⟩ := u.conReady_iff.mp hready
    change Host.Outcome.next (s.rxByte 0x03) = _
    rw [State.rxByte_ctrlC hlis hwait hu, State.rxNext_free hblk hfifo hovf, State.byteIn_ctrlC]
    rfl
  case framing =>
    change Host.Outcome.next s.framing = _
    rw [State.framing_idle hlis hfifo]
  case baud =>
    change Host.Outcome.next s.baudBack = _
    simp [State.baudBack, hrev, hidle]
  case idle => exact ⟨_, rfl, State.sessionEnd_effect hx (by decide)⟩
  case chal =>
    change Host.Outcome.next s.challengeEnds = _
    rw [State.challengeEnds, hc]
    rfl
  case held =>
    change Host.Outcome.next s.holdEnds = _
    rw [State.holdEnds, hheld]
  case pps =>
    change Host.Outcome.next s.ppsTimeout.conDrain = _
    rw [State.ppsTimeout, hpps]
  case image =>
    change Host.Outcome.next s.loadAbandon = _
    rw [State.loadAbandon, hl]

end Sys2Proof.Machine
namespace Sys2Proof.Machine

/-! ## Messages that CON takes (R24, R28) -/

/-- A well-formed message is taken, and acted on with its number and its payload. -/
theorem State.conTakes_good {s : State} {n : Fin 16} {kind : Nat} {c : CpuId} (hmsg : s.conMessage n kind = some c)
    (hgood : s.msgBad n = false) (f : CpuId → Byte → List Byte → State → State) :
    s.conTakes n kind f = f c (s.hatch.at n).seq (s.msgPayload n) (s.msgDone n) := by
  simp [State.conTakes, hmsg, hgood]

/-- The reply that CON waits for. -/
theorem State.appletReply_awaited {s : State} {n : Fin 16} {c : CpuId} {tag : Option Byte} (hmsg : s.conMessage n 2 = some c)
    (hgood : s.msgBad n = false) (hbusy : (s.msgDone n).con.busy = .applet tag c (s.hatch.at n).seq) :
    s.appletReply n = if s.msgSound n then (s.msgDone n).appletAnswer tag (s.msgPayload n)
      else ((s.msgDone n).laneFail 1).replyErr tag 70 := by
  simp [State.appletReply, State.conTakes_good hmsg hgood, hbusy]

/-- MODE_REQ of DOZE from SERVICE, with no change ahead of it. -/
theorem State.modeReq_doze {s : State} {n : Fin 16} {c : CpuId} (hmsg : s.conMessage n 5 = some c) (hgood : s.msgBad n = false)
    (hpay : s.msgPayload n = [7]) (hmode : (s.msgDone n).sys.mode = .service) (hpend : (s.msgDone n).sys.pend = none)
    (hhold : (s.msgDone n).holdDue = false) :
    s.modeReq n = { s.msgDone n with sys := { (s.msgDone n).sys with
      pend := some { dest := .doze, cause := 1, core := some c, seq := (s.hatch.at n).seq } } } := by
  rw [State.modeReq, State.conTakes_good hmsg hgood, hpay]
  simp only [hmode, hpend, hhold]
  rfl

/-! ## VERB_REG (R143 to R145) -/

/-- A byte of a name is no padding. -/
theorem ne_zero_of_nameChar {b : Byte} (h : nameChar b = true) : b ≠ 0 := by
  rintro rfl
  revert h
  decide

/-- A name in uppercase is a dot and 1 to 15 name characters. -/
theorem shape_of_appletName {l : List Byte} (h : appletName l = some l) : l.length ≤ 16 ∧ ∀ b ∈ l, b ≠ 0 := by
  unfold appletName at h
  split at h
  next t _ =>
    split at h
    next hshape =>
      obtain rfl := Option.some.inj h
      simp only [inRange, Bool.and_eq_true, decide_eq_true_eq, List.all_eq_true] at hshape
      obtain ⟨⟨_, hlen⟩, hchars⟩ := hshape
      refine ⟨Nat.succ_le_succ hlen, fun b hb => ?_⟩
      rcases List.mem_cons.mp hb with rfl | hb
      · decide
      · exact ne_zero_of_nameChar (hchars b hb)
    next => exact absurd h (by simp)
  next => exact absurd h (by simp)

theorem pad16_of_length_le {l : List Byte} (h : l.length ≤ 16) : pad16 l = l ++ List.replicate (16 - l.length) 0 := by
  rw [pad16, List.take_append, List.take_of_length_le h, List.take_replicate, Nat.min_eq_left (by omega)]

@[simp] theorem pad16_length (l : List Byte) : (pad16 l).length = 16 := by
  simp [pad16]

/-- The name before the padding. -/
theorem takeWhile_pad16 {l : List Byte} (hlen : l.length ≤ 16) (hne : ∀ b ∈ l, b ≠ 0) :
    (pad16 l).takeWhile (· != 0) = l := by
  rw [pad16_of_length_le hlen, List.takeWhile_append_of_pos (by simpa using hne)]
  cases 16 - l.length <;> simp [List.replicate_succ]

/-- What follows the name is padding. -/
theorem drop_pad16 {l : List Byte} (hlen : l.length ≤ 16) : ((pad16 l).drop l.length).any (· != 0) = false := by
  simp [pad16_of_length_le hlen]

/-- The payload of a VERB_REG that registers a name for all running modes, level 0, without CONFIRM (Table 1.6). -/
def regPayload (name : List Byte) : List Byte := 0 :: (pad16 name ++ [(0xF8 : Byte), 0, 0, 0, 0])

theorem regPayload_getD (name : List Byte) (i : Nat) :
    (regPayload name).getD (17 + i) 0 = [(0xF8 : Byte), 0, 0, 0, 0].getD i 0 := by
  have hlen : (pad16 name).length ≤ 16 + i := by simp
  rw [regPayload, show 17 + i = (16 + i) + 1 by omega, List.getD_cons_succ, List.getD_eq_getElem?_getD,
    List.getElem?_append_right hlen, pad16_length, Nat.add_sub_cancel_left, List.getD_eq_getElem?_getD]

theorem regPayload_raw (name : List Byte) : ((regPayload name).drop 1).take 16 = pad16 name := by
  simp [regPayload]

/-- A running mode permits updates of region C. -/
theorem State.strUpd_running {s : State} (hmode : s.sys.mode.running = true) (hrun : s.sys.stopped = false) :
    s.strUpd .c = true := by
  revert hmode
  unfold State.strUpd
  rw [hrun]
  cases s.sys.mode <;> decide

/-- A WRITE with nothing ahead of it, which finds its place, is its insert. -/
theorem State.strWrite_done {s t : State} {u : SUpd} {i : Nat} (hwriter : s.strWriter u.ent.region u.req = true)
    (hupd : s.strUpd u.ent.region = true) (hwait : s.str.wait = []) (hinval : u.inval = false)
    (hins : s.strInsert u false = (.done i, t)) : s.strWrite u = t := by
  simp [State.strWrite, State.strUpdate, hwriter, hupd, hwait, hinval, hins]

/-- A sound VERB_REG in a running mode is judged by its name's rule. -/
theorem State.verbReg_registers {s : State} {n : Fin 16} {c : CpuId} {name : List Byte} (hmsg : s.conMessage n 3 = some c)
    (hgood : s.msgBad n = false) (hmode : (s.msgDone n).sys.mode.running = true) (hpay : s.msgPayload n = regPayload name)
    (hname : appletName name = some name) :
    s.verbReg n = (s.msgDone n).regDo c (s.hatch.at n).seq false name (BitVec.ofNat 32 (0xF8 + 0x10000 * c.val)) := by
  obtain ⟨hlen, hne⟩ := shape_of_appletName hname
  have h17 : (regPayload name).getD 17 0 = 0xF8 := regPayload_getD name 0
  have h19 : (regPayload name).getD 19 0 = 0 := regPayload_getD name 2
  have h20 : (regPayload name).getD 20 0 = 0 := regPayload_getD name 3
  have h21 : (regPayload name).getD 21 0 = 0 := regPayload_getD name 4
  have h0 : (regPayload name).getD 0 0 = 0 := rfl
  have hsize : (regPayload name).length = 22 := by simp [regPayload]
  rw [State.verbReg, State.conTakes_good hmsg hgood, hpay]
  simp only [hmode, hsize, regPayload_raw, takeWhile_pad16 hlen hne, drop_pad16 hlen, hname, h0, h17, h19, h20, h21]
  rw [if_neg (by decide), if_neg (by decide)]
  rfl

/-- A new name is written to region C. -/
theorem State.regDo_new {s : State} {name : List Byte} (hnew : s.ruleEntry name = none) (c : CpuId) (seq : Byte) (w : Word) :
    s.regDo c seq false name w = s.strWrite ⟨.con c seq, ruleNew name w, false, false⟩ := by
  simp [State.regDo, hnew]

/-! ## Applet lines (R128, R146) -/

/-- What `textOk` asks of the line that the receiver gives. -/
theorem textOk_bounds {text : List Byte} (h : textOk text = true) : text.length ≤ 240 ∧ text.all printable = true := by
  simp only [textOk, Bool.and_eq_true, decide_eq_true_eq] at h
  obtain ⟨⟨_, hlen⟩, hall⟩ := h
  exact ⟨hlen, hall⟩

/-- A line of an applet verb without tag or check of its own, decided from its rule on. -/
theorem State.lineApplet_decides {s : State} {l : Line} {text : List Byte} {r : Raw} (hready : s.conReady = true)
    (hchk : s.atLine.chkMissing l.chk = false) (htext : textOk text = true) (hparse : parseLine text = some r)
    (hdot : r.verb.head? = some 0x2E) (htag : r.tag = none) (hcheck : r.check = none) :
    s.lineApplet l text = s.atLine.appletDecide l.tag l.chk true text (crc16 text) r := by
  obtain ⟨hlis, hblk⟩ := s.conReady_iff.mp hready
  obtain ⟨hlen, hall⟩ := textOk_bounds htext
  unfold State.lineApplet
  rw [hlis, hblk, hparse, if_neg (by decide)]
  dsimp only
  rw [if_pos ⟨hdot, htag, hcheck, hlen, hall⟩]
  exact if_neg (by rw [show s.lineStart.heldDrop = s.atLine from rfl, hchk]; decide)

/-- A line that its rule admits, and that needs no CONFIRM, is forwarded. -/
theorem State.appletDecide_admitted {s u : State} {tag : Option Byte} {free first : Bool} {l : List Byte} {chk : BitVec 16}
    {r : Raw} {a : SAns} (hmode : s.sys.mode.running = true) (hrule : s.ruleOf r.verb = (a, u)) (hbusy : a.isBusy = false)
    (hnone : a.none = false) (hdeny : a.deny = false) (hmodes : bitAt (ruleModes a.result) u.sys.mode.code = true)
    (hlevel : ruleLevel a.result ≤ u.level) (hdup : r.dup = false) (hprot : ruleProt a.result = false ∨ free = true) :
    s.appletDecide tag free first l chk r = u.appletForward tag a.result l chk r := by
  unfold State.appletDecide
  rw [hrule]
  rcases hprot with hprot | hprot <;>
    simp [hmode, hbusy, hnone, hdeny, hmodes, Nat.not_lt.mpr hlevel, hdup, hprot]

/-- A line without a check of its own enters the slot as it was received. -/
theorem State.appletForward_sent {s : State} {rule : Word} {text : List Byte} {r : Raw} (hrun : (s.cpu.at (ruleCore rule)).run = true)
    (hcheck : r.check = none) (tag : Option Byte) :
    s.appletForward tag rule text (crc16 text) r = ({ s with con := { s.con with
        seq := s.con.seq + 1, busy := .applet tag (ruleCore rule) s.con.seq } } : State).conSend (ruleCore rule).agent 1 s.con.seq
          ([BitVec.ofNat 8 s.level, BitVec.ofNat 8 s.sys.mode.code, tag.getD 0, BitVec.ofNat 8 (b2n tag.isSome)] ++
            appletText text r) := by
  simp [State.appletForward, hrun, lineCover, hcheck]

/-! ## The end of a wait (R30) -/

theorem State.appletGiveUp_applet {s : State} {tag : Option Byte} {c : CpuId} {seq : Byte}
    (hbusy : s.con.busy = .applet tag c seq) :
    s.appletGiveUp = if s.requestTaken c seq then ((s.requestDrop c seq).replyErr tag 71).hatchBad (HATCH_ERR_STATE .con)
      else (s.requestDrop c seq).replyErr tag 71 := by
  simp [State.appletGiveUp, hbusy]

/-- Settles O16: the messages are taken and acted on, and the line goes to its core. -/
theorem appletMessagesAct : Obligations.AppletMessagesAct := by
  unfold Obligations.AppletMessagesAct
  refine ⟨fun s n c => ⟨fun tag hmsg hgood hbusy => ?reply, ?reg, fun hmsg hgood hpay hmode hpend hhold => ?mode⟩,
    fun s l => ⟨?line, fun tag c seq hbusy => ?timeout⟩⟩
  case reply =>
    change (_ → Host.Outcome.next (s.appletReply n).conDrain = _) ∧ (_ → Host.Outcome.next (s.appletReply n).conDrain = _)
    rw [State.appletReply_awaited hmsg hgood hbusy]
    exact ⟨fun hsound => by rw [if_pos hsound], fun hsound => by rw [hsound, if_neg Bool.false_ne_true]⟩
  case reg =>
    rintro name w i u hmsg hgood hmode hrun hwait hpay hname hnew rfl hins
    change Host.Outcome.next (s.verbReg n) = _
    rw [State.verbReg_registers hmsg hgood hmode hpay hname, State.regDo_new hnew,
      State.strWrite_done rfl (State.strUpd_running hmode hrun) hwait rfl hins]
  case mode => exact congrArg Host.Outcome.next (State.modeReq_doze hmsg hgood hpay hmode hpend hhold)
  case line =>
    intro text r a u hready hchk htext hparse hdot htag hcheck hdup hmode hrule hbusy hnone hdeny hmodes hlevel hprot hrun
    change Host.Outcome.next (s.lineApplet l text) = _
    rw [State.lineApplet_decides hready hchk htext hparse hdot htag hcheck,
      State.appletDecide_admitted hmode hrule hbusy hnone hdeny hmodes hlevel hdup hprot, State.appletForward_sent hrun hcheck]
  case timeout =>
    change (_ → Host.Outcome.next s.appletGiveUp.conDrain = _) ∧ (_ → Host.Outcome.next s.appletGiveUp.conDrain = _)
    rw [State.appletGiveUp_applet hbusy]
    exact ⟨fun htaken => by rw [htaken, if_neg Bool.false_ne_true], fun htaken => by rw [if_pos htaken]⟩

end Sys2Proof.Machine
namespace Sys2Proof.Machine

/-! ## Scrubs and patrol: a clean word, group or unit (R506 to R508) -/

theorem State.sramScrub_clean {s : State} (h : s.scrubs = true) :
    s.sramScrub 0 = { s with care := { s.care with sramPtr := (s.care.sramPtr + 4) % 0x40000 } } := by
  simp [State.sramScrub, h]

theorem State.larderScrub_clean {s : State} (h : s.scrubs = true) :
    s.larderScrub 0 =
      if s.care.larderPtr + 8 = 0x40000 then
        ({ s with care := { s.care with larderPtr := (s.care.larderPtr + 8) % 0x40000 } } : State).wr LDR_STAT_SCRUB 0
      else { s with care := { s.care with larderPtr := (s.care.larderPtr + 8) % 0x40000 } } := by
  simp [State.larderScrub, h]

theorem State.patrol_clean {s : State} {u : Nat} (h : s.scrubs = true) (hunit : s.nextUnit 0x40000 s.care.patrolPtr = some u) :
    s.patrol 0 = { s with care := { s.care with patrolPtr := (u + 16) % 0x400000 } } := by
  simp only [State.patrol, h, hunit]
  rfl

/-! ## Refresh (R508) -/

/-- The oldest queued sector leaves the queue once its region's action has been taken. -/
theorem State.refreshStep_done {s t : State} {x : Nat} {rest : List Nat}
    (hmode : s.sys.mode.running = true ∨ s.sys.mode = .foundry) (hq : s.care.refresh = x :: rest)
    (hone : s.refreshOne x = some t) : s.refreshStep = { t with care := { t.care with refresh := rest } } := by
  rw [State.refreshStep, if_neg, hq]
  · simp only [hone]
  · rcases hmode with hmode | hmode <;> simp [hmode]

theorem State.refreshOne_vault {s : State} {x : Nat} (hr : refreshRegion x = 0) (hoff : s.holdoff = false) :
    s.refreshOne x = some (s.internalCommit .vault []) := by
  simp [State.refreshOne, hr, hoff]

theorem State.refreshOne_store {s : State} {x : Nat} (hr : refreshRegion x = 1) (hoff : s.holdoff = false)
    (hsrc : s.sSources = []) : s.refreshOne x = some (s.internalCommit .store []).strImage := by
  simp [State.refreshOne, hr, hoff, hsrc]

theorem State.refreshOne_wear {s : State} {x : Nat} (hr : refreshRegion x = 2) : s.refreshOne x = some (s.wearUp x) := by
  simp [State.refreshOne, hr]

/-- A sector of the records is only reported. -/
theorem State.refreshOne_report {s : State} {x : Nat} (hr : 3 ≤ refreshRegion x) :
    s.refreshOne x = some ((s.event 7 x [BitVec.ofNat 8 (refreshRegion x)]).careInfo
      ([4] ++ leBytes 2 x ++ [BitVec.ofNat 8 (refreshRegion x)])) := by
  unfold State.refreshOne
  dsimp only
  rw [if_neg (by omega), if_neg (by omega), if_neg (by omega)]

/-! ## The Attic ring (R513) -/

/-- The append engine where bank 0 is idle: HEAD's sector is erased first where it is not clean. -/
theorem State.atticAppend_erases {s : State} {r : AtticRec} {rest : List AtticRec} (h : s.scrubs = true)
    (hbank : s.bank.at 0 = .idle) (hbuf : s.care.buf = r :: rest) (hstart : s.rd ATTIC_HEAD % 0x1000 = 0)
    (hclean : s.atticClean (s.rd ATTIC_HEAD / 0x1000) = false) : s.atticAppend = s.atticErase (s.rd ATTIC_HEAD / 0x1000) := by
  simp [State.atticAppend, h, hbank, hbuf, hstart, hclean]

/-- A record that does not fill its sector is programmed at HEAD; a TELE record is shown in TELE_LAST. -/
theorem State.atticAppend_programs {s : State} {r : AtticRec} {rest : List AtticRec} (h : s.scrubs = true)
    (hbank : s.bank.at 0 = .idle) (hbuf : s.care.buf = r :: rest)
    (hclean : s.rd ATTIC_HEAD % 0x1000 ≠ 0 ∨ s.atticClean (s.rd ATTIC_HEAD / 0x1000) = true)
    (hroom : (s.rd ATTIC_HEAD + 32) % 0x1000 ≠ 0) {u : State}
    (hu : u = (s.arcPut (atticBase + s.rd ATTIC_HEAD) r.bytes).wrs
      [(ATTIC_HEAD, (s.rd ATTIC_HEAD + 32) % 0x40000), (ATTIC_SEQ, r.seq.toNat)]) :
    s.atticAppend = if r.typ = 1 then
        wrWords TELE_LAST ((List.range 8).map (fun k => Word.ofBytes (r.bytes.drop (4 * k))))
          { u with care := { u.care with buf := rest } }
      else { u with care := { u.care with buf := rest } } := by
  have hready : ¬ (s.rd ATTIC_HEAD % 0x1000 = 0 ∧ (!s.atticClean (s.rd ATTIC_HEAD / 0x1000)) = true) := by
    rcases hclean with hne | hclean <;> simp [*]
  rw [State.atticAppend, if_neg (by simp [h, hbank]), hbuf]
  dsimp only
  rw [if_neg hready, if_neg hroom, ← hu]

/-- The erase of a sector of the ring that is not clean: bank 0 erases it, and it is marked until the erase has ended. -/
theorem State.atticErase_begins {s : State} {k : Nat} (hclean : s.atticClean k = false) :
    (s.atticErase k).bank.at 0 = .erase (0x100 + k) false 0 ∧ (0x100 + k) ∈ (s.atticErase k).nv.incomplete ∧
      (s.atticErase k).care.buf = s.care.buf ∧ (s.atticErase k).mem = s.mem := by
  rw [State.atticErase, hclean, if_neg Bool.false_ne_true]
  dsimp only
  split <;> exact ⟨Tab.at_put_self _ _ _, List.mem_cons_self, rfl, rfl⟩

/-! ## The slack phase (R50, R504) -/

theorem State.slack_runs {s u : State} (hrun : s.isSet TICK_STAT_RUN = true) (h : s.scrubs = true)
    (hphase : s.tick.phase ≠ .harvest) (hclosed : (s.tick.closed || s.noneOutstanding) = true)
    (hu : u = (s.setPhase .slack s.tick.closed).pkeStates.symStates) :
    s.slack = if u.care.owing then u.careWork else u := by
  rw [State.slack, if_neg (by simp [hrun, h, hphase, hclosed]), hu]

/-- The work of a frame that owes neither a ledger compare nor a re-mask: telemetry, where it is due. -/
theorem State.careWork_telemetry {s : State} (hcmp : s.strCmpRuns = false) (hfull : s.sys.mode.careFull = false) :
    s.careWork = if s.care.teleDue then { s.teleMake with care := { s.teleMake.care with owing := false } }
      else { s with care := { s.care with owing := false } } := by
  unfold State.careWork
  rw [hcmp]
  simp only [hfull, Bool.false_eq_true, if_false, if_true]
  split <;> rfl

/-! ## The stream engine (R518) -/

/-- A packet that the host may command with is released, and its first byte obeyed. -/
theorem State.streamCtl_obeys {s : State} {b : List Byte} (hup : s.mainUp = true) (hhead : s.hasHead 55 = true)
    (hctl : (s.headRelease 55).isSet TELE_CFG_HOSTCTL = true) (hb : (s.headPacket 55).2 = b) :
    (b = [1] → s.streamCtl = (s.headRelease 55).setb TELE_STAT_STREAM) ∧
      (b = [2] → s.streamCtl = (s.headRelease 55).wr TELE_STAT_STREAM 0) ∧
      (b = [9] → s.streamCtl = (s.headRelease 55).bump TELE_STAT_REJECT) := by
  refine ⟨?_, ?_, ?_⟩ <;>
  · rintro rfl
    simp [State.streamCtl, hup, hhead, hctl, hb]

/-- Settles O26: each step of the Caretaker and the stream engine, in the branch that its premise opens. -/
theorem caretakerActs : Obligations.CaretakerActs := by
  unfold Obligations.CaretakerActs
  refine ⟨fun s => ⟨fun h => ?sram, ?refresh, fun h => ⟨_, ?larder, rfl⟩, fun u h hunit => ?patrol, ?append, ?slack,
    fun hup => ?watchdog⟩, fun s b hup hhead hctl hb => ?stream⟩
  case sram => exact congrArg Host.Outcome.next (State.sramScrub_clean h)
  case refresh =>
    intro x rest u hmode hq
    refine ⟨?_, ?_, ?_, ?_⟩
    · rintro hr hoff rfl
      exact congrArg Host.Outcome.next (State.refreshStep_done hmode hq (State.refreshOne_vault hr hoff))
    · rintro hr hoff hsrc rfl
      exact congrArg Host.Outcome.next (State.refreshStep_done hmode hq (State.refreshOne_store hr hoff hsrc))
    · rintro hr rfl
      exact congrArg Host.Outcome.next (State.refreshStep_done hmode hq (State.refreshOne_wear hr))
    · rintro hr rfl
      exact congrArg Host.Outcome.next (State.refreshStep_done hmode hq (State.refreshOne_report hr))
  case larder => exact congrArg Host.Outcome.next (State.larderScrub_clean h)
  case patrol => exact congrArg Host.Outcome.next (State.patrol_clean h hunit)
  case append =>
    rintro r rest _ u h hbank hbuf rfl hu
    refine ⟨fun hclean hroom => ?_, fun hstart hclean => ?_⟩
    · change (_ → Host.Outcome.next s.atticAppend = _) ∧ (_ → Host.Outcome.next s.atticAppend = _)
      rw [State.atticAppend_programs h hbank hbuf hclean hroom hu]
      exact ⟨fun htyp => by rw [if_neg htyp], fun htyp => by rw [if_pos htyp]⟩
    · exact ⟨_, congrArg Host.Outcome.next (State.atticAppend_erases h hbank hbuf hstart hclean), State.atticErase_begins hclean⟩
  case slack =>
    intro u hrun h hphase hclosed hu
    change (_ → Host.Outcome.next s.slack = _) ∧ (_ → Host.Outcome.next s.slack = _) ∧
      (_ → _ → _ → (_ → Host.Outcome.next s.slack = _) ∧ (_ → Host.Outcome.next s.slack = _))
    rw [State.slack_runs hrun h hphase hclosed hu]
    refine ⟨fun howing => by rw [howing, if_neg Bool.false_ne_true], fun howing => by rw [if_pos howing],
      fun howing hcmp hfull => ?_⟩
    rw [if_pos howing, State.careWork_telemetry hcmp hfull]
    exact ⟨fun hdue => by rw [hdue, if_neg Bool.false_ne_true], fun hdue => by rw [if_pos hdue]⟩
  case watchdog =>
    change Host.Outcome.next s.careRestart = _
    rw [State.careRestart, hup]
    rfl
  case stream =>
    obtain ⟨hstart, hstop, hreject⟩ := State.streamCtl_obeys hup hhead hctl hb
    exact ⟨fun h => congrArg Host.Outcome.next (hstart h), fun h => congrArg Host.Outcome.next (hstop h),
      fun h => congrArg Host.Outcome.next (hreject h)⟩

end Sys2Proof.Machine
namespace Sys2Proof.Machine

/-! ## Lines of a hardware verb (R128, R150) -/

/-- A row that stands for a whole line is the decision of its form. -/
theorem exec_line {c : Instr} {l : Line} {v : Verb} (h : c.line? = some (l, v)) (s : State) :
    exec c s = .next (s.lineVerb l v) := by
  cases c <;> cases h <;> rfl

/-- A line that passes is performed (step 9 of Table 4.5). -/
theorem exec_line_passes {s : State} {c : Instr} {l : Line} {v : Verb} (hready : s.conReady = true) (hpass : s.passes l v = true)
    (h : c.line? = some (l, v)) (hname : v.name ≠ .confirm := by simp [Verb.name]) :
    exec c s = .next (s.atLine.perform l.tag s.con.chal v) := by
  rw [exec_line h, State.lineVerb_passes hready hname hpass]

/-! ## Writes that wait (R2, R5) -/

/-- The writes to one field, after one more write. -/
theorem State.filter_waitPut (s : State) (a : Agent) (f g : Field) (v : Nat) :
    (s.waitPut a f v).shadow.filter (fun w => w.fld == g) =
      if f = g then [⟨a, f, BitVec.ofNat 32 v⟩] else s.shadow.filter (fun w => w.fld == g) := by
  rw [State.waitPut, List.filter_append, List.filter_filter]
  split
  next hfg =>
    subst hfg
    have hnone : s.shadow.filter (fun w => (w.fld == f) && (w.fld != f)) = [] := by
      simp [List.filter_eq_nil_iff]
    rw [hnone]
    simp
  next hfg =>
    have hsame : ∀ w ∈ s.shadow, ((w.fld == g) && (w.fld != f)) = (w.fld == g) := by
      intro w _
      by_cases hw : w.fld = g
      · simp [hw, Ne.symm hfg]
      · simp [hw]
    rw [List.filter_congr hsame]
    simp [hfg]

/-- Several fields written by CON, in order. -/
def State.waitPuts (s : State) (l : List (Field × Nat)) : State := l.foldl (fun s e => s.waitPut .con e.1 e.2) s

@[simp] theorem State.waitPuts_cons (s : State) (e : Field × Nat) (l : List (Field × Nat)) :
    s.waitPuts (e :: l) = (s.waitPut .con e.1 e.2).waitPuts l := rfl

/-- Only the waiting writes change. -/
theorem State.waitPuts_eq (s : State) (l : List (Field × Nat)) : s.waitPuts l = { s with shadow := (s.waitPuts l).shadow } := by
  induction l generalizing s with
  | nil => rfl
  | cons e l ih =>
    rw [State.waitPuts_cons, ih]
    rfl

/-- The writes to a field that is none of those written stay. -/
theorem State.filter_waitPuts_other {g : Field} {l : List (Field × Nat)} (s : State) (h : g ∉ l.map Prod.fst) :
    (s.waitPuts l).shadow.filter (fun w => w.fld == g) = s.shadow.filter (fun w => w.fld == g) := by
  induction l generalizing s with
  | nil => rfl
  | cons e l ih =>
    rw [List.map_cons, List.mem_cons, not_or] at h
    obtain ⟨hhead, htail⟩ := h
    rw [State.waitPuts_cons, ih _ htail, State.filter_waitPut, if_neg (Ne.symm hhead)]

/-- Each of several different fields waits with its own value, once. -/
theorem State.filter_waitPuts_mem {l : List (Field × Nat)} (s : State) (hdistinct : (l.map Prod.fst).Nodup) :
    ∀ e ∈ l, (s.waitPuts l).shadow.filter (fun w => w.fld == e.1) = [⟨.con, e.1, BitVec.ofNat 32 e.2⟩] := by
  induction l generalizing s with
  | nil => exact fun e he => absurd he List.not_mem_nil
  | cons d l ih =>
    obtain ⟨hhead, htail⟩ := List.nodup_cons.mp hdistinct
    intro e he
    rw [State.waitPuts_cons]
    rcases List.mem_cons.mp he with rfl | he
    · rw [State.filter_waitPuts_other _ hhead, State.filter_waitPut, if_pos rfl]
    · exact ih _ htail e he

theorem State.mem_waitPuts_other {w : ShadowWrite} {l : List (Field × Nat)} (s : State) (h : w.fld ∉ l.map Prod.fst) :
    w ∈ (s.waitPuts l).shadow ↔ w ∈ s.shadow := by
  have hiff : ∀ sh : List ShadowWrite, w ∈ sh ↔ w ∈ sh.filter (fun x => x.fld == w.fld) := by simp
  rw [hiff, State.filter_waitPuts_other s h, ← hiff]

/-! ## The words of a port's form (R168) -/

/-- The fields that a port's form writes, with their values. -/
def portWrites (p : PortId) (c : PortCfg) : List (Field × Nat) :=
  [(PORT_FUNC_FN p, c.fn.toNat), (PORT_CFG_FILT p, c.cfg.toNat % 4096), (PORT_CFG_PULLA p, c.cfg.toNat / 2 ^ 12 % 4),
    (PORT_CFG_PULLB p, c.cfg.toNat / 2 ^ 14 % 4), (PORT_CFG_AUTOCLR p, c.cfg.toNat / 2 ^ 16 % 2), (PORT_PAR p 0, c.par0.toNat),
    (PORT_PAR p 1, c.par1.toNat), (PORT_PAR p 2, c.par2.toNat), (PORT_PAR p 3, c.par3.toNat)]

theorem portWrites_fst (p : PortId) (c : PortCfg) :
    (portWrites p c).map Prod.fst = PORT_FUNC_FN p :: PORT_CFG_FILT p :: PORT_CFG_PULLA p :: PORT_CFG_PULLB p ::
      PORT_CFG_AUTOCLR p :: (finList 4).map (PORT_PAR p) := rfl

/-- The nine fields of a port are different ones. -/
theorem portWrites_distinct (p : PortId) (c : PortCfg) : ((portWrites p c).map Prod.fst).Nodup := by
  rw [portWrites_fst]
  revert p
  decide

theorem State.doPortFn_eq (s : State) (tag : Option Byte) (p : PortId) (c : PortCfg) :
    s.doPortFn tag p c = (s.waitPuts (portWrites p c)).waitCommit tag (.portFn p c) := by
  simp only [State.doPortFn, State.waitPuts, portWrites, bits, Nat.pow_zero, Nat.div_one, Nat.reducePow]

/-! ## What the forms ask for (R36, R54, R163, R167) -/

theorem State.doMode_legal {s : State} {dest : Mode} {lv : Nat} (hgoes : s.sys.mode.goes dest = some lv)
    (hpend : s.sys.pend = none) (hhold : s.holdDue = false) (tag : Option Byte) :
    s.doMode tag dest =
      ({ s with sys := { s.sys with pend := some { dest := dest, cause := 0 } } } : State).waitCommit tag (.modeChange dest) := by
  simp [State.doMode, hgoes, hpend, hhold]

theorem State.doTickSet_both (s : State) (tag : Option Byte) (p b : Nat) :
    s.doTickSet tag (some p) (some b) =
      (if perCode p ≠ s.rd TICK_CFG_PER then
          ((s.waitPut .con TICK_CFG_PER (perCode p)).waitPut .con TICK_CFG_BGF b).setb TICK_STAT_PERPEND
        else (s.waitPut .con TICK_CFG_PER (perCode p)).waitPut .con TICK_CFG_BGF b).waitCommit tag (.tickSet (some p) (some b)) := rfl

theorem State.doTickSet_floor (s : State) (tag : Option Byte) (b : Nat) :
    s.doTickSet tag none (some b) = (s.waitPut .con TICK_CFG_BGF b).waitCommit tag (.tickSet none (some b)) := by
  simp [State.doTickSet]

theorem State.doCalK_pulse {s : State} {p : PortId} (hfn : s.pfn p = .pulse)
    (hfix : (s.isSet (PORT_FUNC_FIX p) && !s.rwsOpen) = false) (tag : Option Byte) (k : Nat) :
    s.doCalK tag p k =
      (s.waitPut .con (PORT_PAR p 1) (s.rd (PORT_PAR p 1) - s.kInForce p + k)).waitCommit tag (.calK p k) := by
  rw [State.doCalK, if_neg (not_not_intro hfn), hfix, if_neg Bool.false_ne_true]

/-! ## The replies of the forms that waited (R150) -/

theorem exec_verbCommitReply (s : State) : exec .verbCommitReply s = .next s.commitReply.conDrain := rfl

theorem State.commitReply_took {s : State} {tag : Option Byte} {v : Verb} (h : s.con.busy = .commit tag v .took) :
    s.commitReply = s.replyOk tag (s.tookText v) := by
  rw [State.commitReply, h]

theorem State.commitReply_refused {s : State} {tag : Option Byte} {v : Verb} {code : Nat} {d : List Byte}
    (h : s.con.busy = .commit tag v (.refused code d)) : s.commitReply = s.replyErr tag code d := by
  rw [State.commitReply, h]

/-- A KEY form whose Vault command has ended well. -/
theorem State.commitReply_key {s : State} {tag : Option Byte} {v : Verb} (hname : v.name = .key)
    (h : s.con.busy = .commit tag v .issued) (hruns : s.vltRuns = false) (hcode : s.rd (VLT_STAT_CODE .con) = 0) :
    s.commitReply = s.replyOk tag (s.keyText v) := by
  rw [State.commitReply, h]
  split
  next hb => cases hb
  next hb => cases hb
  next hb =>
    cases hb
    exact absurd hname (by simp [Verb.name])
  next _ hb =>
    cases hb
    simp [hruns, hcode]
  next _ hne => exact absurd rfl (hne tag v)

/-- Settles O9: each form that passes leaves what it asks for in the shadow or as the pending mode, and the reply tells what
became of it. -/
theorem waitingFormsAct : Obligations.WaitingFormsAct := by
  unfold Obligations.WaitingFormsAct
  refine ⟨fun s l hready => ⟨fun dest lv hpass hgoes hpend hhold => ?mode, fun c n hpass => ?ring, fun p b hpass => ?tick,
    fun b hpass => ?floor, fun p k hpass hfn hfix => ?calK, fun p c hpass => ?port, fun k c a0 a1 h hpass => ?size,
    fun n r f hpass => ?watchSet, fun n r hpass => ?watchFloor, fun n hpass => ?arm, fun n hpass => ?disarm,
    fun t hpass => ?tele⟩, fun s tag v => ⟨fun h => ?took, fun code d h => ?refused, fun hname h hruns hcode => ?key⟩⟩
  case mode =>
    rw [exec_line_passes hready hpass rfl]
    exact congrArg Host.Outcome.next (State.doMode_legal hgoes hpend hhold l.tag)
  case ring => exact exec_line_passes hready hpass rfl
  case tick => exact exec_line_passes hready hpass rfl
  case floor =>
    rw [exec_line_passes hready hpass rfl]
    exact congrArg Host.Outcome.next (State.doTickSet_floor _ _ _)
  case calK =>
    rw [exec_line_passes hready hpass rfl]
    exact congrArg Host.Outcome.next (State.doCalK_pulse hfn hfix _ _)
  case port =>
    refine ⟨s.atLine.waitPuts (portWrites p c), ?_, State.waitPuts_eq _ _, State.filter_waitPuts_mem _ (portWrites_distinct p c),
      fun w hw => State.mem_waitPuts_other s.atLine hw⟩
    rw [exec_line_passes hready hpass rfl]
    exact congrArg Host.Outcome.next (State.doPortFn_eq _ _ _ _)
  case size => exact exec_line_passes hready hpass rfl
  case watchSet => exact exec_line_passes hready hpass rfl
  case watchFloor => exact exec_line_passes hready hpass rfl
  case arm => exact exec_line_passes hready hpass rfl
  case disarm => exact exec_line_passes hready hpass rfl
  case tele => exact exec_line_passes hready hpass rfl
  case took => rw [exec_verbCommitReply, State.commitReply_took h]
  case refused => rw [exec_verbCommitReply, State.commitReply_refused h]
  case key => rw [exec_verbCommitReply, State.commitReply_key hname h hruns hcode]

end Sys2Proof.Machine
namespace Sys2Proof.Machine

/-! ## What leaves the modes alone

`State.sys` holds the mode, the mode before it, and what waits to change it. Each operation below leaves it. -/

/-- A part of the state that no step of a fold changes. -/
theorem foldl_proj {α β : Type} (p : State → β) {f : State → α → State} (hf : ∀ s a, p (f s a) = p s) (l : List α)
    (s : State) : p (l.foldl f s) = p s := by
  induction l generalizing s with
  | nil => rfl
  | cons a l ih => exact (ih _).trans (hf s a)

@[simp] theorem State.wrs_sys (s : State) (l : List (Field × Nat)) : (s.wrs l).sys = s.sys := by
  rw [State.wrs_eq]

@[simp] theorem State.wrs_tick (s : State) (l : List (Field × Nat)) : (s.wrs l).tick = s.tick := by
  rw [State.wrs_eq]

@[simp] theorem State.ipend_sys (s : State) (c : CpuId) (src : Nat) : (s.ipend c src).sys = s.sys := rfl

@[simp] theorem State.ipendAll_sys (s : State) (src : Nat) : (s.ipendAll src).sys = s.sys := rfl

@[simp] theorem State.notice_sys (s : State) (t : List Byte) : (s.notice t).sys = s.sys := (s.sends_notice t).sys

/-! ### What CON sends through the Hatch -/

@[simp] theorem State.slotFree_sys (s : State) (n : Fin 16) : (s.slotFree n).sys = s.sys := rfl

@[simp] theorem State.post_sys (s : State) (n : Fin 16) : (s.post n).sys = s.sys := by
  unfold State.post
  dsimp only
  split <;> rfl

@[simp] theorem State.sendFrags_sys (s : State) (m : HatchMsg) (k : Nat) (ps : List (List Byte)) (ns : List (Fin 16)) :
    (s.sendFrags m k ps ns).sys = s.sys := by
  induction ps generalizing s k ns with
  | nil => rfl
  | cons p ps ih =>
    cases ns with
    | nil => rfl
    | cons n ns => simp [State.sendFrags, ih]

theorem State.conFlushFuel_sys (f : Nat) (s : State) : (State.conFlushFuel f s).sys = s.sys := by
  induction f generalizing s with
  | zero => rfl
  | succ f ih =>
    unfold State.conFlushFuel
    split
    · rfl
    · dsimp only
      split
      · rw [ih, State.sendFrags_sys]
      · rfl

@[simp] theorem State.conSend_sys (s : State) (dest : Agent) (kind seq : Byte) (pay : List Byte) :
    (s.conSend dest kind seq pay).sys = s.sys := State.conFlushFuel_sys _ _

@[simp] theorem State.modeAck_sys (s : State) (p : PendMode) (status : Nat) : (s.modeAck p status).sys = s.sys := by
  unfold State.modeAck
  split
  · exact State.conSend_sys _ _ _ _ _
  · rfl

/-- A discarded change is gone, and the mode stays. -/
theorem State.pendDiscard_mode (s : State) : s.pendDiscard.sys.mode = s.sys.mode := by
  unfold State.pendDiscard
  split
  · rw [State.modeAck_sys]
    rfl
  · rfl

/-! ### Jobs and engines -/

@[simp] theorem State.strAsk_sys (s : State) (r : Region) (key : BitVec 160) : (s.strAsk r key).2.sys = s.sys := by
  unfold State.strAsk State.strSearch State.strScan
  split
  · rfl
  split
  · dsimp only
    split <;> rfl
  · rfl

@[simp] theorem State.sramPut_sys (s : State) (a : Nat) (l : List Byte) : (s.sramPut a l).sys = s.sys := by
  unfold State.sramPut State.unitPut
  split
  · rw [State.putBytes_eq]
    dsimp only
    split <;> rfl
  · rfl

theorem State.batchRun_sys (r : Region) (kadr radr n k : Nat) (s : State) :
    (State.batchRun r kadr radr n k s).sys = s.sys := by
  induction n generalizing k s with
  | zero => rfl
  | succ n ih =>
    unfold State.batchRun
    dsimp only
    rw [ih, State.sramPut_sys, State.strAsk_sys]

@[simp] theorem State.strProgress_sys (s : State) : s.strProgress.sys = s.sys := by
  unfold State.strProgress
  repeat' split
  · rfl
  · rfl
  · rfl
  next hchoice => exact (State.batchRun_sys _ _ _ _ _ _).trans (congrArg (fun r => r.2.sys) hchoice).symm

@[simp] theorem State.jobAbort_sys (s : State) (j : JobId) (status : Nat) (reset : Bool) :
    (s.jobAbort j status reset).sys = s.sys := by
  unfold State.jobAbort
  repeat' split
  · rfl
  · exact State.wrs_sys _ _
  · rfl
  · rfl
  · rfl

@[simp] theorem State.jobCancelAll_sys (s : State) (reset : Bool) : (s.jobCancelAll reset).sys = s.sys :=
  foldl_proj State.sys (fun s j => s.jobAbort_sys j 5 reset) _ s

/-! ## A mode change (R20, R77, R90, R91) -/

/-- The way back to SERVICE waits, and the mode stays. -/
theorem State.sessionBack_mode (s : State) (x : Session) :
    (s.sessionBack x).sys.mode = s.sys.mode ∧ (s.sessionBack x).sys.prev = s.sys.prev := by
  unfold State.sessionBack
  split <;> exact ⟨rfl, rfl⟩

theorem State.sessionEnd_mode (s : State) {reason : String} (hr : reason ≠ "") :
    (s.sessionEnd reason).sys.mode = s.sys.mode ∧ (s.sessionEnd reason).sys.prev = s.sys.prev := by
  cases hx : s.con.session with
  | none =>
    rw [State.sessionEnd, hx]
    exact ⟨rfl, rfl⟩
  | some x =>
    rw [State.sessionEnd_some hx hr, State.notice_sys]
    obtain ⟨hmode, hprev⟩ := s.sessionGone.consoleLoadEnd.sessionBack_mode x
    rw [hmode, hprev, State.consoleLoadEnd_sys]
    exact ⟨rfl, rfl⟩

theorem State.conModeChange_mode (s : State) (own : Bool) :
    (s.conModeChange own).sys.mode = s.sys.mode ∧ (s.conModeChange own).sys.prev = s.sys.prev := by
  have hload := State.loadAbandon_sys { s with con := { s.con with held := none, stage := none } }
  unfold State.conModeChange
  dsimp only
  split
  · rw [hload]
    exact ⟨rfl, rfl⟩
  · obtain ⟨hmode, hprev⟩ := State.sessionEnd_mode
      ({ s with con := { s.con with held := none, stage := none } } : State).loadAbandon (reason := "MODE") (by decide)
    rw [hmode, hprev, hload]
    exact ⟨rfl, rfl⟩

@[simp] theorem State.modeRec_sys (s : State) (frm dest cause info level : Nat) :
    (s.modeRec frm dest cause info level).sys = s.sys := State.attic_sys _ _ _ _

/-- What shows a mode change leaves the mode and the one before it. -/
theorem State.modeShown_mode (s : State) (own : Bool) (src : Nat) (t : List Byte) :
    (((s.conModeChange own).ipendAll src).notice t).sys.mode = s.sys.mode ∧
      (((s.conModeChange own).ipendAll src).notice t).sys.prev = s.sys.prev := by
  rw [State.notice_sys, State.ipendAll_sys]
  exact s.conModeChange_mode own

/-- The mode entered, and the mode left. -/
theorem State.modeEnter_mode (s : State) (dest : Mode) (cause info : Nat) (own : Bool) :
    (s.modeEnter dest cause info own).sys.mode = dest ∧ (s.modeEnter dest cause info own).sys.prev = s.sys.mode := by
  unfold State.modeEnter
  extract_lets frm level probe sys con s1 s2
  have hs1 : (s1.modeRec frm.code dest.code cause info level).sys = s1.sys := State.modeRec_sys _ _ _ _ _ _
  obtain ⟨hmode, hprev⟩ := (s1.modeRec frm.code dest.code cause info level).modeShown_mode own 3
    (txt "!MODE" ++ fld "from" frm.name ++ fld "to" dest.name)
  exact ⟨hmode.trans (congrArg Sys.mode hs1), hprev.trans (congrArg Sys.prev hs1)⟩

@[simp] theorem State.enginesEnd_sys (s : State) (pcode scode : Nat) : (s.enginesEnd pcode scode).sys = s.sys := rfl

theorem State.holdEnter_mode (s : State) : s.holdEnter.sys.mode = .hold ∧ s.holdEnter.sys.prev = s.sys.mode := by
  unfold State.holdEnter
  extract_lets s1
  have hs1 : s1.sys = s.pendDiscard.sys := by
    rw [State.enginesEnd_sys, State.jobCancelAll_sys, State.strProgress_sys]
  obtain ⟨hmode, hprev⟩ := s1.modeEnter_mode .hold s.holdCause.1 s.holdCause.2 false
  exact ⟨hmode, hprev.trans ((congrArg Sys.mode hs1).trans s.pendDiscard_mode)⟩

theorem State.holdLeave_mode (s : State) : s.holdLeave.sys.mode = s.sys.prev := by
  obtain ⟨hmode, _⟩ := s.modeEnter_mode s.sys.prev 7 0xFF false
  unfold State.holdLeave
  dsimp only
  split
  · exact hmode
  · exact hmode

@[simp] theorem State.commitTo_sys (s : State) (st : CommitState) : (s.commitTo st).sys = s.sys := by
  unfold State.commitTo
  split <;> rfl

@[simp] theorem State.sessionEnters_sys (s : State) (dest : Mode) : (s.sessionEnters dest).sys = s.sys := by
  unfold State.sessionEnters
  split <;> rfl

/-- A choice between states that agree on the modes. -/
theorem sys_ite {c : Prop} [Decidable c] {t u : State} (h : t.sys = u.sys) : (if c then t else u).sys = u.sys := by
  split
  · exact h
  · rfl

theorem State.pendTake_mode (s : State) (p : PendMode) : (s.pendTake p).sys.mode = p.dest := by
  unfold State.pendTake
  refine (congrArg Sys.mode ((State.modeAck_sys _ _ _).trans ((sys_ite ?own).trans (sys_ite ?workshop)))).trans
    (State.modeEnter_mode _ _ _ _ _).1
  case own => exact (State.commitTo_sys _ _).trans (State.sessionEnters_sys _ _)
  case workshop => rfl

/-- The causes of HOLD end, and the mode stays. -/
theorem State.holdEvents_mode (s : State) : s.holdEvents.sys.mode = s.sys.mode ∧ s.holdEvents.sys.prev = s.sys.prev := by
  unfold State.holdEvents
  split <;> exact ⟨rfl, rfl⟩

theorem State.holdEvents_stay {s : State} (h : s.sys.mode ≠ .hold) : s.holdEvents = s := if_neg h

/-- HOLD comes first. -/
theorem State.modeStep_holdDue {s : State} (h : s.holdDue = true) : s.modeStep = s.holdEnter.holdEvents := by
  rw [State.modeStep, if_pos h]

/-- Then a change that was asked for. -/
theorem State.modeStep_pend {s : State} {p : PendMode} (hhold : s.holdDue = false) (hmode : s.sys.mode ≠ .hold)
    (hpend : s.sys.pend = some p) : s.modeStep = (s.pendTake p).holdEvents := by
  rw [State.modeStep, hhold, if_neg Bool.false_ne_true, if_neg hmode, hpend]

theorem State.modeStep_stay {s : State} (hhold : s.holdDue = false) (hmode : s.sys.mode ≠ .hold) (hpend : s.sys.pend = none) :
    s.modeStep = s := by
  rw [State.modeStep, hhold, if_neg Bool.false_ne_true, if_neg hmode, hpend]
  exact State.holdEvents_stay hmode

/-- Without a cause HOLD ends. -/
theorem State.modeStep_holdLeave {s : State} (hmode : s.sys.mode = .hold) (hvcc : s.sys.holdVcc = false)
    (hsrc : s.sys.holdSrc = []) : s.modeStep = s.holdLeave.holdEvents := by
  have hdue : s.holdDue = false := by
    rw [State.holdDue, hmode]
    rfl
  rw [State.modeStep, hdue, if_neg Bool.false_ne_true, if_pos hmode, hvcc, hsrc, if_neg (by decide)]

/-! ## The new frame (R49, R61, R69) -/

theorem Tab.at_ofFn {n : Nat} {α : Type} (f : Nat → α) (i : Fin n) : (Tab.ofFn n f).at i = f i.val := by
  simp [Tab.ofFn, Tab.at]

@[simp] theorem finOf_val {n : Nat} [NeZero n] (i : Fin n) : finOf n i.val = i := Fin.ofNat_val_eq_self i

theorem State.raCancel_proj {β : Type} (p : State → β) (hp : ∀ s l, p (State.wrs s l) = p s) (s : State) (f : Fin 16 → Bool) :
    p (s.raCancel f) = p s := by
  refine foldl_proj p (fun t m => ?_) _ s
  dsimp only
  split
  · exact hp _ _
  · rfl

theorem State.frameStep_tick (s : State) (cancel : Bool) :
    (s.frameStep cancel).tick = { s.tick with
      frame := s.tick.frame + 1, phase := .harvest, closed := false, ahead := [], cancel := false, kick := 0,
      kicked := s.tick.kicked ||| s.tick.kick } := by
  unfold State.frameStep
  dsimp only
  split
  · exact State.raCancel_proj State.tick State.wrs_tick _ _
  · rfl

theorem State.frameStep_sys (s : State) (cancel : Bool) : (s.frameStep cancel).sys = s.sys := by
  unfold State.frameStep
  dsimp only
  split
  · exact State.raCancel_proj State.sys State.wrs_sys _ _
  · rfl

/-- A released job comes an edge nearer to its deadline. -/
theorem State.edgesDown_inst {s : State} {j : JobId} {i : JobInst} (h : s.tick.inst.at j = some i) :
    s.edgesDown.tick.inst.at j = some { i with edges := i.edges - 1, overdue := i.overdue || decide (i.edges ≤ 1) } := by
  simp only [State.edgesDown, Tab.at_ofFn, finOf_val, h, Option.map_some]

/-! ## A write that waits alone (R2, R20) -/

/-- A port's configuration is no plain write. -/
theorem portCfgFields_off (p : PortId) : ∀ f ∈ portCfgFields p, 0x2000 ≤ f.off ∧ f.off < 0x3800 := by
  revert p
  decide

theorem off_of_waitOf_plain {f : Field} (h : waitOf f = .plain) : ¬ (0x2000 ≤ f.off ∧ f.off < 0x3800) := by
  intro hoff
  unfold waitOf at h
  dsimp only at h
  split at h
  · cases h
  split at h
  · cases h
  split at h <;> cases h

theorem not_mem_portCfgFields {f : Field} (h : waitOf f = .plain) (p : PortId) : f ∉ portCfgFields p :=
  fun hmem => off_of_waitOf_plain h (portCfgFields_off p f hmem)

/-- No port is judged where no write to one waits. -/
theorem State.portOrder_plain {s : State} {x : ShadowWrite} (hs : s.shadow = [x]) (hx : waitOf x.fld = .plain) :
    s.portOrder = [] := by
  have hnone : (finList 24).filterMap (fun _ => (none : Option (Nat × PortId))) = [] :=
    List.filterMap_eq_nil_iff.mpr fun _ _ => rfl
  simp only [State.portOrder, List.contains_eq_mem, hs, List.zipIdx_cons, Nat.zero_add, List.zipIdx_nil,
    not_mem_portCfgFields hx, decide_false, Bool.false_eq_true, not_false_eq_true, List.filter_cons_of_neg,
    List.filter_nil, List.isEmpty_nil, ↓reduceIte, List.getLast?_nil, Option.map_none, hnone, List.mergeSort_nil,
    List.map_nil]

theorem waits_plain {x : ShadowWrite} (hx : waitOf x.fld = .plain) (k : Wait) : waits [x] k = if k = .plain then [x] else [] := by
  by_cases hk : k = .plain
  · simp [waits, hx, hk]
  · simp [waits, hx, hk, Ne.symm hk]

theorem State.commitTickCfg_nil {s : State} (h : s.tick.cfg = none) : s.commitTickCfg [] = s := by
  simp [State.commitTickCfg, waitVal, h]

theorem State.commitAreas_nil (s : State) : s.commitAreas [] = s := foldl_proj id (fun _ _ => rfl) _ s

theorem State.commitCx_nil (s : State) : s.commitCx [] = s := foldl_proj id (fun _ _ => rfl) _ s

theorem State.commitVerb_idle {s : State} (h : s.con.busy = .idle) : s.commitVerb = none := by
  rw [State.commitVerb, h]

theorem State.commitPorts_nil {s : State} (horder : s.portOrder = []) (hidle : s.con.busy = .idle) : s.commitPorts [] = s := by
  simp [State.commitPorts, horder, State.commitVerb_idle hidle]

theorem State.commitRest_idle {s : State} (hidle : s.con.busy = .idle) (old : State) : State.commitRest old s = s := by
  rw [State.commitRest, State.commitVerb_idle hidle]

/-- A write to no register of CON's Vault copy that acts. -/
theorem State.commitVlt_plain {s : State} {x : ShadowWrite} (hwin : x.fld ≠ VLT_WIN .con) (hcmd : x.fld ≠ VLT_CMD_CMD .con) :
    s.commitVlt [x] = s := by
  simp [State.commitVlt, hwin, hcmd]

/-- Every kind of waiting write has been judged, up to the arming of the ports. -/
def State.commitKinds (s : State) : State :=
  let l := s.shadow
  let s1 := (((s.puts (waits l .plain)).commitVlt l).commitFloors (waits l .floor)).commitTickCfg (waits l .tickCfg)
  let s2 := (((s1.commitJobs (waits l .job)).commitQueues (waits l .queue)).commitSizes (waits l .size)).commitAreas (waits l .area)
  let s3 := (s2.commitPorts (waits l .port)).commitCx (waits l .cx)
  (waits l .arm).foldl State.commitArm s3

/-- The writes that wait, replaced. -/
def State.shadowSet (s : State) (l : List ShadowWrite) : State := { s with shadow := l }

/-- What follows: the form that waits, and the shelf length with the writes to it that stay. -/
def State.commitFinish (old s : State) (rest : List ShadowWrite) : State :=
  let s5 := (State.commitRest old (s.shadowSet rest)).shelfLenCommit
  { s5 with eng := { s5.eng with lenDue := !s5.shadow.isEmpty } }

theorem State.commitAll_eq (s : State) : s.commitAll = State.commitFinish s s.commitKinds (waits s.shadow .shelf) := rfl

/-- A plain write that waits alone takes its place. -/
theorem State.commitKinds_plain {s : State} {x : ShadowWrite} (hs : s.shadow = [x]) (hx : waitOf x.fld = .plain)
    (hwin : x.fld ≠ VLT_WIN .con) (hcmd : x.fld ≠ VLT_CMD_CMD .con) (hidle : s.con.busy = .idle) (hcfg : s.tick.cfg = none) :
    s.commitKinds = s.wr x.fld x.val.toNat := by
  have hputs : s.puts [x] = s.wr x.fld x.val.toNat := rfl
  have horder : (s.wr x.fld x.val.toNat).portOrder = [] := State.portOrder_plain hs hx
  have hfloors : (s.wr x.fld x.val.toNat).commitFloors [] = s.wr x.fld x.val.toNat := rfl
  have hjobs : (s.wr x.fld x.val.toNat).commitJobs [] = s.wr x.fld x.val.toNat := rfl
  have hqueues : (s.wr x.fld x.val.toNat).commitQueues [] = s.wr x.fld x.val.toNat := rfl
  have hsizes : (s.wr x.fld x.val.toNat).commitSizes [] = s.wr x.fld x.val.toNat := rfl
  unfold State.commitKinds
  simp only [hs, waits_plain hx, if_true, reduceCtorEq, if_false, hputs]
  rw [State.commitVlt_plain hwin hcmd, hfloors, State.commitTickCfg_nil (s := s.wr x.fld x.val.toNat) hcfg, hjobs, hqueues,
    hsizes, State.commitAreas_nil, State.commitPorts_nil horder hidle, State.commitCx_nil, List.foldl_nil]

/-- Without a waiting write the shelf length stays, and only SHELFPEND may fall. -/
theorem State.shelfLenCommit_nil {s : State} (hs : s.shadow = []) :
    s.shelfLenCommit.shadow = [] ∧ ∀ g : Field, g.key ≠ PKE_STAT_SHELFPEND.key → s.shelfLenCommit.rd g = s.rd g := by
  unfold State.shelfLenCommit
  split
  · exact ⟨hs, fun g _ => rfl⟩
  · rw [hs]
    refine ⟨?_, fun g hg => (State.rd_wr_ne _ _ _ _ (Ne.symm hg)).trans rfl⟩
    change s.shadow.filter _ = []
    rw [hs, List.filter_nil]

theorem State.relockStep_off {s : State} (h : s.sys.relock = false) : s.relockStep = s := by
  rw [State.relockStep, h, if_neg Bool.false_ne_true]

theorem State.shelfLenCommit_sys (s : State) : s.shelfLenCommit.sys = s.sys := by
  unfold State.shelfLenCommit
  split
  · rfl
  · exact foldl_proj State.sys (f := fun (s : State) (e : ShadowWrite) => s.wr PKE_SHELFCFG_LEN e.val.toNat) (fun _ _ => rfl) _ s

/-- Where no form and no shelf length waits, the registers stay, but for SHELFPEND. -/
theorem State.commitFinish_idle {s : State} (hidle : s.con.busy = .idle) (old : State) :
    (State.commitFinish old s []).sys = s.sys ∧ (State.commitFinish old s []).shadow = [] ∧
      ∀ g : Field, g.key ≠ PKE_STAT_SHELFPEND.key → (State.commitFinish old s []).rd g = s.rd g := by
  unfold State.commitFinish
  rw [State.commitRest_idle (s := s.shadowSet []) hidle]
  obtain ⟨hshadow, hrd⟩ := State.shelfLenCommit_nil (s := s.shadowSet []) rfl
  exact ⟨(s.shadowSet []).shelfLenCommit_sys, hshadow, hrd⟩

/-- The registers after the commit of a plain write that waits alone. -/
theorem State.commitAll_plain {s : State} {x : ShadowWrite} (hs : s.shadow = [x]) (hx : waitOf x.fld = .plain)
    (hwin : x.fld ≠ VLT_WIN .con) (hcmd : x.fld ≠ VLT_CMD_CMD .con) (hwidth : x.fld.width ≤ 32)
    (hkey : x.fld.key ≠ PKE_STAT_SHELFPEND.key) (hidle : s.con.busy = .idle) (hcfg : s.tick.cfg = none) :
    s.commitAll.sys = s.sys ∧ s.commitAll.rd x.fld = x.val.toNat % 2 ^ x.fld.width ∧ s.commitAll.shadow = [] ∧
      ∀ g : Field, g.key ≠ x.fld.key → g.key ≠ PKE_STAT_SHELFPEND.key → s.commitAll.rd g = s.rd g := by
  obtain ⟨hsys, hshadow, hrd⟩ := State.commitFinish_idle (s := s.wr x.fld x.val.toNat) hidle s
  rw [State.commitAll_eq, State.commitKinds_plain hs hx hwin hcmd hidle hcfg, hs, waits_plain hx, if_neg (by decide)]
  refine ⟨hsys, ?_, hshadow, fun g hg hpend => ?_⟩
  · rw [hrd x.fld hkey, State.rd_wr_self _ _ _ hwidth]
  · rw [hrd g hpend, State.rd_wr_ne _ _ _ _ (Ne.symm hg)]

/-! ## The boundary -/

/-- The new frame (R49), with every released job an edge nearer to its deadline. -/
theorem State.frameStep_edgesDown (n : State) (cancel : Bool) :
    (n.frameStep cancel).edgesDown.tick.phase = .harvest ∧ (n.frameStep cancel).edgesDown.tick.closed = false ∧
      (n.frameStep cancel).edgesDown.tick.ahead = [] ∧ (n.frameStep cancel).edgesDown.tick.frame = n.tick.frame + 1 ∧
      (n.frameStep cancel).edgesDown.sys.mode = n.sys.mode ∧
      ∀ j i, n.tick.inst.at j = some i → (n.frameStep cancel).edgesDown.tick.inst.at j =
        some { i with edges := i.edges - 1, overdue := i.overdue || decide (i.edges ≤ 1) } := by
  have htick := n.frameStep_tick cancel
  refine ⟨congrArg Tick.phase htick, congrArg Tick.closed htick, congrArg Tick.ahead htick, congrArg Tick.frame htick,
    congrArg Sys.mode (n.frameStep_sys cancel), fun j i hi => State.edgesDown_inst ?_⟩
  rw [htick]
  exact hi

/-- HOLD is entered, and what it left is kept. -/
theorem State.modeStep_mode_of_holdDue {m : State} (hdue : m.holdDue = true) :
    m.modeStep.sys.mode = .hold ∧ m.modeStep.sys.prev = m.sys.mode := by
  obtain ⟨hmode, hprev⟩ := m.holdEnter.holdEvents_mode
  obtain ⟨hmode', hprev'⟩ := m.holdEnter_mode
  rw [State.modeStep_holdDue hdue]
  exact ⟨hmode.trans hmode', hprev.trans hprev'⟩

/-- The boundary by its named states. -/
theorem State.boundary_eq {s f w m n b h : State} {e : TickEnv} (hf : f = s.frameClose)
    (hw : w = (((f.advance f.period true).coreTicks f.period).readEnv e).pulsesEnd) (hm : m = w.commitAll.relockStep)
    (hn : n = m.modeStep) (hb : b = (n.frameStep (f.tick.cancel || decide (n.sys.mode ≠ m.sys.mode))).edgesDown)
    (hh : h = ((b.harvest e).flushEdges.hlkPurge).timeStep f.period) :
    s.boundary e =
      ({ h with str := { h.str with slots := 0 } }.rngRefill.remaskTick.cellarCopy.careFrame).armSettle f.shadow := by
  simp only [State.boundary, ← hf, ← hw, ← hm, ← hn, ← hb, ← hh]

/-- Settles O17: the modes by what holds first, the frame by its two steps, a lone write by its commit, and the edge itself as the
boundary followed by CON's turn. -/
theorem boundaryActs : Obligations.BoundaryActs := by
  unfold Obligations.BoundaryActs
  intro s f w m n b h e hrun hup hw hm hn hb hh
  refine ⟨?frame, ?plain, ?hold, ?change, ?leave, ?edge, ?exit⟩
  case frame =>
    subst hb
    exact n.frameStep_edgesDown _
  case plain =>
    clear hw
    intro x hs hx hwin hcmd hwidth hkey hidle hcfg hrelock
    obtain ⟨hsys, hfacts⟩ := State.commitAll_plain hs hx hwin hcmd hwidth hkey hidle hcfg
    have hoff : w.commitAll.sys.relock = false := (congrArg Sys.relock hsys).trans hrelock
    rw [hm, State.relockStep_off hoff]
    exact hfacts
  case hold =>
    intro hdue
    rw [hn]
    exact ⟨State.modeStep_holdDue hdue, State.modeStep_mode_of_holdDue hdue⟩
  case change =>
    rw [hn]
    refine fun hdue hmode => ⟨State.modeStep_stay hdue hmode, fun p hpend => ⟨State.modeStep_pend hdue hmode hpend, ?_⟩⟩
    rw [State.modeStep_pend hdue hmode hpend]
    exact (State.holdEvents_mode _).1.trans (m.pendTake_mode p)
  case leave =>
    intro hmode hvcc hsrc
    rw [hn, State.modeStep_holdLeave hmode hvcc hsrc]
    exact (State.holdEvents_mode _).1.trans m.holdLeave_mode
  case edge =>
    intro hf
    have hticks : (s.isSet TICK_STAT_RUN && s.mainUp) = true := by rw [hrun, hup]; rfl
    rw [← State.boundary_eq hf hw hm hn hb hh]
    change Host.Outcome.next (s.tickStep e) = _
    rw [State.tickStep, if_pos hticks, State.tickEdge, if_pos hticks]
  case exit =>
    intro hf hmode hvcc
    have hticks : (s.isSet TICK_STAT_RUN && s.mainUp) = true := by rw [hrun, hup]; rfl
    have hticks' : (({ s with sys := { s.sys with holdVcc := false } } : State).isSet TICK_STAT_RUN &&
        ({ s with sys := { s.sys with holdVcc := false } } : State).mainUp) = true := hticks
    rw [← State.boundary_eq hf hw hm hn hb hh]
    change Host.Outcome.next (s.holdStep e) = _
    rw [State.holdStep, if_pos hticks, State.holdExit, if_pos ⟨Or.inl hmode, hvcc⟩, State.tickEdge, if_pos hticks']

end Sys2Proof.Machine
namespace Sys2Proof.Machine

/-! ## The phases of a frame (R50, R52, R55, R67) -/

theorem exec_harvestEnd {s : State} (hrun : s.isSet TICK_STAT_RUN = true) (hphase : s.tick.phase = .harvest) :
    exec .harvestEnd s = .next (s.setPhase .foreground false).jobsRelease.jobsTake.deliverAll.pkeStates.symStates := by
  change Host.Outcome.next s.harvestEnd = _
  rw [State.harvestEnd, hrun, hphase, if_neg (by decide)]

theorem exec_foregroundWindowClose {s : State} (hrun : s.isSet TICK_STAT_RUN = true) (hphase : s.tick.phase ≠ .harvest) :
    exec .foregroundWindowClose s = .next (s.setPhase .slack true).pkeStates.symStates := by
  change Host.Outcome.next s.windowClose = _
  rw [State.windowClose, hrun, beq_false_of_ne hphase, if_neg (by decide)]

theorem exec_runAhead {s : State} (hrun : s.isSet TICK_STAT_RUN = true) (hraen : s.isSet TICK_CFG_RAEN = true)
    (hphase : s.tick.phase ≠ .harvest) :
    exec .runAhead s = .next ((finList 16).foldl State.raIssue
      { s with tick := { s.tick with
        ahead := (finList 64).filter s.jobNext
        raOwners := ((finList 16).filter s.raIssues).map (fun m => finOf 64 (s.rd (TICK_RA_JOB m))) } }) := by
  change Host.Outcome.next s.runAhead = _
  rw [State.runAhead, hrun, hraen, beq_false_of_ne hphase, if_neg (by decide)]

/-! ## What the cores say of jobs (R55, R57, R58) -/

theorem exec_tickKick_core {s : State} {c : CpuId} (hrun : s.coreRuns c = true) (n : Fin 2) (v : Word) :
    exec (.tickKick c.agent n v) s = .next ((s.strongIssue c).kick n v) := by
  change Host.Outcome.next (s.byAgent c.agent (fun s => s.kick n v)) = _
  rw [State.byAgent_run ((s.agentUp_agent c).trans hrun), State.asAgent_agent]

theorem exec_tickDone {s : State} {c : CpuId} (hrun : s.coreRuns c = true) (j : JobId) :
    exec (.tickDone c j) s = .next ((s.strongIssue c).tickDone c j) := by
  change Host.Outcome.next (s.byCore c (fun s => s.tickDone c j)) = _
  rw [State.byCore_run hrun]

/-- The delivered job is done; one that was aborted keeps the status of its abort. -/
theorem State.tickDone_delivered {s : State} {c : CpuId} {j : JobId} {i : JobInst} (hdel : s.delivered c = some j)
    (hi : s.tick.inst.at j = some i) :
    s.tickDone c j = (if i.aborted then (s.setInst j none).coreIdle c
      else ((s.setInst j none).coreIdle c).jobStatus j 1).deliver c := by
  rw [State.tickDone, if_pos hdel, hi]

theorem State.tickDone_other {s : State} {c : CpuId} {j : JobId} (hdel : s.delivered c ≠ some j) :
    s.tickDone c j = (s.setb TICK_STAT_DONEERR).misuse := by
  rw [State.tickDone, if_neg hdel]

/-! ## Budgets and deadlines (R60, R64, R69) -/

/-- Outside harvest the budget of a core's delivered job runs out with an interrupt. -/
theorem State.budgetUsed_core {s : State} {j : JobId} {i : JobInst} {c : CpuId} (hi : s.tick.inst.at j = some i)
    (habort : i.aborted = false) (hspent : i.spent = false) (hphase : s.tick.phase ≠ .harvest) (howner : i.owner = .cpu c)
    (hstart : i.started = true) : s.budgetUsed j = (s.setInst j (some { i with spent := true })).ipend c 1 := by
  simp [State.budgetUsed, hi, habort, hspent, hphase, howner, hstart]

theorem State.budgetUsed_engine {s : State} {j : JobId} {i : JobInst} (hi : s.tick.inst.at j = some i)
    (habort : i.aborted = false) (hspent : i.spent = false) (hphase : s.tick.phase ≠ .harvest)
    (howner : ∀ c, i.owner ≠ .cpu c) : s.budgetUsed j = s.setInst j (some { i with spent := true }) := by
  cases h : i.owner with
  | cpu c => exact absurd h (howner c)
  | _ => simp [State.budgetUsed, hi, habort, hspent, hphase, h]

/-- An overrun outside the Store Room, whose batch would go on to its landing point first. -/
theorem exec_jobOverrun {s : State} {j : JobId} {i : JobInst} (hi : s.tick.inst.at j = some i) (hedge : i.edges = 0)
    (habort : i.aborted = false) (howner : i.owner ≠ .str) {s1 s2 : State}
    (hs1 : s1 = (s.bump TICK_OVR_COUNT).wr TICK_OVR_LAST j.val)
    (hs2 : s2 = { s1 with care := { s1.care with period := { s1.care.period with ovr := s1.care.period.ovr + 1 } } }.jobAbort j 4 false) :
    exec (.jobOverrun j) s =
      .next ((if s.tick.raOwners.contains j then s2.raCancel (fun _ => true) else s2).jobsTake.raise 0x20) := by
  subst hs2 hs1
  have hlate : ¬ (i.edges ≠ 0 ∨ i.aborted = true) := by simp [hedge, habort]
  change Host.Outcome.next (s.jobOverrun j) = _
  simp only [State.jobOverrun, hi, if_neg hlate, if_neg howner]

theorem exec_pllRelock {s : State} (hstop : s.sys.stopped = true) (htrip : (s.watch.src.at 8).trip = false)
    (hmode : s.sys.mode ≠ .rise) : exec .pllRelock s = .next { s with sys := { s.sys with relock := true } } := by
  change execPllRelock s = _
  simp [execPllRelock, hstop, htrip, hmode]

/-- Settles O18: each command in the branch that its premises open. -/
theorem framesAndJobsAct : Obligations.FramesAndJobsAct := by
  unfold Obligations.FramesAndJobsAct
  refine ⟨fun s hrun => ⟨exec_harvestEnd hrun, exec_foregroundWindowClose hrun, exec_runAhead hrun⟩, fun s =>
    ⟨fun c n v hrun => exec_tickKick_core hrun n v, ?done, ?doneErr, ?budget, ?overrun, exec_pllRelock⟩⟩
  case done =>
    intro c j i hrun hdel hi
    rw [exec_tickDone hrun, State.tickDone_delivered hdel hi]
    exact ⟨fun habort => by rw [habort]; rfl, fun habort => by rw [habort]; rfl⟩
  case doneErr =>
    intro c j hrun hdel
    rw [exec_tickDone hrun, State.tickDone_other hdel]
  case budget =>
    intro j i hi habort hspent hphase
    exact ⟨fun c howner hstart => congrArg _ (State.budgetUsed_core hi habort hspent hphase howner hstart),
      fun howner => congrArg _ (State.budgetUsed_engine hi habort hspent hphase howner)⟩
  case overrun =>
    intro j i s1 s2 hi hedge habort howner hs1 hs2
    exact exec_jobOverrun hi hedge habort howner hs1 hs2

end Sys2Proof.Machine
namespace Sys2Proof.Machine

/-! ## A job's record and its status (Table 2.9) -/

/-- A job has this record, or none, and shows this status. -/
def State.JobIs (s : State) (j : JobId) (i : Option JobInst) (code : Nat) : Prop :=
  s.tick.inst.at j = i ∧ s.rd (TICK_JOB_STATUS j) = code

theorem key_jobStatus_ne {j k : JobId} (h : j ≠ k) : (TICK_JOB_STATUS j).key ≠ (TICK_JOB_STATUS k).key := by
  have hval : j.val ≠ k.val := Fin.val_ne_of_ne h
  simp only [TICK_JOB_STATUS, Field.key, jobOff]
  omega

theorem State.setInst_jobStatus_jobIs (s : State) (j : JobId) (i : Option JobInst) {code : Nat} (hcode : code < 8) :
    ((s.setInst j i).jobStatus j code).JobIs j i code :=
  ⟨Tab.at_put_self _ _ _, (State.rd_wr_self _ _ _ (by simp [Field.width, TICK_JOB_STATUS])).trans (Nat.mod_eq_of_lt hcode)⟩

theorem State.setInst_jobStatus_inst_ne (s : State) {j k : JobId} (h : k ≠ j) (x : Option JobInst) (m : Nat) :
    ((s.setInst k x).jobStatus k m).tick.inst.at j = s.tick.inst.at j :=
  Tab.at_put_ne _ _ h

/-- What another job does leaves a job's record and status. -/
theorem State.JobIs.setInst_jobStatus_ne {s : State} {j k : JobId} {i : Option JobInst} {code : Nat} (hj : s.JobIs j i code)
    (h : k ≠ j) (x : Option JobInst) (m : Nat) : ((s.setInst k x).jobStatus k m).JobIs j i code :=
  ⟨(s.setInst_jobStatus_inst_ne h x m).trans hj.1, (State.rd_wr_ne _ _ _ _ (key_jobStatus_ne h)).trans hj.2⟩

/-- From the first state to the second at most the jobs' records and registers have changed. -/
def OnlyJobs (s t : State) : Prop := ∃ r l, t = { s with regs := r, tick := { s.tick with inst := l } }

theorem OnlyJobs.refl (s : State) : OnlyJobs s s := ⟨s.regs, s.tick.inst, rfl⟩

theorem OnlyJobs.trans {s t u : State} (h : OnlyJobs s t) (k : OnlyJobs t u) : OnlyJobs s u := by
  obtain ⟨_, _, rfl⟩ := h
  obtain ⟨r, l, rfl⟩ := k
  exact ⟨r, l, rfl⟩

theorem OnlyJobs.setInst_jobStatus (s : State) (j : JobId) (i : Option JobInst) (code : Nat) :
    OnlyJobs s ((s.setInst j i).jobStatus j code) := ⟨_, _, rfl⟩

section
variable {s t : State} (h : OnlyJobs s t)
include h

theorem OnlyJobs.mem : t.mem = s.mem := by
  obtain ⟨_, _, rfl⟩ := h
  rfl

theorem OnlyJobs.sys : t.sys = s.sys := by
  obtain ⟨_, _, rfl⟩ := h
  rfl

theorem OnlyJobs.vlt : t.vlt = s.vlt := by
  obtain ⟨_, _, rfl⟩ := h
  rfl

end

/-! ## The job that has an engine and the one that waits for it (R56, R65) -/

/-- A job that its engine works on. -/
def JobInst.works (o : JobOwner) (i : JobInst) : Bool := i.owner == o && i.started && !i.parked && !i.aborted

/-- A job that waits for its engine. -/
def JobInst.waits (o : JobOwner) (i : JobInst) : Bool :=
  i.owner == o && !i.aborted && ((!i.started && !i.parked) || i.yielded)

theorem find?_finList_eq_some_iff {n : Nat} {p : Fin n → Bool} {j : Fin n} :
    (finList n).find? p = some j ↔ p j = true ∧ ∀ d, d < j → p d = false := by
  rw [finList, List.find?_eq_some_iff_getElem]
  refine and_congr_right fun _ => ⟨fun ⟨m, hm, hj, hfirst⟩ d hd => ?_, fun hfirst => ⟨j.val, ?_, ?_, fun d hd => ?_⟩⟩
  · have hdm : d.val < m := by
      rw [← hj] at hd
      simpa [Fin.lt_def] using hd
    simpa using hfirst d.val hdm
  · simp
  · simp
  · simpa using hfirst ⟨d, Nat.lt_trans hd j.isLt⟩ hd

theorem State.jobOn_eq (s : State) (o : JobOwner) :
    s.jobOn o = (finList 64).find? (fun j => (s.tick.inst.at j).any (JobInst.works o)) := by
  unfold State.jobOn
  congr 1
  funext j
  cases s.tick.inst.at j <;> rfl

theorem State.jobWaits_eq (s : State) (o : JobOwner) :
    s.jobWaits o = (finList 64).find? (fun j => (s.tick.inst.at j).any (JobInst.waits o)) := by
  unfold State.jobWaits
  congr 1
  funext j
  cases s.tick.inst.at j <;> rfl

theorem State.works_of_jobOn {s : State} {o : JobOwner} {j : JobId} (h : s.jobOn o = some j) :
    ∃ i, s.tick.inst.at j = some i ∧ i.works o = true := by
  rw [State.jobOn_eq, find?_finList_eq_some_iff] at h
  exact (Option.any_eq_true _ _).mp h.1

theorem State.waits_of_jobWaits {s : State} {o : JobOwner} {j : JobId} (h : s.jobWaits o = some j) :
    ∃ i, s.tick.inst.at j = some i ∧ i.waits o = true := by
  rw [State.jobWaits_eq, find?_finList_eq_some_iff] at h
  exact (Option.any_eq_true _ _).mp h.1

theorem State.jobOn_eq_none {s : State} {o : JobOwner} (h : ∀ d y, s.tick.inst.at d = some y → y.works o = false) :
    s.jobOn o = none := by
  rw [State.jobOn_eq, List.find?_eq_none]
  intro d _ hany
  obtain ⟨y, hy, hworks⟩ := (Option.any_eq_true _ _).mp hany
  exact Bool.false_ne_true ((h d y hy).symm.trans hworks)

/-- The first job that waits stays the first when a job behind it changes. -/
theorem State.jobWaits_of_later {s t : State} {o : JobOwner} {j k : JobId} (hk : s.jobWaits o = some k) (hlt : k < j)
    (hsame : ∀ d, d ≠ j → t.tick.inst.at d = s.tick.inst.at d) : t.jobWaits o = some k := by
  rw [State.jobWaits_eq, find?_finList_eq_some_iff] at hk ⊢
  obtain ⟨hwaits, hfirst⟩ := hk
  refine ⟨?_, fun d hd => ?_⟩
  · rw [hsame k (Fin.ne_of_lt hlt)]
    exact hwaits
  · rw [hsame d (Fin.ne_of_lt (Fin.lt_trans hd hlt))]
    exact hfirst d hd

/-! ## An engine takes its next job, or passes to a better one -/

/-- An engine without a job takes the first that waits. -/
theorem State.jobTake_first {s : State} {o : JobOwner} {k : JobId} {x : JobInst} (hon : s.jobOn o = none)
    (hphase : s.tick.phase = .foreground) (hk : s.jobWaits o = some k) (hx : s.tick.inst.at k = some x) :
    s.jobTake o = (s.setInst k (some { x with started := true, parked := false, yielded := false })).jobStatus k 2 := by
  have hfree : ¬ ((s.jobOn o).isSome = true ∨ s.tick.phase ≠ .foreground) := by simp [hon, hphase]
  simp only [State.jobTake, if_neg hfree, hk, hx]

theorem State.jobTake_cases (s : State) (o : JobOwner) :
    s.jobTake o = s ∨ ∃ k x, s.tick.inst.at k = some x ∧ x.waits o = true ∧
      s.jobTake o = (s.setInst k (some { x with started := true, parked := false, yielded := false })).jobStatus k 2 := by
  by_cases hbusy : (s.jobOn o).isSome = true ∨ s.tick.phase ≠ .foreground
  · exact .inl (if_pos hbusy)
  cases hk : s.jobWaits o with
  | none => exact .inl (by simp only [State.jobTake, if_neg hbusy, hk])
  | some k =>
    obtain ⟨x, hx, hwaits⟩ := State.waits_of_jobWaits hk
    have hfree : s.jobOn o = none ∧ s.tick.phase = .foreground := by simpa using hbusy
    exact .inr ⟨k, x, hx, hwaits, State.jobTake_first hfree.1 hfree.2 hk hx⟩

/-- The job that has the engine gives way to one before it, which the engine takes. -/
theorem State.jobPass_yield {s : State} {o : JobOwner} {j k : JobId} {i : JobInst} (hj : s.jobOn o = some j)
    (hk : s.jobWaits o = some k) (hlt : k.val < j.val) (hphase : s.tick.phase = .foreground) (hi : s.tick.inst.at j = some i) :
    s.jobPass o = ((s.setInst j (some { i with parked := true, yielded := true })).jobStatus j 3).jobTake o := by
  simp only [State.jobPass, hj, hk, if_pos (And.intro hlt hphase), hi]

theorem State.jobPass_cases (s : State) (o : JobOwner) :
    s.jobPass o = s ∨ s.jobPass o = s.jobTake o ∨ ∃ j i, s.tick.inst.at j = some i ∧ i.works o = true ∧
      s.jobPass o = ((s.setInst j (some { i with parked := true, yielded := true })).jobStatus j 3).jobTake o := by
  cases hj : s.jobOn o with
  | none => exact .inr (.inl (by simp only [State.jobPass, hj]))
  | some j =>
    obtain ⟨i, hi, hworks⟩ := State.works_of_jobOn hj
    cases hk : s.jobWaits o with
    | none => exact .inr (.inl (by simp only [State.jobPass, hj, hk]))
    | some k =>
      by_cases hpass : k.val < j.val ∧ s.tick.phase = .foreground
      · exact .inr (.inr ⟨j, i, hi, hworks, State.jobPass_yield hj hk hpass.1 hpass.2 hi⟩)
      · exact .inl (by simp only [State.jobPass, hj, hk, if_neg hpass])

theorem State.jobTake_onlyJobs (s : State) (o : JobOwner) : OnlyJobs s (s.jobTake o) := by
  obtain h | ⟨k, x, -, -, h⟩ := s.jobTake_cases o
  · rw [h]
    exact .refl s
  · rw [h]
    exact .setInst_jobStatus s k _ 2

theorem State.jobsTake_onlyJobs (s : State) : OnlyJobs s s.jobsTake :=
  (s.jobTake_onlyJobs .str).trans (State.jobTake_onlyJobs _ .arc)

theorem State.jobPass_onlyJobs (s : State) (o : JobOwner) : OnlyJobs s (s.jobPass o) := by
  obtain h | h | ⟨j, i, -, -, h⟩ := s.jobPass_cases o
  · rw [h]
    exact .refl s
  · rw [h]
    exact s.jobTake_onlyJobs o
  · rw [h]
    exact (OnlyJobs.setInst_jobStatus s j _ 3).trans (State.jobTake_onlyJobs _ o)

section
variable {s : State} {j : JobId} {i : JobInst} {code : Nat} {o : JobOwner}

/-- An engine that takes a job leaves every job that does not wait for it. -/
theorem State.JobIs.jobTake (hj : s.JobIs j (some i) code) (hwaits : i.waits o = false) :
    (s.jobTake o).JobIs j (some i) code := by
  obtain h | ⟨k, x, hx, hxw, h⟩ := s.jobTake_cases o
  · rw [h]
    exact hj
  · have hne : k ≠ j := by
      rintro rfl
      cases hj.1.symm.trans hx
      exact Bool.false_ne_true (hwaits.symm.trans hxw)
    rw [h]
    exact hj.setInst_jobStatus_ne hne _ 2

/-- An engine that passes on leaves every job that neither has it nor waits for it. -/
theorem State.JobIs.jobPass (hj : s.JobIs j (some i) code) (hworks : i.works o = false) (hwaits : i.waits o = false) :
    (s.jobPass o).JobIs j (some i) code := by
  obtain h | h | ⟨k, x, hx, hxw, h⟩ := s.jobPass_cases o
  · rw [h]
    exact hj
  · rw [h]
    exact hj.jobTake hwaits
  · have hne : k ≠ j := by
      rintro rfl
      cases hj.1.symm.trans hx
      exact Bool.false_ne_true (hworks.symm.trans hxw)
    rw [h]
    exact (hj.setInst_jobStatus_ne hne _ 3).jobTake hwaits

end

/-! ## Parking at a landing point (R60) -/

/-- A job that parks when its engine comes to a landing point in this phase (R52, R60). -/
def JobInst.parks (i : JobInst) (p : Phase) : Bool :=
  i.started && (!i.parked || i.yielded) && !i.aborted && (i.spent || p == .slack)

/-- One job at a landing point. -/
def State.parkStep (f : JobId → JobOwner → Bool) (s : State) (j : JobId) : State :=
  match s.tick.inst.at j with
  | some i =>
    if f j i.owner && i.parks s.tick.phase then (s.setInst j (some { i with parked := true, yielded := false })).jobStatus j 3
    else s
  | none => s

theorem State.jobPark_eq (s : State) (f : JobId → JobOwner → Bool) : s.jobPark f = (finList 64).foldl (State.parkStep f) s := by
  unfold State.jobPark
  congr 1
  funext t j
  unfold State.parkStep JobInst.parks
  cases t.tick.inst.at j with
  | none => rfl
  | some i => simp only [Bool.and_assoc]

section
variable {s : State} {f : JobId → JobOwner → Bool} {j : JobId} {i : JobInst}

theorem State.parkStep_parks (hi : s.tick.inst.at j = some i) (hf : f j i.owner = true) (hp : i.parks s.tick.phase = true) :
    s.parkStep f j = (s.setInst j (some { i with parked := true, yielded := false })).jobStatus j 3 := by
  simp only [State.parkStep, hi, hf, hp, Bool.and_self, if_true]

theorem State.parkStep_stays (h : ∀ y, s.tick.inst.at j = some y → y.parks s.tick.phase = false) : s.parkStep f j = s := by
  cases hi : s.tick.inst.at j with
  | none => simp only [State.parkStep, hi]
  | some y => simp only [State.parkStep, hi, h y hi, Bool.and_false, Bool.false_eq_true, if_false]

end

theorem State.parkStep_cases (s : State) (f : JobId → JobOwner → Bool) (j : JobId) :
    s.parkStep f j = s ∨ ∃ i, s.tick.inst.at j = some i ∧ i.parks s.tick.phase = true ∧
      s.parkStep f j = (s.setInst j (some { i with parked := true, yielded := false })).jobStatus j 3 := by
  cases hi : s.tick.inst.at j with
  | none => exact .inl (by simp only [State.parkStep, hi])
  | some i =>
    by_cases hp : (f j i.owner && i.parks s.tick.phase) = true
    · exact .inr ⟨i, rfl, (Bool.and_eq_true_iff.mp hp).2, by simp only [State.parkStep, hi, if_pos hp]⟩
    · exact .inl (by simp only [State.parkStep, hi, if_neg hp])

theorem State.parkStep_onlyJobs (s : State) (f : JobId → JobOwner → Bool) (j : JobId) : OnlyJobs s (s.parkStep f j) := by
  obtain h | ⟨i, -, -, h⟩ := s.parkStep_cases f j
  · rw [h]
    exact .refl s
  · rw [h]
    exact .setInst_jobStatus s j _ 3

theorem State.jobPark_onlyJobs (s : State) (f : JobId → JobOwner → Bool) : OnlyJobs s (s.jobPark f) := by
  rw [State.jobPark_eq]
  exact List.foldlRecOn _ _ (.refl s) fun t ht j _ => ht.trans (t.parkStep_onlyJobs f j)

/-- Where no job is to park, none does. -/
theorem State.jobPark_none {s : State} (h : ∀ j y, s.tick.inst.at j = some y → y.parks s.tick.phase = false)
    (f : JobId → JobOwner → Bool) : s.jobPark f = s := by
  rw [State.jobPark_eq]
  refine List.foldlRecOn (motive := fun t => t = s) _ _ rfl fun t ht j _ => ?_
  rw [ht]
  exact State.parkStep_stays (h j)

/-- What one step of a fold brings about stays, where every step keeps it and the others keep what the step needs. -/
theorem foldl_reaches {α : Type} [DecidableEq α] {A B : State → Prop} {f : State → α → State} {j : α}
    (hkeep : ∀ t d, d ≠ j → A t → A (f t d)) (hstep : ∀ t, A t → B (f t j)) (hstay : ∀ t d, B t → B (f t d))
    {l : List α} (hj : j ∈ l) {s : State} (hs : A s) : B (l.foldl f s) := by
  induction l generalizing s with
  | nil => exact absurd hj List.not_mem_nil
  | cons d l ih =>
    by_cases hd : d = j
    · subst hd
      exact List.foldlRecOn l f (hstep s hs) fun t ht a _ => hstay t a ht
    · exact ih ((List.mem_cons.mp hj).resolve_left (Ne.symm hd)) (hkeep s d hd hs)

section
variable {s : State} {f : JobId → JobOwner → Bool} {j : JobId} {i : JobInst}

/-- A job that is not to park is as it was. -/
theorem State.JobIs.parkStep {code : Nat} (hj : s.JobIs j (some i) code) (hparks : ∀ p, i.parks p = false) (d : JobId) :
    (s.parkStep f d).JobIs j (some i) code := by
  obtain h | ⟨y, hy, hyp, h⟩ := s.parkStep_cases f d
  · rw [h]
    exact hj
  · have hne : d ≠ j := by
      rintro rfl
      cases hj.1.symm.trans hy
      exact Bool.false_ne_true ((hparks _).symm.trans hyp)
    rw [h]
    exact hj.setInst_jobStatus_ne hne _ 3

theorem State.parkStep_inst_ne {d : JobId} (h : d ≠ j) : (s.parkStep f d).tick.inst.at j = s.tick.inst.at j := by
  obtain hd | ⟨y, -, -, hd⟩ := s.parkStep_cases f d
  · rw [hd]
  · rw [hd]
    exact s.setInst_jobStatus_inst_ne h _ 3

/-- An engine's job whose budget is used parks, and reads PARKED. -/
theorem State.jobPark_spent (hi : s.tick.inst.at j = some i) (hf : f j i.owner = true) (hstart : i.started = true)
    (habort : i.aborted = false) (hpark : i.parked = false) (hspent : i.spent = true) :
    (s.jobPark f).JobIs j (some { i with parked := true, yielded := false }) 3 := by
  have hparks : ∀ p, i.parks p = true := fun p => by simp [JobInst.parks, hstart, habort, hpark, hspent]
  rw [State.jobPark_eq]
  refine foldl_reaches (A := fun t => t.tick.inst.at j = some i)
    (B := fun t => t.JobIs j (some { i with parked := true, yielded := false }) 3)
    (fun t d hd ht => (State.parkStep_inst_ne hd).trans ht) (fun t ht => ?_)
    (fun t d ht => ht.parkStep (fun p => by simp [JobInst.parks]) d) (List.mem_finRange j) hi
  rw [State.parkStep_parks ht hf (hparks _)]
  exact t.setInst_jobStatus_jobIs j _ (by decide)

end

/-! ## The landing point of the Archive (R60, R65) -/

theorem State.vNext_idle {s : State} (h : s.vlt.waiting = []) : s.vNext = s := by
  rw [State.vNext, h, List.length_nil, State.vPump, h]

theorem exec_landingPoint_archive {s : State} (h : s.vlt.waiting = []) :
    exec (.landingPoint .archive) s = .next ((s.jobPark (fun _ o => o == .arc)).jobPass .arc) := by
  have honly := (s.jobPark_onlyJobs (fun _ o => o == .arc)).trans (State.jobPass_onlyJobs _ .arc)
  change Host.Outcome.next ((s.jobPark (fun _ o => o == .arc)).jobPass .arc).vNext = _
  rw [State.vNext_idle ((congrArg Vault.waiting honly.vlt).trans h)]

section
variable {s t : State} {o : JobOwner} {j k : JobId} {i x : JobInst}

/-- An engine that its job has left takes the first job that waits before it, and the job that left stays as it is. -/
theorem State.JobIs.jobTake_next {code : Nat} (hj : t.JobIs j (some i) code) (hoff : i.works o = false)
    (hsame : ∀ d, d ≠ j → t.tick.inst.at d = s.tick.inst.at d)
    (hothers : ∀ d y, d ≠ j → s.tick.inst.at d = some y → y.works o = false) (hphase : t.tick.phase = .foreground)
    (hk : s.jobWaits o = some k) (hlt : k < j) (hx : s.tick.inst.at k = some x) :
    (t.jobTake o).JobIs j (some i) code ∧
      (t.jobTake o).JobIs k (some { x with started := true, parked := false, yielded := false }) 2 := by
  have hne : k ≠ j := Fin.ne_of_lt hlt
  have hon : t.jobOn o = none := by
    refine State.jobOn_eq_none fun d y hy => ?_
    by_cases hd : d = j
    · subst hd
      cases hj.1.symm.trans hy
      exact hoff
    · exact hothers d y hd ((hsame d hd).symm.trans hy)
  rw [State.jobTake_first hon hphase (State.jobWaits_of_later hk hlt hsame) ((hsame k hne).trans hx)]
  exact ⟨hj.setInst_jobStatus_ne hne _ 2, t.setInst_jobStatus_jobIs k _ (by decide)⟩

/-- A job that gives way and the one that the engine then takes. -/
theorem State.jobPass_jobIs (hphase : s.tick.phase = .foreground) (hi : s.tick.inst.at j = some i)
    (hothers : ∀ d y, d ≠ j → s.tick.inst.at d = some y → y.works o = false) (hj : s.jobOn o = some j)
    (hk : s.jobWaits o = some k) (hlt : k.val < j.val) (hx : s.tick.inst.at k = some x) :
    (s.jobPass o).JobIs j (some { i with parked := true, yielded := true }) 3 ∧
      (s.jobPass o).JobIs k (some { x with started := true, parked := false, yielded := false }) 2 := by
  rw [State.jobPass_yield hj hk hlt hphase hi]
  exact (s.setInst_jobStatus_jobIs j _ (by decide)).jobTake_next (by simp [JobInst.works])
    (fun d hd => s.setInst_jobStatus_inst_ne (Ne.symm hd) _ 3) hothers hphase hk hlt hx

end

/-! ## The end of an engine's job (R59) -/

section
variable {s u : State} {j : JobId} {i : JobInst} (hu : u = s.jobsTake) (hi : u.tick.inst.at j = some i)
  (habort : i.aborted = false) (hpark : i.parked = false)
include hu hi habort hpark

theorem exec_engineJobComplete_str (howner : i.owner = .str) (hon : u.jobOn .str = some j) (hstop : u.sys.stopped = false) :
    exec (.engineJobComplete j) s = .next ((u.strBatch i).jobComplete j).jobsTake := by
  change Host.Outcome.next (s.engineJobEnds j) = _
  simp [State.engineJobEnds, ← hu, hi, habort, hpark, howner, hon, hstop]

theorem exec_engineJobComplete_arc (howner : i.owner = .arc) (hon : u.jobOn .arc = some j) (hhold : u.holdoff = false)
    (hslot : u.slotBusy = false) :
    exec (.engineJobComplete j) s = .next ((u.arcJob i).jobComplete j).jobsTake := by
  change Host.Outcome.next (s.engineJobEnds j) = _
  simp [State.engineJobEnds, ← hu, hi, habort, hpark, howner, hon, hhold, hslot]

/-- An operation of PKE or SYM has ended. -/
theorem exec_engineJobComplete_ended
    (hend : i.owner = .pke ∧ u.pkeOf (.job j) = none ∨ i.owner = .sym ∧ u.symOf (.job j) = none) (hstart : i.started = true) :
    exec (.engineJobComplete j) s = .next (u.jobComplete j) := by
  change Host.Outcome.next (s.engineJobEnds j) = _
  obtain ⟨howner, hof⟩ | ⟨howner, hof⟩ := hend
  · simp [State.engineJobEnds, ← hu, hi, habort, hpark, howner, hof, hstart]
  · simp [State.engineJobEnds, ← hu, hi, habort, hpark, howner, hof, hstart]

end

/-- Settles O19: the landing points as they are named; at the Archive's a job whose budget is used parks and is not touched again,
and the job that gives way leaves the engine to the first that waits; a completion in the branch of its owner. -/
theorem enginePointsAct : Obligations.EnginePointsAct := by
  unfold Obligations.EnginePointsAct
  refine ⟨fun s => ⟨rfl, rfl, rfl, rfl, rfl⟩, fun s j i hvlt hi howner hstart habort hpark => ⟨?spent, ?yield⟩,
    fun s u j i hu hi habort hpark => ⟨exec_engineJobComplete_str hu hi habort hpark,
      exec_engineJobComplete_arc hu hi habort hpark, ?ended⟩⟩
  case spent =>
    intro hspent
    have honly := (s.jobPark_onlyJobs (fun _ o => o == .arc)).trans (State.jobPass_onlyJobs _ .arc)
    have hparked := State.jobPark_spent (f := fun _ o => o == .arc) hi (beq_iff_eq.mpr howner) hstart habort hpark hspent
    obtain ⟨hinst, hstatus⟩ := hparked.jobPass (o := .arc) (by simp [JobInst.works]) (by simp [JobInst.waits, hstart])
    exact ⟨_, exec_landingPoint_archive hvlt, hstatus, hinst, honly.mem, honly.sys⟩
  case yield =>
    intro k x hphase hnospent hothers hj hk hlt hx
    have hstay : s.jobPark (fun _ o => o == .arc) = s :=
      State.jobPark_none (fun d y hy => by simp [JobInst.parks, hphase, hnospent d y hy]) _
    have hidle : ∀ d y, d ≠ j → s.tick.inst.at d = some y → y.works .arc = false := fun d y hd hy => by
      simpa [JobInst.works, Decidable.imp_iff_not_or, or_assoc] using hothers d y hd hy
    obtain ⟨⟨hinst, hstatus⟩, hinst', hstatus'⟩ := State.jobPass_jobIs hphase hi hidle hj hk hlt hx
    rw [exec_landingPoint_archive hvlt, hstay]
    exact ⟨_, rfl, hstatus, hstatus', hinst, hinst'⟩
  case ended =>
    intro hend hstart
    obtain ⟨hinst, hstatus⟩ := u.setInst_jobStatus_jobIs j none (code := 1) (by decide)
    have hmem : u.mem = s.mem := hu ▸ s.jobsTake_onlyJobs.mem
    exact ⟨_, exec_engineJobComplete_ended hu hi habort hpark hend hstart, hinst, hstatus, hmem,
      fun d hd => u.setInst_jobStatus_inst_ne (Ne.symm hd) none 1⟩

end Sys2Proof.Machine
namespace Sys2Proof.Machine

/-! ## Every command keeps what every operation keeps (R80) -/

/-- Every row of the opcode table leaves the queue, the canonical memory and the blown fuses: a line of a hardware verb as the
decision of its form, each other row by its own meaning. -/
theorem exec_keeps {s₀ s : State} (hkeep : Keeps s₀ s) (i : Instr) : Keeps s₀ (afterExec (exec i s) s) := by
  cases hline : i.line? with
  | some x =>
    rw [exec_line hline]
    exact State.lineVerb_keeps hkeep x.1 x.2
  | none =>
    cases i with
    | registerWrite a r v => exact execRegisterWrite_keeps hkeep a r v
    | rcRead c off => exact execRcRead_keeps hkeep c off
    | tickBoundary env => exact execTickBoundary_keeps hkeep env
    | harvestEnd => exact execHarvestEnd_keeps hkeep
    | foregroundWindowClose => exact execForegroundWindowClose_keeps hkeep
    | runAhead => exact execRunAhead_keeps hkeep
    | slackPhase => exact execSlackPhase_keeps hkeep
    | tickKick a n v => exact execTickKick_keeps hkeep a n v
    | tickDone c job => exact execTickDone_keeps hkeep c job
    | jobBudgetUsed j => exact execJobBudgetUsed_keeps hkeep j
    | jobOverrun j => exact execJobOverrun_keeps hkeep j
    | landingPoint e => exact execLandingPoint_keeps hkeep e
    | engineJobComplete j => exact execEngineJobComplete_keeps hkeep j
    | pllRelock => exact execPllRelock_keeps hkeep
    | claim a n => exact execClaim_keeps hkeep a n
    | ring a n => exact execRing_keeps hkeep a n
    | abandon a n => exact execAbandon_keeps hkeep a n
    | take a n => exact execTake_keeps hkeep a n
    | done a n => exact execDone_keeps hkeep a n
    | hatchBodyAccess a n k v => exact execHatchBodyAccess_keeps hkeep a n k v
    | appletReply n => exact execAppletReply_keeps hkeep n
    | verbReg n => exact execVerbReg_keeps hkeep n
    | modeReq n => exact execModeReq_keeps hkeep n
    | appletTimeout => exact execAppletTimeout_keeps hkeep
    | careWatchdogExpiry => exact execCareWatchdogExpiry_keeps hkeep
    | powerOn vcc => exact execPowerOn_keeps hkeep vcc
    | vccFall vcc => exact execVccFall_keeps hkeep vcc
    | holdExit env => exact execHoldExit_keeps hkeep env
    | cellarEntry vcc => exact execCellarEntry_keeps hkeep vcc
    | cellarSupplySwitch vcc vbat => exact execCellarSupplySwitch_keeps hkeep vcc vbat
    | cellarFloor vbat => exact execCellarFloor_keeps hkeep vbat
    | vioChange vio => exact execVioChange_keeps hkeep vio
    | rstNAssert ns => exact execRstNAssert_keeps hkeep ns
    | rstNRelease ms => exact execRstNRelease_keeps hkeep ms
    | resetHoldDetect => exact execResetHoldDetect_keeps hkeep
    | resetStuck => exact execResetStuck_keeps hkeep
    | rise env => exact execRise_keeps hkeep env
    | risePllLock env => exact execRisePllLock_keeps hkeep env
    | deferredFuseBlow => exact execDeferredFuseBlow_keeps hkeep
    | coreWatchdogExpiry c => exact execCoreWatchdogExpiry_keeps hkeep c
    | watchdogHalf c => exact execWatchdogHalf_keeps hkeep c
    | watchdogKick c v => exact execWatchdogKick_keeps hkeep c v
    | consoleByte b => exact execConsoleByte_keeps hkeep b
    | ctrlC => exact execCtrlC_keeps hkeep
    | framingLoss => exact execFramingLoss_keeps hkeep
    | baudRevert => exact execBaudRevert_keeps hkeep
    | sessionIdleTimeout => exact execSessionIdleTimeout_keeps hkeep
    | challengeExpiry => exact execChallengeExpiry_keeps hkeep
    | holdExpiry => exact execHoldExpiry_keeps hkeep
    | imageLoadTimeout => exact execImageLoadTimeout_keeps hkeep
    | timeSetPpsTimeout => exact execTimeSetPpsTimeout_keeps hkeep
    | verbCommitReply => exact execVerbCommitReply_keeps hkeep
    | verbReset => exact execVerbReset_keeps hkeep
    | appletVerb l text => exact execAppletVerb_keeps hkeep l text
    | authCardResponse => exact execAuthCardResponse_keeps hkeep
    | gpioEdge p b e => exact execGpioEdge_keeps hkeep p b e
    | activate c p => exact execActivate_keeps hkeep c p
    | deactivate c p => exact execDeactivate_keeps hkeep c p
    | cardWarmReset c p => exact execCardWarmReset_keeps hkeep c p
    | cardInsertion x => exact execCardInsertion_keeps hkeep x
    | cardRemoval x => exact execCardRemoval_keeps hkeep x
    | atrReceived p x => exact execAtrReceived_keeps hkeep p x
    | atrTimeout p => exact execAtrTimeout_keeps hkeep p
    | cardTxPacket p => exact execCardTxPacket_keeps hkeep p
    | cardResponse p l reps => exact execCardResponse_keeps hkeep p l reps
    | cardCwtExpiry x => exact execCardCwtExpiry_keeps hkeep x
    | uartTxPacket p => exact execUartTxPacket_keeps hkeep p
    | uartRxChar p b e => exact execUartRxChar_keeps hkeep p b e
    | uartIdleClose x => exact execUartIdleClose_keeps hkeep x
    | spicTransfer p miso => exact execSpicTransfer_keeps hkeep p miso
    | dualDiscrepancy p a => exact execDualDiscrepancy_keeps hkeep p a
    | dualAutoclear p a => exact execDualAutoclear_keeps hkeep p a
    | discClear c p => exact execDiscClear_keeps hkeep c p
    | pulseEdge p b e t dir => exact execPulseEdge_keeps hkeep p b e t dir
    | ppsEdge p e => exact execPpsEdge_keeps hkeep p e
    | pulseoutCycleEnd p => exact execPulseoutCycleEnd_keeps hkeep p
    | loopReseed p => exact execLoopReseed_keeps hkeep p
    | writeQ qid len data tr fl => exact execWriteQ_keeps hkeep qid len data tr fl
    | readQ qid len => exact execReadQ_keeps hkeep qid len
    | status qid len => exact execStatus_keeps hkeep qid len
    | ack qid len tr => exact execAck_keeps hkeep qid len tr
    | hostlinkAbort h => exact execHostlinkAbort_keeps hkeep h
    | h6Begin => exact execH6Begin_keeps hkeep
    | h6Data => exact execH6Data_keeps hkeep
    | h6End => exact execH6End_keeps hkeep
    | h6Abort => exact execH6Abort_keeps hkeep
    | queuePush c q w => exact execQueuePush_keeps hkeep c q w
    | queuePop c q => exact execQueuePop_keeps hkeep c q
    | mark c q => exact execMark_keeps hkeep c q
    | rewind c q => exact execRewind_keeps hkeep c q
    | release c q => exact execRelease_keeps hkeep c q
    | flush c q => exact execFlush_keeps hkeep c q
    | flushLimitExpiry q => exact execFlushLimitExpiry_keeps hkeep q
    | rlyOpen c n => exact execRlyOpen_keeps hkeep c n
    | rlyAbort c n => exact execRlyAbort_keeps hkeep c n
    | rlyDropsrc c n => exact execRlyDropsrc_keeps hkeep c n
    | rlyFree c n => exact execRlyFree_keeps hkeep c n
    | relaySourceReady n => exact execRelaySourceReady_keeps hkeep n
    | relaySeal n ecc => exact execRelaySeal_keeps hkeep n ecc
    | coreLoad c ca a w sgn ecc => exact execCoreLoad_keeps hkeep c ca a w sgn ecc
    | coreStore c ca a w v => exact execCoreStore_keeps hkeep c ca a w v
    | storeBufferDrain c => exact execStoreBufferDrain_keeps hkeep c
    | fence c ca f => exact execFence_keeps hkeep c ca f
    | fenceI c ca => exact execFenceI_keeps hkeep c ca
    | lr c ca a aq rl ecc => exact execLr_keeps hkeep c ca a aq rl ecc
    | sc c ca a v aq rl => exact execSc_keeps hkeep c ca a v aq rl
    | amo c ca op a v aq rl ecc => exact execAmo_keeps hkeep c ca op a v aq rl ecc
    | wfi c ca => exact execWfi_keeps hkeep c ca
    | interruptTrap c ca => exact execInterruptTrap_keeps hkeep c ca
    | vltStore c => exact execVltStore_keeps hkeep c
    | vltRead c idx => exact execVltRead_keeps hkeep c idx
    | vltRetire c idx => exact execVltRetire_keeps hkeep c idx
    | vltRevoke c idx => exact execVltRevoke_keeps hkeep c idx
    | vltZeroize c idx => exact execVltZeroize_keeps hkeep c idx
    | vltLookup c => exact execVltLookup_keeps hkeep c
    | vltDeny c => exact execVltDeny_keeps hkeep c
    | vltUndeny c => exact execVltUndeny_keeps hkeep c
    | vltUnany c idx => exact execVltUnany_keeps hkeep c idx
    | vltClear c => exact execVltClear_keeps hkeep c
    | vltGenCmd c => exact execVltGenCmd_keeps hkeep c
    | vltWinAccess c v => exact execVltWinAccess_keeps hkeep c v
    | shadowUpdateCommit => exact execShadowUpdateCommit_keeps hkeep
    | remaskPassStart => exact execRemaskPassStart_keeps hkeep
    | strWrite c => exact execStrWrite_keeps hkeep c
    | insertResume => exact execInsertResume_keeps hkeep
    | strInvalidate c => exact execStrInvalidate_keeps hkeep c
    | coreSearch c r => exact execCoreSearch_keeps hkeep c r
    | blockMove n => exact execBlockMove_keeps hkeep n
    | madd r => exact execMadd_keeps hkeep r
    | msub r => exact execMsub_keeps hkeep r
    | mmul r => exact execMmul_keeps hkeep r
    | mred r => exact execMred_keeps hkeep r
    | minv r => exact execMinv_keeps hkeep r
    | mexp r => exact execMexp_keeps hkeep r
    | cmp r => exact execCmp_keeps hkeep r
    | copy r => exact execCopy_keeps hkeep r
    | ecdsaSignChecked r => exact execEcdsaSignChecked_keeps hkeep r
    | ecdsaVerify r => exact execEcdsaVerify_keeps hkeep r
    | ecdh r => exact execEcdh_keeps hkeep r
    | keygen r => exact execKeygen_keeps hkeep r
    | pointCheck r => exact execPointCheck_keeps hkeep r
    | rsaVerify r => exact execRsaVerify_keeps hkeep r
    | pkeAbort c => exact execPkeAbort_keeps hkeep c
    | pkeOpComplete r fault => exact execPkeOpComplete_keeps hkeep r fault
    | pkeContextClaim => exact execPkeContextClaim_keeps hkeep
    | shelfStore c k w => exact execShelfStore_keeps hkeep c k w
    | shelfLenCommit => exact execShelfLenCommit_keeps hkeep
    | ecbEnc r => exact execEcbEnc_keeps hkeep r
    | ecbDec r => exact execEcbDec_keeps hkeep r
    | cbcEnc r => exact execCbcEnc_keeps hkeep r
    | cbcDec r => exact execCbcDec_keeps hkeep r
    | ctr r => exact execCtr_keeps hkeep r
    | cmacGen r => exact execCmacGen_keeps hkeep r
    | cmacChk r => exact execCmacChk_keeps hkeep r
    | gcmEnc r => exact execGcmEnc_keeps hkeep r
    | gcmDec r => exact execGcmDec_keeps hkeep r
    | sha256 r => exact execSha256_keeps hkeep r
    | sha384 r => exact execSha384_keeps hkeep r
    | sha512 r => exact execSha512_keeps hkeep r
    | hmac256Gen r => exact execHmac256Gen_keeps hkeep r
    | hmac384Gen r => exact execHmac384Gen_keeps hkeep r
    | hmac512Gen r => exact execHmac512Gen_keeps hkeep r
    | hmac256Chk r => exact execHmac256Chk_keeps hkeep r
    | hmac384Chk r => exact execHmac384Chk_keeps hkeep r
    | hmac512Chk r => exact execHmac512Chk_keeps hkeep r
    | kdf r => exact execKdf_keeps hkeep r
    | symAbort c => exact execSymAbort_keeps hkeep c
    | symOpComplete r => exact execSymOpComplete_keeps hkeep r
    | rngHealthFail apt => exact execRngHealthFail_keeps hkeep apt
    | rngRestartComplete => exact execRngRestartComplete_keeps hkeep
    | drbgReseed => exact execDrbgReseed_keeps hkeep
    | rngOutRead c => exact execRngOutRead_keeps hkeep c
    | counterIncrement c k => exact execCounterIncrement_keeps hkeep c k
    | ringConfig c k slots => exact execRingConfig_keeps hkeep c k slots
    | paramSave c g => exact execParamSave_keeps hkeep c g
    | larderStore c off w v => exact execLarderStore_keeps hkeep c off w v
    | holdoffEnd => exact execHoldoffEnd_keeps hkeep
    | arcOpen c t k n => exact execArcOpen_keeps hkeep c t k n
    | arcCtr c t k => exact execArcCtr_keeps hkeep c t k
    | arcCommit c t => exact execArcCommit_keeps hkeep c t
    | arcAbort c t => exact execArcAbort_keeps hkeep c t
    | arcTrim c k => exact execArcTrim_keeps hkeep c k
    | eraseAhead k => exact execEraseAhead_keeps hkeep k
    | sectorEraseComplete b => exact execSectorEraseComplete_keeps hkeep b
    | programUnitComplete b => exact execProgramUnitComplete_keeps hkeep b
    | eraseResume b => exact execEraseResume_keeps hkeep b
    | rtcTempUpdate t => exact execRtcTempUpdate_keeps hkeep t
    | ageingUpdate m => exact execAgeingUpdate_keeps hkeep m
    | ppsLoss => exact execPpsLoss_keeps hkeep
    | holdoverExpiry => exact execHoldoverExpiry_keeps hkeep
    | leapSecond => exact execLeapSecond_keeps hkeep
    | adjWindowEnd => exact execAdjWindowEnd_keeps hkeep
    | disciplineSave => exact execDisciplineSave_keeps hkeep
    | timeLatch c => exact execTimeLatch_keeps hkeep c
    | tdcCalibration fail => exact execTdcCalibration_keeps hkeep fail
    | watchOnset l => exact execWatchOnset_keeps hkeep l
    | watchUntrip x => exact execWatchUntrip_keeps hkeep x
    | disagreeOnset n lagB alike => exact execDisagreeOnset_keeps hkeep n lagB alike
    | stimulusRound => exact execStimulusRound_keeps hkeep
    | stimulusStep ok => exact execStimulusStep_keeps hkeep ok
    | cellarSample x => exact execCellarSample_keeps hkeep x
    | sramScrubStep bad => exact execSramScrubStep_keeps hkeep bad
    | larderScrubStep bad => exact execLarderScrubStep_keeps hkeep bad
    | archivePatrol bad => exact execArchivePatrol_keeps hkeep bad
    | sectorRefresh => exact execSectorRefresh_keeps hkeep
    | atticAppend => exact execAtticAppend_keeps hkeep
    | streamControl => exact execStreamControl_keeps hkeep
    | loopBitCompare p b => exact execLoopBitCompare_keeps hkeep p b
    | switchConditionChange p a b => exact execSwitchConditionChange_keeps hkeep p a b
    | dualNearMiss p len a => exact execDualNearMiss_keeps hkeep p len a
    | pulseoutReadbackMismatch p => exact execPulseoutReadbackMismatch_keeps hkeep p
    | cellarStart vbat => exact execCellarStart_keeps hkeep vbat
    | lifeFuseResume vcc => exact execLifeFuseResume_keeps hkeep vcc
    | _ => cases hline

theorem Keeps.of_exec {s t : State} {i : Instr} (h : exec i s = .next t) : Keeps s t := by
  have hkeeps := exec_keeps (Keeps.refl s) i
  rwa [h] at hkeeps

/-- Settles O56: the block idles on an empty queue, and the command in front keeps the fuses of the state it runs on. -/
theorem fusesStayBlown : Obligations.FusesStayBlown := by
  unfold Obligations.FusesStayBlown step
  intro s t h
  cases hqueue : s.pending with
  | nil =>
    rw [hqueue] at h
    cases h
    exact (Keeps.refl s).life
  | cons i rest =>
    rw [hqueue] at h
    exact (Keeps.of_exec h).life

end Sys2Proof.Machine
namespace Sys2Proof.Machine

/-! ## Registers that a reset drops (Table 0.3) -/

/-- A key that a filter on keys passes reads as before, any other as unlisted. -/
theorem lkGet_filter_key {α : Type} (d : α) (p : Nat → Bool) (m : List (Nat × α)) (a : Nat) :
    lkGet d (m.filter (fun e => p e.1)) a = if p a then lkGet d m a else d := by
  induction m with
  | nil => simp [lkGet]
  | cons e t ih =>
    obtain ⟨k, v⟩ := e
    by_cases hk : k = a
    · subst hk
      cases hp : p k <;> simp [hp, lkGet, ih]
    · cases hp : p k <;> simp [hp, lkGet, hk, ih]

/-- A field that the register file does not list stands at its default. -/
theorem State.rd_of_unlisted {s : State} {f : Field} (hdflt : f.dflt < 2 ^ 32)
    (h : lkGet (BitVec.ofNat 32 f.dflt) s.regs f.key = BitVec.ofNat 32 f.dflt) : s.rd f = f.dflt := by
  rw [State.rd, h, BitVec.toNat_ofNat, Nat.mod_eq_of_lt hdflt]

theorem lkGet_regsOf {d : Word} (l : List Field) (regs : List (Nat × Word)) (a : Nat) :
    lkGet d (regsOf l regs) a = if a ∈ l.map Field.key then lkGet d regs a else d :=
  (lkGet_filter_key d (fun k => (l.map Field.key).contains k) regs a).trans (by simp)

theorem State.rd_mainReset_kept (s : State) {f : Field} (hf : f ∈ keepFields) : s.mainReset.rd f = s.rd f := by
  have hkey : f.key ∈ keepFields.map Field.key := List.mem_map_of_mem hf
  simp only [State.rd, State.mainReset, lkGet_regsOf, if_pos hkey]

theorem State.rd_mainReset_default (s : State) {f : Field} (hdflt : f.dflt < 2 ^ 32)
    (hf : ∀ g ∈ keepFields, f.key ≠ g.key) : s.mainReset.rd f = f.dflt := by
  have hkey : f.key ∉ keepFields.map Field.key := by
    simpa [eq_comm] using hf
  exact State.rd_of_unlisted hdflt (by rw [State.mainReset, lkGet_regsOf, if_neg hkey])

/-! ## The machine right after its first power-on -/

/-- Settles O57. -/
theorem resetState : Obligations.ResetState := by
  unfold Obligations.ResetState
  refine ⟨rfl, rfl, by decide, by decide, rfl, rfl, rfl, rfl, rfl, State.reset_mem, State.reset_mem_wf,
    fun f hdflt hkind hunk => State.rd_of_unlisted hdflt ?_⟩
  simp [State.reset, lkGet, hkind.symm, hunk.symm]

/-! ## What a reset meets in progress (R337, R433) -/

/-- A unit in progress and a re-mask pass are torn: only memory, the line buffers, the Vault and the random draws change. -/
def State.Tears (s t : State) : Prop := ∃ d m c v e, t = { s with draws := d, mem := m, cpu := c, vlt := v, eng := e }

theorem State.Tears.trans {s t u : State} (h : s.Tears t) (k : t.Tears u) : s.Tears u := by
  obtain ⟨_, _, _, _, _, rfl⟩ := h
  obtain ⟨_, _, _, _, _, rfl⟩ := k
  exact ⟨_, _, _, _, _, rfl⟩

theorem State.tears_arcPut (s : State) (off : Nat) (l : List Byte) : s.Tears (s.arcPut off l) := by
  rw [State.arcPut, State.putBytes_eq]
  exact ⟨_, _, _, _, _, rfl⟩

theorem State.tears_anyWords {s t : State} (h : s.Tears t) (n : Nat) : s.Tears (t.anyWords n).2 :=
  h.trans ⟨_, _, _, _, _, rfl⟩

theorem State.tears_choose {s t : State} (h : s.Tears t) (n : Nat) : s.Tears (t.choose n).2 :=
  h.trans ⟨_, _, _, _, _, rfl⟩

theorem State.tears_refl (s : State) : s.Tears s := ⟨_, _, _, _, _, rfl⟩

theorem State.tears_tearUnit (s : State) (b : Fin 2) : s.Tears (s.tearUnit b) := by
  have hdrawn : s.Tears ((s.choose 3).2.anyWords 4).2 := State.tears_anyWords (State.tears_choose s.tears_refl 3) 4
  unfold State.tearUnit
  split
  · dsimp only
    split
    · exact hdrawn
    · split
      · exact hdrawn.trans (State.tears_arcPut _ _ _)
      · exact hdrawn.trans (State.tears_arcPut _ _ _)
  · exact s.tears_refl

/-- A bank that programs nothing tears nothing. -/
theorem State.tearUnit_idle {s : State} {b : Fin 2} (h : s.bank.at b = .idle) : s.tearUnit b = s := by
  unfold State.tearUnit
  rw [h]

theorem State.remaskTear_cases (s : State) : ∃ d v e, s.remaskTear = { s with draws := d, vlt := v, eng := e } := by
  unfold State.remaskTear State.choose State.drbgWords
  dsimp only
  repeat' split
  all_goals exact ⟨_, _, _, rfl⟩

/-- What a reset or a loss of power tears. -/
def State.torn (s : State) : State := ((s.tearUnit 0).tearUnit 1).remaskTear

theorem State.tears_torn (s : State) : s.Tears s.torn := by
  obtain ⟨d, v, e, h⟩ := ((s.tearUnit 0).tearUnit 1).remaskTear_cases
  exact ((s.tears_tearUnit 0).trans ((s.tearUnit 0).tears_tearUnit 1)).trans ⟨d, _, _, v, e, h⟩

section
variable (s : State)

@[simp] theorem State.torn_pending : s.torn.pending = s.pending := by
  obtain ⟨_, _, _, _, _, h⟩ := s.tears_torn
  rw [h]

@[simp] theorem State.torn_si : s.torn.si = s.si := by
  obtain ⟨_, _, _, _, _, h⟩ := s.tears_torn
  rw [h]

@[simp] theorem State.torn_cel : s.torn.cel = s.cel := by
  obtain ⟨_, _, _, _, _, h⟩ := s.tears_torn
  rw [h]

@[simp] theorem State.rd_torn (f : Field) : s.torn.rd f = s.rd f := by
  obtain ⟨_, _, _, _, _, h⟩ := s.tears_torn
  rw [h]
  rfl

end

theorem State.torn_mem {s : State} (h0 : s.bank.at 0 = .idle) (h1 : s.bank.at 1 = .idle) : s.torn.mem = s.mem := by
  obtain ⟨d, v, e, h⟩ := s.remaskTear_cases
  rw [State.torn, State.tearUnit_idle h0, State.tearUnit_idle h1, h]

/-! ## The reset itself (R94, R95, Table 3.7) -/

/-- RSTCAUSE as a reset of a kind with a WHY code writes it. -/
def rstCause (k : ResetKind) (code src : Nat) : List (Field × Nat) :=
  [(SYS_RSTCAUSE_KIND, k.code), (SYS_RSTCAUSE_WHY, code), (SYS_RSTCAUSE_SRC, if k = .warm ∧ code = 4 then src else 0xFF)]

/-- The MODE record of the entry to RISE finds the append buffer empty. -/
theorem State.modeRec_empty {s : State} (h : s.care.buf = []) (frm dest cause info level : Nat) :
    ∃ c, s.modeRec frm dest cause info level = { s with care := c } := by
  unfold State.modeRec State.attic State.atticRec
  rw [if_pos (by simp [h])]
  exact ⟨_, rfl⟩

/-- The main domain takes its reset values over what is torn; RSTCAUSE tells kind and cause, which are those given where RISE was
not already ahead (R94). -/
theorem State.enterReset_eq (s : State) (k0 : ResetKind) (why : Why) (src : Nat) :
    ∃ k code y c, s.enterReset k0 why src = { s.torn.mainReset.wrs (rstCause k code src) with sys := y, care := c } ∧
      y.mode = .rise ∧ y.begun = false ∧ (s.sys.mode ≠ .rise → k = k0 ∧ code = if k0 = .warm then why.code else 0) := by
  unfold State.enterReset
  extract_lets level joins k warm code low s1 s2 s3
  have hs2 : s2 = s.torn.mainReset.wrs (rstCause k code src) := by
    simp [s2, s1, rstCause, State.torn, warm]
  have hfirst (hm : s.sys.mode ≠ .rise) : k = k0 ∧ code = if k0 = .warm then why.code else 0 := by
    simp [k, code, joins, warm, hm]
  split
  · exact ⟨k, code, s3.sys, s2.care, by rw [← hs2], rfl, rfl, hfirst⟩
  · have hbuf : s3.care.buf = [] := by
      change s2.care.buf = []
      rw [hs2, State.wrs_eq]
      rfl
    obtain ⟨c, hc⟩ := State.modeRec_empty hbuf s.sys.mode.code Mode.rise.code 8 (k.code + 16 * code) level
    exact ⟨k, code, s3.sys, c, by rw [hc, ← hs2], rfl, rfl, hfirst⟩

/-- What reads after a reset: the fields of RSTCAUSE as they are written, the others as the reset of the main domain leaves them. -/
theorem State.rd_enterReset (s : State) (k0 : ResetKind) (why : Why) (src : Nat) :
    ∃ k code, (∀ f, (s.enterReset k0 why src).rd f = (s.torn.mainReset.wrs (rstCause k code src)).rd f) ∧
      (s.sys.mode ≠ .rise → k = k0 ∧ code = if k0 = .warm then why.code else 0) := by
  obtain ⟨k, code, y, c, heq, _, _, hfirst⟩ := s.enterReset_eq k0 why src
  exact ⟨k, code, fun f => by rw [heq]; rfl, hfirst⟩

theorem State.rd_wrs_rstCause_ne (s : State) (k : ResetKind) (code src : Nat) {f : Field} (hkind : f.key ≠ SYS_RSTCAUSE_KIND.key)
    (hwhy : f.key ≠ SYS_RSTCAUSE_WHY.key) (hsrc : f.key ≠ SYS_RSTCAUSE_SRC.key) :
    (s.wrs (rstCause k code src)).rd f = s.rd f :=
  s.rd_wrs_ne _ f (by simp [rstCause, hkind.symm, hwhy.symm, hsrc.symm])

theorem State.rd_wrs_rstCause_kind (s : State) (k : ResetKind) (code src : Nat) :
    (s.wrs (rstCause k code src)).rd SYS_RSTCAUSE_KIND = k.code := by
  have hk : k.code < 4 := by cases k <;> decide
  simp only [rstCause, State.wrs_cons, State.wrs_nil]
  rw [State.rd_wr_ne _ _ _ _ (by decide), State.rd_wr_ne _ _ _ _ (by decide), State.rd_wr_self _ _ _ (by decide)]
  exact Nat.mod_eq_of_lt hk

theorem State.rd_wrs_rstCause_why (s : State) (k : ResetKind) {code : Nat} (hcode : code < 8) (src : Nat) :
    (s.wrs (rstCause k code src)).rd SYS_RSTCAUSE_WHY = code := by
  simp only [rstCause, State.wrs_cons, State.wrs_nil]
  rw [State.rd_wr_ne _ _ _ _ (by decide), State.rd_wr_self _ _ _ (by decide)]
  exact Nat.mod_eq_of_lt hcode

theorem State.rd_wrs_rstCause_src (s : State) (k : ResetKind) (code src : Nat) :
    (s.wrs (rstCause k code src)).rd SYS_RSTCAUSE_SRC = if k = .warm ∧ code = 4 then src % 256 else 0xFF := by
  simp only [rstCause, State.wrs_cons, State.wrs_nil]
  rw [State.rd_wr_self _ _ _ (by decide)]
  split <;> rfl

/-- RSTCAUSE is no field that a reset leaves alone. -/
theorem key_rstCause_ne_of_mem_keepFields : ∀ f ∈ keepFields,
    f.key ≠ SYS_RSTCAUSE_KIND.key ∧ f.key ≠ SYS_RSTCAUSE_WHY.key ∧ f.key ≠ SYS_RSTCAUSE_SRC.key := by
  decide +kernel

theorem Why.code_lt (w : Why) : w.code < 8 := by
  cases w with
  | watchdog c => exact Nat.lt_of_lt_of_le (Nat.add_lt_add_left c.isLt 1) (by decide)
  | _ => decide

/-- Settles O22: the reset state of the main domain stands over the Cellar, the fuses, the queue and what no bank was programming;
the register file keeps the fields of Table 3.7, and RSTCAUSE is written into it. -/
theorem resetLeaves : Obligations.ResetLeaves := by
  unfold Obligations.ResetLeaves
  refine ⟨fun s k w src => ?state, fun s k w src => ?registers⟩
  case state =>
    obtain ⟨kind, code, y, c, heq, hmode, hbegun, _⟩ := s.enterReset_eq k w src
    rw [State.wrs_eq] at heq
    have htlog : s.torn.cel.tlog = s.cel.tlog := by rw [State.torn_cel]
    rw [heq]
    exact ⟨hmode, hbegun, rfl, rfl, rfl, rfl, rfl, congrArg Silicon.life s.torn_si, htlog, s.torn_pending,
      fun hidle => State.torn_mem hidle.1 hidle.2⟩
  case registers =>
    obtain ⟨kind, code, hrd, hfirst⟩ := s.rd_enterReset k w src
    refine ⟨fun f hdflt hkeep hkind hwhy hsrc => ?_, fun f hf => ?_, fun hrise => ?_⟩
    · rw [hrd, State.rd_wrs_rstCause_ne _ _ _ _ hkind hwhy hsrc, State.rd_mainReset_default _ hdflt hkeep]
    · obtain ⟨hkind, hwhy, hsrc⟩ := key_rstCause_ne_of_mem_keepFields f hf
      rw [hrd, State.rd_wrs_rstCause_ne _ _ _ _ hkind hwhy hsrc, State.rd_mainReset_kept _ hf, State.rd_torn]
    · obtain ⟨rfl, rfl⟩ := hfirst hrise
      have hcode : (if kind = .warm then w.code else 0) < 8 := by
        split
        · exact w.code_lt
        · decide
      refine ⟨(hrd _).trans (State.rd_wrs_rstCause_kind _ _ _ _), (hrd _).trans (State.rd_wrs_rstCause_why _ _ hcode _), ?_⟩
      rw [hrd, State.rd_wrs_rstCause_src]
      by_cases hwarm : kind = .warm <;> simp [hwarm]

end Sys2Proof.Machine
namespace Sys2Proof.Machine

/-! ## What marks and records leave (Table 18.6, R98) -/

/-- Only register fields, the watch and the Caretaker's buffer change. -/
def State.Marks (s t : State) : Prop := ∃ r w c, t = { s with regs := r, watch := w, care := c }

namespace State.Marks

theorem refl (s : State) : s.Marks s := ⟨_, _, _, rfl⟩

theorem trans {s t u : State} (h : s.Marks t) (k : t.Marks u) : s.Marks u := by
  obtain ⟨_, _, _, rfl⟩ := h
  obtain ⟨_, _, _, rfl⟩ := k
  exact ⟨_, _, _, rfl⟩

section
variable {s t : State} (h : s.Marks t)
include h

theorem sys : t.sys = s.sys := by
  obtain ⟨_, _, _, rfl⟩ := h
  rfl

theorem si : t.si = s.si := by
  obtain ⟨_, _, _, rfl⟩ := h
  rfl

theorem mem : t.mem = s.mem := by
  obtain ⟨_, _, _, rfl⟩ := h
  rfl

theorem tbs : t.tbs = s.tbs := by
  obtain ⟨_, _, _, rfl⟩ := h
  rfl

theorem hatch : t.hatch = s.hatch := by
  obtain ⟨_, _, _, rfl⟩ := h
  rfl

theorem con : t.con = s.con := by
  obtain ⟨_, _, _, rfl⟩ := h
  rfl

theorem stage : t.stage = s.stage := by
  rw [State.stage, h.si, State.stage]

theorem wr (f : Field) (v : Nat) : s.Marks (t.wr f v) := h.trans ⟨_, _, _, rfl⟩

theorem wrs (l : List (Field × Nat)) : s.Marks (t.wrs l) := h.trans ⟨_, _, _, State.wrs_eq t l⟩

theorem attic (typ : Nat) (body : List Byte) (rise : Bool) : s.Marks (t.attic typ body rise) := by
  refine h.trans ?_
  unfold State.attic State.atticRec
  split
  · exact ⟨_, _, _, rfl⟩
  · split
    · exact ⟨_, _, _, rfl⟩
    · exact ⟨_, _, _, rfl⟩

theorem lifeRec (verb : Nat) (old : BitVec 13) (mirror : Nat) : s.Marks (t.lifeRec verb old mirror) := h.attic _ _ _

theorem mirrorPut : s.Marks t.mirrorPut := h.wr _ _

theorem riseFail (k : Nat) (bad : Bool) : s.Marks (t.riseFail k bad) := by
  unfold State.riseFail
  split
  · exact h.wr _ _
  · exact h

theorem watchBack : s.Marks t.watchBack := by
  unfold State.watchBack
  dsimp only
  split
  · exact h.trans ⟨_, _, _, rfl⟩
  · exact h.trans ⟨_, _, _, rfl⟩

end

end State.Marks

/-- A record counts at most one that was lost. -/
theorem State.rd_attic_ne (s : State) (typ : Nat) (body : List Byte) (rise : Bool) {f : Field} (h : ATTIC_STAT_LOST.key ≠ f.key) :
    (s.attic typ body rise).rd f = s.rd f := by
  have hlost : (s.bump ATTIC_STAT_LOST).rd f = s.rd f := s.rd_wr_ne _ _ _ h
  unfold State.attic State.atticRec
  split
  · rfl
  · split
    · exact hlost
    · exact hlost

theorem State.rd_lifeRec_ne (s : State) (verb : Nat) (old : BitVec 13) (mirror : Nat) {f : Field} (h : ATTIC_STAT_LOST.key ≠ f.key) :
    (s.lifeRec verb old mirror).rd f = s.rd f := s.rd_attic_ne _ _ _ h

theorem Stage.code_lt (x : Stage) : x.code < 8 := by
  cases x <;> decide

theorem State.rd_mirrorPut_self (s : State) : s.mirrorPut.rd CEL_FLAGS_LIFE = s.stage.code :=
  (s.rd_wr_self _ _ (by decide)).trans (Nat.mod_eq_of_lt s.stage.code_lt)

/-! ## Fuses that all blow (R80 to R82) -/

/-- LIFE with the listed bits blown. -/
def lifeWith (l : BitVec 13) (bits : List Nat) : BitVec 13 := bits.foldl (fun x b => x ||| (1 : BitVec 13) <<< b) l

/-- The bit that a blow adds, as a number and as a shifted word. -/
theorem natCast_one_shiftLeft (b : Nat) : ((1 <<< b : Nat) : BitVec 13) = (1 : BitVec 13) <<< b := by
  apply BitVec.eq_of_toNat_eq
  simp

theorem blowBits_sound (bits : List Nat) (l : BitVec 13) : blowBits 0 bits l = (none, lifeWith l bits) := by
  induction bits generalizing l with
  | nil => rfl
  | cons b bits ih => 
    have hgood : ¬ (0 : BitVec 13).getLsbD b = true := by simp
    rw [blowBits, if_neg hgood, ih, natCast_one_shiftLeft]
    rfl

/-- The state with the listed bits of LIFE blown. -/
def State.blown (s : State) (bits : List Nat) : State := { s with si := { s.si with life := lifeWith s.si.life bits } }

theorem State.fuseBlow_sound {s : State} (h : s.si.stuck = 0) (bits : List Nat) : s.fuseBlow bits = (none, s.blown bits) := by
  rw [State.fuseBlow, h, blowBits_sound, State.blown]

/-! ## The end of a LIFE verb (R81, R82) -/

@[simp] theorem State.replyReset_si (s : State) (line : List Byte) (k : ResetKind) (w : Why) :
    (s.replyReset line k w).si = s.si := rfl

theorem State.rd_replyReset (s : State) (line : List Byte) (k : ResetKind) (w : Why) (f : Field) :
    (s.replyReset line k w).rd f = s.rd f := rfl

theorem State.replyReset_con (s : State) (line : List Byte) (k : ResetKind) (w : Why) :
    (s.replyReset line k w).con.busy = .reset k w ∧ (s.replyReset line k w).con.tx = s.con.tx ++ line := ⟨rfl, rfl⟩

/-- A verb ends with its mirror and record made, one of two replies sent, and its reset due. -/
theorem State.lifeEnd_eq (s : State) (tag : Option Byte) (verb : Nat) (old : BitVec 13) (bad : Option Nat) :
    ∃ line, s.lifeEnd tag verb old bad = (s.mirrorPut.lifeRec verb old (s.rd CEL_FLAGS_LIFE)).replyReset line
      (if verb = 2 then .erase else .warm) .unlockOrLife := by
  cases bad with
  | none => exact ⟨_, rfl⟩
  | some b => exact ⟨_, rfl⟩

theorem State.lifeEnd_si (s : State) (tag : Option Byte) (verb : Nat) (old : BitVec 13) (bad : Option Nat) :
    (s.lifeEnd tag verb old bad).si = s.si := by
  obtain ⟨line, h⟩ := s.lifeEnd_eq tag verb old bad
  rw [h, State.replyReset_si]
  exact ((State.Marks.refl s).mirrorPut.lifeRec verb old (s.rd CEL_FLAGS_LIFE)).si

theorem State.lifeEnd_busy (s : State) (tag : Option Byte) (verb : Nat) (old : BitVec 13) (bad : Option Nat) :
    (s.lifeEnd tag verb old bad).con.busy = .reset (if verb = 2 then .erase else .warm) .unlockOrLife := by
  obtain ⟨line, h⟩ := s.lifeEnd_eq tag verb old bad
  rw [h]
  rfl

theorem State.lifeBlow_life {s : State} (h : s.si.stuck = 0) (tag : Option Byte) (verb : Nat) (bits : List Nat) :
    (s.lifeBlow tag verb bits).si.life = lifeWith s.si.life bits := by
  rw [State.lifeBlow, State.lifeEnd_si, State.fuseBlow_sound h, State.blown]

theorem State.lifeBlow_busy (s : State) (tag : Option Byte) (verb : Nat) (bits : List Nat) :
    (s.lifeBlow tag verb bits).con.busy = .reset (if verb = 2 then .erase else .warm) .unlockOrLife := by
  rw [State.lifeBlow, State.lifeEnd_busy]

theorem State.lifeVcc_enough {s : State} (h : s.fuseVcc = true) (tag : Option Byte) (f : State → State) : s.lifeVcc tag f = f s :=
  if_pos h

theorem State.doSeal_ready {s : State} (hvcc : s.fuseVcc = true) (hkeys : s.sealReady = true) (tag : Option Byte) :
    s.doSeal tag = s.sealFloors.lifeBlow tag 1 (s.nextBits 1) := by
  rw [State.doSeal, State.lifeVcc_enough hvcc, if_pos hkeys]

/-- Only between two bits can a dip of VCC come. -/
theorem State.doErase_whole {s : State} (hvcc : s.fuseVcc = true) (hbits : (s.nextBits s.stage.eraseBits).length ≠ 2)
    (tag : Option Byte) :
    s.doErase tag = (s.eraseVault.choose 2).2.lifeBlow tag 2 (s.nextBits s.stage.eraseBits) := by
  rw [State.doErase, State.lifeVcc_enough hvcc]
  exact if_neg (fun h => hbits h.1)

theorem State.doRefit_enough {s : State} (hepoch : s.epoch ≠ 2) (hvcc : s.fuseVcc = true) (tag : Option Byte) :
    s.doRefit tag = s.lifeBlow tag 4 (s.nextBits 1) := by
  rw [State.doRefit, if_neg hepoch, State.lifeVcc_enough hvcc]

theorem State.verbReset_due {s : State} {k : ResetKind} {w : Why} (h : s.con.busy = .reset k w) :
    s.verbReset = s.enterReset k w 0xFF := by
  rw [State.verbReset, h]

/-- The state with another reading of VCC. -/
def State.atVcc (s : State) (vcc : Nat) : State := { s with si := { s.si with vcc := vcc } }

theorem State.fuseResume_enough {s : State} {tag : Option Byte} {old : BitVec 13} {vcc : Nat} (h : s.con.busy = .fuse tag old)
    (hvcc : (s.atVcc vcc).fuseVcc = true) :
    s.fuseResume vcc = ((s.atVcc vcc).fuseBlow (s.nextBits s.stage.eraseBits)).2.lifeEnd tag 2 old
      ((s.atVcc vcc).fuseBlow (s.nextBits s.stage.eraseBits)).1 := by
  rw [State.fuseResume, h]
  exact if_pos hvcc

theorem State.doUnlock_locked (s : State) (tag : Option Byte) : (s.doUnlock tag).rd CEL_FLAGS_LOCKED = 0 := by
  have hsrc : ((s.wr CEL_FLAGS_LOCKED 0).wr CEL_LOCKSRC 0xFF).rd CEL_FLAGS_LOCKED = 0 :=
    (State.rd_wr_ne _ _ _ _ (by decide)).trans (s.rd_wr_zero _)
  rw [State.doUnlock, State.rd_replyReset, State.rd_attic_ne _ _ _ _ (by decide)]
  exact hsrc

theorem State.doUnlock_con (s : State) (tag : Option Byte) : (s.doUnlock tag).con.busy = .reset .warm .unlockOrLife ∧
    (s.doUnlock tag).con.tx = s.con.tx ++ conBytes (txt "OK" ++ tagBytes tag ++ fld "reset" (txt "WARM")) := by
  obtain ⟨hbusy, htx⟩ := State.replyReset_con _ (conBytes (txt "OK" ++ tagBytes tag ++ fld "reset" (txt "WARM"))) _ _
  refine ⟨hbusy, htx.trans ?_⟩
  rw [State.attic_con]
  rfl

/-- Settles O13: each form's guards are met, and its bits are blown at the line's state; the reply goes out at once, the reset
stands as what CON waits for. -/
theorem lifeFormsAct : Obligations.LifeFormsAct := by
  unfold Obligations.LifeFormsAct
  intro s l hready
  refine ⟨fun hpass hvcc => ?fit, fun hpass hvcc hkeys => ?sealed, fun hpass hvcc hbits => ?erase, fun hpass hvcc => ?retire,
    fun hpass hepoch hvcc => ?refit, fun hpass => ?unlock, fun hpass => ?reset, fun k w h => ?follows,
    fun tag old vcc h hstuck hvcc => ?resume, fun u verb bits hstuck => ⟨State.lifeBlow_life hstuck _ _ _, u.lifeBlow_busy _ _ _⟩⟩
  case fit =>
    rw [exec_line_passes hready hpass rfl]
    exact congrArg Host.Outcome.next (State.lifeVcc_enough hvcc _ (fun u => u.lifeBlow l.tag 0 (u.nextBits 1)))
  case sealed =>
    rw [exec_line_passes hready hpass rfl]
    exact congrArg Host.Outcome.next (State.doSeal_ready hvcc hkeys _)
  case erase =>
    rw [exec_line_passes hready hpass rfl]
    exact congrArg Host.Outcome.next (State.doErase_whole hvcc hbits _)
  case retire =>
    rw [exec_line_passes hready hpass rfl]
    exact congrArg Host.Outcome.next (State.lifeVcc_enough hvcc _ (fun u => u.lifeBlow l.tag 3 [12]))
  case refit =>
    rw [exec_line_passes hready hpass rfl]
    exact congrArg Host.Outcome.next (State.doRefit_enough hepoch hvcc _)
  case unlock =>
    obtain ⟨hbusy, htx⟩ := s.atLine.doUnlock_con l.tag
    exact ⟨_, exec_line_passes hready hpass rfl, hbusy, State.doUnlock_locked _ _, htx⟩
  case reset => exact ⟨_, exec_line_passes hready hpass rfl, State.replyReset_con s.atLine _ _ _⟩
  case follows => exact congrArg Host.Outcome.next (State.verbReset_due h)
  case resume =>
    refine ⟨_, congrArg Host.Outcome.next (State.fuseResume_enough h hvcc), ?_, State.lifeEnd_busy _ _ _ _ _, ?_⟩
    · rw [State.lifeEnd_si]
      rfl
    · rw [State.lifeEnd_si, State.fuseBlow_sound (s := s.atVcc vcc.toNat) hstuck]
      rfl

end Sys2Proof.Machine
namespace Sys2Proof.Machine

/-! ## VCC (R86, R90, R96) -/

section
variable {s : State} {vcc : Nat}

theorem State.powerOn_intact (hmode : s.sys.mode = .cellar) (hvcc : 2700 ≤ vcc) (hvalid : s.cel.valid = true) :
    s.powerOn vcc = { s with si := { s.si with vcc := vcc, cellarOnVcc := true } }.enterReset .cold .unlockOrLife 0xFF := by
  rw [State.powerOn, if_neg (by simp [hmode, hvcc])]
  exact if_pos hvalid

theorem State.powerOn_lost (hmode : s.sys.mode = .cellar) (hvcc : 2700 ≤ vcc) (hvalid : s.cel.valid = false) :
    s.powerOn vcc =
      { s with si := { s.si with vcc := vcc, cellarOnVcc := true } }.cellarLost.enterReset .cellarLoss .unlockOrLife 0xFF := by
  rw [State.powerOn, if_neg (by simp [hmode, hvcc])]
  exact if_neg (by simp [hvalid])

theorem State.vccFall_low (hmode : s.sys.mode ≠ .cellar) (hvcc : vcc < 2700) :
    s.vccFall vcc = { s with si := { s.si with vcc := vcc }, sys := { s.sys with holdVcc := true } } := by
  rw [State.vccFall, if_neg (by simp [hmode, hvcc])]

theorem State.swingBack_vlt (s : State) : ∃ v, s.swingBack = { s with vlt := v } := by
  unfold State.swingBack
  split
  · exact ⟨s.vlt, rfl⟩
  · exact ⟨_, rfl⟩

/-- The main domain off: its reset state over what is torn, and the mode that was left. -/
theorem State.cellarEntry_low (hmode : s.sys.mode ≠ .cellar) (hvcc : vcc < 2450) :
    ∃ v, s.cellarEntry vcc = { s.torn.mainReset with
      vlt := v
      si := { s.torn.si with vcc := vcc, pll := false, cellarOnVcc := false }
      sys := { mode := .cellar, prev := s.sys.mode, held := s.sys.held }
      cel := { s.torn.mainReset.cel with left := some (s.sys.mode, s.utcS) } } := by
  obtain ⟨v, hv⟩ := s.torn.mainReset.swingBack_vlt
  refine ⟨v, ?_⟩
  rw [State.cellarEntry, if_neg (by simp [hmode, hvcc]), ← State.torn, hv]
  rfl

end

/-! ## VBAT (R523, R525, R526) -/

section
variable {s : State} {vcc vbat : Nat}

theorem State.supplySwitch_eq (s : State) (vcc vbat : Nat) :
    s.supplySwitch vcc vbat = { s with si := { s.si with
      vcc := vcc, vbat := vbat, cellarOnVcc := if vcc < 2600 then false else if 2650 < vcc then true else s.si.cellarOnVcc } } := rfl

theorem State.cellarFloor_low (hbat : s.si.cellarOnVcc = false) (hvbat : vbat < 1900) :
    s.cellarFloor vbat = { s with
      si := { s.si with vbat := vbat }
      vlt := { s.vlt with ent := [], swing := none, pass := false, dirty := [], wr := Tab.const 4 {}, jobs := [], gen := [],
                          waiting := [] }
      cel := { s.cel with valid := false } } := by
  rw [State.cellarFloor, if_neg (by simp [hbat, hvbat])]

theorem State.cellarStart_enough (hmode : s.sys.mode = .cellar) (hvbat : 1900 ≤ vbat) :
    s.cellarStart vbat = { s with si := { s.si with vbat := vbat, cellarOnVcc := false } } := by
  rw [State.cellarStart, if_neg (by simp [hmode, hvbat])]

end

theorem State.vioChange_enough {s : State} {vio : Nat} (h : 1500 ≤ vio) :
    s.vioChange vio = { s with si := { s.si with vio := vio } } := if_pos h

/-- Settles O20: each supply on its side of its level. -/
theorem suppliesAct : Obligations.SuppliesAct := by
  unfold Obligations.SuppliesAct
  intro s
  refine ⟨fun vcc hmode hvcc hvalid => congrArg Host.Outcome.next (State.powerOn_intact hmode hvcc hvalid),
    fun vcc hmode hvcc hvalid => congrArg Host.Outcome.next (State.powerOn_lost hmode hvcc hvalid),
    fun vcc hmode hvcc => congrArg Host.Outcome.next (State.vccFall_low hmode hvcc), fun vcc hmode hvcc => ?cellar,
    fun vcc vbat hvcc => ?toVbat, fun vcc vbat hvcc => ?toVcc,
    fun vbat hbat hvbat => ⟨_, congrArg Host.Outcome.next (State.cellarFloor_low hbat hvbat), rfl, rfl, rfl, rfl⟩,
    fun vbat hmode hvbat => congrArg Host.Outcome.next (State.cellarStart_enough hmode hvbat),
    fun vio hvio => congrArg Host.Outcome.next (State.vioChange_enough hvio)⟩
  case cellar =>
    obtain ⟨v, hentry⟩ := State.cellarEntry_low hmode hvcc
    exact ⟨_, congrArg Host.Outcome.next hentry, rfl, rfl, rfl, rfl, rfl, rfl, rfl, State.torn_mem⟩
  case toVbat =>
    change Host.Outcome.next (s.supplySwitch vcc.toNat vbat.toNat) = _
    rw [State.supplySwitch_eq, if_pos hvcc]
  case toVcc =>
    change Host.Outcome.next (s.supplySwitch vcc.toNat vbat.toNat) = _
    rw [State.supplySwitch_eq, if_neg (by omega), if_pos hvcc]

end Sys2Proof.Machine
namespace Sys2Proof.Machine

/-! ## RST_N and its holds (R95, R104 to R106) -/

section
variable {s : State}

theorem State.rstAssert_long {ns : Nat} (hheld : s.sys.held = false) (hvio : 1500 ≤ s.si.vio) (hmode : s.sys.mode ≠ .cellar)
    (hns : 10000 ≤ ns) : s.rstAssert ns = s.enterReset .warm .rstN 0xFF := by
  have hlong : ¬ (s.sys.held = true ∨ s.si.vio < 1500 ∨ ns < 2000) := by
    simp only [hheld, Bool.false_eq_true, false_or]
    omega
  rw [State.rstAssert, if_neg hlong, if_neg hmode, if_pos hns]

theorem State.rstRelease_short {ms : Nat} (hheld : s.sys.held = true) (hms : ms ≤ 100) :
    s.rstRelease ms = { s with sys := { s.sys with held := false } } := by
  rw [State.rstRelease, if_neg (by simp [hheld])]
  exact if_pos (.inl hms)

theorem State.rstRelease_long {ms : Nat} (hheld : s.sys.held = true) (hms : 100 < ms) (hvalid : s.cel.valid = true) :
    s.rstRelease ms = ({ s with sys := { s.sys with held := false } }.wrs
      [(CEL_RSTHOLD_ACTIVE, 0), (CEL_RSTDUR_MS, Nat.min 0xFFFFFFFF ms)]).holdEntry := by
  rw [State.rstRelease, if_neg (by simp [hheld])]
  exact if_neg (by simp [hvalid, hms])

theorem State.holdDetect_begins (hheld : s.sys.held = true) (hvalid : s.cel.valid = true)
    (hactive : s.isSet CEL_RSTHOLD_ACTIVE = false) (hvio : 1500 ≤ s.si.vio) :
    s.holdDetect = s.wrs [(CEL_RSTHOLD_ACTIVE, 1), (CEL_RSTHOLD_STUCK, 0),
      (CEL_RSTSTART_UTC, if s.timeUnk then 0 else (s.cel.rtc - 104858) / 2 ^ 20)] := by
  rw [State.holdDetect, if_neg (by simp [hheld, hvalid, hactive, hvio])]

theorem State.resetStuck_raises (hheld : s.sys.held = true) (hvalid : s.cel.valid = true)
    (hactive : s.isSet CEL_RSTHOLD_ACTIVE = true) (hstuck : s.isSet CEL_RSTHOLD_STUCK = false) :
    s.resetStuck = (s.setb CEL_RSTHOLD_STUCK).raise 0x18 := by
  rw [State.resetStuck, if_pos (by simp [hheld, hvalid, hactive, hstuck])]

end

/-! ## Erasure deferred by VCC (R100) -/

theorem State.deferredBlow_due {s : State} (hmode : s.sys.mode = .erased) (hpend : s.isSet SYS_RISE_FUSEPEND = true)
    (hvcc : s.fuseVcc = true) (hgave : s.sys.fuseGaveUp = false) : s.deferredBlow = s.eraseBlow := by
  rw [State.deferredBlow, if_pos (by simp [hmode, hpend, hvcc, hgave])]

/-- With every bit blown the mirror follows, the LIFE record is made, and neither pending flag stays. -/
theorem State.eraseBlow_sound {s : State} (h : s.si.stuck = 0) :
    s.eraseBlow = ((s.blown (s.nextBits s.stage.eraseBits)).mirrorPut.lifeRec 2 s.si.life (s.rd CEL_FLAGS_LIFE)).wrs
      [(SYS_RISE_FUSEPEND, 0), (CEL_FLAGS_ERASEPEND, 0)] := by
  rw [State.eraseBlow, State.fuseBlow_sound h]

theorem State.eraseBlow_effect {s : State} (h : s.si.stuck = 0) :
    s.eraseBlow.rd SYS_RISE_FUSEPEND = 0 ∧ s.eraseBlow.rd CEL_FLAGS_ERASEPEND = 0 ∧
      s.eraseBlow.rd CEL_FLAGS_LIFE = s.eraseBlow.stage.code ∧ s.eraseBlow.mem = s.mem ∧
      s.eraseBlow.si.life = lifeWith s.si.life (s.nextBits s.stage.eraseBits) := by
  have hmarks : (s.blown (s.nextBits s.stage.eraseBits)).Marks s.eraseBlow := by
    rw [State.eraseBlow_sound h]
    exact ((State.Marks.refl _).mirrorPut.lifeRec _ _ _).wrs _
  have hcleared : ∀ f ∈ [SYS_RISE_FUSEPEND, CEL_FLAGS_ERASEPEND], s.eraseBlow.rd f = 0 := fun f hf => by
    rw [State.eraseBlow_sound h]
    exact State.rd_wrs_zero (l := [SYS_RISE_FUSEPEND, CEL_FLAGS_ERASEPEND]) (.inl hf)
  refine ⟨hcleared _ (by simp), hcleared _ (by simp), ?_, hmarks.mem, by rw [hmarks.si, State.blown]⟩
  rw [hmarks.stage, State.eraseBlow_sound h, State.rd_wrs_ne _ _ _ (by decide), State.rd_lifeRec_ne _ _ _ _ (by decide),
    State.rd_mirrorPut_self]

/-! ## The order of the steps of RISE (R96, R97, R101, R422) -/

theorem State.rd_riseFail_ne (s : State) (k : Nat) (bad : Bool) {f : Field} (h : SYS_RISE_FAIL.key ≠ f.key) :
    (s.riseFail k bad).rd f = s.rd f := by
  unfold State.riseFail
  split
  · exact s.rd_wr_ne _ _ _ h
  · rfl

theorem State.rd_riseFail_self (s : State) {k : Nat} (hk : k < 16) (bad : Bool) :
    (s.riseFail k bad).rd SYS_RISE_FAIL = if s.rd SYS_RISE_FAIL = 0 ∧ bad = true then k else s.rd SYS_RISE_FAIL := by
  unfold State.riseFail
  simp only [and_comm (a := bad = true)]
  split
  · exact (s.rd_wr_self _ _ (by decide)).trans (Nat.mod_eq_of_lt hk)
  · rfl

theorem State.riseStep_stay {s : State} {e : RiseEnv} {k : Nat} (h : s.riseCan e k = false) : s.riseStep e k = s := by
  rw [State.riseStep, h]
  rfl

/-- A step that is done is not run again. -/
theorem State.riseCan_done {s : State} {e : RiseEnv} {k : Nat} (h : k ≤ s.rd SYS_RISE_STEP) : s.riseCan e k = false := by
  simp [State.riseCan, Nat.not_lt.mpr h]

/-- A step waits for the one before it, and steps 11 and later for step 9. -/
theorem State.riseCan_early {s : State} {e : RiseEnv} {k : Nat} (h : s.rd SYS_RISE_STEP < Nat.min (k - 1) 9) :
    s.riseCan e k = false := by
  simp only [State.riseCan, decide_eq_false (Nat.not_le.mpr h), Bool.and_false, Bool.false_and]

/-- What step 4 and step 6 wait for (R97, R422). -/
theorem State.riseCan_pll (s : State) {e : RiseEnv} (h : e.pllLocks = false) : s.riseCan e 4 = false := by
  simp [State.riseCan, h]

theorem State.riseCan_holdoff {s : State} (e : RiseEnv) (h : s.holdoff = true) : s.riseCan e 6 = false := by
  simp [State.riseCan, h]

theorem State.foldl_riseStep_stay {s : State} {e : RiseEnv} {l : List Nat} (h : ∀ k ∈ l, s.riseCan e k = false) :
    l.foldl (State.riseStep e) s = s := by
  induction l with
  | nil => rfl
  | cons k l ih =>
    rw [List.foldl_cons, State.riseStep_stay (h k List.mem_cons_self)]
    exact ih fun m hm => h m (List.mem_cons_of_mem k hm)

/-- RISE has begun and has come to a step. -/
structure State.RiseAt (s : State) (k : Nat) : Prop where
  mode : s.sys.mode = .rise
  begun : s.sys.begun = true
  step : s.rd SYS_RISE_STEP = k

/-- What RISE leaves after a step: what the step did, a failed self test, and SYS_RISE.STEP. -/
def State.riseDone (s : State) (e : RiseEnv) (k : Nat) : State :=
  ((s.riseDo e k).riseFail k (decide (e.failStep.val = k) && decide (5 ≤ k))).wr SYS_RISE_STEP k

theorem State.riseDone_marks (s : State) (e : RiseEnv) (k : Nat) : (s.riseDo e k).Marks (s.riseDone e k) :=
  ((State.Marks.refl _).riseFail _ _).wr _ _

theorem State.rd_riseDone_ne (s : State) (e : RiseEnv) (k : Nat) {f : Field} (hfail : SYS_RISE_FAIL.key ≠ f.key)
    (hstep : SYS_RISE_STEP.key ≠ f.key) : (s.riseDone e k).rd f = (s.riseDo e k).rd f :=
  (State.rd_wr_ne _ _ _ _ hstep).trans (State.rd_riseFail_ne _ _ _ hfail)

/-- One of the steps 3 to 9 that can run and does not leave RISE. -/
theorem State.riseStep_done {s : State} {e : RiseEnv} {k : Nat} (hk : k < 9)
    (hcan : s.riseCan e (k + 1) = true) (hdo : (s.riseDo e (k + 1)).RiseAt k) :
    s.riseStep e (k + 1) = s.riseDone e (k + 1) ∧ (s.riseDone e (k + 1)).RiseAt (k + 1) := by
  have hmarks := (State.Marks.refl (s.riseDo e (k + 1))).riseFail (k + 1) (decide (e.failStep.val = k + 1) && decide (5 ≤ k + 1))
  have hstep := (s.riseDo e (k + 1)).rd_riseFail_ne (k + 1) (decide (e.failStep.val = k + 1) && decide (5 ≤ k + 1))
    (f := SYS_RISE_STEP) (by decide)
  constructor
  · have hne : ¬ (k + 1 = 11) := by omega
    simp only [State.riseStep, hcan, Bool.not_true, Bool.false_eq_true, if_false, hne, false_and]
    rw [if_pos ⟨by rw [hmarks.sys, hdo.mode], by rw [hmarks.sys, hdo.begun], by rw [hstep, hdo.step]; exact Nat.lt_succ_self k⟩]
    rfl
  · refine ⟨by rw [← hdo.mode, ← hmarks.sys]; rfl, by rw [← hdo.begun, ← hmarks.sys]; rfl, ?_⟩
    exact (State.rd_wr_self _ _ _ (by decide)).trans (Nat.mod_eq_of_lt (Nat.lt_of_lt_of_le (Nat.succ_lt_succ hk) (by decide)))

/-- RISE stands at step 3 without the PLL, at step 5 in hold-off: every later step is left out. -/
theorem State.RiseAt.stay {s : State} {e : RiseEnv} {k : Nat} (h : s.RiseAt k) (hk : k < 9) (hwait : s.riseCan e (k + 1) = false)
    {l : List Nat} (hl : ∀ m ∈ l, k < m) : l.foldl (State.riseStep e) s = s := by
  refine State.foldl_riseStep_stay fun m hm => ?_
  obtain hnext | hlater : m = k + 1 ∨ k + 1 < m := (Nat.lt_or_eq_of_le (hl m hm)).symm.imp_left Eq.symm
  · rw [hnext, hwait]
  · refine State.riseCan_early ?_
    rw [h.step]
    exact Nat.lt_min.mpr ⟨by omega, hk⟩

/-- The steps that a run of RISE goes through. -/
theorem State.riseRun_eq (s : State) (e : RiseEnv) :
    s.riseRun e = [3, 4, 5, 6, 7, 8, 9, 10, 11, 12, 13, 14].foldl (State.riseStep e) s := rfl

/-! ## Steps 1 to 3 (R85, R98) -/

/-- RISE has begun: the fuses are read, the PLL is off, the timebase follows the RTC. -/
def State.riseBegun (s : State) (e : RiseEnv) : State :=
  { s with sys := { s.sys with begun := true }, si := { s.si with stuck := e.fuseStuck, pll := false },
           tbs := { s.tbs with off := s.rtcOff } }

/-- The mirror of the stage after its check (R85). -/
def State.mirrorCheck (s : State) : State :=
  if s.rd CEL_FLAGS_LIFE = s.stage.code then s else s.mirrorPut.lifeRec 5 s.si.life (s.rd CEL_FLAGS_LIFE)

theorem State.riseStart_eq (s : State) (e : RiseEnv) :
    s.riseStart e = ((s.riseBegun e).mirrorCheck.watchBack).wr SYS_RISE_STEP 2 := rfl

theorem State.Marks.mirrorCheck {s t : State} (h : s.Marks t) : s.Marks t.mirrorCheck := by
  unfold State.mirrorCheck
  split
  · exact h
  · exact h.mirrorPut.lifeRec _ _ _

theorem State.rd_mirrorCheck_life (s : State) : s.mirrorCheck.rd CEL_FLAGS_LIFE = s.stage.code := by
  unfold State.mirrorCheck
  split
  · assumption
  · rw [State.rd_lifeRec_ne _ _ _ _ (by decide), State.rd_mirrorPut_self]

theorem State.rd_mirrorCheck_fail (s : State) : s.mirrorCheck.rd SYS_RISE_FAIL = s.rd SYS_RISE_FAIL := by
  unfold State.mirrorCheck
  split
  · rfl
  · rw [State.rd_lifeRec_ne _ _ _ _ (by decide)]
    exact s.rd_wr_ne _ _ _ (by decide)

theorem State.rd_watchBack_ne (s : State) {f : Field} (h : LDR_STAT_HOLDOFF.key ≠ f.key) : s.watchBack.rd f = s.rd f := by
  unfold State.watchBack
  dsimp only
  split
  · exact State.rd_wr_ne _ _ _ _ h
  · rfl

section
variable (s : State) (e : RiseEnv)

theorem State.riseStart_marks : (s.riseBegun e).Marks (s.riseStart e) :=
  ((State.Marks.refl _).mirrorCheck.watchBack).wr _ _

theorem State.rd_riseStart_step : (s.riseStart e).rd SYS_RISE_STEP = 2 := State.rd_wr_self _ _ _ (by decide)

theorem State.rd_riseStart_life : (s.riseStart e).rd CEL_FLAGS_LIFE = s.stage.code := by
  rw [State.riseStart_eq, State.rd_wr_ne _ _ _ _ (by decide), State.rd_watchBack_ne _ (by decide), State.rd_mirrorCheck_life]
  rfl

theorem State.rd_riseStart_fail : (s.riseStart e).rd SYS_RISE_FAIL = s.rd SYS_RISE_FAIL := by
  rw [State.riseStart_eq, State.rd_wr_ne _ _ _ _ (by decide), State.rd_watchBack_ne _ (by decide), State.rd_mirrorCheck_fail]
  rfl

end

/-- A ROM that fails its check is recorded, nothing else. -/
theorem State.riseDone_rom (s : State) (e : RiseEnv) : s.riseDone e 3 = (s.riseFail 3 (!e.romOk)).wr SYS_RISE_STEP 3 := by
  simp [State.riseDone, State.riseDo, State.riseFail]

/-- What steps 1 to 3 leave (R85, R98): the mirror follows the fuses, and only registers, the watch and records have changed. -/
theorem State.riseDone_start (s : State) (e : RiseEnv) :
    ((s.riseStart e).riseDone e 3).rd CEL_FLAGS_LIFE = s.stage.code ∧ ((s.riseStart e).riseDone e 3).mem = s.mem ∧
      ((s.riseStart e).riseDone e 3).si.life = s.si.life ∧ ((s.riseStart e).riseDone e 3).tbs.off = s.rtcOff ∧
      ((s.riseStart e).riseDone e 3).rd SYS_RISE_FAIL =
        if s.rd SYS_RISE_FAIL = 0 ∧ e.romOk = false then 3 else s.rd SYS_RISE_FAIL := by
  have hmarks : (s.riseBegun e).Marks ((s.riseStart e).riseDone e 3) :=
    ((s.riseStart_marks e).riseFail 3 (!e.romOk)).trans (State.riseDone_marks _ e 3)
  refine ⟨?_, hmarks.mem, by rw [hmarks.si]; rfl, by rw [hmarks.tbs]; rfl, ?_⟩
  · rw [State.rd_riseDone_ne _ _ _ (by decide) (by decide), ← s.rd_riseStart_life e]
    exact State.rd_riseFail_ne _ _ _ (by decide)
  · rw [State.riseDone_rom, State.rd_wr_ne _ _ _ _ (by decide), State.rd_riseFail_self _ (by decide), State.rd_riseStart_fail]
    simp only [Bool.not_eq_true']

/-- Without the PLL the run ends after step 3. -/
theorem State.riseRun_noPll {s : State} {e : RiseEnv} (h : s.RiseAt 2) (hpll : e.pllLocks = false) :
    s.riseRun e = s.riseDone e 3 ∧ (s.riseDone e 3).RiseAt 3 := by
  have hcan : s.riseCan e 3 = true := by simp [State.riseCan, h.mode, h.begun, h.step]
  have hmarks := (State.Marks.refl s).riseFail 3 (!e.romOk)
  obtain ⟨hrun, hdone⟩ := State.riseStep_done (by decide) hcan (k := 2)
    ⟨(congrArg Sys.mode hmarks.sys).trans h.mode, (congrArg Sys.begun hmarks.sys).trans h.begun,
      (s.rd_riseFail_ne _ _ (by decide)).trans h.step⟩
  refine ⟨?_, hdone⟩
  rw [State.riseRun_eq, List.foldl_cons, hrun]
  exact hdone.stay (by decide) (State.riseCan_pll _ hpll) (by decide)

/-! ## Steps 4 and 5 (R398, R459, R468) -/

/-- A sparse map reads like a register list: by the first entry of the key. -/
theorem spGet_eq_lkGet {α : Type} (d : α) (m : List (Nat × α)) (a : Nat) : spGet d m a = lkGet d m a := by
  induction m with
  | nil => rfl
  | cons e m ih => rw [spGet, lkGet, ih]

/-- A byte of a range that was cleared reads as unlisted. -/
theorem State.getB_memClear (s : State) (lo hi a : Nat) :
    (s.memClear lo hi).getB a = if lo ≤ a ∧ a < hi then memDflt a else s.getB a := by
  have hfilter := lkGet_filter_key (memDflt a) (fun k => !(decide (lo ≤ k) && decide (k < hi))) s.mem a
  simp only [State.getB, spGet_eq_lkGet]
  refine hfilter.trans ?_
  by_cases h : lo ≤ a ∧ a < hi
  · simp [h]
  · rw [if_neg h, if_pos]
    simpa only [Bool.not_eq_true', ← Bool.decide_and, decide_eq_false_iff_not] using h

/-- SRAM and crate RAM are clear after step 5. -/
theorem State.getB_riseClear (s : State) {a : Nat} (h : inSram a 1 = true ∨ crateBase ≤ a ∧ a < crateBase + 0x10000) :
    s.riseClear.getB a = 0 := by
  have hrange : sramBase ≤ a ∧ a < sramBase + 0x40000 ∨ crateBase ≤ a ∧ a < crateBase + 0x10000 :=
    h.imp_left fun hsram => by
      have hin : sramBase ≤ a ∧ a + 1 ≤ sramBase + 0x40000 := by
        simpa only [inSram, within, Bool.and_eq_true, decide_eq_true_eq] using hsram
      exact hin
  have hdflt : memDflt a = 0 := by
    unfold sramBase crateBase at hrange
    rw [memDflt, if_neg]
    unfold arcBase
    omega
  have hshelf : ¬ (shelfBase ≤ a ∧ a < shelfBase + 0x4000) := by
    unfold sramBase crateBase at hrange
    unfold shelfBase
    omega
  rw [State.riseClear, State.shelvesClear, State.getB_memClear, if_neg hshelf]
  change ((s.memClear _ _).memClear _ _).getB a = 0
  rw [State.getB_memClear, State.getB_memClear, hdflt]
  rcases hrange with hsram | hcrate
  · simp [hsram]
  · simp [hcrate]

section
variable {s : State} {e : RiseEnv}

/-- With the PLL in lock and the Larder in hold-off the run takes steps 4 and 5 and waits at step 6. -/
theorem State.riseRun_holdoff (h : s.RiseAt 3) (hpll : e.pllLocks = true) (hhold : s.holdoff = true) :
    s.riseRun e = (s.riseDone e 4).riseDone e 5 ∧ ((s.riseDone e 4).riseDone e 5).RiseAt 5 := by
  have hcan : s.riseCan e 4 = true := by simp [State.riseCan, h.mode, h.begun, h.step, hpll]
  obtain ⟨hrun, hdone⟩ := State.riseStep_done (by decide) hcan (k := 3)
    ⟨h.mode, h.begun, (s.rd_wr_ne _ _ _ (by decide)).trans h.step⟩
  have hcan' : (s.riseDone e 4).riseCan e 5 = true := by simp [State.riseCan, hdone.mode, hdone.begun, hdone.step]
  obtain ⟨hrun', hdone'⟩ := State.riseStep_done (by decide) hcan' (k := 4) ⟨hdone.mode, hdone.begun, hdone.step⟩
  have hhold' : ((s.riseDone e 4).riseDone e 5).holdoff = true := by
    have hrd : ((s.riseDone e 4).riseDone e 5).rd LDR_STAT_HOLDOFF = s.rd LDR_STAT_HOLDOFF :=
      calc ((s.riseDone e 4).riseDone e 5).rd LDR_STAT_HOLDOFF
        _ = (s.riseDone e 4).riseClear.rd LDR_STAT_HOLDOFF := State.rd_riseDone_ne _ _ _ (by decide) (by decide)
        _ = s.risePll.rd LDR_STAT_HOLDOFF := State.rd_riseDone_ne _ _ _ (by decide) (by decide)
        _ = s.rd LDR_STAT_HOLDOFF := s.rd_wr_ne _ _ _ (by decide)
    rw [State.holdoff, State.isSet, hrd]
    exact hhold
  refine ⟨?_, hdone'⟩
  rw [State.riseRun_eq, List.foldl_cons, State.riseStep_stay (State.riseCan_done (Nat.le_of_eq h.step.symm)), List.foldl_cons, hrun, List.foldl_cons,
    hrun']
  exact hdone'.stay (by decide) (State.riseCan_holdoff e hhold') (by decide)

/-- What steps 4 and 5 leave (R398, R459, R468). -/
theorem State.riseDone_pllClear (s : State) (e : RiseEnv) :
    ((s.riseDone e 4).riseDone e 5).isSet TICK_STAT_RUN = true ∧ ((s.riseDone e 4).riseDone e 5).si.pll = true ∧
      ((s.riseDone e 4).riseDone e 5).tbs.mono = 0 ∧ ((s.riseDone e 4).riseDone e 5).tbs.off = s.rtcOff ∧
      ((s.riseDone e 4).riseDone e 5).hatch = Tab.const 16 {} ∧
      ∀ a, inSram a 1 = true ∨ crateBase ≤ a ∧ a < crateBase + 0x10000 → ((s.riseDone e 4).riseDone e 5).getB a = 0 := by
  have hpll : s.risePll.Marks (s.riseDone e 4) := s.riseDone_marks e 4
  have hclear : (s.riseDone e 4).riseClear.Marks ((s.riseDone e 4).riseDone e 5) := State.riseDone_marks _ e 5
  have hsi : ((s.riseDone e 4).riseDone e 5).si = s.risePll.si := hclear.si.trans hpll.si
  have htbs : ((s.riseDone e 4).riseDone e 5).tbs = s.risePll.tbs := hclear.tbs.trans hpll.tbs
  have hrun : ((s.riseDone e 4).riseDone e 5).rd TICK_STAT_RUN = 1 :=
    calc ((s.riseDone e 4).riseDone e 5).rd TICK_STAT_RUN
      _ = (s.riseDone e 4).riseClear.rd TICK_STAT_RUN := State.rd_riseDone_ne _ _ _ (by decide) (by decide)
      _ = s.risePll.rd TICK_STAT_RUN := State.rd_riseDone_ne _ _ _ (by decide) (by decide)
      _ = 1 := s.rd_setb_self _ (by decide)
  refine ⟨by rw [State.isSet, hrun]; rfl, by rw [hsi]; rfl, by rw [htbs]; rfl, by rw [htbs]; rfl, hclear.hatch, fun a ha => ?_⟩
  rw [State.getB, hclear.mem]
  exact State.getB_riseClear _ ha

end

/-! ## The commands -/

theorem State.rise_starts {s : State} {e : RiseEnv} (hmode : s.sys.mode = .rise) (hheld : s.sys.held = false)
    (hbegun : s.sys.begun = false) : s.rise e = (s.riseStart e).riseRun e := by
  rw [State.rise, if_neg (by simp [hmode, hheld]), if_pos (by simp [hbegun])]

theorem State.RiseAt.risePllLock {s : State} (h : s.RiseAt 3) (e : RiseEnv) :
    s.risePllLock e = s.riseRun { e with pllLocks := true } := if_pos ⟨h.mode, h.begun, h.step⟩

/-- Settles O21: the pin's commands by their guards; RISE by the steps that can run, of which the lock and hold-off decide; the
deferred blow with every bit sound. -/
theorem resetPinAndRiseAct : Obligations.ResetPinAndRiseAct := by
  unfold Obligations.ResetPinAndRiseAct
  refine ⟨fun s => ⟨fun ns hheld hvio hmode hns => congrArg Host.Outcome.next (State.rstAssert_long hheld hvio hmode hns),
    fun ms hheld hms => congrArg Host.Outcome.next (State.rstRelease_short hheld hms),
    fun ms hheld hms hvalid => congrArg Host.Outcome.next (State.rstRelease_long hheld hms hvalid),
    fun hheld hvalid hactive hvio => congrArg Host.Outcome.next (State.holdDetect_begins hheld hvalid hactive hvio),
    fun hheld hvalid hactive hstuck => congrArg Host.Outcome.next (State.resetStuck_raises hheld hvalid hactive hstuck)⟩,
    fun s e => ⟨fun hmode hheld hbegun => ?start, fun hmode hbegun hstep => ?lock, fun hmode hpend hvcc hgave => ?deferred⟩⟩
  case start =>
    have hexec : exec (.rise e) s = .next ((s.riseStart e).riseRun e) :=
      congrArg Host.Outcome.next (State.rise_starts hmode hheld hbegun)
    refine ⟨hexec, fun hpll => ⟨_, hexec, ?_⟩⟩
    have hstart := s.riseStart_marks e
    have hat : (s.riseStart e).RiseAt 2 :=
      ⟨(congrArg Sys.mode hstart.sys).trans hmode, congrArg Sys.begun hstart.sys, s.rd_riseStart_step e⟩
    obtain ⟨hrun, hdone⟩ := State.riseRun_noPll hat hpll
    rw [hrun]
    exact ⟨hdone.mode, hdone.begun, hdone.step, s.riseDone_start e⟩
  case lock =>
    have hat : s.RiseAt 3 := ⟨hmode, hbegun, hstep⟩
    have hexec : exec (.risePllLock e) s = .next (s.riseRun { e with pllLocks := true }) :=
      congrArg Host.Outcome.next (hat.risePllLock e)
    refine ⟨hexec, fun hhold => ⟨_, hexec, ?_⟩⟩
    obtain ⟨hrun, hdone⟩ := State.riseRun_holdoff hat (e := { e with pllLocks := true }) rfl hhold
    rw [hrun]
    exact ⟨hdone.mode, hdone.step, State.riseDone_pllClear _ _⟩
  case deferred =>
    have hexec : exec .deferredFuseBlow s = .next s.eraseBlow :=
      congrArg Host.Outcome.next (State.deferredBlow_due hmode hpend hvcc hgave)
    exact ⟨hexec, fun hstuck => ⟨_, hexec, State.eraseBlow_effect hstuck⟩⟩

end Sys2Proof.Machine

namespace Sys2Proof.Machine

/-! ## Numbers as they are typed, and read back (R149) -/

theorem hexDigit_mod (n : Nat) : hexDigit (n % 16) = hexDigit n := by
  simp [hexDigit]

/-- A hex digit is a name character that reads as the low digit of the number. -/
theorem hexDigit_reads (n : Nat) : nameChar (hexDigit n) = true ∧ hexVal (hexDigit n) = some (n % 16) := by
  have hall : ∀ k : Fin 16, nameChar (hexDigit k.val) = true ∧ hexVal (hexDigit k.val) = some k.val := by decide
  rw [← hexDigit_mod]
  exact hall ⟨n % 16, Nat.mod_lt _ (by decide)⟩

/-- A decimal digit is a name character that reads as the number's last digit. -/
theorem decDigit_reads (n : Nat) :
    nameChar (BitVec.ofNat 8 (0x30 + n % 10)) = true ∧ decVal (BitVec.ofNat 8 (0x30 + n % 10)) = some (n % 10) := by
  have hall : ∀ k : Fin 10, nameChar (BitVec.ofNat 8 (0x30 + k.val)) = true ∧
      decVal (BitVec.ofNat 8 (0x30 + k.val)) = some k.val := by decide
  exact hall ⟨n % 10, Nat.mod_lt _ (by decide)⟩

/-- A digit behind the others is the last one. -/
theorem digits_concat (base : Nat) (f : Byte → Option Nat) (b : Byte) (l : List Byte) (a : Nat) :
    digits base f a (l ++ [b]) = (digits base f a l).bind (fun x => (f b).map (base * x + ·)) := by
  induction l generalizing a with
  | nil => simp only [List.nil_append, digits, Option.bind_some]; cases f b <;> rfl
  | cons c t ih =>
    simp only [List.cons_append, digits]
    cases f c with
    | none => rfl
    | some d => exact ih _

@[simp] theorem hexN_length (n v : Nat) : (hexN n v).length = n := by
  induction n generalizing v with
  | zero => rfl
  | succ n ih => simp [hexN, ih]

theorem hexN_nameChar (n v : Nat) : (hexN n v).all nameChar = true := by
  induction n generalizing v with
  | zero => rfl
  | succ n ih => simp [hexN, ih, (hexDigit_reads v).1]

/-- The digits read as the number's last `n` digits. -/
theorem digits_hexN (n v : Nat) : digits 16 hexVal 0 (hexN n v) = some (v % 16 ^ n) := by
  induction n generalizing v with
  | zero => simp [hexN, digits, Nat.mod_one]
  | succ n ih =>
    rw [hexN, digits_concat, ih, (hexDigit_reads v).2]
    simp only [Option.bind_some, Option.map_some, Option.some.injEq]
    rw [Nat.pow_succ', Nat.mod_mul, Nat.add_comm]

/-- A number of `n` hex digits reads as itself where `n` digits are admitted. -/
theorem parseHex_hexN {lo hi n v : Nat} (hlo : lo ≤ n) (hhi : n ≤ hi) (hv : v < 16 ^ n) :
    parseHex lo hi (hexN n v) = some v := by
  rw [parseHex, hexN_length, if_pos (by simp [inRange, hlo, hhi]), digits_hexN, Nat.mod_eq_of_lt hv]

theorem decFuel_nameChar (f v : Nat) : (decFuel f v).all nameChar = true := by
  induction f generalizing v with
  | zero => rfl
  | succ f ih =>
    rw [decFuel, List.all_append, Bool.and_eq_true]
    refine ⟨?_, by simp [(decDigit_reads v).1]⟩
    split
    · rfl
    · exact ih _

theorem decFuel_length_pos (f v : Nat) : 0 < (decFuel (f + 1) v).length := by
  simp [decFuel]

/-- A number below 10^k has at most k digits. -/
theorem decFuel_length_le {f k v : Nat} (hk : 0 < k) (hv : v < 10 ^ k) : (decFuel f v).length ≤ k := by
  induction f generalizing k v with
  | zero => exact Nat.zero_le k
  | succ f ih =>
    rw [decFuel, List.length_append, List.length_singleton]
    split
    next => simpa [Nat.succ_le_iff] using hk
    next hbig =>
      match k, hk, hv with
      | 1, _, hv => exact absurd hv hbig
      | k + 2, _, hv => exact Nat.succ_le_succ (ih (Nat.succ_pos k) (by rw [Nat.pow_succ] at hv; omega))

theorem digits_decFuel {f v : Nat} (hv : v < 10 ^ f) : digits 10 decVal 0 (decFuel f v) = some v := by
  induction f generalizing v with
  | zero =>
    obtain rfl : v = 0 := by simpa using hv
    rfl
  | succ f ih =>
    rw [decFuel, digits_concat, (decDigit_reads v).2]
    split
    next hsmall => simp [digits, Nat.mod_eq_of_lt hsmall]
    next =>
      rw [ih (by rw [Nat.pow_succ] at hv; omega)]
      simp [Nat.div_add_mod]

theorem dec_nameChar (v : Nat) : (dec v).all nameChar = true := decFuel_nameChar 40 v

theorem dec_length_pos (v : Nat) : 0 < (dec v).length := decFuel_length_pos 39 v

theorem dec_length_le {k v : Nat} (hk : 0 < k) (hv : v < 10 ^ k) : (dec v).length ≤ k := decFuel_length_le hk hv

theorem parseDec_dec {v : Nat} (hv : v < 10 ^ 40) : parseDec (dec v) = some v := by
  rw [parseDec, if_neg (List.ne_nil_of_length_pos (dec_length_pos v)), dec, digits_decFuel hv]

/-- A name with its number, of at most two digits, reads as the number. -/
theorem parseIdx_dec {lim n : Nat} (pre : String) (hn : n < lim) (hlim : lim ≤ 100) :
    parseIdx pre lim (txt pre ++ dec n) = some n := by
  have hlen : (dec n).length ≤ 2 := dec_length_le (by decide) (by omega)
  simp only [parseIdx, List.take_left, List.drop_left, hlen, and_self, if_true, parseDec_dec (show n < 10 ^ 40 by omega), hn]

/-! ## Lines of name characters and their tokens (Table 4.2) -/

/-- A word of 1 to `hi` name characters. -/
def plainWord (hi : Nat) (w : List Byte) : Bool := inRange 1 hi w.length && w.all nameChar

theorem plainWord_hexN {hi n v : Nat} (h : inRange 1 hi n = true) : plainWord hi (hexN n v) = true := by
  simp [plainWord, h, hexN_nameChar]

theorem plainWord_dec {hi k v : Nat} (hk : 0 < k) (hv : v < 10 ^ k) (hhi : k ≤ hi) : plainWord hi (dec v) = true := by
  simp only [plainWord, inRange, dec_nameChar, Bool.and_true, Bool.and_eq_true, decide_eq_true_eq]
  exact ⟨dec_length_pos v, Nat.le_trans (dec_length_le hk hv) hhi⟩

/-- A name of name characters with a number. -/
theorem plainWord_txt_dec {pre : String} {n : Nat} (hpre : plainWord 8 (txt pre) = true) (hn : n < 100) :
    plainWord 32 (txt pre ++ dec n) = true := by
  have hlen : (dec n).length ≤ 2 := dec_length_le (by decide) (by omega)
  simp only [plainWord, inRange, Bool.and_eq_true, decide_eq_true_eq] at hpre
  obtain ⟨⟨hlo, hhi⟩, hchars⟩ := hpre
  simp only [plainWord, inRange, List.length_append, List.all_append, hchars, dec_nameChar, Bool.and_true, Bool.and_eq_true,
    decide_eq_true_eq]
  omega

theorem plainWord_iff {hi : Nat} {w : List Byte} :
    plainWord hi w = true ↔ inRange 1 hi w.length = true ∧ w.all nameChar = true := Bool.and_eq_true_iff

/-- A name character stands for itself in uppercase. -/
theorem up_of_nameChar : ∀ b : Byte, nameChar b = true → up b = b := by
  decide +kernel

theorem ne_of_nameChar {b c : Byte} (hb : nameChar b = true) (hc : nameChar c = false) : b ≠ c := by
  rintro rfl
  exact absurd hb (by simp [hc])

theorem not_mem_of_nameChar {w : List Byte} {c : Byte} (hw : w.all nameChar = true) (hc : nameChar c = false) : c ∉ w :=
  fun hmem => ne_of_nameChar (List.all_eq_true.1 hw c hmem) hc rfl

theorem map_up_of_nameChar {w : List Byte} (h : w.all nameChar = true) : w.map up = w :=
  (List.map_congr_left fun b hb => up_of_nameChar b (List.all_eq_true.1 h b hb)).trans w.map_id

/-- Words behind a text, each after one space. -/
def wordsBehind (ws : List (List Byte)) : List Byte := ws.flatMap (fun w => 0x20 :: w)

/-- A token: no space in it, and not empty. -/
def isToken (w : List Byte) : Prop := w ≠ [] ∧ 0x20 ∉ w

/-- Bytes without a space join the token in progress. -/
theorem tokens_append {t : List Byte} (ht : 0x20 ∉ t) (w l : List Byte) : tokens w (t ++ l) = tokens (w ++ t) l := by
  induction t generalizing w with
  | nil => rw [List.nil_append, List.append_nil]
  | cons b t ih =>
    rw [List.mem_cons, not_or] at ht
    rw [List.cons_append, tokens, if_neg (Ne.symm ht.1), ih ht.2, List.append_assoc, List.singleton_append]

theorem tokens_wordsBehind {ws : List (List Byte)} (hws : ∀ w ∈ ws, isToken w) {w : List Byte} (hw : w ≠ []) :
    tokens w (wordsBehind ws) = w :: ws := by
  induction ws generalizing w with
  | nil => simp [wordsBehind, tokens, hw]
  | cons x ws ih =>
    rw [List.forall_mem_cons] at hws
    obtain ⟨⟨hne, hspace⟩, hws⟩ := hws
    calc tokens w (wordsBehind (x :: ws))
      _ = w :: tokens [] (x ++ wordsBehind ws) := by simp [wordsBehind, tokens, hw]
      _ = w :: tokens x (wordsBehind ws) := by rw [tokens_append hspace, List.nil_append]
      _ = w :: x :: ws := by rw [ih hws hne]

/-- The words of a line are its tokens. -/
theorem tokens_line {w : List Byte} {ws : List (List Byte)} (hw : isToken w) (hws : ∀ w ∈ ws, isToken w) :
    tokens [] (w ++ wordsBehind ws) = w :: ws := by
  rw [tokens_append hw.2, List.nil_append, tokens_wordsBehind hws hw.1]

theorem isToken_of_plainWord {hi : Nat} {w : List Byte} (h : plainWord hi w = true) : isToken w := by
  obtain ⟨hlen, hchars⟩ := plainWord_iff.1 h
  refine ⟨fun hnil => ?_, not_mem_of_nameChar hchars (by decide)⟩
  simp [hnil, inRange] at hlen

/-- An argument as it is typed. -/
def argText (a : LineArg) : List Byte := a.1 ++ 0x3D :: a.2

/-- An argument of name characters (Table 4.2). -/
def plainArg (a : LineArg) : Bool := plainWord 16 a.1 && plainWord 128 a.2

/-- Of name characters before a "=", none is one. -/
theorem takeWhile_nameChar {w : List Byte} (h : w.all nameChar = true) (v : List Byte) :
    (w ++ 0x3D :: v).takeWhile (· != 0x3D) = w := by
  rw [List.takeWhile_append_of_pos fun b hb => bne_iff_ne.2 (ne_of_nameChar (List.all_eq_true.1 h b hb) (by decide)),
    List.takeWhile_cons_of_neg (by decide), List.append_nil]

theorem parseArg_argText {a : LineArg} (h : plainArg a = true) : parseArg (argText a) = some a := by
  obtain ⟨hname, hval⟩ := Bool.and_eq_true_iff.1 h
  obtain ⟨hlen, hchars⟩ := plainWord_iff.1 hname
  have hdrop : (a.1 ++ 0x3D :: a.2).drop (a.1.length + 1) = a.2 := by simp [List.drop_append]
  have hlt : a.1.length < (a.1 ++ 0x3D :: a.2).length := by simp
  simp only [parseArg, argText, takeWhile_nameChar hchars, hdrop, map_up_of_nameChar hchars, hlen, (plainWord_iff.1 hval).1,
    hchars, hlt, decide_true, Bool.and_self, if_true]

theorem filterMap_parseArg {as : List LineArg} (h : ∀ a ∈ as, plainArg a = true) : (as.map argText).filterMap parseArg = as := by
  induction as with
  | nil => rfl
  | cons a as ih =>
    rw [List.forall_mem_cons] at h
    obtain ⟨ha, has⟩ := h
    rw [List.map_cons, List.filterMap_cons_some (parseArg_argText ha), ih has]

theorem isNoun_argText (a : LineArg) : isNoun (argText a) = false := by
  simp [isNoun, argText]

theorem isNoun_of_plainWord {w : List Byte} (h : plainWord 32 w = true) : isNoun w = true := by
  obtain ⟨hlen, hchars⟩ := plainWord_iff.1 h
  have hhead : ∀ c : Byte, nameChar c = false → w.head? ≠ some c :=
    fun c hc heq => not_mem_of_nameChar hchars hc (List.mem_of_head? heq)
  have heq : ∀ b ∈ w, b ≠ 0x3D := fun b hb => ne_of_nameChar (List.all_eq_true.1 hchars b hb) (by decide)
  simpa [isNoun, hlen] using ⟨⟨heq, hhead 0x40 (by decide)⟩, hhead 0x2A (by decide)⟩

/-- Nouns and arguments of name characters are taken as they are typed. -/
theorem parseRest_plain {verb : List Byte} {ns : List (List Byte)} {as : List LineArg}
    (hcount : ns.length ≤ 1 ∨ ns.length = 2 ∧ twoNouns verb = true) (hns : ∀ n ∈ ns, plainWord 32 n = true)
    (has : ∀ a ∈ as, plainArg a = true) : parseRest verb (ns ++ as.map argText) = some (ns, as) := by
  have htake : (ns ++ as.map argText).takeWhile isNoun = ns := by
    rw [List.takeWhile_append_of_pos fun n hn => isNoun_of_plainWord (hns n hn)]
    cases as <;> simp [isNoun_argText]
  have hnouns : ns.map (·.map up) = ns :=
    (List.map_congr_left fun n hn => map_up_of_nameChar (plainWord_iff.1 (hns n hn)).2).trans ns.map_id
  simp only [parseRest, htake, List.drop_left, filterMap_parseArg has, List.length_map, true_and, if_pos hcount, hnouns]

/-! ## The tag and the check (R121, R122) -/

theorem crc16Shift_lt (n c : Nat) : crc16Shift (n + 1) c < 0x10000 := by
  induction n generalizing c with
  | zero => simp only [crc16Shift]; split <;> exact Nat.mod_lt _ (by decide)
  | succ n ih => exact ih _

theorem crc16_lt (l : List Byte) : crc16 l < 0x10000 := by
  rcases List.eq_nil_or_concat l with rfl | ⟨l, b, rfl⟩
  · decide
  · simp only [crc16, List.concat_eq_append, List.foldl_append, List.foldl_cons, List.foldl_nil]
    exact crc16Shift_lt 7 _

/-- The tag and the check as the line's last tokens. -/
def tagWord (tag : Byte) : List Byte := 0x40 :: hexN 2 tag.toNat
def checkWord (c : Nat) : List Byte := 0x2A :: hexN 4 c

theorem isToken_cons_hexN {b : Byte} (hb : b ≠ 0x20) (n v : Nat) : isToken (b :: hexN n v) := by
  refine ⟨List.cons_ne_nil _ _, fun h => ?_⟩
  rcases List.mem_cons.1 h with h | h
  · exact hb h.symm
  · exact not_mem_of_nameChar (hexN_nameChar n v) (by decide) h

theorem parseTag_tagWord (tag : Byte) : parseTag (tagWord tag) = some tag := by
  simp [parseTag, tagWord, parseHex_hexN (Nat.le_refl 2) (Nat.le_refl 2) tag.isLt]

theorem parseCheck_checkWord {c : Nat} (hc : c < 0x10000) : parseCheck (checkWord c) = some c :=
  parseHex_hexN (Nat.le_refl 4) (Nat.le_refl 4) hc

theorem takeCheck_checkWord {c : Nat} (hc : c < 0x10000) (l : List (List Byte)) :
    takeCheck (l ++ [checkWord c]) = some (l, some c) := by
  have hhead : (checkWord c).head? = some 0x2A := rfl
  simp only [takeCheck, List.getLast?_concat, hhead, if_true, parseCheck_checkWord hc, Option.map_some, List.dropLast_concat]

theorem takeTag_tagWord (tag : Byte) (l : List (List Byte)) : takeTag (l ++ [tagWord tag]) = some (l, some tag) := by
  have hhead : (tagWord tag).head? = some 0x40 := rfl
  simp only [takeTag, List.getLast?_concat, hhead, if_true, parseTag_tagWord, Option.map_some, List.dropLast_concat]

/-- The check that stands on a line. -/
def lineCheck (tag : Byte) (body : List Byte) : Nat := crc16 (body ++ txt " @" ++ hexN 2 tag.toNat ++ txt " ")

theorem lineCheck_lt (tag : Byte) (body : List Byte) : lineCheck tag body < 0x10000 := crc16_lt _

/-- A line ends with its tag and its check, each a word of its own. -/
theorem lineOf_wordsBehind (tag : Byte) (w : List Byte) (ws : List (List Byte)) :
    lineOf tag (w ++ wordsBehind ws) =
      w ++ wordsBehind (ws ++ [tagWord tag] ++ [checkWord (lineCheck tag (w ++ wordsBehind ws))]) := by
  have htag : txt " @" = [0x20, 0x40] := by decide
  have hsp : txt " " = [0x20] := by decide
  have hstar : txt "*" = [0x2A] := by decide
  simp [lineOf, lineCheck, wordsBehind, tagWord, checkWord, htag, hsp, hstar]

/-- A text that does not end with a space has none to lose. -/
theorem trimR_concat {b : Byte} (hb : b ≠ 0x20) (l : List Byte) : trimR (l ++ [b]) = l ++ [b] := by
  have hne : (b == 0x20) = false := beq_eq_false_iff_ne.2 hb
  rw [trimR, List.reverse_concat, List.dropWhile, hne, List.reverse_cons, List.reverse_reverse]

/-- The check covers what stands before its "*". -/
theorem checked_lineOf (tag : Byte) (body : List Byte) : crc16 (checked (lineOf tag body)) = lineCheck tag body := by
  obtain ⟨l, c, hline, hcheck⟩ : ∃ l c, lineOf tag body = l ++ txt "*" ++ hexN 4 c ∧ crc16 l = lineCheck tag body :=
    ⟨_, _, rfl, rfl⟩
  have hlast : hexDigit c ≠ 0x20 := ne_of_nameChar (hexDigit_reads c).1 (by decide)
  have htrim : trimR (lineOf tag body) = l ++ txt "*" ++ hexN 4 c := by
    rw [hline, hexN, ← List.append_assoc, trimR_concat hlast]
  have hstar : (txt "*").length = 1 := by decide
  have htail : (l ++ txt "*" ++ hexN 4 c).length - 5 = l.length := by
    rw [List.length_append, List.length_append, hstar, hexN_length]
    omega
  have htake : (l ++ txt "*" ++ hexN 4 c).take l.length = l := by
    rw [List.append_assoc, List.take_left]
  rw [← hcheck]
  exact congrArg crc16 (by rw [checked, htrim, htail, htake])

/-! ## Lines of name characters and the forms they give -/

theorem VerbName.parseVerb_text (v : VerbName) : parseVerb v.text = some v.text := by
  cases v <;> decide

theorem VerbName.find_text (v : VerbName) : VerbName.all.find? (fun n => n.text == v.text) = some v := by
  cases v <;> decide

theorem VerbName.plainWord_text (v : VerbName) : plainWord 32 v.text = true := by
  cases v <;> decide

/-- The words behind the verb. -/
def operandWords (ns : List (List Byte)) (as : List LineArg) : List (List Byte) := ns ++ as.map argText

theorem isToken_argText {a : LineArg} (h : plainArg a = true) : isToken (argText a) := by
  obtain ⟨hname, hval⟩ := Bool.and_eq_true_iff.1 h
  obtain ⟨hne, hspace⟩ := isToken_of_plainWord hname
  refine ⟨List.append_ne_nil_of_left_ne_nil hne _, ?_⟩
  rw [argText, List.mem_append, List.mem_cons, not_or, not_or]
  exact ⟨hspace, by decide, (isToken_of_plainWord hval).2⟩

/-- A line of a hardware verb with nouns and arguments of name characters, its tag and its check, is taken apart into what it was
put together from. -/
theorem parseLine_plain {v : VerbName} {ns : List (List Byte)} {as : List LineArg} (tag : Byte)
    (hcount : ns.length ≤ 1 ∨ ns.length = 2 ∧ twoNouns v.text = true) (hns : ∀ n ∈ ns, plainWord 32 n = true)
    (has : ∀ a ∈ as, plainArg a = true) :
    parseLine (lineOf tag (v.text ++ wordsBehind (operandWords ns as))) =
      some ⟨v.text, ns, as, some tag, some (lineCheck tag (v.text ++ wordsBehind (operandWords ns as)))⟩ := by
  have hwords : ∀ c, ∀ w ∈ operandWords ns as ++ [tagWord tag] ++ [checkWord c], isToken w := by
    intro c w hw
    simp only [operandWords, List.mem_append, List.mem_map, List.mem_singleton] at hw
    rcases hw with ((hw | ⟨a, ha, rfl⟩) | rfl) | rfl
    · exact isToken_of_plainWord (hns w hw)
    · exact isToken_argText (has a ha)
    · exact isToken_cons_hexN (by decide) 2 _
    · exact isToken_cons_hexN (by decide) 4 _
  rw [lineOf_wordsBehind, parseLine, tokens_line (isToken_of_plainWord v.plainWord_text) (hwords _), ← List.cons_append,
    takeCheck_checkWord (lineCheck_lt _ _), ← List.cons_append]
  simp only [takeTag_tagWord, v.parseVerb_text, operandWords, parseRest_plain hcount hns has, Option.map_some]

/-- A form whose operands are name characters is read from its line. -/
theorem State.readsAs_plain {s : State} {body : List Byte} {v : Verb} (ns : List (List Byte)) (as : List LineArg) (tag : Byte)
    (hbody : body = v.name.text ++ wordsBehind (operandWords ns as))
    (hcount : ns.length ≤ 1 ∨ ns.length = 2 ∧ twoNouns v.name.text = true) (hns : ∀ n ∈ ns, plainWord 32 n = true)
    (has : ∀ a ∈ as, plainArg a = true)
    (hform : ∀ t c, s.formAt ⟨v.name.text, ns, as, t, c⟩ (ns.headD []) v.name = (v, none)) : s.readsAs tag body v := by
  subst hbody
  exact ⟨_, parseLine_plain tag hcount hns has, rfl, congrArg some (checked_lineOf tag _).symm, v.name.find_text, hform _ _⟩

/-! ## Sound operands (R148, R149) -/

/-- A sound value of the one argument that a form takes. -/
theorem Raw.one_sound {α : Type} {r : Raw} {name : String} {value : List Byte} {f : List Byte → Option α} {x : α} (d : α)
    (k : α → Verb) (hargs : r.args = [(txt name, value)]) (hx : f value = some x) : r.one name f d k = (k x, none) := by
  simp [Raw.one, Raw.req, Raw.arg, Raw.beyond, Raw.dup, firstOf, need, hargs, hx, List.eraseDups_cons]

theorem Raw.opt_sound {α : Type} {r : Raw} {name : String} {value : List Byte} {f : List Byte → Option α} {x : α}
    (harg : r.arg name = some value) (hx : f value = some x) : r.opt name f = (some x, none) := by
  simp [Raw.opt, harg, hx, need]

theorem Raw.oneN_sound {r : Raw} {value : List Byte} {n : Nat} (d : Nat) (k : Nat → Verb) (hargs : r.args = [(txt "N", value)])
    (hn : parseDec value = some n) : r.oneN d k = (k n, none) := by
  have harg : r.arg "N" = some value := by simp [Raw.arg, hargs]
  have hbeyond : r.beyond ["N"] = none := by simp [Raw.beyond, Raw.dup, need, hargs, List.eraseDups_cons]
  simp [Raw.oneN, Raw.opt_sound harg hn, hbeyond, firstOf]

theorem parsePort_dec (p : PortId) : parsePort (txt "P" ++ dec p.val) = some p := by
  rw [parsePort, parseIdx_dec "P" p.isLt (by decide), Option.map_some, finOf_val]

theorem parseId_hexN (id : Word) : parseId (hexN 8 id.toNat) = some id := by
  rw [parseId, parseHex_hexN (by decide) (by decide) id.isLt, Option.map_some, BitVec.ofNat_toNat, BitVec.setWidth_eq]

theorem plainArg_hexN {name : String} {n v : Nat} (hname : plainWord 16 (txt name) = true) (hn : inRange 1 128 n = true) :
    plainArg (txt name, hexN n v) = true := by
  rw [plainArg, hname, plainWord_hexN hn, Bool.and_self]

theorem plainArg_dec {name : String} {v : Nat} (hname : plainWord 16 (txt name) = true) (hv : v < 10 ^ 9) :
    plainArg (txt name, dec v) = true := by
  rw [plainArg, hname, plainWord_dec (by decide) hv (by decide), Bool.and_self]

/-! ## Lines by the shape of their operands -/

/-- A verb and a noun that ends with a number. -/
theorem State.readsAs_index {s : State} {tag : Byte} {v : Verb} {pre : String} {n : Nat} {head : List Byte}
    (hhead : head = v.name.text ++ 0x20 :: txt pre) (hpre : plainWord 8 (txt pre) = true) (hn : n < 100)
    (hform : ∀ t c, s.formAt ⟨v.name.text, [txt pre ++ dec n], [], t, c⟩ (txt pre ++ dec n) v.name = (v, none)) :
    s.readsAs tag (head ++ dec n) v := by
  refine State.readsAs_plain [txt pre ++ dec n] [] tag ?_ (.inl (Nat.le_refl 1)) ?_ (by simp) hform
  · simp [hhead, operandWords, wordsBehind]
  · simpa using plainWord_txt_dec hpre hn

/-- A verb, a noun that ends with a number, and a second noun. -/
theorem State.readsAs_indexNoun {s : State} {tag : Byte} {v : Verb} {pre noun : String} {n : Nat} {head tail : List Byte}
    (hhead : head = v.name.text ++ 0x20 :: txt pre) (htail : tail = 0x20 :: txt noun) (htwo : twoNouns v.name.text = true)
    (hpre : plainWord 8 (txt pre) = true) (hnoun : plainWord 32 (txt noun) = true) (hn : n < 100)
    (hform : ∀ t c, s.formAt ⟨v.name.text, [txt pre ++ dec n, txt noun], [], t, c⟩ (txt pre ++ dec n) v.name = (v, none)) :
    s.readsAs tag (head ++ dec n ++ tail) v := by
  refine State.readsAs_plain [txt pre ++ dec n, txt noun] [] tag ?_ (.inr ⟨rfl, htwo⟩) ?_ (by simp) hform
  · simp [hhead, htail, operandWords, wordsBehind]
  · simpa using ⟨plainWord_txt_dec hpre hn, hnoun⟩

/-- A verb, at most one noun, and one argument. -/
theorem State.readsAs_arg {s : State} {tag : Byte} {v : Verb} {name : String} {head value : List Byte} (ns : List (List Byte))
    (hhead : head = v.name.text ++ wordsBehind ns ++ 0x20 :: txt name ++ [0x3D]) (hcount : ns.length ≤ 1)
    (hns : ∀ n ∈ ns, plainWord 32 n = true) (harg : plainArg (txt name, value) = true)
    (hform : ∀ t c, s.formAt ⟨v.name.text, ns, [(txt name, value)], t, c⟩ (ns.headD []) v.name = (v, none)) :
    s.readsAs tag (head ++ value) v := by
  refine State.readsAs_plain ns [(txt name, value)] tag ?_ (.inl hcount) hns (by simpa using harg) hform
  simp [hhead, operandWords, wordsBehind, argText]

/-! ## The forms -/

theorem State.readsAs_tickSet (s : State) (tag : Byte) {p b : Nat} (hp : p < 10 ^ 9) (hb : b < 10 ^ 9) :
    s.readsAs tag (txt "TICK SET PER=" ++ dec p ++ txt " BGF=" ++ dec b) (.tickSet (some p) (some b)) := by
  refine State.readsAs_plain [txt "SET"] [(txt "PER", dec p), (txt "BGF", dec b)] tag ?_ (.inl (Nat.le_refl 1)) (by decide) ?_
    fun t c => ?_
  · have hhead : txt "TICK SET PER=" = txt "TICK" ++ 0x20 :: txt "SET" ++ 0x20 :: txt "PER" ++ [0x3D] := by decide
    have hmid : txt " BGF=" = 0x20 :: txt "BGF" ++ [0x3D] := by decide
    simp [hhead, hmid, operandWords, wordsBehind, argText, Verb.name, VerbName.text]
  · simpa using ⟨plainArg_dec (by decide) hp, plainArg_dec (by decide) hb⟩
  · obtain ⟨r, hr⟩ : ∃ r : Raw, r = ⟨txt "TICK", [txt "SET"], [(txt "PER", dec p), (txt "BGF", dec b)], t, c⟩ := ⟨_, rfl⟩
    have hper : r.opt "PER" parseDec = (some p, none) := Raw.opt_sound (by rw [hr]; rfl) (parseDec_dec (Nat.lt_trans hp (by decide)))
    have hbgf : r.opt "BGF" parseDec = (some b, none) := Raw.opt_sound (by rw [hr]; rfl) (parseDec_dec (Nat.lt_trans hb (by decide)))
    have hbeyond : r.beyond ["PER", "BGF"] = none := by rw [hr]; rfl
    change s.formAt ⟨txt "TICK", _, _, t, c⟩ (txt "SET") .tick = _
    rw [← hr]
    simp only [State.formAt, hper, hbgf, hbeyond]
    rfl

theorem State.readsAs_confirm (s : State) (tag : Byte) (tok : BitVec 16) :
    s.readsAs tag (txt "CONFIRM " ++ hexN 4 tok.toNat) (.confirm tok) := by
  refine State.readsAs_plain [hexN 4 tok.toNat] [] tag ?_ (.inl (Nat.le_refl 1)) ?_ (by simp) fun t c => ?_
  · have hhead : txt "CONFIRM " = txt "CONFIRM" ++ [0x20] := by decide
    simp [hhead, operandWords, wordsBehind, Verb.name, VerbName.text]
  · simpa using plainWord_hexN (by decide)
  · simp only [Verb.name, State.formAt, confirmForm, parseHex_hexN (Nat.le_refl 4) (Nat.le_refl 4) tok.isLt, Option.getD_some,
      BitVec.ofNat_toNat, BitVec.setWidth_eq]
    rfl

theorem State.readsAs_authResp (s : State) (tag : Byte) (h : BitVec 64) :
    s.readsAs tag (txt "AUTH RESP=" ++ hexN 16 h.toNat) (.authResp h) := by
  refine State.readsAs_arg (name := "RESP") [] (by rfl) (by decide) (by decide) (plainArg_hexN (by decide) (by decide))
    fun t c => ?_
  have harg : Raw.arg ⟨txt "AUTH", [], [(txt "RESP", hexN 16 h.toNat)], t, c⟩ "RESP" = some (hexN 16 h.toNat) := rfl
  simp only [Verb.name, VerbName.text, State.formAt, authForm, harg, parseHex_hexN (Nat.le_refl 16) (Nat.le_refl 16) h.isLt,
    BitVec.ofNat_toNat, BitVec.setWidth_eq]
  rfl

/-- The forms of KEY that name one key by its ID. -/
theorem State.readsAs_keyId {s : State} {tag : Byte} {id : Word} {k : Word → Verb} {noun : String} {head : List Byte}
    (hhead : head = VerbName.key.text ++ wordsBehind [txt noun] ++ 0x20 :: txt "ID" ++ [0x3D]) (hkey : (k id).name = .key)
    (hnoun : plainWord 32 (txt noun) = true) (hform : ∀ r, s.formAt r (txt noun) .key = r.one "ID" parseId 0 k) :
    s.readsAs tag (head ++ hexN 8 id.toNat) (k id) := by
  refine State.readsAs_arg (name := "ID") [txt noun] (by rw [hkey, hhead]) (Nat.le_refl 1) (by simpa using hnoun)
    (plainArg_hexN (by decide) (by decide)) fun t c => ?_
  rw [hkey]
  exact (hform _).trans (Raw.one_sound 0 k rfl (parseId_hexN id))

/-- Settles O58: each line's words are its tokens, and its operands' digits read back as the numbers they spell. -/
theorem consoleLinesRead : Obligations.ConsoleLinesRead := by
  unfold Obligations.ConsoleLinesRead
  refine fun s tag => ⟨fun p => ?portShow, fun p => ?portClear, fun q => ?queueShow, fun q => ?queueFlush, fun c => ?countCtr,
    fun p b hp hb => s.readsAs_tickSet tag hp hb, fun n hn => ?logTamper,
    fun id => State.readsAs_keyId (noun := "SHOW") (by decide) rfl (by decide) fun _ => rfl,
    fun id => State.readsAs_keyId (noun := "RETIRE") (by decide) rfl (by decide) fun _ => rfl,
    fun id => State.readsAs_keyId (noun := "REVOKE") (by decide) rfl (by decide) fun _ => rfl,
    s.readsAs_confirm tag, s.readsAs_authResp tag, fun l => ?authLevel⟩
  case portShow =>
    refine State.readsAs_index (pre := "P") (by rfl) (by decide) (by omega) fun _ _ => ?_
    simp only [Verb.name, State.formAt, portForm, parsePort_dec]
    rfl
  case portClear =>
    refine State.readsAs_indexNoun (pre := "P") (noun := "CLEAR") (by rfl) (by rfl) (by rfl) (by decide) (by decide) (by omega)
      fun _ _ => ?_
    simp only [Verb.name, State.formAt, portForm, parsePort_dec]
    rfl
  case queueShow =>
    refine State.readsAs_index (pre := "Q") (by rfl) (by decide) (by omega) fun _ _ => ?_
    simp only [Verb.name, State.formAt, queueForm, parseIdx_dec "Q" q.isLt (by decide), Option.map_some, finOf_val]
    rfl
  case queueFlush =>
    refine State.readsAs_indexNoun (pre := "Q") (noun := "FLUSH") (by rfl) (by rfl) (by rfl) (by decide) (by decide) (by omega)
      fun _ _ => ?_
    simp only [Verb.name, State.formAt, queueForm, parseIdx_dec "Q" q.isLt (by decide), Option.map_some, finOf_val]
    rfl
  case countCtr =>
    refine State.readsAs_index (pre := "CTR") (by rfl) (by decide) (by omega) fun _ _ => ?_
    simp only [Verb.name, State.formAt, countForm, parseIdx_dec "CTR" c.isLt (by decide), finOf_val]
    rfl
  case logTamper =>
    refine State.readsAs_arg (name := "N") [txt "TAMPER"] (by rfl) (by decide) (by decide) (plainArg_dec (by decide) hn) fun _ _ => ?_
    exact Raw.oneN_sound 16 .logTamper rfl (parseDec_dec (Nat.lt_trans hn (by decide)))
  case authLevel =>
    refine State.readsAs_index (pre := "L") (by rfl) (by decide) (by omega) fun _ _ => ?_
    simp only [Verb.name, State.formAt, authForm, parseIdx_dec "L" l.isLt (by decide), finOf_val]
    rfl

end Sys2Proof.Machine

namespace Sys2Proof.Machine

/-! ## Replies change CON alone (R124, R126, R127) -/

/-- What only sends leaves everything but CON. -/
theorem State.Sends.eq_con {s t : State} (h : s.Sends t) : t = { s with con := t.con } := by
  obtain ⟨tx, notes, lost, rfl⟩ := h
  rfl

theorem State.sends_conPrompt (s : State) : s.Sends s.conPrompt := by
  unfold State.conPrompt
  split
  · exact s.sends_conTx _
  · exact State.Sends.refl s

/-- The end of a reply: CON is idle, and sends. -/
theorem State.sends_replyEnd (s : State) : State.Sends { s with con := { s.con with busy := .idle } } s.replyEnd :=
  (State.sends_conPrompt _).trans (State.sends_flushNotes _)

theorem State.replyEnd_eq (s : State) : s.replyEnd = { s with con := s.replyEnd.con } := s.sends_replyEnd.eq_con

@[simp] theorem State.replyEnd_held (s : State) : s.replyEnd.con.held = s.con.held := s.sends_replyEnd.held

theorem State.replyOk_eq (s : State) (tag : Option Byte) (t : List Byte) :
    s.replyOk tag t = { s with con := (s.replyOk tag t).con } := State.replyEnd_eq _

@[simp] theorem State.replyOk_eng (s : State) (tag : Option Byte) (t : List Byte) : (s.replyOk tag t).eng = s.eng := by
  rw [s.replyOk_eq]

/-! ## Error replies (R130, R131) -/

/-- In a mode that does not count toward PROBE nothing joins the window. -/
theorem State.probeNote_off {s : State} (h : s.sys.mode.probes = false) : s.probeNote = (false, s) := by
  rw [State.probeNote, h, Bool.not_false, if_pos rfl]

/-- An error other than E20 and E21 is not counted. -/
theorem State.replyErr_uncounted {e : Nat} (h20 : e ≠ 20) (h21 : e ≠ 21) (s : State) (tag : Option Byte) (d : List Byte) :
    s.replyErr tag e d = (s.conTx (errLine tag e d)).replyEnd := by
  simp [State.replyErr, State.errDetail, h20, h21]

/-- An E20 where it does not count toward PROBE. -/
theorem State.replyErr_state {s : State} (h : s.sys.mode.probes = false) (tag : Option Byte) (d : List Byte) :
    s.replyErr tag 20 d = ((s.errCount 20).conTx (errLine tag 20 (s.errDetail 20 d))).replyEnd := by
  have hnote : (s.errCount 20).probeNote = (false, s.errCount 20) := State.probeNote_off h
  simp [State.replyErr, hnote]

/-- Settles O6: the count is written, and the reply changes CON alone. -/
theorem stateErrorCountsOnly : Obligations.StateErrorCountsOnly := by
  unfold Obligations.StateErrorCountsOnly
  intro s tag d hmode
  rw [State.replyErr_state hmode, State.replyEnd_eq]
  exact ⟨_, rfl⟩

/-! ## The order of decision (Table 4.5) -/

/-- Settles O4: a line is the decision of its form, which ends at the first step that refuses it. -/
theorem refusalsInOrder : Obligations.RefusalsInOrder := by
  unfold Obligations.RefusalsInOrder
  refine ⟨fun s i l v hline hname hready hchk => ?check, fun s i l v hline hname hready hchk hlegal => ?illegal,
    fun s i l v hline hname hready hchk hlegal hlevel => ?level⟩
  case check => rw [exec_line hline, State.lineVerb_check hready hname hchk]
  case illegal => rw [exec_line hline, State.lineVerb_mode hready hname hchk hlegal]
  case level => rw [exec_line hline, State.lineVerb_level hready hname hchk hlegal hlevel]

/-! ## CONFIRM (R141, R142) -/

/-- A CONFIRM whose check is not missing is decided by its token. -/
theorem State.lineVerb_confirm {s : State} {l : Line} (hready : s.conReady = true) (hchk : s.lineStart.chkMissing l.chk = false)
    (tok : BitVec 16) :
    s.lineVerb l (.confirm tok) = s.lineStart.decideConfirm l.tag (.confirm tok, none) := by
  obtain ⟨hlisten, hfree⟩ := s.conReady_iff.1 hready
  simp [State.lineVerb, State.decideVerb, Verb.name, hlisten, hfree, hchk]

/-- The token of the held line: the line goes, and is decided again. -/
theorem State.decideConfirm_token {s : State} {h : HeldLine} {tok : BitVec 16} (hheld : s.con.held = some (h, tok))
    (tag : Option Byte) : s.lineStart.decideConfirm tag (.confirm tok, none) = s.atLine.heldAgain tag h := by
  have hstart : s.lineStart.con.held = some (h, tok) := hheld
  simp only [State.decideConfirm, hstart, if_pos]
  rfl

/-- A token of no held line: a line that is held goes all the same. -/
theorem State.decideConfirm_other {s : State} {tok : BitVec 16} (hwrong : ∀ h t, s.con.held = some (h, t) → t ≠ tok)
    (tag : Option Byte) : s.lineStart.decideConfirm tag (.confirm tok, none) = s.atLine.replyErr tag 12 := by
  have hstart : s.lineStart.con.held = s.con.held := rfl
  cases hheld : s.con.held with
  | none =>
    simp only [State.decideConfirm, hstart, hheld]
    rfl
  | some x =>
    simp only [State.decideConfirm, hstart, hheld, if_neg (hwrong x.1 x.2 hheld)]
    rfl

/-- Settles O8: the token decides between the held line and E12; no line is held either way when it is decided. -/
theorem confirmActs : Obligations.ConfirmActs := by
  unfold Obligations.ConfirmActs
  refine ⟨fun s l v tok hready hchk hheld => ?right, fun s l tok hready hchk hwrong => ⟨?wrong, ?none⟩⟩
  case right => rw [exec_line rfl, State.lineVerb_confirm hready hchk, State.decideConfirm_token hheld, State.heldAgain]
  case wrong => rw [exec_line rfl, State.lineVerb_confirm hready hchk, State.decideConfirm_other hwrong]
  case none =>
    rw [State.replyErr_uncounted (by decide) (by decide), State.replyEnd_held]
    rfl

/-! ## Draws of the DRBG are counted (R412)

A token and a challenge are each one generate request, which the reseed limit counts. -/

/-- A form held under a token takes one generate request. -/
theorem State.holdLine_reqs {s : State} (h : s.rngBlocked = false) (tag : Option Byte) (x : HeldLine) :
    (s.holdLine tag x).eng.reqs = s.eng.reqs + 1 := by
  rw [State.holdLine, h, if_neg Bool.false_ne_true]
  exact congrArg Engines.reqs (State.replyOk_eng _ _ _)

/-- A challenge takes one generate request. -/
theorem State.doAuthLevel_reqs {s : State} (hlock : s.lockWait = 0) (h : s.rngBlocked = false) (tag : Option Byte) (lv : Nat) :
    (s.doAuthLevel tag lv).eng.reqs = s.eng.reqs + 1 := by
  rw [State.doAuthLevel, if_neg (not_not_intro hlock), h, if_neg Bool.false_ne_true]
  exact congrArg Engines.reqs (State.replyOk_eng _ _ _)

/-- A block in FOUNDRY whose CON is free, under a session of level 5. -/
def foundryConsole : State :=
  { State.reset with
    sys := { mode := .foundry, prev := .foundry, begun := true }
    con := { started := true, session := some { level := 5 } } }

/-- Refutes O5: LIFE FIT without a check in FOUNDRY, from a session of level 5, is held, but the draw of its token is also counted
as a generate request (R412), which the statement's state leaves out. -/
theorem not_protectedFormHeld : ¬ Obligations.ProtectedFormHeld := by
  unfold Obligations.ProtectedFormHeld
  intro h
  obtain ⟨hready, hchk, hlegal, hlevel, harg, hprot, hrng⟩ : foundryConsole.conReady = true ∧
      foundryConsole.atLine.chkMissing false = false ∧ foundryConsole.atLine.legal .lifeFit = true ∧
      foundryConsole.atLine.formLevel .lifeFit ≤ foundryConsole.atLine.level ∧ foundryConsole.atLine.argBad .lifeFit = none ∧
      foundryConsole.atLine.formProt .lifeFit = true ∧ foundryConsole.atLine.rngBlocked = false := by decide +kernel
  have hname : Verb.lifeFit.name ≠ .confirm := by decide
  obtain ⟨t, u, -, hu, hexec⟩ := h foundryConsole (.lifeFit ⟨none, false⟩) ⟨none, false⟩ .lifeFit rfl hname hready hchk hlegal hlevel
    harg hprot rfl hrng
  rw [exec_line rfl, State.lineVerb_held hready hname hchk hlegal hlevel harg hprot rfl] at hexec
  have hreqs := congrArg (fun s : State => s.eng.reqs) (Host.Outcome.next.inj hexec)
  simp only [State.holdLine_reqs hrng, State.replyOk_eng, hu] at hreqs
  exact Nat.succ_ne_self _ hreqs

/-- Refutes O7: AUTH L5 in FOUNDRY, outside the lock-out, issues its challenge, but the draw is also counted as a generate request
(R412), which the statement's state leaves out. -/
theorem not_sessionFormsAct : ¬ Obligations.SessionFormsAct := by
  unfold Obligations.SessionFormsAct
  intro h
  obtain ⟨hready, hpass, hlock, hrng⟩ : foundryConsole.conReady = true ∧
      foundryConsole.passes ⟨none, false⟩ (.authLevel 5) = true ∧ foundryConsole.atLine.lockWait = 0 ∧
      foundryConsole.atLine.rngBlocked = false := by decide +kernel
  obtain ⟨-, -, -, hauth, -⟩ := h.1 foundryConsole ⟨none, false⟩ hready
  obtain ⟨b, u, hu, hexec⟩ := hauth 5 hpass hlock hrng
  rw [exec_line_passes hready hpass rfl] at hexec
  have hreqs := congrArg (fun s : State => s.eng.reqs) (Host.Outcome.next.inj hexec)
  change (foundryConsole.atLine.doAuthLevel none 5).eng.reqs = _ at hreqs
  simp only [State.doAuthLevel_reqs hlock hrng, State.replyOk_eng, hu] at hreqs
  exact Nat.succ_ne_self _ hreqs

end Sys2Proof.Machine

namespace Sys2Proof.Machine

/-! ## Pads (R183, R193, R199, R529) -/

/-- Without its supply a pad does nothing. -/
theorem State.pad_unsupplied {s : State} {p : PortId} (h : s.padsUp p = false) (b : Bool) : s.pad p b = {} := by
  rw [State.pad, h, Bool.not_false, if_pos rfl]

/-- The pad of a port that runs a function of its own. -/
theorem State.pad_own {s : State} {p : PortId} (hup : s.padsUp p = true) (hpair : s.pairedBy p = none) {b : Bool}
    (hoff : s.pfn p ≠ .off) (hpps : s.pfn p ≠ .pps) :
    s.pad p b = { drive := (s.fnDrive p b).1, pull := s.pullOf p b, later := (s.fnDrive p b).2 } := by
  simp [State.pad, hup, hpair, hoff, hpps]

/-- The pad of a port that serves its neighbour. -/
theorem State.pad_partner {s : State} {q p : PortId} (hup : s.padsUp q = true) (hpair : s.pairedBy q = some p) (b : Bool) :
    s.pad q b = { drive := (s.partnerDrive p b).1, pull := s.pullOf q b, later := (s.partnerDrive p b).2 } := by
  simp [State.pad, hup, hpair]

/-- Ports that run no function leave their pads alone. -/
theorem State.pad_off {s : State} (hoff : ∀ p, s.pfn p = .off) (p : PortId) (b : Bool) : s.pad p b = {} := by
  have hpair : s.pairedBy p = none := by simp [State.pairedBy, hoff]
  simp [State.pad, hpair, hoff]

/-- After a reset no port runs a function, CON has not started and Hostlink is not up. -/
theorem State.enterReset_idle (s : State) (k : ResetKind) (w : Why) (src : Nat) :
    (s.enterReset k w src).port = State.reset.port ∧ (s.enterReset k w src).con.started = false ∧
      (s.enterReset k w src).hlk.up = false := by
  obtain ⟨kind, code, y, c, heq, -⟩ := s.enterReset_eq k w src
  rw [State.wrs_eq] at heq
  rw [heq]
  exact ⟨rfl, rfl, rfl⟩

/-- A bank without its supply: M hangs on VIO, C on VIO or VBAT. -/
theorem State.padsUp_bankM {s : State} {p : PortId} (hvio : s.si.vio < 1500) (hp : p.val < 16) : s.padsUp p = false := by
  rw [State.padsUp, if_pos hp, decide_eq_false (Nat.not_le.2 hvio)]

theorem State.padsUp_unsupplied {s : State} (p : PortId) (hvio : s.si.vio < 1500) (hvbat : s.si.vbat < 1500) :
    s.padsUp p = false := by
  have hvcel : s.vcel < 1500 := by rwa [State.vcel, if_neg (Nat.not_le.2 hvio)]
  rw [State.padsUp, decide_eq_false]
  split <;> omega

/-- The pad of a GPIO pin. -/
theorem State.pad_gpio {s : State} {p : PortId} (hup : s.padsUp p = true) (hpair : s.pairedBy p = none) (hfn : s.pfn p = .gpio)
    (b : Bool) : s.pad p b = { drive := s.gpioDrive p b, pull := s.pullOf p b } := by
  have hport : (s.port.at p).fn = .gpio := hfn
  rw [State.pad_own hup hpair (by simp [hfn]) (by simp [hfn])]
  simp [State.fnDrive, hport]

theorem State.gpioDrive_pushPull {s : State} {p : PortId} {b : Bool} (hvcc : s.vccOf p b = none)
    (hena : s.parBit p 0 (b2n b) = true) (hod : s.parBit p 0 (4 + b2n b) = false) :
    s.gpioDrive p b = .level (s.isSet (if b then PORT_GPIO_OUTB p else PORT_GPIO_OUTA p)) := by
  simp [State.gpioDrive, hvcc, hena, hod]

theorem State.gpioDrive_vccen {s : State} {p k : PortId} {b : Bool} (hvcc : s.vccOf p b = some k) :
    s.gpioDrive p b = .level (decide ((s.port.at k).card ≠ .off) == s.parBit k 0 21) := by
  simp only [State.gpioDrive, hvcc]

/-- The pads of a card's own port: IO and CLK. -/
theorem State.pad_card {s : State} {p : PortId} (hup : s.padsUp p = true) (hpair : s.pairedBy p = none) (hfn : s.pfn p = .card)
    (b : Bool) :
    s.pad p b = { drive := (if b then s.clkPad p else s.ioPad p).1, pull := s.pullOf p b,
                  later := (if b then s.clkPad p else s.ioPad p).2 } := by
  have hport : (s.port.at p).fn = .card := hfn
  rw [State.pad_own hup hpair (by simp [hfn]) (by simp [hfn])]
  cases b <;> simp [State.fnDrive, hport]

/-- RST of a card stands on pin A of the port beside it. -/
theorem State.pad_cardRst {s : State} {p q : PortId} (hup : s.padsUp q = true) (hpair : s.pairedBy q = some p)
    (hfn : s.pfn p = .card) :
    s.pad q false = { drive := (s.rstPad p).1, pull := s.pullOf q false, later := (s.rstPad p).2 } := by
  rw [State.pad_partner hup hpair]
  simp [State.partnerDrive, hfn]

/-- Settles O33: a reset leaves no function running; a supplied pad shows what its port, or the port beside it, drives. -/
theorem padsFollow : Obligations.PadsFollow := by
  unfold Obligations.PadsFollow
  refine ⟨fun s k w src => ?reset, fun s p b => ⟨fun hvio hp => State.pad_unsupplied (State.padsUp_bankM hvio hp) b,
    fun hvio hvbat => State.pad_unsupplied (State.padsUp_unsupplied p hvio hvbat) b⟩,
    fun s p b hup hpair hfn => ⟨fun hvcc hena hod => ?pin, fun k hvcc => ?vccen⟩,
    fun s p q v r hfn hup hupq hpair hpairq hv hr => ⟨fun hcard => ?activation, fun hcard => ?warm⟩⟩
  case reset =>
    obtain ⟨hport, hcon, hhlk⟩ := s.enterReset_idle k w src
    have hoff : ∀ p, (s.enterReset k w src).pfn p = .off := fun p => by
      rw [State.pfn, hport]
      revert p
      decide
    exact ⟨State.pad_off hoff, by simp [State.conTxDriven, hcon], by simp [State.hirqPad, State.hirqLow, hhlk]⟩
  case pin => rw [State.pad_gpio hup hpair hfn, State.gpioDrive_pushPull hvcc hena hod]
  case vccen => rw [State.pad_gpio hup hpair hfn, State.gpioDrive_vccen hvcc]
  case activation =>
    subst hv hr
    rw [State.pad_card hup hpair hfn, State.pad_card hup hpair hfn, State.pad_cardRst hupq hpairq hfn]
    simp [State.ioPad, State.clkPad, State.rstPad, State.tvccCycles, State.trstCycles, hcard]
  case warm =>
    subst hr
    rw [State.pad_cardRst hupq hpairq hfn]
    simp [State.rstPad, State.trstCycles, hcard]

end Sys2Proof.Machine

namespace Sys2Proof.Machine

/-! ## The KEY forms (R153, R171, R172) -/

/-- A KEY form that is performed. -/
theorem State.perform_key {v : Verb} (hname : v.name = .key) (s : State) (tag : Option Byte) (ch : Option Chal) :
    s.perform tag ch v = s.doKey tag v := by
  cases v <;> cases hname <;> rfl

/-- In QUARANTINE the Vault is locked. -/
theorem State.doKey_locked {s : State} (h : s.sys.mode = .quarantine) (tag : Option Byte) (v : Verb) :
    s.doKey tag v = s.replyErr tag 60 := if_pos h

section
variable {s : State} (hopen : s.sys.mode ≠ .quarantine) {tag : Option Byte}
include hopen

theorem State.doKey_list : s.doKey tag .keyList = s.replyLines tag s.keyRows := if_neg hopen

theorem State.doKey_show {id : Word} : s.doKey tag (.keyShow id) = s.doKeyShow tag id := if_neg hopen

theorem State.doKey_stage {a : KeyArgs} : s.doKey tag (.keyStage a) = s.doStage tag a := if_neg hopen

theorem State.doKey_data {off : Nat} {d : List Byte} : s.doKey tag (.keyData off d) = s.doKeyData tag off d := if_neg hopen

theorem State.doKey_write : s.doKey tag .keyWrite = s.doKeyWrite tag := if_neg hopen

theorem State.doKey_gen {a : KeyArgs} : s.doKey tag (.keyGen a) = s.waitCommit tag (.keyGen a) := if_neg hopen

theorem State.doKey_retire {id : Word} : s.doKey tag (.keyRetire id) = s.doKeyMove tag id (.keyRetire id) := if_neg hopen

theorem State.doKey_revoke {id : Word} : s.doKey tag (.keyRevoke id) = s.doKeyMove tag id (.keyRevoke id) := if_neg hopen

end

/-- A key whose head entry is public is shown. -/
theorem State.doKeyShow_public {s : State} {id : Word} {i : Nat} (hheads : s.keyHeads id ≠ []) (hpub : s.keyPublic id = some i)
    (tag : Option Byte) : s.doKeyShow tag id = s.replyLines tag (lines32 20 (s.vValue i)) := by
  rw [State.doKeyShow, if_neg hheads, hpub]

/-- A chunk at the end of the staged entry, or the last one again at its own offset, within its length. -/
theorem State.doKeyData_fits {s : State} {k : StagedKey} {off : Nat} {v : List Byte} (hstage : s.con.stage = some k)
    (hoff : off = k.data.length ∨ off = k.lastOff) (hlen : off + v.length ≤ k.args.len) (tag : Option Byte) :
    s.doKeyData tag off v = ({ s with con := { s.con with
      stage := some { k with data := k.data.take off ++ v, lastOff := off } } } : State).replyOk tag
        (fld "off" (dec off) ++ fld "staged" (dec (k.data.take off ++ v).length)) := by
  rw [State.doKeyData, hstage]
  exact if_neg (by omega)

/-- A complete staging is written. -/
theorem State.doKeyWrite_complete {s : State} {k : StagedKey} (hstage : s.con.stage = some k)
    (hlen : k.data.length = k.args.len) (tag : Option Byte) : s.doKeyWrite tag = s.waitCommit tag .keyWrite := by
  rw [State.doKeyWrite, hstage]
  exact if_pos hlen

theorem State.doKeyMove_found {s : State} {id : Word} (hheads : s.keyHeads id ≠ []) (tag : Option Byte) (v : Verb) :
    s.doKeyMove tag id v = s.waitCommit tag v := if_neg hheads

/-- Settles O10: with the Vault open each form reaches its own branch; staging and data act at once, the others wait. -/
theorem keyFormsAct : Obligations.KeyFormsAct := by
  unfold Obligations.KeyFormsAct
  intro s l hready hopen
  refine ⟨fun a hpass => ?stage, fun k off v hpass hstage hoff hlen => ?data, fun k hpass hstage hlen => ?write,
    fun a hpass => ?gen, fun id hpass hheads => ?retire, fun id hpass hheads => ?revoke⟩ <;>
    rw [exec_line_passes hready hpass rfl]
  case stage => exact congrArg Host.Outcome.next (State.doKey_stage hopen)
  case data => exact congrArg Host.Outcome.next ((State.doKey_data hopen).trans (State.doKeyData_fits hstage hoff hlen _))
  case write => exact congrArg Host.Outcome.next ((State.doKey_write hopen).trans (State.doKeyWrite_complete hstage hlen _))
  case gen => exact congrArg Host.Outcome.next (State.doKey_gen hopen)
  case retire => exact congrArg Host.Outcome.next ((State.doKey_retire hopen).trans (State.doKeyMove_found hheads _ _))
  case revoke => exact congrArg Host.Outcome.next ((State.doKey_revoke hopen).trans (State.doKeyMove_found hheads _ _))

/-- Settles O11: both forms are legal there, and every KEY form that is performed is answered E60. -/
theorem keysLockedInQuarantine : Obligations.KeysLockedInQuarantine := by
  unfold Obligations.KeysLockedInQuarantine
  intro s l id hready hmode
  refine ⟨by rw [hmode]; rfl, by rw [hmode]; rfl, fun hpass => ?rows, fun hpass => ?value⟩
  case rows => rw [exec_line_passes hready hpass rfl, State.perform_key rfl, State.doKey_locked (s := s.atLine) hmode]
  case value => rw [exec_line_passes hready hpass rfl, State.perform_key rfl, State.doKey_locked (s := s.atLine) hmode]

end Sys2Proof.Machine

namespace Sys2Proof.Machine

/-! ## Reports change CON alone (chapter 5, Model) -/

/-- From `s` to `t` nothing but CON changed. -/
def State.ConOnly (s t : State) : Prop := ∃ c, t = { s with con := c }

theorem State.ConOnly.trans {s t u : State} (h : s.ConOnly t) (k : t.ConOnly u) : s.ConOnly u := by
  obtain ⟨c, rfl⟩ := h
  obtain ⟨d, rfl⟩ := k
  exact ⟨d, rfl⟩

theorem State.Sends.conOnly {s t : State} (h : s.Sends t) : s.ConOnly t := ⟨_, h.eq_con⟩

/-- The console's state at the start of a line: the challenge, the held line and the rate to return to are gone. -/
theorem State.atLine_conOnly (s : State) : s.ConOnly s.atLine := ⟨_, rfl⟩

theorem State.replyOk_conOnly (s : State) (tag : Option Byte) (t : List Byte) : s.ConOnly (s.replyOk tag t) := ⟨_, s.replyOk_eq tag t⟩

/-- The data lines of a reply. -/
theorem State.sends_dataLines (s : State) (tag : Option Byte) (ls : List (List Byte)) :
    s.Sends (ls.foldl (fun s l => s.conTx (conBytes ([0x3D] ++ tagBytes tag ++ [0x20] ++ l))) s) :=
  State.Sends.foldl (fun _ _ => State.sends_conTx _ _) ls s

theorem State.replyLines_conOnly (s : State) (tag : Option Byte) (ls : List (List Byte)) : s.ConOnly (s.replyLines tag ls) :=
  (s.sends_dataLines tag ls).conOnly.trans (State.replyOk_conOnly _ _ _)

/-- Only E20 and E21 are counted (R130): another error is a line of CON's. -/
theorem State.replyErr_conOnly {e : Nat} (h20 : e ≠ 20) (h21 : e ≠ 21) (s : State) (tag : Option Byte) (d : List Byte) :
    s.ConOnly (s.replyErr tag e d) := by
  rw [State.replyErr_uncounted h20 h21]
  exact (s.sends_conTx _).conOnly.trans ⟨_, State.replyEnd_eq _⟩

theorem State.doAttic_conOnly (s : State) (tag : Option Byte) (t : Option (Fin 8)) (n : Nat) : s.ConOnly (s.doAttic tag t n) := by
  rw [State.doAttic]
  split
  next => exact s.replyLines_conOnly _ _
  next => exact (s.sends_dataLines tag _).conOnly.trans (State.replyErr_conOnly (by decide) (by decide) _ _ _)

theorem State.doCounter_conOnly (s : State) (tag : Option Byte) (c : CtrId) : s.ConOnly (s.doCounter tag c) := by
  rw [State.doCounter]
  split
  next => exact State.replyErr_conOnly (by decide) (by decide) s _ _
  next => exact s.replyOk_conOnly _ _

theorem State.doKeyShow_conOnly (s : State) (tag : Option Byte) (id : Word) : s.ConOnly (s.doKeyShow tag id) := by
  unfold State.doKeyShow
  split
  next => exact State.replyErr_conOnly (by decide) (by decide) s _ _
  next =>
    split
    next => exact State.replyErr_conOnly (by decide) (by decide) s _ _
    next => exact s.replyLines_conOnly _ _

/-- In QUARANTINE a KEY form is answered E60, which is not counted. -/
theorem State.doKey_conOnly {s : State} {tag : Option Byte} {v : Verb}
    (hopen : s.sys.mode ≠ .quarantine → s.ConOnly (s.doKey tag v)) : s.ConOnly (s.doKey tag v) := by
  by_cases hmode : s.sys.mode = .quarantine
  · rw [State.doKey_locked hmode]
    exact State.replyErr_conOnly (by decide) (by decide) s _ _
  · exact hopen hmode

/-- A report is a reply, or an error that is not counted; CAL alone measures. -/
theorem State.perform_report_conOnly (s : State) (tag : Option Byte) (ch : Option Chal) {v : Verb} (hshow : v.isShow = true)
    (hcal : v ≠ .calShow) : s.ConOnly (s.perform tag ch v) := by
  cases v
  case calShow => exact absurd rfl hcal
  case help | helpVerb | helpApplet | logTamper | count | tickJobs | portList | queueList | watchList | teleShow | imageList =>
    exact s.replyLines_conOnly _ _
  case info | modeShow | echoShow | lineShow | stat | statReset | statRise | tickShow | timeShow | portShow | queueShow
      | storeShow | watchSrc | tele | lifeShow =>
    exact s.replyOk_conOnly _ _
  case logAttic t n => exact s.doAttic_conOnly tag t n
  case countCtr c => exact s.doCounter_conOnly tag c
  case keyList =>
    rw [State.perform_key rfl]
    refine State.doKey_conOnly fun hopen => ?_
    rw [State.doKey_list hopen]
    exact s.replyLines_conOnly _ _
  case keyShow id =>
    rw [State.perform_key rfl]
    refine State.doKey_conOnly fun hopen => ?_
    rw [State.doKey_show hopen]
    exact s.doKeyShow_conOnly _ _
  all_goals cases hshow

/-- CONFIRM is no report. -/
theorem Verb.name_ne_confirm_of_isShow {v : Verb} (h : v.isShow = true) : v.name ≠ .confirm := by
  intro hname
  cases v <;> cases hname
  cases h

/-- Settles O3: a report that passes is performed on the line's state, and both the start of the line and the reply are CON's. -/
theorem reportsFrame : Obligations.ReportsFrame := by
  unfold Obligations.ReportsFrame
  intro s t i l v hline hready hpass hshow hcal hexec
  rw [exec_line_passes hready hpass hline (Verb.name_ne_confirm_of_isShow hshow)] at hexec
  obtain rfl := Host.Outcome.next.inj hexec
  exact s.atLine_conOnly.trans (s.atLine.perform_report_conOnly l.tag s.con.chal hshow hcal)

/-! ## Every report's text (R154 to R179) -/

/-- Records that all pass their check are listed (R161). -/
theorem State.doAttic_good {s : State} {t : Option (Fin 8)} {n : Nat} (h : (s.atticList t n).all atticGood = true)
    (tag : Option Byte) : s.doAttic tag t n = s.replyLines tag ((s.atticList t n).map atticRow) := if_pos h

/-- A counter with a valid slot is shown (R162). -/
theorem State.doCounter_valid {s : State} {c : CtrId} (h : (s.nv.ring.at c).noValid = false) (tag : Option Byte) :
    s.doCounter tag c = s.replyOk tag (s.ctrRow c) := by
  rw [State.doCounter, h, if_neg Bool.false_ne_true]

/-- Settles O2: a report that passes is performed, and most are their reply; LOG ATTIC, COUNT CTRn and the KEY forms reach theirs
in the branch that their premise opens. -/
theorem reportsReply : Obligations.ReportsReply := by
  unfold Obligations.ReportsReply
  constructor
  case left =>
    intro s l hready
    refine ⟨fun hpass => ?_, fun v hpass => ?_, fun hpass => ?_, fun hpass => ?_, fun hpass => ?_, fun hpass => ?_,
      fun hpass => ?_, fun hpass => ?_, fun hpass => ?_, fun n hpass => ?_, fun t n hpass hgood => ?attic, fun hpass => ?_,
      fun hpass => ?_, fun hpass => ?_⟩ <;>
      rw [exec_line_passes hready hpass rfl]
    case attic => exact congrArg Host.Outcome.next (State.doAttic_good hgood _)
    all_goals rfl
  case right =>
    intro s l hready
    refine ⟨fun hpass => ?_, fun c hpass hvalid => ?ctr, fun hpass => ?_, fun hpass => ?_, fun p hpass => ?_, fun hpass => ?_,
      fun q hpass => ?_, fun hpass => ?_, fun hpass hopen => ?keys, fun id i hpass hopen hheads hpub => ?key, fun hpass => ?_,
      fun n hpass => ?_, fun hpass => ?_, fun n hpass => ?_, fun hpass => ?_, fun hpass => ?_⟩ <;>
      rw [exec_line_passes hready hpass rfl]
    case ctr => exact congrArg Host.Outcome.next (State.doCounter_valid hvalid _)
    case keys => exact congrArg Host.Outcome.next (State.doKey_list hopen)
    case key => exact congrArg Host.Outcome.next ((State.doKey_show hopen).trans (State.doKeyShow_public hheads hpub _))
    all_goals rfl

end Sys2Proof.Machine

namespace Sys2Proof.Machine

/-! ## Raw samples (R167, R411) -/

theorem State.rawSamples_length (n : Nat) (s : State) : (s.rawSamples n).1.length = n := by
  induction n generalizing s with
  | zero => rfl
  | succ n ih => exact congrArg Nat.succ (ih _)

/-- Four samples make a digit. -/
theorem rawDigits_length {k : Nat} {l : List Bool} (h : l.length = 4 * k) : (rawDigits l).length = k := by
  induction k generalizing l with
  | zero => simp [List.length_eq_zero_iff.mp h, rawDigits]
  | succ k ih =>
    match l, h with
    | _ :: _ :: _ :: _ :: t, h =>
      simp only [List.length_cons] at h
      rw [rawDigits, List.length_cons, ih (by omega)]

/-- The digits of a data line. -/
theorem State.rawDigits_line (s : State) : (rawDigits (s.rawSamples rawPerLine).1).length = 64 := by
  apply rawDigits_length
  rw [State.rawSamples_length, rawPerLine]

/-- As many data lines as asked for, each of 256 samples. -/
theorem State.rawLines_shape (n : Nat) (s : State) :
    (s.rawLines n).1.length = n ∧ ∀ x ∈ (s.rawLines n).1, x.length = 64 := by
  induction n generalizing s with
  | zero => exact ⟨rfl, fun x hx => absurd hx List.not_mem_nil⟩
  | succ n ih =>
    obtain ⟨hlen, hdigits⟩ := ih (s.rawSamples rawPerLine).2
    exact ⟨congrArg Nat.succ hlen, List.forall_mem_cons.mpr ⟨s.rawDigits_line, hdigits⟩⟩

/-- The reply to CAL RAW, unless its samples made the part reset (log entry 107). -/
theorem State.doCalRaw_lines {s t : State} {n : Nat} {r : List (List Byte)} (h : s.rawLines n = (r, t)) (tag : Option Byte) :
    s.doCalRaw tag n = if t.con.started then t.replyLines tag r else t := by
  rw [State.doCalRaw, h]

/-! ## TIME and CAL (R165 to R167) -/

theorem State.doAdj_allowed {s : State} {d : Int} (hknown : s.timeUnk = false) (hfits : s.sys.mode = .workshop ∨ s.adjBeyond d = false)
    (hctr : s.ctr5Ok = true) (tag : Option Byte) :
    s.doAdj tag d = (s.timeAdj d).replyOk tag (fld "utc" (s.timeAdj d).utcText ++ (s.timeAdj d).adjText) := by
  have hwithin : ¬(s.sys.mode ≠ .workshop ∧ s.adjBeyond d = true) := by
    rintro ⟨hmode, hbeyond⟩
    rcases hfits with h | h
    · exact hmode h
    · exact absurd (hbeyond.symm.trans h) (by decide)
  rw [State.doAdj, hknown, if_neg Bool.false_ne_true, if_neg hwithin, hctr]
  rfl

theorem State.doTimeSet_now {s : State} (hctr : s.ctr5Ok = true) (tag : Option Byte) (utc : Word) :
    s.doTimeSet tag utc false = (s.timeSet (s.stepTo utc)).replyOk tag
      (fld "utc" (s.timeSet (s.stepTo utc)).utcText ++ fld "src" (s.timeSet (s.stepTo utc)).srcText) := by
  rw [State.doTimeSet, hctr]
  rfl

/-- With a PPS port CON waits for its edge. -/
theorem State.doTimeSet_pps {s : State} {p : PortId} (hctr : s.ctr5Ok = true) (hfn : s.pfn p = .pps) (tag : Option Byte) (utc : Word) :
    s.doTimeSet tag utc true =
      { s with tbs := { s.tbs with setAt := some utc }, con := { s.con with busy := .pps tag } } := by
  have hport : (finList 24).any (fun p => s.pfn p == .pps) = true :=
    List.any_eq_true.mpr ⟨p, List.mem_finRange p, beq_iff_eq.mpr hfn⟩
  rw [State.doTimeSet, hctr, hport]
  rfl

theorem State.doCalRun_begins {s : State} (h : s.tbs.calRuns = false) (tag : Option Byte) :
    s.doCalRun tag = { s with con := { s.con with busy := .cal tag }, tbs := { s.tbs with calRuns := true } } := by
  rw [State.doCalRun, h, if_neg Bool.false_ne_true]

theorem State.doCalRun_runs {s : State} (h : s.tbs.calRuns = true) (tag : Option Byte) : s.doCalRun tag = s.replyErr tag 22 :=
  if_pos h

/-! ## Ports, the Store Room, telemetry, images (R168 to R177) -/

theorem State.doPortClear_agreed {s : State} {p : PortId} (h : (s.discClear p).1 = true) (tag : Option Byte) :
    s.doPortClear tag p = (s.discClear p).2.replyOk tag (fld "port" (portText p) ++ fld "disc" (dec 0)) := if_pos h

theorem State.doFind_answered {s : State} {r : Region} {k : BitVec 160} (h : (s.strSearch r k).1.isBusy = false) (tag : Option Byte) :
    s.doFind tag r k = (s.strSearch r k).2.replyOk tag ((s.strSearch r k).2.findText (s.strSearch r k).1) := by
  rcases hsearch : s.strSearch r k with ⟨a, u⟩
  have hidle : a.isBusy = false := by rwa [hsearch] at h
  rw [State.doFind, hsearch]
  exact if_neg (by simp [hidle])

/-- The stream needs crates reserved for its queue. -/
theorem State.doStream_on {s : State} (h : s.rd (QFX_RES 63) ≠ 0) (tag : Option Byte) :
    s.doStream tag true = (s.wr TELE_STAT_STREAM 1).replyOk tag (fld "stream" (txt "ON")) := by
  rw [State.doStream, if_neg (by simp [h])]
  rfl

theorem State.doImgBegin_taken {s : State} {k : ImgKind} {n : Nat} {c : Option Word} (h : (s.loadBegin false k n c).1 = 0)
    (tag : Option Byte) : s.doImgBegin tag k n c =
      (s.loadBegin false k n c).2.replyOk tag (fld "slot" (slotName k (s.spare k)) ++ fld "len" (dec n)) := if_pos h

theorem State.doImgData_taken {s : State} {off : Nat} {v : List Byte} (h : (s.loadData false off v).1 = 0) (tag : Option Byte) :
    s.doImgData tag off v =
      (s.loadData false off v).2.replyOk tag (fld "off" (dec off) ++ fld "rcvd" (dec (off + v.length))) := if_pos h

/-- An image that checks, where no reset has overtaken the line. -/
theorem State.doImgEnd_good {s t : State} {x : ImgLoad} {ver : Nat} (h : s.loadEnd false = (some (0, x, ver), t))
    (hexec : t.con.busy = .exec) (tag : Option Byte) : s.doImgEnd tag =
      t.replyOk tag (fld "slot" (slotName x.kind x.slot) ++ fld "ver" (dec ver) ++ fld "state" (txt "NEXT")) := by
  rw [State.doImgEnd, h]
  exact if_pos hexec

theorem State.doImgAbort_loading {s t : State} {x : ImgLoad} (h : s.loadAbort false = (some x, t)) (tag : Option Byte) :
    s.doImgAbort tag = t.replyOk tag (fld "slot" (slotName x.kind x.slot) ++ fld "state" (txt "EMPTY")) := by
  rw [State.doImgAbort, h]

/-- Settles O12: each form reaches the branch that its premises open; a line of CAL RAW is 64 digits, its 256 samples by fours. -/
theorem immediateFormsAct : Obligations.ImmediateFormsAct := by
  unfold Obligations.ImmediateFormsAct
  intro s l hready
  refine ⟨fun d hpass hknown hfits hctr => ?adj, fun utc hpass hctr => ?set, fun utc p hpass hctr hfn => ?pps,
    fun hpass hidle => ?cal, fun hpass hruns => ?calBusy, fun n r t hpass hraw => ?raw, fun p hpass hagreed => ?clear,
    fun q hpass => ?flush, fun r k hpass hans => ?find, fun hpass hres => ?streamOn, fun hpass => ?streamOff,
    fun k n c hpass htaken => ?imgBegin, fun off v hpass htaken => ?imgData, fun x ver t hpass hgood hexec => ?imgEnd,
    fun x t hpass hload => ?imgAbort⟩
  case raw =>
    have hshape := s.atLine.rawLines_shape n
    rw [hraw] at hshape
    refine ⟨?_, hshape⟩
    rw [exec_line_passes hready hpass rfl]
    exact congrArg Host.Outcome.next (State.doCalRaw_lines hraw _)
  all_goals rw [exec_line_passes hready hpass rfl]
  case adj => exact congrArg Host.Outcome.next (State.doAdj_allowed hknown hfits hctr _)
  case set => exact congrArg Host.Outcome.next (State.doTimeSet_now hctr _ _)
  case pps => exact congrArg Host.Outcome.next (State.doTimeSet_pps hctr hfn _ _)
  case cal => exact congrArg Host.Outcome.next (State.doCalRun_begins (s := s.atLine) hidle _)
  case calBusy => exact congrArg Host.Outcome.next (State.doCalRun_runs (s := s.atLine) hruns _)
  case clear => exact congrArg Host.Outcome.next (State.doPortClear_agreed hagreed _)
  case flush => rfl
  case find => exact congrArg Host.Outcome.next (State.doFind_answered hans _)
  case streamOn => exact congrArg Host.Outcome.next (State.doStream_on hres _)
  case streamOff => rfl
  case imgBegin => exact congrArg Host.Outcome.next (State.doImgBegin_taken htaken _)
  case imgData => exact congrArg Host.Outcome.next (State.doImgData_taken htaken _)
  case imgEnd => exact congrArg Host.Outcome.next (State.doImgEnd_good hgood hexec _)
  case imgAbort => exact congrArg Host.Outcome.next (State.doImgAbort_loading hload _)

end Sys2Proof.Machine
namespace Sys2Proof.Machine

/-! ## GPIO, UART and SPIC ports (R196 to R202) -/

theorem State.filtered_iff {s : State} {p : PortId} {held : Nat} :
    s.filtered p held = true ↔ orElse0 (s.rd (PORT_CFG_FILT p)) 1 ≤ held := decide_eq_true_iff

theorem State.filtered_eq_false_iff {s : State} {p : PortId} {held : Nat} :
    s.filtered p held = false ↔ held < orElse0 (s.rd (PORT_CFG_FILT p)) 1 := by
  rw [← Nat.not_le, ← State.filtered_iff, Bool.not_eq_true]

theorem State.gpioEdge_stands {s : State} {p : PortId} {held : Nat} (hfn : s.pfn p = .gpio)
    (hheld : orElse0 (s.rd (PORT_CFG_FILT p)) 1 ≤ held) (b lvl : Bool) : s.gpioEdge p b lvl held = s.gpioLevel p b lvl := by
  rw [State.gpioEdge, State.ifFn_run hfn, if_pos (State.filtered_iff.mpr hheld)]

theorem State.gpioEdge_short {s : State} {p : PortId} {held : Nat} (hfn : s.pfn p = .gpio)
    (hheld : held < orElse0 (s.rd (PORT_CFG_FILT p)) 1) (b lvl : Bool) : s.gpioEdge p b lvl held = s := by
  rw [State.gpioEdge, State.ifFn_run hfn, if_neg (by simp [State.filtered_eq_false_iff.mpr hheld])]

/-- A port whose packets were all admitted has none to offer again. -/
theorem State.portRetry_admitted {s : State} {p : PortId} (h : (s.port.at p).rxWait = []) : s.portRetry p = s := by
  rw [State.portRetry, h]
  rfl

theorem State.uartTx_sends {s u : State} {p : PortId} {fl : Nat} {pay : List Byte} (hfn : s.pfn p = .uart)
    (htx : s.txTake p = some (fl, pay, u)) : s.uartTx p =
      u.pset p (fun x => { x with wave := { bit := s.uartDiv p, levels := pay.flatMap (s.uartFrame p) } }) := by
  rw [State.uartTx, State.ifFn_run hfn, htx]

/-- The character counted where it is in error, and its data bits in the packet in progress. -/
def State.uartJoin (s : State) (p : PortId) (b : Byte) (err : Bool) : State :=
  (if err then s.bump (PORT_CNT0 p) else s).pset p
    (fun x => { x with rx := x.rx ++ [capt (if s.uartBits p = 7 then b &&& 0x7F else b : Byte).toNat] })

/-- With no packet that waits for the queue no character is lost. -/
theorem State.uartRx_admitted {s : State} {p : PortId} (hfn : s.pfn p = .uart) (hwait : (s.port.at p).rxWait = [])
    (b : Byte) (par : Bool) (stop : BitVec 2) : s.uartRx p b par stop =
      if s.uartErr p b par stop then (s.uartJoin p b (s.uartErr p b par stop)).uartClose p true false
      else if 252 ≤ (s.port.at p).rx.length + 1 then (s.uartJoin p b (s.uartErr p b par stop)).uartClose p false false
      else s.uartJoin p b (s.uartErr p b par stop) := by
  have hport : (if s.uartErr p b par stop then s.bump (PORT_CNT0 p) else s).port = s.port := by split <;> rfl
  have hretry := State.portRetry_admitted (s := if s.uartErr p b par stop then s.bump (PORT_CNT0 p) else s) (by rwa [hport])
  rw [State.uartRx, State.ifFn_run hfn]
  simp [hretry, hport, hwait, State.uartJoin]

theorem State.uartIdle_closes {s : State} {p : PortId} {t : Nat} (hfn : s.pfn p = .uart) (hgap : s.uartGap p ≤ t) :
    s.uartIdle p t = (s.portRetry p).uartClose p false false := by
  rw [State.uartIdle, State.ifFn_run hfn, if_pos hgap]

/-- The levels of an SPIC transfer at the pads. -/
def State.spicWave (s : State) (p : PortId) (pay : List Byte) : Wave :=
  ⟨32 * s.spicDiv p, pay.flatMap (s.spicOrder p), orElse0 (s.par p 0 24 8) 1 * (32 * s.spicDiv p)⟩

/-- A TX packet is shifted out, and MISO gives a byte for each of its bytes. -/
theorem State.spic_exchanges {s u : State} {p : PortId} {fl : Nat} {pay miso : List Byte} (hfn : s.pfn p = .spic)
    (hwait : (s.port.at p).rxWait = []) (htx : s.txTake p = some (fl, pay, u)) (hlen : miso.length = pay.length) :
    s.spic p miso = (u.pset p (fun x => { x with wave := s.spicWave p pay })).portSend p 0
      (captBytes (miso.map (fun b => s.spicByte p ((List.range 8).map (fun i => b.getLsbD (7 - i)))))) := by
  have hseen : (miso ++ List.replicate pay.length 0).take pay.length = miso := List.take_left' hlen
  rw [State.spic, State.ifFn_run hfn]
  simp only [State.portRetry_admitted hwait, hwait, List.isEmpty_nil, if_true, htx, hseen, State.spicWave]

/-- Settles O29: with no packet that waits, each command does what its port's function asks for, in the branch that its premise
opens. -/
theorem portPacketsAct : Obligations.PortPacketsAct := by
  unfold Obligations.PortPacketsAct
  intro s p
  refine ⟨?gpio, fun u fl pay hfn htx => ?uartTx, ?uartRx, fun t hfn hgap => ?uartIdle, ?spic⟩
  case gpio =>
    rintro b lvl held t hfn rfl
    exact ⟨fun hheld => congrArg Host.Outcome.next (State.gpioEdge_stands hfn hheld b lvl),
      fun hheld => congrArg Host.Outcome.next (State.gpioEdge_short hfn hheld b lvl)⟩
  case uartTx => exact congrArg Host.Outcome.next (State.uartTx_sends hfn htx)
  case uartRx =>
    rintro b c par stop t hfn hwait rfl rfl
    have hrx : exec (.uartRxChar p b ⟨par, stop⟩) s = .next _ :=
      congrArg Host.Outcome.next (State.uartRx_admitted hfn hwait b par stop)
    refine ⟨fun hgood hlen => ?_, fun hgood hlen => ?_, fun herr => ?_⟩
    · rw [hrx, if_neg (by simp [hgood]), if_neg (by omega)]
      rfl
    · rw [hrx, if_neg (by simp [hgood]), if_pos (by omega)]
      rfl
    · rw [hrx, if_pos herr]
      rfl
  case uartIdle => exact congrArg Host.Outcome.next (State.uartIdle_closes hfn hgap)
  case spic =>
    rintro u fl pay miso bit w hfn hwait htx hlen rfl rfl
    exact congrArg Host.Outcome.next (State.spic_exchanges hfn hwait htx hlen)

end Sys2Proof.Machine
namespace Sys2Proof.Machine

/-! ## DUAL ports (R209 to R211) -/

/-- The NDISC-th disagreeing sample while DISCREPANCY is not latched. -/
theorem State.dualFault_latches {s : State} {p : PortId} (hfn : s.pfn p = .dual) (hdisc : s.isSet (PORT_STAT_DISC p) = false)
    (a : Bool) : s.dualFault p a =
      (((((s.pset p (fun x => { x with lvlA := a, lvlB := !s.dualMate p a, agree := 0 })).setb (PORT_STAT_DISC p)).bump
        (PORT_CNT0 p)).pset p (fun x => { x with val := false })).portSettle p false) := by
  rw [State.dualFault, State.ifFn_run hfn]
  exact if_neg (by rw [State.isSet_congr (State.pset_regs s p _), hdisc]; exact Bool.false_ne_true)

/-- A disagreement shorter than NDISC, of at least half of it. -/
theorem State.dualNear_counts {s : State} {p : PortId} {len : Nat} (hfn : s.pfn p = .dual)
    (hdisc : s.isSet (PORT_STAT_DISC p) = false) (hshort : len < s.ndisc p) (hhalf : s.ndisc p ≤ 2 * len) (a : Bool) :
    s.dualNear p len a = (s.dualAgree p a 1).bump (PORT_CNT1 p) := by
  have hnear : (s.ndisc p + 1) / 2 ≤ len := by omega
  rw [State.dualNear, State.ifFn_run hfn]
  simp [hdisc, hshort, hnear]

theorem State.dualAuto_agrees {s : State} {p : PortId} (hfn : s.pfn p = .dual) (a : Bool) : s.dualAuto p a =
    if (s.dualAgree p a (s.ndisc p)).isSet (PORT_CFG_AUTOCLR p) ∧ (s.dualAgree p a (s.ndisc p)).isSet (PORT_STAT_DISC p) then
      (s.dualAgree p a (s.ndisc p)).discDrop p
    else s.dualAgree p a (s.ndisc p) := by
  rw [State.dualAuto, State.ifFn_run hfn]
  simp only [Bool.and_eq_true]

theorem State.discClear_latched {s : State} {p : PortId} (hfn : s.pfn p = .dual) (hagree : s.ndisc p ≤ (s.port.at p).agree)
    (hdisc : s.isSet (PORT_STAT_DISC p) = true) : s.discClear p = (true, s.discDrop p) := by
  rw [State.discClear, if_pos ⟨hfn, hagree⟩, if_pos hdisc]

theorem exec_discClear {s : State} {c : CpuId} (hrun : s.coreRuns c = true) (p : PortId) :
    exec (.discClear c p) s = .next ((s.strongIssue c).discClear p).2 := by
  change execDiscClear c p s = _
  rw [execDiscClear, State.byCore_run hrun]

/-! ## LOOP ports (R219 to R222) -/

/-- The seed is one word of the DRBG, and never the state that the LFSR would not leave. -/
theorem State.loopSeed_seeded (s : State) (p : PortId) :
    ((s.loopSeed p).port.at p).lfsr ≠ 0 ∧ (s.loopSeed p).draws = s.draws + 1 := by
  refine ⟨?_, rfl⟩
  rw [State.loopSeed]
  simp only [State.pset_at_self]
  split
  · decide
  next hne => exact hne

/-- The window with the latest sample's verdict. -/
def State.loopWin (s : State) (p : PortId) (bad : Bool) : List Bool := (bad :: (s.port.at p).mism).take (s.loopW p)

/-- M mismatches stand in the window. -/
def State.loopCond (s : State) (p : PortId) (bad : Bool) : Bool :=
  decide (s.loopM p ≤ ((s.loopWin p bad).filter (fun m => m)).length)

/-- The port after the sample: a mismatch is counted. -/
def State.loopSampled (s : State) (p : PortId) (b bad : Bool) : State :=
  (if bad then s.bump (PORT_CNT0 p) else s).pset p
    (fun x => { x with lvlB := b, mism := s.loopWin p bad, cond := s.loopCond p bad })

/-- The sample is judged by the bit sent DLY bits before; the condition's onset is counted. -/
theorem State.loopCompare_sent {s : State} {p : PortId} {bit : Bool} (hfn : s.pfn p = .loop)
    (hsent : (s.port.at p).sent[s.par p 0 28 3]? = some bit) (b : Bool) : s.loopCompare p b =
      (((if s.loopCond p (bit ^^ b) ∧ (s.port.at p).cond = false then (s.loopSampled p b (bit ^^ b)).bump (PORT_CNT1 p)
        else s.loopSampled p b (bit ^^ b)).loopNext p).portSettle p (s.port.at p).cond) := by
  rw [State.loopCompare, State.ifFn_run hfn]
  simp only [hsent, Bool.and_eq_true, Bool.not_eq_true']
  rfl

/-! ## SWITCH ports (R223) -/

theorem State.switchChange_stands {s : State} {p : PortId} {held : Nat} (hfn : s.pfn p = .switch)
    (hheld : orElse0 (s.rd (PORT_CFG_FILT p)) 1 ≤ held) (a b : Bool) :
    s.switchChange p a b held = (s.switchSee p a b).portSettle p (s.portCond p) := by
  rw [State.switchChange, State.ifFn_run hfn, if_pos (State.filtered_iff.mpr hheld), State.switchLevels]

theorem State.switchChange_short {s : State} {p : PortId} {held : Nat} (hfn : s.pfn p = .switch)
    (hheld : held < orElse0 (s.rd (PORT_CFG_FILT p)) 1) (a b : Bool) : s.switchChange p a b held = s := by
  rw [State.switchChange, State.ifFn_run hfn, if_neg (by simp [State.filtered_eq_false_iff.mpr hheld])]

/-- Settles O30: the checks of each function on the sample that completes them, and a switch's levels on either side of FILT. -/
theorem portChecksAct : Obligations.PortChecksAct := by
  unfold Obligations.PortChecksAct
  intro s p a
  refine ⟨fun hfn hdisc => ⟨_, rfl, ?fault⟩, fun len hfn hdisc hshort hhalf => ?near, fun hfn => ⟨_, rfl, ?auto⟩, ?clear,
    fun hfn => ?reseed, ?compare, fun b held hfn => ?switch⟩
  case fault => exact congrArg Host.Outcome.next (State.dualFault_latches hfn hdisc a)
  case near => exact congrArg Host.Outcome.next (State.dualNear_counts hfn hdisc hshort hhalf a)
  case auto => exact congrArg Host.Outcome.next (State.dualAuto_agrees hfn a)
  case clear =>
    rintro c t hrun rfl hfn hagree hdisc
    rw [exec_discClear hrun, State.discClear_latched hfn hagree hdisc]
  case reseed => exact ⟨_, congrArg Host.Outcome.next (State.ifFn_run hfn _), s.loopSeed_seeded p⟩
  case compare =>
    rintro b bit bad x hfn rfl hsent rfl
    exact ⟨_, _, _, rfl, rfl, rfl, congrArg Host.Outcome.next (State.loopCompare_sent hfn hsent b)⟩
  case switch =>
    exact ⟨fun hheld => congrArg Host.Outcome.next (State.switchChange_stands hfn hheld a b),
      fun hheld => congrArg Host.Outcome.next (State.switchChange_short hfn hheld a b)⟩

end Sys2Proof.Machine
namespace Sys2Proof.Machine

/-! ## PULSE ports (R212, R213) -/

/-- A port's change reads the port as it stands. -/
theorem State.pset_congr {s : State} {p : PortId} {f g : Port → Port} (h : f (s.port.at p) = g (s.port.at p)) :
    s.pset p f = s.pset p g := by
  simp only [State.pset, Tab.upd, h]

/-- An edge of A within 20 ns of the one before it bears no time. -/
def State.edgeNots (s : State) (p : PortId) (ts4 : Nat) : Bool :=
  match (s.port.at p).last with
  | some l => decide (ts4 < l + 80)
  | none => false

/-- An edge of A joins the packet of records. -/
def State.edgeRecorded (s : State) (p : PortId) (ts4 : Nat) (rise dir nots : Bool) : State :=
  s.pset p (fun x => { x with
    base := if x.recs.isEmpty then s.tbs.mono else x.base
    recs := x.recs ++ [capt (edgeRec ts4 false rise dir nots (x.eseq.toNat + 1))]
    eseq := x.eseq + 1
    last := some ts4 })

/-- Below 64 records the packet stays open. -/
theorem State.edgeAdd_open {s : State} {p : PortId} (hroom : (s.port.at p).recs.length < 63) (ts4 : Nat) (rise dir : Bool) :
    s.edgeAdd p ts4 false rise dir = (s.edgeNots p ts4, s.edgeRecorded p ts4 rise dir (s.edgeNots p ts4)) := by
  have hnots : (s.edgeAdd p ts4 false rise dir).1 = s.edgeNots p ts4 := Bool.or_false _
  refine Prod.ext hnots ((if_neg ?_).trans (State.pset_congr ?_))
  · simp only [State.pset_at_self, List.length_append, List.length_singleton]
    omega
  · rw [← hnots]
    rfl

/-- The frame's harvest counts an edge of A; with EDGE 3 the speed window takes the rising ones alone (R471). -/
def Port.edgeCounted (x : Port) (sel ts4 : Nat) (rise dir nots : Bool) : Port :=
  { x with
    cntA := x.cntA + 1
    rev := x.rev + b2n dir
    win := if sel = 3 ∧ rise = false then x.win else x.win ++ [(ts4, nots)] }

theorem State.pulseEdge_short {s : State} {p : PortId} {held : Nat} (hfn : s.pfn p = .pulse)
    (hheld : held < orElse0 (s.rd (PORT_CFG_FILT p)) 1) (b rise : Bool) (t : Nat) (dir : Bool) :
    s.pulseEdge p b rise t dir held = s := by
  rw [State.pulseEdge, State.ifFn_run hfn]
  exact if_pos (by simp [State.filtered_eq_false_iff.mpr hheld])

theorem State.pulseEdge_unselected {s : State} {p : PortId} {held : Nat} {rise : Bool} (hfn : s.pfn p = .pulse)
    (hheld : orElse0 (s.rd (PORT_CFG_FILT p)) 1 ≤ held) (hsel : edgePick (s.edgeSel p) rise = false) (t : Nat) (dir : Bool) :
    s.pulseEdge p false rise t dir held = s.pset p (fun x => { x with lvlA := rise }) := by
  rw [State.pulseEdge, State.ifFn_run hfn, if_neg (by simp [State.filtered_iff.mpr hheld])]
  exact if_pos (by simp [hsel])

theorem State.pulseEdge_selected {s : State} {p : PortId} {held : Nat} {rise : Bool} (hfn : s.pfn p = .pulse)
    (hheld : orElse0 (s.rd (PORT_CFG_FILT p)) 1 ≤ held) (hsel : edgePick (s.edgeSel p) rise = true)
    (hroom : (s.port.at p).recs.length < 63) (t : Nat) (dir : Bool) : s.pulseEdge p false rise t dir held =
      ((s.pset p (fun x => { x with lvlA := rise })).edgeRecorded p (4 * s.tbs.mono + t) rise (dir && s.bmode p == 2)
        (s.edgeNots p (4 * s.tbs.mono + t))).pset p (fun x => x.edgeCounted (s.edgeSel p) (4 * s.tbs.mono + t) rise
          (dir && s.bmode p == 2) (s.edgeNots p (4 * s.tbs.mono + t))) := by
  have hlast : (s.pset p (fun x => { x with lvlA := rise })).edgeNots p (4 * s.tbs.mono + t) =
      s.edgeNots p (4 * s.tbs.mono + t) := by
    simp [State.edgeNots]
  have hopen := State.edgeAdd_open (s := s.pset p (fun x => { x with lvlA := rise })) (p := p) (by simpa using hroom)
    (4 * s.tbs.mono + t) rise (dir && s.bmode p == 2)
  rw [State.pulseEdge, State.ifFn_run hfn, if_neg (by simp [State.filtered_iff.mpr hheld])]
  simp [hsel, hopen, hlast, Port.edgeCounted]

/-! ## PPS ports (R217) -/

theorem State.ppsEdge_unselected {s : State} {p : PortId} {held : Nat} {rise : Bool} (hfn : s.pfn p = .pps)
    (hheld : orElse0 (s.rd (PORT_CFG_FILT p)) 1 ≤ held) (hsel : rise = (s.par p 0 0 2 == 2)) (t : Nat) :
    s.ppsEdge p rise t held = s.pset p (fun x => { x with lvlA := rise }) := by
  rw [State.ppsEdge, State.ifFn_run hfn, if_neg (by simp [State.filtered_iff.mpr hheld])]
  exact if_pos hsel

/-- An edge of the selected polarity is recorded, and R217 decides between the count and the loop. -/
theorem State.ppsEdge_selected {s u : State} {p : PortId} {held t ts4 : Nat} {rise nots : Bool} (hfn : s.pfn p = .pps)
    (hheld : orElse0 (s.rd (PORT_CFG_FILT p)) 1 ≤ held) (hsel : rise ≠ (s.par p 0 0 2 == 2)) (hts : ts4 = 4 * s.tbs.mono + t)
    (hu : (nots, u) = (s.pset p (fun x => { x with lvlA := rise })).edgeAdd p ts4 false rise false) :
    s.ppsEdge p rise t held = if s.ppsFar p ts4 then u.bump (PORT_CNT0 p)
      else ((u.pset p (fun x => { x with lastOk := some ts4 })).ppsSet ts4).ppsJudge ts4 := by
  subst hts
  rw [State.ppsEdge, State.ifFn_run hfn, if_neg (by simp [State.filtered_iff.mpr hheld])]
  simp only [if_neg hsel, ← hu]

/-- Within LOSS seconds of the latest accepted edge an edge is far where it misses the second by more than 1 ms. -/
theorem State.ppsFar_iff {s : State} {p : PortId} {l : Nat} (hlast : (s.port.at p).lastOk = some l) (ts4 : Nat) :
    s.ppsFar p ts4 = true ↔ ts4 ≤ 4000000000 * orElse0 (s.rd TBS_PPSCFG_LOSS) 3 + l ∧
      (ts4 < 3996000000 + l ∨ 4004000000 + l < ts4) := by
  simp [State.ppsFar, hlast]

/-- Settles O31: each edge by its level's samples, its selection and its time; PULSEOUT's two events as their port takes them. -/
theorem portPulsesAct : Obligations.PortPulsesAct := by
  unfold Obligations.PortPulsesAct
  intro s p
  refine ⟨?pulse, ?pps, fun hfn => ?cycle, fun hfn => ?readback⟩
  case pulse =>
    rintro rise dir t held ts d nots l hfn rfl rfl rfl rfl
    exact ⟨fun hheld => congrArg Host.Outcome.next (State.pulseEdge_short hfn hheld _ _ _ _),
      fun hheld hsel => congrArg Host.Outcome.next (State.pulseEdge_unselected hfn hheld hsel _ _),
      fun hheld hsel hroom => congrArg Host.Outcome.next (State.pulseEdge_selected hfn hheld hsel hroom _ _)⟩
  case pps =>
    intro t held u nots rise ts hfn hheld hrise hts hu
    have hpol : (s.par p 0 0 2 == 2) = !rise := by
      rw [hrise, decide_not, Bool.not_not]
      rfl
    have hsel : rise ≠ (s.par p 0 0 2 == 2) := by simp [hpol]
    have hedge : exec (.ppsEdge p ⟨rise, t, held⟩) s = .next _ :=
      congrArg Host.Outcome.next (State.ppsEdge_selected hfn hheld hsel hts hu)
    refine ⟨congrArg Host.Outcome.next (State.ppsEdge_unselected hfn hheld hpol.symm _), fun l hlast => ⟨?_, ?_⟩⟩
    · intro hlate hloss
      rw [hedge, if_pos ((State.ppsFar_iff hlast ts).mpr ⟨hloss, by omega⟩)]
    · intro hfrom hto
      rw [hedge, if_neg (fun hfar => by have := (State.ppsFar_iff hlast ts).mp hfar; omega)]
  case cycle => exact congrArg Host.Outcome.next (State.ifFn_run hfn _)
  case readback => exact congrArg Host.Outcome.next (State.ifFn_run hfn _)

end Sys2Proof.Machine
namespace Sys2Proof.Machine

/-! ## The card's phases (R204 to R206) -/

theorem State.cardOn_off {s : State} {p : PortId} (h : (s.port.at p).card = .off) :
    s.cardOn p = (s.cardTo p (.atr false)).setb (PORT_STAT_ACTIVE p) := if_pos h

theorem State.cardOn_active {s : State} {p : PortId} (h : (s.port.at p).card ≠ .off) : s.cardOn p = s := if_neg h

theorem State.cardOff_active {s : State} {p : PortId} (h : (s.port.at p).card ≠ .off) :
    s.cardOff p = (((s.cardBreak p false).cardTo p .off).wr (PORT_STAT_ACTIVE p) 0).cxGiveUp p := if_neg h

theorem State.cardWarm_off {s : State} {p : PortId} (h : (s.port.at p).card = .off) : s.cardWarm p = s := if_pos h

theorem State.cardWarm_active {s : State} {p : PortId} (h : (s.port.at p).card ≠ .off) :
    s.cardWarm p = (s.cardBreak p false).cardTo p (.atr true) := if_neg h

theorem State.cardBreak_ready {s : State} {p : PortId} (h : (s.port.at p).card = .ready) (fin : Bool) : s.cardBreak p fin = s := by
  rw [State.cardBreak, h]

/-- An exchange of the queues in progress closes its packet with flag 18. -/
theorem State.cardBreak_exchange {s : State} {p : PortId} (h : (s.port.at p).card = .bytes ∨ (s.port.at p).card = .apdu false) :
    s.cardBreak p false = s.cardClose p 4 := by
  rcases h with h | h <;> (rw [State.cardBreak, h]; rfl)

/-- What happens at a port's pins is its function's to take. -/
theorem State.next_ifFn {s t : State} {p : PortId} {fn : PortFn} {f : State → State} (hfn : s.pfn p = fn) (h : f s = t) :
    (Host.Outcome.next (s.ifFn p fn f) : Host.Outcome State Fault Refusal) = .next t := by
  rw [State.ifFn_run hfn, h]

/-! ## A core's commands to a card -/

section
variable {s : State} {c : CpuId} {p : PortId} (hrun : s.coreRuns c = true) (hfn : (s.strongIssue c).pfn p = .card)
include hrun hfn

theorem exec_activate : exec (.activate c p) s = .next ((s.strongIssue c).cardOn p) := by
  change execActivate c p s = _
  rw [execActivate, State.byCore_run hrun, State.ifFn_run hfn]

theorem exec_deactivate : exec (.deactivate c p) s = .next ((s.strongIssue c).cardOff p) := by
  change execDeactivate c p s = _
  rw [execDeactivate, State.byCore_run hrun, State.ifFn_run hfn]

theorem exec_cardWarmReset : exec (.cardWarmReset c p) s = .next ((s.strongIssue c).cardWarm p) := by
  change execCardWarmReset c p s = _
  rw [execCardWarmReset, State.byCore_run hrun, State.ifFn_run hfn]

end

/-! ## Presence (R204, R205) -/

theorem State.cardIn_present {s : State} {p : PortId} {lvl : Bool} {ms : Nat} (hlvl : lvl = s.presLevel p)
    (hms : s.cardPresf p ≤ ms) : s.cardIn p lvl ms =
      if s.parBit p 0 22 then (s.setb (PORT_STAT_PRES p)).cardOn p else s.setb (PORT_STAT_PRES p) := by
  rw [State.cardIn, if_neg (by simp [hlvl, hms])]

theorem State.cardIn_short {s : State} {p : PortId} {ms : Nat} (hms : ms < s.cardPresf p) (lvl : Bool) : s.cardIn p lvl ms = s :=
  if_pos (.inr hms)

theorem State.cardOut_active {s : State} {p : PortId} {lvl : Bool} {ms : Nat} (hlvl : lvl ≠ s.presLevel p)
    (hms : s.cardPresf p ≤ ms) (hactive : s.isSet (PORT_STAT_ACTIVE p) = true) :
    s.cardOut p lvl ms = ((s.wr (PORT_STAT_PRES p) 0).bump (PORT_CNT1 p)).cardOff p := by
  rw [State.cardOut, if_neg (by simp [hlvl, hms])]
  simp only [hactive, if_true]

theorem State.cardOut_short {s : State} {p : PortId} {ms : Nat} (hms : ms < s.cardPresf p) (lvl : Bool) : s.cardOut p lvl ms = s :=
  if_pos (.inr hms)

/-! ## The ATR (R204) -/

section
variable {s : State} {p : PortId} {warm : Bool} (hatr : (s.port.at p).card = .atr warm)
include hatr

theorem State.cardNoAtr_awaited : s.cardNoAtr p = (s.cardOff p).portSend p 6 [] := by
  rw [State.cardNoAtr, hatr]
  rfl

theorem State.cardAtr_inTime {t : Nat} (hlo : 400 ≤ t) (hhi : t ≤ 40000) (l : List Byte) : s.cardAtr p t l =
    ((s.pset p (fun x => { x with t1s := false, t1r := false })).portSend p 2 (captBytes l)).cardReady p := by
  rw [State.cardAtr, hatr, if_neg (by simp [CardPhase.awaits]), if_neg (by omega)]

theorem State.cardAtr_outOfTime {t : Nat} (h : t < 400 ∨ 40000 < t) (l : List Byte) :
    s.cardAtr p t l = (s.cardOff p).portSend p 6 [] := by
  rw [State.cardAtr, hatr, if_neg (by simp [CardPhase.awaits]), if_pos h, State.cardNoAtr_awaited hatr]

end

/-! ## Exchanges (R207) -/

/-- A ready card whose RX packets were all admitted takes the packet at the head of the TX queue. -/
theorem State.cardTx_takes {s u : State} {p : PortId} {fl : Nat} {pay : List Byte} (hready : (s.port.at p).card = .ready)
    (hwait : (s.port.at p).rxWait = []) (htx : s.txTake p = some (fl, pay, u)) :
    s.cardTx p = u.cardTo p (if bitAt fl 1 then .apdu false else .bytes) := by
  rw [State.cardTx, State.portRetry_admitted hwait]
  simp only [hready, hwait, htx]
  rfl

/-- The APDU exchange of the queues that ends with a response sends it as one RX packet. -/
theorem State.cardAnswer_apdu {s u : State} {p : PortId} {l : List CardChar} {reps a : List Byte}
    (hphase : (s.port.at p).card = .apdu false)
    (hrun : (s.cardReps p (reps ++ (l.take ((s.cardHeard p l reps).length + 1)).map CardChar.bad)).cardRun p
      (s.cardHeard p l reps) = (some a, u)) : s.cardAnswer p l reps = (u.portSend p 0 (captBytes a)).cardReady p := by
  rw [State.cardAnswer, hphase]
  simp only [hrun]

/-- At byte level, where every character is heard and every one of the port's own gets through, the packet stays open. -/
theorem State.cardAnswer_bytes {s : State} {p : PortId} {l : List CardChar} {reps : List Byte}
    (hphase : (s.port.at p).card = .bytes) (hheard : s.cardHeard p l reps = l)
    (hreps : reps.all (fun r => decide (r.toNat ≤ s.cardRetry p)) = true) :
    s.cardAnswer p l reps = (s.cardReps p (reps ++ l.map CardChar.bad)).cardChars p (l.map CardChar.b) := by
  have htake : l.take (l.length + 1) = l := List.take_of_length_le (Nat.le_succ _)
  have hsent : reps.all (fun r => s.cardT1 p || decide (r.toNat ≤ s.cardRetry p)) = true := by
    rw [List.all_eq_true] at hreps ⊢
    intro r hr
    rw [hreps r hr, Bool.or_true]
  rw [State.cardAnswer, hphase]
  simp [hheard, htake, hsent]

theorem State.cardCwt_closes {s : State} {p : PortId} {t : Nat} (hphase : (s.port.at p).card = .bytes)
    (hrx : (s.port.at p).rx ≠ []) (hwait : s.cardWait p ≤ t * s.cardD p) :
    s.cardCwt p t = (s.cardClose p 0).cardReady p := by
  rw [State.cardCwt, if_pos ⟨hphase, hwait⟩, if_neg (by simpa using hrx)]

/-- Settles O32: a core's commands by the card's phase, presence by its level and its time, the ATR by its clocks, and the
exchanges by their level. -/
theorem cardsAct : Obligations.CardsAct := by
  unfold Obligations.CardsAct
  intro s c p
  refine ⟨?commands, fun hfn => ⟨fun lvl ms => ⟨?inserted, ?removed, ?short⟩, fun warm hatr => ⟨?atr, ?noAtr, ?timeout⟩, ?tx,
    ?apdu, ?bytes, ?cwt⟩⟩
  case commands =>
    rintro t hrun rfl hfn
    rw [exec_activate hrun hfn, exec_deactivate hrun hfn, exec_cardWarmReset hrun hfn]
    refine ⟨fun hoff => ⟨?_, ?_⟩, fun hready => ?_, fun hexchange => ?_⟩
    · rw [State.cardOn_off hoff]
    · rw [State.cardWarm_off hoff]
    · have hactive : ((s.strongIssue c).port.at p).card ≠ .off := by rw [hready]; exact CardPhase.noConfusion
      rw [State.cardOn_active hactive, State.cardOff_active hactive, State.cardWarm_active hactive, State.cardBreak_ready hready]
      exact ⟨rfl, rfl, rfl⟩
    · have hactive : ((s.strongIssue c).port.at p).card ≠ .off := by rcases hexchange with h | h <;> simp [h]
      rw [State.cardOff_active hactive, State.cardWarm_active hactive, State.cardBreak_exchange hexchange]
      exact ⟨rfl, rfl⟩
  case inserted => exact fun hlvl hms => State.next_ifFn hfn (State.cardIn_present hlvl hms)
  case removed => exact fun hlvl hms hactive => State.next_ifFn hfn (State.cardOut_active hlvl hms hactive)
  case short =>
    intro hms
    exact ⟨State.next_ifFn hfn (State.cardIn_short hms lvl),
      State.next_ifFn hfn (State.cardOut_short hms lvl)⟩
  case atr => exact fun t l hlo hhi => State.next_ifFn hfn (State.cardAtr_inTime hatr hlo hhi l)
  case noAtr => exact fun t l hout => State.next_ifFn hfn (State.cardAtr_outOfTime hatr hout l)
  case timeout => exact State.next_ifFn hfn (State.cardNoAtr_awaited hatr)
  case tx => exact fun hready hwait fl pay u htx => State.next_ifFn hfn (State.cardTx_takes hready hwait htx)
  case apdu =>
    rintro hphase l reps heard a u rfl hresp
    exact State.next_ifFn hfn (State.cardAnswer_apdu hphase hresp.symm)
  case bytes => exact fun hphase l reps hheard hreps => State.next_ifFn hfn (State.cardAnswer_bytes hphase hheard hreps)
  case cwt => exact fun t hphase hrx hwait => State.next_ifFn hfn (State.cardCwt_closes hphase hrx hwait)

end Sys2Proof.Machine
namespace Sys2Proof.Machine

/-! ## Hostlink's transactions reach their gate (R231, R234) -/

section
variable {h : HlkHdr} (s : State)

theorem exec_writeQ (hop : h.op = 1) (data : List Byte) (tr : Word) (fl : Bool) :
    exec (.writeQ h.qid h.len data tr fl) s = .next (s.hlkDo h (fun t => t.hlkWrite h data tr fl)) := by
  obtain ⟨_, _, _⟩ := h
  subst hop
  rfl

theorem exec_readQ (hop : h.op = 2) : exec (.readQ h.qid h.len) s = .next (s.hlkDo h (fun t => t.hlkRead h)) := by
  obtain ⟨_, _, _⟩ := h
  subst hop
  rfl

theorem exec_status (hop : h.op = 3) : exec (.status h.qid h.len) s = .next (s.hlkDo h (fun t => t.hlkStatus h)) := by
  obtain ⟨_, _, _⟩ := h
  subst hop
  rfl

theorem exec_ack (hop : h.op = 4) (tr : Word) :
    exec (.ack h.qid h.len tr) s = .next (s.hlkDo h (fun t => t.hlkAck h tr)) := by
  obtain ⟨_, _, _⟩ := h
  subst hop
  rfl

end

/-- A transaction of one header is that header's gate before some effect, which READ_Q and ACK have of their own. -/
theorem exec_transaction {h : HlkHdr} {fl : Bool} {tr : Word} {data : List Byte} {c : Instr} (s : State)
    (hc : c = .writeQ h.qid h.len data tr fl ∧ h.op = 1 ∨ c = .readQ h.qid h.len ∧ h.op = 2 ∨ c = .status h.qid h.len ∧ h.op = 3 ∨
      c = .ack h.qid h.len tr ∧ h.op = 4) :
    ∃ f, exec c s = .next (s.hlkDo h f) ∧ (h.op = 2 → ∀ t, f t = t.hlkRead h) ∧ (h.op = 4 → ∀ t, f t = t.hlkAck h tr) := by
  rcases hc with ⟨rfl, hop⟩ | ⟨rfl, hop⟩ | ⟨rfl, hop⟩ | ⟨rfl, hop⟩
  · exact ⟨_, exec_writeQ s hop data tr fl, by simp [hop], by simp [hop]⟩
  · exact ⟨_, exec_readQ s hop, fun _ _ => rfl, by simp [hop]⟩
  · exact ⟨_, exec_status s hop, by simp [hop], by simp [hop]⟩
  · exact ⟨_, exec_ack s hop tr, by simp [hop], fun _ _ => rfl⟩

theorem State.hlkRead_empty {s : State} {h : HlkHdr} (hhead : s.hasHead (hOut h.k) = false) : s.hlkRead h = s.hlkNo none := by
  simp [State.hlkRead, hhead]

theorem State.hlkAck_ineligible {s : State} {h : HlkHdr} (helig : s.hlkEligible h.k = false) (tr : Word) :
    s.hlkAck h tr = s.hlkNo (some HLK_ERR_ACK) := by
  simp [State.hlkAck, helig]

/-- Settles O34: the gate refuses by header and by mode; past it READ_Q wants a packet, and ACK an eligible one. -/
theorem hostlinkRefuses : Obligations.HostlinkRefuses := by
  unfold Obligations.HostlinkRefuses
  intro s h fl tr data c hlive hc
  obtain ⟨f, hexec, hread, hack⟩ := exec_transaction s hc
  rw [hexec]
  refine ⟨fun hok => ?header, fun hok hmode => ?mode, fun hok hmode hop hhead => ?empty, fun hok hmode hop helig => ?ineligible⟩
  case header => rw [State.hlkDo_header hlive hok]
  case mode => rw [State.hlkDo_mode hlive hok hmode]
  case empty => rw [State.hlkDo_run hlive hok hmode, hread hop, State.hlkRead_empty hhead]
  case ineligible => rw [State.hlkDo_run hlive hok hmode, hack hop, State.hlkAck_ineligible helig]

/-- `State.hlkDo_run` with the purged state under a name of its own, so that no later step looks into the purge. -/
theorem State.hlkDo_purged {s t : State} {h : HlkHdr} (hlive : s.hlkLive = true) (ht : t = s.hlkPurge) (hok : h.ok = true)
    (hmode : t.sys.mode.hlkOp h.op.toNat = true) (f : State → State) : s.hlkDo h f = f t := by
  rw [ht] at hmode ⊢
  exact State.hlkDo_run hlive hok hmode f

/-! ## WRITE_Q (R236) -/

section
variable {s u : State} {h : HlkHdr} {data : List Byte} {tr hdr : Word} (hlen : data.length = h.len.toNat)
  (hhdr : hdr = pktHeader h.len.toNat 0 (s.rd (QFX_SRC_ID (hIn h.k))) (s.hlk.seq.at h.k).toNat)
  (hpush : s.pushHeader 2 (hIn h.k) hdr = (.taken, u))
include hlen hhdr hpush

/-- A write whose header is admitted is decided by its trailer. -/
theorem State.hlkWrite_taken (fl : Bool) :
    s.hlkWrite h data tr fl =
      let v := u.hlkYes (hostBytes (data.length + 4))
      if tr = crc32c (h.bytes ++ data) then v.hlkSeal h.k hdr data fl
      else (((((if fl then v.flushQueue (hIn h.k) else v).qset (hIn h.k) Queue.withdraw).laneFail 3).setb HLK_ERR_CRC).bump
        HLK_CNT_CRCERR).hlkLast h.k 1 := by
  have htake : (data ++ List.replicate h.len.toNat 0).take h.len.toNat = data := List.take_left' hlen
  subst hhdr
  simp only [State.hlkWrite, htake, hlen, hpush]

theorem State.hlkWrite_sealed (htr : tr = crc32c (h.bytes ++ data)) (fl : Bool) :
    s.hlkWrite h data tr fl = (u.hlkYes (hostBytes (data.length + 4))).hlkSeal h.k hdr data fl := by
  rw [State.hlkWrite_taken hlen hhdr hpush]
  exact if_pos htr

theorem State.hlkWrite_withdrawn (htr : tr ≠ crc32c (h.bytes ++ data)) :
    s.hlkWrite h data tr false = (((((u.hlkYes (hostBytes (data.length + 4))).qset (hIn h.k) Queue.withdraw).laneFail 3).setb
      HLK_ERR_CRC).bump HLK_CNT_CRCERR).hlkLast h.k 1 := by
  rw [State.hlkWrite_taken hlen hhdr hpush]
  exact if_neg htr

end

/-! ## READ_Q (R237, R238) -/

/-- The header and the padded payload of the packet at the head, as a READ_Q long enough drives them. -/
def State.headBytes (s : State) (q : QueueId) : List Byte :=
  (List.range (pktWords (s.headPacket q).2.length - 1)).flatMap (fun i => (s.qword q ((s.qfx.at q).rd + i)).bytes)

/-- What a READ_Q drives before its CRC. -/
def State.readSent (s : State) (h : HlkHdr) : List Byte :=
  (s.headBytes (hOut h.k) ++ List.replicate h.len.toNat 0).take h.len.toNat

/-- The check of the packet at the head holds. -/
def State.headGood (s : State) (q : QueueId) : Bool := s.pktGood q ((s.qfx.at q).rd + pktWords (s.headPacket q).2.length)

/-- A stream, by its length and the packet's check. -/
theorem State.readStream_eq (s : State) (h : HlkHdr) :
    s.readStream h =
      let whole := decide ((s.headBytes (hOut h.k)).length ≤ h.len.toNat)
      let bad := whole && !s.headGood (hOut h.k)
      let crc := crc32c (h.bytes ++ s.readSent h)
      (s.readSent h ++ (if bad then ~~~crc else crc).bytes, whole, bad) := rfl

/-- A packet cut short is not judged by its check. -/
theorem State.readStream_good {s : State} {h : HlkHdr}
    (hgood : s.headGood (hOut h.k) = true ∨ h.len.toNat < (s.headBytes (hOut h.k)).length) :
    s.readStream h = (s.readSent h ++ (crc32c (h.bytes ++ s.readSent h)).bytes,
      decide ((s.headBytes (hOut h.k)).length ≤ h.len.toNat), false) := by
  have hbad : (decide ((s.headBytes (hOut h.k)).length ≤ h.len.toNat) && !s.headGood (hOut h.k)) = false := by
    rcases hgood with hgood | hshort
    · rw [hgood, Bool.not_true, Bool.and_false]
    · rw [decide_eq_false (Nat.not_le.mpr hshort), Bool.false_and]
  simp [State.readStream_eq, hbad]

theorem State.readStream_bad {s : State} {h : HlkHdr} (hgood : s.headGood (hOut h.k) = false)
    (hwhole : (s.headBytes (hOut h.k)).length ≤ h.len.toNat) :
    s.readStream h = (s.readSent h ++ (~~~crc32c (h.bytes ++ s.readSent h)).bytes, true, true) := by
  simp [State.readStream_eq, hgood, hwhole]

/-- The packet at the head of outbound Hk is read: RD stays and is marked, and eligibility is settled (R237). -/
def State.headRead (s : State) (k : Fin 8) (elig : Option Nat) : State :=
  let t := s.qset (hOut k) (fun x => { x with mark := some x.rd })
  { t with hlk := { t.hlk with elig := t.hlk.elig.put k elig } }

theorem State.headRead_qfx (s : State) (k : Fin 8) (e : Option Nat) :
    (s.headRead k e).qfx.at (hOut k) = { s.qfx.at (hOut k) with mark := some (s.qfx.at (hOut k)).rd } :=
  State.qset_at_self s (hOut k) _

theorem State.headRead_elig (s : State) (k : Fin 8) (e : Option Nat) : (s.headRead k e).hlk.elig.at k = e :=
  Tab.at_put_self _ _ _

theorem State.hlkRead_good {s : State} {h : HlkHdr} {out : List Byte} {whole : Bool} (hhead : s.hasHead (hOut h.k) = true)
    (hstream : s.readStream h = (out, whole, false)) :
    s.hlkRead h = (s.headRead h.k (if whole then some (s.qfx.at (hOut h.k)).rd else none)).hlkYes out := by
  simp [State.hlkRead, State.headRead, hhead, hstream]

theorem State.hlkRead_bad {s : State} {h : HlkHdr} {out : List Byte} {whole : Bool} (hhead : s.hasHead (hOut h.k) = true)
    (hstream : s.readStream h = (out, whole, true)) :
    s.hlkRead h = (((s.headRead h.k none).setb HLK_ERR_SRC).laneFail 4).hlkYes out := by
  simp [State.hlkRead, State.headRead, hhead, hstream]

/-- A read leaves the packet in place, whether its check holds or not. -/
theorem State.hlkRead_qfx {s : State} {h : HlkHdr} (hhead : s.hasHead (hOut h.k) = true) :
    (s.hlkRead h).qfx.at (hOut h.k) = { s.qfx.at (hOut h.k) with mark := some (s.qfx.at (hOut h.k)).rd } := by
  rcases hstream : s.readStream h with ⟨out, whole, bad⟩
  cases bad with
  | false =>
    rw [State.hlkRead_good hhead hstream, State.hlkYes_qfx, State.headRead_qfx]
  | true =>
    rw [State.hlkRead_bad hhead hstream]
    exact State.headRead_qfx s h.k none

/-- A packet whose check holds, or that is cut short: the CRC is right, and a whole packet is eligible (R237). -/
theorem State.hlkRead_sound {s : State} {h : HlkHdr} (hhead : s.hasHead (hOut h.k) = true)
    (hgood : s.headGood (hOut h.k) = true ∨ h.len.toNat < (s.headBytes (hOut h.k)).length) :
    (s.hlkRead h).hlk.out = [0, 0, 0, 0, 0xA5] ++ (s.readSent h ++ (crc32c (h.bytes ++ s.readSent h)).bytes) ∧
    (s.hlkRead h).hlk.elig.at h.k =
      if (s.headBytes (hOut h.k)).length ≤ h.len.toNat then some (s.qfx.at (hOut h.k)).rd else none := by
  rw [State.hlkRead_good hhead (State.readStream_good hgood)]
  refine ⟨rfl, (State.headRead_elig s h.k _).trans ?_⟩
  simp only [decide_eq_true_eq]

theorem State.rd_laneFail_err (s : State) (n : Fin 6) : (s.laneFail n).rd RLY_ERR_LANE = 1 :=
  State.rd_setb_self _ _ (by decide)

/-- A failure of a lane writes the lane's count and its error bit alone. -/
theorem State.rd_laneFail_ne (s : State) (n : Fin 6) {f : Field} (hlane : (RLY_LANE n).key ≠ f.key)
    (herr : RLY_ERR_LANE.key ≠ f.key) : (s.laneFail n).rd f = s.rd f := by
  rw [State.laneFail, State.setb, State.rd_wr_ne _ _ _ _ herr, State.bump, State.addc, State.rd_wr_ne _ _ _ _ hlane]

/-- A whole packet whose check is wrong: the CRC is inverted, lane 4 fails, and nothing is eligible (R238). -/
theorem State.hlkRead_broken {s : State} {h : HlkHdr} (hhead : s.hasHead (hOut h.k) = true)
    (hgood : s.headGood (hOut h.k) = false) (hwhole : (s.headBytes (hOut h.k)).length ≤ h.len.toNat) :
    (s.hlkRead h).rd HLK_ERR_SRC = 1 ∧ (s.hlkRead h).rd RLY_ERR_LANE = 1 ∧ (s.hlkRead h).hlk.elig.at h.k = none ∧
    (s.hlkRead h).hlk.out = [0, 0, 0, 0, 0xA5] ++ (s.readSent h ++ (~~~crc32c (h.bytes ++ s.readSent h)).bytes) := by
  rw [State.hlkRead_bad hhead (State.readStream_bad hgood hwhole)]
  refine ⟨?source, State.rd_laneFail_err _ 4, State.headRead_elig s h.k none, rfl⟩
  exact (State.rd_laneFail_ne _ 4 (by decide) (by decide)).trans (State.rd_setb_self _ HLK_ERR_SRC (by decide))

/-! ## STATUS, ACK, and a transaction left incomplete (R235, R239, R240) -/

theorem State.hlkAck_released {s : State} {h : HlkHdr} {tr : Word} (helig : s.hlkEligible h.k = true) (htr : tr = crc32c h.bytes) :
    s.hlkAck h tr =
      let u := (s.hlkYes (hostBytes 4)).headRelease (hOut h.k)
      { u with hlk := { u.hlk with elig := u.hlk.elig.put h.k none } } := by
  simp [State.hlkAck, helig, htr]

theorem exec_hostlinkAbort_unheaded {s : State} (hlive : s.hlkLive = true) :
    exec (.hostlinkAbort none) s = .next { s.setb HLK_ERR_ABORT with hlk := { s.hlk with out := [] } } := by
  change execHostlinkAbort none s = _
  rw [execHostlinkAbort, State.hlkAbort, if_pos hlive]

theorem exec_hostlinkAbort_status {s t : State} {h : HlkHdr} (hlive : s.hlkLive = true) (ht : t = s.hlkPurge) (hop : h.op = 3)
    (hok : h.ok = true) (hmode : t.sys.mode.hlkOp h.op.toNat = true) :
    exec (.hostlinkAbort (some h)) s = .next ((t.setb HLK_ERR_ABORT).hlkYes (t.statusStream h)) := by
  change execHostlinkAbort (some h) s = _
  rw [execHostlinkAbort, State.hlkAbort, State.hlkDo_purged hlive ht hok hmode, hop]
  rfl

/-- Settles O35: past the gate a write is decided by its trailer, a read by its length and the packet's check, an ACK by its
trailer. -/
theorem hostlinkActs : Obligations.HostlinkActs := by
  unfold Obligations.HostlinkActs
  intro s t qid len hlive ht
  refine ⟨?write, ?read, ?status, ?ack, exec_hostlinkAbort_unheaded hlive, ?abort⟩
  case write =>
    rintro h data tr fl hdr u v rfl hok hmode hlen hhdr hpush rfl
    rw [exec_writeQ (h := ⟨1, qid, len⟩) s rfl, State.hlkDo_purged hlive ht hok hmode]
    refine ⟨fun htr => ?sealed, fun htr hfl => ?withdrawn⟩
    case sealed => exact congrArg _ (State.hlkWrite_sealed hlen hhdr hpush htr fl)
    case withdrawn => exact congrArg _ (hfl ▸ State.hlkWrite_withdrawn hlen hhdr hpush htr)
  case read =>
    rintro h x words full sent good rfl hok hmode hhead rfl rfl rfl rfl rfl
    rw [exec_readQ (h := ⟨2, qid, len⟩) s rfl, State.hlkDo_purged hlive ht hok hmode]
    exact ⟨_, rfl, State.hlkRead_qfx hhead, State.hlkRead_sound hhead, State.hlkRead_broken hhead⟩
  case status =>
    rintro h sent u rfl hok hmode rfl rfl
    rw [exec_status (h := ⟨3, qid, len⟩) s rfl, State.hlkDo_purged hlive ht hok hmode]
    rfl
  case ack =>
    rintro h tr u rfl hok hmode helig htr rfl
    rw [exec_ack (h := ⟨4, qid, len⟩) s rfl, State.hlkDo_purged hlive ht hok hmode]
    exact congrArg _ (State.hlkAck_released helig htr)
  case abort =>
    rintro h rfl hok hmode
    exact exec_hostlinkAbort_status hlive ht rfl hok hmode

/-! ## The load commands of H6 (R241) -/

section
variable {s u : State} {pay : List Byte} {good : Bool} {c : Byte}

/-- Loading does not proceed: 20. -/
theorem State.h6Run_off (htake : s.h6Take = some (pay, good, u)) (hcmd : pay.getD 0 0 = c) (hon : s.h6On = false)
    (f : List Byte → State → State) : s.h6Run c f = (u.h6Say c 20 u.h6Rcvd 0).h6Skip := by
  subst hcmd
  simp [State.h6Run, State.h6Cmd, htake, hon]

/-- The packet's check is wrong: 42, and lane 5 counts. -/
theorem State.h6Run_bad (htake : s.h6Take = some (pay, false, u)) (hcmd : pay.getD 0 0 = c) (hon : s.h6On = true)
    (f : List Byte → State → State) : s.h6Run c f = ((u.laneFail 5).h6Say c 42 (u.laneFail 5).h6Rcvd 0).h6Skip := by
  have hrcvd : (u.laneFail 5).h6Rcvd = u.h6Rcvd := rfl
  subst hcmd
  simp [State.h6Run, State.h6Cmd, htake, hon, hrcvd]

/-- Otherwise the command acts on its payload. -/
theorem State.h6Run_acts (htake : s.h6Take = some (pay, true, u)) (hcmd : pay.getD 0 0 = c) (hon : s.h6On = true)
    (f : List Byte → State → State) : s.h6Run c f = (f pay u).h6Skip := by
  subst hcmd
  simp [State.h6Run, State.h6Cmd, htake, hon]

end

section
variable {s t : State} {b : List Byte}

theorem State.h6Begin_malformed (h : b.length ≠ 12 ∨ 2 < leNat ((b.drop 1).take 3)) : s.h6Begin b = s.h6Say 1 12 s.h6Rcvd 0 :=
  if_pos h

theorem State.h6Begin_wellFormed {e : Nat} (hlen : b.length = 12) (hkind : leNat ((b.drop 1).take 3) ≤ 2)
    (hload : s.loadBegin true
      (if leNat ((b.drop 1).take 3) = 0 then .fw else if leNat ((b.drop 1).take 3) = 1 then .uc else .app)
      (leNat ((b.drop 4).take 4)) (if Word.ofBytes (b.drop 8) = 0 then none else some (Word.ofBytes (b.drop 8))) = (e, t)) :
    s.h6Begin b = t.h6Say 1 e t.h6Rcvd 0 := by
  have hform : ¬(b.length ≠ 12 ∨ 2 < leNat ((b.drop 1).take 3)) := by omega
  simp only [State.h6Begin, if_neg hform, hload]

theorem State.h6Data_malformed (h : b.length < 9 ∨ 1024 < b.length ∨ leNat ((b.drop 1).take 3) ≠ 0) :
    s.h6Data b = s.h6Say 2 12 s.h6Rcvd 0 :=
  if_pos h

theorem State.h6Data_wellFormed {e : Nat} (hlo : 9 ≤ b.length) (hhi : b.length ≤ 1024) (hzero : leNat ((b.drop 1).take 3) = 0)
    (hload : s.loadData true (leNat ((b.drop 4).take 4)) (b.drop 8) = (e, t)) : s.h6Data b = t.h6Say 2 e t.h6Rcvd 0 := by
  have hform : ¬(b.length < 9 ∨ 1024 < b.length ∨ leNat ((b.drop 1).take 3) ≠ 0) := by omega
  simp only [State.h6Data, if_neg hform, hload]

theorem State.h6End_malformed (h : h6Bare b = false) : s.h6End b = s.h6Say 3 12 s.h6Rcvd 0 := by
  simp [State.h6End, h]

theorem State.h6End_judged {bad n : Nat} {k : ImgLoad} (h : h6Bare b = true) (hload : s.loadEnd true = (some (bad, k, n), t)) :
    s.h6End b = t.h6Say 3 (if bad = 0 then 0 else 42) s.h6Rcvd bad := by
  simp [State.h6End, h, hload]

theorem State.h6Abort_malformed (h : h6Bare b = false) : s.h6Abort b = s.h6Say 4 12 s.h6Rcvd 0 := by
  simp [State.h6Abort, h]

theorem State.h6Abort_open {k : ImgLoad} (h : h6Bare b = true) (hload : s.loadAbort true = (some k, t)) :
    s.h6Abort b = t.h6Say 4 0 0 0 := by
  simp [State.h6Abort, h, hload]

end

theorem exec_h6Begin (s : State) : exec .h6Begin s = .next (s.h6Run 1 (fun b t => t.h6Begin b)) := rfl
theorem exec_h6Data (s : State) : exec .h6Data s = .next (s.h6Run 2 (fun b t => t.h6Data b)) := rfl
theorem exec_h6End (s : State) : exec .h6End s = .next (s.h6Run 3 (fun b t => t.h6End b)) := rfl
theorem exec_h6Abort (s : State) : exec .h6Abort s = .next (s.h6Run 4 (fun b t => t.h6Abort b)) := rfl

/-- Settles O36: the four commands share the refusals of loading and of the packet's check; past them each is judged by its own
bytes and by the load. -/
theorem hostLoadActs : Obligations.HostLoadActs := by
  unfold Obligations.HostLoadActs
  intro s u pay good htake
  rw [exec_h6Begin, exec_h6Data, exec_h6End, exec_h6Abort]
  refine ⟨fun hcmd => ⟨fun hoff => ?beginOff, ?beginBad, ?beginActs⟩, fun hcmd => ⟨fun hoff => ?dataOff, ?dataBad, ?dataActs⟩,
    fun hcmd => ⟨fun hoff => ?endOff, ?endBad, ?endActs⟩, fun hcmd => ⟨fun hoff => ?abortOff, ?abortBad, ?abortActs⟩⟩
  case beginOff | dataOff | endOff | abortOff => rw [State.h6Run_off htake hcmd hoff]
  case beginBad | dataBad | endBad | abortBad =>
    rintro hon rfl
    rw [State.h6Run_bad htake hcmd hon]
  case beginActs =>
    rintro hon rfl kind crc rfl rfl
    rw [State.h6Run_acts htake hcmd hon]
    refine ⟨fun hform => ?_, fun e w hlen hkind hload => ?_⟩
    · rw [State.h6Begin_malformed hform]
    · rw [State.h6Begin_wellFormed hlen hkind hload]
  case dataActs =>
    rintro hon rfl
    rw [State.h6Run_acts htake hcmd hon]
    refine ⟨fun hform => ?_, fun e w hlo hhi hzero hload => ?_⟩
    · rw [State.h6Data_malformed hform]
    · rw [State.h6Data_wellFormed hlo hhi hzero hload]
  case endActs =>
    rintro hon rfl
    rw [State.h6Run_acts htake hcmd hon]
    refine ⟨fun hbare => ?_, fun bad k n w hbare hload => ?_⟩
    · rw [State.h6End_malformed hbare]
    · rw [State.h6End_judged hbare hload]
  case abortActs =>
    rintro hon rfl
    rw [State.h6Run_acts htake hcmd hon]
    refine ⟨fun hbare => ?_, fun k w hbare hload => ?_⟩
    · rw [State.h6Abort_malformed hbare]
    · rw [State.h6Abort_open hbare hload]

end Sys2Proof.Machine
namespace Sys2Proof.Machine

/-! ## A core's access reaches its queue (R245, R297) -/

section
variable {s : State} {c : CpuId} (hrun : s.coreRuns c = true) (q : QueueId)
include hrun

theorem exec_queuePush (w : Word) : exec (.queuePush c q w) s = .next ((s.strongIssue c).qPush c.agent q w) := by
  change Host.Outcome.next (s.byCore c (fun s => s.qPush c.agent q w)) = _
  rw [State.byCore_run hrun]

theorem exec_queuePop : exec (.queuePop c q) s = .next ((s.strongIssue c).qPop c q) := by
  change Host.Outcome.next (s.byCore c (fun s => s.qPop c q)) = _
  rw [State.byCore_run hrun]

theorem exec_flush : exec (.flush c q) s = .next ((s.strongIssue c).qFlush c.agent q) := by
  change Host.Outcome.next (s.byCore c (fun s => s.qFlush c.agent q)) = _
  rw [State.byCore_run hrun]

end

theorem exec_mark (s : State) (c : CpuId) (q : QueueId) :
    exec (.mark c q) s = .next (s.asConsumer c q (fun t => t.qMark q)) := rfl
theorem exec_rewind (s : State) (c : CpuId) (q : QueueId) :
    exec (.rewind c q) s = .next (s.asConsumer c q (fun t => t.qRewind q)) := rfl
theorem exec_release (s : State) (c : CpuId) (q : QueueId) :
    exec (.release c q) s = .next (s.asConsumer c q (fun t => t.qRelease q)) := rfl

/-! ## The owner fields let an access pass or refuse it (R245) -/

/-- The refusal sets NOTOWNER with QN, and raises MISUSE. -/
theorem State.qForeign_eq (s : State) (q : QueueId) : s.qForeign q = (s.qerr QFX_ERR_NOTOWNER q).misuse := rfl

section
variable {s : State} {a : Agent} {q : QueueId}

theorem State.qPush_producer (h : s.qProducer a q = true) (w : Word) : s.qPush a q w = (s.pushWord a.qcode q w).2 := if_pos h

theorem State.qPush_foreign (h : s.qProducer a q = false) (w : Word) : s.qPush a q w = s.qForeign q := by
  simp [State.qPush, h]

theorem State.qFlush_owner (h : s.qConsumer a q = true ∨ s.qProducer a q = true) : s.qFlush a q = s.flushQueue q := by
  rcases h with h | h <;> simp [State.qFlush, h]

/-- CON needs no owner field to flush (R169). -/
theorem State.qFlush_foreign (hprod : s.qProducer a q = false) (hcons : s.qConsumer a q = false) (hcon : a ≠ .con) :
    s.qFlush a q = s.qForeign q := by
  simp [State.qFlush, hprod, hcons, hcon]

theorem State.qPop_consumer {c : CpuId} (h : s.qConsumer c.agent q = true) :
    s.qPop c q = (s.popWord q).2.loaded c (s.popWord q).1 := if_pos h

theorem State.qPop_foreign {c : CpuId} (h : s.qConsumer c.agent q = false) : s.qPop c q = (s.loaded c 0).qForeign q := by
  simp [State.qPop, h]

end

/-- A core is not CON. -/
theorem CpuId.agent_ne_con (c : CpuId) : c.agent ≠ .con := by
  revert c
  decide

/-! ## A word from the producer (R249) -/

section
variable {s : State} {q : QueueId} (hdrop : (s.qfx.at q).drop = 0)
include hdrop

theorem State.pushWord_body (hleft : 1 < (s.qfx.at q).left) (code : Nat) (w : Word) :
    s.pushWord code q w = (.taken, s.qappend q w) := by
  simp [State.pushWord, hdrop, show (s.qfx.at q).left ≠ 0 by omega, show (s.qfx.at q).left ≠ 1 by omega]

theorem State.pushWord_trailer (hleft : (s.qfx.at q).left = 1) (code : Nat) (w : Word) :
    s.pushWord code q w = (.taken, s.pushTrailer q w) := by
  simp [State.pushWord, hdrop, hleft]

theorem State.pushWord_boundary (hleft : (s.qfx.at q).left = 0) (code : Nat) (w : Word) :
    s.pushWord code q w = s.pushHeader code q w := by
  simp [State.pushWord, hdrop, hleft]

end

/-! ## A read at RD (R255) -/

section
variable {s : State} {q : QueueId}

theorem State.popWord_empty (h : (s.qfx.at q).readable = false) : s.popWord q = (0, s.qerr QFX_ERR_UNDER q) := by
  simp [State.popWord, h]

/-- RD moves; the last word of a packet sets CHK as well (R250). -/
theorem State.popWord_readable (h : (s.qfx.at q).readable = true) :
    s.popWord q = (s.qword q (s.qfx.at q).rd,
      let moved := s.qset q (fun x => { x with rd := x.rd + 1 })
      if (s.qfx.at q).ends.contains ((s.qfx.at q).rd + 1) then
        moved.wr (QFX_STAT_CHK q) (b2n (s.pktGood q ((s.qfx.at q).rd + 1)))
      else moved) := by
  simp [State.popWord, h]

theorem State.popWord_queue (h : (s.qfx.at q).readable = true) :
    (s.popWord q).2.qfx.at q = { s.qfx.at q with rd := (s.qfx.at q).rd + 1 } := by
  rw [State.popWord_readable h]
  dsimp only
  split <;> simp

theorem State.popWord_mem (h : (s.qfx.at q).readable = true) : (s.popWord q).2.mem = s.mem := by
  rw [State.popWord_readable h]
  dsimp only
  split <;> rfl

end

/-! ## MARK, REWIND, RELEASE without a pending flush (R256) -/

section
variable {s : State} {q : QueueId} (hflush : (s.qfx.at q).flush = none)
include hflush

theorem State.qMark_queue : (s.qMark q).qfx.at q = { s.qfx.at q with mark := some (s.qfx.at q).rd } := by
  simp [State.qMark, hflush]

theorem State.qRewind_marked {m : Nat} (hmark : (s.qfx.at q).mark = some m) :
    s.qRewind q = s.qset q (fun x => { x with rd := m }) := by
  simp [State.qRewind, hflush, hmark]

theorem State.qRewind_unmarked (hmark : (s.qfx.at q).mark = none) : s.qRewind q = s.qerr QFX_ERR_NOMARK q := by
  simp [State.qRewind, hflush, hmark]

theorem State.qRelease_frees {y : Queue} (hrel : (s.qfx.at q).release = some y) : s.qRelease q = s.qset q (fun _ => y) := by
  simp [State.qRelease, hflush, hrel]

theorem State.qRelease_nothing (hrel : (s.qfx.at q).release = none) :
    s.qRelease q = (s.qerr QFX_ERR_DOUBLE q).misuse := by
  simp [State.qRelease, hflush, hrel]

end

/-! ## The flush limit (R259) -/

theorem exec_flushLimitExpiry {s : State} {q : QueueId} {n : Nat} (hflush : (s.qfx.at q).flush = some n)
    (hlimit : s.flushLimit ≤ n) :
    exec (.flushLimitExpiry q) s = .next ((s.qset q Queue.force).qlost (QFX_CNT_DESYNC q)) := by
  change Host.Outcome.next (s.flushForce q) = _
  simp [State.flushForce, hflush, hlimit]

@[simp] theorem State.qlost_qfx (s : State) (f : Field) : (s.qlost f).qfx = s.qfx := rfl

theorem crates_self (a : Nat) : crates a a = 0 := if_pos (Nat.le_refl a)

/-- A forced boundary leaves no crate: every position stands at PW, and the packet claims nothing more. -/
theorem Queue.force_held (x : Queue) : x.force.held = 0 := crates_self x.pw

/-- Settles O37: the owner passes, and each command is then decided by where the queue stands. -/
theorem queueCommandsAct : Obligations.QueueCommandsAct := by
  unfold Obligations.QueueCommandsAct
  refine ⟨?owned, ?limit⟩
  case owned =>
    rintro s t c q hrun rfl
    refine ⟨fun w hprod hdrop => ?push, fun hcons => ⟨fun hread => ?pop, fun hempty => ?under, fun hflush => ?commands⟩,
      fun howner => ?flush⟩
    case push =>
      rw [exec_queuePush hrun, State.qPush_producer hprod]
      refine ⟨fun hleft => ?_, fun hleft => ?_, fun hleft => ?_⟩
      · rw [State.pushWord_body hdrop hleft]
      · rw [State.pushWord_trailer hdrop hleft]
      · rw [State.pushWord_boundary hdrop hleft]
    case pop =>
      rw [exec_queuePop hrun, State.qPop_consumer hcons]
      refine ⟨_, rfl, ?_, State.popWord_queue hread, State.popWord_mem hread⟩
      rw [State.loaded_rdata, State.popWord_readable hread]
    case under => rw [exec_queuePop hrun, State.qPop_consumer hcons, State.popWord_empty hempty]
    case commands =>
      simp only [exec_mark, exec_rewind, exec_release, State.asConsumer_run hrun _ hcons]
      refine ⟨⟨_, rfl, rfl, State.qMark_queue hflush⟩, fun m hmark => ?_, fun hmark => ?_, fun y hrel => ?_, fun hrel => ?_⟩
      · rw [State.qRewind_marked hflush hmark]
      · rw [State.qRewind_unmarked hflush hmark]
      · rw [State.qRelease_frees hflush hrel]
      · rw [State.qRelease_nothing hflush hrel]
    case flush => rw [exec_flush hrun, State.qFlush_owner howner]
  case limit =>
    intro s q n hflush hlimit
    have hforce := exec_flushLimitExpiry hflush hlimit
    refine ⟨hforce, _, hforce, ?_⟩
    rw [State.qlost_qfx, State.qset_at_self]
    exact ⟨Queue.force_held _, rfl, rfl, rfl⟩

/-! ## A queue's registers, written by CON or the Caretaker (R245) -/

section
variable {s : State} {a : Agent} {off : BitVec 20} {q : QueueId}

/-- REGISTER_WRITE to the queue fabric by an agent that is no core. -/
theorem exec_registerWrite_queues (hup : s.agentUp a = true) (hcpu : a.cpu = none) (halign : off.toNat % 4 = 0)
    (hlo : 0x4000 ≤ off.toNat) (hhi : off.toNat < 0x4800) (v : Word) :
    exec (.registerWrite a (.dev off) v) s = .next (s.devStore a off.toNat v) := by
  have hlist : deviceListed off.toNat = true := by
    rw [deviceListed, decide_eq_true hlo, decide_eq_true (show off.toNat < 0x14000 by omega), Bool.and_self, Bool.or_true]
  rw [exec_registerWrite_dev hup halign hlist, State.asAgent, hcpu]

theorem exec_registerWrite_push (hup : s.agentUp a = true) (hcpu : a.cpu = none) (hoff : off.toNat = 0x4010 + 0x20 * q.val)
    (v : Word) : exec (.registerWrite a (.dev off) v) s = .next (s.qPush a q v) := by
  have hq : off.toNat % 0x4000 / 0x20 = q.val := by omega
  rw [exec_registerWrite_queues hup hcpu (by omega) (by omega) (by omega), State.devStore, if_neg (by omega), if_neg (by omega),
    hcpu]
  dsimp only
  rw [if_neg (by omega), if_pos (by omega), hq, finOf_val]

theorem exec_registerWrite_cmd (hup : s.agentUp a = true) (hcpu : a.cpu = none) (hoff : off.toNat = 0x4008 + 0x20 * q.val)
    (v : Word) : exec (.registerWrite a (.dev off) v) s = .next (s.qCmdBy a q (v.toNat % 8)) := by
  have hq : off.toNat % 0x4000 / 0x20 = q.val := by omega
  rw [exec_registerWrite_queues hup hcpu (by omega) (by omega) (by omega), State.devStore, if_neg (by omega), if_neg (by omega),
    hcpu]
  dsimp only
  rw [if_pos (by omega), hq, finOf_val]

/-- MARK, REWIND and RELEASE are the consumer owner's alone. -/
theorem State.qCmdBy_foreign {cmd : Nat} (hcmd : cmd = 1 ∨ cmd = 2 ∨ cmd = 3) (h : s.qConsumer a q = false) :
    s.qCmdBy a q cmd = s.qForeign q := by
  rcases hcmd with rfl | rfl | rfl <;> simp [State.qCmdBy, State.qAs_foreign h]

end

/-- Settles O38: every access meets the owner fields first, and one that they do not name ends there. -/
theorem foreignQueueRefused : Obligations.ForeignQueueRefused := by
  unfold Obligations.ForeignQueueRefused
  refine ⟨?cores, ?others⟩
  case cores =>
    rintro s t c q w hrun rfl
    refine ⟨fun hprod => ?push, fun hcons => ?consumer, fun hprod hcons => ?flush⟩
    case push => rw [exec_queuePush hrun, State.qPush_foreign hprod, State.qForeign_eq]
    case consumer =>
      simp only [exec_mark, exec_rewind, exec_release, State.asConsumer_foreign hrun _ hcons, exec_queuePop hrun,
        State.qPop_foreign hcons, State.qForeign_eq, and_self]
    case flush => rw [exec_flush hrun, State.qFlush_foreign hprod hcons c.agent_ne_con, State.qForeign_eq]
  case others =>
    intro s a off q v ha hup
    have hcpu : a.cpu = none := by rcases ha with rfl | rfl <;> rfl
    refine ⟨fun hoff hprod => ?push, fun hoff hcmd hcons => ?command⟩
    case push => rw [exec_registerWrite_push hup hcpu hoff, State.qPush_foreign hprod, State.qForeign_eq]
    case command => rw [exec_registerWrite_cmd hup hcpu hoff, State.qCmdBy_foreign hcmd hcons, State.qForeign_eq]

end Sys2Proof.Machine
namespace Sys2Proof.Machine

/-! ## A core's command reaches its session (R272) -/

theorem exec_rlyOpen (s : State) (c : CpuId) (n : Fin 8) :
    exec (.rlyOpen c n) s = .next (s.rlyCmd c n (fun t => if t.rlySt n = 0 then t.rlyOpen c n else t)) := rfl
theorem exec_rlyAbort (s : State) (c : CpuId) (n : Fin 8) :
    exec (.rlyAbort c n) s = .next (s.rlyCmd c n (fun t => t.rlyAbort n)) := rfl
theorem exec_rlyDropsrc (s : State) (c : CpuId) (n : Fin 8) :
    exec (.rlyDropsrc c n) s = .next (s.rlyCmd c n (fun t => t.rlyDrop n)) := rfl
theorem exec_rlyFree (s : State) (c : CpuId) (n : Fin 8) :
    exec (.rlyFree c n) s = .next (s.rlyCmd c n (fun t => t.rlyFree n)) := rfl

section
variable {s : State} {c : CpuId} {n : Fin 8}

/-- A session in IDLE belongs to no core: OPEN takes it. -/
theorem State.rlyOthers_idle (h : s.rlySt n = 0) : s.rlyOthers c n = false := by
  simp [State.rlyOthers, h]

theorem State.rlyOthers_owner (h : s.rd (RLY_STAT_OWNER n) = c.val) : s.rlyOthers c n = false := by
  simp [State.rlyOthers, h]

theorem State.rlyOthers_foreign (hst : s.rlySt n ≠ 0) (howner : s.rd (RLY_STAT_OWNER n) ≠ c.val)
    (horphan : (s.rly.at n).orphan = false) : s.rlyOthers c n = true := by
  simp [State.rlyOthers, hst, howner, horphan]

end

/-! ## OPEN binds, and the move begins (R273, R277, R278) -/

/-- The session as OPEN leaves it in BOUND: owned by the core, bound to what its registers name (R273). -/
def State.rlyBound (s : State) (c : CpuId) (n : Fin 8) : State :=
  (s.wrs [(RLY_STAT_OWNER n, c.val), (RLY_STAT_STATE n, 1), (RLY_STAT_RESULT n, 0), (RLY_STAT_SEALED n, 0),
    (RLY_STAT_SRCFREE n, 0), (RLY_STAT_DFLUSH n, 0), (RLY_DSTCHK n, 0)]).rlySet n (fun _ => { bound := some (s.rlyRegs n) })

theorem State.rlyB_rlyBound (s : State) (c : CpuId) (n : Fin 8) : (s.rlyBound c n).rlyB n = s.rlyRegs n := by
  rw [State.rlyB, State.rlyBound, State.rlySet_at_self, Option.getD_some]

theorem key_rlyHdr_ne_state (n : Fin 8) : (RLY_HDR n).key ≠ (RLY_STAT_STATE n).key := by
  simp only [Field.key, RLY_HDR, RLY_STAT_STATE]
  omega

theorem width_rlyHdr (n : Fin 8) : (RLY_HDR n).width = 32 := rfl

theorem width_rlyState_le (n : Fin 8) : (RLY_STAT_STATE n).width ≤ 32 := by
  simp [Field.width, RLY_STAT_STATE]

section
variable {s : State} {n : Fin 8}

/-- Between two buffers nothing has to be waited for: BOUND becomes MOVING and nothing else changes. -/
theorem State.rlyMove_buffers (hsrc : s.rlySrcK n = 0) (hdst : s.rlyDstK n = 0) : s.rlyMove n = s.wr (RLY_STAT_STATE n) 2 := by
  have hready : s.rlyReady n = true := by simp [State.rlyReady, hsrc, hdst]
  simp [State.rlyMove, hready, hsrc, hdst]

section
variable (hsrc : s.rlySrcK n = 1) (hdst : s.rlyDstK n = 0) (hhead : s.hasHead (s.rlySrcQ n) = true)
  (hlen : s.lenOk n (s.rlyLen n) = true)
  (hfits : s.dstOk n (finOf 2 (s.rd (RLY_STAT_OWNER n))) (s.rlyLen n) = true)
include hsrc hdst hhead hlen hfits

/-- From a queue to a buffer: the packet at the head is there and fits, so its place and its header are taken over (R275). -/
theorem State.rlyMove_packet :
    s.rlyMove n = ((s.wr (RLY_STAT_STATE n) 2).rlySet n (fun x => { x with rd := (s.qfx.at (s.rlySrcQ n)).rd })).wr (RLY_HDR n)
      (s.headPacket (s.rlySrcQ n)).1.toNat := by
  have hready : s.rlyReady n = true := by simp [State.rlyReady, hhead, hdst]
  simp [State.rlyMove, hready, hsrc, hdst, hlen, hfits]

theorem State.rlyMove_packet_effect : (s.rlyMove n).rlySt n = 2 ∧ ((s.rlyMove n).rly.at n).rd = (s.qfx.at (s.rlySrcQ n)).rd ∧
    (s.rlyMove n).rd (RLY_HDR n) = (s.headPacket (s.rlySrcQ n)).1.toNat ∧ (s.rlyMove n).mem = s.mem := by
  rw [State.rlyMove_packet hsrc hdst hhead hlen hfits]
  refine ⟨?state, ?place, ?header, rfl⟩
  case state =>
    rw [State.rlySt, State.rd_wr_ne _ _ _ _ (key_rlyHdr_ne_state n)]
    exact State.rd_wr_self s (RLY_STAT_STATE n) 2 (width_rlyState_le n)
  case place => rw [State.wr_rly, State.rlySet_at_self]
  case header =>
    rw [State.rd_wr_self _ _ _ (width_rlyHdr n).le, width_rlyHdr]
    exact Nat.mod_eq_of_lt (BitVec.isLt _)

end

theorem State.rlyOpen_invalid {c : CpuId} (hbind : (s.rlyBound c n).bindOk n c = false) :
    s.rlyOpen c n = (s.rlyBound c n).rlyEnd n 4 := by
  unfold State.rlyOpen
  rw [← State.rlyBound]
  simp [hbind]

/-- A valid binding without the Archive needs no key: the session moves at once. -/
theorem State.rlyOpen_buffers {c : CpuId} (hbind : (s.rlyBound c n).bindOk n c = true) (hsrc : (s.rlyRegs n).srcK = 0)
    (hdst : (s.rlyRegs n).dstK = 0) : s.rlyOpen c n = (s.rlyBound c n).wr (RLY_STAT_STATE n) 2 := by
  have hsrcB : (s.rlyBound c n).rlySrcK n = 0 := by rw [State.rlySrcK, State.rlyB_rlyBound, hsrc]
  have hdstB : (s.rlyBound c n).rlyDstK n = 0 := by rw [State.rlyDstK, State.rlyB_rlyBound, hdst]
  have harc : (s.rlyBound c n).rlyArc n = false := by simp [State.rlyArc, hsrcB, hdstB]
  rw [← State.rlyMove_buffers hsrcB hdstB]
  unfold State.rlyOpen
  rw [← State.rlyBound]
  simp [hbind, harc, hdstB]

end

/-! ## The source queue becomes ready (R275, R277) -/

/-- RELAY_SOURCE_READY, outside HOLD, moves a session in BOUND. -/
theorem exec_relaySourceReady {s : State} {n : Fin 8} (hst : s.rlySt n = 1) (hup : s.mainUp = true) (hmode : s.sys.mode ≠ .hold) :
    exec (.relaySourceReady n) s = .next (s.rlyMove n) := by
  change execRelaySourceReady n s = _
  simp [execRelaySourceReady, hst, hup, hmode]

/-! ## The commands of the owner (R277, R281, R282) -/

section
variable {s : State} {n : Fin 8}

theorem State.rlyAbort_open (h : s.rlySt n = 1 ∨ s.rlySt n = 2) : s.rlyAbort n = s.rlyEnd n 6 := if_pos h

/-- The packet that failed still stands at the head of a queue whose consumer is the relay: DROPSRC releases it. -/
theorem State.rlyDrop_failed (hst : s.rlySt n = 5) (hsrc : s.rlySrcK n = 1)
    (hfail : (s.rly.at n).failed = some (s.qfx.at (s.rlySrcQ n)).rd) (hhead : s.hasHead (s.rlySrcQ n) = true)
    (hcons : s.rd (QFX_OWNER (s.rlySrcQ n)) = 4) : s.rlyDrop n =
      ((s.headRelease (s.rlySrcQ n)).rlySet n (fun x => { x with failed := none })).bump RLY_CNT_DROPSRC :=
  if_pos ⟨hst, hsrc, hfail, hhead, hcons⟩

theorem State.rlyDrop_nothing (hfail : (s.rly.at n).failed = none) : s.rlyDrop n = s := by
  simp [State.rlyDrop, hfail]

theorem State.rlyFree_ended (h : s.rlySt n = 4 ∨ s.rlySt n = 5) : s.rlyFree n =
    (s.wrs [(RLY_STAT_STATE n, 0), (RLY_STAT_RESULT n, 0), (RLY_STAT_SEALED n, 0), (RLY_STAT_SRCFREE n, 0),
      (RLY_STAT_DFLUSH n, 0), (RLY_STAT_OWNER n, 0)]).rlySet n (fun _ => {}) := if_pos h

/-! ## The close (R279, R281) -/

theorem exec_relaySeal (s : State) (n : Fin 8) (ecc : Bool) : exec (.relaySeal n ecc) s = .next (s.rlySeal n ecc) := rfl

section
variable (hst : s.rlySt n = 2) (hmode : s.sys.mode ≠ .hold)
include hst hmode

theorem State.rlySeal_flushed (hflush : s.rlyFlushed n = true) (ecc : Bool) : s.rlySeal n ecc = s.rlyEnd n 8 := by
  simp [State.rlySeal, hst, hmode, hflush]

theorem State.rlySeal_ecc (hflush : s.rlyFlushed n = false) : s.rlySeal n true = (s.rlyEnd n 7).eccUncorr := by
  simp [State.rlySeal, hst, hmode, hflush]

/-- The source as read decides between the seal and SRCFAIL. -/
theorem State.rlySeal_source (hflush : s.rlyFlushed n = false) {l : List Byte} {good : Bool} (hread : s.rlySource n = (l, good)) :
    s.rlySeal n false = if good then (s.rlyPut n l true).rlySealed n else (s.rlyPut n l false).rlyEnd n 2 := by
  cases good <;> simp [State.rlySeal, hst, hmode, hflush, hread]

end

end

/-- Settles O39: a command meets the session's owner first, and what it then does, as what the move and the close do, is decided
by the session's state and by what it has bound. -/
theorem relayActs : Obligations.RelayActs := by
  unfold Obligations.RelayActs
  intro s t c n
  refine ⟨?opens, ?owner, ?foreign, ?packet, ?source, ?ecc, ?flushed⟩
  case opens =>
    rintro hrun rfl hidle
    rw [exec_rlyOpen, State.rlyCmd_run hrun _ (State.rlyOthers_idle hidle), if_pos hidle]
    refine ⟨(s.strongIssue c).rlyBound c n, rfl, fun hbind => ?_, fun hbind hsrc hdst => ?_⟩
    · rw [State.rlyOpen_invalid hbind]
    · rw [State.rlyOpen_buffers hbind hsrc hdst]
  case owner =>
    rintro hrun rfl - howner
    have hown := State.rlyOthers_owner howner
    simp only [exec_rlyAbort, exec_rlyDropsrc, exec_rlyFree, State.rlyCmd_run hrun _ hown]
    refine ⟨fun hst => ?abort, fun hst hsrc hfail hhead hcons => ?drop, fun hfail => ?nothing, fun hst => ?free⟩
    case abort => rw [State.rlyAbort_open hst]
    case drop => rw [State.rlyDrop_failed hst hsrc hfail hhead hcons]
    case nothing => rw [State.rlyDrop_nothing hfail]
    case free => rw [State.rlyFree_ended hst]
  case foreign =>
    rintro hrun rfl hst howner horphan
    have hother := State.rlyOthers_foreign hst howner horphan
    simp only [exec_rlyOpen, exec_rlyAbort, exec_rlyDropsrc, exec_rlyFree, State.rlyCmd_foreign hrun _ hother, and_self]
  case packet =>
    intro hst hup hmode hsrc hdst hhead hlen hfits
    exact ⟨_, exec_relaySourceReady hst hup hmode, State.rlyMove_packet_effect hsrc hdst hhead hlen hfits⟩
  case source =>
    intro l good hst hmode hflush hread
    rw [exec_relaySeal, State.rlySeal_source hst hmode hflush hread]
  case ecc =>
    intro hst hmode hflush
    rw [exec_relaySeal, State.rlySeal_ecc hst hmode hflush]
  case flushed =>
    intro ecc hst hmode hflush
    rw [exec_relaySeal, State.rlySeal_flushed hst hmode hflush]

end Sys2Proof.Machine
namespace Sys2Proof.Machine

/-! ## The instructions of a core that runs -/

/-- An instruction of a core that runs has its effect where the core has arrived. -/
theorem exec_instr {s t u : State} {c : CpuId} {i : CoreAt} {q : Instr} {f : State → State} (hrun : s.coreRuns c = true)
    (ht : t = s.core c (fun x => x.arrive i)) (hq : exec q s = .next (s.instr c i f)) (hu : f t = u) : exec q s = .next u := by
  rw [hq, State.instr_run hrun, ← ht, hu]

/-! ## Traps (R287, R300, R303) -/

/-- An address whose low bits are cleared by division and multiplication is the address under a mask. -/
theorem ofNat_div_mul_two_pow (v : Word) (k : Nat) :
    BitVec.ofNat 32 (v.toNat / 2 ^ k * 2 ^ k) = v &&& (BitVec.allOnes 32 <<< k) := by
  rw [← BitVec.shiftLeft_ushiftRight]
  apply BitVec.eq_of_toNat_eq
  simp [BitVec.toNat_shiftLeft, Nat.shiftLeft_eq, Nat.shiftRight_eq_div_pow]

/-- An exception enters M-mode at the handler's base, whatever the handler's mode (R303). -/
theorem Core.trapped_exception (x : Core) (cause : Nat) (tval : Word) : x.trapped false cause tval =
    { x with
      mepc := x.pc &&& 0xFFFFFFFE, mcause := BitVec.ofNat 32 cause, mtval := tval, mpie := x.mie, mie := false,
      mppU := x.user, user := false, resv := none, pc := x.mtvec &&& 0xFFFFFFFC } := by
  have hpc : BitVec.ofNat 32 (x.pc.toNat / 2 * 2) = x.pc &&& 0xFFFFFFFE := ofNat_div_mul_two_pow x.pc 1
  have hbase : BitVec.ofNat 32 (x.mtvec.toNat / 4 * 4) = x.mtvec &&& 0xFFFFFFFC := ofNat_div_mul_two_pow x.mtvec 2
  simp [Core.trapped, Core.handler, hpc, hbase]

/-- Settles O42: a trap changes the core that takes it alone, and `Core.trapped_exception` says how. -/
theorem trapEntry : Obligations.TrapEntry := by
  unfold Obligations.TrapEntry
  intro s c cause tval _
  refine ⟨_, rfl, rfl, ?own, fun d hd => ?other⟩
  case own => rw [State.trap, State.core_at_self, Core.trapped_exception]
  case other => rw [State.trap, State.core_at, if_neg hd.symm]

/-! ## The region of an SRAM access (Table 1.8) -/

theorem areaOf_sram {a n : Nat} (h : inSram a n = true) : areaOf a n = some .sram := by
  have hrom : within a n 0 0x20000 = false := by
    simp only [inSram, within, Bool.and_eq_true, decide_eq_true_eq] at h
    have hbase : 0x20000 < sramBase := by decide
    simp only [within, Bool.and_eq_false_iff, decide_eq_false_iff_not]
    omega
  simp [areaOf, hrom, h]

/-! ## Loads, stores and fences (R288 to R298) -/

section
variable {s : State} {c : CpuId} {a : Word} {w : Width}

theorem State.coreLoad_misaligned (halign : a.toNat % w.bytes ≠ 0) (rd : Fin 32) (sgn : Bool) (e : Fin 3) :
    s.coreLoad c rd a.toNat w sgn e = s.trap c 4 a := by
  simp [State.coreLoad, halign]

theorem State.coreStore_misaligned (halign : a.toNat % w.bytes ≠ 0) (v : Word) : s.coreStore c a.toNat w v = s.trap c 6 a := by
  simp [State.coreStore, halign]

section
variable (halign : a.toNat % w.bytes = 0)
include halign

/-- A load that the PMP or the map refuses (R289, R290). -/
theorem State.coreLoad_refused (h : (s.cpu.at c).pmpOk (s.cpu.at c).dataUser 0 a.toNat w.bytes = false ∨
    areaOf a.toNat w.bytes = none) (rd : Fin 32) (sgn : Bool) (e : Fin 3) :
    s.coreLoad c rd a.toNat w sgn e = s.trap c 5 a := by
  rcases h with hpmp | hmap
  · simp [State.coreLoad, halign, hpmp]
  · simp [State.coreLoad, halign, hmap]

/-- A clean load of SRAM answers what the core sees of the block that its line buffer then holds (R294, R296). -/
theorem State.coreLoad_sram (hpmp : (s.cpu.at c).pmpOk (s.cpu.at c).dataUser 0 a.toNat w.bytes = true)
    (hsram : inSram a.toNat w.bytes = true) (rd : Fin 32) (sgn : Bool) : s.coreLoad c rd a.toNat w sgn 0 =
      (s.lineFill c (block32 a.toNat)).reads c rd
        (loadWord sgn ((s.lineFill c (block32 a.toNat)).coreView c a.toNat w.bytes)) := by
  simp [State.coreLoad, halign, hpmp, areaOf_sram hsram, Area.normal, State.normLoad]

/-- A store that the PMP or the map refuses, or that goes to a region that cannot be written (R289, R290). -/
theorem State.coreStore_refused (h : (s.cpu.at c).pmpOk (s.cpu.at c).dataUser 1 a.toNat w.bytes = false ∨
    areaOf a.toNat w.bytes = none ∨ areaOf a.toNat w.bytes = some .rom ∨ areaOf a.toNat w.bytes = some .window) (v : Word) :
    s.coreStore c a.toNat w v = s.trap c 7 a := by
  rcases h with hpmp | harea | harea | harea
  · simp [State.coreStore, halign, hpmp]
  all_goals simp [State.coreStore, halign, harea]

/-- A store to SRAM waits behind the core's earlier ones (R296). -/
theorem State.coreStore_sram (hpmp : (s.cpu.at c).pmpOk (s.cpu.at c).dataUser 1 a.toNat w.bytes = true)
    (hsram : inSram a.toNat w.bytes = true) (v : Word) : s.coreStore c a.toNat w v =
      (s.core c (fun x => { x with sb := x.sb ++ [(a.toNat, v.bytes.take w.bytes)] })).retire c := by
  simp [State.coreStore, halign, hpmp, areaOf_sram hsram]

end

theorem State.sbStep_oldest {e : Nat × List Byte} {rest : List (Nat × List Byte)} (hsb : (s.cpu.at c).sb = e :: rest)
    (hmode : s.sys.mode ≠ .hold) : s.sbStep c = (s.core c (fun x => { x with sb := rest })).sramStore c e.1 e.2 := by
  simp [State.sbStep, hsb, hmode]

/-- What an instruction reads is the latest word read. -/
theorem State.reads_rdata (rd : Fin 32) (v : Word) : ((s.reads c rd v).cpu.at c).rdata = v := by
  by_cases hzero : rd = 0 <;>
    simp [State.reads, State.retire, State.toReg, State.loaded, Core.setX, Tab.at_upd, hzero]

/-- Its destination register holds it, x0 aside, and the other registers are left (R286). -/
theorem State.reads_x (rd r : Fin 32) (v : Word) :
    ((s.reads c rd v).cpu.at c).x.at r = if r = rd ∧ r ≠ 0 then v else (s.cpu.at c).x.at r := by
  by_cases hzero : rd = 0
  · have hnot : ¬(r = rd ∧ r ≠ 0) := fun h => h.2 (h.1.trans hzero)
    rw [if_neg hnot]
    simp [State.reads, State.retire, State.toReg, State.loaded, Core.setX, Tab.at_upd, hzero]
  · have hdest : (rd = r) ↔ (r = rd ∧ r ≠ 0) := ⟨fun h => ⟨h.symm, h ▸ hzero⟩, fun h => h.1.symm⟩
    simp [State.reads, State.retire, State.toReg, State.loaded, Core.setX, Tab.at_upd, Tab.at_put, hzero, hdest]

/-- Where W precedes R the stores that wait are made visible, and no later load uses the line buffer (R298). -/
theorem State.fence_write_read : s.fence c true true = (s.sbDrain c).lineDrop c := rfl

/-- No load has to wait for a fence without R behind it. -/
theorem State.fence_no_read (w : Bool) : s.fence c w false = s := by
  simp [State.fence]

end

/-- A fence where W precedes R, by a core that runs. -/
theorem exec_fence_write_read {s : State} {c : CpuId} {f : FenceArgs} (hrun : s.coreRuns c = true) (hpred : f.predW = true)
    (hsucc : f.succR = true) (i : CoreAt) :
    exec (.fence c i f) s = .next ((((s.core c (fun x => x.arrive i)).sbDrain c).lineDrop c).retire c) := by
  refine exec_instr hrun rfl rfl ?_
  rw [hpred, hsucc, Bool.true_or, State.fence_write_read]

/-- Settles O40: an access is judged by its alignment, then by the PMP and the map (R288, R289), and one of SRAM meets the line
buffer or the store buffer; the rest is what the drain and the fences do with that buffer. -/
theorem coreAccessesAct : Obligations.CoreAccessesAct := by
  unfold Obligations.CoreAccessesAct
  intro s t c i a w hrun ht
  refine ⟨?load, ?reads, ?loadMisaligned, ?loadRefused, ?store, ?storeMisaligned, ?storeRefused, ?drain, ?fence, ?noFence,
    ?fenceI⟩
  case load =>
    rintro sgn l halign hpmp hsram rfl
    exact exec_instr hrun ht rfl (State.coreLoad_sram halign hpmp hsram i.rd sgn)
  case reads => exact fun v => ⟨State.reads_rdata i.rd v, fun r => State.reads_x i.rd r v⟩
  case loadMisaligned => exact fun sgn e halign => exec_instr hrun ht rfl (State.coreLoad_misaligned halign i.rd sgn e)
  case loadRefused => exact fun sgn e halign h => exec_instr hrun ht rfl (State.coreLoad_refused halign h i.rd sgn e)
  case store => exact fun v halign hpmp hsram => exec_instr hrun ht rfl (State.coreStore_sram halign hpmp hsram v)
  case storeMisaligned => exact fun v halign => exec_instr hrun ht rfl (State.coreStore_misaligned halign v)
  case storeRefused => exact fun v halign h => exec_instr hrun ht rfl (State.coreStore_refused halign h v)
  case drain => exact fun e rest hsb hmode => congrArg Host.Outcome.next (State.sbStep_oldest hsb hmode)
  case fence => exact fun f hpred hsucc => ht ▸ exec_fence_write_read hrun hpred hsucc i
  case noFence =>
    intro f hfull hsucc
    refine exec_instr hrun ht rfl ?_
    rw [hfull, hsucc, Bool.or_self, State.fence_no_read]
  case fenceI => exact exec_instr hrun ht rfl rfl

/-! ## Atomics, WFI and interrupts (R300 to R306) -/

section
variable {s : State} {c : CpuId} {a : Word}

/-- An aligned atomic access outside SRAM is refused whatever the PMP says (R300). -/
theorem State.atomFault_outside (halign : a.toNat % 4 = 0) (hout : inSram a.toNat 4 = false) (lr sc : Bool) :
    s.atomFault c lr sc a.toNat = some (if lr then 5 else 7) := by
  simp [State.atomFault, halign, hout]

theorem State.lr_fault {k : Nat} (h : s.atomFault c true false a.toNat = some k) (rd : Fin 32) (aq rl : Bool) (e : Fin 3) :
    s.lr c rd a.toNat aq rl e = s.trap c k a := by
  simp [State.lr, h]

theorem State.sc_fault {k : Nat} (h : s.atomFault c false true a.toNat = some k) (rd : Fin 32) (v : Word) (aq rl : Bool) :
    s.sc c rd a.toNat v aq rl = s.trap c k a := by
  simp [State.sc, h]

theorem State.amo_fault {k : Nat} (h : s.atomFault c false false a.toNat = some k) (rd : Fin 32) (op : AmoOp) (v : Word)
    (aq rl : Bool) (e : Fin 3) : s.amo c rd op a.toNat v aq rl e = s.trap c k a := by
  simp [State.amo, h]

theorem State.lr_reserves (h : s.atomFault c true false a.toNat = none) (rd : Fin 32) : s.lr c rd a.toNat false false 0 =
    ((s.lineFill c (block32 a.toNat)).core c (fun x => { x with resv := some (block32 a.toNat) })).reads c rd
      (loadWord false ((s.lineFill c (block32 a.toNat)).coreView c a.toNat 4)) := by
  simp [State.lr, h, State.ordered, State.normLoad]

section
variable (h : s.atomFault c false true a.toNat = none) (rd : Fin 32) (v : Word)
include h

theorem State.sc_reserved (hresv : (s.cpu.at c).resv = some (block32 a.toNat)) : s.sc c rd a.toNat v false false =
    (((s.sbDrain c).sramStore c a.toNat v.bytes).core c (fun x => { x with resv := none })).reads c rd 0 := by
  simp [State.sc, h, State.ordered, hresv]

theorem State.sc_unreserved (hresv : (s.cpu.at c).resv ≠ some (block32 a.toNat)) :
    s.sc c rd a.toNat v false false = (s.core c (fun x => { x with resv := none })).reads c rd 1 := by
  simp [State.sc, h, State.ordered, hresv]

end

theorem State.amo_modifies (h : s.atomFault c false false a.toNat = none) (rd : Fin 32) (op : AmoOp) (v : Word) :
    s.amo c rd op a.toNat v false false 0 = ((s.sbDrain c).sramStore c a.toNat (op.run ((s.sbDrain c).getW a.toNat) v).bytes).reads
      c rd ((s.sbDrain c).getW a.toNat) := by
  simp [State.amo, h, State.ordered]

/-- WFI without an enabled source that is pending leaves the core waiting (R306). -/
theorem State.wfi_waits (h : s.wakes c = false) : ((s.wfi c).cpu.at c).wfi = true := by
  simp [State.wfi, h]

theorem State.intrTrap_taken (h : s.intrTaken c = true) : s.intrTrap c = s.core c (fun x => x.trapped true 11 0) := if_pos h

end

/-- Settles O41: an atomic access is judged by `State.atomFault` first, and one that is performed does in SRAM what R300 says. -/
theorem coreAtomicsAct : Obligations.CoreAtomicsAct := by
  unfold Obligations.CoreAtomicsAct
  intro s t c i a v hrun ht
  refine ⟨?lr, ?scHeld, ?scLost, ?amo, ?outside, ?wfi, ?interrupt⟩
  case lr =>
    rintro l h rfl
    exact exec_instr hrun ht rfl (State.lr_reserves h i.rd)
  case scHeld => exact fun h hresv => exec_instr hrun ht rfl (State.sc_reserved h i.rd v hresv)
  case scLost => exact fun h hresv => exec_instr hrun ht rfl (State.sc_unreserved h i.rd v hresv)
  case amo => exact fun op h => exec_instr hrun ht rfl (State.amo_modifies h i.rd op v)
  case outside =>
    intro halign hout op aq rl e
    have hfault := fun lr sc => State.atomFault_outside (s := t) (c := c) halign hout lr sc
    exact ⟨exec_instr hrun ht rfl (State.lr_fault (hfault true false) i.rd aq rl e),
      exec_instr hrun ht rfl (State.sc_fault (hfault false true) i.rd v aq rl),
      exec_instr hrun ht rfl (State.amo_fault (hfault false false) i.rd op v aq rl e), ht ▸ rfl⟩
  case wfi => exact fun h => ⟨_, exec_instr hrun ht rfl rfl, State.wfi_waits h, ht ▸ rfl⟩
  case interrupt => exact fun h => exec_instr hrun ht rfl (State.intrTrap_taken h)

end Sys2Proof.Machine
namespace Sys2Proof.Machine

/-! ## Little-endian bytes (R12) -/

@[simp] theorem length_wordBytes (v : Word) : v.bytes.length = 4 := rfl

theorem Width.bytes_le (w : Width) : w.bytes ≤ 4 := by
  cases w <;> decide

theorem length_take_wordBytes (v : Word) (w : Width) : (v.bytes.take w.bytes).length = w.bytes := by
  rw [List.length_take, length_wordBytes, Nat.min_eq_left w.bytes_le]

theorem leNat_lt (l : List Byte) : leNat l < 2 ^ (8 * l.length) := by
  induction l with
  | nil => decide
  | cons b t ih =>
    rw [leNat, List.length_cons, Nat.mul_succ, Nat.pow_add]
    omega

/-- The bytes of an access of a width hold the word modulo that width. -/
theorem leNat_take_wordBytes (v : Word) (w : Width) : leNat (v.bytes.take w.bytes) = v.toNat % 2 ^ (8 * w.bytes) := by
  have hv : v.toNat < 4294967296 := v.isLt
  cases w <;>
    simp [Width.bytes, Word.bytes, leNat, BitVec.extractLsb'_toNat, Nat.shiftRight_eq_div_pow] <;> omega

theorem loadWord_unsigned {l : List Byte} (h : l.length ≤ 4) : (loadWord false l).toNat = leNat l := by
  have hpow : 2 ^ (8 * l.length) ≤ 2 ^ 32 := Nat.pow_le_pow_right (by decide) (by omega)
  simp only [loadWord, Bool.false_eq_true, false_and, if_false, BitVec.toNat_ofNat]
  exact Nat.mod_eq_of_lt (Nat.lt_of_lt_of_le (leNat_lt l) hpow)

/-- A load of a stored word of a width answers the word modulo that width. -/
theorem loadWord_take_wordBytes (v : Word) (w : Width) :
    (loadWord false (v.bytes.take w.bytes)).toNat = v.toNat % 2 ^ (8 * w.bytes) := by
  rw [loadWord_unsigned ((length_take_wordBytes v w).trans_le w.bytes_le), leNat_take_wordBytes]

/-! ## A core on its way within its program -/

theorem Core.foldl_setX (l : List (Fin 32 × Word)) (x : Core) :
    l.foldl (fun x e => x.setX e.1 e.2) x = { x with x := (l.foldl (fun x e => x.setX e.1 e.2) x).x } := by
  induction l generalizing x with
  | nil => rfl
  | cons e l ih =>
    rw [List.foldl_cons, ih]
    unfold Core.setX
    split <;> rfl

theorem Core.arrive_on {i : CoreAt} (hon : i.via = .on) (x : Core) : x.arrive i =
    { x with x := (x.arrive i).x, pc := i.pc, minstret := x.minstret + i.ran.zeroExtend 64, wfi := false } := by
  simp only [Core.arrive, hon]
  rw [Core.foldl_setX]

theorem State.arrived_sb {j : CoreAt} (hon : j.via = .on) (s : State) (c : CpuId) :
    ((s.core c (fun x => x.arrive j)).cpu.at c).sb = (s.cpu.at c).sb := by
  rw [State.core_at_self, Core.arrive_on hon]

/-- However a core came to an instruction, it runs as before. -/
theorem Core.arrive_run (x : Core) (i : CoreAt) : (x.arrive i).run = x.run := by
  unfold Core.arrive
  rw [Core.foldl_setX]
  cases i.via with
  | on => rfl
  | mret f =>
    dsimp only
    split <;> rfl
  | ecall f => rfl

/-- A core that ran and does not wait still runs where neither its release from reset nor the mode changed. -/
theorem State.coreRuns_arrived {s t : State} {c : CpuId} (hrun : s.coreRuns c = true) (hmode : t.sys.mode = s.sys.mode)
    (hcore : (t.cpu.at c).run = (s.cpu.at c).run) (hwfi : (t.cpu.at c).wfi = false) : t.coreRuns c = true := by
  simp only [State.coreRuns, Bool.and_eq_true] at hrun
  simp [State.coreRuns, hmode, hcore, hwfi, hrun.1]

/-! ## The PMP reads its own entries alone (R290) -/

section
variable {x y : Core} (hcfg : y.pmpcfg = x.pmpcfg) (haddr : y.pmpaddr = x.pmpaddr)
include hcfg haddr

theorem Core.pmpRange_congr (i : Fin 16) : y.pmpRange i = x.pmpRange i := by
  rw [Core.pmpRange, Core.pmpRange, hcfg, haddr]

theorem Core.pmpFirst_congr (a n : Nat) (l : List (Fin 16)) : y.pmpFirst a n l = x.pmpFirst a n l := by
  induction l with
  | nil => rfl
  | cons i t ih => simp only [Core.pmpFirst, Core.pmpRange_congr hcfg haddr, ih]

theorem Core.pmpOk_congr (user : Bool) (bit a n : Nat) : y.pmpOk user bit a n = x.pmpOk user bit a n := by
  rw [Core.pmpOk, Core.pmpOk, Core.pmpFirst_congr hcfg haddr, hcfg]

end

/-! ## The store buffer in a core's own view (R296) -/

/-- The newest store of a byte is the one that the core sees. -/
theorem sbByte_newest (l : List (Nat × List Byte)) {a k : Nat} {b : List Byte} (h : k < b.length) (d : Byte) :
    sbByte (a + k) (l ++ [(a, b)]) d = b[k] := by
  simp [sbByte, h]

theorem State.coreView_own {s : State} {c : CpuId} {l : List (Nat × List Byte)} {a : Nat} {b : List Byte}
    (hsb : (s.cpu.at c).sb = l ++ [(a, b)]) : s.coreView c a b.length = b := by
  apply List.ext_getElem
  · simp [State.coreView]
  · intro k _ hk
    simp only [State.coreView, List.getElem_map, List.getElem_range, hsb]
    exact sbByte_newest l hk _

/-! ## The line buffer (R294, R301) -/

theorem State.lineFill_mem (s : State) (c : CpuId) (blk : Nat) : (s.lineFill c blk).mem = s.mem := by
  unfold State.lineFill
  dsimp only
  split <;> rfl

theorem State.lineFill_sb (s : State) (c : CpuId) (blk : Nat) : ((s.lineFill c blk).cpu.at c).sb = (s.cpu.at c).sb := by
  unfold State.lineFill
  dsimp only
  split <;> simp [State.choose]

/-- Where speculation can have left nothing but what the memory holds, the line buffer holds that. -/
theorem State.lineFill_fresh {s : State} {c : CpuId} {blk : Nat} (h : (s.cpu.at c).held blk (s.blockBytes blk) = []) :
    s.lineFill c blk = s.core c (fun x => { x with line := some (blk, s.blockBytes blk), past := [] }) := by
  simp [State.lineFill, h]

/-- A byte of SRAM as a load of a normal region reads it. -/
theorem State.normB_sram {s : State} {a : Nat} (h : inSram a 1 = true) : s.normB a = s.getB a := by
  simp only [inSram, within, Bool.and_eq_true, decide_eq_true_eq] at h
  have hbase : sramBase = 0x10000000 := rfl
  have harc : arcBase = 0x20000000 := rfl
  have hshelf : shelfBase = 0x60000000 := rfl
  rw [State.normB, if_neg (by omega), State.busB, if_neg (by omega), if_neg (by omega)]

/-- An aligned access lies within one block of 32 bytes. -/
theorem block32_of_aligned {a : Nat} {w : Width} (h : a % w.bytes = 0) : a + w.bytes ≤ block32 a + 32 := by
  unfold block32
  cases w <;> simp only [Width.bytes] at h ⊢ <;> omega

/-- With nothing of its own waiting and a line buffer that holds the memory's block, a core sees the memory. -/
theorem State.coreView_fresh {s : State} {c : CpuId} {a : Nat} {w : Width} (hsb : (s.cpu.at c).sb = [])
    (halign : a % w.bytes = 0) (hsram : inSram a w.bytes = true)
    (h : (s.cpu.at c).held (block32 a) (s.blockBytes (block32 a)) = []) :
    (s.lineFill c (block32 a)).coreView c a w.bytes = s.getBytes a w.bytes := by
  rw [State.lineFill_fresh h]
  apply List.map_congr_left
  intro k hk
  have hblock := block32_of_aligned halign
  have hlo : block32 a ≤ a := Nat.div_mul_le_self a 32
  rw [List.mem_range] at hk
  have hin : inSram (a + k) 1 = true := by
    simp only [inSram, within, Bool.and_eq_true, decide_eq_true_eq] at hsram ⊢
    omega
  have hoff : block32 a + (a + k - block32 a) = a + k := by omega
  have hlt : a + k - block32 a < 32 := by omega
  simp [hsb, sbByte, State.blockBytes, hlt, hoff, State.normB_sram hin]

/-! ## Stores that become visible (R294, R296, R298) -/

theorem State.getBytes_congr {s t : State} (h : t.mem = s.mem) (a n : Nat) : t.getBytes a n = s.getBytes a n := by
  unfold State.getBytes State.getB
  rw [h]

theorem State.sramStore_mem (s : State) (c : CpuId) (a : Nat) (b : List Byte) :
    (s.sramStore c a b).mem = (s.putBytes a b).mem := rfl

theorem State.sbApply_wf {s : State} (h : Memory.wf s.mem = true) (c : CpuId) (l : List (Nat × List Byte)) :
    Memory.wf (s.sbApply c l).mem = true := by
  induction l generalizing s with
  | nil => exact h
  | cons e l ih => exact ih (s.putBytes_wf e.1 e.2 h)

theorem State.sbApply_newest (s : State) (c : CpuId) (l : List (Nat × List Byte)) (e : Nat × List Byte) :
    s.sbApply c (l ++ [e]) = (s.sbApply c l).sramStore c e.1 e.2 := by
  simp [State.sbApply]

/-- A visible store leaves the other core nothing older of its block to read: not in its line buffer, and not in the reach of its
speculative loads. -/
theorem State.sramStore_held (s : State) {c d : CpuId} (hd : d ≠ c) (a : Nat) (b fresh : List Byte) :
    ((s.sramStore c a b).cpu.at d).held (block32 a) fresh = [] := by
  have hval : d.val ≠ c.val := fun h => hd (Fin.ext h)
  simp only [State.sramStore, Tab.at_ofFn, finOf_val, if_neg hval, Core.held, List.map_eq_nil_iff, List.filter_eq_nil_iff,
    List.mem_append, Option.mem_toList, List.mem_filter, decide_eq_true_eq]
  intro e he
  have hother : e.1 ≠ block32 a := by
    rcases he with hline | ⟨-, hpast⟩
    · split at hline
      · split at hline
        · cases hline
        next hne => exact Option.some.inj hline ▸ hne
      · cases hline
    · exact hpast
  simp [hother]

section
variable {s : State} {c : CpuId} {l : List (Nat × List Byte)} {a : Nat} {b : List Byte}
  (hsb : (s.cpu.at c).sb = l ++ [(a, b)])
include hsb

/-- The newest store stands in memory once the buffer has drained. -/
theorem State.sbDrain_newest (hwf : Memory.wf s.mem = true) : (s.sbDrain c).getBytes a b.length = b := by
  have hmem : (s.sbDrain c).mem = ((s.sbApply c l).putBytes a b).mem := by
    rw [← State.sramStore_mem _ c, ← State.sbApply_newest s c l (a, b), ← hsb]
    rfl
  rw [State.getBytes_congr hmem, State.getBytes_putBytes_self _ _ _ (State.sbApply_wf hwf c l)]

theorem State.sbDrain_held {d : CpuId} (hd : d ≠ c) (fresh : List Byte) :
    ((s.sbDrain c).cpu.at d).held (block32 a) fresh = [] := by
  have hcore : (s.sbDrain c).cpu.at d = ((s.sbApply c l).sramStore c a b).cpu.at d := by
    rw [← State.sbApply_newest s c l (a, b), ← hsb]
    exact (Tab.at_upd _ _ _ _).trans (if_neg hd.symm)
  rw [hcore, State.sramStore_held _ hd]

end

@[simp] theorem State.sbDrain_sb (s : State) (c : CpuId) : ((s.sbDrain c).cpu.at c).sb = [] := by
  simp [State.sbDrain, Tab.at_upd]

@[simp] theorem State.reads_mem (s : State) (c : CpuId) (rd : Fin 32) (v : Word) : (s.reads c rd v).mem = s.mem := rfl

/-! ## Loads and the fence behind a store (R296, R298) -/

/-- The privilege and the PMP of an access are those the core had before it came on its way within its program. -/
theorem Core.arrive_on_pmpOk {j : CoreAt} (hon : j.via = .on) (x : Core) (bit a n : Nat) :
    (x.arrive j).pmpOk (x.arrive j).dataUser bit a n = x.pmpOk x.dataUser bit a n := by
  rw [Core.arrive_on hon]
  exact Core.pmpOk_congr rfl rfl _ bit a n

section
variable {a v : Word} {w : Width} (halign : a.toNat % w.bytes = 0) (hsram : inSram a.toNat w.bytes = true) {j : CoreAt}
  (hon : j.via = .on)
include halign hsram hon

/-- What a clean load of SRAM answers where the core sees the bytes of a word. -/
theorem exec_coreLoad_sees {s : State} {c : CpuId} (hrun : s.coreRuns c = true)
    (hpmp : (s.cpu.at c).pmpOk (s.cpu.at c).dataUser 0 a.toNat w.bytes = true)
    (hview : ((s.core c (fun x => x.arrive j)).lineFill c (block32 a.toNat)).coreView c a.toNat w.bytes = v.bytes.take w.bytes) :
    ∃ u, exec (.coreLoad c j a w false 0) s = .next u ∧ (u.cpu.at c).rdata.toNat = v.toNat % 2 ^ (8 * w.bytes) ∧
      u.mem = s.mem := by
  rw [← Core.arrive_on_pmpOk hon, ← State.core_at_self s c (fun x => x.arrive j)] at hpmp
  refine ⟨_, exec_instr hrun rfl rfl (State.coreLoad_sram halign hpmp hsram j.rd false), ?answer, ?memory⟩
  case answer => rw [State.reads_rdata, hview, loadWord_take_wordBytes]
  case memory => rw [State.reads_mem, State.lineFill_mem, State.core_mem]

/-- A core sees its own newest store. -/
theorem exec_coreLoad_own {s : State} {c : CpuId} {l : List (Nat × List Byte)} (hrun : s.coreRuns c = true)
    (hpmp : (s.cpu.at c).pmpOk (s.cpu.at c).dataUser 0 a.toNat w.bytes = true)
    (hsb : (s.cpu.at c).sb = l ++ [(a.toNat, v.bytes.take w.bytes)]) :
    ∃ u, exec (.coreLoad c j a w false 0) s = .next u ∧ (u.cpu.at c).rdata.toNat = v.toNat % 2 ^ (8 * w.bytes) ∧
      u.mem = s.mem := by
  apply exec_coreLoad_sees halign hsram hon hrun hpmp
  have hnewest : (((s.core c (fun x => x.arrive j)).lineFill c (block32 a.toNat)).cpu.at c).sb =
      l ++ [(a.toNat, v.bytes.take w.bytes)] := by
    rw [State.lineFill_sb, State.arrived_sb hon, hsb]
  have hview := State.coreView_own hnewest
  rwa [length_take_wordBytes] at hview

/-- A core with nothing older in reach sees the memory. -/
theorem exec_coreLoad_memory {s : State} {d : CpuId} (hrun : s.coreRuns d = true)
    (hpmp : (s.cpu.at d).pmpOk (s.cpu.at d).dataUser 0 a.toNat w.bytes = true) (hsb : (s.cpu.at d).sb = [])
    (hheld : ∀ fresh, (s.cpu.at d).held (block32 a.toNat) fresh = []) (hmem : s.getBytes a.toNat w.bytes = v.bytes.take w.bytes) :
    ∃ u, exec (.coreLoad d j a w false 0) s = .next u ∧ (u.cpu.at d).rdata.toNat = v.toNat % 2 ^ (8 * w.bytes) ∧
      u.mem = s.mem := by
  apply exec_coreLoad_sees halign hsram hon hrun hpmp
  rw [State.coreView_fresh _ halign hsram, State.getBytes_congr (State.core_mem s d _), hmem]
  · rw [State.core_at_self, Core.arrive_on hon]
    exact hheld _
  · rw [State.arrived_sb hon, hsb]

end

section
variable {s : State} {c : CpuId} {l : List (Nat × List Byte)} {a : Nat} {b : List Byte} {j : CoreAt}
  (hsb : (s.cpu.at c).sb = l ++ [(a, b)]) (hon : j.via = .on)

/-- The state behind a fence of a core where W precedes R. -/
def State.fenced (s : State) (c : CpuId) (j : CoreAt) : State :=
  (((s.core c (fun x => x.arrive j)).sbDrain c).lineDrop c).retire c

theorem State.fenced_sb (s : State) (c : CpuId) (j : CoreAt) : ((s.fenced c j).cpu.at c).sb = [] := by
  simp [State.fenced, State.retire, State.lineDrop, Tab.at_upd]

include hsb hon

theorem State.fenced_newest (hwf : Memory.wf s.mem = true) : (s.fenced c j).getBytes a b.length = b := by
  have hmem : (s.fenced c j).mem = ((s.core c (fun x => x.arrive j)).sbDrain c).mem := rfl
  rw [State.getBytes_congr hmem, State.sbDrain_newest ((State.arrived_sb hon s c).trans hsb) hwf]

theorem State.fenced_held {d : CpuId} (hd : d ≠ c) (fresh : List Byte) :
    ((s.fenced c j).cpu.at d).held (block32 a) fresh = [] := by
  rw [← State.sbDrain_held ((State.arrived_sb hon s c).trans hsb) hd fresh]
  simp [State.fenced, State.retire, State.lineDrop, State.core_at, Tab.at_upd, hd.symm]

end

/-- The state behind a core's store of bytes to SRAM: they wait behind its earlier stores. -/
def State.stored (s : State) (c : CpuId) (i : CoreAt) (a : Nat) (b : List Byte) : State :=
  ((s.core c (fun x => x.arrive i)).core c (fun x => { x with sb := x.sb ++ [(a, b)] })).retire c

section
variable (s : State) (c : CpuId) (i : CoreAt) (a : Nat) (b : List Byte)

theorem State.stored_core : (s.stored c i a b).cpu.at c = { (s.cpu.at c).arrive i with
    sb := ((s.cpu.at c).arrive i).sb ++ [(a, b)], minstret := ((s.cpu.at c).arrive i).minstret + 1 } := by
  simp [State.stored, State.retire]

theorem State.stored_sb : ((s.stored c i a b).cpu.at c).sb = ((s.cpu.at c).arrive i).sb ++ [(a, b)] := by
  rw [State.stored_core]

theorem State.stored_pmpOk (bit k n : Nat) :
    ((s.stored c i a b).cpu.at c).pmpOk ((s.stored c i a b).cpu.at c).dataUser bit k n =
      ((s.cpu.at c).arrive i).pmpOk ((s.cpu.at c).arrive i).dataUser bit k n := by
  rw [State.stored_core]
  exact Core.pmpOk_congr rfl rfl _ bit k n

theorem State.stored_coreRuns {s : State} {c : CpuId} (hrun : s.coreRuns c = true) : (s.stored c i a b).coreRuns c = true := by
  have hmode : (s.stored c i a b).sys.mode = s.sys.mode := rfl
  apply State.coreRuns_arrived hrun hmode
  · rw [State.stored_core, Core.arrive_run]
  · rw [State.stored_core]
    rfl

end

/-- Settles O60: the store stays the newest of its core's buffer, where its own loads see it; the fence's drain makes it visible
last, which leaves the other core nothing older of its block. -/
theorem storesSeen : Obligations.StoresSeen := by
  unfold Obligations.StoresSeen
  intro s c d i j a v w hwf hon hrun halign hsram hpmpStore hpmpLoad
  rw [← State.core_at_self s c (fun x => x.arrive i)] at hpmpStore
  have hstore : exec (.coreStore c i a w v) s = .next (s.stored c i a.toNat (v.bytes.take w.bytes)) :=
    exec_instr hrun rfl rfl (State.coreStore_sram halign hpmpStore hsram v)
  have hrunT := State.stored_coreRuns i a.toNat (v.bytes.take w.bytes) hrun
  have hsb := State.stored_sb s c i a.toNat (v.bytes.take w.bytes)
  rw [← State.stored_pmpOk s c i a.toNat (v.bytes.take w.bytes)] at hpmpLoad
  refine ⟨_, hstore, rfl, exec_coreLoad_own halign hsram hon hrunT hpmpLoad hsb, fun f hpred hsucc => ?fenced⟩
  have hbytes := State.fenced_newest hsb hon hwf
  rw [length_take_wordBytes] at hbytes
  refine ⟨_, exec_fence_write_read hrunT hpred hsucc j, State.fenced_sb _ c j, hbytes, fun hd hrunD hsbD hpmpD => ?other⟩
  rw [Core.arrive_on_pmpOk hon] at hpmpD
  obtain ⟨g, hload, hanswer, -⟩ :=
    exec_coreLoad_memory halign hsram hon hrunD hpmpD hsbD (State.fenced_held hsb hon hd) hbytes
  exact ⟨g, hload, hanswer⟩

end Sys2Proof.Machine
namespace Sys2Proof.Machine

/-! ## The step and its commands -/

/-- What a step keeps, it keeps of the state with the queue's rest: there the command in front runs, or the block idles. -/
theorem Keeps.of_step {s t : State} (h : step s = .next t) : Keeps { s with pending := s.pending.tail } t := by
  unfold step at h
  split at h
  case h_1 hqueue =>
    cases h
    rw [hqueue, List.tail_nil, ← hqueue]
    exact Keeps.refl s
  case h_2 hqueue =>
    rw [hqueue]
    exact Keeps.of_exec h

/-- Settles O54: a command is one of the operations that keep the queue. -/
theorem commandsKeepTheQueue : Obligations.CommandsKeepTheQueue :=
  fun _ _ _ h => (Keeps.of_exec h).pending

/-- Settles O55: the memory that a step finds is that of the state with the queue's rest. -/
theorem memoryStaysCanonical : Obligations.MemoryStaysCanonical :=
  fun _ _ hwf hstep => (Keeps.of_step hstep).mem hwf

/-- Settles O1. -/
theorem stepRunsFront : Obligations.StepRunsFront :=
  ⟨fun _ _ _ => rfl, fun _ => rfl⟩

/-- Settles O53: the meaning of each row answers a next state. -/
theorem everyCommandCompletes : Obligations.EveryCommandCompletes := by
  intro c s
  cases c <;> exact ⟨_, rfl⟩

/-! ## Commands of a core -/

/-- What a core's command comes to, on the state as the core finds it (R297). -/
theorem State.next_byCore {s t u : State} {c : CpuId} (hrun : s.coreRuns c = true) (ht : t = s.strongIssue c) {f : State → State}
    (h : f t = u) : (.next (s.byCore c f) : Host.Outcome State Fault Refusal) = .next u := by
  rw [State.byCore_run hrun, ← ht, h]

end Sys2Proof.Machine
namespace Sys2Proof.Machine

/-! ## The random source (R411 to R414) -/

theorem State.rngFail_eq (s : State) (apt : Bool) {fails : List Nat}
    (hfails : fails = s.eng.fails.filter (fun f => decide (s.tick.frame < f + 1000)) ++ [s.tick.frame]) {t : State}
    (ht : t = (if apt then s.bump RNG_CNT_APT else s.bump RNG_CNT_RCT).setb RNG_STAT_FAIL) :
    s.rngFail apt = if 3 ≤ fails.length then ({ t.setb RNG_STAT_DEAD with eng := { t.eng with fails := fails } }).raise 0x23
      else ({ t with eng := { t.eng with fails := fails } }).raise 0x23 := by
  unfold State.rngFail
  rw [← hfails, ← ht]
  by_cases hthird : 3 ≤ fails.length
  · simp only [if_pos hthird, State.setb_eng]
  · simp only [if_neg hthird]

/-- A reseed is due once its time has passed or its requests are counted. -/
theorem State.reseedDue_iff (s : State) : s.reseedDue = true ↔
    s.eng.seedAt + 1000000 * Nat.max 10 (s.rd RNG_CFG_RESEED_MS) ≤ s.cel.elapsed ∨
      1024 * orElse0 (s.rd RNG_CFG_RESEED_REQ) 64 ≤ s.eng.reqs := by
  have hperiod : 10 ≤ Nat.max 10 (s.rd RNG_CFG_RESEED_MS) := Nat.le_max_left _ _
  simp only [State.reseedDue, orElse0, Bool.or_eq_true, decide_eq_true_eq]
  omega

section
variable {s : State} (c : CpuId)

theorem State.rngOut_blocked (h : s.rngBlocked = true) : s.rngOut c = s.loaded c 0 := if_pos h

theorem State.rngOut_empty (hopen : s.rngBlocked = false) (h : s.eng.rngOut = 0) :
    s.rngOut c = (s.loaded c 0).setb RNG_STAT_EMPTY := by
  rw [State.rngOut, if_neg (ne_true_of_eq_false hopen), if_pos h]

theorem State.rngOut_word (hopen : s.rngBlocked = false) (h : s.eng.rngOut ≠ 0) : s.rngOut c = { s with
    draws := s.draws + 1
    eng := { s.eng with reqs := s.eng.reqs + 1, rngOut := s.eng.rngOut - 1 } }.loaded c (Config.drbg s.draws) := by
  rw [State.rngOut, if_neg (ne_true_of_eq_false hopen), if_neg h]
  rfl

end

/-- Settles O50: a failure, a restart and a reseed by their guards; a load by whether the source is blocked and the buffer empty. -/
theorem randomSourceActs : Obligations.RandomSourceActs := by
  unfold Obligations.RandomSourceActs
  intro s
  refine ⟨?failure, ?restart, ?reseed, ?load⟩
  case failure =>
    intro apt fails hup hfails
    exact ⟨_, rfl, congrArg _ ((if_pos hup).trans (s.rngFail_eq apt hfails rfl))⟩
  case restart =>
    intro hup halive hblocked
    simp [exec, execRngRestartComplete, hup, halive, hblocked]
  case reseed =>
    intro hup hopen hdue
    rw [← State.reseedDue_iff] at hdue
    refine ⟨s.rngSeed, by simp [exec, execDrbgReseed, hup, hopen, hdue], rfl, State.rd_wr_self _ _ 0 (by decide)⟩
  case load =>
    intro c t hrun ht
    exact ⟨fun hblocked => State.next_byCore hrun ht (State.rngOut_blocked c hblocked),
      fun hopen hempty => State.next_byCore hrun ht (State.rngOut_empty c hopen hempty),
      fun hopen hfull => State.next_byCore hrun ht (State.rngOut_word c hopen hfull)⟩

end Sys2Proof.Machine
namespace Sys2Proof.Machine

/-! ## Stimulus rounds (R480, R481) -/

section
variable {s : State} {d : Fin 14} (hruns : s.stimRuns = true) (hstim : s.watch.stim = some d)
include hruns hstim

/-- A detector that responds: the next one is to test, or the round has ended. -/
theorem State.stimStep_responds (hd : d.val ≠ 13) :
    s.stimStep true = { s with watch := { s.watch with stim := some (finOf 14 (d.val + 1)) } } := by
  simp [State.stimStep, hstim, hruns, hd]

theorem State.stimStep_last (hd : d.val = 13) :
    s.stimStep true = { s with watch := { s.watch with stim := none } }.wr WATCH_STAT_STIMRUN 0 := by
  simp [State.stimStep, hstim, hruns, hd]

/-- One that does not respond is marked before its onset. -/
theorem State.stimStep_fails (hd : d.val ≠ 13) {u v : State}
    (hu : u = { s with watch := { s.watch with stim := some (finOf 14 (d.val + 1)) } })
    (hv : v = (u.wr WATCH_STIM (s.rd WATCH_STIM ||| 2 ^ d.val)).setb WATCH_ERR_STIM) :
    s.stimStep false = { v with care := { v.care with period := { v.care.period with
      status := v.care.period.status ||| 16 } } }.onsets [{ src := 0x1A, det := 4, rel := stimRel d }] := by
  subst hu hv
  simp [State.stimStep, hstim, hruns, hd]
  rfl

end

/-! ## Cellar samples (R495) -/

/-- The state behind T_CS of the Cellar's time, before any source is read. -/
def State.celTime (s : State) : State := (s.advance (tcsNs (s.rd CEL_CFG_T_CS)) false).celBursts

/-- One source of a sample, behind the onsets of those read before it. -/
def State.celSample (s : State) (l : List OnsetArg) (ports : List CelPins) (p : List Onset × State) (n : SrcId) :
    List Onset × State :=
  let r := if srcPort n.val then s.celPortReading ports n else readingOf l n
  (p.1 ++ (p.2.celSee n r).1, (p.2.celSee n r).2)

theorem exec_cellarSample {s : State} (hcellar : s.cellarWatch = true) (hvalid : s.cel.valid = true) (l : List OnsetArg)
    (ports : List CelPins) {p : List Onset × State}
    (hp : p = ((finList 0x58).filter (fun n => cellarLive n.val || s.celPort n.val)).foldl (s.celSample l ports)
      ([], s.celTime)) :
    exec (.cellarSample ⟨l, ports⟩) s = .next (p.2.onsets p.1) := by
  subst hp
  have hwatches : (!s.cellarWatch || !s.cel.valid) = false := by simp [hcellar, hvalid]
  exact congrArg _ (if_neg (ne_true_of_eq_false hwatches))

theorem CelSrc.step_clean {k : CelSrc} (hclean : k.trip = false) : k.step false = ({ k with cnt := 0 }, none) := by
  simp [CelSrc.step, hclean]

theorem CelSrc.disStep_alike {k : CelSrc} {r : DetReading} (halike : r.a = r.b) :
    ∃ k' : CelSrc, k'.trip = k.trip ∧ k'.cnt = k.cnt ∧ k.disStep r = (k', false) := by
  unfold CelSrc.disStep
  simp only [if_pos halike]
  split <;> refine ⟨_, ?_, ?_, rfl⟩ <;> rfl

/-- A source that reads clean, as it stood, has no onset: its count starts anew. -/
theorem State.celSee_clean {s : State} {n : SrcId} (hclean : (s.cel.src.at n).trip = false) :
    ∃ k : CelSrc, k.trip = false ∧ k.cnt = 0 ∧
      s.celSee n ⟨false, false⟩ = ([], { s with cel := { s.cel with src := s.cel.src.put n k } }) := by
  have hread : celReading n.val ⟨false, false⟩ = ⟨false, false⟩ := by simp [celReading]
  have hdis (k : CelSrc) : ∃ k' : CelSrc, k'.trip = k.trip ∧ k'.cnt = k.cnt ∧
      (if celBoth n.val = true then k.disStep ⟨false, false⟩ else (k, false)) = (k', false) := by
    split
    · exact CelSrc.disStep_alike rfl
    · exact ⟨k, rfl, rfl, rfl⟩
  obtain ⟨k, htrip, hcnt, hk⟩ := hdis { s.cel.src.at n with cnt := 0 }
  refine ⟨k, htrip.trans hclean, hcnt, ?_⟩
  simp only [State.celSee, hread, Bool.or_self, CelSrc.step_clean hclean, hk]
  simp

theorem State.celPortReading_nil (s : State) (n : SrcId) : s.celPortReading [] n = ⟨false, false⟩ := by
  unfold State.celPortReading
  split
  · contradiction
  · rfl

theorem State.celSample_nil (s : State) (p : List Onset × State) (n : SrcId) :
    s.celSample [] [] p n = (p.1 ++ (p.2.celSee n ⟨false, false⟩).1, (p.2.celSee n ⟨false, false⟩).2) := by
  simp [State.celSample, State.celPortReading_nil, readingOf]

/-- Sources that all read clean, none tripped: each one read starts its count anew, and nothing else changes. -/
theorem State.celSample_clean (s₀ : State) (l : List SrcId) {s : State} (hclean : ∀ n, (s.cel.src.at n).trip = false) :
    ∃ src : Tab 0x58 CelSrc, (∀ n, (src.at n).trip = false) ∧ (∀ n, n ∈ l ∨ (s.cel.src.at n).cnt = 0 → (src.at n).cnt = 0) ∧
      l.foldl (s₀.celSample [] []) ([], s) = ([], { s with cel := { s.cel with src := src } }) := by
  induction l generalizing s with
  | nil => exact ⟨s.cel.src, hclean, fun n h => h.resolve_left List.not_mem_nil, rfl⟩
  | cons m l ih =>
    obtain ⟨k, htrip, hcnt, hsee⟩ := State.celSee_clean (hclean m)
    have hput : ∀ n, ((s.cel.src.put m k).at n).trip = false := fun n => by
      rw [Tab.at_put]
      split
      · exact htrip
      · exact hclean n
    obtain ⟨src, hsrc, hzero, hfold⟩ := ih (s := { s with cel := { s.cel with src := s.cel.src.put m k } }) hput
    refine ⟨src, hsrc, fun n h => hzero n ?_, ?_⟩
    · by_cases hn : n = m
      · exact .inr (by rw [hn, Tab.at_put_self, hcnt])
      · rw [Tab.at_put_ne _ _ (Ne.symm hn)]
        exact h.imp_left fun hmem => (List.mem_cons.mp hmem).resolve_left hn
    · rw [List.foldl_cons, State.celSample_nil, hsee]
      exact hfold

/-- The RTC's own error is drawn while no tick paces the count; nothing else of the state is. -/
theorem State.rtcGain_off (s : State) : s.rtcGain false = (s.measure.1 + s.cel.corr, s.measure.2) := by
  simp [State.rtcGain]

theorem State.advance_off (s : State) (ns : Nat) : ∃ rtc rem corr, s.advance ns false = { s with
    draws := s.draws + 1
    cel := { s.cel with rtc := rtc, rtcRem := rem, corr := corr, elapsed := s.cel.elapsed + ns } } := by
  simp only [State.advance, State.rtcGain_off]
  exact ⟨_, _, _, rfl⟩

theorem State.celTime_eq (s : State) : ∃ rtc rem corr ports, s.celTime = { s with
    draws := s.draws + 1
    cel := { s.cel with
      rtc := rtc, rtcRem := rem, corr := corr, ports := ports, elapsed := s.cel.elapsed + tcsNs (s.rd CEL_CFG_T_CS) } } := by
  obtain ⟨rtc, rem, corr, hadvance⟩ := s.advance_off (tcsNs (s.rd CEL_CFG_T_CS))
  simp only [State.celTime, State.celBursts, hadvance]
  split <;> exact ⟨_, _, _, _, rfl⟩

theorem mem_finList {n : Nat} [NeZero n] (i : Fin n) : i ∈ finList n := by
  simp [finList]

/-- Settles O24: a round by the detector it tests; a sample by the sources it reads, which, clean and untripped, only start their
counts anew. -/
theorem watchSamplingActs : Obligations.WatchSamplingActs := by
  unfold Obligations.WatchSamplingActs
  refine ⟨fun s hruns => ⟨?round, ?responds, ?last, ?fails⟩, fun s l ports hcellar hvalid => ⟨?sample, ?clean⟩⟩
  case round => exact congrArg _ (if_pos hruns)
  case responds => exact fun d hstim hd => congrArg _ (State.stimStep_responds hruns hstim hd)
  case last => exact fun hstim => congrArg _ (State.stimStep_last hruns hstim rfl)
  case fails => exact fun d u v hstim hd hu hv => congrArg _ (State.stimStep_fails hruns hstim hd hu hv)
  case sample => exact ⟨_, _, exec_cellarSample hcellar hvalid l ports rfl, rfl⟩
  case clean =>
    intro hclean
    obtain ⟨rtc, rem, corr, portsT, htime⟩ := s.celTime_eq
    have hcleanT : ∀ n, (s.celTime.cel.src.at n).trip = false := by
      rw [htime]
      exact hclean
    obtain ⟨src, hsrc, hzero, hfold⟩ := State.celSample_clean s
      ((finList 0x58).filter (fun n => cellarLive n.val || s.celPort n.val)) hcleanT
    refine ⟨_, exec_cellarSample hcellar hvalid [] [] hfold.symm, ?_⟩
    rw [State.onsets_nil, htime]
    refine ⟨rfl, rfl, rfl, rfl, fun n hlive => ⟨hsrc n, hzero n (.inl ?_)⟩⟩
    rw [List.mem_filter, hlive]
    exact ⟨mem_finList n, rfl⟩

end Sys2Proof.Machine
namespace Sys2Proof.Machine

/-! ## Commands to the Larder (R417 to R432) -/

section
variable {s : State} {k : CtrId} {c : CpuId}

theorem State.counterIncrement_eq (s : State) (c : CpuId) (k : CtrId) :
    s.counterIncrement c k = (s.ctrCore k (s.rd (LDR_INCAMT c))).2.wr (LDR_INCSTAT c) (s.ctrCore k (s.rd (LDR_INCAMT c))).1 := rfl

/-- A core's increment is refused for the counter, for a port that names it, for hold-off, in this order (R422, R427, R428). -/
theorem State.ctrCore_own (hown : ctrOfCores k = false) (a : Nat) : s.ctrCore k a = (2, s) := by
  simp [State.ctrCore, hown]

theorem State.ctrCore_bound (hown : ctrOfCores k = true) (hbound : s.ctrBound k = true) (a : Nat) : s.ctrCore k a = (3, s) := by
  simp [State.ctrCore, hown, hbound]

theorem State.ctrCore_held (hown : ctrOfCores k = true) (hbound : s.ctrBound k = false) (hhold : s.holdoff = true) (a : Nat) :
    s.ctrCore k a = (6, s) := by
  simp [State.ctrCore, hown, hbound, hhold]

theorem State.ctrCore_open (hown : ctrOfCores k = true) (hbound : s.ctrBound k = false) (hhold : s.holdoff = false) (a : Nat) :
    s.ctrCore k a = s.ctrInc k a := by
  simp [State.ctrCore, hown, hbound, hhold]

/-- An increment writes the next slot with value and sequence (R425). -/
theorem State.ctrInc_writes {a : Nat} (hring : (s.nv.ring.at k).slots ≠ 0) (hvalid : (s.nv.ring.at k).noValid = false)
    (ha : a ≠ 0) (hfits : (s.ctrSlot k).value + a < 2 ^ 64) :
    s.ctrInc k a = (0, s.ctrWrite k ((s.ctrSlot k).value + a) ((s.ctrSlot k).seq + 1)) := by
  simp only [State.ctrInc, if_neg hring, hvalid, Bool.false_eq_true, if_false, if_neg ha, if_neg (Nat.not_le.mpr hfits)]

theorem State.paramSave_held {g : Fin 8} (hg : g ≠ 7) (hhold : s.holdoff = true) :
    s.paramSave c g = s.wrs [(LDR_PSTAT_STATE c, 3), (LDR_PSTAT_CODE c, 6)] := by
  simp [State.paramSave, hg, hhold]

theorem State.paramSave_writes {g : Fin 8} (hg : g ≠ 7) (hhold : s.holdoff = false) :
    s.paramSave c g = (s.paramWrite g (s.snapshot g)).wrs [(LDR_PSTAT_STATE c, 2), (LDR_PSTAT_CODE c, 0)] := by
  simp [State.paramSave, hg, hhold]

section
variable {off : Nat} {w : Width} (halign : off % w.bytes = 0) (v : Word)
include halign

theorem State.larderStore_outside (happ : ldrApp off = false) : s.larderStore off w v = (s.setb LDR_ERR_MISUSE).misuse := by
  simp [State.larderStore, halign, happ]

theorem State.larderStore_held (happ : ldrApp off = true) (hhold : s.holdoff = true) :
    s.larderStore off w v = s.setb LDR_ERR_HELD := by
  simp [State.larderStore, halign, happ, hhold]

theorem State.larderStore_writes (happ : ldrApp off = true) (hhold : s.holdoff = false) :
    s.larderStore off w v = s.putBytes (ldrBase + off) (v.bytes.take w.bytes) := by
  simp [State.larderStore, halign, happ, hhold]

end

theorem State.holdoffEnd_ends (hhold : s.holdoff = true) (hclear : (s.watch.src.at 0x16).trip = false) {u : State}
    (hu : u = s.wrs [(LDR_STAT_HOLDOFF, 0), (LDR_STAT_SCRUB, 1)]) :
    s.holdoffEnd = (((({ u with care := { u.care with larderPtr := 0 } }.incsGo).savesGo).laterGo).commitsGo
      ).trimsGo.switchesGo.strHeldFlush := by
  subst hu
  exact if_neg (by simp [hhold, hclear])

end

/-- Settles O51: each command of a core by its refusals in their order, then its own effect; the end of hold-off by its guard. -/
theorem larderActs : Obligations.LarderActs := by
  unfold Obligations.LarderActs
  intro s t c ht
  refine ⟨?increment, ?refused, ?ring, ?save, ?store, ?holdoff⟩
  case increment =>
    intro k a hrun hown hbound hhold hring hvalid ha hpos hfits
    refine State.next_byCore hrun ht ?_
    rw [State.counterIncrement_eq, ← ha, State.ctrCore_open hown hbound hhold, State.ctrInc_writes hring hvalid hpos hfits]
  case refused =>
    refine fun k hrun => ⟨fun hown => ?_, fun hown hbound => ?_, fun hown hbound hhold => ?_⟩ <;>
      refine State.next_byCore hrun ht ?_
    · rw [State.counterIncrement_eq, State.ctrCore_own hown]
    · rw [State.counterIncrement_eq, State.ctrCore_bound hown hbound]
    · rw [State.counterIncrement_eq, State.ctrCore_held hown hbound hhold]
  case ring => exact fun k n hrun hopen => State.next_byCore hrun ht (if_pos hopen)
  case save =>
    exact fun g hrun hg => ⟨fun hhold => State.next_byCore hrun ht (State.paramSave_writes hg hhold),
      fun hhold => State.next_byCore hrun ht (State.paramSave_held hg hhold)⟩
  case store =>
    exact fun off w v hrun halign =>
      ⟨fun happ hhold => State.next_byCore hrun ht (State.larderStore_writes halign v happ hhold),
        fun happ hhold => State.next_byCore hrun ht (State.larderStore_held halign v happ hhold),
        fun happ => State.next_byCore hrun ht (State.larderStore_outside halign v happ)⟩
  case holdoff => exact fun hhold hclear => ⟨_, rfl, congrArg _ (State.holdoffEnd_ends hhold hclear rfl)⟩

end Sys2Proof.Machine
namespace Sys2Proof.Machine

/-! ## The RTC and the states of the timebase (R456 to R466) -/

section
variable {s : State}

/-- Before 24 h of lock nothing moves. -/
theorem State.ageing_early (h : s.tbs.lockNs < dayNs) (m : Int) : s.ageing m = s :=
  if_pos (.inr (.inr h))

/-- An exact eighth of the way leaves no choice of rounding. -/
theorem State.ageing_exact {m : Int} (hlocked : s.rd TBS_STAT_STATE = 2) (hknown : s.timeUnk = false) (hday : dayNs ≤ s.tbs.lockNs)
    (hexact : (m - s.age) % 8 = 0) {u : State}
    (hu : u = { s.wr TBS_AGE (ageClamp (s.age + (m - s.age) / 8) % 65536).toNat with
      tbs := { s.tbs with lockNs := s.tbs.lockNs - dayNs } }) :
    s.ageing m = (u.rtcTemp (BitVec.ofNat 8 s.cel.rtcT)).paramAuto 5 := by
  have hdue : ¬(s.rd TBS_STAT_STATE ≠ 2 ∨ s.timeUnk = true ∨ s.tbs.lockNs < dayNs) := by
    simp [hlocked, hknown, hday]
  subst hu
  rw [State.ageing, if_neg hdue]
  simp only [if_pos hexact, Nat.cast_zero, Int.add_zero]
  rfl

theorem State.ppsLoss_locked (h : s.rd TBS_STAT_STATE = 2) : s.ppsLoss = s.tbsTo 3 := if_pos h

theorem State.holdoverEnd_holdover (h : s.rd TBS_STAT_STATE = 3) : s.holdoverEnd = s.tbsTo 0 := if_pos h

theorem State.adjWindowEnd_open (hopen : s.adjOpen = true) (hleft : s.tbs.exhausted = false) :
    s.adjWindowEnd = { s.wrs [(TBS_ADJUSED, 0), (TBS_ADJWSTART, 0)] with
      tbs := { s.tbs with adjNs := 0, adjEnd := none, exhausted := false } } := by
  simp [State.adjWindowEnd, hopen, hleft]

/-! ## Calibration (R469) -/

/-- The state that a complete calibration leaves, before CAL RUN has its reply. -/
def State.calibrated (s : State) (f : BitVec 4) : State :=
  { s.wr TBS_STAT_TDCFAIL f.toNat with tbs := { s.tbs with calAt := s.utcS, calRuns := false, startFail := s.tbs.startFail &&& f } }

theorem State.tdcCal_eq (s : State) (f : BitVec 4) : s.tdcCal f = (s.calibrated f).calReply := rfl

theorem State.calReply_idle (h : s.con.busy = .idle) : s.calReply = s := by
  simp [State.calReply, h]

theorem State.calReply_asked {tag : Option Byte} (h : s.con.busy = .cal tag) :
    s.calReply = { s with draws := s.draws + 1 }.replyOk tag (fld "rtc_ppm" (ppmText s.measure.1) ++
      fld "tdc" (if s.rd TBS_STAT_TDCFAIL = 0 then txt "OK" else txt "FAIL")) := by
  simp only [State.calReply, h]
  rfl

theorem State.rd_calibrated_fail (s : State) (f : BitVec 4) : (s.calibrated f).rd TBS_STAT_TDCFAIL = 0 ↔ f = 0 := by
  have hrd : (s.calibrated f).rd TBS_STAT_TDCFAIL = f.toNat % 2 ^ 4 := State.rd_wr_self s TBS_STAT_TDCFAIL f.toNat (by decide)
  rw [hrd, Nat.mod_eq_of_lt f.isLt, BitVec.toNat_eq]
  rfl

/-! ## Leap seconds (R464) -/

/-- An inserted second: UTC steps back in the frame of the announced midnight. -/
theorem State.leap_insert (hdir : s.rd TBS_LEAPCTL_DIR = 1) (hday : s.utcS.toNat ≤ s.rd TBS_LEAP_DAY)
    (hnear : s.secondNear (s.rd TBS_LEAP_DAY) = true) :
    s.leap = { s.stepUtc (-1000000000) with tbs := { (s.stepUtc (-1000000000)).tbs with leapNow := true } }.leapRegs true := by
  simp only [State.leap, hdir, if_neg (Nat.not_lt.mpr hday), hnear, Bool.not_true, Bool.false_eq_true, if_false]

theorem State.leap_delete (hdir : s.rd TBS_LEAPCTL_DIR = 2) (hday : s.utcS.toNat < s.rd TBS_LEAP_DAY)
    (hnear : s.secondNear (s.rd TBS_LEAP_DAY - 1) = true) : s.leap = (s.stepUtc 1000000000).leapRegs false := by
  simp only [State.leap, hdir, if_neg (Nat.not_le.mpr hday), hnear, Bool.not_true, Bool.false_eq_true, if_false]

theorem State.leap_past (hdir : s.rd TBS_LEAPCTL_DIR = 1 ∨ s.rd TBS_LEAPCTL_DIR = 2) (hday : s.rd TBS_LEAP_DAY < s.utcS.toNat) :
    s.leap = s.wr TBS_LEAPCTL_DIR 0 := by
  rcases hdir with hdir | hdir
  · simp only [State.leap, hdir, if_pos hday]
  · simp only [State.leap, hdir, if_pos (Nat.le_of_lt hday)]

theorem State.leapCellar_insert (hdir : s.cel.leapDir = 1) (hlo : s.cel.leapDay.toNat ≤ s.cel.rtc / 1048576 + 1)
    (hhi : s.cel.rtc / 1048576 ≤ s.cel.leapDay.toNat) :
    s.leapCellar = { s with cel := { s.cel with rtc := s.cel.rtc - 1048576, leapDir := 0, leapDone := 1 } } := by
  simp [State.leapCellar, hdir, hlo, hhi]

theorem State.leapCellar_delete (hdir : s.cel.leapDir = 2) (hlo : s.cel.leapDay.toNat ≤ s.cel.rtc / 1048576 + 2)
    (hhi : s.cel.rtc / 1048576 < s.cel.leapDay.toNat) :
    s.leapCellar = { s with cel := { s.cel with rtc := 1048576 + s.cel.rtc, leapDir := 0, leapDone := 2 } } := by
  simp [State.leapCellar, hdir, hlo, hhi]

theorem exec_leapSecond_main (hup : s.mainUp = true) : exec .leapSecond s = .next s.leap :=
  congrArg _ (if_pos hup)

theorem exec_leapSecond_cellar (hup : s.mainUp = false) : exec .leapSecond s = .next s.leapCellar :=
  congrArg _ (if_neg (ne_true_of_eq_false hup))

theorem exec_tdcCalibration (hup : s.mainUp = true) (f : BitVec 4) :
    exec (.tdcCalibration f) s = .next (s.calibrated f).calReply :=
  congrArg _ (if_pos hup)

end

/-- Settles O25: each event by its guard; a leap second by the domain that runs, the direction announced and the day. -/
theorem timeEventsAct : Obligations.TimeEventsAct := by
  unfold Obligations.TimeEventsAct
  refine ⟨fun s => ⟨fun t => rfl, ?exact, ?early, ?loss, ?expiry, ?window, ?save, ?latch, ?calibration, ?reply⟩,
    fun s hup => ⟨?insert, ?delete, ?past⟩, fun s hup => ⟨?insertCellar, ?deleteCellar⟩⟩
  case exact =>
    exact fun m hlocked hknown hday hexact => ⟨_, rfl, congrArg _ (State.ageing_exact hlocked hknown hday hexact rfl)⟩
  case early => exact fun m h => congrArg _ (State.ageing_early h _)
  case loss => exact fun h => congrArg _ (State.ppsLoss_locked h)
  case expiry => exact fun h => congrArg _ (State.holdoverEnd_holdover h)
  case window =>
    intro hopen hleft
    refine ⟨_, congrArg Host.Outcome.next (State.adjWindowEnd_open hopen hleft), ?_, rfl, rfl⟩
    exact State.rd_wrs_zero (l := [TBS_ADJUSED, TBS_ADJWSTART]) (.inl List.mem_cons_self)
  case save => exact fun h => congrArg _ (if_pos h)
  case latch => exact fun c t hrun ht => State.next_byCore hrun ht rfl
  case calibration =>
    intro f hup hidle
    exact (exec_tdcCalibration hup f).trans (congrArg _ (State.calReply_idle (s := s.calibrated f) hidle))
  case reply =>
    intro f u tag hup hasked hu
    refine ⟨(s.calibrated f).measure.1, (exec_tdcCalibration hup f).trans ?_⟩
    rw [State.calReply_asked (s := s.calibrated f) hasked, hu]
    simp only [State.rd_calibrated_fail]
    rfl
  case insert => exact fun hdir hday hnear => (exec_leapSecond_main hup).trans (congrArg _ (State.leap_insert hdir hday hnear))
  case delete => exact fun hdir hday hnear => (exec_leapSecond_main hup).trans (congrArg _ (State.leap_delete hdir hday hnear))
  case past => exact fun hdir hday => (exec_leapSecond_main hup).trans (congrArg _ (State.leap_past hdir hday))
  case insertCellar =>
    exact fun hdir hlo hhi => (exec_leapSecond_cellar hup).trans (congrArg _ (State.leapCellar_insert hdir hlo hhi))
  case deleteCellar =>
    exact fun hdir hlo hhi => (exec_leapSecond_cellar hup).trans (congrArg _ (State.leapCellar_delete hdir hlo hhi))

end Sys2Proof.Machine
namespace Sys2Proof.Machine

/-! ## Transactions of a core (R444 to R450) -/

/-- What a core's Archive command comes to while none of its own waits. -/
theorem State.next_arcCmd {s t u : State} {c : CpuId} (hrun : s.coreRuns c = true) (ht : t = s.strongIssue c)
    (hidle : t.rd (ARC_TSTAT_STATE c) ≠ 1) {f : State → State} (h : f t = u) :
    (.next (s.arcCmd c f) : Host.Outcome State Fault Refusal) = .next u := by
  subst ht
  rw [State.arcCmd_run hrun f hidle, h]

section
variable {s : State} {c : CpuId} {t : Fin 16} {k : Fin 8}

theorem State.arcOpen_blockless (hfree : s.nv.txn.at t = none) (hmode : s.sys.mode.arcOpen = true) :
    s.arcOpen c t k 0 = (s.setTxn t (some { owner := c, area := k, n := 0 })).arcEnd c 0 := by
  simp [State.arcOpen, hfree, hmode]

/-- OPEN of a block that has room begins it at once. -/
theorem State.arcOpen_block {n b : Nat} (hfree : s.nv.txn.at t = none) (hmode : s.sys.mode.arcOpen = true) (hpos : n ≠ 0)
    (hmax : n ≤ 16) (harea : s.isSet (ARC_AREA_EN k) = true) (hidle : s.areaBusy k = false) {x : Txn}
    (hx : x = { owner := c, area := k, n := n }) (hplace : s.blockPlace k n = some b) :
    s.arcOpen c t k n = (s.openGo t x b).arcWait c := by
  subst hx
  simp [State.arcOpen, hfree, hmode, hpos, Nat.not_lt.mpr hmax, harea, hidle, State.openBlock, hplace]

theorem State.arcCtr_stages {x : Txn} (htxn : s.txnOf c t = some x) (hopen : x.committing = false) {k : CtrId}
    {l : List (CtrId × Nat)} (hl : l = stageAmt x.ctrs k (s.rd (ARC_TARG c))) (hfour : l.length ≤ 4) (hown : ctrOfCores k = true)
    (hbound : s.ctrBound k = false) (hpos : s.rd (ARC_TARG c) ≠ 0) :
    s.arcCtr c t k = (s.setTxn t (some { x with ctrs := l })).arcEnd c 0 := by
  subst hl
  simp [State.arcCtr, htxn, hopen, Nat.not_lt.mpr hfour, hown, hbound, hpos]

section
variable {x : Txn} (htxn : s.txnOf c t = some x) (hcheck : s.commitCheck t x = 0)
include htxn hcheck

theorem State.arcCommit_now (hhold : s.holdoff = false) (hslot : s.slotBusy = false) :
    s.arcCommit c t = s.commitNow c t x := by
  simp [State.arcCommit, htxn, hcheck, hhold, hslot]

theorem State.arcCommit_waits (hwait : s.holdoff = true ∨ s.slotBusy = true) :
    s.arcCommit c t = { (s.setTxn t (some { x with committing := true })).arcWait c with
      ldr := { s.ldr with commits := s.ldr.commits ++ [(some c, t)] } } := by
  simp only [State.arcCommit, htxn, hcheck, Bool.or_eq_true, if_pos hwait]
  rfl

end

theorem State.arcAbort_discards {x : Txn} (htxn : s.txnOf c t = some x) (hopen : x.committing = false)
    (hbound : s.bound t (fun st => st == 2 || st == 3) = false) : s.arcAbort c t = (s.setTxn t none).arcEnd c 0 := by
  simp only [State.arcAbort, htxn, hopen, hbound, Bool.or_self, Bool.false_eq_true, if_false]

theorem State.arcTrim_moves (hcheck : s.trimCheck k (s.rd (ARC_TARG c)) = 0) (hhold : s.holdoff = false) :
    s.arcTrim c k = (s.headMove k (s.rd (ARC_TARG c))).arcEnd c 0 := by
  simp [State.arcTrim, hcheck, hhold]

/-- A transaction that is not the caller's is refused, whatever is asked of it. -/
theorem State.arcCtr_foreign (h : s.txnOf c t = none) (k : CtrId) : s.arcCtr c t k = s.arcEnd c 2 := by
  simp [State.arcCtr, h]

theorem State.arcCommit_foreign (h : s.txnOf c t = none) : s.arcCommit c t = s.arcEnd c 2 := by
  simp [State.arcCommit, h]

theorem State.arcAbort_foreign (h : s.txnOf c t = none) : s.arcAbort c t = s.arcEnd c 2 := by
  simp [State.arcAbort, h]

/-! ## The banks (R433 to R436, R443) -/

@[simp] theorem State.headMove_bank (s : State) (k : Fin 8) (u : Nat) : (s.headMove k u).bank = s.bank := by
  simp [State.headMove, State.ptrApply, State.setArea, State.journalPut]

@[simp] theorem State.headMove_incomplete (s : State) (k : Fin 8) (u : Nat) :
    (s.headMove k u).nv.incomplete = s.nv.incomplete := by
  simp [State.headMove, State.ptrApply, State.setArea, State.journalPut]

/-- HEAD out of a sector that is to be erased. -/
def State.headOut (s : State) (k : Fin 8) (x : Nat) : State :=
  if sectorOf (s.nv.area.at k).head = x ∧ (s.nv.area.at k).head ≠ (s.nv.area.at k).resv then s.headMove k (s.headBeyond k x) else s

@[simp] theorem State.headOut_bank (s : State) (k : Fin 8) (x : Nat) : (s.headOut k x).bank = s.bank := by
  unfold State.headOut
  split <;> simp

@[simp] theorem State.headOut_incomplete (s : State) (k : Fin 8) (x : Nat) : (s.headOut k x).nv.incomplete = s.nv.incomplete := by
  unfold State.headOut
  split <;> simp

/-- Erase-ahead marks the area's next sector INCOMPLETE and begins its erase, once HEAD is out of it. -/
theorem State.eraseAhead_begins {x : Nat} {b : Fin 2} (harea : s.isSet (ARC_AREA_EN k) = true) (hhold : s.holdoff = false)
    (hnext : s.eraseNext k = some x) (hb : b = bankOf (0x1000 * x)) (hidle : s.bank.at b = .idle) :
    s.eraseAhead k = { s.headOut k x with
      bank := s.bank.put b (.erase x false 0)
      nv := { (s.headOut k x).nv with
        incomplete := if s.nv.incomplete.contains x then s.nv.incomplete else s.nv.incomplete ++ [x] } } := by
  subst hb
  rw [← s.headOut_bank k x, ← s.headOut_incomplete k x]
  rw [State.eraseAhead, if_neg (by simp [harea, hhold]), hnext]
  exact if_neg (by simp [hidle])

end

/-- Settles O52: each command of a core by what refuses it or lets it go; each event of a bank by what the bank was doing. -/
theorem archiveActs : Obligations.ArchiveActs := by
  unfold Obligations.ArchiveActs
  refine ⟨fun s u c t hrun hu hidle => ?commands, fun s => ⟨?erase, ?erased, ?programmed, ?resumed⟩⟩
  case commands =>
    refine ⟨?blockless, ?block, ?counter, ?commit, ?waits, ?abort, ?trim, ?foreign⟩
    case blockless => exact fun k hfree hmode => State.next_arcCmd hrun hu hidle (State.arcOpen_blockless hfree hmode)
    case block =>
      exact fun k n x b hfree hmode hpos hmax harea hbusy hx hplace =>
        State.next_arcCmd hrun hu hidle (State.arcOpen_block hfree hmode hpos hmax harea hbusy hx hplace)
    case counter =>
      exact fun x k l htxn hopen hl hfour hown hbound hpos =>
        State.next_arcCmd hrun hu hidle (State.arcCtr_stages htxn hopen hl hfour hown hbound hpos)
    case commit =>
      exact fun x htxn hcheck hhold hslot => State.next_arcCmd hrun hu hidle (State.arcCommit_now htxn hcheck hhold hslot)
    case waits => exact fun x htxn hcheck hwait => State.next_arcCmd hrun hu hidle (State.arcCommit_waits htxn hcheck hwait)
    case abort =>
      exact fun x htxn hopen hbound => State.next_arcCmd hrun hu hidle (State.arcAbort_discards htxn hopen hbound)
    case trim => exact fun k hcheck hhold => State.next_arcCmd hrun hu hidle (State.arcTrim_moves hcheck hhold)
    case foreign =>
      exact fun hnone k => ⟨State.next_arcCmd hrun hu hidle (State.arcCtr_foreign hnone k),
        State.next_arcCmd hrun hu hidle (State.arcCommit_foreign hnone),
        State.next_arcCmd hrun hu hidle (State.arcAbort_foreign hnone)⟩
  case erase =>
    intro k x b hup harea hhold hnext hb hidle
    refine ⟨s.headOut k x, rfl, ?_⟩
    rw [← State.eraseAhead_begins harea hhold hnext hb hidle]
    exact congrArg _ (if_pos hup)
  case erased =>
    intro b x n u hbank hu
    subst hu
    refine congrArg Host.Outcome.next ?_
    rw [State.eraseDone, hbank]
  case programmed =>
    intro b p rest o hbank hprogs
    refine congrArg Host.Outcome.next ?_
    rw [State.progDone, hbank, hprogs]
  case resumed =>
    intro b x n hbank
    refine congrArg Host.Outcome.next ?_
    rw [State.eraseResume, hbank]

end Sys2Proof.Machine
namespace Sys2Proof.Machine

/-! ## What leaves the Vault as it stands -/

@[simp] theorem State.wrs_vlt (s : State) (l : List (Field × Nat)) : (s.wrs l).vlt = s.vlt := by
  rw [State.wrs_eq]

@[simp] theorem State.attic_vlt (s : State) (typ : Nat) (body : List Byte) (rise : Bool) : (s.attic typ body rise).vlt = s.vlt := by
  unfold State.attic State.atticRec
  repeat' split
  all_goals rfl

@[simp] theorem State.drbgWords_vlt (s : State) (n : Nat) : (s.drbgWords n).2.vlt = s.vlt := rfl

@[simp] theorem State.strImage_vlt (s : State) : s.strImage.vlt = s.vlt := rfl

@[simp] theorem State.strRoom_vlt (s : State) : s.strRoom.vlt = s.vlt := by
  unfold State.strRoom
  split <;> simp

@[simp] theorem State.strStamp_vlt (s : State) : s.strStamp.vlt = s.vlt := rfl

@[simp] theorem State.strLogAdd_vlt (s : State) (seq : Nat) (l : SLog) : (s.strLogAdd seq l).vlt = s.vlt := by
  unfold State.strLogAdd
  split <;> rfl

@[simp] theorem State.sWrite_vlt (s : State) (i : Nat) (e l : SEntry) : (s.sWrite i e l).vlt = s.vlt := rfl

@[simp] theorem State.sClear_vlt (s : State) (i : Nat) : (s.sClear i).vlt = s.vlt := rfl

@[simp] theorem State.sCopy_vlt (s : State) (src dst : Nat) : (s.sCopy src dst).vlt = s.vlt := by
  simp only [State.sCopy]
  split <;> simp

@[simp] theorem State.shiftUp_vlt (s : State) (t n : Nat) : (s.shiftUp t n).vlt = s.vlt := by
  induction n generalizing s with
  | zero => rfl
  | succ n ih => rw [State.shiftUp, ih, State.sCopy_vlt]

@[simp] theorem State.shiftDown_vlt (s : State) (h n : Nat) : (s.shiftDown h n).vlt = s.vlt := by
  induction n generalizing s h with
  | zero => rfl
  | succ n ih => rw [State.shiftDown, ih, State.sCopy_vlt]

@[simp] theorem State.strPlace_vlt (s : State) (t h : Nat) (e : SEntry) : (s.strPlace t h e).2.vlt = s.vlt := by
  simp only [State.strPlace]
  split <;> simp

@[simp] theorem State.raStale_vlt (s : State) (r : Region) : (s.raStale r).vlt = s.vlt :=
  foldl_proj State.vlt (fun s m => by split <;> simp) _ s

@[simp] theorem State.strScan_vlt (s : State) (r : Region) (key : BitVec 160) : (s.strScan r key).2.vlt = s.vlt := by
  simp only [State.strScan]
  split <;> simp

@[simp] theorem State.strSearch_vlt (s : State) (r : Region) (key : BitVec 160) (cred : Bool) :
    (s.strSearch r key cred).2.vlt = s.vlt := by
  unfold State.strSearch
  split <;> simp

/-! ## The Vault's own updates of region K -/

@[simp] theorem State.strReport_vault (s : State) (st code idx : Nat) : s.strReport .vault st code idx = s := rfl

@[simp] theorem State.strBusy_vault (s : State) : s.strBusy .vault = s := by
  simp [State.strBusy]

@[simp] theorem State.strFinish_vault_vlt (s : State) (idx : Nat) (l : Option SLog) :
    (s.strFinish .vault idx l).vlt = s.vlt := by
  unfold State.strFinish
  repeat' split
  all_goals simp

theorem State.strInsert_vault_vlt {u : SUpd} (hu : u.req = .vault) (s : State) (again : Bool) :
    (s.strInsert u again).2.vlt = s.vlt := by
  simp only [State.strInsert, hu]
  repeat' split
  all_goals simp

@[simp] theorem State.strRemove_vault_vlt (s : State) (e : SEntry) : (s.strRemove .vault e).vlt = s.vlt := by
  simp only [State.strRemove]
  split <;> simp

@[simp] theorem State.kErase_vlt (s : State) (x : Nat × SEntry) : (s.kErase x).vlt = s.vlt := by
  simp only [State.kErase, State.strInvalidate, State.strUpdate, if_true]
  repeat' split
  all_goals simp

@[simp] theorem State.kWrite_vlt (s : State) (e : SEntry) : (s.kWrite e).2.vlt = s.vlt := by
  have hinsert := State.strInsert_vault_vlt (u := { req := .vault, ent := e, first := false }) rfl s false
  simp only [State.kWrite]
  repeat' split
  case isTrue => rfl
  all_goals
    rename_i hins
    rw [hins] at hinsert
    exact hinsert

@[simp] theorem State.kRemove_vlt (s : State) (i : Nat) : (s.kRemove i).vlt = s.vlt :=
  foldl_proj State.vlt State.kErase_vlt _ _

/-! ## The commands that wait, as the Vault's own operations leave them -/

@[simp] theorem State.vBusy_vlt (s : State) (q : VReq) : (s.vBusy q).vlt = s.vlt := by
  cases q <;> rfl

@[simp] theorem State.vEnd_vlt (s : State) (q : VReq) (code idx : Nat) : (s.vEnd q code idx).vlt = s.vlt := by
  cases q <;> simp [State.vEnd]

@[simp] theorem State.vJobEnd_vlt (s : State) (j : VJob) (code : Nat) : (s.vJobEnd j code).vlt = s.vlt := by
  simp only [State.vJobEnd, State.vEnd_vlt]
  split <;> simp

theorem State.vSettle_waiting (s : State) : s.vSettle.vlt.waiting = s.vlt.waiting := by
  unfold State.vSettle
  split
  · rfl
  · exact foldl_proj (fun s : State => s.vlt.waiting) (fun s j => congrArg Vault.waiting (s.vJobEnd_vlt j j.code)) _ _

@[simp] theorem State.vJob_waiting (s : State) (q : VReq) (cmd idx code : Nat) (role : Byte) (changed : List Nat) (e : VEntry) :
    (s.vJob q cmd idx code role changed e).vlt.waiting = s.vlt.waiting := by
  simp [State.vJob, State.vSettle_waiting]

@[simp] theorem State.vSet_waiting (s : State) (i : Nat) (e : VEntry) : (s.vSet i e).vlt.waiting = s.vlt.waiting := rfl

@[simp] theorem State.vWrite_waiting (s : State) (i : Nat) (e : VEntry) : (s.vWrite i e).vlt.waiting = s.vlt.waiting := rfl

@[simp] theorem State.vCount_waiting (s : State) (l : List Nat) : (s.vCount l).vlt.waiting = s.vlt.waiting := rfl

@[simp] theorem State.vClearBuf_waiting (s : State) (a : Agent) : (s.vClearBuf a).vlt.waiting = s.vlt.waiting := rfl

@[simp] theorem State.vState_waiting (s : State) (l : List Nat) (st : BitVec 2) : (s.vState l st).vlt.waiting = s.vlt.waiting :=
  foldl_proj (fun s : State => s.vlt.waiting) (fun s i => s.vSet_waiting i _) l s

@[simp] theorem State.vPieces_waiting (s : State) (n : VNew) (head : Nat) (gen : BitVec 16) (l : List Nat) (v : List Byte) :
    (s.vPieces n head gen l v).vlt.waiting = s.vlt.waiting := by
  induction l generalizing s v with
  | nil => rfl
  | cons i l ih =>
    rw [State.vPieces, ih]
    rfl

theorem State.vStoreNow_waiting (s : State) (n : VNew) (i : Nat) : (s.vStoreNow n i).2.2.vlt.waiting = s.vlt.waiting := by
  simp only [State.vStoreNow]
  repeat' split
  all_goals simp

theorem State.vUseEntry_waiting (s : State) (i : Nat) : (s.vUseEntry i).2.2.vlt.waiting = s.vlt.waiting := by
  unfold State.vUseEntry
  repeat' split
  all_goals rfl

theorem State.vLookup_waiting (s : State) (who : VUser) (role : Byte) (id : Word) (op : Nat) :
    (s.vLookup who role id op).2.vlt.waiting = s.vlt.waiting := by
  simp only [State.vLookup]
  repeat' split
  case h_1 huse | h_2 huse =>
    exact (congrArg (fun x => x.2.2.vlt.waiting) huse).symm.trans
      ((State.vUseEntry_waiting _ _).trans (congrArg Vault.waiting (s.strSearch_vlt _ _ _)))
  all_goals simp

end Sys2Proof.Machine
namespace Sys2Proof.Machine

/-! ## A writer's command while none is under way (R322) -/

theorem State.vNext_busy {s : State} (h : s.vIdle = false) : s.vNext = s := by
  unfold State.vNext State.vPump
  split
  · rfl
  · rw [h]
    rfl

/-- The one command that waits runs, and leaves none behind it. -/
theorem State.vNext_one {s u : State} {d : VCmd} (hwait : s.vlt.waiting = [d]) (hidle : s.vIdle = true) (hcon : d.agent ≠ .con)
    (hexec : { s with vlt := { s.vlt with waiting := [] } }.vExec d = u) (hrest : u.vlt.waiting = []) : s.vNext = u := by
  rw [State.vNext, hwait]
  simp only [List.length_cons, List.length_nil, State.vPump, hwait, hidle, hexec, hcon]
  simp [hrest]

section
variable {t : State} {a : Agent} (hdone : t.rd (VLT_STAT_STATE a) ≠ 1)
include hdone

theorem State.vCmd_alone (hidle : t.vIdle = true) (hwait : t.vlt.waiting = []) (hcon : a ≠ .con) {cmd idx : Nat} {u : State}
    (hexec : (t.vBusy (.agent a)).vExec (t.vStagedCmd a cmd idx) = u) (hrest : u.vlt.waiting = []) : t.vCmd a cmd idx = u := by
  rw [State.vCmd_joins hdone]
  refine State.vNext_one (d := t.vStagedCmd a cmd idx) (by rw [hwait]; rfl) hidle hcon (Eq.trans ?_ hexec) hrest
  have hvlt : { t.vlt with waiting := [] } = t.vlt := by rw [← hwait]
  refine congrArg (fun v => State.vExec { t.vBusy (.agent a) with vlt := v } (t.vStagedCmd a cmd idx)) hvlt

/-- A command that arrives while another is under way waits its turn. -/
theorem State.vCmd_waits (hbusy : t.vIdle = false) (cmd idx : Nat) :
    t.vCmd a cmd idx = { t with vlt := { t.vlt with waiting := t.vlt.waiting ++ [t.vStagedCmd a cmd idx] } }.vBusy (.agent a) := by
  rw [State.vCmd_joins hdone]
  exact State.vNext_busy hbusy

end

section
variable {s t : State} {c : CpuId} (hrun : s.coreRuns c = true) (ht : t = s.strongIssue c)
  (hdone : t.rd (VLT_STAT_STATE c.agent) ≠ 1) (hidle : t.vIdle = true) (hwait : t.vlt.waiting = [])
include hrun ht hdone hidle hwait

theorem State.next_vCmd {cmd idx : Nat} {u : State}
    (hexec : (t.vBusy (.agent c.agent)).vExec (t.vStagedCmd c.agent cmd idx) = u) (hrest : u.vlt.waiting = t.vlt.waiting) :
    (.next (s.byCore c (fun s => s.vCmd c.agent cmd idx)) : Host.Outcome State Fault Refusal) = .next u :=
  State.next_byCore hrun ht (State.vCmd_alone hdone hidle hwait c.agent_ne_con hexec (hrest.trans hwait))

end

/-! ## Entries (R324 to R330) -/

section
variable {s u : State} {q : VReq} {n : VNew} {code i : Nat}

theorem State.vStore_placed {r : Bool} {ch : List Nat} (hcheck : s.vCheck n = (0, i)) (hnow : s.vStoreNow n i = (r, ch, u)) :
    s.vStore q n = u.vJob q 1 i (if r then 19 else 0) n.role ch (u.vEnt i) := by
  simp only [State.vStore, hcheck, hnow]

theorem State.vStore_refused (hcheck : s.vCheck n = (code, i)) (hcode : code ≠ 0) (hpair : code ≠ 4) :
    s.vStore q n = s.vEnd q code 0 := by
  unfold State.vStore
  split
  · rename_i hplaced
    rw [hcheck] at hplaced
    exact absurd (congrArg Prod.fst hplaced) hcode
  · rename_i hrefused
    rw [hcheck] at hrefused
    obtain rfl : code = _ := congrArg Prod.fst hrefused
    simp [State.vPairUse, hpair]

end

@[simp] theorem State.wrWords_vlt {n : Nat} [NeZero n] (f : Fin n → Field) (l : List Word) (s : State) :
    (wrWords f l s).vlt = s.vlt :=
  foldl_proj State.vlt (fun s i => s.wr_vlt (f i) (l.getD i.val 0).toNat) _ s

theorem State.vExec_read (s t : State) (a : Agent) (i : Nat) :
    s.vExec (t.vStagedCmd a 2 i) = s.vUse a (fun s => s.vRead a i) := rfl

theorem State.vExec_clear (s t : State) (a : Agent) :
    s.vExec (t.vStagedCmd a 10 0) = s.vUse a (fun s => (s.vClearBuf a).vEnd (.agent a) 0 0) := rfl

/-- What READ shows of an entry's value: nothing of a secret, nothing of an EMPTY one. -/
def State.vShown (s : State) (i : Nat) : List Byte :=
  if vPublic (s.vEnt i).type.toNat = true ∧ (s.vEnt i).st ≠ 0 then s.vValue (s.vHead i) else []

theorem State.vRead_vlt (s : State) (a : Agent) (i : Nat) : (s.vRead a i).vlt =
    { s.vlt with wr := s.vlt.wr.upd (finOf 4 a.code) (fun w => { w with win := s.vShown i }) } := by
  simp [State.vRead, State.vWr, State.vShown]

theorem State.rd_vEnd_state (s : State) (a : Agent) (code idx : Nat) :
    (s.vEnd (.agent a) code idx).rd (VLT_STAT_STATE a) = if code = 0 then 2 else 3 := by
  have hcode : (VLT_STAT_CODE a).key ≠ (VLT_STAT_STATE a).key := by cases a <;> decide
  have hidx : (VLT_STAT_IDX a).key ≠ (VLT_STAT_STATE a).key := by cases a <;> decide
  have hwidth : (VLT_STAT_STATE a).width ≤ 32 := by cases a <;> decide
  simp only [State.vEnd, State.wrs_cons, State.wrs_nil]
  rw [State.rd_wr_ne _ _ _ _ hidx, State.rd_wr_ne _ _ _ _ hcode, State.rd_wr_self _ _ _ hwidth]
  split <;> rfl

/-- RETIRE and REVOKE of an entry that its state admits (R328). -/
theorem State.vRetire_moves {s z : State} {i idx : Nat} {e : VEntry} {l : List Nat} (hi : i = s.vHead idx) (he : e = s.vEnt i)
    (hl : l = s.vSpan i) (hmode : s.sys.mode.vaultRetire = true) (revoke : Bool) (hst : e.st = 1 ∨ (revoke = true ∧ e.st = 2))
    (hz : z = if e.role = roleSession then s.vState l (if revoke then 3 else 2)
      else (s.vState l (if revoke then 3 else 2)).vCount l) (q : VReq) :
    s.vRetire q idx revoke = z.vJob q (if revoke then 4 else 3) i 0 e.role l e := by
  subst hz hl he hi
  simp only [State.vRetire, hmode, Bool.not_true, Bool.false_eq_true, if_false]
  exact if_pos hst

/-- ZEROIZE of an entry that no longer stands ACTIVE (R328). -/
theorem State.vZeroize_erases {s z : State} {i idx : Nat} {e : VEntry} {l : List Nat} (hi : i = s.vHead idx) (he : e = s.vEnt i)
    (hl : l = s.vSpan i) (hmode : s.sys.mode.vaultUse = true) (hrole : s.sys.mode.vaultStore e.role = true)
    (hst : e.st = 2 ∨ e.st = 3) (hupd : s.strUpd .k = true) (hkept : e.role ≠ roleSession)
    (hz : z = { s with vlt := { s.vlt with ent := l.foldl spErase s.vlt.ent } }) (q : VReq) :
    s.vZeroize q idx = ((z.vCount l).kRemove i).vJob q 5 i 0 e.role l e := by
  subst hz hl he hi
  have hempty : (s.vEnt (s.vHead idx)).st ≠ 0 := by rcases hst with h | h <;> rw [h] <;> decide
  have hactive : (s.vEnt (s.vHead idx)).st ≠ 1 := by rcases hst with h | h <;> rw [h] <;> decide
  have hdead : ¬((s.vEnt (s.vHead idx)).st = 1 ∧ (s.vEnt (s.vHead idx)).role ≠ roleSession) := fun h => hactive h.1
  simp only [State.vZeroize, hmode, hrole, hupd, Bool.not_true, Bool.false_eq_true, if_false, if_neg hempty, if_neg hdead,
    if_neg hkept]

/-- A mode without Vault use ends each command (R334). -/
theorem State.vZeroize_mode {s : State} (hmode : s.sys.mode.vaultUse = false) (q : VReq) (idx : Nat) :
    s.vZeroize q idx = s.vEnd q s.sys.mode.vaultNo 0 := by
  simp [State.vZeroize, hmode]

/-- Settles O43: the command runs alone, and each one's end is its own function's on the state in which it began. -/
theorem vaultEntriesAct : Obligations.VaultEntriesAct := by
  unfold Obligations.VaultEntriesAct
  intro s t b c idx hrun ht hdone hidle hwait hb
  have hbvlt : b.vlt.waiting = t.vlt.waiting := by rw [hb, State.vBusy_vlt]
  have hend (code i : Nat) : (b.vEnd (.agent c.agent) code i).vlt.waiting = t.vlt.waiting := by rw [State.vEnd_vlt, hbvlt]
  have hmode : b.sys.mode = t.sys.mode := by rw [hb]; rfl
  have hnext {cmd i : Nat} {u : State} (hexec : b.vExec (t.vStagedCmd c.agent cmd i) = u)
      (hrest : u.vlt.waiting = t.vlt.waiting) :
      (.next (s.byCore c (fun s => s.vCmd c.agent cmd i)) : Host.Outcome State Fault Refusal) = .next u :=
    State.next_vCmd hrun ht hdone hidle hwait (hb ▸ hexec) hrest
  refine ⟨?store, ?refused, ?read, ?moves, ?zeroize, ?clear, ?mode⟩
  case store =>
    intro n i r ch u hn hcheck hnow
    subst hn
    refine hnext (congrArg (fun s => s.vClearBuf c.agent) (State.vStore_placed hcheck hnow)) ?_
    have hstored := State.vStoreNow_waiting b (t.vStaged c.agent) i
    rw [hnow] at hstored
    rw [State.vClearBuf_waiting, State.vJob_waiting, hstored, hbvlt]
  case refused =>
    exact fun code i hcheck hcode hpair =>
      hnext (congrArg (fun s => s.vClearBuf c.agent) (State.vStore_refused hcheck hcode hpair)) (hend code 0)
  case read =>
    intro huse
    have hread : b.vExec (t.vStagedCmd c.agent 2 idx.toNat) = b.vRead c.agent idx.toNat :=
      (b.vExec_read t _ _).trans (State.vUse_run (hmode ▸ huse) _)
    refine ⟨_, hnext hread ?_, ?_, State.rd_vEnd_state _ _ 0 _, ?_⟩
    · rw [State.vRead_vlt]
      exact hbvlt
    · rw [State.vRead_vlt, hb, State.vBusy_vlt]
    · rw [State.vRead_vlt, Tab.at_upd, if_pos rfl, hb]
      rfl
  case moves =>
    intro i e l z hi he hl hretire
    subst hb
    refine ⟨fun hz hst => hnext (State.vRetire_moves (s := t.vBusy (.agent c.agent)) hi he hl hretire false (.inl hst) hz _) ?_,
      fun hz hst => hnext (State.vRetire_moves (s := t.vBusy (.agent c.agent)) hi he hl hretire true (hst.imp_right fun h => ⟨rfl, h⟩) hz _) ?_⟩ <;>
      rw [State.vJob_waiting, hz, ← hbvlt] <;> split <;> simp
  case zeroize =>
    intro i e l z hi he hl huse hrole hst hupd hkept hz
    subst hb
    refine hnext (State.vZeroize_erases (s := t.vBusy (.agent c.agent)) hi he hl huse hrole hst hupd hkept hz _) ?_
    rw [State.vJob_waiting, State.kRemove_vlt, hz, ← hbvlt]
    rfl
  case clear => exact fun huse => hnext ((b.vExec_clear t _).trans (State.vUse_run (hmode ▸ huse) _)) (hend 0 0)
  case mode =>
    intro hno
    have hnoB : b.sys.mode.vaultUse = false := hmode ▸ hno
    rw [← hmode]
    exact ⟨hnext ((b.vExec_read t _ _).trans (State.vUse_mode hnoB _)) (hend _ 0),
      hnext (State.vZeroize_mode hnoB _ _) (hend _ 0), hnext ((b.vExec_clear t _).trans (State.vUse_mode hnoB _)) (hend _ 0)⟩

end Sys2Proof.Machine
namespace Sys2Proof.Machine

/-! ## Region K as a command of a writer finds it -/

section
variable (s : State) (a : Agent)

theorem State.rd_vBusy_ne {f : Field} (h : (VLT_STAT_STATE a).key ≠ f.key) : (s.vBusy (.agent a)).rd f = s.rd f :=
  State.rd_wr_ne _ _ _ _ h

theorem State.strSize_vBusy : (s.vBusy (.agent a)).strSize .k = s.strSize .k :=
  s.rd_vBusy_ne a (by cases a <;> decide)

theorem State.strH_vBusy : (s.vBusy (.agent a)).strH = s.strH :=
  congrArg (fun h => 8 * 2 ^ h) (s.rd_vBusy_ne a (f := STR_CFG_H) (by cases a <;> decide))

theorem State.sList_vBusy : (s.vBusy (.agent a)).sList .k = s.sList .k := by
  simp only [State.sList, State.strEnd, State.strStart, State.strSize_vBusy]
  rfl

theorem State.kRoom_vBusy (n : Nat) : (s.vBusy (.agent a)).kRoom n = s.kRoom n := by
  rw [State.kRoom, State.kRoom, decide_eq_decide]
  simp only [State.strUsed, State.sList_vBusy, State.strSize_vBusy, State.strH_vBusy]

theorem State.kOf_vBusy (i : Nat) : (s.vBusy (.agent a)).kOf i = s.kOf i := by
  simp only [State.kOf, State.sList_vBusy]

end

/-! ## LOOKUP, DENY, UNDENY, UNANY (R331, R332) -/

section
variable {s u : State}

theorem State.vLookCmd_finds {a : Agent} (hcon : a ≠ .con) {role : Byte} {id : Word} {op : Nat} {l : VLook}
    (hlook : s.vLookup .other role id op = (l, u)) (hcode : l.code = 0) (hecc : l.ecc = false) :
    s.vLookCmd a role id op = (u.wrs [(VLT_LKRES_IDX a, l.idx), (VLT_LKRES_MULTI a, b2n l.multi)]).vEnd (.agent a) 0 l.idx := by
  simp [State.vLookCmd, hcon, hlook, hcode, hecc]

theorem State.vDeny_adds {d : VCmd} {e : SEntry} {r : Bool} (he : e = d.pattern) (hmode : s.sys.mode.vaultUse = true)
    (hupd : s.strUpd .k = true)
    (hnew : (s.sList .k).any (fun x => x.2.valid && x.2.key == e.key && x.2.mask == e.mask && x.2.prio == e.prio) = false)
    (hroom : s.kRoom 1 = true) (hwrite : s.kWrite e = (r, u)) :
    s.vDeny d = u.vJob (.agent d.agent) 7 0 (if r then 19 else 0) roleSession [] { keyid := d.dnId, role := d.dnRole } := by
  subst he
  simp only [State.vDeny, hmode, hupd, hnew, hroom, hwrite, Bool.not_true, Bool.false_eq_true, if_false]

theorem State.vUndeny_removes {d : VCmd} {e : SEntry} {x : Nat × SEntry} (he : e = d.pattern) (hmode : s.sys.mode = .fit)
    (hupd : s.strUpd .k = true)
    (hfind : (s.sList .k).find? (fun x => x.2.valid && x.2.deny && x.2.key == e.key && x.2.mask == e.mask) = some x) :
    s.vUndeny d = (s.kErase x).vJob (.agent d.agent) 8 0 0 roleSession [] { keyid := d.dnId, role := d.dnRole } := by
  subst he
  simp only [State.vUndeny, hmode, hupd, hfind, ne_eq, not_true_eq_false, Bool.not_true, Bool.false_eq_true, if_false]

theorem State.vUnany_removes {a : Agent} {idx i : Nat} {x : Nat × SEntry} (hmode : s.sys.mode = .fit) (hi : i = s.vHead idx)
    (hst : (s.vEnt i).st ≠ 0) (hupd : s.strUpd .k = true)
    (hfind : (s.kOf i).find? (fun x => !x.2.key.getLsbD 56) = some x) :
    s.vUnany a idx = (s.kErase x).vJob (.agent a) 9 i 0 roleSession [] (s.vEnt i) := by
  subst hi
  simp only [State.vUnany, hmode, if_neg hst, hupd, hfind, ne_eq, not_true_eq_false, Bool.not_true, Bool.false_eq_true, if_false]

end

/-! ## Shadow updates and re-masking (R326, R336, R339) -/

section
variable {s u w : State} {j : VJob} (hjob : s.vlt.jobs.find? (fun j => decide (j.changed ≠ [])) = some j)
  (hplaced : s.kWaits = false) (hhold : s.holdoff = false) (hmain : s.sys.mode.main = true)
  (hu : u = { s with vlt := { s.vlt with jobs := s.vlt.jobs.erase j } })
include hjob hplaced hhold hmain hu

theorem State.shadowCommit_written (hwrite : u.shadowWrite j.changed = some w) : s.shadowCommit = w.vJobEnd j j.code := by
  subst hu
  have hready : ¬(s.kWaits = true ∨ s.holdoff = true ∨ s.sys.mode.main = false) := by simp [hplaced, hhold, hmain]
  simp only [State.shadowCommit, hjob, if_neg hready, hwrite]

theorem State.shadowCommit_lost (hwrite : u.shadowWrite j.changed = none) : s.shadowCommit = u.vJobEnd j 15 := by
  subst hu
  have hready : ¬(s.kWaits = true ∨ s.holdoff = true ∨ s.sys.mode.main = false) := by simp [hplaced, hhold, hmain]
  simp only [State.shadowCommit, hjob, if_neg hready, hwrite]

end

theorem State.remaskStart_begins {s : State} (hrng : s.isSet RNG_STAT_FAIL = false) (hup : s.mainUp = true)
    (hpass : s.vlt.pass = false) (hdue : Nat.max 256 (s.rd VLT_CFG_REMASK_PER) ≤ s.vlt.ticks) :
    s.remaskStart = { s with vlt := { s.vlt with pass := true, ticks := 0 } } := by
  have hperiod : ¬s.vlt.ticks < s.remaskPer := Nat.not_lt.mpr hdue
  simp [State.remaskStart, hrng, hup, hpass, hperiod]

/-- A core's commands to the Vault, each with its number and the index it names (Table 11.11). -/
def vaultRows (c : CpuId) (idx : Byte) : List (Instr × Nat × Nat) :=
  [(.vltStore c, 1, 0), (.vltRead c idx, 2, idx.toNat), (.vltRetire c idx, 3, idx.toNat), (.vltRevoke c idx, 4, idx.toNat),
    (.vltZeroize c idx, 5, idx.toNat), (.vltLookup c, 6, 0), (.vltDeny c, 7, 0), (.vltUndeny c, 8, 0),
    (.vltUnany c idx, 9, idx.toNat), (.vltClear c, 10, 0), (.vltGenCmd c, 11, 0)]

theorem exec_vaultRow {c : CpuId} {idx : Byte} {k : Instr × Nat × Nat} (hk : k ∈ vaultRows c idx) (s : State) :
    exec k.1 s = .next (s.byCore c (fun s => s.vCmd c.agent k.2.1 k.2.2)) := by
  simp only [vaultRows, List.mem_cons, List.not_mem_nil, or_false] at hk
  rcases hk with rfl | rfl | rfl | rfl | rfl | rfl | rfl | rfl | rfl | rfl | rfl <;> rfl

/-- Settles O44: a command that runs alone ends as its own function; one behind another waits; one behind the writer's own is
refused, STORE's staging buffer with it. -/
theorem vaultLookupsAct : Obligations.VaultLookupsAct := by
  unfold Obligations.VaultLookupsAct
  intro s t c idx ht
  refine ⟨?alone, ?waits, ?busy, ?winRead, ?winWrite, ?shadow, ?remask⟩
  case alone =>
    intro b hrun hdone hidle hwait hb
    have hbvlt : b.vlt.waiting = t.vlt.waiting := by rw [hb, State.vBusy_vlt]
    have hnext {cmd i : Nat} {u : State} (hexec : b.vExec (t.vStagedCmd c.agent cmd i) = u)
        (hrest : u.vlt.waiting = t.vlt.waiting) :
        (.next (s.byCore c (fun s => s.vCmd c.agent cmd i)) : Host.Outcome State Fault Refusal) = .next u :=
      State.next_vCmd hrun ht hdone hidle hwait (hb ▸ hexec) hrest
    refine ⟨?lookup, ?deny, ?undeny, ?unany⟩
    case lookup =>
      intro l u hlook hcode hecc
      refine hnext (State.vLookCmd_finds c.agent_ne_con hlook hcode hecc) ?_
      have hlooked := b.vLookup_waiting .other (BitVec.ofNat 8 (t.rd (VLT_LK1_ROLE c.agent)))
        (BitVec.ofNat 32 (t.rd (VLT_LK0_ID c.agent))) (t.rd (VLT_LK1_OP c.agent))
      rw [hlook] at hlooked
      rw [State.vEnd_vlt, State.wrs_vlt, hlooked, hbvlt]
    case deny =>
      intro d e r u hd he hmode hupd hnew hroom hwrite
      subst hd hb
      refine hnext (State.vDeny_adds (s := t.vBusy (.agent c.agent)) he hmode hupd ?_ ?_ hwrite) ?_
      · rw [State.sList_vBusy]
        exact hnew
      · rw [State.kRoom_vBusy]
        exact hroom
      · have hwritten := State.kWrite_vlt (t.vBusy (.agent c.agent)) e
        rw [hwrite] at hwritten
        rw [State.vJob_waiting, hwritten, hbvlt]
    case undeny =>
      intro d e x hd he hmode hupd hfind
      subst hd hb
      refine hnext (State.vUndeny_removes (s := t.vBusy (.agent c.agent)) he hmode hupd ?_) ?_
      · rw [State.sList_vBusy]
        exact hfind
      · rw [State.vJob_waiting, State.kErase_vlt, hbvlt]
    case unany =>
      intro x i hmode hi hst hupd hfind
      subst hb
      refine hnext (State.vUnany_removes (s := t.vBusy (.agent c.agent)) hmode hi hst hupd ?_) ?_
      · rw [State.kOf_vBusy]
        exact hfind
      · rw [State.vJob_waiting, State.kErase_vlt, hbvlt]
  case waits =>
    intro hrun hdone hbusy k hk
    exact (exec_vaultRow hk s).trans (State.next_byCore hrun ht (State.vCmd_waits hdone hbusy _ _))
  case busy =>
    intro hrun hbusy
    refine ⟨fun k hk => ?_, State.next_byCore hrun ht (by simp [State.vCmd, hbusy])⟩
    have hcode {cmd i : Nat} (hcmd : cmd ≠ 1) :
        (.next (s.byCore c (fun s => s.vCmd c.agent cmd i)) : Host.Outcome State Fault Refusal) =
          .next (t.wr (VLT_STAT_CODE c.agent) 13) :=
      State.next_byCore hrun ht (State.vCmd_busy hbusy cmd i hcmd)
    simp only [List.mem_cons, List.not_mem_nil, or_false] at hk
    rcases hk with rfl | rfl | rfl | rfl | rfl | rfl | rfl | rfl | rfl | rfl <;> exact hcode (by decide)
  case winRead => exact fun hrun => State.next_byCore hrun ht rfl
  case winWrite => exact fun v hrun => ⟨_, _, rfl, rfl, State.next_byCore hrun ht rfl⟩
  case shadow =>
    exact fun j u hjob hplaced hhold hmain hu =>
      ⟨fun w hwrite => congrArg (fun s : State => Host.Outcome.next s.vNext) (State.shadowCommit_written hjob hplaced hhold hmain hu hwrite),
        fun hwrite => congrArg (fun s : State => Host.Outcome.next s.vNext) (State.shadowCommit_lost hjob hplaced hhold hmain hu hwrite)⟩
  case remask => exact fun hrng hup hpass hdue => congrArg _ (State.remaskStart_begins hrng hup hpass hdue)

end Sys2Proof.Machine
namespace Sys2Proof.Machine

/-! ## A core's updates of the Store Room (R344 to R360) -/

/-- The updates that an update waits behind: those of its region, and its requester's own (R350). -/
theorem SUpd.any_follows (u : SUpd) (l : List SUpd) :
    l.any u.follows = l.any (fun v => v.ent.region == u.ent.region || v.req == u.req) := by
  refine congrArg (List.any l) (funext fun v => ?_)
  rw [SUpd.follows, BEq.comm (a := u.ent.region), BEq.comm (a := u.req)]

section
variable {s v : State} {u : SUpd}

theorem State.strBusy_free (h : s.str.wait.any (fun v => v.req == u.req) = false) : s.strBusy u.req = s :=
  if_neg (ne_true_of_eq_false h)

section
variable (hwriter : s.strWriter u.ent.region u.req = true) (hupd : s.strUpd u.ent.region = true)
include hwriter hupd

/-- An update behind another waits. -/
theorem State.strUpdate_behind (hwait : s.str.wait.any u.follows = true) :
    s.strUpdate u = { s with str := { s.str with wait := s.str.wait ++ [u] } }.strReport u.req 1 0 0 := by
  simp only [State.strUpdate, hwriter, hupd, hwait, Bool.not_true, Bool.false_eq_true, if_false, if_true]

variable (hfirst : s.str.wait.any u.follows = false)
include hfirst

theorem State.strUpdate_invalidate (hinval : u.inval = true) : s.strUpdate u = s.strRemove u.req u.ent := by
  simp only [State.strUpdate, hwriter, hupd, hfirst, hinval, Bool.not_true, Bool.false_eq_true, if_false, if_true]

variable (hinval : u.inval = false)
include hinval

theorem State.strUpdate_done {i : Nat} (h : s.strInsert u false = (.done i, v)) : s.strUpdate u = v := by
  simp only [State.strUpdate, hwriter, hupd, hfirst, hinval, h, Bool.not_true, Bool.false_eq_true, if_false]

theorem State.strUpdate_refused {code : Nat} (h : s.strInsert u false = (.refused code, v)) :
    s.strUpdate u = v.strReport u.req 3 code 0 := by
  simp only [State.strUpdate, hwriter, hupd, hfirst, hinval, h, Bool.not_true, Bool.false_eq_true, if_false]

theorem State.strUpdate_waits (h : s.strInsert u false = (.waits, v)) :
    s.strUpdate u = { v with str := { v.str with wait := v.str.wait ++ [u] } }.strReport u.req 1 0 0 := by
  simp only [State.strUpdate, hwriter, hupd, hfirst, hinval, h, Bool.not_true, Bool.false_eq_true, if_false]

end

/-- A region of another writer: NOTOWNER. -/
theorem State.strUpdate_foreign {c : CpuId} (hc : u.req = .cpu c) (hwriter : s.strWriter u.ent.region u.req = false)
    (hfree : s.str.wait.any (fun v => v.req == u.req) = false) :
    s.strUpdate u = (s.setb STR_ERR_NOTOWNER).strReport u.req 3 2 0 := by
  have hwait : ((s.setb STR_ERR_NOTOWNER).strReport u.req 3 2 0).str = s.str := by
    simp only [hc, State.strReport, State.wrs_cons, State.wrs_nil]
    rfl
  simp only [State.strUpdate, hwriter, Bool.not_false, if_true]
  exact State.strBusy_free (by rw [hwait]; exact hfree)

end

section
variable {s : State} {c : CpuId}

theorem State.coreUpdate_own {e : SEntry} (he : e = s.updEntry c) (hwriter : s.strWriter e.region (.cpu c) = true) (write : Bool) :
    s.coreUpdate c write = if write then s.strUpdate ⟨.cpu c, e, s.isSet (STR_UATTR_PLACE c), false⟩
      else s.strUpdate ⟨.cpu c, e, false, true⟩ := by
  subst he
  simp only [State.coreUpdate, hwriter, if_true]
  rfl

theorem State.coreUpdate_foreign {e : SEntry} (he : e = s.updEntry c) (hwriter : s.strWriter e.region (.cpu c) = false)
    (hfree : s.str.wait.any (fun v => v.req == .cpu c) = false) (write : Bool) :
    s.coreUpdate c write = ((s.setb STR_ERR_NOTOWNER).strReport (.cpu c) 3 2 0).misuse := by
  subst he
  have hrefused (first inval : Bool) := State.strUpdate_foreign (u := ⟨.cpu c, s.updEntry c, first, inval⟩) rfl hwriter hfree
  simp only [State.coreUpdate, State.strWrite, State.strInvalidate, hwriter, hrefused, ite_self, Bool.false_eq_true, if_false]

end

theorem State.strRemove_found {s : State} {q : SReq} {e x : SEntry} {i : Nat}
    (h : (s.sList e.region).find? (fun x => x.2.valid && x.2.key == e.key && x.2.mask == e.mask && x.2.prio == e.prio) =
      some (i, x)) :
    s.strRemove q e =
      ((s.sClear i).strFinish q i (if x.keep then some (.invalidate (s.logIdx i)) else none)).raStale e.region := by
  simp only [State.strRemove, h]

theorem State.coreSearch_answers {s u : State} {c : CpuId} {r : Region} {key : BitVec 160} {a : SAns}
    (hkey : key = keyOf ((finList 5).map (fun k => BitVec.ofNat 32 (s.rd (STR_KEY c k)))))
    (h : (if r = .c then (SAns.busy, s) else s.strSearch r key) = (a, u)) :
    s.coreSearch c r = u.wrs [(STR_SSTAT_STATE c, if a.isBusy then 3 else 2), (STR_SRES c, a.result.toNat),
      (STR_SIDX c, (a.idxWord s.tick.frame).toNat)] := by
  subst hkey
  simp only [State.coreSearch, State.strAsk, h]

/-! ## Waiting updates and moves (R351, R357, R358, R367) -/

section
variable {s w : State} {u : SUpd} (hwait : s.str.wait = [u]) (hupd : s.strUpd u.ent.region = true) (hinval : u.inval = false)
  {i : Nat} (hins : s.strInsert u true = (.done i, w))
include hwait hupd hinval hins

/-- The one update that waits is placed in its turn. -/
theorem State.insertResume_placed :
    s.insertResume = { w with str := { w.str with wait := w.str.wait.erase u } }.strBusy u.req := by
  have hturn : s.updTurn u = true := by simp [State.updTurn, hupd, hwait]
  simp only [State.insertResume, hwait, List.foldl_cons, List.foldl_nil, hturn, if_true, State.updTry, hinval, hins,
    Bool.false_eq_true, if_false]

/-- A core's own update is none of the Vault's: no command of the Vault fails by it. -/
theorem State.vResume_core {d : CpuId} (hcore : u.req = .cpu d) :
    s.vResume = ({ w with str := { w.str with wait := w.str.wait.erase u } }.strBusy u.req).vSettle := by
  have hresumed := State.insertResume_placed hwait hupd hinval hins
  have hnone : s.str.wait.filter (fun v => decide (v.req = SReq.vault) && !v.inval && !s.insertResume.str.wait.contains v &&
      !s.insertResume.kPlaced v.ent) = [] := by
    simp [hwait, hcore]
  simp only [State.vResume, hnone, List.any_nil, Bool.false_and, Bool.false_eq_true, if_false, List.map_id']
  rw [← hresumed]

end

theorem State.moveSteps_one {s u : State} (hphase : s.tick.phase = .slack) (hbudget : s.str.slots < s.moveBudget)
    (hstep : s.moveStep = some u) :
    State.moveSteps 1 s = { u with str := { u.str with slots := u.str.slots + 1 } } := by
  simp only [State.moveSteps, if_pos (And.intro hphase hbudget), hstep]

/-- Settles O45: a core's update is its region's or refused, behind another or first; a search, a waiting insert and a move by their
own functions. -/
theorem storeRoomActs : Obligations.StoreRoomActs := by
  unfold Obligations.StoreRoomActs
  intro s t c e p ht he hp
  refine ⟨?first, ?behind, ?foreign, ?search, ?resume, ?move⟩
  case first =>
    intro hrun hwriter hupd hfree
    have hfirst (first inval : Bool) : t.str.wait.any (SUpd.follows ⟨.cpu c, e, first, inval⟩) = false :=
      (SUpd.any_follows _ _).trans hfree
    have hwrite {w : State} (h : t.strUpdate ⟨.cpu c, e, p, false⟩ = w) : exec (.strWrite c) s = .next w :=
      State.next_byCore hrun ht ((State.coreUpdate_own he hwriter true).trans (hp ▸ h))
    refine ⟨fun i u h => hwrite (State.strUpdate_done hwriter hupd (hfirst _ _) rfl h),
      fun k u h => hwrite (State.strUpdate_refused hwriter hupd (hfirst _ _) rfl h),
      fun u h => hwrite (State.strUpdate_waits hwriter hupd (hfirst _ _) rfl h), fun i x hfind => ?_⟩
    refine State.next_byCore hrun ht ((State.coreUpdate_own he hwriter false).trans ?_)
    exact (State.strUpdate_invalidate hwriter hupd (hfirst _ _) rfl).trans (State.strRemove_found hfind)
  case behind =>
    intro hrun hwriter hupd hwait
    have hbehind (first inval : Bool) : t.str.wait.any (SUpd.follows ⟨.cpu c, e, first, inval⟩) = true :=
      (SUpd.any_follows _ _).trans hwait
    refine ⟨State.next_byCore hrun ht ((State.coreUpdate_own he hwriter true).trans ?_),
      State.next_byCore hrun ht ((State.coreUpdate_own he hwriter false).trans ?_)⟩
    · rw [← hp]
      exact State.strUpdate_behind hwriter hupd (hbehind _ _)
    · exact State.strUpdate_behind hwriter hupd (hbehind _ _)
  case foreign =>
    exact fun hrun hwriter hfree => ⟨State.next_byCore hrun ht (State.coreUpdate_foreign he hwriter hfree true),
      State.next_byCore hrun ht (State.coreUpdate_foreign he hwriter hfree false)⟩
  case search => exact fun r key a u hrun hkey h => State.next_byCore hrun ht (State.coreSearch_answers hkey h)
  case resume =>
    intro u d i w hwait hupd hcore hinval hins
    rw [← hcore]
    exact congrArg (fun s : State => Host.Outcome.next s.vNext) (State.vResume_core hwait hupd hinval hins hcore)
  case move => exact fun u hphase hbudget hstep => congrArg _ (State.moveSteps_one hphase hbudget hstep)

end Sys2Proof.Machine
/-! ## Block by block: the hashes, AES and its modes (R400, R402) -/

namespace Sys2Proof.Machine

/-! ### Hashes -/

theorem Hash.block_pos (h : Hash) : 0 < h.block := by cases h <;> decide

/-- Whole blocks of a first part are taken in before those of the rest. -/
theorem Hash.absorb_append (h : Hash) (b : Nat) (m2 : List Byte) :
    ∀ (a : Nat) (v : List Nat) (m1 : List Byte), m1.length = a * h.block →
      h.absorb (a + b) v (m1 ++ m2) = h.absorb b (h.absorb a v m1) m2
  | 0, v, m1, hlen => by
    have hnil : m1 = [] := List.eq_nil_of_length_eq_zero (by simpa using hlen)
    simp [hnil, Hash.absorb]
  | a + 1, v, m1, hlen => by
    have hle : h.block ≤ m1.length := by rw [hlen, Nat.succ_mul]; exact Nat.le_add_left _ _
    have hdrop : (m1.drop h.block).length = a * h.block := by
      rw [List.length_drop, hlen, Nat.succ_mul, Nat.add_sub_cancel]
    rw [show a + 1 + b = a + b + 1 by omega, Hash.absorb, Hash.absorb, List.take_append_of_le_length hle,
      List.drop_append_of_le_length hle, Hash.absorb_append h b m2 a _ _ hdrop]

/-- A first part of whole blocks may be hashed beforehand (R402). -/
theorem Hash.finish_append (h : Hash) (v : List Nat) (done : Nat) {m1 : List Byte} (m2 : List Byte)
    (hwhole : m1.length % h.block = 0) :
    h.finish (h.absorb (m1.length / h.block) v m1) (done + m1.length) m2 = h.finish v done (m1 ++ m2) := by
  have hlen : m1.length = m1.length / h.block * h.block := by have := Nat.div_add_mod' m1.length h.block; omega
  let rest := m2 ++ h.pad (done + m1.length + m2.length)
  have hblocks : (m1 ++ rest).length / h.block = m1.length / h.block + rest.length / h.block := by
    rw [List.length_append, Nat.add_div_of_dvd_right (Nat.dvd_of_mod_eq_zero hwhole)]
  have hall : m1 ++ m2 ++ h.pad (done + (m1 ++ m2).length) = m1 ++ rest := by
    rw [List.length_append, ← Nat.add_assoc, List.append_assoc]
  simp only [Hash.finish]
  rw [hall, hblocks, Hash.absorb_append h _ rest _ v m1 hlen]

theorem Hash.length_digest_le (h : Hash) (m : List Byte) : (h.digest m).length ≤ h.block :=
  (List.length_take_le _ _).trans (by cases h <;> decide)

@[simp] theorem Hash.length_keyBlock (h : Hash) (key : List Byte) : (h.keyBlock key).length = h.block := by
  have hfits : (if h.block < key.length then h.digest key else key).length ≤ h.block := by
    split
    · exact h.length_digest_le key
    · omega
  simp only [Hash.keyBlock, List.length_append, List.length_replicate]
  omega

@[simp] theorem Hash.length_ipad (h : Hash) (key : List Byte) : (h.ipad key).length = h.block := by simp [Hash.ipad]

/-- HMAC's inner hash goes on from the block of the padded key. -/
theorem Hash.finish_ipad (h : Hash) (key msg : List Byte) :
    h.finish (h.compress h.init (h.ipad key)) h.block msg = h.digest (h.ipad key ++ msg) := by
  have hone : h.absorb 1 h.init (h.ipad key) = h.compress h.init (h.ipad key) := by
    rw [Hash.absorb, Hash.absorb, ← h.length_ipad key, List.take_length]
  have hparts := h.finish_append h.init 0 (m1 := h.ipad key) msg (by simp)
  rwa [h.length_ipad, Nat.div_self h.block_pos, Nat.zero_add, hone] at hparts

/-! ### Blocks of 16 bytes -/

@[simp] theorem blocks16_nil : blocks16 [] = [] := rfl

theorem blocksFuel_nil (n : Nat) : blocksFuel n [] = [] := by cases n <;> rfl

theorem blocks16_of_ne_nil {l : List Byte} (h : l ≠ []) : blocks16 l = l.take 16 :: blocks16 (l.drop 16) := by
  have hfuel : blocksFuel (l.length / 16) (l.drop 16) = blocks16 (l.drop 16) := by
    by_cases hshort : l.length < 16
    · rw [List.drop_eq_nil_of_le hshort.le, blocksFuel_nil, blocks16_nil]
    · rw [blocks16, List.length_drop, show (l.length - 16) / 16 + 1 = l.length / 16 by omega]
  rw [blocks16, blocksFuel, if_neg (by simpa using h), hfuel]

/-- A list that starts with a block, or is no longer than one. -/
theorem blocks16_block_append {b l : List Byte} (hne : b ≠ []) (htake : b.length = 16 ∨ b.length ≤ 16 ∧ l = []) :
    blocks16 (b ++ l) = b :: blocks16 l := by
  have hle : b.length ≤ 16 := by omega
  have hrest : (b ++ l).take 16 = b ∧ (b ++ l).drop 16 = l := by
    obtain hfull | ⟨-, rfl⟩ := htake
    · exact ⟨List.take_left' hfull, List.drop_left' hfull⟩
    · simp [hle]
  rw [blocks16_of_ne_nil (by simp [hne]), hrest.1, hrest.2]

/-- Whole blocks are cut before the rest. -/
theorem blocks16_append (b : List Byte) : ∀ (k : Nat) (a : List Byte), a.length = 16 * k →
    blocks16 (a ++ b) = blocks16 a ++ blocks16 b
  | 0, a, h => by simp [List.eq_nil_of_length_eq_zero h]
  | k + 1, a, h => by
    have hne : a ≠ [] := List.ne_nil_of_length_pos (by omega)
    have hle : 16 ≤ a.length := by omega
    rw [blocks16_of_ne_nil hne, blocks16_of_ne_nil (List.append_ne_nil_of_left_ne_nil hne b),
      List.take_append_of_le_length hle, List.drop_append_of_le_length hle,
      blocks16_append b k (a.drop 16) (by rw [List.length_drop]; omega), List.cons_append]

/-- Every block of a whole number of blocks is full. -/
theorem length_of_mem_blocks16 : ∀ (k : Nat) (a : List Byte), a.length = 16 * k → ∀ x ∈ blocks16 a, x.length = 16
  | 0, a, h, x, hx => by simp [List.eq_nil_of_length_eq_zero h] at hx
  | k + 1, a, h, x, hx => by
    rw [blocks16_of_ne_nil (List.ne_nil_of_length_pos (by omega)), List.mem_cons] at hx
    obtain rfl | hx := hx
    · rw [List.length_take]; omega
    · exact length_of_mem_blocks16 k (a.drop 16) (by rw [List.length_drop]; omega) x hx

/-- The blocks of a message whose first part is whole: all but the last of the first part, and those of its last block with the
rest. -/
theorem blocks16_held {a : List Byte} (b : List Byte) (hwhole : a.length % 16 = 0) :
    blocks16 (a ++ b) = (blocks16 a).dropLast ++ blocks16 ((blocks16 a).getLastD [] ++ b) := by
  have hlen : a.length = 16 * (a.length / 16) := by omega
  rw [blocks16_append b _ a hlen]
  obtain hnil | ⟨init, last, hcut⟩ := (blocks16 a).eq_nil_or_concat
  · simp [hnil]
  · have hfull : last.length = 16 := length_of_mem_blocks16 _ a hlen last (by simp [hcut])
    have hne : last ≠ [] := List.ne_nil_of_length_pos (by omega)
    simp [hcut, blocks16_block_append hne (Or.inl hfull)]

theorem cmacChain_append (key x : List Byte) (bs cs : List (List Byte)) :
    cmacChain key x (bs ++ cs) = cmacChain key (cmacChain key x bs) cs := List.foldl_append

/-- CMAC over the blocks of a message in two parts, the first of whole blocks of which the last is held back (R400). -/
theorem cmacLast_held (key x : List Byte) (bs cs : List (List Byte)) (h : cs = [] → bs = []) :
    cmacLast key (cmacChain key (cmacChain key x bs) cs.dropLast) (cs.getLastD []) =
      cmacLast key (cmacChain key x (bs ++ cs).dropLast) ((bs ++ cs).getLastD []) := by
  obtain rfl | ⟨init, last, rfl⟩ := cs.eq_nil_or_concat
  · simp [h rfl, cmacChain]
  · rw [← cmacChain_append, List.dropLast_append_of_ne_nil (by simp)]
    simp

/-! ### AES -/

@[simp] theorem length_xorB (a b : List Byte) : (xorB a b).length = min a.length b.length := List.length_zipWith

/-- A mask at least as long as what it hides is taken off again. -/
theorem xorB_xorB : ∀ {a k : List Byte}, a.length ≤ k.length → xorB (xorB a k) k = a
  | [], _, _ => rfl
  | _ :: _, [], h => absurd h (by simp)
  | x :: a, y :: k, h => by
    have htail : xorB (xorB a k) k = a := xorB_xorB (by simpa using h)
    simpa [xorB, BitVec.xor_assoc] using htail

@[simp] theorem length_shiftRows (l : List Byte) : (shiftRows l).length = 16 := rfl

/-- Every word of a key schedule has four bytes. -/
def FourBytes (ws : List (List Byte)) : Prop := ∀ w ∈ ws, w.length = 4

theorem FourBytes.getD {ws : List (List Byte)} (h : FourBytes ws) {i : Nat} (hi : i < ws.length) : (ws.getD i []).length = 4 := by
  rw [List.getD_eq_getElem _ _ hi]
  exact h _ (List.getElem_mem hi)

theorem length_aesNextWord {nk i : Nat} {rcon : Byte} {ws : List (List Byte)} (h : FourBytes ws) (hnk : 0 < nk)
    (hlen : nk ≤ ws.length) : (aesNextWord nk i rcon ws).length = 4 := by
  have hnew : (ws.getD 0 []).length = 4 := h.getD (by omega)
  have hold : (ws.getD (nk - 1) []).length = 4 := h.getD (by omega)
  simp only [aesNextWord, length_xorB, hold]
  split
  · simp only [List.length_cons, List.length_drop, List.length_map, List.length_append, List.length_take, hnew]; rfl
  · split
    · rw [List.length_map, hnew]; rfl
    · rw [hnew]; rfl

theorem aesExpand_words {nk : Nat} (hnk : 0 < nk) : ∀ (n i : Nat) (rcon : Byte) (ws : List (List Byte)), FourBytes ws →
    nk ≤ ws.length → FourBytes (aesExpand nk n i rcon ws) ∧ (aesExpand nk n i rcon ws).length = ws.length + n
  | 0, _, _, ws, h, _ => ⟨h, rfl⟩
  | n + 1, i, rcon, ws, h, hlen => by
    have hnext : FourBytes (aesNextWord nk i rcon ws :: ws) := by
      rintro w (_ | ⟨_, hw⟩)
      · exact length_aesNextWord h hnk hlen
      · exact h w hw
    obtain ⟨hfour, hcount⟩ := aesExpand_words hnk n (i + 1) (if i % nk = 0 then xtime rcon else rcon) _ hnext
      (hlen.trans (Nat.le_succ _))
    exact ⟨hfour, hcount.trans (by rw [List.length_cons]; omega)⟩

theorem keyWords_words : ∀ (n : Nat) (l : List Byte), l.length = 4 * n → FourBytes (keyWords n l) ∧ (keyWords n l).length = n
  | 0, _, _ => ⟨(fun _ h => nomatch h), rfl⟩
  | n + 1, l, h => by
    obtain ⟨hfour, hcount⟩ := keyWords_words n (l.drop 4) (by rw [List.length_drop]; omega)
    refine ⟨?_, congrArg Nat.succ hcount⟩
    rintro w (_ | ⟨_, hw⟩)
    · rw [List.length_take]; omega
    · exact hfour w hw

theorem FourBytes.length_flatten : ∀ {ws : List (List Byte)}, FourBytes ws → ws.flatten.length = 4 * ws.length
  | [], _ => rfl
  | w :: ws, h => by
    have hw : w.length = 4 := h w (by simp)
    have hws : FourBytes ws := fun x hx => h x (by simp [hx])
    rw [List.flatten_cons, List.length_append, hws.length_flatten, hw, List.length_cons]
    omega

/-- A round key of a key of whole words has 16 bytes. -/
theorem length_aesRoundKey {key : List Byte} {nk r : Nat} (hkey : key.length = 4 * nk) (hnk : 0 < nk) (hr : r < nk + 7) :
    ((aesRoundKeys key).getD r []).length = 16 := by
  obtain ⟨hfour, hcount⟩ := keyWords_words nk key hkey
  have hrev : FourBytes (keyWords nk key).reverse := fun w hw => hfour w (List.mem_reverse.1 hw)
  obtain ⟨hwords, htotal⟩ := aesExpand_words hnk (4 * (nk + 7) - nk) nk 1 (keyWords nk key).reverse hrev
    (by rw [List.length_reverse, hcount])
  rw [List.length_reverse, hcount] at htotal
  rw [aesRoundKeys, show key.length / 4 = nk by omega, List.getD_eq_getElem _ _ (by simpa using hr), List.getElem_map,
    List.getElem_range]
  have hround : FourBytes (((aesExpand nk (4 * (nk + 7) - nk) nk 1 (keyWords nk key).reverse).reverse.drop (4 * r)).take 4) :=
    fun w hw => hwords w (List.mem_reverse.1 (List.mem_of_mem_drop (List.mem_of_mem_take hw)))
  rw [hround.length_flatten, List.length_take, List.length_drop, List.length_reverse, htotal]
  omega

/-- A block encrypted is a block. -/
theorem length_aesEnc {key : List Byte} (hkey : key.length = 16 ∨ key.length = 24 ∨ key.length = 32) (b : List Byte) :
    (aesEnc key b).length = 16 := by
  have hlast : (aesRoundKeys key).length - 1 = key.length / 4 + 6 := by simp [aesRoundKeys]
  simp only [aesEnc, hlast, length_xorB, length_shiftRows]
  rw [length_aesRoundKey (nk := key.length / 4) (by omega) (by omega) (by omega)]
  rfl

/-! ### Counter mode -/

theorem length_leBytes : ∀ n v, (leBytes n v).length = n
  | 0, _ => rfl
  | n + 1, v => congrArg Nat.succ (length_leBytes n (v / 256))

@[simp] theorem length_beBytes (n v : Nat) : (beBytes n v).length = n := by rw [beBytes, List.length_reverse, length_leBytes]

theorem length_incBlock {n : Nat} {b : List Byte} (hn : n ≤ 16) (hb : b.length = 16) : (incBlock n b).length = 16 := by
  simp only [incBlock, List.length_append, List.length_take, length_beBytes, hb]
  omega

/-- The text that counter mode makes of blocks from a counter block on. -/
def ctrBlocks (n : Nat) (key : List Byte) : List Byte → List (List Byte) → List Byte
  | _, [] => []
  | c, b :: bs => xorB b (aesEnc key c) ++ ctrBlocks n key (incBlock n c) bs

theorem foldl_ctr (n : Nat) (key : List Byte) : ∀ (bs : List (List Byte)) (acc c : List Byte),
    (bs.foldl (fun (x : List Byte × List Byte) b => (x.1 ++ xorB b (aesEnc key x.2), incBlock n x.2)) (acc, c)).1 =
      acc ++ ctrBlocks n key c bs
  | [], acc, c => by simp [ctrBlocks]
  | b :: bs, acc, c => by rw [List.foldl_cons, foldl_ctr n key bs, ctrBlocks, List.append_assoc]

theorem ctrMode_text (n : Nat) (key cb m : List Byte) : (ctrMode n key cb m).1 = ctrBlocks n key cb (blocks16 m) :=
  foldl_ctr n key (blocks16 m) [] cb

/-- Counter mode is its own inverse (R400). -/
theorem ctrBlocks_ctrBlocks {n : Nat} {key : List Byte} (hkey : key.length = 16 ∨ key.length = 24 ∨ key.length = 32) (hn : n ≤ 16) :
    ∀ (k : Nat) (c m : List Byte), c.length = 16 → m.length ≤ 16 * k →
      ctrBlocks n key c (blocks16 (ctrBlocks n key c (blocks16 m))) = m
  | 0, c, m, _, hm => by simp [List.eq_nil_of_length_eq_zero (Nat.le_zero.1 hm), ctrBlocks]
  | k + 1, c, m, hc, hm => by
    by_cases hnil : m = []
    · simp [hnil, ctrBlocks]
    have hpos : 0 < m.length := List.length_pos_iff.2 hnil
    have henc : (aesEnc key c).length = 16 := length_aesEnc hkey c
    have hhead : (xorB (m.take 16) (aesEnc key c)).length = min 16 m.length := by
      rw [length_xorB, henc, List.length_take]; omega
    have hcut : blocks16 (ctrBlocks n key c (blocks16 m)) =
        xorB (m.take 16) (aesEnc key c) :: blocks16 (ctrBlocks n key (incBlock n c) (blocks16 (m.drop 16))) := by
      rw [blocks16_of_ne_nil hnil, ctrBlocks]
      refine blocks16_block_append (List.ne_nil_of_length_pos (by omega)) ?_
      by_cases hlong : 16 ≤ m.length
      · exact Or.inl (by omega)
      · exact Or.inr ⟨by omega, by rw [List.drop_eq_nil_of_le (by omega)]; rfl⟩
    rw [hcut, ctrBlocks, xorB_xorB (by rw [henc, List.length_take]; omega),
      ctrBlocks_ctrBlocks hkey hn k _ _ (length_incBlock hn hc) (by rw [List.length_drop]; omega), List.take_append_drop]

/-- Settles O59: whole blocks go into a hash or a CMAC in the same order in one part as in two, and a keystream block that is
added twice cancels. -/
theorem messagesInParts : Obligations.MessagesInParts := by
  refine ⟨fun h v done m1 m2 hwhole => h.finish_append v done m2 hwhole, fun h => h.finish_ipad, ?_, ?_⟩
  · rintro key x m1 m2 bs cs ds hwhole rfl rfl rfl
    rw [blocks16_held m2 hwhole]
    refine cmacLast_held key x _ _ fun hcs => ?_
    have hempty : (blocks16 m1).getLastD [] ++ m2 = [] := by
      by_contra hne
      rw [blocks16_of_ne_nil hne] at hcs
      exact absurd hcs (by simp)
    obtain hnil | ⟨init, last, hcut⟩ := (blocks16 m1).eq_nil_or_concat
    · simp [hnil]
    · have hfull := length_of_mem_blocks16 (m1.length / 16) m1 (by omega) last (by simp [hcut])
      simp [hcut] at hempty
      simp [hempty.1] at hfull
  · intro n key cb m hkey hcb hn
    rw [ctrMode_text, ctrMode_text]
    exact ctrBlocks_ctrBlocks hkey hn m.length cb m hcb (by omega)

end Sys2Proof.Machine
/-! ## The end of a public-key operation, its contexts and its shelves (R370 to R375, R385, R393) -/

namespace Sys2Proof.Machine

section
variable {s : State} {o : PkeOp}

theorem State.pkeComplete_served {r : EngReq} (hof : s.pkeOf r = some o)
    (hhead : (s.pkeHead (o.spipe && !o.handed)).map PkeOp.id = some o.id) (fault : Bool) :
    s.pkeComplete r fault = s.pkeRelease o fault := by
  rw [State.pkeComplete, hof]
  exact if_pos hhead

section
variable (hends : o.ends = none) (fault : Bool)
include hends

theorem State.pkeRelease_result (hpipe : o.spipe = false) (hcode : o.code ≠ 2) :
    s.pkeRelease o fault = (o.out.foldl (fun s e => s.putBytes (shelfBase + e.1) e.2) s).pkeLeave o o.code 0 o.cmp := by
  simp only [State.pkeRelease, hends, hpipe, Bool.false_eq_true, if_false, if_neg hcode]

theorem State.pkeRelease_pointInv (hpipe : o.spipe = false) (hcode : o.code = 2) :
    s.pkeRelease o fault = (s.pkeLeave o 2 0 0).bump PKE_CNT_POINTINV := by
  simp only [State.pkeRelease, hends, hpipe, Bool.false_eq_true, if_false, if_pos hcode]

theorem State.pkeRelease_handOff (hpipe : o.spipe = true) (hhanded : o.handed = false) :
    s.pkeRelease o fault = s.pkeHandOff o fault := by
  simp only [State.pkeRelease, hends, hpipe, hhanded, Bool.false_eq_true, if_true, if_false]

theorem State.pkeRelease_check (hpipe : o.spipe = true) (hhanded : o.handed = true) :
    s.pkeRelease o fault = s.pkeCheck o fault := by
  simp only [State.pkeRelease, hends, hpipe, hhanded, if_true]

end

theorem State.pkeCandidate_eq {z : Fin 8} {cv : Curve} {x : Option (Nat × Nat)} {v : State} (hctx : o.ctx = some z)
    (hcurve : Curve.ofCode o.args.curve.toNat = some cv)
    (hx : (x, v) = if o.op = 0x10 then State.zSignRun z cv o.digest 8 s else (s.zMul z cv, s)) (fault : Bool) :
    s.pkeCandidate o fault = (if fault then none else x, v) := by
  simp only [State.pkeCandidate, hctx, hcurve, ← hx]

/-- The entry of the public point of an operation's key. -/
def State.pkePair (s : State) (o : PkeOp) : Nat := match o.key with | some k => (s.vEnt k.1).pair.toNat | none => 0

section
variable {x : Option (Nat × Nat)} {fault ok : Bool} {v w : State} (hcand : s.pkeCandidate o fault = (x, v))
  (huse : (ok, false, w) = if o.op = 0x10 then v.vUseEntry (v.pkePair o) else (true, false, v))
include hcand huse

/-- The candidate stands in the working RAM, beside the public point that the check needs. -/
theorem State.pkeHandOff_passes (hok : ok = true) : s.pkeHandOff o fault =
    ({ w with eng := { w.eng with work := w.eng.work ++
        [(⟨o.id, x, if o.op = 0x10 then some (w.vPoint (v.pkePair o)) else none⟩ : HandOff)] } }.pkeUpd o.id
      (fun o => { o with handed := true, parked := true })).pkeStates := by
  subst hok
  cases hkey : o.key with
  | none | some _ =>
    simp only [State.pkePair, hkey] at huse ⊢
    simp only [State.pkeHandOff, hcand, hkey, ← huse, Bool.not_true, Bool.false_eq_true, if_false]

theorem State.pkeHandOff_corrupt (hok : ok = false) : s.pkeHandOff o fault = w.pkeLeave o 4 4 0 := by
  subst hok
  cases hkey : o.key with
  | none | some _ =>
    simp only [State.pkePair, hkey] at huse
    simp only [State.pkeHandOff, hcand, hkey, ← huse, Bool.not_false, Bool.false_eq_true, if_true, if_false]

end

section
variable {h : HandOff} {cv : Curve} {fault : Bool} (hwork : s.eng.work.find? (fun h => decide (h.id = o.id)) = some h)
  (hcurve : Curve.ofCode o.args.curve.toNat = some cv)
include hwork hcurve

theorem State.pkeCheck_fails (hfail : fault = true ∨ h.ok cv o.op o.digest = false) : s.pkeCheck o fault = s.pkeFault o := by
  have hnot : (fault || !h.ok cv o.op o.digest) = true := by obtain rfl | hbad := hfail <;> simp_all
  simp only [State.pkeCheck, hwork, hcurve, hnot, if_true]

section
variable (hfault : fault = false) (hok : h.ok cv o.op o.digest = true)
include hfault hok

theorem State.pkeCheck_changed {k : Nat × BitVec 16} (hkey : o.key = some k) (hstill : s.vStill k = false) :
    s.pkeCheck o fault = s.pkeLeave o 4 3 0 := by
  simp only [State.pkeCheck, hwork, hcurve, hfault, hok, hkey, hstill, Bool.not_true, Bool.not_false, Bool.or_self,
    Bool.false_eq_true, if_true, if_false]

variable (hstill : ∀ k, o.key = some k → s.vStill k = true) {x : Nat × Nat} (hcand : h.cand = some x)
include hstill hcand

/-- What passes its check is released to its requester. -/
theorem State.pkeCheck_released (hreq : ∀ a, o.req ≠ .vault a) : s.pkeCheck o fault =
    ((s.pkeProgOut o cv x).foldl (fun s e => s.putBytes (shelfBase + e.1) e.2) s).pkeLeave o 0 0 0 := by
  cases hkey : o.key with
  | none => simp [State.pkeCheck, hwork, hcurve, hfault, hok, hkey, hcand]
  | some k => simp [State.pkeCheck, hwork, hcurve, hfault, hok, hkey, hstill k hkey, hcand]

/-- A new key pair that passes its check goes to the Vault. -/
theorem State.pkeCheck_keyPair {a : Agent} {z : Fin 8} (hreq : o.req = .vault a) (hctx : o.ctx = some z) :
    s.pkeCheck o fault = (s.pkeDrop o).pkeStates.vGenDone a (s.zScalar z) x.1 x.2 := by
  cases hkey : o.key with
  | none => simp [State.pkeCheck, hwork, hcurve, hfault, hok, hkey, hcand, hreq, hctx]
  | some k => simp [State.pkeCheck, hwork, hcurve, hfault, hok, hkey, hstill k hkey, hcand, hreq, hctx]

end
end
end

section
variable {s : State} {i : Fin 4096} (hin : 4 * i.val < s.shelfCount * s.shelfBytes)
include hin

theorem State.shelfStore_idle (hbusy : s.shelfBusy (4 * i.val) = false) (w : Word) :
    s.shelfStore i w = s.putW (shelfBase + 4 * i.val) w := by
  simp only [State.shelfStore, if_neg (Nat.not_le.2 hin), hbusy, Bool.false_eq_true, if_false]

theorem State.shelfStore_busy (hbusy : s.shelfBusy (4 * i.val) = true) (w : Word) :
    s.shelfStore i w = (s.setb PKE_ERR_SHELF).misuse := by
  simp only [State.shelfStore, if_neg (Nat.not_le.2 hin), hbusy, if_true]

end

/-- The length that waits alone is taken, and nothing is left to wait. -/
theorem State.shelfLenCommit_alone {s : State} {e : ShadowWrite} (hempty : s.eng.pke = []) (hshadow : s.shadow = [e])
    (hlen : e.fld = PKE_SHELFCFG_LEN) : s.shelfLenCommit = { s.wr PKE_SHELFCFG_LEN e.val.toNat with
      shadow := [], eng := { s.eng with lenDue := false } }.wr PKE_STAT_SHELFPEND 0 := by
  simp [State.shelfLenCommit, hempty, hshadow, hlen]

theorem State.shelfLenEdge_off {s : State} (h : s.eng.lenDue = false ∨ s.tick.phase ≠ .harvest) : s.shelfLenEdge = s := by
  refine if_neg fun hdue => ?_
  obtain ⟨hlen, hphase, -⟩ := hdue
  exact h.elim (fun hno => by rw [hno] at hlen; cases hlen) (fun hne => hne hphase)

/-- Settles O48: the pipe that serves the operation ends its part, and each part's end is the branch of the release that its
pipe, its code and its check choose. -/
theorem pkeEndsAct : Obligations.PkeEndsAct := by
  unfold Obligations.PkeEndsAct
  intro s c
  refine ⟨?ends, ?abort, ?claim, ?store, ?length, fun hidle => congrArg Host.Outcome.next (State.shelfLenEdge_off hidle)⟩
  case ends =>
    intro r o fault hof hhead hends
    have hexec {u : State} (h : s.pkeRelease o fault = u) : exec (.pkeOpComplete r fault) s = .next u.vNext := by
      rw [← h, ← State.pkeComplete_served hof hhead fault]
      rfl
    refine ⟨fun hp hc => hexec (State.pkeRelease_result hends fault hp hc),
      fun hp hc => hexec (State.pkeRelease_pointInv hends fault hp hc), ?handOff, ?check⟩
    case handOff =>
      intro z cv x v ok w h hp hh hctx hcurve hx huse hwork
      have hcand := State.pkeCandidate_eq hctx hcurve hx fault
      subst hwork
      exact ⟨fun hok => hexec ((State.pkeRelease_handOff hends fault hp hh).trans (State.pkeHandOff_passes hcand huse hok)),
        fun hok => hexec ((State.pkeRelease_handOff hends fault hp hh).trans (State.pkeHandOff_corrupt hcand huse hok))⟩
    case check =>
      intro h cv hp hh hwork hcurve
      have hcheck {u : State} (hu : s.pkeCheck o fault = u) := hexec ((State.pkeRelease_check hends fault hp hh).trans hu)
      exact ⟨fun hfail => hcheck (State.pkeCheck_fails hwork hcurve hfail),
        fun k hf hok hkey hstill => hcheck (State.pkeCheck_changed hwork hcurve hf hok hkey hstill),
        fun x hf hok hstill hcand hreq => hcheck (State.pkeCheck_released hwork hcurve hf hok hstill hcand hreq),
        fun x a z hf hok hstill hcand hreq hctx => hcheck (State.pkeCheck_keyPair hwork hcurve hf hok hstill hcand hreq hctx)⟩
  case abort => exact fun t hrun ht => State.next_byCore hrun ht rfl
  case claim =>
    intro o k hwaits hfree
    refine congrArg Host.Outcome.next ?_
    rw [State.pkeClaim, hwaits, hfree]
    rfl
  case store =>
    exact fun i w t hrun ht hin => ⟨fun hb => State.next_byCore hrun ht (State.shelfStore_idle hin hb w),
      fun hb => State.next_byCore hrun ht (State.shelfStore_busy hin hb w)⟩
  case length =>
    intro e hempty hshadow hlen hdue hphase hrunning
    exact congrArg Host.Outcome.next ((if_pos ⟨hdue, hphase, hrunning⟩).trans (State.shelfLenCommit_alone hempty hshadow hlen))

end Sys2Proof.Machine
/-! ## Modular powers and inverses (R379) -/

namespace Sys2Proof.Machine

theorem powFuel_eq (m : Nat) : ∀ (f a e acc : Nat), e < 2 ^ f → powFuel f a e m acc = acc * a ^ e % m
  | 0, a, e, acc, h => by
    obtain rfl : e = 0 := by omega
    simp [powFuel]
  | f + 1, a, e, acc, h => by
    have hhalf : e / 2 < 2 ^ f := by omega
    by_cases hzero : e = 0
    · simp [powFuel, hzero]
    have hsplit : a ^ e = a ^ (e % 2) * (a * a) ^ (e / 2) := by
      rw [← pow_two, ← pow_mul, ← pow_add, Nat.mod_add_div]
    rw [powFuel, if_neg hzero, powFuel_eq m f _ _ _ hhalf, hsplit]
    split
    next hodd =>
      rw [hodd, pow_one, ← mul_assoc]
      exact ((Nat.mod_modEq _ m).mul ((Nat.mod_modEq _ m).pow _) : _ ≡ _ [MOD m])
    next heven =>
      rw [show e % 2 = 0 by omega, pow_zero, one_mul]
      exact ((Nat.ModEq.refl acc).mul ((Nat.mod_modEq _ m).pow _) : _ ≡ _ [MOD m])

theorem powMod_eq (a e m : Nat) : powMod a e m = a ^ e % m := by
  rw [powMod, powFuel_eq m _ _ _ _ Nat.lt_log2_self, one_mul]
  exact ((Nat.mod_modEq a m).pow e : _ ≡ _ [MOD m])

/-- Two steps of Euclid's algorithm halve the second number, so `2 * k + 1` steps end it where that one is below `2 ^ k`. -/
theorem egcd_fst : ∀ (k a b f : Nat) (x y : Int), b < 2 ^ k → 2 * k + 1 ≤ f → (egcd f a b x y).1 = Nat.gcd a b
  | 0, a, b, f + 1, x, y, hb, _ => by
    obtain rfl : b = 0 := by omega
    simp [egcd]
  | k + 1, a, b, f + 2, x, y, hb, hf => by
    by_cases hzero : b = 0
    · simp [egcd, hzero]
    have hpos : 0 < b := Nat.pos_of_ne_zero hzero
    rw [egcd, if_neg hzero, Nat.gcd_comm, Nat.gcd_rec]
    by_cases hrem : a % b = 0
    · simp [egcd, hrem]
    have hhalf : b % (a % b) < 2 ^ k := by
      have hlt : b % (a % b) < a % b := Nat.mod_lt _ (Nat.pos_of_ne_zero hrem)
      have hle : a % b ≤ b := (Nat.mod_lt a hpos).le
      have hsum := Nat.div_add_mod b (a % b)
      have hquot : a % b * 1 ≤ a % b * (b / (a % b)) := Nat.mul_le_mul_left _ (Nat.div_pos hle (Nat.pos_of_ne_zero hrem))
      omega
    rw [egcd, if_neg hrem, egcd_fst k _ _ f _ _ hhalf (by omega), Nat.gcd_comm, ← Nat.gcd_rec]

/-- What Euclid's algorithm keeps: either number is its factor times `c`, modulo `m`. -/
theorem egcd_snd (c m : Int) : ∀ (f a b : Nat) (x y : Int), (a : Int) ≡ x * c [ZMOD m] → (b : Int) ≡ y * c [ZMOD m] →
    ((egcd f a b x y).1 : Int) ≡ (egcd f a b x y).2 * c [ZMOD m]
  | 0, _, _, _, _, ha, _ => ha
  | f + 1, a, b, x, y, ha, hb => by
    rw [egcd]
    split
    · exact ha
    · refine egcd_snd c m f b (a % b) y _ hb ?_
      have hrem : ((a % b : Nat) : Int) = a - (a / b : Nat) * b := by
        rw [Int.natCast_mod, Int.natCast_div, Int.emod_def, mul_comm]
      rw [hrem, sub_mul, mul_assoc]
      exact ha.sub (hb.mul_left _)

theorem egcd_gcd (a m : Nat) : (egcd (2 * Nat.log2 m + 4) (a % m) m 1 0).1 = Nat.gcd a m := by
  rw [egcd_fst (Nat.log2 m + 1) _ _ _ _ _ Nat.lt_log2_self (by omega), ← Nat.gcd_rec, Nat.gcd_comm]

theorem invMod_eq_none {a m : Nat} (h : Nat.gcd a m ≠ 1) : invMod a m = none := by
  have hgcd := egcd_gcd a m
  simp only [invMod]
  rw [hgcd, if_neg h]

/-- The inverse is the one number below the modulus whose product with `a` is 1. -/
theorem invMod_eq_some {a m v : Nat} (hm : 1 < m) (hv : v < m) (hmul : a * v % m = 1) : invMod a m = some v := by
  have hcop : Nat.gcd a m = 1 := by
    have hone : a * v ≡ 1 [MOD m] := by rw [Nat.ModEq, hmul, Nat.mod_eq_of_lt hm]
    exact Nat.coprime_of_mul_modEq_one v hone
  obtain hkept : (1 : Int) ≡ (egcd (2 * Nat.log2 m + 4) (a % m) m 1 0).2 * a [ZMOD m] := by
    have := egcd_snd a m (2 * Nat.log2 m + 4) (a % m) m 1 0 (by simp [Int.ModEq]) (by simp [Int.ModEq])
    rwa [egcd_gcd, hcop] at this
  have hsame : (egcd (2 * Nat.log2 m + 4) (a % m) m 1 0).2 ≡ v [ZMOD m] := by
    generalize (egcd (2 * Nat.log2 m + 4) (a % m) m 1 0).2 = x at hkept ⊢
    have hone : (a : Int) * v ≡ 1 [ZMOD m] := by
      have : a * v ≡ 1 [MOD m] := by rw [Nat.ModEq, hmul, Nat.mod_eq_of_lt hm]
      exact_mod_cast (Int.natCast_modEq_iff.2 this)
    calc x = x * 1 := (mul_one x).symm
      _ ≡ x * (a * v) [ZMOD m] := hone.symm.mul_left x
      _ = x * a * v := (mul_assoc x a v).symm
      _ ≡ 1 * v [ZMOD m] := hkept.symm.mul_right v
      _ = v := one_mul _
  have hnum : ((egcd (2 * Nat.log2 m + 4) (a % m) m 1 0).2 % (m : Int)).toNat = v := by
    rw [hsame.eq, Int.emod_eq_of_lt (by omega) (by exact_mod_cast hv), Int.toNat_natCast]
  have hgcd := (egcd_gcd a m).trans hcop
  simp only [invMod]
  rw [if_pos hgcd, hnum]

end Sys2Proof.Machine
/-! ## An operation that has the public-key engine to itself (R370, R376) -/

namespace Sys2Proof.Machine

/-! ### The order of service, with one operation -/

/-- An operation that its pipe has not begun to serve: parked, with what the S-pipe needs. -/
def PkeOp.Ready (o : PkeOp) : Prop := o.parked = true ∧ o.handed = false ∧ (o.spipe = true → o.ctx.isSome = true)

theorem PkeOp.Ready.inPipe {o : PkeOp} (h : o.Ready) (sp : Bool) : o.inPipe sp = (o.spipe == sp) := by
  obtain ⟨-, hhanded, hctx⟩ := h
  cases hs : o.spipe with
  | false => simp [PkeOp.inPipe, hs, hhanded]
  | true => simp [PkeOp.inPipe, hs, hhanded, hctx hs]

section
variable {s : State} {o : PkeOp} (hpke : s.eng.pke = [o]) (hready : o.Ready) (hidle : s.reqIdle o.req = false)
include hpke hready hidle

theorem State.pkeHead_alone (sp : Bool) : s.pkeHead sp = if o.spipe = sp then some o else none := by
  obtain ⟨hparked, -, -⟩ := id hready
  by_cases hsp : o.spipe = sp
  · simp [State.pkeHead, hpke, hready.inPipe, hsp, hparked, hidle]
  · simp [State.pkeHead, hpke, hready.inPipe, hsp]

theorem State.pkeHeads_alone :
    [s.pkeHead true, s.pkeHead false] = if o.spipe then [some o, none] else [none, some o] := by
  rw [State.pkeHead_alone hpke hready hidle, State.pkeHead_alone hpke hready hidle]
  cases o.spipe <;> rfl

/-- A lone operation that has not begun begins. -/
theorem State.pkeServe_begins (hnew : o.started = false) (f : Nat) : State.pkeServe (f + 1) s = State.pkeServe f (s.pkeEnter o) := by
  rw [State.pkeServe, State.pkeHeads_alone hpke hready hidle]
  cases o.spipe <;> simp [hnew]

theorem State.pkeServe_begun (hold : o.started = true) : ∀ f, State.pkeServe f s = s
  | 0 => rfl
  | f + 1 => by
    rw [State.pkeServe, State.pkeHeads_alone hpke hready hidle]
    cases o.spipe <;> simp [hold]

end

theorem State.pkeServe_empty {s : State} (hpke : s.eng.pke = []) : ∀ f, State.pkeServe f s = s
  | 0 => rfl
  | f + 1 => by simp [State.pkeServe, State.pkeHead, hpke]

/-- What giving way between jobs changes: the jobs' instances and their status. -/
theorem State.jobYield_eq (s : State) (r : EngReq) (started run : Bool) :
    s.jobYield r started run = { s with tick := (s.jobYield r started run).tick, regs := (s.jobYield r started run).regs } := by
  unfold State.jobYield
  repeat' split
  all_goals rfl

@[simp] theorem State.jobYield_eng (s : State) (r : EngReq) (started run : Bool) : (s.jobYield r started run).eng = s.eng := by
  rw [State.jobYield_eq]

/-- What the engine shows of an operation that it runs: DSTAT of a direct channel, or the job's state. -/
def State.pkeShown (s : State) (o : PkeOp) : State :=
  match o.req with
  | .direct c => s.wr (PKE_DSTAT_STATE c) 2
  | _ => s.jobYield o.req o.started true

theorem State.pkeShown_eq (s : State) (o : PkeOp) :
    s.pkeShown o = { s with tick := (s.pkeShown o).tick, regs := (s.pkeShown o).regs } := by
  unfold State.pkeShown
  split
  · rfl
  · exact s.jobYield_eq _ _ _

/-- An operation of the Vault shows nothing. -/
theorem State.pkeShown_vault {o : PkeOp} {a : Agent} (h : o.req = .vault a) (s : State) : s.pkeShown o = s := by
  rw [State.pkeShown, h]
  rfl

/-- A lone operation that has begun is the one its pipe runs. -/
theorem State.pkeStates_begun {s : State} {o : PkeOp} (hpke : s.eng.pke = [o]) (hready : o.Ready) (hidle : s.reqIdle o.req = false)
    (hold : o.started = true) :
    s.pkeStates = { s.pkeShown o with eng := { s.eng with pke := [{ o with parked := false }] } } := by
  have hrun : [s.pkeHead true, s.pkeHead false].any (fun h => h.map PkeOp.id == some o.id) = true := by
    rw [State.pkeHeads_alone hpke hready hidle]
    cases o.spipe <;> simp
  cases hreq : o.req with
  | direct c =>
    simp only [State.pkeStates, State.pkeServe_begun hpke hready hidle hold, hpke, List.foldl_cons, List.foldl_nil, hreq, hrun,
      State.pkeShown, State.wr_eng, List.map_cons, List.map_nil, Bool.not_true, if_true]
  | job _ | vault _ | image =>
    simp only [State.pkeStates, State.pkeServe_begun hpke hready hidle hold, hpke, List.foldl_cons, List.foldl_nil, hreq, hrun,
      State.pkeShown, State.jobYield_eng, List.map_cons, List.map_nil, Bool.not_true]

theorem State.pkeStates_empty {s : State} (hpke : s.eng.pke = []) : s.pkeStates = s := by
  have heng : { s.eng with pke := [] } = s.eng := by rw [← hpke]
  simp only [State.pkeStates, State.pkeServe_empty hpke, hpke, List.foldl_nil, List.map_nil, heng]

/-- A lone operation begins, and the engine takes up its order with what that leaves. -/
theorem State.pkeStates_begins {s : State} {o : PkeOp} (hpke : s.eng.pke = [o]) (hready : o.Ready) (hidle : s.reqIdle o.req = false)
    (hnew : o.started = false) (hend : ∀ f, State.pkeServe f (s.pkeEnter o) = s.pkeEnter o) :
    s.pkeStates = (s.pkeEnter o).pkeStates := by
  have hserve : State.pkeServe 2 s = s.pkeEnter o := (State.pkeServe_begins hpke hready hidle hnew 1).trans (hend 1)
  unfold State.pkeStates
  rw [hpke]
  simp only [List.length_cons, List.length_nil, hserve, hend]

/-! ### An operation begins -/

/-- The code ends an operation as it begins. -/
def PkeRes.refuses (x : PkeRes) (op : Nat) : Bool := (decide (4 ≤ x.code) && decide (x.code ≤ 9)) || (opSpipe op && x.code == 2)

/-- Output shelves read 0 while their operation runs (R375). -/
def State.shelvesZero (s : State) (l : List (Nat × Nat)) : State :=
  l.foldl (fun s e => s.putBytes (shelfBase + s.shelfOff e.1) (List.replicate (s.shelfSpan e.2 * s.shelfBytes) 0)) s

/-- The output operands that a block names. -/
def State.pkeOuts (s : State) (op : Nat) (a : PkeArgs) : List (Nat × Nat) :=
  match s.pkeIo op a with | some io => io.outs | none => []

theorem State.shelvesZero_eq (l : List (Nat × Nat)) : ∀ s : State, s.shelvesZero l = { s with mem := (s.shelvesZero l).mem } := by
  induction l with
  | nil => exact fun _ => rfl
  | cons e l ih =>
    intro s
    rw [State.shelvesZero, List.foldl_cons, ← State.shelvesZero, ih, State.putBytes_eq]

theorem State.shelvesZero_eng (s : State) (l : List (Nat × Nat)) : (s.shelvesZero l).eng = s.eng := by rw [State.shelvesZero_eq]

theorem State.shelvesZero_tick (s : State) (l : List (Nat × Nat)) : (s.shelvesZero l).tick = s.tick := by rw [State.shelvesZero_eq]

theorem State.shelvesZero_vlt (s : State) (l : List (Nat × Nat)) : (s.shelvesZero l).vlt = s.vlt := by rw [State.shelvesZero_eq]

theorem State.reqIdle_congr {s t : State} (h : t.tick = s.tick) (r : EngReq) : t.reqIdle r = s.reqIdle r := by
  cases r <;> simp only [State.reqIdle, h]

/-- The operation with what it comes to. -/
def PkeOp.begun (o : PkeOp) (s : State) (x : PkeRes) : PkeOp :=
  { o with started := true, key := x.key, code := x.code, cmp := x.cmp, digest := x.digest
           out := x.out.map (fun e => s.shelfOut e.1 e.2.1 e.2.2) }

theorem State.pkeStatus_eng (s : State) (o : PkeOp) (code vcode cmp : Nat) : (s.pkeStatus o code vcode cmp).eng = s.eng := by
  unfold State.pkeStatus
  split
  · rw [State.wrs_eq]
  · unfold State.unitPut State.pastKeep
    rw [State.putBytes_eq]
    split <;> rfl
  · rw [State.wrs_eq]
  · rfl

/-- A lone operation stands begun, in the state `v` that its beginning leaves. -/
def State.pkeBegun (v : State) (o : PkeOp) (x : PkeRes) : State :=
  let z := v.shelvesZero (v.pkeOuts o.op o.args)
  { z with eng := { v.eng with pke := [o.begun z x] } }

section
variable {s v : State} {o : PkeOp} {x : PkeRes} (hbegin : s.pkeBegin o = (x, v)) (hecc : x.ecc = false)
include hbegin hecc

theorem State.pkeEnter_begun (hpass : x.refuses o.op = false) (hkeep : v.eng.pke = [o]) : s.pkeEnter o = v.pkeBegun o x := by
  have hz := (v.shelvesZero_eng (v.pkeOuts o.op o.args))
  simp only [PkeRes.refuses] at hpass
  simp only [State.pkeEnter, hbegin, hecc, hpass, Bool.false_eq_true, if_false]
  change (v.shelvesZero (v.pkeOuts o.op o.args)).pkeUpd o.id
    (fun y => y.begun (v.shelvesZero (v.pkeOuts o.op o.args)) x) = _
  simp only [State.pkeUpd, hz, hkeep, List.map_cons, List.map_nil, if_true]
  rfl

theorem State.pkeEnter_refused (hcode : x.refuses o.op = true) : s.pkeEnter o =
    if x.code = 2 then ((v.pkeDrop o).pkeStatus o x.code x.vcode 0).bump PKE_CNT_POINTINV
    else (v.pkeDrop o).pkeStatus o x.code x.vcode 0 := by
  simp only [PkeRes.refuses] at hcode
  simp only [State.pkeEnter, hbegin, hecc, hcode, Bool.false_eq_true, if_true, if_false]

end

/-- The engine runs that operation. -/
def State.pkeTaken (v : State) (o : PkeOp) (x : PkeRes) : State :=
  let y := o.begun (v.shelvesZero (v.pkeOuts o.op o.args)) x
  { (v.pkeBegun o x).pkeShown y with eng := { v.eng with pke := [{ y with parked := false }] } }

section
variable {s v : State} {o : PkeOp} {x : PkeRes} (hpke : s.eng.pke = [o]) (hready : o.Ready) (hidle : s.reqIdle o.req = false)
  (hnew : o.started = false) (hbegin : s.pkeBegin o = (x, v)) (hecc : x.ecc = false)
include hpke hready hidle hnew hbegin hecc

theorem State.pkeStates_taken (hpass : x.refuses o.op = false) (hkeep : v.eng.pke = [o]) (htick : v.tick = s.tick) :
    s.pkeStates = v.pkeTaken o x := by
  have henter : s.pkeEnter o = v.pkeBegun o x := State.pkeEnter_begun hbegin hecc hpass hkeep
  have hbusy : (v.pkeBegun o x).reqIdle o.req = false :=
    (State.reqIdle_congr (t := v.pkeBegun o x) ((v.shelvesZero_tick _).trans htick) o.req).trans hidle
  have hserve := State.pkeServe_begun (s := v.pkeBegun o x) rfl (show (o.begun _ x).Ready from hready) hbusy rfl
  rw [State.pkeStates_begins hpke hready hidle hnew (henter ▸ hserve), henter,
    State.pkeStates_begun (s := v.pkeBegun o x) rfl (show (o.begun _ x).Ready from hready) hbusy rfl]
  rfl

theorem State.pkeStates_dropped (hcode : x.refuses o.op = true) (hkeep : v.eng.pke = [o]) : s.pkeStates.eng.pke = [] := by
  have hdrop : (v.pkeDrop o).eng.pke = [] := by
    unfold State.pkeDrop
    split <;> simp [State.zClear, State.zPut, hkeep]
  have hempty : (s.pkeEnter o).eng.pke = [] := by
    rw [State.pkeEnter_refused hbegin hecc hcode]
    split <;> simp [State.pkeStatus_eng, hdrop]
  rw [State.pkeStates_begins hpke hready hidle hnew (State.pkeServe_empty hempty), State.pkeStates_empty hempty, hempty]

end

/-! ### A block that the engine serves, empty before -/

section
variable {s u : State} {r : EngReq} {op blk : Nat} {a : PkeArgs}

/-- Nothing refuses a block that the engine serves (R376). -/
theorem State.pkeRefuse_serves (hserves : u.pkeServes op a = true) (hknown : opKnown op = true)
    (hvault : op = 0x13 → ∃ e, r = .vault e) : u.pkeRefuse r op a true = 0 := by
  simp only [State.pkeServes, Bool.and_eq_true, Bool.not_eq_true', decide_eq_true_eq] at hserves
  obtain ⟨⟨⟨⟨⟨⟨hstopped, hmode⟩, hshelves⟩, hcurve⟩, hprog⟩, hrandom⟩, hio⟩ := hserves
  have hsealed : [a.sa, a.sb, a.sc, a.sd].any (fun x => x.getLsbD 9) = false := by
    rw [List.any_eq_false]
    intro x hx
    simpa using List.all_eq_true.1 hshelves x hx
  have hcode : ¬(a.curve.toNat = 6 ∨ a.curve.toNat = 7 ∨ 10 < a.curve.toNat) := by omega
  simp only [State.pkeRefuse, hstopped, hmode, hknown, hsealed, hprog, hrandom, if_neg hcode, Bool.not_true, Bool.or_false,
    Bool.false_or, Bool.false_eq_true, if_false]
  refine (if_neg ?_).trans ?_
  · by_cases hop : op = 0x13
    · obtain ⟨e, rfl⟩ := hvault hop
      simp
    · simp [hop]
  split
  · rename_i hnone
    rw [hnone] at hio
    cases hio
  · rename_i x hsome
    rw [hsome] at hio
    exact if_pos hio

/-- A requester's command that the engine serves joins it. -/
theorem State.pkeStart_ask (hask : s.pkeAsk r op = some (u, blk, a)) (hserves : u.pkeServes op a = true) (hknown : opKnown op = true)
    (hop : op ≠ 0x13) : s.pkeStart op r = u.pkeJoin r op blk a := by
  have hnone : u.pkeRefuse r op a true = 0 := State.pkeRefuse_serves hserves hknown fun h => absurd h hop
  cases r with
  | direct c =>
    simp only [State.pkeAsk] at hask
    split at hask
    · rename_i hready
      simp only [Bool.and_eq_true, beq_iff_eq, Option.isNone_iff_eq_none] at hready
      obtain ⟨⟨⟨hrun, hfree⟩, hname⟩, hclean⟩ := hready
      cases hask
      simp only [State.pkeStart, hrun, hfree, hname, hclean, State.pkeAccept, hnone, Option.isSome_none, Bool.not_true,
        Bool.false_eq_true, ne_eq, not_true_eq_false, if_false]
    · cases hask
  | job j =>
    simp only [State.pkeAsk] at hask
    split at hask
    · rename_i hready
      simp only [Bool.and_eq_true, beq_iff_eq] at hready
      obtain ⟨⟨hjob, hname⟩, hclean⟩ := hready
      cases hask
      simp only [State.pkeStart, State.pkeJobStart, hjob, hname, hclean, State.pkeAccept, hnone, Bool.not_true, bne_self_eq_false,
        Bool.or_self, Bool.false_eq_true, if_false]
    · cases hask
  | vault e => cases hask
  | image => cases hask

section
variable (hfree : u.pkeFree r = true)
include hfree

theorem State.pke_empty_of_free : u.eng.pke = [] := by
  simp only [State.pkeFree, Bool.and_eq_true, List.isEmpty_iff] at hfree
  exact hfree.1

theorem State.pkeNew_ctx : (u.pkeNew r op blk a).ctx = if opSpipe op then some 0 else none := by
  have hempty := State.pke_empty_of_free hfree
  have hlowest : u.ctxFree = some 0 := by
    simp only [State.ctxFree, State.ctxHeld, hempty]
    rfl
  simp [State.pkeNew, hempty, hlowest]

theorem State.pkeNew_ready : (u.pkeNew r op blk a).Ready := by
  refine ⟨rfl, rfl, fun hpipe => ?_⟩
  rw [State.pkeNew_ctx hfree, if_pos (show opSpipe op = true from hpipe)]
  rfl

theorem State.pkeJoin_free : u.pkeJoin r op blk a = (u.pkeAlone r op blk a).pkeStates := by
  simp [State.pkeJoin, State.pkeAlone, State.pke_empty_of_free hfree]

variable {v : State} {x : PkeRes} (hbegin : (u.pkeAlone r op blk a).pkeBegin (u.pkeNew r op blk a) = (x, v)) (hecc : x.ecc = false)
  (hkeep : v.eng.pke = [u.pkeNew r op blk a])
include hbegin hecc hkeep

theorem State.pkeJoin_taken (hpass : x.refuses op = false) (htick : v.tick = u.tick) :
    u.pkeJoin r op blk a = v.pkeTaken (u.pkeNew r op blk a) x := by
  have hidle : u.reqIdle r = false := by
    simp only [State.pkeFree, Bool.and_eq_true, Bool.not_eq_true'] at hfree
    exact hfree.2
  rw [State.pkeJoin_free hfree]
  exact State.pkeStates_taken (s := u.pkeAlone r op blk a) rfl (State.pkeNew_ready hfree)
    ((State.reqIdle_congr (s := u) rfl r).trans hidle) rfl hbegin hecc hpass hkeep htick

theorem State.pkeJoin_dropped (hcode : x.refuses op = true) : (u.pkeJoin r op blk a).eng.pke = [] := by
  have hidle : u.reqIdle r = false := by
    simp only [State.pkeFree, Bool.and_eq_true, Bool.not_eq_true'] at hfree
    exact hfree.2
  rw [State.pkeJoin_free hfree]
  exact State.pkeStates_dropped (s := u.pkeAlone r op blk a) rfl (State.pkeNew_ready hfree)
    ((State.reqIdle_congr (s := u) rfl r).trans hidle) rfl hbegin hecc hcode hkeep

end

/-- The operation taken up is the one the block asks for. -/
theorem State.pkeTaken_runs (v : State) (x : PkeRes) : (v.pkeTaken (u.pkeNew r op blk a) x).pkeRuns r op blk a
    { (u.pkeNew r op blk a).begun (v.shelvesZero (v.pkeOuts op a)) x with parked := false } :=
  ⟨rfl, rfl, rfl, rfl, rfl, rfl, rfl, rfl, rfl, rfl⟩

theorem State.pkeTaken_mem (v : State) (o : PkeOp) (x : PkeRes) :
    (v.pkeTaken o x).mem = (v.shelvesZero (v.pkeOuts o.op o.args)).mem := by
  simp only [State.pkeTaken]
  rw [State.pkeShown_eq]
  rfl

theorem State.pkeTaken_vlt (v : State) (o : PkeOp) (x : PkeRes) : (v.pkeTaken o x).vlt = v.vlt := by
  simp only [State.pkeTaken]
  rw [State.pkeShown_eq]
  exact v.shelvesZero_vlt _

end

end Sys2Proof.Machine
/-! ## Level 1 primitives (R379) -/

namespace Sys2Proof.Machine

theorem State.putBytes_mem_congr : ∀ (l : List Byte) (a : Nat) {s t : State}, t.mem = s.mem → (t.putBytes a l).mem = (s.putBytes a l).mem
  | [], _, _, _, h => h
  | b :: l, a, s, t, h => State.putBytes_mem_congr l (a + 1) (by simp only [State.putB, h])

theorem State.shelfBytes_congr {s t : State} (h : t.regs = s.regs) : t.shelfBytes = s.shelfBytes := by
  rw [State.shelfBytes, State.shelfBytes, State.rd_congr h]

/-- The output shelves' zeroes go where the state's memory and its shelf length say. -/
theorem State.shelvesZero_mem_congr (l : List (Nat × Nat)) : ∀ {s t : State}, t.mem = s.mem → t.regs = s.regs →
    (t.shelvesZero l).mem = (s.shelvesZero l).mem := by
  induction l with
  | nil => exact fun hmem _ => hmem
  | cons e l ih =>
    intro s t hmem hregs
    rw [State.shelvesZero, State.shelvesZero, List.foldl_cons, List.foldl_cons, ← State.shelvesZero, ← State.shelvesZero]
    refine ih ?_ ?_
    · simp only [State.shelfOff, State.shelfSpan, State.shelfBytes_congr hregs]
      exact State.putBytes_mem_congr _ _ hmem
    · rw [State.putBytes_eq, State.putBytes_eq s]
      exact hregs

section
variable {s : State} {a : PkeArgs} {l x y m : Nat}

section
variable (hl : l = 4 * a.nw.toNat) (hx : x = s.shelfNat a.sa.toNat l)
include hl hx

theorem State.pkeLevel1_copy : s.pkeLevel1 8 a = { out := [(a.sc.toNat, l, x)] } := by
  subst hx hl
  simp [State.pkeLevel1]

theorem State.pkeLevel1_cmp (hy : y = s.shelfNat a.sb.toNat l) :
    s.pkeLevel1 7 a = { cmp := if x = y then 0 else if x < y then 1 else 2 } := by
  subst hx hy hl
  simp [State.pkeLevel1]

variable (hm : m = s.shelfNat a.sd.toNat l) (hodd : m % 2 = 1) (hone : 1 < m) (hxm : x < m)
include hm hodd hone hxm

theorem State.pkeLevel1_minv {v : Nat} (hinv : invMod x m = some v) : s.pkeLevel1 5 a = { out := [(a.sc.toNat, l, v)] } := by
  subst hx hm hl
  simp [State.pkeLevel1, hodd, Nat.not_le.2 hone, Nat.not_le.2 hxm, hinv]

theorem State.pkeLevel1_noInv (hinv : invMod x m = none) : s.pkeLevel1 5 a = { out := [(a.sc.toNat, l, 0)], code := 12 } := by
  subst hx hm hl
  simp [State.pkeLevel1, hodd, Nat.not_le.2 hone, Nat.not_le.2 hxm, hinv]

variable (hy : y = s.shelfNat a.sb.toNat l)
include hy

theorem State.pkeLevel1_mexp : s.pkeLevel1 6 a = { out := [(a.sc.toNat, l, x ^ y % m)] } := by
  subst hx hy hm hl
  simp [State.pkeLevel1, hodd, Nat.not_le.2 hone, Nat.not_le.2 hxm, powMod_eq]

variable (hym : y < m)
include hym

theorem State.pkeLevel1_madd : s.pkeLevel1 1 a = { out := [(a.sc.toNat, l, (x + y) % m)] } := by
  subst hx hy hm hl
  simp [State.pkeLevel1, hodd, Nat.not_le.2 hone, Nat.not_le.2 hxm, Nat.not_le.2 hym]

theorem State.pkeLevel1_msub : s.pkeLevel1 2 a = { out := [(a.sc.toNat, l, (x + (m - y)) % m)] } := by
  rw [← Nat.add_sub_assoc hym.le]
  subst hx hy hm hl
  simp [State.pkeLevel1, hodd, Nat.not_le.2 hone, Nat.not_le.2 hxm, Nat.not_le.2 hym]

theorem State.pkeLevel1_mmul : s.pkeLevel1 3 a = { out := [(a.sc.toNat, l, x * y % m)] } := by
  subst hx hy hm hl
  simp [State.pkeLevel1, hodd, Nat.not_le.2 hone, Nat.not_le.2 hxm, Nat.not_le.2 hym]

end

theorem State.pkeLevel1_mred (hl : l = 4 * a.nw.toNat) (hx : x = s.shelfNat a.sa.toNat (2 * l)) (hm : m = s.shelfNat a.sd.toNat l)
    (hodd : m % 2 = 1) (hone : 1 < m) : s.pkeLevel1 4 a = { out := [(a.sc.toNat, l, x % m)] } := by
  subst hx hm hl
  simp [State.pkeLevel1, hodd, Nat.not_le.2 hone]

end

section
variable {s u : State} {r : EngReq} {op blk : Nat} {a : PkeArgs} (hask : s.pkeAsk r op = some (u, blk, a))
  (hserves : u.pkeServes op a = true) (hfree : u.pkeFree r = true) (hlevel : opLevel1 op = true)

include hserves in
theorem State.pkeIo_serves : ∃ io, u.pkeIo op a = some io := by
  cases hio : u.pkeIo op a with
  | none => simp [State.pkeServes, hio] at hserves
  | some io => exact ⟨io, rfl⟩

theorem State.pkeOuts_of_io {io : PkeIo} (hio : u.pkeIo op a = some io) : u.pkeOuts op a = io.outs := by
  rw [State.pkeOuts, hio]

include hserves hlevel in
theorem State.pkeOuts_level1 : u.pkeOuts op a = if op = 7 then [] else [(a.sc.toNat, 4 * a.nw.toNat)] := by
  obtain ⟨io, hio⟩ := State.pkeIo_serves hserves
  rw [State.pkeOuts_of_io hio]
  simp only [State.pkeIo, hlevel, if_true] at hio
  split at hio
  · cases hio
  · cases hio
    rfl

theorem State.pkeBegin_level1 {w : State} {o : PkeOp} (hlevel : opLevel1 o.op = true) : w.pkeBegin o = (w.pkeLevel1 o.op o.args, w) := by
  have hpipe : opSpipe o.op = false := by
    simp only [opLevel1, Bool.and_eq_true, decide_eq_true_eq] at hlevel
    simp only [opSpipe, Bool.or_eq_false_iff, beq_eq_false_iff_ne]
    omega
  simp only [State.pkeBegin, hpipe, hlevel, Bool.false_and, Bool.false_eq_true, if_false, if_true]

include hask hserves hfree hlevel

/-- A Level 1 primitive that the engine serves runs, with what its operands give. -/
theorem State.pkeStart_level1 {x : PkeRes} (hx : u.pkeLevel1 op a = x) (hcode : x.code = 0 ∨ x.code = 12) (hecc : x.ecc = false) :
    ∃ t o, s.pkeStart op r = t ∧ t.pkeRuns r op blk a o ∧ o.code = x.code ∧ o.cmp = x.cmp ∧
      o.out = x.out.map (fun e => u.shelfOut e.1 e.2.1 e.2.2) ∧
      t.mem = (u.shelvesZero (if op = 7 then [] else [(a.sc.toNat, 4 * a.nw.toNat)])).mem := by
  have hbound : 1 ≤ op ∧ op ≤ 8 := by simpa [opLevel1] using hlevel
  have hpipe : opSpipe op = false := by
    simp only [opSpipe, Bool.or_eq_false_iff, beq_eq_false_iff_ne]
    omega
  have hpass : x.refuses op = false := by rcases hcode with h | h <;> simp [PkeRes.refuses, h, hpipe]
  have hbegin : (u.pkeAlone r op blk a).pkeBegin (u.pkeNew r op blk a) = (x, u.pkeAlone r op blk a) := by
    rw [State.pkeBegin_level1 hlevel, ← hx]
    rfl
  have houts : (u.pkeAlone r op blk a).pkeOuts op a = u.pkeOuts op a := rfl
  have hregs : ((u.pkeAlone r op blk a).shelvesZero (u.pkeOuts op a)).regs = u.regs := by rw [State.shelvesZero_eq]; rfl
  refine ⟨_, _, (State.pkeStart_ask hask hserves (by simp [opKnown, hlevel]) (by omega)).trans
    (State.pkeJoin_taken hfree hbegin hecc rfl hpass rfl), State.pkeTaken_runs _ x, rfl, rfl, ?_, ?_⟩
  · simp only [PkeOp.begun, houts, State.shelfOut, State.shelfSpan, State.shelfOff, State.shelfBytes_congr hregs]
  · rw [State.pkeTaken_mem, ← State.pkeOuts_level1 hserves hlevel]
    exact State.shelvesZero_mem_congr _ rfl rfl

end

/-- Settles O46: the operation begins at once on its operands, modular exponentiation by squaring is the power, and Euclid's
algorithm has steps enough to end at the inverse. -/
theorem pkePrimitives : Obligations.PkePrimitives := by
  unfold Obligations.PkePrimitives
  rintro s u r op blk a l A B C M z hask hserves hfree hl rfl rfl rfl rfl rfl
  have hstart {x : PkeRes} (hlevel : opLevel1 op = true) (hx : u.pkeLevel1 op a = x) (hcode : x.code = 0 ∨ x.code = 12)
      (hecc : x.ecc = false) := State.pkeStart_level1 hask hserves hfree hlevel hx hcode hecc
  have hzero (h : op ≠ 7) : (u.shelvesZero (if op = 7 then [] else [(a.sc.toNat, 4 * a.nw.toNat)])).mem =
      (u.putBytes (shelfBase + u.shelfOff a.sc.toNat) (List.replicate (u.shelfSpan l * u.shelfBytes) 0)).mem := by
    rw [if_neg h, ← hl]
    rfl
  /- An operation whose one output is `v`. -/
  have hvalue {i : Instr} {v : Nat} (hlevel : opLevel1 op = true) (hne : op ≠ 7)
      (hx : u.pkeLevel1 op a = { out := [(a.sc.toNat, l, v)] }) (hexec : exec i s = .next (s.pkeStart op r)) :
      ∃ t o, exec i s = .next t ∧ t.pkeRuns r op blk a o ∧ o.code = 0 ∧ o.cmp = 0 ∧ o.out = [u.shelfOut a.sc.toNat l v] ∧
        t.mem = (u.putBytes (shelfBase + u.shelfOff a.sc.toNat) (List.replicate (u.shelfSpan l * u.shelfBytes) 0)).mem := by
    obtain ⟨t, o, ht, hruns, hcode, hcmp, hout, hmem⟩ := hstart hlevel hx (.inl rfl) rfl
    exact ⟨t, o, hexec.trans (congrArg _ ht), hruns, hcode, hcmp, hout, hmem.trans (hzero hne)⟩
  refine ⟨?arith, ?mred, ?minv, ?cmp, ?copy⟩
  case arith =>
    rintro x y m hx hy hm hodd hone hxm i v
      (⟨rfl, rfl, hym, rfl⟩ | ⟨rfl, rfl, hym, rfl⟩ | ⟨rfl, rfl, hym, rfl⟩ | ⟨rfl, rfl, rfl⟩)
    · exact hvalue rfl (by decide) (State.pkeLevel1_madd hl hx hm hodd hone hxm hy hym) rfl
    · exact hvalue rfl (by decide) (State.pkeLevel1_msub hl hx hm hodd hone hxm hy hym) rfl
    · exact hvalue rfl (by decide) (State.pkeLevel1_mmul hl hx hm hodd hone hxm hy hym) rfl
    · exact hvalue rfl (by decide) (State.pkeLevel1_mexp hl hx hm hodd hone hxm hy) rfl
  case mred =>
    rintro x m rfl hx hm hodd hone
    obtain ⟨t, o, ht, hruns, hcode, -, hout, hmem⟩ :=
      hvalue (i := .mred r) rfl (by decide) (State.pkeLevel1_mred hl hx hm hodd hone) rfl
    exact ⟨t, o, ht, hruns, hcode, hout, hmem⟩
  case minv =>
    rintro x m rfl hx hm hodd hone hxm
    cases hinv : invMod x m with
    | some w =>
      obtain ⟨t, o, ht, hruns, hcode, -, hout, hmem⟩ :=
        hvalue (i := .minv r) rfl (by decide) (State.pkeLevel1_minv hl hx hm hodd hone hxm hinv) rfl
      refine ⟨t, o, ht, hruns, hmem, fun v hv hmul => ?_, fun hgcd => ?_⟩
      · rw [invMod_eq_some hone hv hmul] at hinv
        cases hinv
        exact ⟨hcode, hout⟩
      · rw [invMod_eq_none hgcd] at hinv
        cases hinv
    | none =>
      obtain ⟨t, o, ht, hruns, hcode, -, hout, hmem⟩ :=
        hstart rfl (State.pkeLevel1_noInv hl hx hm hodd hone hxm hinv) (.inr rfl) rfl
      refine ⟨t, o, congrArg _ ht, hruns, hmem.trans (hzero (by decide)), fun v hv hmul => ?_, fun _ => ⟨hcode, hout⟩⟩
      rw [invMod_eq_some hone hv hmul] at hinv
      cases hinv
  case cmp =>
    rintro x y rfl hx hy
    obtain ⟨t, o, ht, hruns, hcode, hcmp, hout, hmem⟩ := hstart rfl (State.pkeLevel1_cmp hl hx hy) (.inl rfl) rfl
    exact ⟨t, o, congrArg _ ht, hruns, hcode, hout, hmem, hcmp⟩
  case copy =>
    rintro x rfl hx
    obtain ⟨t, o, ht, hruns, hcode, -, hout, hmem⟩ := hvalue (i := .copy r) rfl (by decide) (State.pkeLevel1_copy hl hx) rfl
    exact ⟨t, o, ht, hruns, hcode, hout, hmem⟩

end Sys2Proof.Machine
/-! ## The sealed bank (R369, R370) -/

namespace Sys2Proof.Machine

/-! ### Numbers of drawn bytes -/

theorem foldl_be_lt : ∀ (l : List Byte) (v : Nat), l.foldl (fun a b => a * 256 + b.toNat) v < (v + 1) * 256 ^ l.length
  | [], v => by simp
  | b :: l, v => by
    have hstep : v * 256 + b.toNat + 1 ≤ (v + 1) * 256 := by have := b.isLt; omega
    calc (b :: l).foldl (fun a b => a * 256 + b.toNat) v < (v * 256 + b.toNat + 1) * 256 ^ l.length := foldl_be_lt l _
      _ ≤ (v + 1) * 256 * 256 ^ l.length := Nat.mul_le_mul_right _ hstep
      _ = (v + 1) * 256 ^ (b :: l).length := by rw [List.length_cons, pow_succ']; ring

theorem beNat_lt (l : List Byte) : beNat l < 256 ^ l.length := by simpa [beNat] using foldl_be_lt l 0

theorem length_flatMap_bytes (l : List Word) : (l.flatMap Word.bytes).length = 4 * l.length := by
  induction l with
  | nil => rfl
  | cons w l ih => rw [List.flatMap_cons, List.length_append, ih, length_wordBytes, List.length_cons]; omega

theorem State.length_drbgWords (s : State) (n : Nat) : (s.drbgWords n).1.length = n := by simp [State.drbgWords]

theorem State.drawNat_lt (s : State) {n b : Nat} (hb : 32 * n = b) : (s.drawNat n).1 < 2 ^ b := by
  have h := beNat_lt ((s.drbgWords n).1.flatMap Word.bytes)
  rw [length_flatMap_bytes, State.length_drbgWords] at h
  rwa [show (2 : Nat) ^ b = 256 ^ (4 * n) by rw [show (256 : Nat) = 2 ^ 8 by rfl, ← pow_mul]; congr 1; omega]

/-- Rejection answers a number from 1 to `m` − 1 (R381). -/
theorem State.drawBelow_range {m : Nat} (hm : 1 < m) : ∀ (f : Nat) (s : State),
    0 < (State.drawBelow m f s).1 ∧ (State.drawBelow m f s).1 < m
  | 0, _ => ⟨Nat.one_pos, hm⟩
  | f + 1, s => by
    simp only [State.drawBelow]
    split
    · assumption
    · exact State.drawBelow_range hm f _

/-! ### What draws and the sealed bank leave as it stands -/

/-- Draws, their count, and the sealed bank are all that may differ. -/
def State.SealedOnly (s t : State) : Prop :=
  ∃ d z n, t = { s with draws := d, eng := { s.eng with sealed := z, reqs := n } }

theorem State.SealedOnly.trans {s t v : State} (h : s.SealedOnly t) (h' : t.SealedOnly v) : s.SealedOnly v := by
  obtain ⟨d, z, n, rfl⟩ := h
  obtain ⟨d', z', n', rfl⟩ := h'
  exact ⟨d', z', n', rfl⟩

theorem State.SealedOnly.pke {s t : State} (h : s.SealedOnly t) : t.eng.pke = s.eng.pke := by obtain ⟨_, _, _, rfl⟩ := h; rfl
theorem State.SealedOnly.tick {s t : State} (h : s.SealedOnly t) : t.tick = s.tick := by obtain ⟨_, _, _, rfl⟩ := h; rfl
theorem State.SealedOnly.regs {s t : State} (h : s.SealedOnly t) : t.regs = s.regs := by obtain ⟨_, _, _, rfl⟩ := h; rfl
theorem State.SealedOnly.vlt {s t : State} (h : s.SealedOnly t) : t.vlt = s.vlt := by obtain ⟨_, _, _, rfl⟩ := h; rfl

/-- Draws and their count are all that may differ. -/
def State.DrawsOnly (s t : State) : Prop := ∃ d n, t = { s with draws := d, eng := { s.eng with reqs := n } }

theorem State.DrawsOnly.trans {s t v : State} (h : s.DrawsOnly t) (h' : t.DrawsOnly v) : s.DrawsOnly v := by
  obtain ⟨d, n, rfl⟩ := h
  obtain ⟨d', n', rfl⟩ := h'
  exact ⟨d', n', rfl⟩

theorem State.DrawsOnly.sealedOnly {s t : State} (h : s.DrawsOnly t) : s.SealedOnly t := by
  obtain ⟨d, n, rfl⟩ := h
  exact ⟨d, s.eng.sealed, n, rfl⟩

theorem State.DrawsOnly.zGet {s t : State} (h : s.DrawsOnly t) (c : Fin 8) (k : Nat) : t.zGet c k = s.zGet c k := by
  obtain ⟨_, _, rfl⟩ := h
  rfl

theorem State.drawsOnly_drawNat (s : State) (n : Nat) : s.DrawsOnly (s.drawNat n).2 := ⟨s.draws + n, s.eng.reqs + 1, rfl⟩

theorem State.drawsOnly_drawBelow (m : Nat) : ∀ (f : Nat) (s : State), s.DrawsOnly (State.drawBelow m f s).2
  | 0, s => ⟨s.draws, s.eng.reqs, rfl⟩
  | f + 1, s => by
    simp only [State.drawBelow]
    split
    · exact s.drawsOnly_drawNat _
    · exact (s.drawsOnly_drawNat _).trans (State.drawsOnly_drawBelow m f _)

theorem State.sealedOnly_zPut (s : State) (c : Fin 8) (l : List (Nat × Nat)) : s.SealedOnly (s.zPut c l) :=
  ⟨s.draws, _, s.eng.reqs, rfl⟩

theorem State.sealedOnly_zLoad (s : State) (c : Fin 8) (d : Nat) : s.SealedOnly (s.zLoad c d) :=
  (s.drawsOnly_drawNat 18).sealedOnly.trans (State.sealedOnly_zPut _ _ _)

section
variable {s s1 s2 : State} {c : Fin 8} {cv : Curve} {r z : Nat} (hr : s.drawNat 2 = (r, s1))
  (hz : State.drawBelow cv.p drawTries s1 = (z, s2))
include hr hz

/-- A multiplication as the two draws of its setting-up give it. -/
theorem State.zMulStart_eq (k : Nat) (P : Nat × Nat) :
    s.zMulStart c cv k P = s2.zPut c [(2, r), (3, (k + r * cv.n) % 2 ^ 576), (4, (k + r * cv.n) / 2 ^ 576),
      (5, P.1 * (z * z) % cv.p), (6, P.2 * (z * z * z) % cv.p), (7, z)] := by
  unfold State.zMulStart
  rw [hr]
  dsimp only
  rw [hz]

theorem State.drawsOnly_zMulStart : s.DrawsOnly s2 := by
  have h1 := s.drawsOnly_drawNat 2
  have h2 := State.drawsOnly_drawBelow cv.p drawTries s1
  rw [hr] at h1
  rw [hz] at h2
  exact h1.trans h2

end

theorem State.sealedOnly_zMulStart (s : State) (c : Fin 8) (cv : Curve) (k : Nat) (P : Nat × Nat) :
    s.SealedOnly (s.zMulStart c cv k P) := by
  cases hr : s.drawNat 2 with
  | mk r s1 =>
  cases hz : State.drawBelow cv.p drawTries s1 with
  | mk z s2 =>
  rw [State.zMulStart_eq hr hz]
  exact (State.drawsOnly_zMulStart hr hz).sealedOnly.trans (s2.sealedOnly_zPut c _)

/-- A nonce's multiplication is that of the number drawn for it. -/
theorem State.zNonce_eq {s s1 : State} {cv : Curve} {k : Nat} (hk : State.drawBelow cv.n drawTries s = (k, s1)) (c : Fin 8) :
    s.zNonce c cv = s1.zMulStart c cv k (cv.gx, cv.gy) := by
  unfold State.zNonce
  rw [hk]

theorem State.sealedOnly_zNonce (s : State) (c : Fin 8) (cv : Curve) : s.SealedOnly (s.zNonce c cv) := by
  cases hk : State.drawBelow cv.n drawTries s with
  | mk k s1 =>
  have h := State.drawsOnly_drawBelow cv.n drawTries s
  rw [hk] at h
  rw [State.zNonce_eq hk]
  exact h.sealedOnly.trans (s1.sealedOnly_zMulStart c cv k _)

/-! ### Shelves of a context -/

theorem zShelf_ne {c : Fin 8} {j k : Nat} (hj : j < 14) (hk : k < 14) (h : j ≠ k) : zShelf c j ≠ zShelf c k := by
  have hc := c.isLt
  have hval (i : Nat) (hi : i < 14) : (zShelf c i).val = 14 * c.val + i := Nat.mod_eq_of_lt (by omega)
  intro heq
  have := congrArg Fin.val heq
  rw [hval j hj, hval k hk] at this
  omega

theorem State.zPut_cons (s : State) (c : Fin 8) (e : Nat × Nat) (l : List (Nat × Nat)) :
    s.zPut c (e :: l) = (s.zPut c [e]).zPut c l := rfl

theorem State.zGet_zPut_one (s : State) (c : Fin 8) {j k : Nat} (hj : j < 14) (hk : k < 14) (x : Nat) :
    (s.zPut c [(j, x)]).zGet c k = if j = k then x % 2 ^ 576 else s.zGet c k := by
  simp only [State.zGet, State.zPut, List.foldl_cons, List.foldl_nil]
  split
  · rename_i h
    rw [h, Tab.at_put_self, BitVec.toNat_ofNat]
  · rename_i h
    rw [Tab.at_put_ne _ _ (zShelf_ne hj hk h)]

/-- A shelf that is not written keeps its number. -/
theorem State.zGet_zPut_out {c : Fin 8} {k : Nat} (hk : k < 14) : ∀ (l : List (Nat × Nat)) (s : State),
    (∀ e ∈ l, e.1 < 14 ∧ e.1 ≠ k) → (s.zPut c l).zGet c k = s.zGet c k
  | [], _, _ => rfl
  | e :: l, s, h => by
    obtain ⟨hlt, hne⟩ := h e (by simp)
    rw [State.zPut_cons, State.zGet_zPut_out hk l _ (fun e' he' => h e' (by simp [he'])), State.zGet_zPut_one s c hlt hk, if_neg hne]

/-- A shelf that is written holds what is written there last. -/
theorem State.zGet_zPut_in {c : Fin 8} {k x : Nat} (hk : k < 14) {l : List (Nat × Nat)} (s : State)
    (h : ∀ e ∈ l, e.1 < 14 ∧ e.1 ≠ k) : (s.zPut c ((k, x) :: l)).zGet c k = x % 2 ^ 576 := by
  rw [State.zPut_cons, State.zGet_zPut_out hk l _ h, State.zGet_zPut_one s c hk hk, if_pos rfl]

theorem State.zLoad_eq {s s1 : State} {m : Nat} (hm : s.drawNat 18 = (m, s1)) (c : Fin 8) (d : Nat) :
    s.zLoad c d = s1.zPut c [(0, d ^^^ m), (1, m)] := by
  unfold State.zLoad
  rw [hm]

/-- A scalar that enters a context stands there, under its mask. -/
theorem State.zScalar_zLoad (s : State) (c : Fin 8) {d : Nat} (hd : d < 2 ^ 576) : (s.zLoad c d).zScalar c = d := by
  cases hm : s.drawNat 18 with
  | mk m s1 =>
  have hmask : m < 2 ^ 576 := by
    have h := s.drawNat_lt (n := 18) (b := 576) rfl
    rwa [hm] at h
  have hhidden : d ^^^ m < 2 ^ 576 := Nat.xor_lt_two_pow hd hmask
  rw [State.zScalar, State.zLoad_eq hm, State.zGet_zPut_in (k := 0) (by decide) _ (by simp), Nat.mod_eq_of_lt hhidden,
    State.zPut_cons, State.zGet_zPut_in (k := 1) (l := []) (by decide) _ (by simp), Nat.mod_eq_of_lt hmask, Nat.xor_assoc,
    Nat.xor_self, Nat.xor_zero]

theorem add_mul_lt_mul_self {k r n m : Nat} (hk : k < m) (hr : r < m) (hn : n < m) : k + r * n < m * m :=
  calc k + r * n < m + r * m := Nat.add_lt_add_of_lt_of_le hk (Nat.mul_le_mul_left r hn.le)
    _ = (r + 1) * m := by ring
    _ ≤ m * m := Nat.mul_le_mul_right m hr

section
variable (s : State) (c : Fin 8) (cv : Curve) (k : Nat) (P : Nat × Nat)

/-- The scalar of a context stays where its multiplication is set up. -/
theorem State.zScalar_zMulStart : (s.zMulStart c cv k P).zScalar c = s.zScalar c := by
  cases hr : s.drawNat 2 with
  | mk r s1 =>
  cases hz : State.drawBelow cv.p drawTries s1 with
  | mk z s2 =>
  have hkept (j : Nat) (hj : j < 2) : (s.zMulStart c cv k P).zGet c j = s.zGet c j := by
    rw [State.zMulStart_eq hr hz, State.zGet_zPut_out (by omega) _ _ (by simp; omega), (State.drawsOnly_zMulStart hr hz).zGet]
  rw [State.zScalar, State.zScalar, hkept 0 (by decide), hkept 1 (by decide)]

/-- The multiplier is blinded by a multiple of the order, of 64 bits drawn afresh (R369). -/
theorem State.zBlind_zMulStart (hk : k < 2 ^ 576) (hn : cv.n < 2 ^ 576) :
    (s.zMulStart c cv k P).zGet c 2 < 2 ^ 64 ∧
      (s.zMulStart c cv k P).zBlind c = k + (s.zMulStart c cv k P).zGet c 2 * cv.n := by
  cases hr : s.drawNat 2 with
  | mk r s1 =>
  cases hz : State.drawBelow cv.p drawTries s1 with
  | mk z s2 =>
  have hrand : r < 2 ^ 64 := by
    have h := s.drawNat_lt (n := 2) (b := 64) rfl
    rwa [hr] at h
  have hrfits : r < 2 ^ 576 := hrand.trans (Nat.pow_lt_pow_right (by decide) (by decide))
  have hhigh : (k + r * cv.n) / 2 ^ 576 < 2 ^ 576 := Nat.div_lt_of_lt_mul (add_mul_lt_mul_self hk hrfits hn)
  have hput := State.zMulStart_eq hr hz (c := c) k P
  have h2 : (s.zMulStart c cv k P).zGet c 2 = r := by
    rw [hput, State.zGet_zPut_in (k := 2) (by decide) _ (by simp), Nat.mod_eq_of_lt hrfits]
  have h3 : (s.zMulStart c cv k P).zGet c 3 = (k + r * cv.n) % 2 ^ 576 := by
    rw [hput, State.zPut_cons, State.zGet_zPut_in (k := 3) (by decide) _ (by simp), Nat.mod_mod]
  have h4 : (s.zMulStart c cv k P).zGet c 4 = (k + r * cv.n) / 2 ^ 576 := by
    rw [hput, State.zPut_cons, State.zPut_cons, State.zGet_zPut_in (k := 4) (by decide) _ (by simp), Nat.mod_eq_of_lt hhigh]
  refine ⟨h2.symm ▸ hrand, ?_⟩
  rw [State.zBlind, h2, h3, h4, Nat.mod_add_div]

end

end Sys2Proof.Machine
/-! ## A key for an operation (R332, R335) -/

namespace Sys2Proof.Machine

/-- What a lookup may change: the Vault's flags of an entry, the Store Room, and the registers that show its parity errors. -/
def State.LookOnly (s t : State) : Prop :=
  (∃ g x v, t = { s with regs := g, str := x, vlt := v }) ∧
    ∀ f : Field, STR_ERR_PAR.key ≠ f.key → STR_ERR_IDX.key ≠ f.key → t.rd f = s.rd f

theorem State.LookOnly.refl (s : State) : s.LookOnly s := ⟨⟨s.regs, s.str, s.vlt, rfl⟩, fun _ _ _ => rfl⟩

theorem State.LookOnly.trans {s t v : State} (h : s.LookOnly t) (h' : t.LookOnly v) : s.LookOnly v := by
  obtain ⟨⟨g, x, y, rfl⟩, hrd⟩ := h
  obtain ⟨⟨g', x', y', rfl⟩, hrd'⟩ := h'
  exact ⟨⟨g', x', y', rfl⟩, fun f hp hi => (hrd' f hp hi).trans (hrd f hp hi)⟩

section
variable {s t : State} (h : s.LookOnly t)
include h

theorem State.LookOnly.eng : t.eng = s.eng := by obtain ⟨⟨_, _, _, rfl⟩, -⟩ := h; rfl

theorem State.LookOnly.tick : t.tick = s.tick := by obtain ⟨⟨_, _, _, rfl⟩, -⟩ := h; rfl

theorem State.LookOnly.mem : t.mem = s.mem := by obtain ⟨⟨_, _, _, rfl⟩, -⟩ := h; rfl

theorem State.LookOnly.shelfBytes : t.shelfBytes = s.shelfBytes := by
  rw [State.shelfBytes, State.shelfBytes, h.2 PKE_SHELFCFG_LEN (by decide) (by decide)]

theorem State.LookOnly.shelfGet (sh l : Nat) : t.shelfGet sh l = s.shelfGet sh l := by
  simp only [State.shelfGet, State.shelfOff, h.shelfBytes]
  exact State.getBytes_congr h.mem _ _

end

theorem State.lookOnly_strSearch (s : State) (r : Region) (key : BitVec 160) (cred : Bool) :
    s.LookOnly (s.strSearch r key cred).2 := by
  unfold State.strSearch
  split
  · simp only [State.strScan]
    split
    · exact ⟨⟨s.regs, _, s.vlt, rfl⟩, fun _ _ _ => rfl⟩
    · exact ⟨⟨_, _, s.vlt, rfl⟩, fun f hp hi => (State.rd_wr_ne _ _ f _ hi).trans (State.rd_wr_ne _ _ f _ hp)⟩
  · exact .refl s

theorem State.lookOnly_vUseEntry (s : State) (i : Nat) : s.LookOnly (s.vUseEntry i).2.2 := by
  unfold State.vUseEntry
  split
  · exact .refl s
  · split
    · exact ⟨⟨s.regs, s.str, _, rfl⟩, fun _ _ _ => rfl⟩
    · exact .refl s

theorem State.lookOnly_vLookup (s : State) (who : VUser) (role : Byte) (id : Word) (op : Nat) :
    s.LookOnly (s.vLookup who role id op).2 := by
  simp only [State.vLookup]
  split
  · exact .refl s
  have hsearch := s.lookOnly_strSearch .k (lookKey role id op) (who == .con && role == 7)
  repeat' split
  case h_1 huse | h_2 huse =>
    have hentry := State.lookOnly_vUseEntry (s.strSearch .k (lookKey role id op) (who == .con && role == 7)).2
      ((s.strSearch .k (lookKey role id op) (who == .con && role == 7)).1.result.toNat % 256)
    rw [huse] at hentry
    exact hsearch.trans hentry
  all_goals exact hsearch

/-- The key that an operation is given, and what its lookup leaves. -/
theorem State.pkeKey_found {s v : State} {a : PkeArgs} {usage type i : Nat} {k : PkeRes}
    (h : s.pkeKey a usage type = (k, some i, v)) : k = { key := some (i, (v.vEnt i).gen) } ∧ s.LookOnly v := by
  have hlook := s.lookOnly_vLookup .other a.role a.keyid usage
  simp only [State.pkeKey] at h
  repeat' split at h
  all_goals cases h
  exact ⟨rfl, hlook⟩

/-! ## The programs begin (R381 to R387) -/

section
variable {w v : State} {a : PkeArgs} {c : Curve} {i : Nat} {k : PkeRes}

theorem State.pkeVerify_point (hsrc : a.src = true) : w.pkeVerify a c =
    ({ code := if c.valid (w.shelfPoint a.sb.toNat c).1 (w.shelfPoint a.sb.toNat c).2 = false then 2 else
        if c.verify (some (w.shelfPoint a.sb.toNat c)) (c.digest (w.shelfGet a.sa.toNat (4 * a.nw.toNat)))
          (w.shelfPoint a.sc.toNat c).1 (w.shelfPoint a.sc.toNat c).2 then 0 else 1 }, w) := by
  cases hvalid : c.valid (w.shelfPoint a.sb.toNat c).1 (w.shelfPoint a.sb.toNat c).2 <;> simp [State.pkeVerify, hsrc, hvalid]

theorem State.pkeVerify_key (hsrc : a.src = false) (hkey : w.pkeKey a 1 (0x20 + a.curve.toNat) = (k, some i, v)) :
    w.pkeVerify a c = ({ k with
      code := if c.verify (some (v.vPoint i)) (c.digest (w.shelfGet a.sa.toNat (4 * a.nw.toNat)))
        (w.shelfPoint a.sc.toNat c).1 (w.shelfPoint a.sc.toNat c).2 then 0 else 1 }, v) := by
  simp only [State.pkeVerify, hsrc, Bool.false_eq_true, if_false]
  rw [hkey]

theorem State.pkeRsa_modulus {h : Hash} (hhash : rsaHash a.nw.toNat = some h) (hsrc : a.src = true) {l n e : Nat}
    (hl : l = rsaLen a.curve.toNat) (hn : n = w.shelfNat a.sb.toNat l) (he : e = w.shelfNat a.sd.toNat 4) (hodd : e % 2 = 1)
    (hlarge : 3 ≤ e) (hbits : 2 ^ (8 * l - 1) ≤ n) : w.pkeRsa a =
      ({ code := if rsaVerify a.pss h (w.shelfGet a.sa.toNat h.len) l n e (w.shelfNat a.sc.toNat l) then 0 else 1 }, w) := by
  have hok : ¬(e % 2 = 0 ∨ e < 3 ∨ n < 2 ^ (8 * l - 1)) := by
    rintro (h | h | h)
    · omega
    · omega
    · exact absurd hbits (Nat.not_le.2 h)
  simp only [State.pkeRsa]
  rw [hhash]
  simp only [hsrc, if_true, ← hl, ← hn, ← he]
  rw [if_neg hok]

theorem State.pkeSign_key (hkey : w.pkeKey a 0 (0x10 + a.curve.toNat) = (k, some i, v)) (hpair : v.pairActive i = true) (z : Fin 8) :
    w.pkeSign a c z = ({ k with digest := c.digest (v.shelfGet a.sa.toNat (4 * a.nw.toNat)) },
      (v.zLoad z (beNat (v.vValue i))).zNonce z c) := by
  unfold State.pkeSign
  rw [hkey]
  simp only [hpair, Bool.not_true, Bool.false_eq_true, if_false]

theorem State.pkeEcdh_key (hkey : w.pkeKey a 2 (0x10 + a.curve.toNat) = (k, some i, v)) (z : Fin 8) {p : Nat × Nat}
    (hp : p = w.shelfPoint a.sa.toNat c) :
    w.pkeEcdh a c z = if c.valid p.1 p.2 then (k, (v.zLoad z (beNat (v.vValue i))).zMulStart z c (beNat (v.vValue i)) p)
      else ({ code := 2 }, v) := by
  subst hp
  unfold State.pkeEcdh
  rw [hkey]
  cases hvalid : c.valid (w.shelfPoint a.sa.toNat c).1 (w.shelfPoint a.sa.toNat c).2 <;> simp [hvalid]

end

/-- The order of each curve is a number of at most 576 bits. -/
theorem Curve.order_of_code {code : Nat} {c : Curve} (h : Curve.ofCode code = some c) : 1 < c.n ∧ c.n < 2 ^ 576 := by
  rw [show 576 = 192 * 3 by rfl, pow_mul]
  unfold Curve.ofCode at h
  split at h <;> cases h <;> constructor <;> norm_num [p256, p384, p521, bp256, bp384, bp512]

end Sys2Proof.Machine
/-! ## Programs of the public-key engine (R369 to R387) -/

namespace Sys2Proof.Machine

/-! ### A program begins -/

section
variable {w : State} {o : PkeOp} {c : Curve}

theorem State.pkeBegin_rsa (hop : o.op = 0x15) : w.pkeBegin o = w.pkeRsa o.args := by
  simp [State.pkeBegin, hop, opSpipe, opLevel1]

variable (hcurve : Curve.ofCode o.args.curve.toNat = some c)
include hcurve

theorem State.pkeBegin_verify (hop : o.op = 0x11) : w.pkeBegin o = w.pkeVerify o.args c := by
  simp [State.pkeBegin, hop, opSpipe, opLevel1, hcurve]

theorem State.pkeBegin_point (hop : o.op = 0x14) : w.pkeBegin o = (w.pkePoint o.args c, w) := by
  simp [State.pkeBegin, hop, opSpipe, opLevel1, hcurve]

variable (hrandom : w.rngBlocked = false)
include hrandom

theorem State.pkeBegin_sign (hop : o.op = 0x10) : w.pkeBegin o = w.pkeSign o.args c (o.ctx.getD 0) := by
  simp [State.pkeBegin, hop, opLevel1, hcurve, hrandom]

theorem State.pkeBegin_ecdh (hop : o.op = 0x12) : w.pkeBegin o = w.pkeEcdh o.args c (o.ctx.getD 0) := by
  simp [State.pkeBegin, hop, opLevel1, hcurve, hrandom]

theorem State.pkeBegin_keygen (hop : o.op = 0x13) : w.pkeBegin o = w.pkeKeygen c (o.ctx.getD 0) := by
  simp [State.pkeBegin, hop, opLevel1, hcurve, hrandom]

end

theorem State.pkeServes_random {u : State} {op : Nat} {a : PkeArgs} (hserves : u.pkeServes op a = true) (hpipe : opSpipe op = true) :
    u.rngBlocked = false := by
  simp only [State.pkeServes, hpipe, Bool.and_eq_true, Bool.true_and, Bool.not_eq_true'] at hserves
  obtain ⟨⟨-, hrandom⟩, -⟩ := hserves
  exact hrandom

/-- A program that only checks has no output shelves. -/
theorem State.pkeOuts_check {op : Nat} (hop : op = 0x11 ∨ op = 0x14 ∨ op = 0x15) (s : State) (a : PkeArgs) : s.pkeOuts op a = [] := by
  cases hio : s.pkeIo op a with
  | none => rw [State.pkeOuts, hio]
  | some io =>
    rw [State.pkeOuts_of_io hio]
    have hlevel : opLevel1 op = false := by rcases hop with rfl | rfl | rfl <;> rfl
    have hsign : op ≠ 0x10 := by omega
    have hecdh : op ≠ 0x12 := by omega
    simp only [State.pkeIo, hlevel, if_neg hsign, if_neg hecdh, Bool.false_eq_true, if_false] at hio
    repeat' split at hio
    all_goals cases hio
    all_goals rfl

/-! ### Secrets in a sealed context (R369) -/

section
variable {cv : Curve} (hone : 1 < cv.n) (hfits : cv.n < 2 ^ 576)
include hone hfits

/-- A nonce is a number below the order, drawn afresh and blinded; the scalar stays. -/
theorem State.zNonce_blinds (s : State) (c : Fin 8) : (s.zNonce c cv).zScalar c = s.zScalar c ∧ (s.zNonce c cv).zGet c 2 < 2 ^ 64 ∧
    ∃ n, 0 < n ∧ n < cv.n ∧ (s.zNonce c cv).zBlind c = n + (s.zNonce c cv).zGet c 2 * cv.n := by
  cases hk : State.drawBelow cv.n drawTries s with
  | mk k s1 =>
  have hrange := State.drawBelow_range hone drawTries s
  have hdraws := State.drawsOnly_drawBelow cv.n drawTries s
  rw [hk] at hrange hdraws
  obtain ⟨hpos, hlt⟩ := hrange
  obtain ⟨hrand, hblind⟩ := s1.zBlind_zMulStart c cv k (cv.gx, cv.gy) (hlt.trans hfits) hfits
  rw [State.zNonce_eq hk, State.zScalar_zMulStart, State.zScalar, State.zScalar, hdraws.zGet, hdraws.zGet]
  exact ⟨rfl, hrand, k, hpos, hlt, hblind⟩

/-- A new scalar is drawn, enters its context, and multiplies the base point. -/
theorem State.pkeKeygen_blinds (s : State) (c : Fin 8) : ∃ v, s.pkeKeygen cv c = ({}, v) ∧ s.SealedOnly v ∧
    0 < v.zScalar c ∧ v.zScalar c < cv.n ∧ v.zGet c 2 < 2 ^ 64 ∧ v.zBlind c = v.zScalar c + v.zGet c 2 * cv.n := by
  cases hd : State.drawBelow cv.n drawTries s with
  | mk d s1 =>
  have hrange := State.drawBelow_range hone drawTries s
  have hdraws := State.drawsOnly_drawBelow cv.n drawTries s
  rw [hd] at hrange hdraws
  obtain ⟨hpos, hlt⟩ := hrange
  have hscalar : ((s1.zLoad c d).zMulStart c cv d (cv.gx, cv.gy)).zScalar c = d := by
    rw [State.zScalar_zMulStart, State.zScalar_zLoad s1 c (hlt.trans hfits)]
  obtain ⟨hrand, hblind⟩ := (s1.zLoad c d).zBlind_zMulStart c cv d (cv.gx, cv.gy) (hlt.trans hfits) hfits
  refine ⟨(s1.zLoad c d).zMulStart c cv d (cv.gx, cv.gy), ?_,
    (hdraws.sealedOnly.trans (s1.sealedOnly_zLoad c d)).trans (State.sealedOnly_zMulStart _ c cv d _), ?_⟩
  · unfold State.pkeKeygen
    rw [hd]
  · rw [hscalar]
    exact ⟨hpos, hlt, hrand, hblind⟩

end

/-! ### Programs of a channel or a job -/

section
variable {s u w v : State} {r : EngReq} {op blk : Nat} {a : PkeArgs} {c : Curve} {k : PkeRes} {i : Nat}
  (hask : s.pkeAsk r op = some (u, blk, a)) (hserves : u.pkeServes op a = true) (hfree : u.pkeFree r = true)
  (hw : w = u.pkeAlone r op blk a)
include hask hserves hfree hw

/-- An operation that is not refused as it begins runs. -/
theorem State.pkeStart_taken (hknown : opKnown op = true) (hop : op ≠ 0x13) {x : PkeRes}
    (hbegin : w.pkeBegin (u.pkeNew r op blk a) = (x, v)) (hecc : x.ecc = false) (hpass : x.refuses op = false)
    (hkeep : v.eng.pke = w.eng.pke) (htick : v.tick = w.tick) : s.pkeStart op r = v.pkeTaken (u.pkeNew r op blk a) x := by
  subst hw
  exact (State.pkeStart_ask hask hserves hknown hop).trans (State.pkeJoin_taken hfree hbegin hecc hkeep hpass htick)

/-- A program that only checks comes to its code, and leaves memory as it stands. -/
theorem State.pkeStart_check (hop : op = 0x11 ∨ op = 0x14 ∨ op = 0x15) {code : Nat} (hcode : code ≤ 2)
    (hbegin : w.pkeBegin (u.pkeNew r op blk a) = ({ code := code }, w)) :
    ∃ t o, s.pkeStart op r = t ∧ t.pkeRuns r op blk a o ∧ t.mem = u.mem ∧ o.code = code := by
  have hpass : ({ code := code } : PkeRes).refuses op = false := by
    rcases hop with rfl | rfl | rfl <;> simp [PkeRes.refuses, opSpipe] <;> omega
  refine ⟨_, _, State.pkeStart_taken hask hserves hfree hw (by rcases hop with rfl | rfl | rfl <;> rfl) (by omega) hbegin rfl hpass
    rfl rfl, State.pkeTaken_runs w _, ?_, rfl⟩
  subst hw
  rw [State.pkeTaken_mem]
  exact congrArg (fun l => ((u.pkeAlone r op blk a).shelvesZero l).mem) (State.pkeOuts_check hop _ a)

theorem State.ecdsaSign_runs (hop : op = 0x10) (hcurve : Curve.ofCode a.curve.toNat = some c)
    (hkey : w.pkeKey a 0 (0x10 + a.curve.toNat) = (k, some i, v)) (hpair : v.pairActive i = true) (hfits : beNat (v.vValue i) < 2 ^ 576) :
    ∃ t o, s.pkeStart 0x10 r = t ∧ t.pkeRuns r 0x10 blk a o ∧ o.key = some (i, (v.vEnt i).gen) ∧ o.ctx = some 0 ∧
      o.digest = c.digest (u.shelfGet a.sa.toNat (4 * a.nw.toNat)) ∧ t.zScalar 0 = beNat (v.vValue i) ∧ t.zGet 0 2 < 2 ^ 64 ∧
      ∃ n, 0 < n ∧ n < c.n ∧ t.zBlind 0 = n + t.zGet 0 2 * c.n := by
  subst hop
  obtain ⟨rfl, hlook⟩ := State.pkeKey_found hkey
  obtain ⟨hone, hn⟩ := Curve.order_of_code hcurve
  have hrandom : w.rngBlocked = false := by
    rw [hw]
    exact State.pkeServes_random hserves rfl
  have hctx : (u.pkeNew r 0x10 blk a).ctx = some 0 := State.pkeNew_ctx hfree
  have hbegin : w.pkeBegin (u.pkeNew r 0x10 blk a) = w.pkeSign a c ((u.pkeNew r 0x10 blk a).ctx.getD 0) :=
    State.pkeBegin_sign hcurve hrandom rfl
  rw [hctx, Option.getD_some, State.pkeSign_key hkey hpair] at hbegin
  have hsealed := (v.sealedOnly_zLoad 0 (beNat (v.vValue i))).trans (State.sealedOnly_zNonce _ 0 c)
  have hstart := State.pkeStart_taken hask hserves hfree hw rfl (by decide) hbegin rfl rfl
    (hsealed.pke.trans (congrArg Engines.pke hlook.eng)) (hsealed.tick.trans hlook.tick)
  obtain ⟨hscalar, hrand, hnonce⟩ := State.zNonce_blinds hone hn (v.zLoad 0 (beNat (v.vValue i))) 0
  refine ⟨_, _, hstart, State.pkeTaken_runs _ _, rfl, hctx, ?_, hscalar.trans (v.zScalar_zLoad 0 hfits), hrand, hnonce⟩
  have hdigest := hlook.shelfGet a.sa.toNat (4 * a.nw.toNat)
  rw [hw] at hdigest
  exact congrArg c.digest hdigest

theorem State.ecdh_runs (hop : op = 0x12) (hcurve : Curve.ofCode a.curve.toNat = some c)
    (hkey : w.pkeKey a 2 (0x10 + a.curve.toNat) = (k, some i, v)) {p : Nat × Nat} (hp : p = u.shelfPoint a.sa.toNat c)
    (hfits : beNat (v.vValue i) < 2 ^ 576) (hvalid : c.valid p.1 p.2 = true) :
    ∃ t o, s.pkeStart 0x12 r = t ∧ t.pkeRuns r 0x12 blk a o ∧ o.ctx = some 0 ∧ o.key = some (i, (v.vEnt i).gen) ∧
      t.zScalar 0 = beNat (v.vValue i) ∧ t.zGet 0 2 < 2 ^ 64 ∧ t.zBlind 0 = beNat (v.vValue i) + t.zGet 0 2 * c.n := by
  subst hop
  obtain ⟨rfl, hlook⟩ := State.pkeKey_found hkey
  obtain ⟨hone, hn⟩ := Curve.order_of_code hcurve
  have hrandom : w.rngBlocked = false := by
    rw [hw]
    exact State.pkeServes_random hserves rfl
  have hctx : (u.pkeNew r 0x12 blk a).ctx = some 0 := State.pkeNew_ctx hfree
  have hbegin : w.pkeBegin (u.pkeNew r 0x12 blk a) = w.pkeEcdh a c ((u.pkeNew r 0x12 blk a).ctx.getD 0) :=
    State.pkeBegin_ecdh hcurve hrandom rfl
  rw [hctx, Option.getD_some, State.pkeEcdh_key hkey 0 (p := p) (by rw [hp, hw]; rfl), if_pos hvalid] at hbegin
  have hsealed := (v.sealedOnly_zLoad 0 (beNat (v.vValue i))).trans (State.sealedOnly_zMulStart _ 0 c (beNat (v.vValue i)) p)
  have hstart := State.pkeStart_taken hask hserves hfree hw rfl (by decide) hbegin rfl rfl
    (hsealed.pke.trans (congrArg Engines.pke hlook.eng)) (hsealed.tick.trans hlook.tick)
  obtain ⟨hrand, hblind⟩ := (v.zLoad 0 (beNat (v.vValue i))).zBlind_zMulStart 0 c (beNat (v.vValue i)) p hfits hn
  exact ⟨_, _, hstart, State.pkeTaken_runs _ _, hctx, rfl,
    (State.zScalar_zMulStart _ 0 c _ p).trans (v.zScalar_zLoad 0 hfits), hrand, hblind⟩

/-- A point that is not on the curve ends ECDH as it begins (R384). -/
theorem State.ecdh_dropped (hop : op = 0x12) (hcurve : Curve.ofCode a.curve.toNat = some c)
    (hkey : w.pkeKey a 2 (0x10 + a.curve.toNat) = (k, some i, v)) {p : Nat × Nat} (hp : p = u.shelfPoint a.sa.toNat c)
    (hinvalid : c.valid p.1 p.2 = false) : (s.pkeStart 0x12 r).eng.pke = [] := by
  subst hop
  obtain ⟨-, hlook⟩ := State.pkeKey_found hkey
  have hrandom : w.rngBlocked = false := by
    rw [hw]
    exact State.pkeServes_random hserves rfl
  have hbegin : w.pkeBegin (u.pkeNew r 0x12 blk a) = w.pkeEcdh a c ((u.pkeNew r 0x12 blk a).ctx.getD 0) :=
    State.pkeBegin_ecdh hcurve hrandom rfl
  rw [State.pkeEcdh_key hkey _ (p := p) (by rw [hp, hw]; rfl), if_neg (by simp [hinvalid])] at hbegin
  have hkeep := congrArg Engines.pke hlook.eng
  subst hw
  rw [State.pkeStart_ask hask hserves rfl (by decide)]
  exact State.pkeJoin_dropped hfree hbegin rfl hkeep rfl

end

/-! ### KEYGEN for the Vault (R327, R378) -/

/-- The block that the Vault makes of a GEN command. -/
def VNew.genArgs (n : VNew) : PkeArgs := ⟨BitVec.ofNat 4 n.type.toNat, false, false, 0, n.role, n.keyid, 0, 0, 0, 0⟩

theorem State.keygen_runs {s : State} {e : Agent} {n : VNew} {c : Curve}
    (hgen : s.vlt.gen.find? (fun g => decide (g.1 = e)) = some (e, n)) (hfree : s.pkeFree (.vault e) = true)
    (hserves : s.pkeServes 0x13 n.genArgs = true) (hcurve : Curve.ofCode n.genArgs.curve.toNat = some c) :
    ∃ t o, s.pkeStart 0x13 (.vault e) = t ∧ t.pkeRuns (.vault e) 0x13 0 n.genArgs o ∧ t.vlt = s.vlt ∧ t.regs = s.regs ∧
      o.ctx = some 0 ∧ 0 < t.zScalar 0 ∧ t.zScalar 0 < c.n ∧ t.zGet 0 2 < 2 ^ 64 ∧
      t.zBlind 0 = t.zScalar 0 + t.zGet 0 2 * c.n := by
  obtain ⟨hone, hn⟩ := Curve.order_of_code hcurve
  have hjoin : s.pkeStart 0x13 (.vault e) = s.pkeJoin (.vault e) 0x13 0 n.genArgs := by
    have hnone : s.pkeOf (.vault e) = none := by rw [State.pkeOf, State.pke_empty_of_free hfree]; rfl
    have hpass := State.pkeRefuse_serves hserves rfl (r := .vault e) fun _ => ⟨e, rfl⟩
    simp only [VNew.genArgs] at hpass
    simp only [State.pkeStart, hgen, hnone, State.pkeAccept, hpass, VNew.genArgs]
    rfl
  let w := s.pkeAlone (.vault e) 0x13 0 n.genArgs
  have hctx : (s.pkeNew (.vault e) 0x13 0 n.genArgs).ctx = some 0 := State.pkeNew_ctx hfree
  have hbegin := State.pkeBegin_keygen (w := w) (o := s.pkeNew (.vault e) 0x13 0 n.genArgs) hcurve
    (State.pkeServes_random hserves rfl) rfl
  obtain ⟨v, hv, hsealed, hscalar⟩ := State.pkeKeygen_blinds hone hn w 0
  rw [hctx, Option.getD_some, hv] at hbegin
  have hstart := hjoin.trans (State.pkeJoin_taken hfree hbegin rfl hsealed.pke rfl hsealed.tick)
  refine ⟨_, _, hstart, State.pkeTaken_runs v _, (State.pkeTaken_vlt v _ _).trans hsealed.vlt, ?_, hctx, hscalar⟩
  simp only [State.pkeTaken]
  rw [State.pkeShown_vault (a := e) rfl]
  exact (congrArg State.regs (v.shelvesZero_eq _)).trans hsealed.regs

/-- KEYGEN is served for a code that names a curve. -/
theorem State.curve_of_keygen {s : State} {a : PkeArgs} (hserves : s.pkeServes 0x13 a = true) :
    ∃ c, Curve.ofCode a.curve.toNat = some c := by
  obtain ⟨io, hio⟩ := State.pkeIo_serves hserves
  cases hcurve : Curve.ofCode a.curve.toNat with
  | some c => exact ⟨c, rfl⟩
  | none => simp [State.pkeIo, opLevel1, hcurve] at hio

/-- The PKE's answer to a block rests on the mode, the fuses, and three registers. -/
theorem State.pkeServes_congr {s t : State} (hsys : t.sys = s.sys) (hsi : t.si = s.si)
    (hnouc : t.rd SYS_RISE_NOUC = s.rd SYS_RISE_NOUC) (hfail : t.rd RNG_STAT_FAIL = s.rd RNG_STAT_FAIL)
    (hlen : t.rd PKE_SHELFCFG_LEN = s.rd PKE_SHELFCFG_LEN) (op : Nat) (a : PkeArgs) : t.pkeServes op a = s.pkeServes op a := by
  have hbytes : t.shelfBytes = s.shelfBytes := by rw [State.shelfBytes, State.shelfBytes, hlen]
  have hio : t.pkeIo op a = s.pkeIo op a := by simp only [State.pkeIo, State.shelfSpan, hbytes]
  have hfits : t.shelfFits = s.shelfFits := by
    funext sh l
    have hspan : t.shelfSpan l = s.shelfSpan l := by rw [State.shelfSpan, State.shelfSpan, hbytes]
    have hcount : t.shelfCount = s.shelfCount := by rw [State.shelfCount, State.shelfCount, hbytes]
    rw [State.shelfFits, State.shelfFits, decide_eq_decide, hspan, hcount]
  have hrange : t.shelfRange = s.shelfRange := by
    funext sh l
    simp only [State.shelfRange, State.shelfOff, State.shelfSpan, hbytes]
  have hok (x : PkeIo) : t.pkeIoOk op x = s.pkeIoOk op x := by simp only [State.pkeIoOk, hfits, hrange]
  simp only [State.pkeServes, State.pkeProg, State.rngBlocked, State.isSet, State.stage, hsys, hsi, hnouc, hfail, hio, hok]

theorem State.vGenCheck_vBusy (s : State) (a : Agent) (n : VNew) : (s.vBusy (.agent a)).vGenCheck n = s.vGenCheck n := by
  have hfail : (s.vBusy (.agent a)).rd RNG_STAT_FAIL = s.rd RNG_STAT_FAIL := s.rd_vBusy_ne a (by cases a <;> decide)
  simp only [State.vGenCheck, State.isSet, hfail]
  rfl

section
variable {t : State} {a : Agent} {n : VNew}

theorem State.vGenStart_refused (hcode : t.vGenCheck n ≠ 0) :
    (t.vBusy (.agent a)).vGenStart a n = (t.vBusy (.agent a)).vEnd (.agent a) (t.vGenCheck n) 0 := by
  simp only [State.vGenStart, State.vGenCheck_vBusy]

/-- GEN that nothing refuses starts KEYGEN, with its writer's status BUSY (R327). -/
theorem State.vGenStart_runs {c : Curve} (hcheck : t.vGenCheck n = 0) (hempty : t.vlt.gen = []) (hfree : t.pkeFree (.vault a) = true)
    (hserves : t.pkeServes 0x13 n.genArgs = true) (hcurve : Curve.ofCode n.genArgs.curve.toNat = some c) :
    ∃ w o, (t.vBusy (.agent a)).vGenStart a n = w ∧ w.rd (VLT_STAT_STATE a) = 1 ∧ w.vlt = { t.vlt with gen := [(a, n)] } ∧
      w.pkeRuns (.vault a) 0x13 0 n.genArgs o := by
  let b := t.vBusy (.agent a)
  let g : State := { b with vlt := { b.vlt with gen := [(a, n)] } }
  have hwidth : (VLT_STAT_STATE a).width ≤ 32 := by cases a <;> decide
  have hgen : b.vGenStart a n = (g.vBusy (.agent a)).pkeStart 0x13 (.vault a) := by
    have hnone : b.vlt.gen = [] := hempty
    simp only [State.vGenStart, b, State.vGenCheck_vBusy, hcheck]
    change (State.vBusy { b with vlt := { b.vlt with gen := b.vlt.gen.filter _ ++ [(a, n)] } } _).pkeStart _ _ = _
    rw [hnone]
    rfl
  have hrd {f : Field} (hne : (VLT_STAT_STATE a).key ≠ f.key) : (g.vBusy (.agent a)).rd f = t.rd f :=
    (g.rd_vBusy_ne a hne).trans (t.rd_vBusy_ne a hne)
  have hserves' : (g.vBusy (.agent a)).pkeServes 0x13 n.genArgs = true := by
    have hnouc : (VLT_STAT_STATE a).key ≠ SYS_RISE_NOUC.key := by cases a <;> decide
    have hfail : (VLT_STAT_STATE a).key ≠ RNG_STAT_FAIL.key := by cases a <;> decide
    have hlen : (VLT_STAT_STATE a).key ≠ PKE_SHELFCFG_LEN.key := by cases a <;> decide
    exact (State.pkeServes_congr (s := t) (t := g.vBusy (.agent a)) rfl rfl (hrd hnouc) (hrd hfail) (hrd hlen) _ _).trans hserves
  obtain ⟨w, o, hw, hruns, hvlt, hregs, -⟩ := State.keygen_runs (s := g.vBusy (.agent a)) (e := a) (n := n) (by simp [g])
    hfree hserves' hcurve
  refine ⟨w, o, hgen.trans hw, ?_, hvlt.trans ((g.vBusy_vlt _).trans ?_), hruns⟩
  · rw [State.rd_congr hregs]
    exact State.rd_wr_self _ _ _ hwidth
  · rfl

end

/-- Settles O47: an operation alone in the engine begins at once; its scalar enters the sealed context under a mask, and its
multiplier stands there blinded by what was drawn. -/
theorem pkeProgramsAct : Obligations.PkeProgramsAct := by
  unfold Obligations.PkeProgramsAct
  refine ⟨?programs, fun s => ⟨?keygen, ?gen⟩⟩
  case programs =>
    intro s u w v r op blk a c k i hask hserves hfree hw
    refine ⟨?verify, ?point, ?rsa, ?sign, ?ecdh⟩
    case verify =>
      rintro e q hop hcurve rfl rfl
      subst hop hw
      have hbegin : (u.pkeAlone r 0x11 blk a).pkeBegin (u.pkeNew r 0x11 blk a) = (u.pkeAlone r 0x11 blk a).pkeVerify a c :=
        State.pkeBegin_verify hcurve rfl
      refine ⟨fun p hsrc hp => ?_, fun hsrc hkey hecc => ?_⟩
      · rw [State.pkeVerify_point hsrc] at hbegin
        obtain ⟨t, o, ht, h⟩ := State.pkeStart_check hask hserves hfree rfl (.inl rfl) (by split <;> [skip; split] <;> omega) hbegin
        subst hp
        exact ⟨t, o, congrArg _ ht, h⟩
      · rw [State.pkeVerify_key hsrc hkey] at hbegin
        obtain ⟨-, hlook⟩ := State.pkeKey_found hkey
        have hpass (n : Nat) (hn : n ≤ 1) : ({ k with code := n } : PkeRes).refuses 0x11 = false := by
          simp [PkeRes.refuses, opSpipe]
          omega
        exact ⟨_, _, congrArg Host.Outcome.next (State.pkeStart_taken hask hserves hfree rfl rfl (by decide) hbegin hecc
          (hpass _ (by split <;> omega)) (congrArg Engines.pke hlook.eng) hlook.tick), State.pkeTaken_runs v _, rfl⟩
    case point =>
      rintro p hop hcurve rfl
      subst hop hw
      have hbegin : (u.pkeAlone r 0x14 blk a).pkeBegin (u.pkeNew r 0x14 blk a) = _ := State.pkeBegin_point hcurve rfl
      obtain ⟨t, o, ht, h⟩ := State.pkeStart_check hask hserves hfree rfl (.inr (.inl rfl)) (by split <;> omega) hbegin
      exact ⟨t, o, congrArg _ ht, h⟩
    case rsa =>
      rintro h l n e hop hhash hl hsrc hn he hodd hlarge hbits
      subst hop hw
      have hbegin : (u.pkeAlone r 0x15 blk a).pkeBegin (u.pkeNew r 0x15 blk a) = _ :=
        (State.pkeBegin_rsa rfl).trans (State.pkeRsa_modulus hhash hsrc hl hn he hodd hlarge hbits)
      obtain ⟨t, o, ht, h⟩ := State.pkeStart_check hask hserves hfree rfl (.inr (.inr rfl)) (by split <;> omega) hbegin
      exact ⟨t, o, congrArg _ ht, h⟩
    case sign =>
      rintro d hop hcurve hkey - hpair rfl hfits
      obtain ⟨t, o, ht, h⟩ := State.ecdsaSign_runs hask hserves hfree hw hop hcurve hkey hpair hfits
      exact ⟨t, o, congrArg _ ht, h⟩
    case ecdh =>
      rintro p d hop hcurve hkey - hp rfl hfits
      refine ⟨fun hvalid => ?_, fun hinvalid => ⟨_, rfl, State.ecdh_dropped hask hserves hfree hw hop hcurve hkey hp hinvalid⟩⟩
      obtain ⟨t, o, ht, h⟩ := State.ecdh_runs hask hserves hfree hw hop hcurve hkey hp hfits hvalid
      exact ⟨t, o, congrArg _ ht, h⟩
  case keygen =>
    rintro e n c a hgen hfree rfl hserves hcurve
    obtain ⟨t, o, ht, hruns, -, -, h⟩ := State.keygen_runs hgen hfree hserves hcurve
    exact ⟨t, o, congrArg _ ht, hruns, h⟩
  case gen =>
    intro c t n hrun ht hn hdone hidle hwait
    subst hn
    have hexec : (t.vBusy (.agent c.agent)).vExec (t.vStagedCmd c.agent 11 0) =
        (t.vBusy (.agent c.agent)).vGenStart c.agent (t.vStaged c.agent) := rfl
    refine ⟨fun hcode => State.next_vCmd hrun ht hdone hidle hwait (hexec.trans (State.vGenStart_refused hcode)) ?_,
      fun a hcheck hfree ha hserves => ?_⟩
    · rw [State.vEnd_vlt, State.vBusy_vlt]
    · subst ha
      have hempty : t.vlt.gen = [] := by
        simp only [State.vIdle, Bool.and_eq_true, List.isEmpty_iff] at hidle
        exact hidle.2
      obtain ⟨cv, hcv⟩ := State.curve_of_keygen (a := (t.vStaged c.agent).genArgs) hserves
      obtain ⟨w, o, hw, hstate, hvlt, hruns⟩ := State.vGenStart_runs (a := c.agent) hcheck hempty hfree hserves hcv
      exact ⟨w, o, State.next_vCmd hrun ht hdone hidle hwait (hexec.trans hw) (by rw [hvlt]), hstate, by rw [hvlt], hruns⟩

end Sys2Proof.Machine
/-! ## A command that has the symmetric engine to itself (R406 to R409) -/

namespace Sys2Proof.Machine

/-! ### The order of service, with one command -/

section
variable {s : State} {o : SymOp} (hsym : s.eng.sym = [o]) (hparked : o.parked = true) (hidle : s.reqIdle o.req = false)
include hsym hparked hidle

theorem State.symHead_alone : s.symHead = some o := by simp [State.symHead, hsym, hparked, hidle]

theorem State.symServe_begins (hnew : o.started = false) (f : Nat) : State.symServe (f + 1) s = State.symServe f (s.symEnter o) := by
  simp [State.symServe, State.symHead_alone hsym hparked hidle, hnew]

theorem State.symServe_begun (hold : o.started = true) : ∀ f, State.symServe f s = s
  | 0 => rfl
  | f + 1 => by simp [State.symServe, State.symHead_alone hsym hparked hidle, hold]

end

/-- What the engine shows of a command that it runs: DSTAT of a direct channel, or the job's state. -/
def State.symShown (s : State) (o : SymOp) : State :=
  match o.req with
  | .direct c => s.wr (SYM_DSTAT_STATE c) 2
  | _ => s.jobYield o.req o.started true

theorem State.symShown_eq (s : State) (o : SymOp) :
    s.symShown o = { s with tick := (s.symShown o).tick, regs := (s.symShown o).regs } := by
  unfold State.symShown
  split
  · rfl
  · exact s.jobYield_eq _ _ _

/-- A lone command that has begun is the one the engine runs. -/
theorem State.symStates_begun {s : State} {o : SymOp} (hsym : s.eng.sym = [o]) (hparked : o.parked = true)
    (hidle : s.reqIdle o.req = false) (hold : o.started = true) :
    s.symStates = { s.symShown o with eng := { s.eng with sym := [{ o with parked := false }] } } := by
  have hrun : (s.symHead.map SymOp.id == some o.id) = true := by simp [State.symHead_alone hsym hparked hidle]
  cases hreq : o.req with
  | direct c =>
    simp only [State.symStates, State.symServe_begun hsym hparked hidle hold, hsym, List.foldl_cons, List.foldl_nil, hreq, hrun,
      State.symShown, State.wr_eng, List.map_cons, List.map_nil, Bool.not_true, if_true]
  | job _ | vault _ | image =>
    simp only [State.symStates, State.symServe_begun hsym hparked hidle hold, hsym, List.foldl_cons, List.foldl_nil, hreq, hrun,
      State.symShown, State.jobYield_eng, List.map_cons, List.map_nil, Bool.not_true]

/-- A lone command begins, and the engine takes up its order with what that leaves. -/
theorem State.symStates_begins {s : State} {o : SymOp} (hsym : s.eng.sym = [o]) (hparked : o.parked = true)
    (hidle : s.reqIdle o.req = false) (hnew : o.started = false) (hend : ∀ f, State.symServe f (s.symEnter o) = s.symEnter o) :
    s.symStates = (s.symEnter o).symStates := by
  have hserve : State.symServe 2 s = s.symEnter o := (State.symServe_begins hsym hparked hidle hnew 1).trans (hend 1)
  unfold State.symStates
  rw [hsym]
  simp only [List.length_cons, List.length_nil, hserve, hend]

/-! ### A command begins -/

/-- The masks of a command that uses a secret key (R404), and the draws they take. -/
def State.symMasked (s : State) (o : SymOp) (key : List Byte) : Option SymMask × State :=
  if o.vaultKey ∨ o.op = 0x20 then (some (s.symMasks o.op o.args key).1, (s.symMasks o.op o.args key).2) else (none, s)

theorem State.drawsOnly_symMasked (s : State) (o : SymOp) (key : List Byte) : s.DrawsOnly (s.symMasked o key).2 := by
  unfold State.symMasked
  split
  · exact ⟨_, _, rfl⟩
  · exact ⟨s.draws, s.eng.reqs, rfl⟩

/-- A key schedule stands under a mask as long as it is (R404). -/
theorem State.sched_symMasks (s : State) (op : Nat) (a : SymArgs) (key : List Byte) :
    xorB (s.symMasks op a key).1.sched ((s.symMasks op a key).1.key.flatMap Word.bytes) = symSchedule op key := by
  refine xorB_xorB ?_
  rw [length_flatMap_bytes]
  change _ ≤ 4 * (s.drbgWords _).1.length
  rw [State.length_drbgWords, ceilDiv]
  omega

/-- The command with what it comes to. -/
def SymOp.begun (o : SymOp) (x : SymRes) (kdf : Option VNew) (mask : Option SymMask) : SymOp :=
  { o with
    started := true, mask := mask, out := x.out, code := x.code, kdf := kdf
    ctx := if !symMulti o.op then none else if o.args.last then some none
      else some ((x.run).map (fun run => { req := o.req, op := o.op, key := x.key, run := run })) }

/-- A lone command stands begun, in the state `v` that its beginning leaves. -/
def State.symBegun (v : State) (o : SymOp) (x : SymRes) (kdf : Option VNew) (key : List Byte) : State :=
  let m := v.symMasked o key
  { m.2 with eng := { m.2.eng with sym := [o.begun x kdf m.1] } }

/-- The context that a command works in as it begins: none for a first part or an operation without parts. -/
def State.symWorks (s : State) (op : Nat) (a : SymArgs) : Option SymCtx :=
  if symMulti op = true ∧ a.first = false then s.eng.ctx.at (finOf 8 a.ctx.toNat) else none

theorem State.symEnter_begun {s v : State} {o : SymOp} {x : SymRes} {kdf : Option VNew} {key : List Byte}
    (hbegin : s.symBegin o.op o.args (s.symWorks o.op o.args) = (x, kdf, key, v)) (hpass : symRefusal x.code = false)
    (hecc : x.ecc = false) (hkeep : v.eng.sym = [o]) : s.symEnter o = v.symBegun o x kdf key := by
  have hworks : (if symMulti o.op = true ∧ (!o.args.first) = true then s.eng.ctx.at (finOf 8 o.args.ctx.toNat) else none) =
      s.symWorks o.op o.args := by
    simp only [State.symWorks, Bool.not_eq_true']
  simp only [State.symEnter, hworks, hbegin, hpass, hecc, Bool.false_eq_true, if_false]
  by_cases hsecret : o.vaultKey = true ∨ o.op = 0x20
  · have hmasked : (v.symMasks o.op o.args key).2.eng.sym = [o] := hkeep
    simp only [State.symBegun, State.symMasked, if_pos hsecret]
    simp [SymOp.begun, hmasked]
  · simp only [State.symBegun, State.symMasked, if_neg hsecret]
    simp [SymOp.begun, hkeep]

/-- The engine runs that command. -/
def State.symTaken (v : State) (o : SymOp) (x : SymRes) (kdf : Option VNew) (key : List Byte) : State :=
  let t := v.symBegun o x kdf key
  let y := o.begun x kdf (v.symMasked o key).1
  { t.symShown y with eng := { t.eng with sym := [{ y with parked := false }] } }

theorem State.symStates_taken {s v : State} {o : SymOp} {x : SymRes} {kdf : Option VNew} {key : List Byte} (hsym : s.eng.sym = [o])
    (hparked : o.parked = true) (hidle : s.reqIdle o.req = false) (hnew : o.started = false)
    (hbegin : s.symBegin o.op o.args (s.symWorks o.op o.args) = (x, kdf, key, v)) (hpass : symRefusal x.code = false)
    (hecc : x.ecc = false) (hkeep : v.eng.sym = [o]) (htick : v.tick = s.tick) : s.symStates = v.symTaken o x kdf key := by
  have henter := State.symEnter_begun hbegin hpass hecc hkeep
  have hmasked : (v.symBegun o x kdf key).tick = s.tick := by
    obtain ⟨_, _, h⟩ := v.drawsOnly_symMasked o key
    exact (congrArg State.tick h).trans htick
  have hbusy : (v.symBegun o x kdf key).reqIdle o.req = false := (State.reqIdle_congr hmasked o.req).trans hidle
  have hserve := State.symServe_begun (s := v.symBegun o x kdf key) rfl (show (o.begun x kdf _).parked = true from hparked) hbusy rfl
  rw [State.symStates_begins hsym hparked hidle hnew (henter ▸ hserve), henter,
    State.symStates_begun (s := v.symBegun o x kdf key) rfl (show (o.begun x kdf _).parked = true from hparked) hbusy rfl]
  rfl

theorem State.DrawsOnly.mem {s t : State} (h : s.DrawsOnly t) : t.mem = s.mem := by obtain ⟨_, _, rfl⟩ := h; rfl

theorem State.DrawsOnly.ctx {s t : State} (h : s.DrawsOnly t) : t.eng.ctx = s.eng.ctx := by obtain ⟨_, _, rfl⟩ := h; rfl

section
variable (v : State) (o : SymOp) (x : SymRes) (kdf : Option VNew) (key : List Byte)

theorem State.symTaken_mem : (v.symTaken o x kdf key).mem = v.mem := by
  simp only [State.symTaken]
  rw [State.symShown_eq]
  exact (v.drawsOnly_symMasked o key).mem

theorem State.symTaken_ctx : (v.symTaken o x kdf key).eng.ctx = v.eng.ctx :=
  (v.drawsOnly_symMasked o key).ctx

end

/-! ### What a command's beginning leaves as it stands -/

theorem State.lookOnly_symVaultKey (s : State) (op : Nat) (a : SymArgs) (ctx : Option SymCtx) :
    s.LookOnly (s.symVaultKey op a ctx).2.2 := by
  simp only [State.symVaultKey]
  split
  · rename_i k _
    have hentry := s.lookOnly_vUseEntry k.1
    split
    · exact .refl s
    · split
      all_goals
        rename_i huse
        rw [huse] at hentry
        exact hentry
  · have hlook := s.lookOnly_vLookup .other a.role a.keyid (symUsage op a.dir)
    repeat' split
    all_goals exact hlook

theorem State.lookOnly_symKey (s : State) (op : Nat) (a : SymArgs) (ctx : Option SymCtx) : s.LookOnly (s.symKey op a ctx).2.2 := by
  have hself := State.LookOnly.refl s
  have hvault := s.lookOnly_symVaultKey op a ctx
  simp only [State.symKey]
  repeat' split
  all_goals assumption

theorem State.lookOnly_symBegin (s : State) (op : Nat) (a : SymArgs) (ctx : Option SymCtx) :
    s.LookOnly (s.symBegin op a ctx).2.2.2 := by
  have hkey := s.lookOnly_symKey op a ctx
  unfold State.symBegin
  split
  · exact .refl s
  · split
    all_goals
      rename_i h
      rw [h] at hkey
    · exact hkey
    · repeat' split
      all_goals exact hkey

/-! ### A block that the engine serves, empty before -/

/-- A command as it joins the engine. -/
def State.symNew (s : State) (r : EngReq) (op blk : Nat) (a : SymArgs) : SymOp :=
  { id := s.eng.count, req := r, op := op, args := a, blk := blk, parked := true }

section
variable {s u : State} {r : EngReq} {op blk : Nat} {a : SymArgs} {clean : Bool}

theorem State.symRefuse_serves (hserves : u.symServes r op a clean = true) : ∃ m, u.symRefuse r op a clean = (0, m) := by
  simp only [State.symServes, Bool.and_eq_true, Bool.not_eq_true', decide_eq_true_eq] at hserves
  obtain ⟨⟨⟨⟨⟨⟨hstopped, hmode⟩, hknown⟩, hclean⟩, hlen⟩, hranges⟩, hctx⟩ := hserves
  refine ⟨(u.symContext r op a).1.misuse, ?_⟩
  simp [State.symRefuse, hstopped, hmode, hknown, hclean, hlen, hranges, hctx]

section
variable (hask : s.symAsk r op = some (u, blk, a, clean)) (hserves : u.symServes r op a clean = true)
  (hfree : u.symFreeFor r = true)
include hask hserves hfree

/-- A requester's command that the engine serves joins it. -/
theorem State.symStart_ask : s.symStart op r = (u.symAlone r op blk a).symStates := by
  obtain ⟨m, hnone⟩ := State.symRefuse_serves hserves
  have hempty : u.eng.sym = [] := by
    simp only [State.symFreeFor, Bool.and_eq_true, List.isEmpty_iff] at hfree
    exact hfree.1
  have haccept : u.symAccept r op blk a clean = (u.symAlone r op blk a).symStates := by
    simp only [State.symAccept, hnone, State.symAlone, Bool.and_eq_true]
    split
    all_goals simp [State.setCtx, hempty]
  rw [← haccept]
  cases r with
  | direct c =>
    simp only [State.symAsk] at hask
    split at hask
    · rename_i hready
      simp only [Bool.and_eq_true, beq_iff_eq, Option.isNone_iff_eq_none] at hready
      obtain ⟨⟨hrun, hidle⟩, hname⟩ := hready
      cases hask
      simp only [State.symStart, hrun, hidle, hname, Option.isSome_none, Bool.not_true, Bool.false_eq_true, ne_eq,
        not_true_eq_false, if_false]
    · cases hask
  | job j =>
    simp only [State.symAsk] at hask
    split at hask
    · rename_i hready
      simp only [Bool.and_eq_true, beq_iff_eq] at hready
      obtain ⟨hjob, hname⟩ := hready
      cases hask
      simp only [State.symStart, State.symJobStart, hjob, hname, Bool.not_true, bne_self_eq_false, Bool.or_self,
        Bool.false_eq_true, if_false]
    · cases hask
  | vault e => cases hask
  | image => cases hask

/-- A command that is not refused as it begins runs. -/
theorem State.symStart_taken {w v : State} {x : SymRes} {kdf : Option VNew} {key : List Byte} (hw : w = u.symAlone r op blk a)
    (hbegin : w.symBegin op a (w.symWorks op a) = (x, kdf, key, v)) (hpass : symRefusal x.code = false) (hecc : x.ecc = false) :
    s.symStart op r = v.symTaken (u.symNew r op blk a) x kdf key := by
  subst hw
  have hlook := (u.symAlone r op blk a).lookOnly_symBegin op a ((u.symAlone r op blk a).symWorks op a)
  rw [hbegin] at hlook
  have htick : (u.symAlone r op blk a).tick = u.tick := by
    simp only [State.symAlone]
    split <;> rfl
  have hidle : (u.symAlone r op blk a).reqIdle r = false := by
    simp only [State.symFreeFor, Bool.and_eq_true, Bool.not_eq_true'] at hfree
    exact (State.reqIdle_congr htick r).trans hfree.2
  exact (State.symStart_ask hask hserves hfree).trans (State.symStates_taken (s := u.symAlone r op blk a)
    (o := u.symNew r op blk a) rfl rfl hidle rfl hbegin hpass hecc (congrArg Engines.sym hlook.eng) hlook.tick)

end

/-- The context in which a part of a message works, as the command finds it. -/
theorem State.symWorks_alone : (u.symAlone r op blk a).symWorks op a = u.symWorks op a := by
  simp only [State.symWorks]
  split
  · rename_i h
    simp only [State.symAlone, h.2, Bool.and_false, Bool.false_eq_true, if_false]
  · rfl

end

end Sys2Proof.Machine
/-! ## Commands of the symmetric engine (R399 to R408) -/

namespace Sys2Proof.Machine

/-- Each command asks the engine for its own operation. -/
theorem exec_symStart {r : EngReq} {i : Instr} {op : Nat}
    (h : (i, op) ∈ [(Instr.ecbEnc r, 1), (.ecbDec r, 2), (.cbcEnc r, 3), (.cbcDec r, 4), (.ctr r, 5), (.cmacGen r, 6),
      (.cmacChk r, 7), (.gcmEnc r, 8), (.gcmDec r, 9), (.sha256 r, 0x10), (.sha384 r, 0x11), (.sha512 r, 0x12),
      (.hmac256Gen r, 0x18), (.hmac384Gen r, 0x19), (.hmac512Gen r, 0x1A), (.hmac256Chk r, 0x1C), (.hmac384Chk r, 0x1D),
      (.hmac512Chk r, 0x1E), (.kdf r, 0x20)]) (s : State) : exec i s = .next (s.symStart op r) := by
  simp only [List.mem_cons, List.not_mem_nil, or_false, Prod.mk.injEq] at h
  rcases h with ⟨rfl, rfl⟩ | ⟨rfl, rfl⟩ | ⟨rfl, rfl⟩ | ⟨rfl, rfl⟩ | ⟨rfl, rfl⟩ | ⟨rfl, rfl⟩ | ⟨rfl, rfl⟩ | ⟨rfl, rfl⟩ | ⟨rfl, rfl⟩ |
    ⟨rfl, rfl⟩ | ⟨rfl, rfl⟩ | ⟨rfl, rfl⟩ | ⟨rfl, rfl⟩ | ⟨rfl, rfl⟩ | ⟨rfl, rfl⟩ | ⟨rfl, rfl⟩ | ⟨rfl, rfl⟩ | ⟨rfl, rfl⟩ | ⟨rfl, rfl⟩ <;> rfl

/-! ### What a command comes to -/

section
variable {w : State} {op : Nat} {a : SymArgs} (hbusy : w.symShelfBusy op a = false)
include hbusy

/-- A command of AES with a clear key (R403). -/
theorem State.symBegin_clear (haes : symAes op = true) (hsrc : a.ksrc = 1) (hlen : a.klen ≠ 3) {key : List Byte}
    (hkey : key = w.busBytes a.kadr.toNat (16 + 8 * a.klen.toNat)) (ctx : Option SymCtx) :
    w.symBegin op a ctx = ({ w.symCompute op a key ctx with key := none }, none, key, w) := by
  have hbound : 1 ≤ op ∧ op ≤ 9 := by simpa [symAes] using haes
  have hsha : symSha op = false := by
    simp only [symSha, Bool.and_eq_false_iff, decide_eq_false_iff_not]
    omega
  have hkdf : op ≠ 0x20 := by omega
  have hfound : w.symKey op a ctx = ({}, some key, w) := by
    rw [State.symKey, if_neg (by simp [hsha]), if_neg (fun h => hkdf h.1), if_pos hsrc, if_pos ⟨haes, hlen⟩, ← hkey]
  simp only [State.symBegin, hbusy, hfound, if_neg hkdf, Bool.false_eq_true, if_false]

/-- A hash has no key. -/
theorem State.symBegin_sha (hsha : symSha op = true) (ctx : Option SymCtx) :
    w.symBegin op a ctx = ({ w.symCompute op a [] ctx with key := none }, none, [], w) := by
  have hkdf : op ≠ 0x20 := by
    rintro rfl
    cases hsha
  have hfound : w.symKey op a ctx = ({}, some [], w) := by rw [State.symKey, if_pos hsha]
  simp only [State.symBegin, hbusy, hfound, if_neg hkdf, Bool.false_eq_true, if_false]

end

section
variable (w : State) (a : SymArgs) (key : List Byte) (ctx : Option SymCtx)

theorem State.symCompute_ecbEnc : w.symCompute 1 a key ctx =
    { out := [(a.dst.toNat, ecbEnc key (w.busBytes a.src.toNat a.len.toNat))] } := rfl

theorem State.symCompute_ecbDec : w.symCompute 2 a key ctx =
    { out := [(a.dst.toNat, ecbDec key (w.busBytes a.src.toNat a.len.toNat))] } := rfl

/-- The first part of a block mode starts from the block at PADR. -/
theorem State.symCompute_block {op : Nat} (hop : op = 3 ∨ op = 4 ∨ op = 5) : w.symCompute op a key none =
    { out := [(a.dst.toNat, (symBlockMode op key (w.busBytes a.padr.toNat 16) (w.busBytes a.src.toNat a.len.toNat)).1)],
      run := some (.block (symBlockMode op key (w.busBytes a.padr.toNat 16) (w.busBytes a.src.toNat a.len.toNat)).2) } := by
  rcases hop with rfl | rfl | rfl <;> rfl

/-- With a clear key the tag of GCM has 16 bytes (log entry 32). -/
theorem State.symCompute_gcmEnc (hsrc : a.ksrc = 1) {txt : List Byte}
    (htxt : txt = gcmText key (w.busBytes a.padr.toNat 12) (w.busBytes (a.src.toNat + a.aadlen.toNat) a.len.toNat)) :
    w.symCompute 8 a key ctx = { out := [(a.dst.toNat,
      txt ++ (gcmTag key (w.busBytes a.padr.toNat 12) (w.busBytes a.src.toNat a.aadlen.toNat) txt).take 16)] } := by
  subst htxt
  have htag : a.tagLen = 16 := if_pos hsrc
  simp only [State.symCompute, State.symGcm, htag]
  rfl

/-- A message hashed in one part. -/
theorem State.symCompute_sha {op : Nat} (hsha : symSha op = true) (hlast : a.last = true) : w.symCompute op a key none =
    { out := [(a.dst.toNat, (symHash op).digest (w.busBytes a.src.toNat a.len.toNat))] } := by
  have hbound : 0x10 ≤ op ∧ op ≤ 0x12 := by simpa [symSha] using hsha
  have hblock : ¬(op = 3 ∨ op = 4 ∨ op = 5) := by omega
  have hcmac : ¬(op = 6 ∨ op = 7) := by omega
  have hrun : w.symRun0 op a key none = .hash (symHash op).init 0 := by
    simp only [State.symRun0, if_neg hblock, if_neg hcmac, hsha, if_true]
  have hgcm : ¬(op = 8 ∨ op = 9) := by omega
  simp only [State.symCompute, if_neg (show ¬op ≤ 2 by omega), if_neg hgcm, if_neg (show op ≠ 0x20 by omega), hrun, State.symPart,
    hlast, hsha, if_true]
  rfl

end

theorem State.busBytes_symAlone (u : State) (r : EngReq) (op blk : Nat) (a : SymArgs) (i n : Nat) :
    (u.symAlone r op blk a).busBytes i n = u.busBytes i n := by
  simp only [State.symAlone]
  split <;> rfl

/-- A first part has claimed its context (R408). -/
theorem State.symCtxOf_symAlone (u : State) (r : EngReq) {op : Nat} (blk : Nat) {a : SymArgs} (hmulti : symMulti op = true)
    (hfirst : a.first = true) : symCtxOf ((u.symAlone r op blk a).eng.ctx.at (finOf 8 a.ctx.toNat)) r = true := by
  simp only [State.symAlone, hmulti, hfirst, Bool.and_self, if_true, State.setCtx, Tab.at_put_self, symCtxOf, decide_true]

/-! ### Its end (R406, R408) -/

section
variable {s : State} {c : CpuId}

section
variable {r : EngReq} {o : SymOp} (hof : s.symOf r = some o) (hhead : s.symHead.map SymOp.id = some o.id) (hends : o.ends = none)
  (hkdf : o.op ≠ 0x20)
include hof hhead hends hkdf

theorem State.symComplete_alone (hctx : o.ctx = none) :
    s.symComplete r = (o.out.foldl State.symPut s).symLeave o o.code 0 := by
  simp only [State.symComplete, hof, hhead, hends, hctx, if_neg hkdf, ne_eq, not_true_eq_false, if_false]

/-- The context of a command follows its end. -/
theorem State.symComplete_context {k : Option SymCtx} (hctx : o.ctx = some k) :
    s.symComplete r = ((o.out.foldl State.symPut s).setCtx (finOf 8 o.args.ctx.toNat) k).symLeave o o.code 0 := by
  simp only [State.symComplete, hof, hhead, hends, hctx, if_neg hkdf, ne_eq, not_true_eq_false, if_false]

end

theorem State.symAbort_busy (h : (s.symOf (.direct c)).isSome = true) :
    s.symAbort c = { s with eng := { s.eng with
      sym := s.eng.sym.map (fun o => if o.req = .direct c then { o with ends := some (o.ends.getD 6) } else o) } } := by
  simp only [State.symAbort, h, if_true]

theorem State.symAbort_context (hnone : s.symOf (.direct c) = none) {n : Fin 8}
    (hn : n = finOf 8 (symArgs (s.symWords (.direct c) 0)).2.ctx.toNat) (hctx : symCtxOf (s.eng.ctx.at n) (.direct c) = true) :
    s.symAbort c = s.setCtx n none := by
  subst hn
  simp only [State.symAbort, hnone, hctx, Option.isSome_none, Bool.false_eq_true, if_false, if_true]

end

/-- Settles O49: a command alone in the engine begins at once, and what it comes to is what its mode, its key and its operands
give. -/
theorem symCommandsAct : Obligations.SymCommandsAct := by
  unfold Obligations.SymCommandsAct
  refine ⟨?begins, fun s c => ⟨?complete, ?abort, ?context⟩⟩
  case begins =>
    intro s u w r op blk a clean i n ctx hask hserves hfree hw hn hctx hi
    have hworks : w.symWorks op a = ctx := by
      subst hw hn hctx
      exact State.symWorks_alone
    /- A command that is not refused as it begins. -/
    have htaken {x : SymRes} {kdf : Option VNew} {key : List Byte} {v : State} (hbegin : w.symBegin op a ctx = (x, kdf, key, v))
        (hpass : symRefusal x.code = false) (hecc : x.ecc = false) :
        exec i s = .next (v.symTaken (u.symNew r op blk a) x kdf key) :=
      (exec_symStart hi s).trans (congrArg _ (State.symStart_taken hask hserves hfree hw (hworks.symm ▸ hbegin) hpass hecc))
    /- A command whose one output is `l`. -/
    have hvalue {x : SymRes} {key l : List Byte} (hbegin : w.symBegin op a ctx = ({ x with key := none }, none, key, w))
        (hcode : x.code = 0) (hecc : x.ecc = false) (hout : x.out = [(a.dst.toNat, l)]) :
        ∃ (t : State) (o : SymOp), exec i s = .next t ∧ t.eng.sym = [o] ∧ o.req = r ∧ o.op = op ∧ o.started = true ∧ o.code = 0 ∧
          o.out = [(a.dst.toNat, l)] :=
      ⟨_, _, htaken hbegin (by rw [hcode]; rfl) hecc, rfl, rfl, rfl, rfl, hcode, hout⟩
    have hbytes (k m : Nat) : w.busBytes k m = u.busBytes k m := hw ▸ u.busBytes_symAlone r op blk a k m
    refine ⟨?taken, ?clear, ?sha⟩
    case taken =>
      intro x kdf key v hbegin hpass hecc
      have hlook := w.lookOnly_symBegin op a ctx
      rw [hbegin] at hlook
      refine ⟨_, _, htaken hbegin hpass hecc, rfl, rfl, rfl, rfl, rfl, rfl, rfl, rfl, rfl, State.symTaken_mem _ _ _ _ _, rfl, ?_, ?_⟩
      · intro hmulti hfirst
        rw [State.symTaken_ctx, hlook.eng, hw, hn]
        exact u.symCtxOf_symAlone r blk hmulti hfirst
      · intro hsha hsecret
        have hmask : (u.symNew r op blk a).vaultKey = true ∨ (u.symNew r op blk a).op = 0x20 := by
          simpa [SymOp.vaultKey, State.symNew, hsha] using hsecret
        refine ⟨_, ?_, v.sched_symMasks op a key⟩
        simp only [SymOp.begun, State.symMasked, if_pos hmask]
        rfl
    case clear =>
      intro key msg hsrc hlen hbusy hkey hmsg l hl
      have hfound (haes : symAes op = true) :=
        State.symBegin_clear hbusy haes hsrc hlen (hkey.trans (hbytes _ _).symm) ctx
      /- The first part of a block mode. -/
      have hblock (hop : op = 3 ∨ op = 4 ∨ op = 5) (hfirst : a.first = true)
          (hl : l = (symBlockMode op key (u.busBytes a.padr.toNat 16) msg).1) :
          (w.symCompute op a key ctx).code = 0 ∧ (w.symCompute op a key ctx).ecc = false ∧
            (w.symCompute op a key ctx).out = [(a.dst.toNat, l)] := by
        rw [show ctx = none by rw [hctx, hfirst]; simp, State.symCompute_block w a key hop, hl, hmsg, hbytes, hbytes]
        exact ⟨rfl, rfl, rfl⟩
      rcases hl with ⟨rfl, rfl⟩ | ⟨rfl, rfl⟩ | ⟨rfl, hfirst, rfl⟩ | ⟨rfl, hfirst, rfl⟩ | ⟨rfl, hfirst, rfl⟩ |
        ⟨rfl, non, aad, txt, tag, rfl, rfl, htxt, htag, rfl⟩
      · exact hvalue (hfound rfl) rfl rfl (by rw [State.symCompute_ecbEnc, hbytes, hmsg])
      · exact hvalue (hfound rfl) rfl rfl (by rw [State.symCompute_ecbDec, hbytes, hmsg])
      · obtain ⟨hcode, hecc, hout⟩ := hblock (by omega) hfirst rfl
        exact hvalue (hfound rfl) hcode hecc hout
      · obtain ⟨hcode, hecc, hout⟩ := hblock (by omega) hfirst rfl
        exact hvalue (hfound rfl) hcode hecc hout
      · obtain ⟨hcode, hecc, hout⟩ := hblock (by omega) hfirst rfl
        exact hvalue (hfound rfl) hcode hecc hout
      · have hres := State.symCompute_gcmEnc w a key ctx hsrc rfl
        simp only [hbytes, ← htxt, ← htag] at hres
        exact hvalue (hfound rfl) (by rw [hres]) (by rw [hres]) (by rw [hres])
    case sha =>
      intro hsha hfirst hlast hbusy
      have hnone : ctx = none := by rw [hctx, hfirst]; simp
      have hbegin := State.symBegin_sha hbusy hsha ctx
      rw [hnone] at hbegin
      have hres := State.symCompute_sha w a [] hsha hlast
      rw [hbytes] at hres
      subst hnone
      exact hvalue hbegin (by rw [hres]) (by rw [hres]) (by rw [hres])
  case complete =>
    rintro r o w hof hhead hends hkdf rfl
    cases hctx : o.ctx with
    | none => exact congrArg Host.Outcome.next (State.symComplete_alone hof hhead hends hkdf hctx)
    | some k => exact congrArg Host.Outcome.next (State.symComplete_context hof hhead hends hkdf hctx)
  case abort => exact fun t hrun ht hbusy => State.next_byCore hrun ht (State.symAbort_busy hbusy)
  case context => exact fun t n hrun ht hnone hn hctx => State.next_byCore hrun ht (State.symAbort_context hnone hn hctx)

end Sys2Proof.Machine
